-- ==== Sys2Proof/Word.lean ====
section
/-!
DEFINITION. Sys2Proof/Word.lean: the word types of the block. A register holds at most 64 bits (R70),
memory is addressed by the byte (R8).
-/
namespace Sys2Proof

/-- What a register of a page holds; a 32-bit register uses bits [31:0]. -/
abbrev Word := BitVec 64

/-- One byte of memory. -/
abbrev Byte := BitVec 8

end Sys2Proof
end

