-- ==== Sys2Proof/Syntax.lean ====
section
/-!
DEFINITION. Sys2Proof/Syntax.lean: the commands of the block, one constructor of `Instr` per row of the table of
operations and events, with what the row's step is given from outside.
-/
namespace Sys2Proof

/-- The block types of R53 and the VI views of R73. -/
inductive Block where
  | index
  | resetKs
  | option
  | cadence
  | sensor
  | mechanic
  | pmbus
  | mgmtPort
  | xspiBoot
  | xspiRetain
  | saddlebag
  | cyclometer
  | msiRoute
  | debug
  | timeBase
  | timeCounter
  | timeTrigger
  | timeAgent
  | keyVault
  | frameAuth
  | dram
  | switch
  | switchPort
  | qos
  | lane
  | phyCopper
  | serdes
  | tandemLane
  | spoke
  | axle
  | svIngest
  | filter
  | detector
  | capture
  | coaster
  | tripIo
  | peloton
  | pelotonFlow
  | pannier
  | viCtrl
  | derailleur
  | dirtyLog
  | devXlate
  | crank
  | crankTask
  | hartCluster
  | viIndex
  | pelotonView
  | flowView
  | sampleView
  | egressView
  | captureView
  | keyView
  | crankView
  | timerView
  | counterView
  | viewReserved
  deriving DecidableEq, Repr

/-- Who issues an access (R57): the 7-bit initiator identity, and for a hart with V = 1 the VI it runs. -/
structure Who where
  ini : Nat
  vi : Option Nat
  deriving DecidableEq, Repr

/-- One write of a CMD register (R62), or one command of the start-up loader. `view` names the VI page group in which
the CMD register lies, if it does not lie in a die's own control space. -/
structure Cmd where
  die : Nat
  cluster : Nat
  view : Option Nat
  sub : Nat
  argument : Nat
  who : Who
  deriving DecidableEq, Repr

/-- One read or write of a register (R62, R70): the page, the offset, a 64-bit or a 32-bit access, and the value
written. -/
structure Access where
  die : Nat
  blk : Block
  cluster : Nat
  view : Option Nat
  off : Nat
  wide : Bool
  value : Nat
  who : Who
  deriving DecidableEq, Repr

/-- An IEEE 802.1Q C-tag (R125). -/
structure VTag where
  pcp : Nat
  dei : Bool
  vid : Nat
  deriving DecidableEq, Repr

/-- A PRP redundancy control trailer or an HSR tag (R171): sequence number, LAN (0 A, 1 B), and which of the two. -/
structure RedTag where
  seq : Nat
  lan : Nat
  hsr : Bool
  deriving DecidableEq, Repr

/-- One ASDU of a sampled-value frame as IEC 61850-9-2 decodes it (R197): a value and a quality word per channel. -/
structure Asdu where
  svId : List Byte
  smpCnt : Nat
  confRev : Nat
  smpSynch : Nat
  values : List Int
  quality : List Nat
  deriving DecidableEq, Repr

/-- What a frame carries, as the standard of its Ethertype decodes it. The standards' own decoding lies outside the
manual (R5); the decoded content travels beside the frame's bytes. -/
inductive Content where
  | other
  /-- A sampled-value frame: it parses, the simulation bit, the ASDUs. -/
  | sv (parses simulation : Bool) (asdus : List Asdu)
  /-- A GOOSE frame: stNum, sqNum, and its data entries as 32-bit words. -/
  | goose (stNum sqNum : Nat) (data : List Nat)
  /-- An IEEE 1588 Announce: grandmaster identity, quality words of R190. -/
  | announce (gm qual misc : Nat)
  /-- Another PTP message: an event message or not, and its correctionField in units of 2^-16 ns (R101). -/
  | ptp (event : Bool) (correction : Int)
  | lldp
  /-- A PRP or HSR supervision frame for a node (R179). -/
  | supervision (mac lan : Nat)
  /-- A Tandem beacon or state-frame segment, by its bytes. -/
  | tandem
  deriving DecidableEq, Repr

/-- The security extension of a frame as IEC 62351-6 lays it out (R491): key identifier, the AES-GMAC initialisation
vector, and the MAC value. -/
structure SecExt where
  keyId : Nat
  iv : List Byte
  mac : List Byte
  deriving DecidableEq, Repr

/-- An Ethernet frame without trailer or ring tag (R171): addresses, C-tag, Ethertype, APPID where it has one, the
redundancy tag that the lane logic removed, its length in bytes with the FCS, its bytes from the destination address
on, whether its FCS or its coding is bad, and its security extension. -/
structure Frame where
  dst : Nat
  src : Nat
  tag : Option VTag
  etype : Nat
  appid : Nat
  red : Option RedTag
  len : Nat
  bytes : List Byte
  fcsBad : Bool
  symbolErr : Bool
  sec : Option SecExt
  content : Content
  deriving DecidableEq, Repr

/-- One frame of IRIG-B with its IEEE 1344 fields (R98, R99): the second it labels in UTC since the epoch, the
leap-second warning with its sign, the UTC midnight that ends the announced day, and the time quality. -/
structure Irig where
  utcSec : Nat
  leap : Bool
  leapDelete : Bool
  dayEnd : Nat
  quality : Nat
  deriving DecidableEq, Repr


/-- A request on the management port (R564): its sender's MAC address, session, sequence, payload, and the tag where
it carries one; `wellFormed` says that the header's length agrees with the message and lies within 1,400. -/
structure MgReq where
  src : Nat
  session : Nat
  seq : Nat
  wellFormed : Bool
  payload : List Byte
  tag : List Byte
  deriving DecidableEq, Repr

/-- What the PMBus reads of a rail entry at a sensor sweep (R550): READ_VOUT in 0.1 mV, READ_IOUT in mA, READ_TEMPERATURE_1
in 0.1 °C, STATUS_WORD, and whether VOUT_MODE reads linear16. -/
structure RailSample where
  entry : Nat
  vout : Nat
  iout : Nat
  temp : Int
  status : Nat
  linear16 : Bool
  deriving DecidableEq, Repr

/-- An engine's read of VI memory (R315, R612): the VI and its guest page, and the engine by the rows of R315 from 0, its
die, its index there and its destination. -/
structure EngineRead where
  vi : Nat
  page : Nat
  engine : Nat
  die : Nat
  index : Nat
  dest : Nat
  deriving DecidableEq, Repr

/-- What a port's link shows as it comes up (R184, R185): for how many µs its lock or link pass has held, the partner's ability
word where autonegotiation is complete, and on copper whether it runs at 1000 Mbit/s and crosses its pairs. -/
structure LinkSeen where
  held : Nat
  ability : Option Nat
  gigabit : Bool
  mdix : Bool
  deriving DecidableEq, Repr

/-- A link that goes (R184): its port, for how many µs its signal, lock or link pass has been lost, and whether the partner
reports a remote fault. -/
structure LinkGone where
  port : Nat
  lost : Nat
  remote : Bool
  deriving DecidableEq, Repr

/-- What a hub reads of a cage (R187, R193): the module's bytes, and its pins LOS (bit 0) and TX_FAULT (bit 1). -/
structure CageRead where
  bytes : List Byte
  pins : Nat
  deriving DecidableEq, Repr

/-- The commands of the block: one constructor per row of the specification's table of operations and events. -/
inductive Instr where
  /-- NOP, R66. Command 0x00 that returns DONE and reports the page's current sequence number. -/
  | nop (b : Block) (c : Cmd)
  /-- EVENT_TEST, R66. Command 0x01 that sets the EVENT bit named by SUB as a hardware set would, to test the interrupt path. -/
  | eventTest (b : Block) (c : Cmd)
  /-- EVENT_W1C_WRITE, R67. A W1C write to EVENT clears the bits that are 1 both in the value and in EVENT at its arbitration point. -/
  | eventW1cWrite (a : Access)
  /-- EVENT_EN_WRITE, R69. A write of EVENT_EN that enables an already-set bit raises an interrupt; disabling withdraws nothing. -/
  | eventEnWrite (a : Access)
  /-- READ_CLEAR_READ, R10. A read of an RC register such as SET_AGAIN, DENY_INFO or CAD_LOW returns the value and then clears it. -/
  | readClearRead (a : Access)
  /-- PAGE_LOCK_WRITE, R72. Writing 1 to PAGE_LOCK freezes every RWL field of the page until a reset of die reach. -/
  | pageLockWrite (a : Access)
  /-- LOW_WORD_READ, R70. A 32-bit low-word read of a 64-bit register latches the high word in the initiator's banked latch. -/
  | lowWordRead (a : Access)
  /-- LOW_WORD_WRITE, R71. A 32-bit low-word write to a 64-bit register is held in the initiator's latch until the high word is written. -/
  | lowWordWrite (a : Access)
  /-- HIGH_WORD_WRITE, R71. A high-word write to a 64-bit register makes the whole value take effect, with the latched or standing low word. -/
  | highWordWrite (a : Access)
  /-- REGISTER_WRITE, R60. A write to a register without a row of its own updates the field and LAST_WRITE_STAMP, WRITE_ORDER and LAST_WRITER. -/
  | registerWrite (a : Access)
  /-- MSI_RECEIVE, R309. An MSI write reaches an IMSIC interrupt file and is accepted for identities 1-255 or discarded. -/
  | msiReceive
  /-- FLIT_HANDSHAKE_FAIL, R21. A Spoke or the Axle fails a flit handshake and retrains, resending unacknowledged flits in order. -/
  | flitHandshakeFail (die inst : Nat) (axle : Bool) (unackedHere unackedThere : Nat)
  /-- LINK_RETRAIN_DONE, R21. A retrain of a Spoke or the Axle ends and the link returns to UP or counts a failed retrain. -/
  | linkRetrainDone (die inst : Nat) (axle : Bool) (up : Bool)
  /-- LINK_INITIAL_TRAIN, R24. A link trains by itself at the release of its domain once both ends are in RUN. -/
  | linkInitialTrain (die inst : Nat) (axle : Bool)
  /-- LINK_RESTORE, R24. Command 0x10 that trains a down Spoke or Axle selected by SEL. -/
  | linkRestore (axle : Bool) (c : Cmd)
  /-- LINK_RESTORE_DONE, R24. LINK_RESTORE ends with DONE when the link is UP, or TIMEOUT after three failed trainings within 1 ms. -/
  | linkRestoreDone (die inst : Nat) (axle : Bool) (up : Bool)
  /-- LINK_CLEAR_COUNTERS, R24. SPOKE and AXLE command 0x11 that clears the counters of one link or all. -/
  | linkClearCounters (axle : Bool) (c : Cmd)
  /-- CADENCE_MEASUREMENT, R39. Every 10 us each Cadence monitor measures its handshake rate and the die index is updated. -/
  | cadenceMeasurement (die : Nat) (values : List Nat)
  /-- OUT_OF_GUARANTEE, R41. The die goes out of guarantee when the below-floor condition has lasted 1 ms and the latest VDD_CORE sample is at or above 0.875 V. -/
  | outOfGuarantee (die : Nat)
  /-- HANDSHAKE_TIMEOUT, R43. A handshake monitor exceeding LCK_BOUND raises LCK on the smallest domain set holding both ends and writes a record. -/
  | handshakeTimeout (die channel domA domB : Nat)
  /-- TIME_SYNC_EXCHANGE, R85. A time-sync exchange every 1 us over a Spoke or the Axle measures the round trip and disciplines the counter. -/
  | timeSyncExchange (die hub rtt : Nat)
  /-- SYNC_EXCHANGE_LOSS, R86. Missing three exchanges from the master makes hub B master in HOLDOVER or moves a compute die to the other hub. -/
  | syncExchangeLoss (die : Nat)
  /-- COUNTER_SET_FROM_HUB, R87. A compute die's counter is set from its hub within 10 us of its TIME release when the master is valid. -/
  | counterSetFromHub (die : Nat)
  /-- OFFSET_IN_DELIVERY, R94. The high-word write of OFFSET_IN delivers one PTP_LOCAL offset to the servo. -/
  | offsetInDelivery (a : Access)
  /-- SLEW_END, R90. The slew of a refused step ends, SLEWING clears and the servo resumes. -/
  | slewEnd (hub : Nat)
  /-- STEP_TAKES_EFFECT, R91. A step acts on every counter of the package at one instant, adding or running at half rate. -/
  | stepTakesEffect
  /-- PPS_IN_EDGE, R98. A rising PPS_IN edge is stamped and, with valid IRIG-B, yields a PPS_LOCAL offset. -/
  | ppsInEdge (hub : Nat)
  /-- IRIG_B_FRAME, R98. An IRIG-B frame is decoded to label the second, with IEEE 1344 fields, or sets IRIG_ERROR. -/
  | irigBFrame (hub : Nat) (frame : Option Irig) (markError : Bool)
  /-- LEAP_SECOND_APPLY, R99. At the UTC midnight ending an announced day, UTC_OFFSET changes by one. -/
  | leapSecondApply (hub : Nat)
  /-- REF_TIMEOUT_EXPIRY, R92. An input with no offset for REF_TIMEOUT becomes invalid and the servo selects another input or enters HOLDOVER. -/
  | refTimeoutExpiry (hub input : Nat)
  /-- SET_TIME, R93. TIME_BASE command 0x10 that sets every counter of the package from SET_SEC and SET_NS. -/
  | setTime (c : Cmd)
  /-- STEP, R91. TIME_BASE command 0x11 that steps every counter by STEP_AMOUNT at least 10 us after the grant. -/
  | step (c : Cmd)
  /-- SELECT_REF, R93. TIME_BASE command 0x12 that releases a HOLD and selects again under SRC_PRIO. -/
  | selectRef (c : Cmd)
  /-- HOLD, R93. TIME_BASE command 0x13 that enters HOLDOVER and stays there until SELECT_REF. -/
  | hold (c : Cmd)
  /-- TAKE_MASTER, R619. TIME_BASE command 0x14 that makes this hub the package time master. -/
  | takeMaster (c : Cmd)
  /-- TAKE_MASTER_DONE, R619. The mastership handover ends; the new master takes its partner's servo state and the partner enters FOLLOW, or it aborts. -/
  | takeMasterDone (hub : Nat)
  /-- RESET_SERVO, R93. TIME_BASE command 0x15 that clears the integrators of all four inputs. -/
  | resetServo (c : Cmd)
  /-- TIME_SNAPSHOT_READ, R94. A low-word read of TIME_SEC snapshots TIME_SEC, TIME_NS and TIME_FRAC for the reader. -/
  | timeSnapshotRead (a : Access)
  /-- STAMP_READ, R113. A low-word read of STAMP by a hart of the die takes a stamp under that hart's source. -/
  | stampRead (a : Access)
  /-- PTP_MESSAGE_RX, R100. A PTP message reaches the time agent, which runs its clock and may write an offset. -/
  | ptpMessageRx (hub port portState delay : Nat) (parent : Option Nat) (clockClass version : Nat) (offset : Option Int)
  /-- TRG_ARM, R117. TIME_TRIGGER or TIMER_VIEW command 0x10 that checks and arms a trigger. -/
  | trgArm (c : Cmd)
  /-- TRG_DISARM, R117. TIME_TRIGGER or TIMER_VIEW command 0x11 that returns an armed trigger to IDLE. -/
  | trgDisarm (c : Cmd)
  /-- TRIGGER_FIRING, R116. A trigger reaches its instant and sends its firing with its CTS to its target. -/
  | triggerFiring (hub t : Nat)
  /-- TRIGGER_PULSE_END, R116. A pin pulse ends when the hub counter reaches the firing's CTS plus TRG_WIDTH. -/
  | triggerPulseEnd (hub t : Nat)
  /-- TRIGGER_ARMED_WRITE, R116. A write of TRG_PERIOD, TRG_WIDTH or TRG_RATE while armed takes effect from the next firing or is ignored with BAD_WRITE. -/
  | triggerArmedWrite (a : Access)
  /-- FRAME_INGRESS, R126. A frame received on a switch port is checked, looked up, classed, policed and admitted to its egress queues. -/
  | frameIngress (hub port : Nat) (frame : Frame) (mask cls : Nat)
  /-- CROSSBAR_SLOT, R135. In each slot the scheduler matches ingress to egress ports in three request-grant-accept iterations and moves one cell each. -/
  | crossbarSlot (hub : Nat)
  /-- SAMPLER_RECORD, R158. A sampler record arriving at P15 is written into the sample ring, or dropped when the ring is full. -/
  | samplerRecord (hub : Nat)
  /-- MAC_AGE_OUT, R128. A dynamic MAC entry not seen for SW_AGE seconds is removed. -/
  | macAgeOut (hub idx : Nat)
  /-- GATE_LIST_ADVANCE, R139. The operational gate control list of a port moves to its next entry at the end of an interval. -/
  | gateListAdvance (hub port : Nat)
  /-- QBV_CONFIG_CHANGE, R141. At the config change time the pending gate list becomes operational and QBV_CHANGED is set. -/
  | qbvConfigChange (hub port : Nat)
  /-- PORT_DOWN, R160. A port going down stamps DOWN_STAMP, flushes its VOQs and cuts off the frame being sent. -/
  | portDown (hub port : Nat)
  /-- PORT_FLUSH_DONE, R160. The flush of a downed port ends and FLUSHING clears. -/
  | portFlushDone (hub port : Nat)
  /-- PORT_LINK_RETURN, R162. A returning link puts the port in HOLD. -/
  | portLinkReturn (hub port : Nat)
  /-- PORT_HOLD_UP_EXPIRY, R162. After PORT_HOLD_UP ms of stable link the port becomes UP and UP_STAMP is taken. -/
  | portHoldUpExpiry (hub port : Nat)
  /-- P13_SEND_CHECK, R153. A send arriving at P13 is checked for owner, tokens and TIMED release, gated and forwarded. -/
  | p13SendCheck (hub : Nat)
  /-- TOKEN_BUCKET_REFILL, R335. Every 1 us a VI's egress bucket gains tokens and waiting sends that now have enough leave. -/
  | tokenBucketRefill (hub vi : Nat)
  /-- TBL_READ, R165. SWITCH command 0x10 that reads a table entry into TBL_DATA0-3. -/
  | tblRead (c : Cmd)
  /-- TBL_WRITE, R165. SWITCH command 0x11 that writes TBL_DATA0-3 into a table entry. -/
  | tblWrite (c : Cmd)
  /-- MAC_SEARCH, R165. SWITCH command 0x12 that finds a (MAC, FID) entry and loads TBL_INDEX. -/
  | macSearch (c : Cmd)
  /-- MAC_FLUSH, R165. SWITCH command 0x13 that removes dynamic MAC entries, all or by port or FID. -/
  | macFlush (c : Cmd)
  /-- SWITCH_CLEAR_COUNTERS, R165. SWITCH command 0x14 that clears the counters of one port or of all ports and meters. -/
  | switchClearCounters (c : Cmd)
  /-- SESSION_START, R165. SWITCH command 0x15 that starts the sampler or mirror session chosen by SEL. -/
  | sessionStart (c : Cmd)
  /-- SESSION_STOP, R165. SWITCH command 0x16 that stops the sampler or mirror session chosen by SEL. -/
  | sessionStop (c : Cmd)
  /-- QBV_COMMIT, R141. SWITCH_PORT command 0x10 that copies the admin gate list to a pending set. -/
  | qbvCommit (c : Cmd)
  /-- Q_RSV_WRITE, R133. A write of Q_RSV is applied or ignored with RSV_REFUSED when reserves would exceed the limit. -/
  | qRsvWrite (a : Access)
  /-- EG_SEND, R156. EGRESS_VIEW command 0x10 that hands a guest frame buffer to the egress engine for a publication entry. -/
  | egSend (c : Cmd)
  /-- EGRESS_CLEAR_COUNTERS, R156. EGRESS_VIEW command 0x11 that clears EG_SENT and EG_FAULT. -/
  | egressClearCounters (c : Cmd)
  /-- EG_BUFFER_READ, R156. The egress engine finishes reading a send's buffer through translation and sends one copy over each Spoke. -/
  | egBufferRead (die : Nat)
  /-- ENTRY_FORGET_EXPIRY, R176. A node entry that accepted nothing for ENTRY_FORGET has its window cleared. -/
  | entryForgetExpiry (hub idx : Nat)
  /-- NODE_FORGET_EXPIRY, R176. A dynamic node entry with no frame on either lane for NODE_FORGET is removed. -/
  | nodeForgetExpiry (hub idx : Nat)
  /-- SUPERVISION_SEND, R179. Every SUP_INTERVAL a hub sends a PRP or HSR supervision frame on both lanes. -/
  | supervisionSend (hub : Nat)
  /-- HUB_LOST_REHOME, R182. A hub judging the other lost becomes SOLE, rehomes every stream and node and replays its shadow ring. -/
  | hubLostRehome (hub : Nat)
  /-- REHOME, R183. LANE command 0x14 that schedules a planned move of streams to this hub at REHOME_AT. -/
  | rehome (c : Cmd)
  /-- REHOME_WARM_START, R183. At T - REHOME_WARM the new home starts running the stream's filter slots on both copies without writing. -/
  | rehomeWarmStart (hub : Nat)
  /-- REHOME_CUT, R183. At T the new home starts writing the stream's samples and REHOME ends with DONE. -/
  | rehomeCut (hub : Nat)
  /-- LINK_SIGNAL_UP, R184. A port in SEARCH holding lock or link pass for LOS_FILTER enters UP. -/
  | linkSignalUp (hub port : Nat) (seen : LinkSeen)
  /-- LINK_SIGNAL_LOSS, R184. A port in UP losing signal, lock or link pass for LOS_FILTER, or seeing remote fault, returns to SEARCH or FAULT. -/
  | linkSignalLoss (hub : Nat) (gone : LinkGone)
  /-- LP_CFG_WRITE, R184. A write of LP_CFG.ENABLE moves the port link state between OFF and SEARCH. -/
  | lpCfgWrite (a : Access)
  /-- NODE_READ, R191. LANE command 0x10 that reads a node entry into NODE_DATA. -/
  | nodeRead (c : Cmd)
  /-- NODE_WRITE, R191. LANE command 0x11 that writes NODE_DATA into the bucket of its MAC. -/
  | nodeWrite (c : Cmd)
  /-- NODE_SEARCH, R191. LANE command 0x12 that finds a node by MAC. -/
  | nodeSearch (c : Cmd)
  /-- NODE_FLUSH, R191. LANE command 0x13 that removes the dynamic node entries. -/
  | nodeFlush (c : Cmd)
  /-- LINK_RESTART, R191. LANE command 0x15 that moves a port from FAULT to SEARCH. -/
  | linkRestart (c : Cmd)
  /-- LANE_CLEAR_COUNTERS, R191. LANE command 0x16 that clears the counters of a port or all. -/
  | laneClearCounters (c : Cmd)
  /-- TDR_RUN, R186. PHY_COPPER command 0x10 that starts a cable measurement on the selected copper port. -/
  | tdrRun (c : Cmd)
  /-- TDR_DONE, R186. The TDR measurement ends, results are loaded and the link returns to SEARCH if enabled. -/
  | tdrDone (hub inst : Nat) (pairs : List (Nat × Nat))
  /-- SFP_INSERTION, R187. An SFP module is inserted and its A0h bytes 0-95 are captured. -/
  | sfpInsertion (hub port : Nat) (id : CageRead)
  /-- DDM_POLL, R187. Every DDM_PERIOD the hub reads the SFP diagnostics of each occupied cage. -/
  | ddmPoll (hub port : Nat) (diag : CageRead) (flags : List Byte)
  /-- SD_CFG_WRITE, R193. A write of SD_CFG with an unsupported speed or FEC is ignored and sets BAD_MODE. -/
  | sdCfgWrite (a : Access)
  /-- SV_COPY_INGEST, R195. A copy of an SV frame at P14 is matched, authenticated, checked, reconstructed, filtered and written to its rings. -/
  | svCopyIngest (hub : Nat)
  /-- STREAM_STALE, R214. A stream with nothing accepted for ST_STALE enters STALE. -/
  | streamStale (hub i : Nat)
  /-- ST_ENABLE, R216. SV_INGEST command 0x10 that loads the staged stream entry and initialises its rings. -/
  | stEnable (c : Cmd)
  /-- ST_DISABLE, R216. SV_INGEST command 0x11 that stops the stream. -/
  | stDisable (c : Cmd)
  /-- ST_TUNE, R215. SV_INGEST command 0x12 that loads the tunable timing and policy fields. -/
  | stTune (c : Cmd)
  /-- INGEST_CLEAR_COUNTERS, R216. SV_INGEST command 0x13 that clears a stream's counters or all. -/
  | ingestClearCounters (c : Cmd)
  /-- DEST_RESTART, R216. SV_INGEST command 0x14 that resumes a faulted stream destination. -/
  | destRestart (c : Cmd)
  /-- FILTER_BATCH_VISIT, R225. A released batch is visited by its lanes, running step detection, filter and detectors per sample. -/
  | filterBatchVisit (hub stream : Nat)
  /-- DETECTOR_PRESENTATION, R250. A detector presentation reaches a hub's Coaster and capture engine, which evaluate zones and level triggers. -/
  | detectorPresentation (hub : Nat)
  /-- PROFILE_LOAD, R235. FILTER command 0x10 that loads a staged filter profile. -/
  | profileLoad (c : Cmd)
  /-- FS_ASSIGN, R235. FILTER command 0x11 that gives a stream the profile in FS_PROFILE. -/
  | fsAssign (c : Cmd)
  /-- FILTER_CLEAR_COUNTERS, R255. FILTER command 0x12 that clears a stream's counters or all. -/
  | filterClearCounters (c : Cmd)
  /-- DET_ENABLE, R259. DETECTOR command 0x10 that loads the staged detector and restarts its windows. -/
  | detEnable (c : Cmd)
  /-- DET_DISABLE, R259. DETECTOR command 0x11 that stops presenting and zeroes outputs. -/
  | detDisable (c : Cmd)
  /-- DET_TUNE, R259. DETECTOR command 0x12 that loads the four thresholds. -/
  | detTune (c : Cmd)
  /-- DET_DEST_RESTART, R259. DETECTOR command 0x13 that resumes a faulted detector destination. -/
  | detDestRestart (c : Cmd)
  /-- DET_CLEAR_COUNTERS, R259. DETECTOR command 0x14 that clears DET_PICKUPS of one detector or all. -/
  | detClearCounters (c : Cmd)
  /-- PELOTON_OFFER, R268. An engine offer reaching a slice is checked and admitted to the delay list, a slot or the Pannier, or refused. -/
  | pelotonOffer
  /-- PANNIER_SPILL_WRITE, R277. A posted spill is written to the Pannier in the background. -/
  | pannierSpillWrite (die : Nat)
  /-- PANNIER_REFILL, R279. A freed on-die slot is refilled from the earliest Pannier bucket. -/
  | pannierRefill (die : Nat)
  /-- PANNIER_WALK, R294. The Pannier walk turns an aborted VI's entries into placeholders and ends with WALK_DONE. -/
  | pannierWalk (die : Nat)
  /-- PELOTON_TICK, R272. A tick firing moves due delayed items to READY. -/
  | pelotonTick (die : Nat)
  /-- PELOTON_LOCAL_TICK, R273. With no firing for 2 x PEL_TICK the slice makes its own tick and sets LOCAL_TICK. -/
  | pelotonLocalTick (die : Nat)
  /-- TAKE_START, R282. A hart's read of TAKE starts a take that stays outstanding until it ends. -/
  | takeStart (a : Access)
  /-- TAKE_TIMEOUT, R283. A take with no item for TAKE_CTL.TIMEOUT ends with NONE_TIMEOUT. -/
  | takeTimeout (die ini : Nat)
  /-- TAKE_IRQ_END, R285. An interrupt becoming pending for a waiting hart ends its take with NONE_IRQ. -/
  | takeIrqEnd (die ini : Nat)
  /-- PEL_START, R296. PELOTON command 0x10 that loads the Pannier settings and enters RUN. -/
  | pelStart (c : Cmd)
  /-- POST, R296. PELOTON command 0x11 that admits POST_D0-D3 as a SOFT item. -/
  | post (c : Cmd)
  /-- COMPLETE, R287. PELOTON command 0x12 that completes a TAKEN item with an action and releases in order. -/
  | complete (c : Cmd)
  /-- PELOTON_CLEAR_COUNTERS, R296. PELOTON command 0x13 that clears a VI's counters or all. -/
  | pelotonClearCounters (c : Cmd)
  /-- FLOW_HOLD_EXPIRY, R291. A blocking item whose deadline is more than FLOW_HOLD in the past is skipped as a placeholder. -/
  | flowHoldExpiry (die flow : Nat)
  /-- FLOW_ENABLE, R303. PELOTON_FLOW command 0x10 that loads the staged flow and zeroes NEXT. -/
  | flowEnable (c : Cmd)
  /-- FLOW_DISABLE, R303. PELOTON_FLOW command 0x11 that stops the flow. -/
  | flowDisable (c : Cmd)
  /-- FLOW_SKIP, R303. PELOTON_FLOW command 0x12 that skips the blocking item at once. -/
  | flowSkip (c : Cmd)
  /-- RING_RESTART, R303. PELOTON_FLOW command 0x13 that resumes a faulted flow ring. -/
  | ringRestart (c : Cmd)
  /-- FLOW_CLEAR_COUNTERS, R303. PELOTON_FLOW command 0x14 that clears a flow's counters or all. -/
  | flowClearCounters (c : Cmd)
  /-- HART_START, R345. HART_CLUSTER command 0x10 that starts a halted hart at HC_RESET_VEC. -/
  | hartStart (c : Cmd)
  /-- HART_STOP, R345. HART_CLUSTER command 0x11 that resets a hart alone and halts it. -/
  | hartStop (c : Cmd)
  /-- XLATE_WALK_DONE, R317. A device-side translation walk ends with a cached translation or a fault. -/
  | xlateWalkDone (die : Nat)
  /-- XLATE_INVAL, R318. DEV_XLATE command 0x10 that drops a VI's translations in a range. -/
  | xlateInval (c : Cmd)
  /-- XLATE_INVAL_DONE, R318. The invalidation ends with DONE and no access uses a dropped translation. -/
  | xlateInvalDone (die : Nat)
  /-- RX_ENABLE, R323. DEV_XLATE command 0x11 that loads a receive entry. -/
  | rxEnable (c : Cmd)
  /-- RX_DISABLE, R323. DEV_XLATE command 0x12 that stops a receive entry. -/
  | rxDisable (c : Cmd)
  /-- RX_RESTART, R323. DEV_XLATE command 0x13 that resumes a faulted receive entry. -/
  | rxRestart (c : Cmd)
  /-- RX_FRAME, R321. A frame delivered through P13 is written to the first matching receive entry and may offer a FRAME item. -/
  | rxFrame (hub : Nat)
  /-- VI_CREATE, R327. VI_CTRL command 0x10 that claims a VI with this die as home. -/
  | viCreate (c : Cmd)
  /-- VI_RUN, R327. VI_CTRL command 0x11 that enters RUNNING and resumes held destinations. -/
  | viRun (c : Cmd)
  /-- QUIESCE, R329. VI_CTRL command 0x12 that starts a DRAIN or ABORT quiesce of a VI. -/
  | quiesce (c : Cmd)
  /-- KILL, R331. VI_CTRL command 0x13 that runs ABORT and cuts the VI's writes within 50 us. -/
  | kill (c : Cmd)
  /-- KILL_WRITE_CUT, R331. 40 us after a KILL, unfinished writes into the VI are cut and counted in KILL_CUT. -/
  | killWriteCut (vi : Nat)
  /-- VI_PART_QUIESCED, R331. An engine part reports quiesced and the VI reaches QUIESCED when all parts have reported. -/
  | viPartQuiesced (vi part : Nat)
  /-- QTIMEOUT_EXPIRY, R331. A VI not QUIESCED by QTIMEOUT sets Q_TIMEOUT and writes a record. -/
  | qtimeoutExpiry (vi : Nat)
  /-- VI_RESET, R332. VI_CTRL command 0x14 that clears a quiesced VI's engine state. -/
  | viReset (c : Cmd)
  /-- VI_RESET_DONE, R324. The engine state of a resetting VI is cleared and it enters READY. -/
  | viResetDone (vi : Nat)
  /-- VI_DESTROY, R332. VI_CTRL command 0x15 that clears a VI, frees its shares and makes it ABSENT. -/
  | viDestroy (c : Cmd)
  /-- MIGRATE, R327. VI_CTRL command 0x16 that starts a migration out or in with a cut at VI_CUT_AT. -/
  | migrate (c : Cmd)
  /-- MIGRATION_CUT_AT, R341. At CUT_AT the cut of work between source and target takes effect and CUT_PASSED is set. -/
  | migrationCutAt (vi : Nat)
  /-- MIGRATION_GRACE_END, R324. At CUT_AT + VI_CUT_GRACE the source enters QUIESCING in DRAIN. -/
  | migrationGraceEnd (vi : Nat)
  /-- VI_SAVE, R342. VI_CTRL command 0x17 that writes the 256-byte state block. -/
  | viSave (c : Cmd)
  /-- VI_SAVE_DONE, R342. The state block is written and VI_SAVE ends with DONE. -/
  | viSaveDone (die : Nat)
  /-- VI_RESTORE, R342. VI_CTRL command 0x18 that reads the state block on the target. -/
  | viRestore (c : Cmd)
  /-- VI_RESTORE_DONE, R342. The state block is checked, sequence entries are loaded and RESTORED is set. -/
  | viRestoreDone (die : Nat)
  /-- SHARE_APPLY, R334. DERAILLEUR command 0x10 that loads a VI's staged shares on every die. -/
  | shareApply (c : Cmd)
  /-- SHARE_APPLY_DONE, R334. Every die holds the new shares and SHARE_APPLY ends with DONE. -/
  | shareApplyDone (die : Nat)
  /-- SHARE_CLEAR_COUNTERS, R336. DERAILLEUR command 0x11 that clears a VI's counters or all. -/
  | shareClearCounters (c : Cmd)
  /-- LOG_START, R340. DIRTY_LOG command 0x10 that turns a VI's log on with buffer 0 active. -/
  | logStart (c : Cmd)
  /-- LOG_SWAP, R339. DIRTY_LOG command 0x11 that makes the other buffer active and starts a new epoch. -/
  | logSwap (c : Cmd)
  /-- LOG_STOP, R340. DIRTY_LOG command 0x12 that turns the log off. -/
  | logStop (c : Cmd)
  /-- DIRTY_LOG_DONE, R339. A LOG_START, LOG_SWAP or LOG_STOP ends with DONE, stamping LOG_SWAP_CTS for a swap. -/
  | dirtyLogDone (die : Nat)
  /-- CRANK_BOUNDARY, R362. A CRANK_CYCLE firing makes a base-cycle boundary: journal, export, change batch, mode change and task release. -/
  | crankBoundary (die : Nat)
  /-- CRANK_LOCAL_BOUNDARY, R361. With no firing for 2 x CR_CYCLE the Crank makes its own boundary and sets LOCAL_CYCLE. -/
  | crankLocalBoundary (die : Nat)
  /-- CRANK_INPUT_CHANGE, R359. A change of an input entry's source releases its event task. -/
  | crankInputChange (die entry cts : Nat)
  /-- CRANK_SCAN_END, R363. A scan's output copy is applied, outputs are written and the end is stamped. -/
  | crankScanEnd (die : Nat)
  /-- CRANK_OVERRUN, R371. A scan exceeding CT_WDT counts an overrun and may halt the engine. -/
  | crankOverrun (die task : Nat)
  /-- CRANK_WINDOW_WRITE, R348. A write to the Crank window takes effect only in EMPTY, STOPPED or HALTED and sets RELOAD for cells or maps. -/
  | crankWindowWrite (die off : Nat) (bytes : List Byte) (w : Who)
  /-- JOURNAL_COMMIT, R378. A retain journal record's CRC is written on a hub and CR_JRNL_SEQ advances. -/
  | journalCommit (die hub : Nat)
  /-- RETAIN_WRITE_ERROR, R391. A record that fails to write twice sets WRITE_ERROR and forces a checkpoint next. -/
  | retainWriteError (die hub : Nat)
  /-- POWER_FAIL_WARNING, R380. PFW_N asserted stops every Crank and commits its final POWER_FAIL record. -/
  | powerFailWarning (hub : Nat)
  /-- POWER_FAIL_RECOVERY, R380. PFW_N deasserted for 10 ms lets Cranks with PF_RESUME restart HOT. -/
  | powerFailRecovery
  /-- CR_LOAD, R376. CRANK command 0x10 that checks the loaded program and enters STOPPED. -/
  | crLoad (c : Cmd)
  /-- CR_LOAD_DONE, R376. The program check ends with STOPPED, or BAD_ARG back in EMPTY. -/
  | crLoadDone (die : Nat)
  /-- CR_START, R377. CRANK command 0x11 that restarts the variables COLD, WARM or HOT into RUN or RECOVER. -/
  | crStart (c : Cmd)
  /-- CRANK_RESTART_DONE, R377. The restart ends and the first boundary after it begins the mode. -/
  | crankRestartDone (die : Nat)
  /-- CR_STOP, R373. CRANK command 0x12 that stops the engine at the next cell boundary. -/
  | crStop (c : Cmd)
  /-- CR_RUN, R375. CRANK command 0x13 that enters RUN at the next boundary. -/
  | crRun (c : Cmd)
  /-- CR_STEP_MODE, R375. CRANK command 0x14 that enters STEP. -/
  | crStepMode (c : Cmd)
  /-- CR_STEP, R375. CRANK command 0x15 that runs one cell or one scan of a task. -/
  | crStep (c : Cmd)
  /-- CR_FIRE, R359. CRANK or CRANK_VIEW command 0x16 that fires an event task. -/
  | crFire (c : Cmd)
  /-- OLC_COMMIT, R382. CRANK command 0x17 that checks and copies an on-line change batch. -/
  | olcCommit (c : Cmd)
  /-- FORCE, R384. CRANK command 0x18 that activates a force entry. -/
  | force (c : Cmd)
  /-- UNFORCE, R385. CRANK command 0x19 that ends one force or all. -/
  | unforce (c : Cmd)
  /-- CR_UNLOAD, R375. CRANK command 0x1A that enters EMPTY. -/
  | crUnload (c : Cmd)
  /-- CRANK_CLEAR_COUNTERS, R375. CRANK command 0x1B that clears the counters of CRANK and CRANK_TASK. -/
  | crankClearCounters (c : Cmd)
  /-- TASK_CLEAR_COUNTERS, R390. CRANK_TASK command 0x10 that clears a task's counters or all. -/
  | taskClearCounters (c : Cmd)
  /-- RT_CLEAR, R391. XSPI_RETAIN command 0x10 that zeroes the record headers of a region. -/
  | rtClear (c : Cmd)
  /-- RT_CLEAR_DONE, R391. The region clear ends with DONE. -/
  | rtClearDone (hub : Nat)
  /-- CAPTURE_TAP_SAMPLE, R400. A tap sample reaches the capture engine and fills its channel's value in a row, completing the row when all have delivered. -/
  | captureTapSample (hub : Nat)
  /-- ROW_LATE_COMPLETE, R401. A row is completed when the counter passes its instant plus CAP_LATE_WAIT. -/
  | rowLateComplete (hub record : Nat)
  /-- CAPTURE_TRIGGER_ARRIVAL, R409. A trigger reaches a record and starts a capture, retriggers it or is lost. -/
  | captureTriggerArrival (hub : Nat)
  /-- GOOSE_WATCH_FRAME, R407. A matching GOOSE frame updates a watch's compare result and fires it on a new stNum. -/
  | gooseWatchFrame (hub : Nat)
  /-- CAPTURE_CLOSE, R411. After row E and CAP_LATE_WAIT the capture closes, writing the header and offering its item. -/
  | captureClose (hub record : Nat)
  /-- CAPTURE_REDUCE, R415. Every 64 us with staging at or above CAP_HIGH, one record's reducible channels move up one level. -/
  | captureReduce (hub : Nat)
  /-- CAPTURE_READOUT_DONE, R418. A readout copy ends, loads REC_RD_COPIED and returns the slot to COMPLETE. -/
  | captureReadoutDone (hub : Nat)
  /-- CAP_ENABLE, R427. CAPTURE command 0x10 that reads the descriptor and arms a record. -/
  | capEnable (c : Cmd)
  /-- CAP_DISABLE, R410. CAPTURE command 0x11 that disables a record, closing an open capture with CUT. -/
  | capDisable (c : Cmd)
  /-- CAP_TRIGGER, R427. CAPTURE command 0x12 that gives a SOFTWARE trigger. -/
  | capTrigger (c : Cmd)
  /-- CAP_READOUT, R418. CAPTURE command 0x13 that queues a copy of a COMPLETE slot. -/
  | capReadout (c : Cmd)
  /-- CAP_RELEASE, R427. CAPTURE command 0x14 that makes a COMPLETE slot FREE. -/
  | capRelease (c : Cmd)
  /-- CAP_CLEAR_COUNTERS, R427. CAPTURE command 0x15 that clears a record's counters or all. -/
  | capClearCounters (c : Cmd)
  /-- DIE_STATE_REPORT, R431. A compute die reports its domain states and guarantee to both hubs at each change. -/
  | dieStateReport (die : Nat)
  /-- LEVEL_CONDITION_CHANGE, R432. A degraded-level condition arises and raises the hub's own view and level. -/
  | levelConditionChange (hub : Nat)
  /-- LEVEL_VIEW_RECEIVE, R432. A hub receives the other hub's view over the Axle and takes the higher level. -/
  | levelViewReceive (die hub : Nat)
  /-- DL_HOLD_EXPIRY, R433. Conditions absent for DL_HOLD let the level fall. -/
  | dlHoldExpiry (hub : Nat)
  /-- SW_ALIVE_WRITE, R434. A class C write of SW_ALIVE restarts its timer. -/
  | swAliveWrite (a : Access)
  /-- SW_ALIVE_TIMEOUT, R430. SW_ALIVE unwritten for SW_TIMEOUT raises condition [4]. -/
  | swAliveTimeout (hub : Nat)
  /-- LANE_LOSS_TIMEOUT, R430. No LANE port of a lane UP for DL_LANE_LOSS raises condition [7] or [8]. -/
  | laneLossTimeout (hub lane : Nat)
  /-- TIME_ALARM_TIMEOUT, R430. The master not LOCKED for DL_TIME_ALARM raises condition [13]. -/
  | timeAlarmTimeout (hub : Nat)
  /-- LEVEL_FORCE, R433. RESET_KS command 0x30 that sets or lowers the hub's forced minimum level. -/
  | levelForce (c : Cmd)
  /-- COASTER_TABLE_LOAD, R436. At the first COASTER release after a die reset the zone and frame tables load from the image. -/
  | coasterTableLoad (hub : Nat)
  /-- BF_TIMER_EXPIRY, R440. A breaker-failure timer passing BF_DELAY retrips if the current check or breaker BIN stands. -/
  | bfTimerExpiry (hub zone : Nat)
  /-- GOOSE_REPEAT, R441. A Coaster frame is repeated at doubling intervals up to REP_MAX and as heartbeat. -/
  | gooseRepeat (hub frame : Nat)
  /-- ZONE_LOAD, R446. COASTER command 0x10 that loads a staged zone. -/
  | zoneLoad (c : Cmd)
  /-- FRAME_LOAD, R446. COASTER command 0x11 that loads a staged frame entry. -/
  | frameLoad (c : Cmd)
  /-- ZONE_OFF, R446. COASTER command 0x12 that puts a zone in OFF. -/
  | zoneOff (c : Cmd)
  /-- ZONE_RESET, R446. COASTER command 0x13 that ends a latched trip. -/
  | zoneReset (c : Cmd)
  /-- COASTER_CLEAR_COUNTERS, R446. COASTER command 0x14 that clears ZN_TRIPS of one zone or all. -/
  | coasterClearCounters (c : Cmd)
  /-- TIO_SW_SET, R447. A write of TIO_SW_SET sets the software demand of owned lines. -/
  | tioSwSet (a : Access)
  /-- TIO_SW_CLR, R447. A write of TIO_SW_CLR clears the software demand of owned lines. -/
  | tioSwClr (a : Access)
  /-- TRIP_IO_CLEAR_COUNTERS, R452. TRIP_IO command 0x10 that clears TL_ASSERTS and TIO_DENIED. -/
  | tripIoClearCounters (c : Cmd)
  /-- BIN_ACCEPT, R450. A BIN level held for TB_DEBOUNCE is accepted, stamped and pushed to Cranks, capture and the Coaster. -/
  | binAccept (hub bin : Nat) (raw : Bool) (age : Nat)
  /-- TRIP_SENSE_CHANGE, R450. A TRIP_SENSE change is stamped and pushed. -/
  | tripSenseChange (hub line : Nat) (level : Bool)
  /-- TCS_DELAY_EXPIRY, R449. TRIP_SENSE at one level for TCS_DELAY sets or clears TCS_FAIL. -/
  | tcsDelayExpiry (hub line : Nat)
  /-- SENSE_WIN_EXPIRY, R449. No TRIP_SENSE within SENSE_WIN of an assertion sets NO_CURRENT. -/
  | senseWinExpiry (hub line : Nat)
  /-- DRIVE_FAULT_EXPIRY, R449. A ball level mismatch or overcurrent held for 10 us sets or clears DRIVE_FAULT. -/
  | driveFaultExpiry (hub line : Nat) (bad : Bool)
  /-- TANDEM_BOUNDARY, R459. At a Tandem cycle boundary the module renews its lease and sends its state frame and beacons. -/
  | tandemBoundary (hub : Nat)
  /-- TANDEM_SEGMENT_RX, R458. A state-frame segment is checked and assembled, completing frames and software blocks. -/
  | tandemSegmentRx (hub : Nat) (f : Frame)
  /-- BEACON_RX, R466. A beacon with the module's PAIR_ID is sunk at P15 and refreshes the partner path. -/
  | beaconRx (hub : Nat)
  /-- TANDEM_INPUT_EXCHANGE, R457. Both hubs exchange role-machine inputs over the Axle every 1 us. -/
  | tandemInputExchange
  /-- LEASE_GATE_CLOSE, R468. A holder not renewing closes its gate at EXPIRY - TD_SKEW and at expiry becomes STANDBY or FENCED. -/
  | leaseGateClose (hub : Nat)
  /-- LEASE_TAKEOVER, R470. A standby whose judged expiry has passed takes the lease and opens its gate. -/
  | leaseTakeover (hub : Nat)
  /-- CONTEND_LISTEN_EXPIRY, R469. A contending module that saw no valid partner token for TD_LISTEN enters ACTIVE. -/
  | contendListenExpiry (hub : Nat)
  /-- PARTNER_PATH_LOSS, R469. No partner path or live lane for TD_LEASE x TD_CYCLE makes the module FENCED. -/
  | partnerPathLoss (hub : Nat)
  /-- TD_PERMIT_WRITE, R464. A class M write of TD_PERMIT refreshes the permit to hold the lease. -/
  | tdPermitWrite (a : Access)
  /-- TD_PERMIT_LAPSE, R464. No permit write for TD_PERMIT_MS withdraws MAY_HOLD. -/
  | tdPermitLapse (hub : Nat)
  /-- HANDOVER_ACK_DEADLINE, R475. At T - TD_CYCLE without an acknowledgement the handover ends with ABORTED. -/
  | handoverAckDeadline (hub : Nat)
  /-- HANDOVER_CUT, R475. At T - TD_SKEW the holder closes its gate and becomes STANDBY and HANDOVER ends with DONE. -/
  | handoverCut (hub : Nat)
  /-- TD_START, R478. TANDEM_LANE command 0x10 that moves the package from ALONE to CONTENDING. -/
  | tdStart (c : Cmd)
  /-- TD_STOP, R478. TANDEM_LANE command 0x11 that moves the package to ALONE. -/
  | tdStop (c : Cmd)
  /-- HANDOVER, R475. TANDEM_LANE command 0x12 that schedules a planned lease handover at TD_HAND_AT. -/
  | handover (c : Cmd)
  /-- TD_CLEAR_COUNTERS, R478. TANDEM_LANE command 0x13 that clears every counter. -/
  | tdClearCounters (c : Cmd)
  /-- UNSEAL_CHAL, R498. KEY_VAULT command 0x10 that writes a fresh 32-byte challenge. -/
  | unsealChal (c : Cmd)
  /-- UNSEAL, R498. KEY_VAULT command 0x11 that checks a signed response and enters OPEN. -/
  | vaultUnseal (c : Cmd)
  /-- SEAL, R504. KEY_VAULT command 0x12 that zeroises the cache and enters SEALED. -/
  | vaultSeal (c : Cmd)
  /-- DORMANT, R504. KEY_VAULT command 0x13 that enters DORMANT. -/
  | dormant (c : Cmd)
  /-- WAKE, R504. KEY_VAULT command 0x14 that returns to OPEN. -/
  | wake (c : Cmd)
  /-- ROOT_GEN, R482. KEY_VAULT command 0x15 that fills an unwritten OTP root from the entropy source. -/
  | rootGen (c : Cmd)
  /-- ROOT_LOAD, R482. KEY_VAULT command 0x16 that writes an OTP root from VT_BUF. -/
  | rootLoad (c : Cmd)
  /-- VAULT_AUTH_LOAD, R498. KEY_VAULT command 0x17 that writes UNSEAL_AUTH or DEBUG_AUTH once. -/
  | vaultAuthLoad (c : Cmd)
  /-- KEY_DERIVE, R487. KEY_VAULT command 0x20 that derives a key by SP 800-108 into a slot. -/
  | keyDerive (c : Cmd)
  /-- KEY_UNWRAP, R489. KEY_VAULT command 0x21 that imports an AES-KW wrapped key. -/
  | keyUnwrap (c : Cmd)
  /-- KEY_GEN, R488. KEY_VAULT command 0x22 that fills a slot from the entropy source. -/
  | keyGen (c : Cmd)
  /-- KEY_CLEAR, R504. KEY_VAULT command 0x23 that zeroises a slot and clears NEXT pointing at it. -/
  | keyClear (c : Cmd)
  /-- KEY_SET, R504. KEY_VAULT command 0x24 that sets a slot's NEXT, NOT_AFTER or owner. -/
  | keySet (c : Cmd)
  /-- ENCRYPT, R504. KEY_VAULT command 0x28 that encrypts with AES-256-GCM. -/
  | encrypt (c : Cmd)
  /-- DECRYPT, R504. KEY_VAULT command 0x29 that decrypts and checks an AES-256-GCM tag. -/
  | decrypt (c : Cmd)
  /-- MAC_GEN, R504. KEY_VAULT command 0x2A that computes a GMAC or HMAC. -/
  | macGen (c : Cmd)
  /-- MAC_VER, R504. KEY_VAULT command 0x2B that verifies a GMAC or HMAC. -/
  | macVer (c : Cmd)
  /-- ATTEST, R501. KEY_VAULT command 0x30 that signs an attestation statement. -/
  | attest (c : Cmd)
  /-- VAULT_CLEAR_COUNTERS, R504. KEY_VAULT command 0x31 that clears VT_CMDS and VT_TAMPER_REFUSE. -/
  | vaultClearCounters (c : Cmd)
  /-- VAULT_COMMAND_END, R503. A vault command runs to completion, writing its output to VT_BUF in one step. -/
  | vaultCommandEnd (hub : Nat)
  /-- UNSEAL_CHALLENGE_EXPIRY, R498. An unseal challenge expires 10 s after its grant. -/
  | unsealChallengeExpiry (hub : Nat)
  /-- KEY_PROMOTION, R493. When the counter passes NOT_AFTER + FA_GRACE a slot's successor moves into it atomically. -/
  | keyPromotion (hub slot : Nat)
  /-- TRNG_HEALTH_FAIL, R481. An entropy-source health test failure sets TRNG_FAIL. -/
  | trngHealthFail (hub : Nat)
  /-- TAMPER_ALARM, R497. A tamper sensor alarms its vault, which counts the latch, records and enters ALARM. -/
  | tamperAlarm (die sensor : Nat)
  /-- CACHE_ZEROISE_DONE, R497. Zeroisation of the key cache after an alarm ends. -/
  | cacheZeroiseDone (hub : Nat)
  /-- DEBUG_CHALLENGE_READ, R499. A TAP instruction reads a debug unlock challenge from the vault. -/
  | debugChallengeRead
  /-- DEBUG_UNLOCK_RESPONSE, R499. A TAP instruction submits a signed response that unlocks JTAG debug until POR. -/
  | debugUnlockResponse (response : List Byte)
  /-- FA_CLEAR_COUNTERS, R510. FRAME_AUTH command 0x10 that clears the counters of an entry or all. -/
  | faClearCounters (c : Cmd)
  /-- POR_ASSERT, R513. VDD_AON below 0.74 V asserts POR on the whole package. -/
  | porAssert
  /-- POR_RELEASE, R513. 1 ms after VDD_AON stands at 0.76 V POR releases and fuse sensing starts. -/
  | porRelease
  /-- FUSE_SENSE_DONE, R529. Fuse sensing ends, configurable balls take their codes and the walk begins. -/
  | fuseSenseDone
  /-- BOR_ASSERT, R513. A die's VDD_CORE or VDD_SRAM below threshold, or a power-down, asserts BOR on that die. -/
  | borAssert (die : Nat)
  /-- BOR_RELEASE, R513. 100 us after the die's rails recover BOR releases. -/
  | borRelease (die : Nat)
  /-- PIN_RESET_ASSERT, R513. RESET_N low for 1 us asserts PIN on the package. -/
  | pinResetAssert
  /-- PIN_RESET_RELEASE, R513. RESET_N high for 1 us releases PIN. -/
  | pinResetRelease
  /-- LOCK_WAIT_EXPIRY, R519. Waiting 2 ms for an island's lock, or lock lost that long, asserts CKF on the die. -/
  | lockWaitExpiry (die island : Nat)
  /-- CKF_RELEASE, R513. CKF releases 10 us after assertion. -/
  | ckfRelease (die : Nat)
  /-- WDT_EXPIRY, R513. WDT_MS without a WDT_KICK asserts WDT on the die's MECH domain. -/
  | wdtExpiry (die : Nat)
  /-- WDT_KICK_WRITE, R533. A class M write of WDT_KICK restarts the watchdog. -/
  | wdtKickWrite (a : Access)
  /-- LCK_RELEASE, R513. LCK releases 1 us after assertion. -/
  | lckRelease (die : Nat)
  /-- DBG_RESET_ASSERT, R513. ndmreset set to 1 asserts DBG on the domains of RK_DBG_MASK on every die. -/
  | dbgResetAssert
  /-- DBG_RESET_RELEASE, R513. ndmreset returning to 0 releases DBG. -/
  | dbgResetRelease
  /-- SWR_ASSERT, R535. RESET_KS command 0x10 that asserts SWR on a domain mask. -/
  | swrAssert (c : Cmd)
  /-- SWR_RELEASE, R535. RESET_KS command 0x11 that releases SWR on a domain mask. -/
  | swrRelease (c : Cmd)
  /-- SWR_PULSE, R535. RESET_KS command 0x12 that asserts SWR on a mask for 1 us. -/
  | swrPulse (c : Cmd)
  /-- SWR_PULSE_END, R513. The 1 us of an SWR_PULSE ends and SWR releases. -/
  | swrPulseEnd (die : Nat)
  /-- FORCE_RELEASE, R521. RESET_KS command 0x13 that lets the walk release domains without waiting for lock. -/
  | forceRelease (c : Cmd)
  /-- RESET_CAUSE_WRITE, R533. Writing 0 to a RESET_CAUSE bit clears it, its RC_CTS and its count. -/
  | resetCauseWrite (a : Access)
  /-- WALK_GAP_EXPIRY, R516. A domain's gap ends and the walk releases it or waits for its island's lock. -/
  | walkGapExpiry (die : Nat)
  /-- ISLAND_LOCK_STABLE, R518. An island's lock has held 256 REFCLK cycles and the walk may release its domain. -/
  | islandLockStable (die island : Nat)
  /-- ISLAND_LOCK_LOSS, R519. A running domain's island loses lock and its interface goes NOT_READY. -/
  | islandLockLoss (die island : Nat)
  /-- OPTION_LOAD, R524. A hub's OPT loader reads the option block from copy A, copy B or the fuse defaults. -/
  | optionLoad (hub : Nat)
  /-- OPTION_RECEIVE, R525. A compute die's OPT receives the option block from a hub or falls back to defaults. -/
  | optionReceive (die : Nat) (hub : Option Nat)
  /-- STARTUP_LOAD, R522. The start-up loader applies the image's records for TIME, NET, INGEST or COASTER and ends. -/
  | startupLoad (hub : Nat)
  /-- PIN_FUSE, R530. OPTION command 0x10 that fuses a ball's pin map code. -/
  | pinFuse (c : Cmd)
  /-- PIN_FUSE_DONE, R530. The fuse write ends and the new code is in force. -/
  | pinFuseDone (hub : Nat)
  /-- XB_READ, R537. XSPI_BOOT command 0x10 that reads flash into XB_BUF. -/
  | xbRead (c : Cmd)
  /-- XB_PROGRAM, R537. XSPI_BOOT command 0x11 that programs flash from XB_BUF. -/
  | xbProgram (c : Cmd)
  /-- XB_ERASE, R537. XSPI_BOOT command 0x12 that erases a 4 KiB sector. -/
  | xbErase (c : Cmd)
  /-- XB_OPERATION_DONE, R537. A flash read, program or erase completes with DONE or TIMEOUT. -/
  | xbOperationDone (hub : Nat) (ok : Bool)
  /-- MECHANIC_BOOT, R540. At MECH release the boot ROM verifies a slot, writes measurements and starts the firmware. -/
  | mechanicBoot (die : Nat)
  /-- MC_RENEW_WRITE, R544. A lead's write of MC_RENEW extends EXPIRY and toggles WDO_N. -/
  | mcRenewWrite (a : Access)
  /-- MC_CAND_WRITE, R543. A core's write of MC_CAND refreshes its candidacy. -/
  | mcCandWrite (a : Access)
  /-- CANDIDACY_LAPSE, R543. A core with no MC_CAND write for 2 ms stops being a candidate. -/
  | candidacyLapse (die : Nat)
  /-- LEAD_LEASE_EXPIRY, R545. At expiry the deciding hub grants the lead lease to the first live candidate. -/
  | leadLeaseExpiry (hub : Nat)
  /-- MC_YIELD, R566. MECHANIC command 0x10 that grants the lease to a named candidate die. -/
  | mcYield (c : Cmd)
  /-- MC_RESTART, R566. MECHANIC command 0x11 that restarts one core from the booted slot. -/
  | mcRestart (c : Cmd)
  /-- MC_AUTH_LOAD, R566. MECHANIC command 0x12 that writes UPDATE_AUTH from MC_BUF. -/
  | mcAuthLoad (c : Cmd)
  /-- DIE_POWER, R566. MECHANIC command 0x13 that powers a compute die off or on. -/
  | diePower (c : Cmd)
  /-- DIE_POWER_DONE, R566. A die power change completes and DIE_POWER_DONE is set. -/
  | diePowerDone (die : Nat)
  /-- UPD_VERIFY, R559. MECHANIC command 0x20 that verifies the slot not booted. -/
  | updVerify (c : Cmd)
  /-- UPD_ACTIVATE, R560. MECHANIC command 0x21 that makes the slot the trial and applies the named components. -/
  | updActivate (c : Cmd)
  /-- UPD_COMMIT, R559. MECHANIC command 0x22 that makes the trial slot active and raises the rollback counter. -/
  | updCommit (c : Cmd)
  /-- UPD_ABORT, R560. MECHANIC command 0x23 that clears the trial and restores booted components. -/
  | updAbort (c : Cmd)
  /-- UPD_OPERATION_DONE, R559. An UPD command ends with DONE and sets UPD_DONE or UPD_FAIL. -/
  | updOperationDone (hub : Nat)
  /-- MC_CLEAR_COUNTERS, R566. MECHANIC command 0x30 that clears the page's counters. -/
  | mcClearCounters (c : Cmd)
  /-- SENSOR_SWEEP, R547. Every SN_PERIOD each sensor is sampled and checked against its warning and alarm limits. -/
  | sensorSweep (die : Nat) (samples : List (Nat × Int)) (rails : List RailSample)
  /-- AVS_STEP, R550. On a die's index report or AVS_PERIOD the loop raises or lowers VDD_CORE and sends VOUT_COMMAND. -/
  | avsStep (hub rail : Nat)
  /-- PMBUS_TRANSFER_FAIL, R552. A third failed PMBus transfer sets the rail's AVS_OFF and the loop leaves it. -/
  | pmbusTransferFail (hub rail : Nat)
  /-- PMB_ALERT, R568. PMB_ALERT_N low sets PMBUS EVENT ALERT. -/
  | pmbAlert (hub : Nat)
  /-- RAIL_SET, R568. PMBUS command 0x10 that sends a VOUT_COMMAND to a rail. -/
  | railSet (c : Cmd)
  /-- RAIL_CLEAR, R568. PMBUS command 0x11 that sends CLEAR_FAULTS and clears AVS_OFF. -/
  | railClear (c : Cmd)
  /-- LOG_ENTRY_PROGRAM, R562. A management log entry is programmed into boot flash. -/
  | logEntryProgram (hub : Nat)
  /-- MG_IDENTIFY, R564. MGMT request 0x01 that returns variant, serial, versions, role and level. -/
  | mgIdentify (hub : Nat) (m : MgReq)
  /-- MG_ATTEST, R564. MGMT request 0x02 that returns an attestation statement. -/
  | mgAttest (hub : Nat) (m : MgReq)
  /-- MG_UNSEAL_CHAL, R564. MGMT request 0x03 relayed to the vault's UNSEAL_CHAL. -/
  | mgUnsealChal (hub : Nat) (m : MgReq)
  /-- MG_UNSEAL, R564. MGMT request 0x04 relayed to the vault's UNSEAL. -/
  | mgUnseal (hub : Nat) (m : MgReq)
  /-- MG_READ_SENSORS, R564. MGMT request 0x10 that returns sensor values. -/
  | mgReadSensors (hub : Nat) (m : MgReq)
  /-- MG_READ_LOG, R564. MGMT request 0x11 that returns log entries from a sequence. -/
  | mgReadLog (hub : Nat) (m : MgReq) (first : Nat)
  /-- MG_READ_PAGE, R564. MGMT request 0x12 that reads a management-plane page. -/
  | mgReadPage (hub : Nat) (m : MgReq) (a : Access)
  /-- MG_WRITE_PAGE, R564. MGMT request 0x13 that writes a management-plane page. -/
  | mgWritePage (hub : Nat) (m : MgReq) (a : Access)
  /-- MG_UPDATE_WRITE, R564. MGMT request 0x20 that writes a chunk into the slot not booted. -/
  | mgUpdateWrite (hub : Nat) (m : MgReq) (off : Nat) (data : List Byte)
  /-- MG_UPD_COMMAND, R564. MGMT requests 0x21-0x24 relayed to the UPD commands. -/
  | mgUpdCommand (hub : Nat) (m : MgReq) (op sub : Nat)
  /-- SADDLEBAG_RECORD_ENQUEUE, R34. A stamped record enters its plane's queue or is dropped and counted when the queue is full. -/
  | saddlebagRecordEnqueue (hub : Nat)
  /-- SADDLEBAG_RING_WRITE, R33. A queued record is written into the ring in plane rotation, advancing SB_HEAD and SB_TAIL. -/
  | saddlebagRingWrite (hub : Nat)
  /-- SB_NEXT_READ, R576. A read of SB_NEXT reports the record at the reader's cursor and advances it. -/
  | sbNextRead (a : Access)
  /-- SB_SEEK_WRITE, R576. A write of SB_SEEK moves the reader's cursor to SB_TAIL or SB_HEAD. -/
  | sbSeekWrite (a : Access)
  /-- SNAPSHOT_TRIGGER, R578. A snapshot set's trigger fires and the set is read into a snapshot record. -/
  | snapshotTrigger (hub set : Nat)
  /-- SNAPSHOT_PERIOD, R579. Every SS_PERIOD a PERIODIC snapshot set fires. -/
  | snapshotPeriod (hub set : Nat)
  /-- FREEZE_TRIGGER, R580. The armed freeze trigger fires and the ring enters TRIGGERED with POST_LEFT. -/
  | freezeTrigger (hub : Nat)
  /-- SB_POST, R585. SADDLEBAG command 0x10 that writes a software record. -/
  | sbPost (c : Cmd)
  /-- SB_FREEZE, R580. SADDLEBAG command 0x11 that freezes the ring. -/
  | sbFreeze (c : Cmd)
  /-- SB_UNFREEZE, R581. SADDLEBAG command 0x12 that reopens the ring and writes UNFROZEN. -/
  | sbUnfreeze (c : Cmd)
  /-- SB_ARM, R585. SADDLEBAG command 0x13 that arms the freeze trigger. -/
  | sbArm (c : Cmd)
  /-- SB_DISARM, R585. SADDLEBAG command 0x14 that disarms the freeze trigger. -/
  | sbDisarm (c : Cmd)
  /-- SS_ENABLE, R585. SADDLEBAG command 0x15 that loads and enables a snapshot set. -/
  | ssEnable (c : Cmd)
  /-- SS_DISABLE, R585. SADDLEBAG command 0x16 that disables a snapshot set. -/
  | ssDisable (c : Cmd)
  /-- SB_TRIGGER, R585. SADDLEBAG command 0x17 that gives a SOFTWARE trigger to a set or the freeze trigger. -/
  | sbTrigger (c : Cmd)
  /-- SB_CLEAR_COUNTERS, R585. SADDLEBAG command 0x18 that clears the page's and sets' counters. -/
  | sbClearCounters (c : Cmd)
  /-- COUNTER_SELECT_WRITE, R587. A write of a Cyclometer counter select clears its value and counts under the new select. -/
  | counterSelectWrite (a : Access)
  /-- CYCLOMETER_SWEEP, R589. At each sweep instant pages latch their counters and the Cyclometer writes a sweep record. -/
  | cyclometerSweep (hub : Nat)
  /-- CY_RUN, R594. CYCLOMETER command 0x10 that loads the list and starts sweeping. -/
  | cyRun (c : Cmd)
  /-- CY_STOP, R594. CYCLOMETER command 0x11 that stops after the sweep in progress. -/
  | cyStop (c : Cmd)
  /-- CY_CLEAR_COUNTERS, R594. CYCLOMETER command 0x12 that clears the page's counters. -/
  | cyClearCounters (c : Cmd)
  /-- CV_SLOT_READ, R591. A read of a COUNTER_VIEW slot reads its mapped counter or returns 0 and counts CY_MAP_DENY. -/
  | cvSlotRead (a : Access)
  /-- DRAM_TRAINING_DONE, R611. DRAM training and sizing end and the channel enters READY or FAULT. -/
  | dramTrainingDone (die state ranks x16 density cause size us : Nat)
  /-- DRAM_ECC_ERROR, R612. A DRAM read finds a corrected or uncorrectable error and reports it. -/
  | dramEccError (die : Nat) (corrected : Bool) (addr : Nat) (reader : Option EngineRead)
  /-- DRAM_SCRUB_PASS, R612. The patrol scrubber reads the channel once every DR_SCRUB hours. -/
  | dramScrubPass (die : Nat)
  /-- DRAM_REFRESH_CHANGE, R612. A device's MR4 code changing doubles or restores the refresh rate. -/
  | dramRefreshChange (die code device : Nat)
  /-- DRAM_CLEAR_COUNTERS, R613. DRAM command 0x10 that clears DR_CE and DR_UE. -/
  | dramClearCounters (c : Cmd)
  /-- NEGATIVE_STEP_END, R91. The half-rate run of a negative step ends after 2 x |amount| ns, the counters resume their rate and STEP ends with DONE. -/
  | negativeStepEnd
  /-- REFCLK_LOSS, R519. REFCLK stops at a die's balls and gap counting, the lock-wait account and the AON shadow counter move to the AON ring oscillator. -/
  | refclkLoss (die : Nat)
  /-- REFCLK_RETURN, R519. REFCLK returns and counting moves back from the ring oscillator to REFCLK ticks, keeping the ticks already counted. -/
  | refclkReturn (die : Nat)
  /-- COUNTER_LEVEL_TICK, R587. At each 40 ns AON tick every LEVEL-mode Cyclometer counter whose condition holds adds 1. -/
  | counterLevelTick
  /-- HART_TIMER_INTERRUPT, R309. The time CSR reaching a hart's MTIMECMP or Sstc compare value makes a timer interrupt pending. -/
  | hartTimerInterrupt (hart compare : Nat)
  /-- HART_STORE, R337. A store, AMO, successful SC, vector store or CBO.INVAL of a hart with V = 1 writes VI memory and records its page in the dirty log. -/
  | hartStore (vi gpa : Nat) (bytes : List Byte)
  /-- MGMT_LINK_CHANGE, R569. The MGMT port's link passes or fails, updating MG_STATE and setting MGMT_PORT EVENT LINK_CHANGE. -/
  | mgmtLinkChange (hub : Nat) (up gig : Bool)
  /-- SFP_MODULE_REMOVAL, R193. An SFP module is removed from a cage, MOD_ABS goes to 1 and MODULE_CHANGE is set. -/
  | sfpModuleRemoval (hub port : Nat)
  /-- MG_ARP_ICMP, R564. An ARP request or ICMP echo received on the MGMT port is answered by the Mechanic firmware. -/
  | mgArpIcmp (hub : Nat) (request : List Byte)
  /-- TRIP_CURRENT_MEASURE, R547. 200 us after a TRIP_OUT assertion the line's load current is measured into sensor 40-47. -/
  | tripCurrentMeasure (hub line : Nat) (current : Int)
  /-- ANNOUNCE_RECEIPT_TIMEOUT, R88. The time agent's announceReceiptTimeout expires, it reports no parent clock and the PTP_LOCAL input becomes invalid. -/
  | announceReceiptTimeout (hub : Nat)
  deriving DecidableEq, Repr

end Sys2Proof
end

