-- ==== Sys2Proof/Decode.lean ====
section
/-!
DEFINITION. Sys2Proof/Decode.lean: the reading of a word by the bits of the table of operations and events. The table gives
bits to none of its rows: its rows are register accesses, commands and events, which no word spells.
-/
namespace Sys2Proof

/-- The command that a word of the table spells: none, since no row of the table has bits. -/
def decodeTableWord (_nbits _w : Nat) : Option Instr := none

end Sys2Proof
end

