-- ==== Sys2Proof/Machine/Bits.lean ====
section
/-!
DEFINITION. Sys2Proof/Machine/Bits.lean: bit fields of register values, signed values and byte order (R8, R11).
-/
namespace Sys2Proof.Machine

/-- Field [hi:lo] of a register value. -/
def fld (v hi lo : Nat) : Nat := v / 2 ^ lo % 2 ^ (hi + 1 - lo)

/-- Bit n of a register value. -/
def bit (v n : Nat) : Bool := v.testBit n

/-- 1 for true. -/
def b2n (b : Bool) : Nat := if b then 1 else 0

/-- A value with its field [hi:lo] replaced. -/
def setFld (v hi lo x : Nat) : Nat :=
  v - fld v hi lo * 2 ^ lo + x % 2 ^ (hi + 1 - lo) * 2 ^ lo

/-- A value with bit n replaced. -/
def setBit (v n : Nat) (b : Bool) : Nat := setFld v n n (b2n b)

/-- The signed value of an n-bit field. -/
def sgn (n v : Nat) : Int :=
  if v % 2 ^ n < 2 ^ (n - 1) then Int.ofNat (v % 2 ^ n) else Int.ofNat (v % 2 ^ n) - Int.ofNat (2 ^ n)

/-- The n-bit two's complement field of an integer. -/
def uns (n : Nat) (i : Int) : Nat := (i % (2 ^ n : Nat)).toNat

/-- Addition that stops at the top of an n-bit counter (a saturating counter). -/
def satAdd (n v k : Nat) : Nat := min (v + k) (2 ^ n - 1)

/-- Addition that wraps (a wrapping counter of n bits). -/
def wrapAdd (n v k : Nat) : Nat := (v + k) % 2 ^ n

/-- Clamp an integer to the range from `lo` to `hi`. -/
def clampInt (lo hi x : Int) : Int := if x < lo then lo else if hi < x then hi else x

/-- The n bytes of a value, least significant first (R8). -/
def bytesLE : Nat → Nat → List Byte
  | 0, _ => []
  | n + 1, v => BitVec.ofNat 8 v :: bytesLE n (v / 256)

/-- The value of bytes, least significant first (R8). -/
def ofBytesLE : List Byte → Nat
  | [] => 0
  | b :: bs => b.toNat + 256 * ofBytesLE bs

/-- The n bytes of a value, most significant first (network order of the standards of R5). -/
def bytesBE (n v : Nat) : List Byte := (bytesLE n v).reverse

/-- The value of bytes, most significant first. -/
def ofBytesBE (bs : List Byte) : Nat := ofBytesLE bs.reverse

/-- One bit of CRC-32, least significant bit first. -/
def crcBit (c : Nat) : Nat := if c % 2 = 1 then c / 2 ^^^ 0xEDB88320 else c / 2

/-- One byte of CRC-32. -/
def crcByte (c : Nat) (b : Byte) : Nat := crcBit (crcBit (crcBit (crcBit (crcBit (crcBit (crcBit (crcBit (c ^^^ b.toNat))))))))

/-- CRC-32 as Ethernet computes it; the specification names no other (PRESUMED). -/
def crc32 (bs : List Byte) : Nat := bs.foldl crcByte 0xFFFFFFFF ^^^ 0xFFFFFFFF

/-- Bytes with those from an offset on replaced by others; bytes that end before the offset stay as they are. -/
def patch (bs : List Byte) (off : Nat) (xs : List Byte) : List Byte :=
  if bs.length < off then bs else bs.take off ++ xs ++ bs.drop (off + xs.length)

/-- A setting taken within its range: the nearest limit for a value outside it (assumption 73). -/
def within (lo hi x : Nat) : Nat := min hi (max lo x)

/-- An element put into a list whose keys rise, behind its equals. -/
def insertBy {α : Type} (key : α → Nat) (x : α) : List α → List α
  | [] => [x]
  | y :: ys => if key x < key y then x :: y :: ys else y :: insertBy key x ys

/-- A list in rising order of a key; elements with equal keys keep their order. -/
def sortBy {α : Type} (key : α → Nat) (l : List α) : List α := l.foldl (fun r x => insertBy key x r) []

/-- Division rounding up. -/
def ceilDiv (a b : Nat) : Nat := if b = 0 then 0 else (a + b - 1) / b

end Sys2Proof.Machine
end

