-- ==== Sys2Proof/Config.lean ====
section
/-!
DEFINITION. Sys2Proof/Config.lean: what one device or its makers fix and the specification does not state, and
the free values. Everything here is opaque: no proof can use a value of it.
-/
namespace Sys2Proof

/-- The value of a register that the specification calls fused, per device, per hub or per die (R23, R40, R506, R565 …),
by block code, offset, die and instance. -/
opaque Config.fused : Nat → Nat → Nat → Nat → Word

/-- The page indexes of a die (R52: they may differ between silicon revisions), by die and by place in the list of its pages. -/
opaque Config.pageIndex : Nat → Nat → Nat

/-- The ORDER source of a view page, by view code and VI. -/
opaque Config.viewSource : Nat → Nat → Nat

/-- A free value: what the specification leaves undefined or unstated, drawn by the counter `State.free`. -/
opaque Config.freeValue : Nat → Word

/-- A free byte, drawn by the same counter. -/
opaque Config.freeByte : Nat → Byte

/-- PAGE_VER [31:16] of a block, by block code (R61: per block). -/
opaque Config.pageVersion : Nat → Nat

/-- PAGE_CAP [31:16] of a block, by block code (R61: per block). -/
opaque Config.pageOptions : Nat → Nat

/-- Which neighbour an inexact quotient is rounded to, where the specification does not state the rounding. -/
opaque Config.roundUp : Int → Nat → Bool

/-- V and VMID of a hart that is not HALTED (R345), by its identity and the elapsed time. -/
opaque Config.hartMode : Nat → Nat → Nat

/-- Cells that a port's transmit FIFO takes beyond the one it sends (R135). -/
opaque Config.txFifo : Nat

/-- The bucket that a (MAC, FID) key hashes to (R127), taken modulo the bucket count. -/
opaque Config.macHash : Nat → Nat → Nat

/-- The bucket of a node's MAC in the node table (R175, R191). -/
opaque Config.nodeHash : Nat → Nat

/-- AES-GMAC with a 256-bit key (R491): key, initialisation vector, message. -/
opaque Config.gmac : List Byte → List Byte → List Byte → List Byte

/-- HMAC-SHA-256 (R491): key and message. -/
opaque Config.hmac : List Byte → List Byte → List Byte

/-- CMAC-AES-256 (R487): key and message. -/
opaque Config.cmac : List Byte → List Byte → List Byte

/-- AES-KW unwrapping (R489): key-encryption key and wrapped value; none where the integrity check fails. -/
opaque Config.kwUnwrap : List Byte → List Byte → Option (List Byte)

/-- AES-256-GCM (R504): key, IV and plaintext to ciphertext. -/
opaque Config.gcmSeal : List Byte → List Byte → List Byte → List Byte

/-- The tag of AES-256-GCM: key, IV and ciphertext. -/
opaque Config.gcmTag : List Byte → List Byte → List Byte → List Byte

/-- AES-256-GCM: key, IV and ciphertext to plaintext. -/
opaque Config.gcmOpen : List Byte → List Byte → List Byte → List Byte

/-- SHA-384 (R498). -/
opaque Config.sha384 : List Byte → List Byte

/-- ECDSA P-384 verification (R498): public key, digest and signature. -/
opaque Config.ecdsaVerify : List Byte → List Byte → List Byte → Bool

/-- The deterministic ECDSA P-384 signature of a hub's identity key over a digest (R500, R501). -/
opaque Config.identitySign : Nat → List Byte → List Byte

/-- OTP root 0 of a hub, unique to it (R482). -/
opaque Config.rootZero : Nat → List Byte

/-- VENDOR_AUTH (R555): the SHA-384 hash of Tlanor's vendor key, fused at test. -/
opaque Config.vendorAuth : List Byte

/-- The code of a stomped frame's reason in its record, by kind of reason (R150). -/
opaque Config.stompReason : Nat → Nat

/-- The code of a management-log entry, by kind of event (R562). -/
opaque Config.logCode : Nat → Nat

/-- The payload of a management-log entry, by kind of event and its values (R562). -/
opaque Config.logPayload : Nat → List Nat → List Byte

/-- The payload of a management-port response that the manual names by its contents alone, by command code and the values
it carries (R564). -/
opaque Config.mgPayload : Nat → List Nat → List Byte

/-- Sign and payload of a NaN that a binary32 operation of the Crank gives (R353): opcode and operand words. -/
opaque Config.nanBits : Nat → Nat → Nat → Word

/-- MIN or MAX of the Crank on binary32 operands of which neither is smaller: opcode and operand words. -/
opaque Config.minMaxOpen : Nat → Nat → Nat → Word

end Sys2Proof
end

