-- ==== Sys2Proof/Machine/Blocks.lean ====
section
/-!
DEFINITION. Sys2Proof/Machine/Blocks.lean: the block types of R53 and R73 with their code, domain, plane and dies.
-/
namespace Sys2Proof.Machine

/-- The block type code of a page (R53, R73). -/
def blockCode : Block → Nat
  | .index => 0x1
  | .resetKs => 0x10
  | .option => 0x11
  | .cadence => 0x12
  | .sensor => 0x13
  | .mechanic => 0x14
  | .pmbus => 0x15
  | .mgmtPort => 0x16
  | .xspiBoot => 0x17
  | .xspiRetain => 0x18
  | .saddlebag => 0x19
  | .cyclometer => 0x1a
  | .msiRoute => 0x1b
  | .debug => 0x1c
  | .timeBase => 0x20
  | .timeCounter => 0x21
  | .timeTrigger => 0x22
  | .timeAgent => 0x23
  | .keyVault => 0x24
  | .frameAuth => 0x25
  | .dram => 0x26
  | .switch => 0x30
  | .switchPort => 0x31
  | .qos => 0x32
  | .lane => 0x33
  | .phyCopper => 0x34
  | .serdes => 0x35
  | .tandemLane => 0x36
  | .spoke => 0x37
  | .axle => 0x38
  | .svIngest => 0x40
  | .filter => 0x41
  | .detector => 0x42
  | .capture => 0x43
  | .coaster => 0x44
  | .tripIo => 0x45
  | .peloton => 0x50
  | .pelotonFlow => 0x51
  | .pannier => 0x52
  | .viCtrl => 0x53
  | .derailleur => 0x54
  | .dirtyLog => 0x55
  | .devXlate => 0x56
  | .crank => 0x60
  | .crankTask => 0x61
  | .hartCluster => 0x70
  | .viIndex => 0x8001
  | .pelotonView => 0x8050
  | .flowView => 0x8051
  | .sampleView => 0x8040
  | .egressView => 0x8030
  | .captureView => 0x8043
  | .keyView => 0x8024
  | .crankView => 0x8060
  | .timerView => 0x8022
  | .counterView => 0x801a
  | .viewReserved => 0x0

/-- Every block type of R53. -/
def blockAll : List Block :=
  [.index, .resetKs, .option, .cadence, .sensor, .mechanic,
   .pmbus, .mgmtPort, .xspiBoot, .xspiRetain, .saddlebag, .cyclometer,
   .msiRoute, .debug, .timeBase, .timeCounter, .timeTrigger, .timeAgent,
   .keyVault, .frameAuth, .dram, .switch, .switchPort, .qos,
   .lane, .phyCopper, .serdes, .tandemLane, .spoke, .axle,
   .svIngest, .filter, .detector, .capture, .coaster, .tripIo,
   .peloton, .pelotonFlow, .pannier, .viCtrl, .derailleur, .dirtyLog,
   .devXlate, .crank, .crankTask, .hartCluster]

/-- A view page of a VI page group (R73). -/
def blockIsView : Block → Bool
  | .index => false
  | .resetKs => false
  | .option => false
  | .cadence => false
  | .sensor => false
  | .mechanic => false
  | .pmbus => false
  | .mgmtPort => false
  | .xspiBoot => false
  | .xspiRetain => false
  | .saddlebag => false
  | .cyclometer => false
  | .msiRoute => false
  | .debug => false
  | .timeBase => false
  | .timeCounter => false
  | .timeTrigger => false
  | .timeAgent => false
  | .keyVault => false
  | .frameAuth => false
  | .dram => false
  | .switch => false
  | .switchPort => false
  | .qos => false
  | .lane => false
  | .phyCopper => false
  | .serdes => false
  | .tandemLane => false
  | .spoke => false
  | .axle => false
  | .svIngest => false
  | .filter => false
  | .detector => false
  | .capture => false
  | .coaster => false
  | .tripIo => false
  | .peloton => false
  | .pelotonFlow => false
  | .pannier => false
  | .viCtrl => false
  | .derailleur => false
  | .dirtyLog => false
  | .devXlate => false
  | .crank => false
  | .crankTask => false
  | .hartCluster => false
  | .viIndex => true
  | .pelotonView => true
  | .flowView => true
  | .sampleView => true
  | .egressView => true
  | .captureView => true
  | .keyView => true
  | .crankView => true
  | .timerView => true
  | .counterView => true
  | .viewReserved => true

/-- The reset domain that holds the page, numbered 0 to 12 (R51, R53). A view page is held by its server. -/
def blockDomain : Block → Nat
  | .index => 0
  | .resetKs => 0
  | .option => 1
  | .cadence => 4
  | .sensor => 4
  | .mechanic => 4
  | .pmbus => 4
  | .mgmtPort => 4
  | .xspiBoot => 4
  | .xspiRetain => 4
  | .saddlebag => 0
  | .cyclometer => 4
  | .msiRoute => 4
  | .debug => 0
  | .timeBase => 5
  | .timeCounter => 5
  | .timeTrigger => 5
  | .timeAgent => 5
  | .keyVault => 3
  | .frameAuth => 3
  | .dram => 6
  | .switch => 7
  | .switchPort => 7
  | .qos => 7
  | .lane => 7
  | .phyCopper => 7
  | .serdes => 7
  | .tandemLane => 7
  | .spoke => 7
  | .axle => 7
  | .svIngest => 8
  | .filter => 8
  | .detector => 8
  | .capture => 8
  | .coaster => 9
  | .tripIo => 9
  | .peloton => 10
  | .pelotonFlow => 10
  | .pannier => 10
  | .viCtrl => 10
  | .derailleur => 10
  | .dirtyLog => 10
  | .devXlate => 10
  | .crank => 11
  | .crankTask => 11
  | .hartCluster => 12
  | .viIndex => 10
  | .pelotonView => 10
  | .flowView => 10
  | .sampleView => 8
  | .egressView => 7
  | .captureView => 8
  | .keyView => 3
  | .crankView => 11
  | .timerView => 5
  | .counterView => 4
  | .viewReserved => 4

/-- PLANE of R51: which planes own a page. -/
structure Plane where
  control : Bool
  management : Bool
  deriving DecidableEq, Repr

/-- The owning planes of a block type (R53). A VI view belongs to the control plane. -/
def blockPlane : Block → Plane
  | .index => ⟨true, true⟩
  | .resetKs => ⟨true, true⟩
  | .option => ⟨false, true⟩
  | .cadence => ⟨false, true⟩
  | .sensor => ⟨false, true⟩
  | .mechanic => ⟨false, true⟩
  | .pmbus => ⟨false, true⟩
  | .mgmtPort => ⟨false, true⟩
  | .xspiBoot => ⟨false, true⟩
  | .xspiRetain => ⟨true, false⟩
  | .saddlebag => ⟨true, true⟩
  | .cyclometer => ⟨false, true⟩
  | .msiRoute => ⟨true, true⟩
  | .debug => ⟨false, false⟩
  | .timeBase => ⟨true, false⟩
  | .timeCounter => ⟨true, false⟩
  | .timeTrigger => ⟨true, false⟩
  | .timeAgent => ⟨true, false⟩
  | .keyVault => ⟨true, true⟩
  | .frameAuth => ⟨true, false⟩
  | .dram => ⟨false, true⟩
  | .switch => ⟨true, false⟩
  | .switchPort => ⟨true, false⟩
  | .qos => ⟨true, false⟩
  | .lane => ⟨true, false⟩
  | .phyCopper => ⟨true, true⟩
  | .serdes => ⟨true, false⟩
  | .tandemLane => ⟨true, true⟩
  | .spoke => ⟨false, true⟩
  | .axle => ⟨false, true⟩
  | .svIngest => ⟨true, false⟩
  | .filter => ⟨true, false⟩
  | .detector => ⟨true, false⟩
  | .capture => ⟨true, false⟩
  | .coaster => ⟨true, false⟩
  | .tripIo => ⟨true, false⟩
  | .peloton => ⟨true, false⟩
  | .pelotonFlow => ⟨true, false⟩
  | .pannier => ⟨true, false⟩
  | .viCtrl => ⟨true, true⟩
  | .derailleur => ⟨true, false⟩
  | .dirtyLog => ⟨true, false⟩
  | .devXlate => ⟨true, false⟩
  | .crank => ⟨true, true⟩
  | .crankTask => ⟨true, false⟩
  | .hartCluster => ⟨true, true⟩
  | .viIndex => ⟨true, false⟩
  | .pelotonView => ⟨true, false⟩
  | .flowView => ⟨true, false⟩
  | .sampleView => ⟨true, false⟩
  | .egressView => ⟨true, false⟩
  | .captureView => ⟨true, false⟩
  | .keyView => ⟨true, false⟩
  | .crankView => ⟨true, false⟩
  | .timerView => ⟨true, false⟩
  | .counterView => ⟨true, false⟩
  | .viewReserved => ⟨true, false⟩

/-- On which dies a block type has a page (R53). -/
inductive DieKind where
  | hubOnly
  | computeOnly
  | allDies
  deriving DecidableEq, Repr

/-- The dies that carry the block type (R53). -/
def blockDies : Block → DieKind
  | .index => .allDies
  | .resetKs => .allDies
  | .option => .allDies
  | .cadence => .allDies
  | .sensor => .allDies
  | .mechanic => .allDies
  | .pmbus => .hubOnly
  | .mgmtPort => .hubOnly
  | .xspiBoot => .hubOnly
  | .xspiRetain => .hubOnly
  | .saddlebag => .hubOnly
  | .cyclometer => .hubOnly
  | .msiRoute => .allDies
  | .debug => .allDies
  | .timeBase => .hubOnly
  | .timeCounter => .computeOnly
  | .timeTrigger => .hubOnly
  | .timeAgent => .hubOnly
  | .keyVault => .hubOnly
  | .frameAuth => .hubOnly
  | .dram => .allDies
  | .switch => .hubOnly
  | .switchPort => .hubOnly
  | .qos => .hubOnly
  | .lane => .hubOnly
  | .phyCopper => .hubOnly
  | .serdes => .hubOnly
  | .tandemLane => .hubOnly
  | .spoke => .allDies
  | .axle => .hubOnly
  | .svIngest => .hubOnly
  | .filter => .hubOnly
  | .detector => .hubOnly
  | .capture => .hubOnly
  | .coaster => .hubOnly
  | .tripIo => .hubOnly
  | .peloton => .computeOnly
  | .pelotonFlow => .computeOnly
  | .pannier => .computeOnly
  | .viCtrl => .computeOnly
  | .derailleur => .computeOnly
  | .dirtyLog => .computeOnly
  | .devXlate => .computeOnly
  | .crank => .computeOnly
  | .crankTask => .computeOnly
  | .hartCluster => .computeOnly
  | .viIndex => .allDies
  | .pelotonView => .allDies
  | .flowView => .allDies
  | .sampleView => .allDies
  | .egressView => .allDies
  | .captureView => .allDies
  | .keyView => .allDies
  | .crankView => .allDies
  | .timerView => .allDies
  | .counterView => .allDies
  | .viewReserved => .allDies

end Sys2Proof.Machine
end

