-- ==== Sys2Proof/Machine/RegMap.lean ====
section
/-!
DEFINITION. Sys2Proof/Machine/RegMap.lean: the register maps of the block chapters, one constant per row of the
specification's register tables (offset, access code, reset value, the instances that show it).
-/
namespace Sys2Proof.Machine

/-- The access codes of R10. -/
inductive RegAccess where
  | ro | rw | rwl | rws | w1c | w1s | wo | rc
  deriving DecidableEq, Repr

/-- A register of a page, as its row of the map gives it. `cnt` registers stand `stride` bytes apart; instances
`lo` to `hi` show it (0 to 0 outside the instance window); `mask` holds the bits that are not reserved (R11);
`fused` marks a reset value that only the device knows; `aon` marks a register held in the AON domain (R60). -/
structure Reg where
  blk : Block
  off : Nat
  cnt : Nat
  stride : Nat
  lo : Nat
  hi : Nat
  acc : RegAccess
  wide : Bool
  banked : Bool
  mask : Nat
  rst : Nat
  fused : Bool
  aon : Bool
  deriving DecidableEq, Repr

/-- Register `n` of an array of registers. -/
def Reg.nth (r : Reg) (n : Nat) : Reg := { r with off := r.off + n * r.stride, cnt := 1 }


/-- SPOKE.LK_STATE (R23). -/
def R.SPOKE_LK_STATE : Reg := ⟨.spoke, 0x100, 1, 4, 0, 5, .ro, false, false, 0x1ff, 0x0, false, false⟩

/-- AXLE.LK_STATE (R23). -/
def R.AXLE_LK_STATE : Reg := ⟨.axle, 0x100, 1, 4, 0, 0, .ro, false, false, 0x1ff, 0x0, false, false⟩

/-- SPOKE.LK_RETRAINS (R23). -/
def R.SPOKE_LK_RETRAINS : Reg := ⟨.spoke, 0x104, 1, 4, 0, 5, .ro, false, false, 0xffffffff, 0x0, false, false⟩

/-- AXLE.LK_RETRAINS (R23). -/
def R.AXLE_LK_RETRAINS : Reg := ⟨.axle, 0x104, 1, 4, 0, 0, .ro, false, false, 0xffffffff, 0x0, false, false⟩

/-- SPOKE.LK_DOWNS (R23). -/
def R.SPOKE_LK_DOWNS : Reg := ⟨.spoke, 0x108, 1, 4, 0, 5, .ro, false, false, 0xffffffff, 0x0, false, false⟩

/-- AXLE.LK_DOWNS (R23). -/
def R.AXLE_LK_DOWNS : Reg := ⟨.axle, 0x108, 1, 4, 0, 0, .ro, false, false, 0xffffffff, 0x0, false, false⟩

/-- SPOKE.LK_RESENT (R23). -/
def R.SPOKE_LK_RESENT : Reg := ⟨.spoke, 0x10c, 1, 4, 0, 5, .ro, false, false, 0xffffffff, 0x0, false, false⟩

/-- AXLE.LK_RESENT (R23). -/
def R.AXLE_LK_RESENT : Reg := ⟨.axle, 0x10c, 1, 4, 0, 0, .ro, false, false, 0xffffffff, 0x0, false, false⟩

/-- SPOKE.LK_FLITS_TX (R23). -/
def R.SPOKE_LK_FLITS_TX : Reg := ⟨.spoke, 0x110, 1, 8, 0, 5, .ro, true, false, 0xffffffffffffffff, 0x0, false, false⟩

/-- AXLE.LK_FLITS_TX (R23). -/
def R.AXLE_LK_FLITS_TX : Reg := ⟨.axle, 0x110, 1, 8, 0, 0, .ro, true, false, 0xffffffffffffffff, 0x0, false, false⟩

/-- SPOKE.LK_FLITS_RX (R23). -/
def R.SPOKE_LK_FLITS_RX : Reg := ⟨.spoke, 0x118, 1, 8, 0, 5, .ro, true, false, 0xffffffffffffffff, 0x0, false, false⟩

/-- AXLE.LK_FLITS_RX (R23). -/
def R.AXLE_LK_FLITS_RX : Reg := ⟨.axle, 0x118, 1, 8, 0, 0, .ro, true, false, 0xffffffffffffffff, 0x0, false, false⟩

/-- SPOKE.LK_DOWN_CTS (R23). -/
def R.SPOKE_LK_DOWN_CTS : Reg := ⟨.spoke, 0x120, 1, 8, 0, 5, .ro, true, false, 0xffffffffffffffff, 0x0, false, false⟩

/-- AXLE.LK_DOWN_CTS (R23). -/
def R.AXLE_LK_DOWN_CTS : Reg := ⟨.axle, 0x120, 1, 8, 0, 0, .ro, true, false, 0xffffffffffffffff, 0x0, false, false⟩

/-- SPOKE.LK_UP_CTS (R23). -/
def R.SPOKE_LK_UP_CTS : Reg := ⟨.spoke, 0x128, 1, 8, 0, 5, .ro, true, false, 0xffffffffffffffff, 0x0, false, false⟩

/-- AXLE.LK_UP_CTS (R23). -/
def R.AXLE_LK_UP_CTS : Reg := ⟨.axle, 0x128, 1, 8, 0, 0, .ro, true, false, 0xffffffffffffffff, 0x0, false, false⟩

/-- SPOKE.LK_RTT (R23). -/
def R.SPOKE_LK_RTT : Reg := ⟨.spoke, 0x130, 1, 4, 0, 5, .ro, false, false, 0xffffff, 0x0, false, false⟩

/-- AXLE.LK_RTT (R23). -/
def R.AXLE_LK_RTT : Reg := ⟨.axle, 0x130, 1, 4, 0, 0, .ro, false, false, 0xffffff, 0x0, false, false⟩

/-- SPOKE.LK_ASYM (R23). -/
def R.SPOKE_LK_ASYM : Reg := ⟨.spoke, 0x134, 1, 4, 0, 5, .ro, false, false, 0xffff, 0x0, true, false⟩

/-- AXLE.LK_ASYM (R23). -/
def R.AXLE_LK_ASYM : Reg := ⟨.axle, 0x134, 1, 4, 0, 0, .ro, false, false, 0xffff, 0x0, true, false⟩

/-- SPOKE.LK_EVENT_INST (R23). -/
def R.SPOKE_LK_EVENT_INST : Reg := ⟨.spoke, 0x800, 1, 4, 0, 0, .ro, false, false, 0xf, 0x0, false, false⟩

/-- AXLE.LK_EVENT_INST (R23). -/
def R.AXLE_LK_EVENT_INST : Reg := ⟨.axle, 0x800, 1, 4, 0, 0, .ro, false, false, 0xf, 0x0, false, false⟩

/-- CADENCE.CAD_MON_INDEX (R40). -/
def R.CAD_MON_INDEX : Reg := ⟨.cadence, 0x100, 1, 4, 0, 7, .ro, false, false, 0xffff, 0x0, false, false⟩

/-- CADENCE.CAD_MON_REGION (R40). -/
def R.CAD_MON_REGION : Reg := ⟨.cadence, 0x104, 1, 4, 0, 7, .ro, false, false, 0xff, 0x0, true, false⟩

/-- CADENCE.CAD_INDEX (R40). -/
def R.CAD_INDEX : Reg := ⟨.cadence, 0x800, 1, 4, 0, 0, .ro, false, false, 0xffff, 0x0, false, false⟩

/-- CADENCE.CAD_FLOOR (R40). -/
def R.CAD_FLOOR : Reg := ⟨.cadence, 0x804, 1, 4, 0, 0, .ro, false, false, 0xffff, 0x0, true, false⟩

/-- CADENCE.CAD_MARGIN (R40). -/
def R.CAD_MARGIN : Reg := ⟨.cadence, 0x808, 1, 4, 0, 0, .rwl, false, false, 0xffff, 0x1f4, false, false⟩

/-- CADENCE.CAD_LOW (R40). -/
def R.CAD_LOW : Reg := ⟨.cadence, 0x80c, 1, 4, 0, 0, .rc, false, false, 0xffff, 0xffff, false, false⟩

/-- CADENCE.CAD_BELOW_TIME (R40). -/
def R.CAD_BELOW_TIME : Reg := ⟨.cadence, 0x810, 1, 4, 0, 0, .ro, false, false, 0xffffffff, 0x0, false, true⟩

/-- MSI_ROUTE.MSI_ADDR_LO (R75). -/
def R.MSI_ADDR_LO : Reg := ⟨.msiRoute, 0x100, 1, 4, 0, 255, .rw, false, false, 0xfffff000, 0x0, false, false⟩

/-- MSI_ROUTE.MSI_ADDR_HI (R75). -/
def R.MSI_ADDR_HI : Reg := ⟨.msiRoute, 0x104, 1, 4, 0, 255, .rw, false, false, 0xff, 0x0, false, false⟩

/-- MSI_ROUTE.MSI_DATA (R75). -/
def R.MSI_DATA : Reg := ⟨.msiRoute, 0x108, 1, 4, 0, 255, .rw, false, false, 0x7ff, 0x0, false, false⟩

/-- MSI_ROUTE.MSI_VALID (R75). -/
def R.MSI_VALID : Reg := ⟨.msiRoute, 0x10c, 1, 4, 0, 255, .rw, false, false, 0x1, 0x0, false, false⟩

/-- TIME_BASE.TIME_SEC (R94). -/
def R.TIME_SEC : Reg := ⟨.timeBase, 0x800, 1, 8, 0, 0, .ro, true, true, 0xffffffffffffffff, 0x0, false, false⟩

/-- TIME_BASE.TIME_NS (R94). -/
def R.TIME_NS : Reg := ⟨.timeBase, 0x808, 1, 4, 0, 0, .ro, false, true, 0x3fffffff, 0x0, false, false⟩

/-- TIME_BASE.TIME_FRAC (R94). -/
def R.TIME_FRAC : Reg := ⟨.timeBase, 0x80c, 1, 4, 0, 0, .ro, false, true, 0xffff, 0x0, false, false⟩

/-- TIME_BASE.CTS_NOW (R94). -/
def R.TIME_BASE_CTS_NOW : Reg := ⟨.timeBase, 0x810, 1, 8, 0, 0, .ro, true, false, 0xffffffffffffffff, 0x0, false, false⟩

/-- TIME_BASE.ADDEND (R94). -/
def R.ADDEND : Reg := ⟨.timeBase, 0x818, 1, 8, 0, 0, .ro, true, false, 0xffffffffffffffff, 0x1000000000000, false, false⟩

/-- TIME_BASE.FREQ_TRIM (R94). -/
def R.FREQ_TRIM : Reg := ⟨.timeBase, 0x820, 1, 8, 0, 0, .rwl, true, false, 0xffffffffffffffff, 0x0, false, false⟩

/-- TIME_BASE.SERVO_CORR (R94). -/
def R.SERVO_CORR : Reg := ⟨.timeBase, 0x828, 1, 8, 0, 0, .ro, true, false, 0xffffffffffffffff, 0x0, false, false⟩

/-- TIME_BASE.OFFSET_LAST (R94). -/
def R.OFFSET_LAST : Reg := ⟨.timeBase, 0x830, 1, 8, 0, 0, .ro, true, false, 0xffffffffffffffff, 0x0, false, false⟩

/-- TIME_BASE.STEP_LIMIT (R94). -/
def R.STEP_LIMIT : Reg := ⟨.timeBase, 0x838, 1, 4, 0, 0, .rwl, false, false, 0x3fffffff, 0x3e8, false, false⟩

/-- TIME_BASE.SLEW_LIMIT (R94). -/
def R.SLEW_LIMIT : Reg := ⟨.timeBase, 0x83c, 1, 4, 0, 0, .rwl, false, false, 0x1ff, 0x64, false, false⟩

/-- TIME_BASE.SRC_PRIO (R94). -/
def R.SRC_PRIO : Reg := ⟨.timeBase, 0x840, 1, 4, 0, 0, .rw, false, false, 0xffff, 0xff10, false, false⟩

/-- TIME_BASE.REF_TIMEOUT (R94). -/
def R.REF_TIMEOUT : Reg := ⟨.timeBase, 0x844, 1, 4, 0, 0, .rw, false, false, 0xffff, 0xbb8, false, false⟩

/-- TIME_BASE.LOCK_WINDOW (R94). -/
def R.LOCK_WINDOW : Reg := ⟨.timeBase, 0x848, 1, 4, 0, 0, .rw, false, false, 0xfffff, 0x64, false, false⟩

/-- TIME_BASE.LOCK_COUNT (R94). -/
def R.LOCK_COUNT : Reg := ⟨.timeBase, 0x84c, 1, 4, 0, 0, .rw, false, false, 0xff, 0x8, false, false⟩

/-- TIME_BASE.PPS_DELAY (R94). -/
def R.PPS_DELAY : Reg := ⟨.timeBase, 0x850, 1, 4, 0, 0, .rw, false, false, 0xffffffff, 0x0, false, false⟩

/-- TIME_BASE.UTC_OFFSET (R94). -/
def R.UTC_OFFSET : Reg := ⟨.timeBase, 0x854, 1, 4, 0, 0, .rw, false, false, 0xffff, 0x25, false, false⟩

/-- TIME_BASE.HOLD_AVG (R94). -/
def R.HOLD_AVG : Reg := ⟨.timeBase, 0x858, 1, 4, 0, 0, .rw, false, false, 0xfff, 0x10, false, false⟩

/-- TIME_BASE.HOLD_TIME (R94). -/
def R.HOLD_TIME : Reg := ⟨.timeBase, 0x85c, 1, 4, 0, 0, .ro, false, false, 0xffffffff, 0x0, false, false⟩

/-- TIME_BASE.PARTNER_OFFSET (R94). -/
def R.PARTNER_OFFSET : Reg := ⟨.timeBase, 0x860, 1, 4, 0, 0, .ro, false, false, 0xffffffff, 0x0, false, false⟩

/-- TIME_BASE.SYNC_MISS (R94). -/
def R.SYNC_MISS : Reg := ⟨.timeBase, 0x864, 1, 4, 0, 0, .ro, false, false, 0xffffffff, 0x0, false, false⟩

/-- TIME_BASE.SET_SEC (R94). -/
def R.SET_SEC : Reg := ⟨.timeBase, 0x870, 1, 8, 0, 0, .rw, true, false, 0xffffffffffffffff, 0x0, false, false⟩

/-- TIME_BASE.SET_NS (R94). -/
def R.SET_NS : Reg := ⟨.timeBase, 0x878, 1, 4, 0, 0, .rw, false, false, 0x3fffffff, 0x0, false, false⟩

/-- TIME_BASE.STEP_AMOUNT (R94). -/
def R.STEP_AMOUNT : Reg := ⟨.timeBase, 0x880, 1, 8, 0, 0, .rw, true, false, 0xffffffffffffffff, 0x0, false, false⟩

/-- TIME_BASE.OFFSET_IN (R94). -/
def R.OFFSET_IN : Reg := ⟨.timeBase, 0x888, 1, 8, 0, 0, .rw, true, false, 0xffffffffffffffff, 0x0, false, false⟩

/-- TIME_BASE.OFFSET_IN_CTS (R94). -/
def R.OFFSET_IN_CTS : Reg := ⟨.timeBase, 0x890, 1, 8, 0, 0, .rw, true, false, 0xffffffffffffffff, 0x0, false, false⟩

/-- TIME_BASE.SV_KP (R96). -/
def R.SV_KP : Reg := ⟨.timeBase, 0x100, 1, 4, 0, 3, .rw, false, false, 0xffffffff, 0x4000, false, false⟩

/-- TIME_BASE.SV_KI (R96). -/
def R.SV_KI : Reg := ⟨.timeBase, 0x104, 1, 4, 0, 3, .rw, false, false, 0xffffffff, 0x800, false, false⟩

/-- TIME_BASE.SV_OFFSET (R96). -/
def R.SV_OFFSET : Reg := ⟨.timeBase, 0x108, 1, 8, 0, 3, .ro, true, false, 0xffffffffffffffff, 0x0, false, false⟩

/-- TIME_BASE.SV_INTEG (R96). -/
def R.SV_INTEG : Reg := ⟨.timeBase, 0x110, 1, 8, 0, 3, .ro, true, false, 0xffffffffffffffff, 0x0, false, false⟩

/-- TIME_BASE.SV_STATE (R96). -/
def R.SV_STATE : Reg := ⟨.timeBase, 0x118, 1, 4, 0, 3, .ro, false, false, 0xffff0003, 0x0, false, false⟩

/-- TIME_AGENT.AGP_CFG (R103). -/
def R.AGP_CFG : Reg := ⟨.timeAgent, 0x100, 1, 4, 0, 11, .rw, false, false, 0xf, 0x0, false, false⟩

/-- TIME_AGENT.AGP_ASYM (R103). -/
def R.AGP_ASYM : Reg := ⟨.timeAgent, 0x104, 1, 4, 0, 11, .rw, false, false, 0xffffffff, 0x0, false, false⟩

/-- TIME_AGENT.AGP_STATE (R103). -/
def R.AGP_STATE : Reg := ⟨.timeAgent, 0x108, 1, 4, 0, 11, .ro, false, false, 0xf, 0x0, false, false⟩

/-- TIME_AGENT.AGP_DELAY (R103). -/
def R.AGP_DELAY : Reg := ⟨.timeAgent, 0x10c, 1, 4, 0, 11, .ro, false, false, 0xffffffff, 0x0, false, false⟩

/-- TIME_AGENT.AG_CTRL (R103). -/
def R.AG_CTRL : Reg := ⟨.timeAgent, 0x800, 1, 4, 0, 0, .rw, false, false, 0xfffffff7, 0x8000, false, false⟩

/-- TIME_AGENT.AG_STATUS (R103). -/
def R.AG_STATUS : Reg := ⟨.timeAgent, 0x804, 1, 4, 0, 0, .ro, false, false, 0xffffffbf, 0x0, false, false⟩

/-- TIME_AGENT.AG_INTERVALS (R103). -/
def R.AG_INTERVALS : Reg := ⟨.timeAgent, 0x808, 1, 4, 0, 0, .rw, false, false, 0xffffffff, 0x3000000, false, false⟩

/-- TIME_AGENT.AG_PARENT (R103). -/
def R.AG_PARENT : Reg := ⟨.timeAgent, 0x810, 1, 8, 0, 0, .ro, true, false, 0xffffffffffffffff, 0x0, false, false⟩

/-- TIME_COUNTER.CTS_NOW (R113). -/
def R.TIME_COUNTER_CTS_NOW : Reg := ⟨.timeCounter, 0x800, 1, 8, 0, 0, .ro, true, false, 0xffffffffffffffff, 0x0, false, false⟩

/-- TIME_COUNTER.STAMP (R113). -/
def R.STAMP : Reg := ⟨.timeCounter, 0x808, 1, 8, 0, 0, .ro, true, false, 0xffffffffffffffff, 0x0, false, false⟩

/-- TIME_COUNTER.STAMP_ORDER (R113). -/
def R.STAMP_ORDER : Reg := ⟨.timeCounter, 0x810, 1, 4, 0, 0, .ro, false, true, 0xffffffff, 0x0, false, false⟩

/-- TIME_COUNTER.DISC_OFFSET (R113). -/
def R.DISC_OFFSET : Reg := ⟨.timeCounter, 0x814, 1, 4, 0, 0, .ro, false, false, 0xffffffff, 0x0, false, false⟩

/-- TIME_COUNTER.DISC_SWITCH (R113). -/
def R.DISC_SWITCH : Reg := ⟨.timeCounter, 0x818, 1, 4, 0, 0, .ro, false, false, 0xffffffff, 0x0, false, false⟩

/-- TIME_TRIGGER.TRG_CTRL (R115). -/
def R.TRG_CTRL : Reg := ⟨.timeTrigger, 0x100, 1, 4, 0, 15, .rw, false, false, 0xffff00ef, 0x0, false, false⟩

/-- TIME_TRIGGER.TRG_RATE (R115). -/
def R.TRG_RATE : Reg := ⟨.timeTrigger, 0x104, 1, 4, 0, 15, .rw, false, false, 0xfffff, 0x0, false, false⟩

/-- TIME_TRIGGER.TRG_START (R115). -/
def R.TRG_START : Reg := ⟨.timeTrigger, 0x108, 1, 8, 0, 15, .rw, true, false, 0xffffffffffffffff, 0x0, false, false⟩

/-- TIME_TRIGGER.TRG_PERIOD (R115). -/
def R.TRG_PERIOD : Reg := ⟨.timeTrigger, 0x110, 1, 4, 0, 15, .rw, false, false, 0xffffffff, 0x0, false, false⟩

/-- TIME_TRIGGER.TRG_WIDTH (R115). -/
def R.TRG_WIDTH : Reg := ⟨.timeTrigger, 0x114, 1, 4, 0, 15, .rw, false, false, 0xffffffff, 0x3e8, false, false⟩

/-- TIME_TRIGGER.TRG_NEXT (R115). -/
def R.TRG_NEXT : Reg := ⟨.timeTrigger, 0x118, 1, 8, 0, 15, .ro, true, false, 0xffffffffffffffff, 0x0, false, false⟩

/-- TIME_TRIGGER.TRG_COUNT (R115). -/
def R.TRG_COUNT : Reg := ⟨.timeTrigger, 0x120, 1, 4, 0, 15, .ro, false, false, 0xffffffff, 0x0, false, false⟩

/-- TIME_TRIGGER.TRG_SKIP (R115). -/
def R.TRG_SKIP : Reg := ⟨.timeTrigger, 0x124, 1, 4, 0, 15, .ro, false, false, 0xffffffff, 0x0, false, false⟩

/-- TIME_TRIGGER.TRG_OWNER (R115). -/
def R.TRG_OWNER : Reg := ⟨.timeTrigger, 0x128, 1, 4, 0, 15, .ro, false, false, 0x1ff, 0x0, false, false⟩

/-- TIME_TRIGGER.TRG_MSI (R115). -/
def R.TRG_MSI : Reg := ⟨.timeTrigger, 0x12c, 1, 4, 0, 15, .rw, false, false, 0xff, 0x0, false, false⟩

/-- TIME_TRIGGER.TRG_LAST (R115). -/
def R.TRG_LAST : Reg := ⟨.timeTrigger, 0x130, 1, 8, 0, 15, .ro, true, false, 0xffffffffffffffff, 0x0, false, false⟩

/-- TIMER_VIEW.TV_CTS_NOW (R120). -/
def R.TV_CTS_NOW : Reg := ⟨.timerView, 0x800, 1, 8, 0, 0, .ro, true, false, 0xffffffffffffffff, 0x0, false, false⟩

/-- TIMER_VIEW.TV_TIME (R120). -/
def R.TV_TIME : Reg := ⟨.timerView, 0x808, 1, 4, 0, 0, .ro, false, false, 0x71f, 0x0, false, false⟩

/-- TIMER_VIEW.TV_UTC_OFFSET (R120). -/
def R.TV_UTC_OFFSET : Reg := ⟨.timerView, 0x80c, 1, 4, 0, 0, .ro, false, false, 0xffffffff, 0x25, false, false⟩

/-- TIMER_VIEW.TV_CHOSEN (R120). -/
def R.TV_CHOSEN : Reg := ⟨.timerView, 0x810, 1, 4, 0, 0, .ro, false, false, 0x1f, 0x0, false, false⟩

/-- TIMER_VIEW.TV_FIRED (R120). -/
def R.TV_FIRED : Reg := ⟨.timerView, 0x814, 1, 4, 0, 0, .rc, false, false, 0xffffffff, 0x0, false, false⟩

/-- EGRESS_VIEW.EGV_ENTRY (R155). -/
def R.EGV_ENTRY : Reg := ⟨.egressView, 0x100, 1, 4, 0, 1023, .ro, false, false, 0x3ff, 0x0, false, false⟩

/-- EGRESS_VIEW.EGV_CFG (R155). -/
def R.EGV_CFG : Reg := ⟨.egressView, 0x104, 1, 4, 0, 1023, .ro, false, false, 0x3f, 0x0, false, false⟩

/-- EGRESS_VIEW.EGV_RELEASED (R155). -/
def R.EGV_RELEASED : Reg := ⟨.egressView, 0x108, 1, 4, 0, 1023, .ro, false, false, 0xffffffff, 0x0, false, false⟩

/-- EGRESS_VIEW.EGV_DENIED (R155). -/
def R.EGV_DENIED : Reg := ⟨.egressView, 0x10c, 1, 4, 0, 1023, .ro, false, false, 0xffffffff, 0x0, false, false⟩

/-- EGRESS_VIEW.EGV_MISS (R155). -/
def R.EGV_MISS : Reg := ⟨.egressView, 0x110, 1, 4, 0, 1023, .ro, false, false, 0xffffffff, 0x0, false, false⟩

/-- EGRESS_VIEW.EG_BUF (R155). -/
def R.EG_BUF : Reg := ⟨.egressView, 0x800, 1, 8, 0, 0, .rw, true, true, 0xffffffffffffffff, 0x0, false, false⟩

/-- EGRESS_VIEW.EG_LEN (R155). -/
def R.EG_LEN : Reg := ⟨.egressView, 0x808, 1, 4, 0, 0, .rw, false, true, 0x3fff, 0x0, false, false⟩

/-- EGRESS_VIEW.EG_READ_SEQ (R155). -/
def R.EG_READ_SEQ : Reg := ⟨.egressView, 0x80c, 1, 4, 0, 0, .ro, false, true, 0xffff, 0x0, false, false⟩

/-- EGRESS_VIEW.EG_RATE (R155). -/
def R.EG_RATE : Reg := ⟨.egressView, 0x810, 1, 4, 0, 0, .ro, false, false, 0x1ffffff, 0x0, false, false⟩

/-- EGRESS_VIEW.EG_BURST (R155). -/
def R.EG_BURST : Reg := ⟨.egressView, 0x814, 1, 4, 0, 0, .ro, false, false, 0xfffff, 0x0, false, false⟩

/-- EGRESS_VIEW.EG_TOKENS_A (R155). -/
def R.EGRESS_VIEW_EG_TOKENS_A : Reg := ⟨.egressView, 0x818, 1, 4, 0, 0, .ro, false, false, 0xfffff, 0x0, false, false⟩

/-- EGRESS_VIEW.EG_TOKENS_B (R155). -/
def R.EGRESS_VIEW_EG_TOKENS_B : Reg := ⟨.egressView, 0x81c, 1, 4, 0, 0, .ro, false, false, 0xfffff, 0x0, false, false⟩

/-- EGRESS_VIEW.EG_WAITING (R155). -/
def R.EG_WAITING : Reg := ⟨.egressView, 0x820, 1, 4, 0, 0, .ro, false, false, 0xffffffff, 0x0, false, false⟩

/-- EGRESS_VIEW.EG_SENT (R155). -/
def R.EG_SENT : Reg := ⟨.egressView, 0x824, 1, 4, 0, 0, .ro, false, false, 0xffffffff, 0x0, false, false⟩

/-- EGRESS_VIEW.EG_FAULT (R155). -/
def R.EG_FAULT : Reg := ⟨.egressView, 0x828, 1, 4, 0, 0, .ro, false, false, 0xffffffff, 0x0, false, false⟩

/-- SWITCH.SW_CFG (R163). -/
def R.SW_CFG : Reg := ⟨.switch, 0x800, 1, 4, 0, 0, .rw, false, false, 0xffff0001, 0x12c0000, false, false⟩

/-- SWITCH.SW_STATUS (R163). -/
def R.SW_STATUS : Reg := ⟨.switch, 0x804, 1, 4, 0, 0, .ro, false, false, 0x3, 0x0, false, false⟩

/-- SWITCH.BUF_FREE (R163). -/
def R.BUF_FREE : Reg := ⟨.switch, 0x808, 1, 4, 0, 0, .ro, false, false, 0x7ffff, 0x40000, false, false⟩

/-- SWITCH.BUF_POOL (R163). -/
def R.BUF_POOL : Reg := ⟨.switch, 0x80c, 1, 4, 0, 0, .ro, false, false, 0x7ffff, 0x38000, false, false⟩

/-- SWITCH.TBL_DATA0_3 (R163). -/
def R.TBL_DATA0_3 : Reg := ⟨.switch, 0x810, 4, 4, 0, 0, .rw, false, true, 0xffffffff, 0x0, false, false⟩

/-- SWITCH.TBL_INDEX (R163). -/
def R.TBL_INDEX : Reg := ⟨.switch, 0x820, 1, 4, 0, 0, .ro, false, true, 0xffff, 0x0, false, false⟩

/-- SWITCH.LEARN_FULL (R163). -/
def R.LEARN_FULL : Reg := ⟨.switch, 0x824, 1, 4, 0, 0, .ro, false, false, 0xffffffff, 0x0, false, false⟩

/-- SWITCH.SMP_RING_BASE (R163). -/
def R.SMP_RING_BASE : Reg := ⟨.switch, 0x828, 1, 8, 0, 0, .rwl, true, false, 0xffffffffffffffff, 0x0, false, false⟩

/-- SWITCH.SMP_RING_SIZE (R163). -/
def R.SMP_RING_SIZE : Reg := ⟨.switch, 0x830, 1, 4, 0, 0, .rwl, false, false, 0x1f, 0xc, false, false⟩

/-- SWITCH.SMP_HEAD (R163). -/
def R.SMP_HEAD : Reg := ⟨.switch, 0x834, 1, 4, 0, 0, .ro, false, false, 0xfffff, 0x0, false, false⟩

/-- SWITCH.SMP_TAIL (R163). -/
def R.SMP_TAIL : Reg := ⟨.switch, 0x838, 1, 4, 0, 0, .rw, false, false, 0xfffff, 0x0, false, false⟩

/-- SWITCH.SMP_DROP (R163). -/
def R.SMP_DROP : Reg := ⟨.switch, 0x83c, 1, 4, 0, 0, .ro, false, false, 0xffffffff, 0x0, false, false⟩

/-- SWITCH.SMP_CFG (R164). -/
def R.SMP_CFG : Reg := ⟨.switch, 0x100, 1, 4, 0, 31, .rw, false, false, 0x7f, 0x0, false, false⟩

/-- SWITCH.MIR_SRC (R164). -/
def R.MIR_SRC : Reg := ⟨.switch, 0x100, 1, 4, 32, 35, .rw, false, false, 0xffffffff, 0x0, false, false⟩

/-- SWITCH.SMP_N (R164). -/
def R.SMP_N : Reg := ⟨.switch, 0x104, 1, 4, 0, 31, .rw, false, false, 0xffffff, 0x0, false, false⟩

/-- SWITCH.MIR_DST (R164). -/
def R.MIR_DST : Reg := ⟨.switch, 0x104, 1, 4, 32, 35, .rw, false, false, 0xff, 0x0, false, false⟩

/-- SWITCH.SMP_SEEN (R164). -/
def R.SMP_SEEN : Reg := ⟨.switch, 0x108, 1, 4, 0, 35, .ro, false, false, 0xffffffff, 0x0, false, false⟩

/-- SWITCH.SMP_TAKEN (R164). -/
def R.SMP_TAKEN : Reg := ⟨.switch, 0x10c, 1, 4, 0, 35, .ro, false, false, 0xffffffff, 0x0, false, false⟩

/-- SWITCH.SESSION_STATE (R164). -/
def R.SESSION_STATE : Reg := ⟨.switch, 0x110, 1, 4, 0, 35, .ro, false, false, 0x1, 0x0, false, false⟩

/-- SWITCH_PORT.PORT_CFG (R167). -/
def R.PORT_CFG : Reg := ⟨.switchPort, 0x100, 1, 4, 0, 15, .rw, false, false, 0x3ffffff7, 0x5f20014, false, false⟩

/-- SWITCH_PORT.PORT_PCP_MAP (R167). -/
def R.PORT_PCP_MAP : Reg := ⟨.switchPort, 0x104, 1, 4, 0, 15, .rw, false, false, 0xffffff, 0xfac688, false, false⟩

/-- SWITCH_PORT.PORT_STATE (R167). -/
def R.PORT_STATE : Reg := ⟨.switchPort, 0x108, 1, 4, 0, 15, .ro, false, false, 0x1f, 0x0, false, false⟩

/-- SWITCH_PORT.PORT_HOLD_UP (R167). -/
def R.PORT_HOLD_UP : Reg := ⟨.switchPort, 0x10c, 1, 4, 0, 15, .rw, false, false, 0x3fff, 0x64, false, false⟩

/-- SWITCH_PORT.DOWN_STAMP (R167). -/
def R.DOWN_STAMP : Reg := ⟨.switchPort, 0x110, 1, 8, 0, 15, .ro, true, false, 0xffffffffffffffff, 0x0, false, false⟩

/-- SWITCH_PORT.UP_STAMP (R167). -/
def R.UP_STAMP : Reg := ⟨.switchPort, 0x118, 1, 8, 0, 15, .ro, true, false, 0xffffffffffffffff, 0x0, false, false⟩

/-- SWITCH_PORT.QBV_BASE (R167). -/
def R.QBV_BASE : Reg := ⟨.switchPort, 0x120, 1, 8, 0, 15, .rw, true, false, 0xffffffffffffffff, 0x0, false, false⟩

/-- SWITCH_PORT.QBV_CYCLE (R167). -/
def R.QBV_CYCLE : Reg := ⟨.switchPort, 0x128, 1, 4, 0, 15, .rw, false, false, 0xffffffff, 0x0, false, false⟩

/-- SWITCH_PORT.QBV_LEN (R167). -/
def R.QBV_LEN : Reg := ⟨.switchPort, 0x12c, 1, 4, 0, 15, .rw, false, false, 0x1ff, 0x1, false, false⟩

/-- SWITCH_PORT.QBV_OPER_CYCLE (R167). -/
def R.QBV_OPER_CYCLE : Reg := ⟨.switchPort, 0x130, 1, 4, 0, 15, .ro, false, false, 0xffffffff, 0x0, false, false⟩

/-- SWITCH_PORT.QBV_CHANGE (R167). -/
def R.QBV_CHANGE : Reg := ⟨.switchPort, 0x138, 1, 8, 0, 15, .ro, true, false, 0xffffffffffffffff, 0x0, false, false⟩

/-- SWITCH_PORT.RX_FRAMES (R167). -/
def R.SWITCH_PORT_RX_FRAMES : Reg := ⟨.switchPort, 0x200, 1, 8, 0, 15, .ro, true, false, 0xffffffffffffffff, 0x0, false, false⟩

/-- SWITCH_PORT.RX_BYTES (R167). -/
def R.RX_BYTES : Reg := ⟨.switchPort, 0x208, 1, 8, 0, 15, .ro, true, false, 0xffffffffffffffff, 0x0, false, false⟩

/-- SWITCH_PORT.TX_FRAMES (R167). -/
def R.SWITCH_PORT_TX_FRAMES : Reg := ⟨.switchPort, 0x210, 1, 8, 0, 15, .ro, true, false, 0xffffffffffffffff, 0x0, false, false⟩

/-- SWITCH_PORT.TX_BYTES (R167). -/
def R.TX_BYTES : Reg := ⟨.switchPort, 0x218, 1, 8, 0, 15, .ro, true, false, 0xffffffffffffffff, 0x0, false, false⟩

/-- SWITCH_PORT.RX_MCAST (R167). -/
def R.RX_MCAST : Reg := ⟨.switchPort, 0x220, 1, 8, 0, 15, .ro, true, false, 0xffffffffffffffff, 0x0, false, false⟩

/-- SWITCH_PORT.TX_MCAST (R167). -/
def R.TX_MCAST : Reg := ⟨.switchPort, 0x228, 1, 8, 0, 15, .ro, true, false, 0xffffffffffffffff, 0x0, false, false⟩

/-- SWITCH_PORT.RX_CRC_ERR (R167). -/
def R.RX_CRC_ERR : Reg := ⟨.switchPort, 0x230, 1, 8, 0, 15, .ro, true, false, 0xffffffffffffffff, 0x0, false, false⟩

/-- SWITCH_PORT.RX_SYMBOL_ERR (R167). -/
def R.RX_SYMBOL_ERR : Reg := ⟨.switchPort, 0x238, 1, 8, 0, 15, .ro, true, false, 0xffffffffffffffff, 0x0, false, false⟩

/-- SWITCH_PORT.RX_RUNT (R167). -/
def R.RX_RUNT : Reg := ⟨.switchPort, 0x240, 1, 8, 0, 15, .ro, true, false, 0xffffffffffffffff, 0x0, false, false⟩

/-- SWITCH_PORT.RX_OVERSIZE (R167). -/
def R.RX_OVERSIZE : Reg := ⟨.switchPort, 0x248, 1, 8, 0, 15, .ro, true, false, 0xffffffffffffffff, 0x0, false, false⟩

/-- SWITCH_PORT.CTRL_DROP (R167). -/
def R.CTRL_DROP : Reg := ⟨.switchPort, 0x250, 1, 8, 0, 15, .ro, true, false, 0xffffffffffffffff, 0x0, false, false⟩

/-- SWITCH_PORT.VLAN_DROP (R167). -/
def R.VLAN_DROP : Reg := ⟨.switchPort, 0x258, 1, 8, 0, 15, .ro, true, false, 0xffffffffffffffff, 0x0, false, false⟩

/-- SWITCH_PORT.UNKNOWN_DROP (R167). -/
def R.UNKNOWN_DROP : Reg := ⟨.switchPort, 0x260, 1, 8, 0, 15, .ro, true, false, 0xffffffffffffffff, 0x0, false, false⟩

/-- SWITCH_PORT.POLICE_DROP (R167). -/
def R.POLICE_DROP : Reg := ⟨.switchPort, 0x268, 1, 8, 0, 15, .ro, true, false, 0xffffffffffffffff, 0x0, false, false⟩

/-- SWITCH_PORT.CT_FRAMES (R167). -/
def R.CT_FRAMES : Reg := ⟨.switchPort, 0x270, 1, 8, 0, 15, .ro, true, false, 0xffffffffffffffff, 0x0, false, false⟩

/-- SWITCH_PORT.CT_STOMP (R167). -/
def R.CT_STOMP : Reg := ⟨.switchPort, 0x278, 1, 8, 0, 15, .ro, true, false, 0xffffffffffffffff, 0x0, false, false⟩

/-- SWITCH_PORT.WRED_DROP (R167). -/
def R.WRED_DROP : Reg := ⟨.switchPort, 0x280, 1, 8, 0, 15, .ro, true, false, 0xffffffffffffffff, 0x0, false, false⟩

/-- SWITCH_PORT.TAIL_DROP (R167). -/
def R.TAIL_DROP : Reg := ⟨.switchPort, 0x288, 1, 8, 0, 15, .ro, true, false, 0xffffffffffffffff, 0x0, false, false⟩

/-- SWITCH_PORT.MAX_SDU_DROP (R167). -/
def R.MAX_SDU_DROP : Reg := ⟨.switchPort, 0x290, 1, 8, 0, 15, .ro, true, false, 0xffffffffffffffff, 0x0, false, false⟩

/-- SWITCH_PORT.DOWN_FLUSH (R167). -/
def R.DOWN_FLUSH : Reg := ⟨.switchPort, 0x298, 1, 8, 0, 15, .ro, true, false, 0xffffffffffffffff, 0x0, false, false⟩

/-- SWITCH_PORT.DOWN_DROP (R167). -/
def R.DOWN_DROP : Reg := ⟨.switchPort, 0x2a0, 1, 8, 0, 15, .ro, true, false, 0xffffffffffffffff, 0x0, false, false⟩

/-- SWITCH_PORT.MIRROR_DROP (R167). -/
def R.MIRROR_DROP : Reg := ⟨.switchPort, 0x2a8, 1, 8, 0, 15, .ro, true, false, 0xffffffffffffffff, 0x0, false, false⟩

/-- SWITCH_PORT.PUB_WAIT (R167). -/
def R.PUB_WAIT : Reg := ⟨.switchPort, 0x2b0, 1, 8, 0, 15, .ro, true, false, 0xffffffffffffffff, 0x0, false, false⟩

/-- QOS.Q_CFG (R168). -/
def R.Q_CFG : Reg := ⟨.qos, 0x100, 1, 4, 0, 127, .rw, false, false, 0xfff0f11, 0x180001, false, false⟩

/-- QOS.Q_RSV (R168). -/
def R.Q_RSV : Reg := ⟨.qos, 0x104, 1, 4, 0, 127, .rw, false, false, 0x7ffff, 0x100, false, false⟩

/-- QOS.Q_LIMIT (R168). -/
def R.Q_LIMIT : Reg := ⟨.qos, 0x108, 1, 4, 0, 127, .rw, false, false, 0x7ffff, 0x10000, false, false⟩

/-- QOS.Q_MAX_SDU (R168). -/
def R.Q_MAX_SDU : Reg := ⟨.qos, 0x10c, 1, 4, 0, 127, .rw, false, false, 0x3fff, 0x2400, false, false⟩

/-- QOS.Q_POLICER (R168). -/
def R.Q_POLICER : Reg := ⟨.qos, 0x110, 1, 4, 0, 127, .rw, false, false, 0x83ff, 0x0, false, false⟩

/-- QOS.Q_DEPTH (R168). -/
def R.Q_DEPTH : Reg := ⟨.qos, 0x114, 1, 4, 0, 127, .ro, false, false, 0x7ffff, 0x0, false, false⟩

/-- QOS.Q_PEAK (R168). -/
def R.Q_PEAK : Reg := ⟨.qos, 0x118, 1, 4, 0, 127, .rc, false, false, 0x7ffff, 0x0, false, false⟩

/-- QOS.Q_AVG (R168). -/
def R.Q_AVG : Reg := ⟨.qos, 0x11c, 1, 4, 0, 127, .ro, false, false, 0x7ffff, 0x0, false, false⟩

/-- QOS.TXQ_FRAMES (R168). -/
def R.TXQ_FRAMES : Reg := ⟨.qos, 0x120, 1, 8, 0, 127, .ro, true, false, 0xffffffffffffffff, 0x0, false, false⟩

/-- QOS.TXQ_BYTES (R168). -/
def R.TXQ_BYTES : Reg := ⟨.qos, 0x128, 1, 8, 0, 127, .ro, true, false, 0xffffffffffffffff, 0x0, false, false⟩

/-- LANE.LANE_CFG (R189). -/
def R.LANE_CFG : Reg := ⟨.lane, 0x800, 1, 4, 0, 0, .rwl, false, false, 0xff0f, 0x0, false, false⟩

/-- LANE.SUP_INTERVAL (R189). -/
def R.SUP_INTERVAL : Reg := ⟨.lane, 0x804, 1, 4, 0, 0, .rw, false, false, 0xffff, 0x7d0, false, false⟩

/-- LANE.ENTRY_FORGET (R189). -/
def R.ENTRY_FORGET : Reg := ⟨.lane, 0x808, 1, 4, 0, 0, .rw, false, false, 0x3fff, 0x190, false, false⟩

/-- LANE.NODE_FORGET (R189). -/
def R.NODE_FORGET : Reg := ⟨.lane, 0x80c, 1, 4, 0, 0, .rw, false, false, 0xfff, 0x3c, false, false⟩

/-- LANE.SHADOW_BASE (R189). -/
def R.SHADOW_BASE : Reg := ⟨.lane, 0x810, 1, 8, 0, 0, .rwl, true, false, 0xffffffffffffffff, 0x0, false, false⟩

/-- LANE.SHADOW_SIZE (R189). -/
def R.SHADOW_SIZE : Reg := ⟨.lane, 0x818, 1, 4, 0, 0, .rwl, false, false, 0x1f, 0x14, false, false⟩

/-- LANE.SHADOW_DEPTH (R189). -/
def R.SHADOW_DEPTH : Reg := ⟨.lane, 0x81c, 1, 4, 0, 0, .rw, false, false, 0x7fff, 0xfa0, false, false⟩

/-- LANE.REHOME_AT (R189). -/
def R.REHOME_AT : Reg := ⟨.lane, 0x820, 1, 8, 0, 0, .rw, true, false, 0xffffffffffffffff, 0x0, false, false⟩

/-- LANE.REHOME_WARM (R189). -/
def R.REHOME_WARM : Reg := ⟨.lane, 0x828, 1, 4, 0, 0, .rw, false, false, 0x1ffff, 0x7d0, false, false⟩

/-- LANE.REHOME_LAST (R189). -/
def R.REHOME_LAST : Reg := ⟨.lane, 0x830, 1, 8, 0, 0, .ro, true, false, 0xffffffffffffffff, 0x0, false, false⟩

/-- LANE.NODE_COUNT (R189). -/
def R.NODE_COUNT : Reg := ⟨.lane, 0x838, 1, 4, 0, 0, .ro, false, false, 0x1ffff, 0x0, false, false⟩

/-- LANE.NODE_FULL (R189). -/
def R.NODE_FULL : Reg := ⟨.lane, 0x83c, 1, 4, 0, 0, .ro, false, false, 0xffffffff, 0x0, false, false⟩

/-- LANE.SHADOW_OVERRUN (R189). -/
def R.SHADOW_OVERRUN : Reg := ⟨.lane, 0x840, 1, 4, 0, 0, .ro, false, false, 0xffffffff, 0x0, false, false⟩

/-- LANE.NODE_DATA0_7 (R189). -/
def R.NODE_DATA0_7 : Reg := ⟨.lane, 0x844, 8, 4, 0, 0, .rw, false, true, 0xffffffff, 0x0, false, false⟩

/-- LANE.LP_CFG (R190). -/
def R.LP_CFG : Reg := ⟨.lane, 0x100, 1, 4, 0, 11, .rwl, false, false, 0xffff0f07, 0xa0500, false, false⟩

/-- LANE.LP_LOS_FILTER (R190). -/
def R.LP_LOS_FILTER : Reg := ⟨.lane, 0x104, 1, 4, 0, 11, .rw, false, false, 0xffff, 0xa, false, false⟩

/-- LANE.LP_STATE (R190). -/
def R.LP_STATE : Reg := ⟨.lane, 0x108, 1, 4, 0, 11, .ro, false, false, 0xf0f, 0x0, false, false⟩

/-- LANE.RX_TAGGED (R190). -/
def R.RX_TAGGED : Reg := ⟨.lane, 0x10c, 1, 4, 0, 11, .ro, false, false, 0xffffffff, 0x0, false, false⟩

/-- LANE.RX_WRONG_LAN (R190). -/
def R.RX_WRONG_LAN : Reg := ⟨.lane, 0x110, 1, 4, 0, 11, .ro, false, false, 0xffffffff, 0x0, false, false⟩

/-- LANE.TX_TAGGED (R190). -/
def R.TX_TAGGED : Reg := ⟨.lane, 0x114, 1, 4, 0, 11, .ro, false, false, 0xffffffff, 0x0, false, false⟩

/-- LANE.DUP_DISCARD (R190). -/
def R.LANE_DUP_DISCARD : Reg := ⟨.lane, 0x118, 1, 4, 0, 11, .ro, false, false, 0xffffffff, 0x0, false, false⟩

/-- LANE.OUT_OF_WINDOW (R190). -/
def R.OUT_OF_WINDOW : Reg := ⟨.lane, 0x11c, 1, 4, 0, 11, .ro, false, false, 0xffffffff, 0x0, false, false⟩

/-- LANE.PT_AN_LPA (R190). -/
def R.PT_AN_LPA : Reg := ⟨.lane, 0x120, 1, 4, 0, 11, .ro, false, false, 0xffff, 0x0, false, false⟩

/-- LANE.PT_AN_CTS (R190). -/
def R.PT_AN_CTS : Reg := ⟨.lane, 0x128, 1, 8, 0, 11, .ro, true, false, 0xffffffffffffffff, 0x0, false, false⟩

/-- LANE.PT_LLDP_CTS (R190). -/
def R.PT_LLDP_CTS : Reg := ⟨.lane, 0x130, 1, 8, 0, 11, .ro, true, false, 0xffffffffffffffff, 0x0, false, false⟩

/-- LANE.PT_LLDP_LEN (R190). -/
def R.PT_LLDP_LEN : Reg := ⟨.lane, 0x138, 1, 4, 0, 11, .ro, false, false, 0x83ff, 0x0, false, false⟩

/-- LANE.PT_ANN_CTS (R190). -/
def R.PT_ANN_CTS : Reg := ⟨.lane, 0x140, 1, 8, 0, 11, .ro, true, false, 0xffffffffffffffff, 0x0, false, false⟩

/-- LANE.PT_ANN_GM (R190). -/
def R.PT_ANN_GM : Reg := ⟨.lane, 0x148, 1, 8, 0, 11, .ro, true, false, 0xffffffffffffffff, 0x0, false, false⟩

/-- LANE.PT_ANN_QUAL (R190). -/
def R.PT_ANN_QUAL : Reg := ⟨.lane, 0x150, 1, 4, 0, 11, .ro, false, false, 0xffffffff, 0x0, false, false⟩

/-- LANE.PT_ANN_MISC (R190). -/
def R.PT_ANN_MISC : Reg := ⟨.lane, 0x154, 1, 4, 0, 11, .ro, false, false, 0xffffffff, 0x0, false, false⟩

/-- LANE.PT_LLDP (R190). -/
def R.PT_LLDP : Reg := ⟨.lane, 0x400, 128, 4, 0, 11, .ro, false, false, 0xffffffff, 0x0, false, false⟩

/-- SERDES.SD_CFG (R193). -/
def R.SD_CFG : Reg := ⟨.serdes, 0x100, 1, 4, 0, 9, .rwl, false, false, 0x3f, 0x2, false, false⟩

/-- SERDES.SD_STATUS (R193). -/
def R.SD_STATUS : Reg := ⟨.serdes, 0x104, 1, 4, 0, 9, .ro, false, false, 0x3f, 0x1, false, false⟩

/-- SERDES.DDM_TEMP_VCC (R193). -/
def R.DDM_TEMP_VCC : Reg := ⟨.serdes, 0x108, 1, 4, 0, 9, .ro, false, false, 0xffffffff, 0x0, false, false⟩

/-- SERDES.DDM_BIAS_TXP (R193). -/
def R.DDM_BIAS_TXP : Reg := ⟨.serdes, 0x10c, 1, 4, 0, 9, .ro, false, false, 0xffffffff, 0x0, false, false⟩

/-- SERDES.DDM_RXP (R193). -/
def R.DDM_RXP : Reg := ⟨.serdes, 0x110, 1, 4, 0, 9, .ro, false, false, 0xffff, 0x0, false, false⟩

/-- SERDES.DDM_FLAGS (R193). -/
def R.DDM_FLAGS : Reg := ⟨.serdes, 0x114, 1, 4, 0, 9, .ro, false, false, 0xffffffff, 0x0, false, false⟩

/-- SERDES.DDM_CTS (R193). -/
def R.DDM_CTS : Reg := ⟨.serdes, 0x118, 1, 8, 0, 9, .ro, true, false, 0xffffffffffffffff, 0x0, false, false⟩

/-- SERDES.SFP_ID (R193). -/
def R.SFP_ID : Reg := ⟨.serdes, 0x400, 24, 4, 0, 9, .ro, false, false, 0xffffffff, 0x0, false, false⟩

/-- PHY_COPPER.CU_CFG (R194). -/
def R.CU_CFG : Reg := ⟨.phyCopper, 0x100, 1, 4, 0, 1, .rwl, false, false, 0xf, 0x9, false, false⟩

/-- PHY_COPPER.CU_STATUS (R194). -/
def R.CU_STATUS : Reg := ⟨.phyCopper, 0x104, 1, 4, 0, 1, .ro, false, false, 0x7, 0x0, false, false⟩

/-- PHY_COPPER.TDR_NVP (R194). -/
def R.TDR_NVP : Reg := ⟨.phyCopper, 0x108, 1, 4, 0, 1, .rw, false, false, 0x3ff, 0x294, false, false⟩

/-- PHY_COPPER.TDR_PAIR0_3 (R194). -/
def R.TDR_PAIR0_3 : Reg := ⟨.phyCopper, 0x110, 4, 4, 0, 1, .ro, false, false, 0xffffffff, 0x7, false, false⟩

/-- PHY_COPPER.TDR_CTS (R194). -/
def R.TDR_CTS : Reg := ⟨.phyCopper, 0x120, 1, 8, 0, 1, .ro, true, false, 0xffffffffffffffff, 0x0, false, false⟩

/-- SV_INGEST.IN_SLOTS_USED (R218). -/
def R.IN_SLOTS_USED : Reg := ⟨.svIngest, 0x800, 1, 4, 0, 0, .ro, false, false, 0x1fff, 0x0, false, false⟩

/-- SV_INGEST.IN_STREAMS_ON (R218). -/
def R.IN_STREAMS_ON : Reg := ⟨.svIngest, 0x804, 1, 4, 0, 0, .ro, false, false, 0x7ff, 0x0, false, false⟩

/-- SV_INGEST.IN_UNMATCHED (R218). -/
def R.IN_UNMATCHED : Reg := ⟨.svIngest, 0x808, 1, 4, 0, 0, .ro, false, false, 0xffffffff, 0x0, false, false⟩

/-- SV_INGEST.IN_UNMATCHED_KEY (R218). -/
def R.IN_UNMATCHED_KEY : Reg := ⟨.svIngest, 0x80c, 1, 4, 0, 0, .ro, false, false, 0xffff, 0x0, false, false⟩

/-- SV_INGEST.IN_EVENT_STREAM (R218). -/
def R.IN_EVENT_STREAM : Reg := ⟨.svIngest, 0x810, 1, 4, 0, 0, .ro, false, false, 0x3ff, 0x0, false, false⟩

/-- SV_INGEST.IN_AUTH_MODE (R218). -/
def R.IN_AUTH_MODE : Reg := ⟨.svIngest, 0x814, 1, 4, 0, 0, .ro, false, false, 0x3, 0x0, false, false⟩

/-- SV_INGEST.ST_MATCH0 (R219). -/
def R.ST_MATCH0 : Reg := ⟨.svIngest, 0x100, 1, 4, 0, 1023, .rw, false, false, 0xffffffff, 0x0, false, false⟩

/-- SV_INGEST.ST_MATCH1 (R219). -/
def R.ST_MATCH1 : Reg := ⟨.svIngest, 0x104, 1, 4, 0, 1023, .rw, false, false, 0xffffffff, 0x0, false, false⟩

/-- SV_INGEST.ST_CFG (R219). -/
def R.ST_CFG : Reg := ⟨.svIngest, 0x108, 1, 4, 0, 1023, .rw, false, false, 0x3ff3ff, 0x10006, false, false⟩

/-- SV_INGEST.ST_RATE (R219). -/
def R.ST_RATE : Reg := ⟨.svIngest, 0x10c, 1, 4, 0, 1023, .rw, false, false, 0x7ffff, 0x12c0, false, false⟩

/-- SV_INGEST.ST_CONFREV (R219). -/
def R.ST_CONFREV : Reg := ⟨.svIngest, 0x110, 1, 4, 0, 1023, .rw, false, false, 0xffffffff, 0x1, false, false⟩

/-- SV_INGEST.ST_SLOTS (R219). -/
def R.ST_SLOTS : Reg := ⟨.svIngest, 0x114, 1, 4, 0, 1023, .rw, false, false, 0xfff, 0x0, false, false⟩

/-- SV_INGEST.ST_CHMASK (R219). -/
def R.ST_CHMASK : Reg := ⟨.svIngest, 0x118, 1, 4, 0, 1023, .rw, false, false, 0xffffffff, 0x1, false, false⟩

/-- SV_INGEST.ST_KEY (R219). -/
def R.ST_KEY : Reg := ⟨.svIngest, 0x11c, 1, 4, 0, 1023, .rw, false, false, 0x7ff, 0x0, false, false⟩

/-- SV_INGEST.ST_TIMING (R219). -/
def R.ST_TIMING : Reg := ⟨.svIngest, 0x120, 1, 4, 0, 1023, .rw, false, false, 0x1ffff, 0x7d0, false, false⟩

/-- SV_INGEST.ST_STALE (R219). -/
def R.ST_STALE : Reg := ⟨.svIngest, 0x124, 1, 4, 0, 1023, .rw, false, false, 0xfffff, 0x3e8, false, false⟩

/-- SV_INGEST.ST_DELAY (R219). -/
def R.ST_DELAY : Reg := ⟨.svIngest, 0x128, 1, 4, 0, 1023, .rw, false, false, 0xffffff, 0x0, false, false⟩

/-- SV_INGEST.ST_GMID (R219). -/
def R.ST_GMID : Reg := ⟨.svIngest, 0x12c, 1, 4, 0, 1023, .rw, false, false, 0xff, 0x0, false, false⟩

/-- SV_INGEST.ST_SVID (R219). -/
def R.ST_SVID : Reg := ⟨.svIngest, 0x130, 16, 4, 0, 1023, .rw, false, false, 0xffffffff, 0x0, false, false⟩

/-- SV_INGEST.DEST_CFG (R219). -/
def R.DEST_CFG : Reg := ⟨.svIngest, 0x170, 4, 16, 0, 1023, .rw, false, false, 0x1fff77, 0x0, false, false⟩

/-- SV_INGEST.DEST_ITEM (R219). -/
def R.DEST_ITEM : Reg := ⟨.svIngest, 0x174, 4, 16, 0, 1023, .rw, false, false, 0xffff0fff, 0x0, false, false⟩

/-- SV_INGEST.DEST_BASE (R219). -/
def R.DEST_BASE : Reg := ⟨.svIngest, 0x178, 4, 16, 0, 1023, .rw, true, false, 0xffffffffffffffff, 0x0, false, false⟩

/-- SV_INGEST.ST_STATE (R219). -/
def R.ST_STATE : Reg := ⟨.svIngest, 0x1c0, 1, 4, 0, 1023, .ro, false, false, 0xff, 0x0, false, false⟩

/-- SV_INGEST.ST_LAST_CNT (R219). -/
def R.ST_LAST_CNT : Reg := ⟨.svIngest, 0x1c4, 1, 4, 0, 1023, .ro, false, false, 0x7ffff, 0x0, false, false⟩

/-- SV_INGEST.ST_LAST_CTS (R219). -/
def R.ST_LAST_CTS : Reg := ⟨.svIngest, 0x1c8, 1, 8, 0, 1023, .ro, true, false, 0xffffffffffffffff, 0x0, false, false⟩

/-- FILTER.FIL_SCAN_MAX (R252). -/
def R.FIL_SCAN_MAX : Reg := ⟨.filter, 0x800, 1, 4, 0, 0, .rc, false, false, 0xffff, 0x0, false, false⟩

/-- FILTER.FIL_PHASE_MAX (R252). -/
def R.FIL_PHASE_MAX : Reg := ⟨.filter, 0x804, 1, 4, 0, 0, .rc, false, false, 0xffff, 0x0, false, false⟩

/-- FILTER.FIL_EVENT_STREAM (R252). -/
def R.FIL_EVENT_STREAM : Reg := ⟨.filter, 0x808, 1, 4, 0, 0, .ro, false, false, 0x3ff, 0x0, false, false⟩

/-- FILTER.FIL_BATCH_MAX (R252). -/
def R.FIL_BATCH_MAX : Reg := ⟨.filter, 0x80c, 1, 4, 0, 0, .rc, false, false, 0xffff, 0x0, false, false⟩

/-- FILTER.PF_CIC (R253). -/
def R.PF_CIC : Reg := ⟨.filter, 0x100, 1, 4, 0, 63, .rw, false, false, 0x3f07ff, 0x0, false, false⟩

/-- FILTER.PF_FIR (R253). -/
def R.PF_FIR : Reg := ⟨.filter, 0x104, 1, 4, 0, 63, .rw, false, false, 0x1f, 0x0, false, false⟩

/-- FILTER.PF_SETTLE (R253). -/
def R.PF_SETTLE : Reg := ⟨.filter, 0x108, 1, 4, 0, 63, .rw, false, false, 0xfff, 0x0, false, false⟩

/-- FILTER.PF_TRANS (R253). -/
def R.PF_TRANS : Reg := ⟨.filter, 0x10c, 1, 4, 0, 63, .rw, false, false, 0xffff, 0x0, false, false⟩

/-- FILTER.PF_STEP_TH (R253). -/
def R.PF_STEP_TH : Reg := ⟨.filter, 0x110, 1, 4, 0, 63, .rw, false, false, 0x7fffffff, 0x0, false, false⟩

/-- FILTER.PF_PRED (R253). -/
def R.PF_PRED : Reg := ⟨.filter, 0x114, 1, 4, 0, 63, .rw, false, false, 0xffffffff, 0x0, false, false⟩

/-- FILTER.PF_GAP (R253). -/
def R.PF_GAP : Reg := ⟨.filter, 0x118, 1, 4, 0, 63, .rw, false, false, 0xf, 0x4, false, false⟩

/-- FILTER.PF_STATE (R253). -/
def R.PF_STATE : Reg := ⟨.filter, 0x11c, 1, 4, 0, 63, .ro, false, false, 0x7ff0fff, 0x0, false, false⟩

/-- FILTER.PF_GD (R253). -/
def R.PF_GD : Reg := ⟨.filter, 0x120, 1, 4, 0, 63, .ro, false, false, 0xffff, 0x0, false, false⟩

/-- FILTER.PF_COEF (R253). -/
def R.PF_COEF : Reg := ⟨.filter, 0x140, 31, 4, 0, 63, .rw, false, false, 0xfffff, 0x0, false, false⟩

/-- FILTER.FS_PROFILE (R254). -/
def R.FS_PROFILE : Reg := ⟨.filter, 0x100, 1, 4, 64, 1087, .rw, false, false, 0x3f, 0x0, false, false⟩

/-- FILTER.FS_STATE (R254). -/
def R.FS_STATE : Reg := ⟨.filter, 0x104, 1, 4, 64, 1087, .ro, false, false, 0xfff037f, 0x0, false, false⟩

/-- FILTER.FS_RATE (R254). -/
def R.FS_RATE : Reg := ⟨.filter, 0x108, 1, 4, 64, 1087, .ro, false, false, 0x7ffff, 0x0, false, false⟩

/-- FILTER.FS_GD_NS (R254). -/
def R.FS_GD_NS : Reg := ⟨.filter, 0x10c, 1, 4, 64, 1087, .ro, false, false, 0xffffffff, 0x0, false, false⟩

/-- FILTER.FS_TRANS_US (R254). -/
def R.FS_TRANS_US : Reg := ⟨.filter, 0x110, 1, 4, 64, 1087, .ro, false, false, 0x1ffff, 0x0, false, false⟩

/-- FILTER.FS_STEPS (R254). -/
def R.FS_STEPS : Reg := ⟨.filter, 0x114, 1, 4, 64, 1087, .ro, false, false, 0xffffffff, 0x0, false, false⟩

/-- FILTER.FS_RESTARTS (R254). -/
def R.FS_RESTARTS : Reg := ⟨.filter, 0x118, 1, 4, 64, 1087, .ro, false, false, 0xffffffff, 0x0, false, false⟩

/-- FILTER.FS_SATURATE (R254). -/
def R.FS_SATURATE : Reg := ⟨.filter, 0x11c, 1, 4, 64, 1087, .ro, false, false, 0xffffffff, 0x0, false, false⟩

/-- DETECTOR.DET_ON (R256). -/
def R.DET_ON : Reg := ⟨.detector, 0x800, 1, 4, 0, 0, .ro, false, false, 0x7ff, 0x0, false, false⟩

/-- DETECTOR.DET_EVENT_IDX (R256). -/
def R.DET_EVENT_IDX : Reg := ⟨.detector, 0x804, 1, 4, 0, 0, .ro, false, false, 0x3ff, 0x0, false, false⟩

/-- DETECTOR.DET_SRC (R257). -/
def R.DET_SRC : Reg := ⟨.detector, 0x100, 1, 4, 0, 1023, .rw, false, false, 0xffff, 0x0, false, false⟩

/-- DETECTOR.DET_CFG (R257). -/
def R.DET_CFG : Reg := ⟨.detector, 0x104, 1, 4, 0, 1023, .rw, false, false, 0x3ff3f0f, 0x602f04, false, false⟩

/-- DETECTOR.DET_ENV (R257). -/
def R.DET_ENV : Reg := ⟨.detector, 0x108, 1, 4, 0, 1023, .rw, false, false, 0xf0f, 0x600, false, false⟩

/-- DETECTOR.FAST_PICKUP (R257). -/
def R.FAST_PICKUP : Reg := ⟨.detector, 0x10c, 1, 4, 0, 1023, .rw, false, false, 0x7fffffff, 0x7fffffff, false, false⟩

/-- DETECTOR.FAST_DROP (R257). -/
def R.FAST_DROP : Reg := ⟨.detector, 0x110, 1, 4, 0, 1023, .rw, false, false, 0x7fffffff, 0x7fffffff, false, false⟩

/-- DETECTOR.SLOW_PICKUP (R257). -/
def R.SLOW_PICKUP : Reg := ⟨.detector, 0x114, 1, 4, 0, 1023, .rw, false, false, 0x7fffffff, 0x7fffffff, false, false⟩

/-- DETECTOR.SLOW_DROP (R257). -/
def R.SLOW_DROP : Reg := ⟨.detector, 0x118, 1, 4, 0, 1023, .rw, false, false, 0x7fffffff, 0x7fffffff, false, false⟩

/-- DETECTOR.DET_DEST_CFG (R257). -/
def R.DET_DEST_CFG : Reg := ⟨.detector, 0x11c, 1, 4, 0, 1023, .rw, false, false, 0xff1fff77, 0x80000, false, false⟩

/-- DETECTOR.DET_DEST_ITEM (R257). -/
def R.DET_DEST_ITEM : Reg := ⟨.detector, 0x120, 1, 4, 0, 1023, .rw, false, false, 0xffff0fff, 0x0, false, false⟩

/-- DETECTOR.DET_DEST_BASE (R257). -/
def R.DET_DEST_BASE : Reg := ⟨.detector, 0x128, 1, 8, 0, 1023, .rw, true, false, 0xffffffffffffffff, 0x0, false, false⟩

/-- DETECTOR.DET_STATE (R257). -/
def R.DET_STATE : Reg := ⟨.detector, 0x130, 1, 4, 0, 1023, .ro, false, false, 0xff, 0x0, false, false⟩

/-- DETECTOR.DET_FAST_VAL (R257). -/
def R.DET_FAST_VAL : Reg := ⟨.detector, 0x134, 1, 4, 0, 1023, .ro, false, false, 0xffffffff, 0x0, false, false⟩

/-- DETECTOR.DET_SLOW_VAL (R257). -/
def R.DET_SLOW_VAL : Reg := ⟨.detector, 0x138, 1, 4, 0, 1023, .ro, false, false, 0xffffffff, 0x0, false, false⟩

/-- DETECTOR.DET_LAST_CTS (R257). -/
def R.DET_LAST_CTS : Reg := ⟨.detector, 0x140, 1, 8, 0, 1023, .ro, true, false, 0xffffffffffffffff, 0x0, false, false⟩

/-- DETECTOR.DET_FAST_CHG (R257). -/
def R.DET_FAST_CHG : Reg := ⟨.detector, 0x148, 1, 8, 0, 1023, .ro, true, false, 0xffffffffffffffff, 0x0, false, false⟩

/-- DETECTOR.DET_SLOW_CHG (R257). -/
def R.DET_SLOW_CHG : Reg := ⟨.detector, 0x150, 1, 8, 0, 1023, .ro, true, false, 0xffffffffffffffff, 0x0, false, false⟩

/-- DETECTOR.DET_PICKUPS (R257). -/
def R.DET_PICKUPS : Reg := ⟨.detector, 0x158, 1, 4, 0, 1023, .ro, false, false, 0xffffffff, 0x0, false, false⟩

/-- PELOTON.PEL_TICK (R297). -/
def R.PEL_TICK : Reg := ⟨.peloton, 0x800, 1, 4, 0, 0, .rw, false, false, 0xfffff, 0x2710, false, false⟩

/-- PELOTON.PEL_ONDIE (R297). -/
def R.PEL_ONDIE : Reg := ⟨.peloton, 0x804, 1, 4, 0, 0, .ro, false, false, 0x7ff07ff, 0x0, false, false⟩

/-- PELOTON.PEL_DELAYED (R297). -/
def R.PEL_DELAYED : Reg := ⟨.peloton, 0x808, 1, 4, 0, 0, .ro, false, false, 0x1fff, 0x0, false, false⟩

/-- PELOTON.PEL_SPILLED (R297). -/
def R.PEL_SPILLED : Reg := ⟨.peloton, 0x80c, 1, 4, 0, 0, .ro, false, false, 0x1fffff, 0x0, false, false⟩

/-- PELOTON.PEL_WAITERS (R297). -/
def R.PEL_WAITERS : Reg := ⟨.peloton, 0x810, 1, 4, 0, 0, .ro, false, false, 0xffff, 0x0, false, false⟩

/-- PELOTON.PEL_LAST_TICK (R297). -/
def R.PEL_LAST_TICK : Reg := ⟨.peloton, 0x818, 1, 8, 0, 0, .ro, true, false, 0xffffffffffffffff, 0x0, false, false⟩

/-- PELOTON.TAKE (R297). -/
def R.TAKE : Reg := ⟨.peloton, 0x820, 1, 8, 0, 0, .ro, true, true, 0xffffffffffffffff, 0x0, false, false⟩

/-- PELOTON.TAKE_CTL (R297). -/
def R.TAKE_CTL : Reg := ⟨.peloton, 0x828, 1, 4, 0, 0, .rw, false, true, 0x1fffffff, 0x0, false, false⟩

/-- PELOTON.TAKEN_D0_D3 (R297). -/
def R.TAKEN_D0_D3 : Reg := ⟨.peloton, 0x830, 4, 8, 0, 0, .ro, true, true, 0xffffffffffffffff, 0x0, false, false⟩

/-- PELOTON.POST_D0_D3 (R297). -/
def R.POST_D0_D3 : Reg := ⟨.peloton, 0x850, 4, 8, 0, 0, .rw, true, true, 0xffffffffffffffff, 0x0, false, false⟩

/-- PELOTON.POST_SEQ (R297). -/
def R.POST_SEQ : Reg := ⟨.peloton, 0x870, 1, 4, 0, 0, .ro, false, true, 0xfffff, 0x0, false, false⟩

/-- PELOTON.COMP_DATA0 (R297). -/
def R.COMP_DATA0 : Reg := ⟨.peloton, 0x878, 1, 8, 0, 0, .rw, true, true, 0xffffffffffffffff, 0x0, false, false⟩

/-- PELOTON.COMP_DATA1 (R297). -/
def R.COMP_DATA1 : Reg := ⟨.peloton, 0x880, 1, 4, 0, 0, .rw, false, true, 0x3ff3fff, 0x0, false, false⟩

/-- PELOTON.ADMITTED (R297). -/
def R.ADMITTED : Reg := ⟨.peloton, 0x884, 1, 4, 0, 0, .ro, false, false, 0xffffffff, 0x0, false, false⟩

/-- PELOTON.REFUSED (R297). -/
def R.REFUSED : Reg := ⟨.peloton, 0x888, 1, 4, 0, 0, .ro, false, false, 0xffffffff, 0x0, false, false⟩

/-- PELOTON.TAKES (R297). -/
def R.TAKES : Reg := ⟨.peloton, 0x88c, 1, 4, 0, 0, .ro, false, false, 0xffffffff, 0x0, false, false⟩

/-- PELOTON.TAKE_NONE (R297). -/
def R.TAKE_NONE : Reg := ⟨.peloton, 0x890, 1, 4, 0, 0, .ro, false, false, 0xffffffff, 0x0, false, false⟩

/-- PELOTON.LATE_TAKE (R297). -/
def R.LATE_TAKE : Reg := ⟨.peloton, 0x894, 1, 4, 0, 0, .ro, false, false, 0xffffffff, 0x0, false, false⟩

/-- PELOTON.STALE_COMPLETE (R297). -/
def R.STALE_COMPLETE : Reg := ⟨.peloton, 0x898, 1, 4, 0, 0, .ro, false, false, 0xffffffff, 0x0, false, false⟩

/-- PELOTON.ABORTED (R297). -/
def R.ABORTED : Reg := ⟨.peloton, 0x89c, 1, 4, 0, 0, .ro, false, false, 0xffffffff, 0x0, false, false⟩

/-- PELOTON.DELAY_FULL (R297). -/
def R.DELAY_FULL : Reg := ⟨.peloton, 0x8a0, 1, 4, 0, 0, .ro, false, false, 0xffffffff, 0x0, false, false⟩

/-- PELOTON.VI_QUOTA (R299). -/
def R.VI_QUOTA : Reg := ⟨.peloton, 0x100, 1, 4, 0, 255, .ro, false, false, 0x1fffff, 0x0, false, false⟩

/-- PELOTON.VI_OCC (R299). -/
def R.VI_OCC : Reg := ⟨.peloton, 0x104, 1, 4, 0, 255, .ro, false, false, 0x1fffff, 0x0, false, false⟩

/-- PELOTON.VI_ADMITTED (R299). -/
def R.VI_ADMITTED : Reg := ⟨.peloton, 0x108, 1, 4, 0, 255, .ro, false, false, 0xffffffff, 0x0, false, false⟩

/-- PELOTON.VI_SHARE_REFUSE (R299). -/
def R.VI_SHARE_REFUSE : Reg := ⟨.peloton, 0x10c, 1, 4, 0, 255, .ro, false, false, 0xffffffff, 0x0, false, false⟩

/-- PELOTON.VI_OTHER_REFUSE (R299). -/
def R.VI_OTHER_REFUSE : Reg := ⟨.peloton, 0x110, 1, 4, 0, 255, .ro, false, false, 0xffffffff, 0x0, false, false⟩

/-- PELOTON.VI_LATE_TAKE (R299). -/
def R.VI_LATE_TAKE : Reg := ⟨.peloton, 0x114, 1, 4, 0, 255, .ro, false, false, 0xffffffff, 0x0, false, false⟩

/-- PELOTON.VI_ABORTED (R299). -/
def R.VI_ABORTED : Reg := ⟨.peloton, 0x118, 1, 4, 0, 255, .ro, false, false, 0xffffffff, 0x0, false, false⟩

/-- PELOTON.VI_QSTATE (R299). -/
def R.VI_QSTATE : Reg := ⟨.peloton, 0x11c, 1, 4, 0, 255, .ro, false, false, 0x3, 0x0, false, false⟩

/-- PELOTON_FLOW.FLOW_CFG (R301). -/
def R.FLOW_CFG : Reg := ⟨.pelotonFlow, 0x100, 1, 4, 0, 4095, .rw, false, false, 0x1f07ff, 0x60100, false, false⟩

/-- PELOTON_FLOW.FLOW_HOLD (R301). -/
def R.FLOW_HOLD : Reg := ⟨.pelotonFlow, 0x104, 1, 4, 0, 4095, .rw, false, false, 0xfffff, 0x0, false, false⟩

/-- PELOTON_FLOW.FLOW_RING_BASE (R301). -/
def R.FLOW_RING_BASE : Reg := ⟨.pelotonFlow, 0x108, 1, 8, 0, 4095, .rw, true, false, 0xffffffffffffffff, 0x0, false, false⟩

/-- PELOTON_FLOW.FLOW_STATE (R301). -/
def R.FLOW_STATE : Reg := ⟨.pelotonFlow, 0x110, 1, 4, 0, 4095, .ro, false, false, 0xf, 0x0, false, false⟩

/-- PELOTON_FLOW.FLOW_NEXT (R301). -/
def R.FLOW_NEXT : Reg := ⟨.pelotonFlow, 0x114, 1, 4, 0, 4095, .ro, false, false, 0xfffff, 0x0, false, false⟩

/-- PELOTON_FLOW.FLOW_ADMIT (R301). -/
def R.FLOW_ADMIT : Reg := ⟨.pelotonFlow, 0x118, 1, 4, 0, 4095, .ro, false, false, 0xfffff, 0x0, false, false⟩

/-- PELOTON_FLOW.FLOW_ITEMS (R301). -/
def R.FLOW_ITEMS : Reg := ⟨.pelotonFlow, 0x11c, 1, 4, 0, 4095, .ro, false, false, 0xfffff, 0x0, false, false⟩

/-- PELOTON_FLOW.FLOW_DONE_MAP (R301). -/
def R.FLOW_DONE_MAP : Reg := ⟨.pelotonFlow, 0x120, 1, 8, 0, 4095, .ro, true, false, 0xffffffffffffffff, 0x0, false, false⟩

/-- PELOTON_FLOW.FL_RELEASED (R301). -/
def R.FL_RELEASED : Reg := ⟨.pelotonFlow, 0x128, 1, 4, 0, 4095, .ro, false, false, 0xffffffff, 0x0, false, false⟩

/-- PELOTON_FLOW.FL_SKIPPED (R301). -/
def R.FL_SKIPPED : Reg := ⟨.pelotonFlow, 0x12c, 1, 4, 0, 4095, .ro, false, false, 0xffffffff, 0x0, false, false⟩

/-- PELOTON_FLOW.FL_LATE_RELEASE (R301). -/
def R.FL_LATE_RELEASE : Reg := ⟨.pelotonFlow, 0x130, 1, 4, 0, 4095, .ro, false, false, 0xffffffff, 0x0, false, false⟩

/-- PELOTON_FLOW.FL_WINDOW_HOLD (R301). -/
def R.FL_WINDOW_HOLD : Reg := ⟨.pelotonFlow, 0x134, 1, 4, 0, 4095, .ro, false, false, 0xffffffff, 0x0, false, false⟩

/-- PELOTON_FLOW.FL_REC_DISCARD (R301). -/
def R.FL_REC_DISCARD : Reg := ⟨.pelotonFlow, 0x138, 1, 4, 0, 4095, .ro, false, false, 0xffffffff, 0x0, false, false⟩

/-- PELOTON_FLOW.FL_DENIED (R301). -/
def R.FL_DENIED : Reg := ⟨.pelotonFlow, 0x13c, 1, 4, 0, 4095, .ro, false, false, 0xffffffff, 0x0, false, false⟩

/-- PELOTON_FLOW.FLOW_LAST_REL (R301). -/
def R.FLOW_LAST_REL : Reg := ⟨.pelotonFlow, 0x140, 1, 8, 0, 4095, .ro, true, false, 0xffffffffffffffff, 0x0, false, false⟩

/-- PANNIER.PAN_BASE (R305). -/
def R.PAN_BASE : Reg := ⟨.pannier, 0x800, 1, 8, 0, 0, .rw, true, false, 0xffffffffffffffff, 0x0, false, false⟩

/-- PANNIER.PAN_CFG (R305). -/
def R.PAN_CFG : Reg := ⟨.pannier, 0x808, 1, 4, 0, 0, .rw, false, false, 0x1f001f, 0xe0000, false, false⟩

/-- PANNIER.PAN_OCC (R305). -/
def R.PAN_OCC : Reg := ⟨.pannier, 0x80c, 1, 4, 0, 0, .ro, false, false, 0x1fffff, 0x0, false, false⟩

/-- PANNIER.PAN_FIRST (R305). -/
def R.PAN_FIRST : Reg := ⟨.pannier, 0x810, 1, 8, 0, 0, .ro, true, false, 0xffffffffffffffff, 0x0, false, false⟩

/-- PANNIER.PAN_FAR (R305). -/
def R.PAN_FAR : Reg := ⟨.pannier, 0x818, 1, 4, 0, 0, .ro, false, false, 0x1fffff, 0x0, false, false⟩

/-- PANNIER.PAN_WALK_LEFT (R305). -/
def R.PAN_WALK_LEFT : Reg := ⟨.pannier, 0x81c, 1, 4, 0, 0, .ro, false, false, 0x1fffff, 0x0, false, false⟩

/-- PANNIER.PAN_SPILLS (R305). -/
def R.PAN_SPILLS : Reg := ⟨.pannier, 0x820, 1, 4, 0, 0, .ro, false, false, 0xffffffff, 0x0, false, false⟩

/-- PANNIER.PAN_REFILLS (R305). -/
def R.PAN_REFILLS : Reg := ⟨.pannier, 0x824, 1, 4, 0, 0, .ro, false, false, 0xffffffff, 0x0, false, false⟩

/-- PANNIER.PAN_FULL (R305). -/
def R.PAN_FULL : Reg := ⟨.pannier, 0x828, 1, 4, 0, 0, .ro, false, false, 0xffffffff, 0x0, false, false⟩

/-- PANNIER.PAN_PEAK (R305). -/
def R.PAN_PEAK : Reg := ⟨.pannier, 0x82c, 1, 4, 0, 0, .rc, false, false, 0x1fffff, 0x0, false, false⟩

/-- DEV_XLATE.XL_WALKS (R323). -/
def R.XL_WALKS : Reg := ⟨.devXlate, 0x800, 1, 4, 0, 0, .ro, false, false, 0xffffffff, 0x0, false, false⟩

/-- DEV_XLATE.XL_FAULTS (R323). -/
def R.XL_FAULTS : Reg := ⟨.devXlate, 0x804, 1, 4, 0, 0, .ro, false, false, 0xffffffff, 0x0, false, false⟩

/-- DEV_XLATE.XL_FAULT_VI (R323). -/
def R.XL_FAULT_VI : Reg := ⟨.devXlate, 0x808, 1, 4, 0, 0, .ro, false, false, 0x1fff, 0x0, false, false⟩

/-- DEV_XLATE.XL_FAULT_GPA (R323). -/
def R.XL_FAULT_GPA : Reg := ⟨.devXlate, 0x810, 1, 8, 0, 0, .ro, true, false, 0xffffffffffffffff, 0x0, false, false⟩

/-- DEV_XLATE.XL_INVAL_GPA (R323). -/
def R.XL_INVAL_GPA : Reg := ⟨.devXlate, 0x818, 1, 8, 0, 0, .rw, true, false, 0xffffffffffffffff, 0x0, false, false⟩

/-- DEV_XLATE.XL_INVAL_PAGES (R323). -/
def R.XL_INVAL_PAGES : Reg := ⟨.devXlate, 0x820, 1, 4, 0, 0, .rw, false, false, 0x1ffffff, 0x0, false, false⟩

/-- DEV_XLATE.XL_EG_FAULT (R323). -/
def R.XL_EG_FAULT : Reg := ⟨.devXlate, 0x824, 1, 4, 0, 0, .ro, false, false, 0xffffffff, 0x0, false, false⟩

/-- DEV_XLATE.EG_NO_SEQ (R323). -/
def R.EG_NO_SEQ : Reg := ⟨.devXlate, 0x828, 1, 4, 0, 0, .ro, false, false, 0xffffffff, 0x0, false, false⟩

/-- DEV_XLATE.RX_UNMATCHED (R323). -/
def R.RX_UNMATCHED : Reg := ⟨.devXlate, 0x82c, 1, 4, 0, 0, .ro, false, false, 0xffffffff, 0x0, false, false⟩

/-- DEV_XLATE.RX_MATCH0 (R323). -/
def R.RX_MATCH0 : Reg := ⟨.devXlate, 0x100, 1, 4, 0, 1023, .rw, false, false, 0xffffffff, 0x0, false, false⟩

/-- DEV_XLATE.RX_MATCH1 (R323). -/
def R.RX_MATCH1 : Reg := ⟨.devXlate, 0x104, 1, 4, 0, 1023, .rw, false, false, 0xffffffff, 0x0, false, false⟩

/-- DEV_XLATE.RX_CFG (R323). -/
def R.RX_CFG : Reg := ⟨.devXlate, 0x108, 1, 4, 0, 1023, .rw, false, false, 0x1ffff, 0xb800, false, false⟩

/-- DEV_XLATE.RX_ITEM (R323). -/
def R.RX_ITEM : Reg := ⟨.devXlate, 0x10c, 1, 4, 0, 1023, .rw, false, false, 0xffff0fff, 0x0, false, false⟩

/-- DEV_XLATE.RX_BASE (R323). -/
def R.RX_BASE : Reg := ⟨.devXlate, 0x110, 1, 8, 0, 1023, .rw, true, false, 0xffffffffffffffff, 0x0, false, false⟩

/-- DEV_XLATE.RX_STATE (R323). -/
def R.RX_STATE : Reg := ⟨.devXlate, 0x118, 1, 4, 0, 1023, .ro, false, false, 0x7, 0x0, false, false⟩

/-- DEV_XLATE.RX_FRAMES (R323). -/
def R.DEV_XLATE_RX_FRAMES : Reg := ⟨.devXlate, 0x11c, 1, 4, 0, 1023, .ro, false, false, 0xffffffff, 0x0, false, false⟩

/-- DEV_XLATE.RX_DROP (R323). -/
def R.RX_DROP : Reg := ⟨.devXlate, 0x120, 1, 4, 0, 1023, .ro, false, false, 0xffffffff, 0x0, false, false⟩

/-- VI_CTRL.VI_STATE (R328). -/
def R.VI_STATE : Reg := ⟨.viCtrl, 0x100, 1, 4, 0, 255, .ro, false, false, 0xffff0f7f, 0x0, false, false⟩

/-- VI_CTRL.VI_CFG (R328). -/
def R.VI_CFG : Reg := ⟨.viCtrl, 0x104, 1, 4, 0, 255, .rw, false, false, 0xfffff, 0x2710, false, false⟩

/-- VI_CTRL.VI_HGATP (R328). -/
def R.VI_HGATP : Reg := ⟨.viCtrl, 0x108, 1, 8, 0, 255, .rw, true, false, 0xffffffffffffffff, 0x0, false, false⟩

/-- VI_CTRL.VI_CUT_AT (R328). -/
def R.VI_CUT_AT : Reg := ⟨.viCtrl, 0x110, 1, 8, 0, 255, .rw, true, false, 0xffffffffffffffff, 0x0, false, false⟩

/-- VI_CTRL.VI_CUT_GRACE (R328). -/
def R.VI_CUT_GRACE : Reg := ⟨.viCtrl, 0x118, 1, 4, 0, 255, .rw, false, false, 0xffff, 0x1f4, false, false⟩

/-- VI_CTRL.VI_CUT_COUNT (R328). -/
def R.VI_CUT_COUNT : Reg := ⟨.viCtrl, 0x11c, 1, 4, 0, 255, .ro, false, false, 0xffffffff, 0x0, false, false⟩

/-- VI_CTRL.VI_STATE_BASE (R328). -/
def R.VI_STATE_BASE : Reg := ⟨.viCtrl, 0x120, 1, 8, 0, 255, .rw, true, false, 0xffffffffffffffff, 0x0, false, false⟩

/-- VI_CTRL.VI_QSTAMP (R328). -/
def R.VI_QSTAMP : Reg := ⟨.viCtrl, 0x128, 1, 8, 0, 255, .ro, true, false, 0xffffffffffffffff, 0x0, false, false⟩

/-- VI_CTRL.VI_QPARTS (R328). -/
def R.VI_QPARTS : Reg := ⟨.viCtrl, 0x130, 1, 4, 0, 255, .ro, false, false, 0x1f, 0x0, false, false⟩

/-- VI_CTRL.KILL_CUT (R328). -/
def R.KILL_CUT : Reg := ⟨.viCtrl, 0x134, 1, 4, 0, 255, .ro, false, false, 0xffffffff, 0x0, false, false⟩

/-- VI_CTRL.VI_KILL_KEY (R328). -/
def R.VI_KILL_KEY : Reg := ⟨.viCtrl, 0x800, 1, 4, 0, 0, .rwl, false, false, 0xffff, 0x0, false, false⟩

/-- VI_CTRL.VI_HOMED (R328). -/
def R.VI_HOMED : Reg := ⟨.viCtrl, 0x804, 1, 4, 0, 0, .ro, false, false, 0x1ff, 0x0, false, false⟩

/-- VI_CTRL.VI_EVENT_VI (R328). -/
def R.VI_EVENT_VI : Reg := ⟨.viCtrl, 0x808, 1, 4, 0, 0, .ro, false, false, 0xff, 0x0, false, false⟩

/-- DERAILLEUR.SH_QUOTA (R336). -/
def R.SH_QUOTA : Reg := ⟨.derailleur, 0x100, 1, 4, 0, 255, .rw, false, false, 0x1fffff, 0x0, false, false⟩

/-- DERAILLEUR.SH_SLOTS (R336). -/
def R.SH_SLOTS : Reg := ⟨.derailleur, 0x104, 1, 4, 0, 255, .rw, false, false, 0x3fff, 0x0, false, false⟩

/-- DERAILLEUR.SH_EG_RATE (R336). -/
def R.SH_EG_RATE : Reg := ⟨.derailleur, 0x108, 1, 4, 0, 255, .rw, false, false, 0x1ffffff, 0x0, false, false⟩

/-- DERAILLEUR.SH_EG_BURST (R336). -/
def R.SH_EG_BURST : Reg := ⟨.derailleur, 0x10c, 1, 4, 0, 255, .rw, false, false, 0xfffff, 0x0, false, false⟩

/-- DERAILLEUR.SH_CAPTURE (R336). -/
def R.SH_CAPTURE : Reg := ⟨.derailleur, 0x110, 1, 4, 0, 255, .rw, false, false, 0xff, 0x0, false, false⟩

/-- DERAILLEUR.SH_KEYS (R336). -/
def R.SH_KEYS : Reg := ⟨.derailleur, 0x114, 1, 4, 0, 255, .rw, false, false, 0x7ff, 0x0, false, false⟩

/-- DERAILLEUR.SH_TRIG (R336). -/
def R.SH_TRIG : Reg := ⟨.derailleur, 0x118, 1, 4, 0, 255, .rw, false, false, 0xffffffff, 0x0, false, false⟩

/-- DERAILLEUR.SH_CNT (R336). -/
def R.SH_CNT : Reg := ⟨.derailleur, 0x11c, 1, 4, 0, 255, .rw, false, false, 0xf, 0x0, false, false⟩

/-- DERAILLEUR.SHF_QUOTA (R336). -/
def R.SHF_QUOTA : Reg := ⟨.derailleur, 0x140, 1, 4, 0, 255, .ro, false, false, 0x1fffff, 0x0, false, false⟩

/-- DERAILLEUR.SHF_SLOTS (R336). -/
def R.SHF_SLOTS : Reg := ⟨.derailleur, 0x144, 1, 4, 0, 255, .ro, false, false, 0x3fff, 0x0, false, false⟩

/-- DERAILLEUR.SHF_EG_RATE (R336). -/
def R.SHF_EG_RATE : Reg := ⟨.derailleur, 0x148, 1, 4, 0, 255, .ro, false, false, 0x1ffffff, 0x0, false, false⟩

/-- DERAILLEUR.SHF_EG_BURST (R336). -/
def R.SHF_EG_BURST : Reg := ⟨.derailleur, 0x14c, 1, 4, 0, 255, .ro, false, false, 0xfffff, 0x0, false, false⟩

/-- DERAILLEUR.SHF_CAPTURE (R336). -/
def R.SHF_CAPTURE : Reg := ⟨.derailleur, 0x150, 1, 4, 0, 255, .ro, false, false, 0xff, 0x0, false, false⟩

/-- DERAILLEUR.SHF_KEYS (R336). -/
def R.SHF_KEYS : Reg := ⟨.derailleur, 0x154, 1, 4, 0, 255, .ro, false, false, 0x7ff, 0x0, false, false⟩

/-- DERAILLEUR.SHF_TRIG (R336). -/
def R.SHF_TRIG : Reg := ⟨.derailleur, 0x158, 1, 4, 0, 255, .ro, false, false, 0xffffffff, 0x0, false, false⟩

/-- DERAILLEUR.SHF_CNT (R336). -/
def R.SHF_CNT : Reg := ⟨.derailleur, 0x15c, 1, 4, 0, 255, .ro, false, false, 0xf, 0x0, false, false⟩

/-- DERAILLEUR.USE_SLOTS (R336). -/
def R.USE_SLOTS : Reg := ⟨.derailleur, 0x160, 1, 4, 0, 255, .ro, false, false, 0x3fff, 0x0, false, false⟩

/-- DERAILLEUR.USE_CAPTURE (R336). -/
def R.USE_CAPTURE : Reg := ⟨.derailleur, 0x164, 1, 4, 0, 255, .ro, false, false, 0xff, 0x0, false, false⟩

/-- DERAILLEUR.USE_KEYS (R336). -/
def R.USE_KEYS : Reg := ⟨.derailleur, 0x168, 1, 4, 0, 255, .ro, false, false, 0x7ff, 0x0, false, false⟩

/-- DERAILLEUR.EG_TOKENS_A (R336). -/
def R.DERAILLEUR_EG_TOKENS_A : Reg := ⟨.derailleur, 0x16c, 1, 4, 0, 255, .ro, false, false, 0xfffff, 0x0, false, false⟩

/-- DERAILLEUR.EG_TOKENS_B (R336). -/
def R.DERAILLEUR_EG_TOKENS_B : Reg := ⟨.derailleur, 0x170, 1, 4, 0, 255, .ro, false, false, 0xfffff, 0x0, false, false⟩

/-- DERAILLEUR.SHARE_REFUSE (R336). -/
def R.SHARE_REFUSE : Reg := ⟨.derailleur, 0x174, 1, 4, 0, 255, .ro, false, false, 0xffffffff, 0x0, false, false⟩

/-- DERAILLEUR.EG_OVERSIZE (R336). -/
def R.EG_OVERSIZE : Reg := ⟨.derailleur, 0x178, 1, 4, 0, 255, .ro, false, false, 0xffffffff, 0x0, false, false⟩

/-- DERAILLEUR.EG_RESET_DROP (R336). -/
def R.EG_RESET_DROP : Reg := ⟨.derailleur, 0x17c, 1, 4, 0, 255, .ro, false, false, 0xffffffff, 0x0, false, false⟩

/-- DIRTY_LOG.LOG_BASE0 (R340). -/
def R.LOG_BASE0 : Reg := ⟨.dirtyLog, 0x100, 1, 8, 0, 255, .rw, true, false, 0xffffffffffffffff, 0x0, false, false⟩

/-- DIRTY_LOG.LOG_BASE1 (R340). -/
def R.LOG_BASE1 : Reg := ⟨.dirtyLog, 0x108, 1, 8, 0, 255, .rw, true, false, 0xffffffffffffffff, 0x0, false, false⟩

/-- DIRTY_LOG.LOG_GPA_BASE (R340). -/
def R.LOG_GPA_BASE : Reg := ⟨.dirtyLog, 0x110, 1, 8, 0, 255, .rw, true, false, 0xffffffffffffffff, 0x0, false, false⟩

/-- DIRTY_LOG.LOG_PAGES (R340). -/
def R.LOG_PAGES : Reg := ⟨.dirtyLog, 0x118, 1, 4, 0, 255, .rw, false, false, 0x1ffffff, 0x0, false, false⟩

/-- DIRTY_LOG.LOG_STATE (R340). -/
def R.LOG_STATE : Reg := ⟨.dirtyLog, 0x11c, 1, 4, 0, 255, .ro, false, false, 0x7, 0x0, false, false⟩

/-- DIRTY_LOG.LOG_SWAP_CTS (R340). -/
def R.LOG_SWAP_CTS : Reg := ⟨.dirtyLog, 0x120, 1, 8, 0, 255, .ro, true, false, 0xffffffffffffffff, 0x0, false, false⟩

/-- DIRTY_LOG.LOG_SWAPS (R340). -/
def R.LOG_SWAPS : Reg := ⟨.dirtyLog, 0x128, 1, 4, 0, 255, .ro, false, false, 0xffffffff, 0x0, false, false⟩

/-- DIRTY_LOG.LOG_OUTSIDE (R340). -/
def R.LOG_OUTSIDE : Reg := ⟨.dirtyLog, 0x12c, 1, 4, 0, 255, .ro, false, false, 0xffffffff, 0x0, false, false⟩

/-- HART_CLUSTER.HC_RESET_VEC (R345). -/
def R.HC_RESET_VEC : Reg := ⟨.hartCluster, 0x100, 1, 8, 0, 3, .rwl, true, false, 0xffffffffffffffff, 0x0, false, false⟩

/-- HART_CLUSTER.HC_STATE (R345). -/
def R.HC_STATE : Reg := ⟨.hartCluster, 0x108, 1, 4, 0, 3, .ro, false, false, 0x3ffff, 0x0, false, false⟩

/-- HART_CLUSTER.HC_HARTID (R345). -/
def R.HC_HARTID : Reg := ⟨.hartCluster, 0x10c, 1, 4, 0, 3, .ro, false, false, 0xffffffff, 0x0, false, false⟩

/-- CRANK.CR_CFG (R388). -/
def R.CR_CFG : Reg := ⟨.crank, 0x800, 1, 4, 0, 0, .rw, false, false, 0xfff, 0x0, false, false⟩

/-- CRANK.CR_GUARD (R388). -/
def R.CR_GUARD : Reg := ⟨.crank, 0x804, 1, 4, 0, 0, .rwl, false, false, 0x7, 0x7, false, false⟩

/-- CRANK.CR_SPLIT (R388). -/
def R.CR_SPLIT : Reg := ⟨.crank, 0x808, 1, 4, 0, 0, .rw, false, false, 0x3f, 0x20, false, false⟩

/-- CRANK.CR_VARS (R388). -/
def R.CR_VARS : Reg := ⟨.crank, 0x80c, 1, 4, 0, 0, .rw, false, false, 0x1ffff, 0x10000, false, false⟩

/-- CRANK.CR_RETAIN (R388). -/
def R.CR_RETAIN : Reg := ⟨.crank, 0x810, 1, 4, 0, 0, .rw, false, false, 0x7fffffff, 0x0, false, false⟩

/-- CRANK.CR_CYCLE (R388). -/
def R.CR_CYCLE : Reg := ⟨.crank, 0x814, 1, 4, 0, 0, .rw, false, false, 0x7ffffff, 0xf4240, false, false⟩

/-- CRANK.CR_RECOVER (R388). -/
def R.CR_RECOVER : Reg := ⟨.crank, 0x818, 1, 4, 0, 0, .rw, false, false, 0xffff, 0xa, false, false⟩

/-- CRANK.CR_PROG_ID (R388). -/
def R.CR_PROG_ID : Reg := ⟨.crank, 0x81c, 1, 4, 0, 0, .rw, false, false, 0xffffffff, 0x0, false, false⟩

/-- CRANK.CR_INIT_BASE (R388). -/
def R.CR_INIT_BASE : Reg := ⟨.crank, 0x820, 1, 8, 0, 0, .rw, true, false, 0xffffffffffffffff, 0x0, false, false⟩

/-- CRANK.CR_IMAGE_BASE (R388). -/
def R.CR_IMAGE_BASE : Reg := ⟨.crank, 0x828, 1, 8, 0, 0, .rw, true, false, 0xffffffffffffffff, 0x0, false, false⟩

/-- CRANK.CR_STATE (R388). -/
def R.CR_STATE : Reg := ⟨.crank, 0x830, 1, 4, 0, 0, .ro, false, false, 0xff7ff, 0x0, false, false⟩

/-- CRANK.CR_OLC_COUNT (R388). -/
def R.CR_OLC_COUNT : Reg := ⟨.crank, 0x834, 1, 4, 0, 0, .rw, false, false, 0x7f, 0x1, false, false⟩

/-- CRANK.CR_CYCLE_COUNT (R388). -/
def R.CR_CYCLE_COUNT : Reg := ⟨.crank, 0x838, 1, 8, 0, 0, .ro, true, false, 0xffffffffffffffff, 0x0, false, false⟩

/-- CRANK.CR_LAST_CYCLE (R388). -/
def R.CR_LAST_CYCLE : Reg := ⟨.crank, 0x840, 1, 8, 0, 0, .ro, true, false, 0xffffffffffffffff, 0x0, false, false⟩

/-- CRANK.CR_JRNL_SEQ (R388). -/
def R.CR_JRNL_SEQ : Reg := ⟨.crank, 0x848, 1, 4, 0, 0, .ro, false, false, 0xffffffff, 0x0, false, false⟩

/-- CRANK.CR_FORCES (R388). -/
def R.CR_FORCES : Reg := ⟨.crank, 0x84c, 1, 4, 0, 0, .ro, false, false, 0x1ff, 0x0, false, false⟩

/-- CRANK.CR_EXP_RANGE0_7 (R388). -/
def R.CR_EXP_RANGE0_7 : Reg := ⟨.crank, 0x850, 8, 4, 0, 0, .rw, false, false, 0xffffffff, 0x0, false, false⟩

/-- CRANK.ARITH_FAULT (R388). -/
def R.ARITH_FAULT : Reg := ⟨.crank, 0x870, 1, 4, 0, 0, .ro, false, false, 0xffffffff, 0x0, false, false⟩

/-- CRANK.INDEX_FAULT (R388). -/
def R.INDEX_FAULT : Reg := ⟨.crank, 0x874, 1, 4, 0, 0, .ro, false, false, 0xffffffff, 0x0, false, false⟩

/-- CRANK.OUT_DENIED (R388). -/
def R.OUT_DENIED : Reg := ⟨.crank, 0x878, 1, 4, 0, 0, .ro, false, false, 0xffffffff, 0x0, false, false⟩

/-- CRANK.IN_DEFAULT (R388). -/
def R.IN_DEFAULT : Reg := ⟨.crank, 0x87c, 1, 4, 0, 0, .ro, false, false, 0xffffffff, 0x0, false, false⟩

/-- CRANK.JRNL_MERGE (R388). -/
def R.JRNL_MERGE : Reg := ⟨.crank, 0x880, 1, 4, 0, 0, .ro, false, false, 0xffffffff, 0x0, false, false⟩

/-- CRANK.IMP_APPLIED (R388). -/
def R.IMP_APPLIED : Reg := ⟨.crank, 0x884, 1, 4, 0, 0, .ro, false, false, 0xffffffff, 0x0, false, false⟩

/-- CRANK.IMP_SKIP (R388). -/
def R.IMP_SKIP : Reg := ⟨.crank, 0x888, 1, 4, 0, 0, .ro, false, false, 0xffffffff, 0x0, false, false⟩

/-- CRANK.IMP_MISMATCH (R388). -/
def R.IMP_MISMATCH : Reg := ⟨.crank, 0x88c, 1, 4, 0, 0, .ro, false, false, 0xffffffff, 0x0, false, false⟩

/-- CRANK.WIN_IGNORED (R388). -/
def R.WIN_IGNORED : Reg := ⟨.crank, 0x890, 1, 4, 0, 0, .ro, false, false, 0xffffffff, 0x0, false, false⟩

/-- CRANK.IMAGE_FULL (R388). -/
def R.IMAGE_FULL : Reg := ⟨.crank, 0x894, 1, 4, 0, 0, .ro, false, false, 0xffffffff, 0x0, false, false⟩

/-- CRANK.MBX_IN (R388). -/
def R.CRANK_MBX_IN : Reg := ⟨.crank, 0xa00, 128, 4, 0, 0, .rw, false, false, 0xffffffff, 0x0, false, false⟩

/-- CRANK.MBX_OUT (R388). -/
def R.CRANK_MBX_OUT : Reg := ⟨.crank, 0xc00, 128, 4, 0, 0, .ro, false, false, 0xffffffff, 0x0, false, false⟩

/-- CRANK.MBX_SEQ (R388). -/
def R.CRANK_MBX_SEQ : Reg := ⟨.crank, 0xe00, 1, 4, 0, 0, .ro, false, false, 0xffffffff, 0x0, false, false⟩

/-- CRANK.OL_ENTRY (R389). -/
def R.OL_ENTRY : Reg := ⟨.crank, 0x100, 1, 4, 0, 63, .rw, false, false, 0xffff0007, 0x0, false, false⟩

/-- CRANK.FC_VAR (R389). -/
def R.FC_VAR : Reg := ⟨.crank, 0x100, 1, 4, 64, 319, .rw, false, false, 0xffff, 0x0, false, false⟩

/-- CRANK.OL_VALUE (R389). -/
def R.OL_VALUE : Reg := ⟨.crank, 0x104, 1, 4, 0, 63, .rw, false, false, 0xffffffff, 0x0, false, false⟩

/-- CRANK.FC_VALUE (R389). -/
def R.FC_VALUE : Reg := ⟨.crank, 0x104, 1, 4, 64, 319, .rw, false, false, 0xffffffff, 0x0, false, false⟩

/-- CRANK_TASK.CT_CELLS (R390). -/
def R.CT_CELLS : Reg := ⟨.crankTask, 0x100, 1, 4, 0, 15, .rw, false, false, 0xffffffff, 0x0, false, false⟩

/-- CRANK_TASK.CT_SCHED (R390). -/
def R.CT_SCHED : Reg := ⟨.crankTask, 0x104, 1, 4, 0, 15, .rw, false, false, 0x3ff03ff, 0x0, false, false⟩

/-- CRANK_TASK.CT_CFG (R390). -/
def R.CT_CFG : Reg := ⟨.crankTask, 0x108, 1, 4, 0, 15, .rw, false, false, 0x3f, 0x0, false, false⟩

/-- CRANK_TASK.CT_WDT (R390). -/
def R.CT_WDT : Reg := ⟨.crankTask, 0x10c, 1, 4, 0, 15, .rw, false, false, 0xfffff, 0x3e8, false, false⟩

/-- CRANK_TASK.CT_IN (R390). -/
def R.CT_IN : Reg := ⟨.crankTask, 0x110, 1, 4, 0, 15, .rw, false, false, 0x3ff01ff, 0x0, false, false⟩

/-- CRANK_TASK.CT_OUT (R390). -/
def R.CT_OUT : Reg := ⟨.crankTask, 0x114, 1, 4, 0, 15, .rw, false, false, 0x3ff01ff, 0x0, false, false⟩

/-- CRANK_TASK.CT_EVENT (R390). -/
def R.CT_EVENT : Reg := ⟨.crankTask, 0x118, 1, 4, 0, 15, .rw, false, false, 0xffff0003, 0x0, false, false⟩

/-- CRANK_TASK.CT_STATE (R390). -/
def R.CT_STATE : Reg := ⟨.crankTask, 0x120, 1, 4, 0, 15, .ro, false, false, 0x7, 0x0, false, false⟩

/-- CRANK_TASK.CT_SCANS (R390). -/
def R.CT_SCANS : Reg := ⟨.crankTask, 0x124, 1, 4, 0, 15, .ro, false, false, 0xffffffff, 0x0, false, false⟩

/-- CRANK_TASK.CT_LAST_US (R390). -/
def R.CT_LAST_US : Reg := ⟨.crankTask, 0x128, 1, 4, 0, 15, .ro, false, false, 0xfffff, 0x0, false, false⟩

/-- CRANK_TASK.CT_MAX_US (R390). -/
def R.CT_MAX_US : Reg := ⟨.crankTask, 0x12c, 1, 4, 0, 15, .rc, false, false, 0xfffff, 0x0, false, false⟩

/-- CRANK_TASK.CT_OVERRUN (R390). -/
def R.CT_OVERRUN : Reg := ⟨.crankTask, 0x130, 1, 4, 0, 15, .ro, false, false, 0xffffffff, 0x0, false, false⟩

/-- CRANK_TASK.CT_MISS (R390). -/
def R.CT_MISS : Reg := ⟨.crankTask, 0x134, 1, 4, 0, 15, .ro, false, false, 0xffffffff, 0x0, false, false⟩

/-- CRANK_TASK.CT_MERGED (R390). -/
def R.CT_MERGED : Reg := ⟨.crankTask, 0x138, 1, 4, 0, 15, .ro, false, false, 0xffffffff, 0x0, false, false⟩

/-- CRANK_TASK.CT_LAST_START (R390). -/
def R.CT_LAST_START : Reg := ⟨.crankTask, 0x140, 1, 8, 0, 15, .ro, true, false, 0xffffffffffffffff, 0x0, false, false⟩

/-- XSPI_RETAIN.RT_CFG (R391). -/
def R.RT_CFG : Reg := ⟨.xspiRetain, 0x800, 1, 4, 0, 0, .rwl, false, false, 0x1f0f, 0x0, false, false⟩

/-- XSPI_RETAIN.RT_REGION (R391). -/
def R.RT_REGION : Reg := ⟨.xspiRetain, 0x804, 6, 4, 0, 0, .rwl, false, false, 0xffffffff, 0x0, false, false⟩

/-- XSPI_RETAIN.RT_STATUS (R391). -/
def R.RT_STATUS : Reg := ⟨.xspiRetain, 0x820, 1, 4, 0, 0, .ro, false, false, 0x7, 0x0, false, false⟩

/-- XSPI_RETAIN.RT_WRITTEN (R391). -/
def R.RT_WRITTEN : Reg := ⟨.xspiRetain, 0x824, 1, 4, 0, 0, .ro, false, false, 0xffffffff, 0x0, false, false⟩

/-- XSPI_RETAIN.RT_ERRORS (R391). -/
def R.RT_ERRORS : Reg := ⟨.xspiRetain, 0x828, 1, 4, 0, 0, .ro, false, false, 0xffffffff, 0x0, false, false⟩

/-- XSPI_RETAIN.RT_PF_TIME (R391). -/
def R.RT_PF_TIME : Reg := ⟨.xspiRetain, 0x82c, 1, 4, 0, 0, .ro, false, false, 0xffff, 0x0, false, false⟩

/-- XSPI_RETAIN.RT_PF_CTS (R391). -/
def R.RT_PF_CTS : Reg := ⟨.xspiRetain, 0x830, 1, 8, 0, 0, .ro, true, false, 0xffffffffffffffff, 0x0, false, false⟩

/-- CRANK_VIEW.CV_STATE (R392). -/
def R.CV_STATE : Reg := ⟨.crankView, 0x800, 1, 4, 0, 0, .ro, false, false, 0xffffffff, 0x0, false, false⟩

/-- CRANK_VIEW.CV_CYCLE (R392). -/
def R.CV_CYCLE : Reg := ⟨.crankView, 0x808, 1, 8, 0, 0, .ro, true, false, 0xffffffffffffffff, 0x0, false, false⟩

/-- CRANK_VIEW.CV_OUT_VALID (R392). -/
def R.CV_OUT_VALID : Reg := ⟨.crankView, 0x810, 1, 4, 0, 0, .ro, false, false, 0x1, 0x0, false, false⟩

/-- CRANK_VIEW.MBX_IN (R392). -/
def R.CRANK_VIEW_MBX_IN : Reg := ⟨.crankView, 0xa00, 128, 4, 0, 0, .rw, false, false, 0xffffffff, 0x0, false, false⟩

/-- CRANK_VIEW.MBX_OUT (R392). -/
def R.CRANK_VIEW_MBX_OUT : Reg := ⟨.crankView, 0xc00, 128, 4, 0, 0, .ro, false, false, 0xffffffff, 0x0, false, false⟩

/-- CRANK_VIEW.MBX_SEQ (R392). -/
def R.CRANK_VIEW_MBX_SEQ : Reg := ⟨.crankView, 0xe00, 1, 4, 0, 0, .ro, false, false, 0xffffffff, 0x0, false, false⟩

/-- CAPTURE.CAP_BASE (R424), 1 MiB aligned (R393): bits [19:0] are not kept (DESIGN CHOICE, log entry 121). -/
def R.CAP_BASE : Reg := ⟨.capture, 0x800, 1, 8, 0, 0, .rwl, true, false, 0xfffffffffff00000, 0x0, false, false⟩

/-- CAPTURE.CAP_SIZE (R424). -/
def R.CAP_SIZE : Reg := ⟨.capture, 0x808, 1, 4, 0, 0, .rwl, false, false, 0xffff, 0x0, false, false⟩

/-- CAPTURE.CAP_LATE_WAIT (R424). -/
def R.CAP_LATE_WAIT : Reg := ⟨.capture, 0x80c, 1, 4, 0, 0, .rw, false, false, 0x1ffff, 0x7d0, false, false⟩

/-- CAPTURE.CAP_HIGH (R424). -/
def R.CAP_HIGH : Reg := ⟨.capture, 0x810, 1, 4, 0, 0, .rw, false, false, 0x1fff, 0x1200, false, false⟩

/-- CAPTURE.CAP_STAGE (R424). -/
def R.CAP_STAGE : Reg := ⟨.capture, 0x814, 1, 4, 0, 0, .ro, false, false, 0x1fff, 0x0, false, false⟩

/-- CAPTURE.CAP_STAGE_PEAK (R424). -/
def R.CAP_STAGE_PEAK : Reg := ⟨.capture, 0x818, 1, 4, 0, 0, .rc, false, false, 0x1fff, 0x0, false, false⟩

/-- CAPTURE.CAP_CH_USED (R424). -/
def R.CAP_CH_USED : Reg := ⟨.capture, 0x81c, 1, 4, 0, 0, .ro, false, false, 0xfff, 0x0, false, false⟩

/-- CAPTURE.CAP_REDUCE_STEPS (R424). -/
def R.CAP_REDUCE_STEPS : Reg := ⟨.capture, 0x820, 1, 4, 0, 0, .ro, false, false, 0xffffffff, 0x0, false, false⟩

/-- CAPTURE.CAP_GAP_ROWS (R424). -/
def R.CAP_GAP_ROWS : Reg := ⟨.capture, 0x824, 1, 4, 0, 0, .ro, false, false, 0xffffffff, 0x0, false, false⟩

/-- CAPTURE.CAP_LATE_SAMPLE (R424). -/
def R.CAP_LATE_SAMPLE : Reg := ⟨.capture, 0x828, 1, 4, 0, 0, .ro, false, false, 0xffffffff, 0x0, false, false⟩

/-- CAPTURE.CAP_EVENT_REC (R424). -/
def R.CAP_EVENT_REC : Reg := ⟨.capture, 0x82c, 1, 4, 0, 0, .ro, false, false, 0x1ff, 0x0, false, false⟩

/-- CAPTURE.REC_CFG (R425). -/
def R.REC_CFG : Reg := ⟨.capture, 0x100, 1, 4, 0, 63, .rw, false, false, 0x3fffff, 0x0, false, false⟩

/-- CAPTURE.REC_RATE (R425). -/
def R.REC_RATE : Reg := ⟨.capture, 0x104, 1, 4, 0, 63, .rw, false, false, 0x7ffff, 0x12c0, false, false⟩

/-- CAPTURE.REC_PRE (R425). -/
def R.REC_PRE : Reg := ⟨.capture, 0x108, 1, 4, 0, 63, .rw, false, false, 0x3ffffff, 0x186a0, false, false⟩

/-- CAPTURE.REC_POST (R425). -/
def R.REC_POST : Reg := ⟨.capture, 0x10c, 1, 4, 0, 63, .rw, false, false, 0x3ffffff, 0x61a80, false, false⟩

/-- CAPTURE.REC_MAX (R425). -/
def R.REC_MAX : Reg := ⟨.capture, 0x110, 1, 4, 0, 63, .rw, false, false, 0x3ffffff, 0x1e8480, false, false⟩

/-- CAPTURE.REC_MEAS (R425). -/
def R.REC_MEAS : Reg := ⟨.capture, 0x114, 1, 4, 0, 63, .rw, false, false, 0x3ffffff, 0x0, false, false⟩

/-- CAPTURE.REC_AREA (R425). -/
def R.REC_AREA : Reg := ⟨.capture, 0x118, 1, 4, 0, 63, .rw, false, false, 0xffffffff, 0x0, false, false⟩

/-- CAPTURE.REC_ITEM (R425). -/
def R.REC_ITEM : Reg := ⟨.capture, 0x11c, 1, 4, 0, 63, .rw, false, false, 0xffff0fff, 0x0, false, false⟩

/-- CAPTURE.REC_DESC (R425). -/
def R.REC_DESC : Reg := ⟨.capture, 0x120, 1, 8, 0, 63, .rw, true, false, 0xffffffffffffffff, 0x0, false, false⟩

/-- CAPTURE.REC_STATE (R425). -/
def R.REC_STATE : Reg := ⟨.capture, 0x128, 1, 4, 0, 63, .ro, false, false, 0xf3, 0x0, false, false⟩

/-- CAPTURE.REC_SLOTS (R425). -/
def R.REC_SLOTS : Reg := ⟨.capture, 0x12c, 1, 4, 0, 63, .ro, false, false, 0x3, 0x0, false, false⟩

/-- CAPTURE.REC_TRIG_CTS (R425). -/
def R.REC_TRIG_CTS : Reg := ⟨.capture, 0x130, 1, 8, 0, 63, .ro, true, false, 0xffffffffffffffff, 0x0, false, false⟩

/-- CAPTURE.REC_SEQ (R425). -/
def R.REC_SEQ : Reg := ⟨.capture, 0x138, 1, 4, 0, 63, .ro, false, false, 0xffffffff, 0x0, false, false⟩

/-- CAPTURE.REC_LOST (R425). -/
def R.REC_LOST : Reg := ⟨.capture, 0x13c, 1, 4, 0, 63, .ro, false, false, 0xffffffff, 0x0, false, false⟩

/-- CAPTURE.REC_DEAD_NS (R425). -/
def R.REC_DEAD_NS : Reg := ⟨.capture, 0x140, 1, 8, 0, 63, .ro, true, false, 0xffffffffffffffff, 0x0, false, false⟩

/-- CAPTURE.REC_RD_ADDR (R425). -/
def R.REC_RD_ADDR : Reg := ⟨.capture, 0x148, 1, 8, 0, 63, .rw, true, false, 0xffffffffffffffff, 0x0, false, false⟩

/-- CAPTURE.REC_RD_LEN (R425). -/
def R.REC_RD_LEN : Reg := ⟨.capture, 0x150, 1, 4, 0, 63, .rw, false, false, 0xffffffff, 0x0, false, false⟩

/-- CAPTURE.REC_RD_COPIED (R425). -/
def R.REC_RD_COPIED : Reg := ⟨.capture, 0x154, 1, 4, 0, 63, .ro, false, false, 0xffffffff, 0x0, false, false⟩

/-- CAPTURE.REC_TRIGGERS (R425). -/
def R.REC_TRIGGERS : Reg := ⟨.capture, 0x158, 1, 4, 0, 63, .ro, false, false, 0xffffffff, 0x0, false, false⟩

/-- CAPTURE.GW_MATCH0 (R426). -/
def R.GW_MATCH0 : Reg := ⟨.capture, 0x100, 1, 4, 64, 127, .rw, false, false, 0xffffffff, 0x0, false, false⟩

/-- CAPTURE.GW_MATCH1 (R426). -/
def R.GW_MATCH1 : Reg := ⟨.capture, 0x104, 1, 4, 64, 127, .rw, false, false, 0xffffffff, 0x0, false, false⟩

/-- CAPTURE.GW_CMP (R426). -/
def R.GW_CMP : Reg := ⟨.capture, 0x108, 1, 4, 64, 127, .rw, false, false, 0xffffffff, 0x0, false, false⟩

/-- CAPTURE.GW_CFG (R426). -/
def R.GW_CFG : Reg := ⟨.capture, 0x10c, 1, 4, 64, 127, .rw, false, false, 0x3, 0x0, false, false⟩

/-- CAPTURE.GW_STATE (R426). -/
def R.GW_STATE : Reg := ⟨.capture, 0x110, 1, 4, 64, 127, .ro, false, false, 0x3, 0x0, false, false⟩

/-- CAPTURE.GW_STNUM (R426). -/
def R.GW_STNUM : Reg := ⟨.capture, 0x114, 1, 4, 64, 127, .ro, false, false, 0xffffffff, 0x0, false, false⟩

/-- CAPTURE.GW_LAST_CTS (R426). -/
def R.GW_LAST_CTS : Reg := ⟨.capture, 0x118, 1, 8, 64, 127, .ro, true, false, 0xffffffffffffffff, 0x0, false, false⟩

/-- CAPTURE.GW_FRAMES (R426). -/
def R.GW_FRAMES : Reg := ⟨.capture, 0x120, 1, 4, 64, 127, .ro, false, false, 0xffffffff, 0x0, false, false⟩

/-- RESET_KS.DL_LEVEL (R435). -/
def R.DL_LEVEL : Reg := ⟨.resetKs, 0x900, 1, 4, 0, 0, .ro, false, false, 0xf0707, 0x4, false, true⟩

/-- RESET_KS.DL_COND (R435). -/
def R.DL_COND : Reg := ⟨.resetKs, 0x904, 1, 4, 0, 0, .ro, false, false, 0xffffffff, 0x11, false, true⟩

/-- RESET_KS.DL_HOLD (R435). -/
def R.DL_HOLD : Reg := ⟨.resetKs, 0x908, 1, 4, 0, 0, .rw, false, false, 0xffff, 0x3e8, false, true⟩

/-- RESET_KS.DL_ENABLE (R435). -/
def R.DL_ENABLE : Reg := ⟨.resetKs, 0x90c, 1, 4, 0, 0, .rwl, false, false, 0x1, 0x0, false, true⟩

/-- RESET_KS.SW_ALIVE (R435). -/
def R.SW_ALIVE : Reg := ⟨.resetKs, 0x910, 1, 4, 0, 0, .wo, false, false, 0xffffffff, 0x0, false, true⟩

/-- RESET_KS.SW_TIMEOUT (R435). -/
def R.SW_TIMEOUT : Reg := ⟨.resetKs, 0x914, 1, 4, 0, 0, .rw, false, false, 0x3fff, 0x32, false, true⟩

/-- RESET_KS.DL_LANE_LOSS (R435). -/
def R.DL_LANE_LOSS : Reg := ⟨.resetKs, 0x918, 1, 4, 0, 0, .rw, false, false, 0x3fff, 0x64, false, true⟩

/-- RESET_KS.DL_TIME_ALARM (R435). -/
def R.DL_TIME_ALARM : Reg := ⟨.resetKs, 0x91c, 1, 4, 0, 0, .rw, false, false, 0xffff, 0xbb8, false, true⟩

/-- RESET_KS.DL_FORCE (R435). -/
def R.DL_FORCE : Reg := ⟨.resetKs, 0x920, 1, 4, 0, 0, .ro, false, false, 0x7, 0x0, false, true⟩

/-- RESET_KS.DL_KEY (R435). -/
def R.DL_KEY : Reg := ⟨.resetKs, 0x924, 1, 4, 0, 0, .rwl, false, false, 0xffff, 0x0, false, true⟩

/-- RESET_KS.DL_CHANGE_CTS (R435). -/
def R.DL_CHANGE_CTS : Reg := ⟨.resetKs, 0x928, 1, 8, 0, 0, .ro, true, false, 0xffffffffffffffff, 0x0, false, true⟩

/-- COASTER.CO_STATUS (R443). -/
def R.CO_STATUS : Reg := ⟨.coaster, 0x800, 1, 4, 0, 0, .ro, false, false, 0xffff0003, 0x0, false, false⟩

/-- COASTER.CO_ARMED (R443). -/
def R.CO_ARMED : Reg := ⟨.coaster, 0x804, 1, 4, 0, 0, .ro, false, false, 0x7f, 0x0, false, false⟩

/-- COASTER.CO_TRIPPED (R443). -/
def R.CO_TRIPPED : Reg := ⟨.coaster, 0x808, 1, 4, 0, 0, .ro, false, false, 0x7f, 0x0, false, false⟩

/-- COASTER.CO_EVENT_ZONE (R443). -/
def R.CO_EVENT_ZONE : Reg := ⟨.coaster, 0x80c, 1, 4, 0, 0, .ro, false, false, 0x3f, 0x0, false, false⟩

/-- COASTER.CO_EVAL_MAX (R443). -/
def R.CO_EVAL_MAX : Reg := ⟨.coaster, 0x810, 1, 4, 0, 0, .rc, false, false, 0xffff, 0x0, false, false⟩

/-- COASTER.ZN_CFG (R444). -/
def R.ZN_CFG : Reg := ⟨.coaster, 0x100, 1, 4, 0, 63, .rw, false, false, 0x1fff, 0x0, false, false⟩

/-- COASTER.ZN_IN01 (R444). -/
def R.ZN_IN01 : Reg := ⟨.coaster, 0x104, 1, 4, 0, 63, .rw, false, false, 0x83ff83ff, 0x0, false, false⟩

/-- COASTER.ZN_IN23 (R444). -/
def R.ZN_IN23 : Reg := ⟨.coaster, 0x108, 1, 4, 0, 63, .rw, false, false, 0x83ff83ff, 0x0, false, false⟩

/-- COASTER.ZN_DELAY (R444). -/
def R.ZN_DELAY : Reg := ⟨.coaster, 0x10c, 1, 4, 0, 63, .rw, false, false, 0x3ffffff, 0x0, false, false⟩

/-- COASTER.ZN_HOLD (R444). -/
def R.ZN_HOLD : Reg := ⟨.coaster, 0x110, 1, 4, 0, 63, .rw, false, false, 0xffff, 0x64, false, false⟩

/-- COASTER.ZN_OUT (R444). -/
def R.ZN_OUT : Reg := ⟨.coaster, 0x114, 1, 4, 0, 63, .rw, false, false, 0xffffffff, 0x0, false, false⟩

/-- COASTER.ZN_BF (R444). -/
def R.ZN_BF : Reg := ⟨.coaster, 0x118, 1, 4, 0, 63, .rw, false, false, 0xfffff, 0x249f0, false, false⟩

/-- COASTER.ZN_BF_SRC (R444). -/
def R.ZN_BF_SRC : Reg := ⟨.coaster, 0x11c, 1, 4, 0, 63, .rw, false, false, 0x1f1f83ff, 0x0, false, false⟩

/-- COASTER.ZN_STATE (R444). -/
def R.ZN_STATE : Reg := ⟨.coaster, 0x120, 1, 4, 0, 63, .ro, false, false, 0xf7f, 0x0, false, false⟩

/-- COASTER.ZN_PICKUP_CTS (R444). -/
def R.ZN_PICKUP_CTS : Reg := ⟨.coaster, 0x128, 1, 8, 0, 63, .ro, true, false, 0xffffffffffffffff, 0x0, false, false⟩

/-- COASTER.ZN_TRIP_CTS (R444). -/
def R.ZN_TRIP_CTS : Reg := ⟨.coaster, 0x130, 1, 8, 0, 63, .ro, true, false, 0xffffffffffffffff, 0x0, false, false⟩

/-- COASTER.ZN_TRIPS (R444). -/
def R.ZN_TRIPS : Reg := ⟨.coaster, 0x138, 1, 4, 0, 63, .ro, false, false, 0xffffffff, 0x0, false, false⟩

/-- COASTER.CF_FRAME (R444). -/
def R.CF_FRAME : Reg := ⟨.coaster, 0x100, 32, 4, 64, 191, .rw, false, false, 0xffffffff, 0x0, false, false⟩

/-- COASTER.CF_CFG (R444). -/
def R.CF_CFG : Reg := ⟨.coaster, 0x180, 1, 4, 64, 191, .rw, false, false, 0x7ff01ff, 0x0, false, false⟩

/-- COASTER.CF_OFF (R444). -/
def R.CF_OFF : Reg := ⟨.coaster, 0x184, 1, 4, 64, 191, .rw, false, false, 0xffffffff, 0x0, false, false⟩

/-- COASTER.CF_REP (R444). -/
def R.CF_REP : Reg := ⟨.coaster, 0x188, 1, 4, 64, 191, .rw, false, false, 0xffffffff, 0x3e807d0, false, false⟩

/-- COASTER.CF_STNUM (R444). -/
def R.CF_STNUM : Reg := ⟨.coaster, 0x18c, 1, 4, 64, 191, .ro, false, false, 0xffffffff, 0x0, false, false⟩

/-- TRIP_IO.TIO_LEVELS (R451). -/
def R.TIO_LEVELS : Reg := ⟨.tripIo, 0x800, 1, 4, 0, 0, .ro, false, false, 0xffffffff, 0x0, false, false⟩

/-- TRIP_IO.TIO_SW_SET (R451). -/
def R.TIO_SW_SET : Reg := ⟨.tripIo, 0x804, 1, 4, 0, 0, .wo, false, false, 0xff, 0x0, false, false⟩

/-- TRIP_IO.TIO_SW_CLR (R451). -/
def R.TIO_SW_CLR : Reg := ⟨.tripIo, 0x808, 1, 4, 0, 0, .wo, false, false, 0xff, 0x0, false, false⟩

/-- TRIP_IO.TIO_DEMANDS (R451). -/
def R.TIO_DEMANDS : Reg := ⟨.tripIo, 0x80c, 1, 4, 0, 0, .ro, false, false, 0xffffffff, 0x0, false, false⟩

/-- TRIP_IO.TIO_DENIED (R451). -/
def R.TIO_DENIED : Reg := ⟨.tripIo, 0x810, 1, 4, 0, 0, .ro, false, false, 0xffffffff, 0x0, false, false⟩

/-- TRIP_IO.TIO_BIN_CHG (R451). -/
def R.TIO_BIN_CHG : Reg := ⟨.tripIo, 0x814, 1, 4, 0, 0, .rc, false, false, 0xffff, 0x0, false, false⟩

/-- TRIP_IO.TL_CFG (R452). -/
def R.TL_CFG : Reg := ⟨.tripIo, 0x100, 1, 4, 0, 7, .rwl, false, false, 0xffffff73, 0x640200, false, false⟩

/-- TRIP_IO.TL_SENSE_WIN (R452). -/
def R.TL_SENSE_WIN : Reg := ⟨.tripIo, 0x104, 1, 4, 0, 7, .rw, false, false, 0xffff, 0x7d0, false, false⟩

/-- TRIP_IO.TL_STATE (R452). -/
def R.TL_STATE : Reg := ⟨.tripIo, 0x108, 1, 4, 0, 7, .ro, false, false, 0x701ff, 0x0, false, false⟩

/-- TRIP_IO.TL_CHANGE_CTS (R452). -/
def R.TL_CHANGE_CTS : Reg := ⟨.tripIo, 0x110, 1, 8, 0, 7, .ro, true, false, 0xffffffffffffffff, 0x0, false, false⟩

/-- TRIP_IO.TL_ASSERTS (R452). -/
def R.TL_ASSERTS : Reg := ⟨.tripIo, 0x118, 1, 4, 0, 7, .ro, false, false, 0xffffffff, 0x0, false, false⟩

/-- TRIP_IO.TB_CFG (R452). -/
def R.TB_CFG : Reg := ⟨.tripIo, 0x100, 1, 4, 8, 23, .rw, false, false, 0x1ffff, 0x3e8, false, false⟩

/-- TRIP_IO.TB_STATE (R452). -/
def R.TB_STATE : Reg := ⟨.tripIo, 0x108, 1, 4, 8, 23, .ro, false, false, 0x3, 0x0, false, false⟩

/-- TRIP_IO.TB_CHANGE_CTS (R452). -/
def R.TB_CHANGE_CTS : Reg := ⟨.tripIo, 0x110, 1, 8, 8, 23, .ro, true, false, 0xffffffffffffffff, 0x0, false, false⟩

/-- TANDEM_LANE.TD_ID (R477). -/
def R.TD_ID : Reg := ⟨.tandemLane, 0x800, 1, 4, 0, 0, .rwl, false, false, 0xffff0001, 0x0, false, false⟩

/-- TANDEM_LANE.TD_CFG (R477). -/
def R.TD_CFG : Reg := ⟨.tandemLane, 0x804, 1, 4, 0, 0, .rwl, false, false, 0x3ff000f, 0x3, false, false⟩

/-- TANDEM_LANE.TD_CYCLE (R477). -/
def R.TD_CYCLE : Reg := ⟨.tandemLane, 0x808, 1, 4, 0, 0, .rwl, false, false, 0x7ffffff, 0xf4240, false, false⟩

/-- TANDEM_LANE.TD_LEASE (R477). -/
def R.TD_LEASE : Reg := ⟨.tandemLane, 0x80c, 1, 4, 0, 0, .rwl, false, false, 0xff, 0x4, false, false⟩

/-- TANDEM_LANE.TD_SKEW (R477). -/
def R.TD_SKEW : Reg := ⟨.tandemLane, 0x810, 1, 4, 0, 0, .rwl, false, false, 0xffffff, 0x2710, false, false⟩

/-- TANDEM_LANE.TD_LISTEN (R477). -/
def R.TD_LISTEN : Reg := ⟨.tandemLane, 0x814, 1, 4, 0, 0, .rw, false, false, 0x3ff, 0x14, false, false⟩

/-- TANDEM_LANE.TD_PERMIT_MS (R477). -/
def R.TD_PERMIT_MS : Reg := ⟨.tandemLane, 0x818, 1, 4, 0, 0, .rw, false, false, 0xffff, 0x32, false, false⟩

/-- TANDEM_LANE.TD_PERMIT (R477). -/
def R.TD_PERMIT : Reg := ⟨.tandemLane, 0x81c, 1, 4, 0, 0, .wo, false, false, 0xffffffff, 0x0, false, false⟩

/-- TANDEM_LANE.TD_SW_BASE (R477). -/
def R.TD_SW_BASE : Reg := ⟨.tandemLane, 0x820, 1, 8, 0, 0, .rwl, true, false, 0xffffffffffffffff, 0x0, false, false⟩

/-- TANDEM_LANE.TD_SW_LEN (R477). -/
def R.TD_SW_LEN : Reg := ⟨.tandemLane, 0x828, 1, 4, 0, 0, .rw, false, false, 0x7ffff, 0x0, false, false⟩

/-- TANDEM_LANE.TD_RX_BASE (R477). -/
def R.TD_RX_BASE : Reg := ⟨.tandemLane, 0x830, 1, 8, 0, 0, .rwl, true, false, 0xffffffffffffffff, 0x0, false, false⟩

/-- TANDEM_LANE.TD_BEACON_MAC0 (R477). -/
def R.TD_BEACON_MAC0 : Reg := ⟨.tandemLane, 0x838, 1, 4, 0, 0, .rwl, false, false, 0xffffffff, 0x0, false, false⟩

/-- TANDEM_LANE.TD_BEACON_MAC1 (R477). -/
def R.TD_BEACON_MAC1 : Reg := ⟨.tandemLane, 0x83c, 1, 4, 0, 0, .rwl, false, false, 0xffff, 0x0, false, false⟩

/-- TANDEM_LANE.TD_STATE (R477). -/
def R.TD_STATE : Reg := ⟨.tandemLane, 0x840, 1, 4, 0, 0, .ro, false, false, 0x137ff, 0x0, false, false⟩

/-- TANDEM_LANE.TD_EPOCH (R477). -/
def R.TD_EPOCH : Reg := ⟨.tandemLane, 0x848, 1, 8, 0, 0, .ro, true, false, 0xffffffffffffffff, 0x0, false, false⟩

/-- TANDEM_LANE.TD_EXPIRY (R477). -/
def R.TD_EXPIRY : Reg := ⟨.tandemLane, 0x850, 1, 8, 0, 0, .ro, true, false, 0xffffffffffffffff, 0x0, false, false⟩

/-- TANDEM_LANE.TD_HOLDER (R477). -/
def R.TD_HOLDER : Reg := ⟨.tandemLane, 0x858, 1, 4, 0, 0, .ro, false, false, 0x3, 0x0, false, false⟩

/-- TANDEM_LANE.TD_HAND_AT (R477). -/
def R.TD_HAND_AT : Reg := ⟨.tandemLane, 0x860, 1, 8, 0, 0, .rw, true, false, 0xffffffffffffffff, 0x0, false, false⟩

/-- TANDEM_LANE.TD_LAST_RX (R477). -/
def R.TD_LAST_RX : Reg := ⟨.tandemLane, 0x868, 1, 8, 0, 0, .ro, true, false, 0xffffffffffffffff, 0x0, false, false⟩

/-- TANDEM_LANE.TD_TAKE_CTS (R477). -/
def R.TD_TAKE_CTS : Reg := ⟨.tandemLane, 0x870, 1, 8, 0, 0, .ro, true, false, 0xffffffffffffffff, 0x0, false, false⟩

/-- TANDEM_LANE.TD_STOP_KEY (R477). -/
def R.TD_STOP_KEY : Reg := ⟨.tandemLane, 0x878, 1, 4, 0, 0, .rwl, false, false, 0xffff, 0x0, false, false⟩

/-- TANDEM_LANE.TX_FRAMES (R477). -/
def R.TANDEM_LANE_TX_FRAMES : Reg := ⟨.tandemLane, 0x880, 1, 4, 0, 0, .ro, false, false, 0xffffffff, 0x0, false, false⟩

/-- TANDEM_LANE.RX_FRAMES (R477). -/
def R.TANDEM_LANE_RX_FRAMES : Reg := ⟨.tandemLane, 0x884, 1, 4, 0, 0, .ro, false, false, 0xffffffff, 0x0, false, false⟩

/-- TANDEM_LANE.RX_MISS (R477). -/
def R.RX_MISS : Reg := ⟨.tandemLane, 0x888, 1, 4, 0, 0, .ro, false, false, 0xffffffff, 0x0, false, false⟩

/-- TANDEM_LANE.RX_BAD (R477). -/
def R.RX_BAD : Reg := ⟨.tandemLane, 0x88c, 1, 4, 0, 0, .ro, false, false, 0xffffffff, 0x0, false, false⟩

/-- TANDEM_LANE.TX_OMIT (R477). -/
def R.TX_OMIT : Reg := ⟨.tandemLane, 0x890, 1, 4, 0, 0, .ro, false, false, 0xffffffff, 0x0, false, false⟩

/-- TANDEM_LANE.GATE_DROP (R477). -/
def R.GATE_DROP : Reg := ⟨.tandemLane, 0x894, 1, 4, 0, 0, .ro, false, false, 0xffffffff, 0x0, false, false⟩

/-- TANDEM_LANE.SPLIT_SEEN (R477). -/
def R.SPLIT_SEEN : Reg := ⟨.tandemLane, 0x898, 1, 4, 0, 0, .ro, false, false, 0xffffffff, 0x0, false, false⟩

/-- TANDEM_LANE.BEACON_RX (R477). -/
def R.BEACON_RX : Reg := ⟨.tandemLane, 0x89c, 1, 4, 0, 0, .ro, false, false, 0xffffffff, 0x0, false, false⟩

/-- KEY_VAULT.VT_STATUS (R506). -/
def R.VT_STATUS : Reg := ⟨.keyVault, 0x800, 1, 4, 0, 0, .ro, false, false, 0xfff, 0x0, false, false⟩

/-- KEY_VAULT.VT_TAMPER (R506). -/
def R.VT_TAMPER : Reg := ⟨.keyVault, 0x804, 1, 4, 0, 0, .ro, false, false, 0x7f7f7f, 0x0, true, true⟩

/-- KEY_VAULT.VT_TAMPER_CTS (R506). -/
def R.VT_TAMPER_CTS : Reg := ⟨.keyVault, 0x808, 1, 8, 0, 0, .ro, true, false, 0xffffffffffffffff, 0x0, false, true⟩

/-- KEY_VAULT.VT_KEYSEL (R506). -/
def R.VT_KEYSEL : Reg := ⟨.keyVault, 0x810, 1, 4, 0, 0, .rw, false, true, 0x1fff, 0x0, false, false⟩

/-- KEY_VAULT.VT_TARGET (R506). -/
def R.VT_TARGET : Reg := ⟨.keyVault, 0x814, 1, 4, 0, 0, .rw, false, true, 0x3fff, 0x0, false, false⟩

/-- KEY_VAULT.VT_KEY_ID (R506). -/
def R.VT_KEY_ID : Reg := ⟨.keyVault, 0x818, 1, 4, 0, 0, .rw, false, true, 0xffffffff, 0x0, false, false⟩

/-- KEY_VAULT.VT_NOT_BEFORE (R506). -/
def R.VT_NOT_BEFORE : Reg := ⟨.keyVault, 0x820, 1, 8, 0, 0, .rw, true, true, 0xffffffffffffffff, 0x0, false, false⟩

/-- KEY_VAULT.VT_NOT_AFTER (R506). -/
def R.VT_NOT_AFTER : Reg := ⟨.keyVault, 0x828, 1, 8, 0, 0, .rw, true, true, 0xffffffffffffffff, 0x0, false, false⟩

/-- KEY_VAULT.VT_IN_LEN (R506). -/
def R.VT_IN_LEN : Reg := ⟨.keyVault, 0x830, 1, 4, 0, 0, .rw, false, true, 0x3ff, 0x0, false, false⟩

/-- KEY_VAULT.VT_OUT_LEN (R506). -/
def R.VT_OUT_LEN : Reg := ⟨.keyVault, 0x834, 1, 4, 0, 0, .ro, false, true, 0x3ff, 0x0, false, false⟩

/-- KEY_VAULT.VT_LOADED (R506). -/
def R.VT_LOADED : Reg := ⟨.keyVault, 0x838, 1, 4, 0, 0, .ro, false, false, 0x3ff, 0x0, false, false⟩

/-- KEY_VAULT.UNSEAL_FAIL (R506). -/
def R.UNSEAL_FAIL : Reg := ⟨.keyVault, 0x83c, 1, 4, 0, 0, .ro, false, false, 0xf, 0x0, false, false⟩

/-- KEY_VAULT.VT_CMDS (R506). -/
def R.VT_CMDS : Reg := ⟨.keyVault, 0x840, 1, 4, 0, 0, .ro, false, false, 0xffffffff, 0x0, false, false⟩

/-- KEY_VAULT.VT_TAMPER_REFUSE (R506). -/
def R.VT_TAMPER_REFUSE : Reg := ⟨.keyVault, 0x844, 1, 4, 0, 0, .ro, false, false, 0xffffffff, 0x0, false, false⟩

/-- KEY_VAULT.VT_ID_PUB (R506). -/
def R.VT_ID_PUB : Reg := ⟨.keyVault, 0xa00, 24, 4, 0, 0, .ro, false, false, 0xffffffff, 0x0, true, false⟩

/-- KEY_VAULT.VT_SERIAL (R506). -/
def R.VT_SERIAL : Reg := ⟨.keyVault, 0xa60, 4, 4, 0, 0, .ro, false, false, 0xffffffff, 0x0, true, false⟩

/-- KEY_VAULT.VT_MEAS0_2 (R506). -/
def R.VT_MEAS0_2 : Reg := ⟨.keyVault, 0xa80, 36, 4, 0, 0, .rw, false, false, 0xffffffff, 0x0, false, false⟩

/-- KEY_VAULT.VT_BUF (R506). -/
def R.VT_BUF : Reg := ⟨.keyVault, 0xc00, 192, 4, 0, 0, .rw, false, true, 0xffffffff, 0x0, false, false⟩

/-- KEY_VAULT.KS_STATE (R507). -/
def R.KS_STATE : Reg := ⟨.keyVault, 0x100, 1, 4, 0, 1023, .ro, false, false, 0x1ff07ff, 0x0, false, false⟩

/-- KEY_VAULT.KS_KEY_ID (R507). -/
def R.KS_KEY_ID : Reg := ⟨.keyVault, 0x104, 1, 4, 0, 1023, .ro, false, false, 0xffffffff, 0x0, false, false⟩

/-- KEY_VAULT.KS_NOT_BEFORE (R507). -/
def R.KS_NOT_BEFORE : Reg := ⟨.keyVault, 0x108, 1, 8, 0, 1023, .ro, true, false, 0xffffffffffffffff, 0x0, false, false⟩

/-- KEY_VAULT.KS_NOT_AFTER (R507). -/
def R.KS_NOT_AFTER : Reg := ⟨.keyVault, 0x110, 1, 8, 0, 1023, .ro, true, false, 0xffffffffffffffff, 0x0, false, false⟩

/-- KEY_VAULT.KS_NEXT (R507). -/
def R.KS_NEXT : Reg := ⟨.keyVault, 0x118, 1, 4, 0, 1023, .ro, false, false, 0x83ff, 0x0, false, false⟩

/-- KEY_VAULT.KS_PARENT (R507). -/
def R.KS_PARENT : Reg := ⟨.keyVault, 0x11c, 1, 4, 0, 1023, .ro, false, false, 0x9bff, 0x0, false, false⟩

/-- KEY_VAULT.KS_USES (R507). -/
def R.KS_USES : Reg := ⟨.keyVault, 0x120, 1, 4, 0, 1023, .ro, false, false, 0xffffffff, 0x0, false, false⟩

/-- FRAME_AUTH.FA_SV_PASS (R509). -/
def R.FA_SV_PASS : Reg := ⟨.frameAuth, 0x800, 1, 4, 0, 0, .ro, false, false, 0xffffffff, 0x0, false, false⟩

/-- FRAME_AUTH.FA_SV_FAIL (R509). -/
def R.FA_SV_FAIL : Reg := ⟨.frameAuth, 0x804, 1, 4, 0, 0, .ro, false, false, 0xffffffff, 0x0, false, false⟩

/-- FRAME_AUTH.FA_GS_FAIL (R509). -/
def R.FA_GS_FAIL : Reg := ⟨.frameAuth, 0x808, 1, 4, 0, 0, .ro, false, false, 0xffffffff, 0x0, false, false⟩

/-- FRAME_AUTH.FA_TD_FAIL (R509). -/
def R.FA_TD_FAIL : Reg := ⟨.frameAuth, 0x80c, 1, 4, 0, 0, .ro, false, false, 0xffffffff, 0x0, false, false⟩

/-- FRAME_AUTH.FA_TAGGED (R509). -/
def R.FA_TAGGED : Reg := ⟨.frameAuth, 0x810, 1, 4, 0, 0, .ro, false, false, 0xffffffff, 0x0, false, false⟩

/-- FRAME_AUTH.FA_TAG_NOKEY (R509). -/
def R.FA_TAG_NOKEY : Reg := ⟨.frameAuth, 0x814, 1, 4, 0, 0, .ro, false, false, 0xffffffff, 0x0, false, false⟩

/-- FRAME_AUTH.FA_LAST_FAIL (R509). -/
def R.FA_LAST_FAIL : Reg := ⟨.frameAuth, 0x818, 1, 4, 0, 0, .ro, false, false, 0x3ff003f, 0x0, false, false⟩

/-- FRAME_AUTH.FA_LAST_FAIL_CTS (R509). -/
def R.FA_LAST_FAIL_CTS : Reg := ⟨.frameAuth, 0x820, 1, 8, 0, 0, .ro, true, false, 0xffffffffffffffff, 0x0, false, false⟩

/-- FRAME_AUTH.FA_GRACE (R509). -/
def R.FA_GRACE : Reg := ⟨.frameAuth, 0x828, 1, 4, 0, 0, .rw, false, false, 0xffff, 0x3e8, false, false⟩

/-- FRAME_AUTH.GS_MATCH0 (R510). -/
def R.GS_MATCH0 : Reg := ⟨.frameAuth, 0x100, 1, 4, 0, 255, .rw, false, false, 0xffffffff, 0x0, false, false⟩

/-- FRAME_AUTH.PK_CFG (R510). -/
def R.PK_CFG : Reg := ⟨.frameAuth, 0x100, 1, 4, 256, 1279, .rw, false, false, 0x7ff, 0x0, false, false⟩

/-- FRAME_AUTH.GS_MATCH1 (R510). -/
def R.GS_MATCH1 : Reg := ⟨.frameAuth, 0x104, 1, 4, 0, 255, .rw, false, false, 0xffffffff, 0x0, false, false⟩

/-- FRAME_AUTH.PK_TAGGED (R510). -/
def R.PK_TAGGED : Reg := ⟨.frameAuth, 0x104, 1, 4, 256, 1279, .ro, false, false, 0xffffffff, 0x0, false, false⟩

/-- FRAME_AUTH.GS_CFG (R510). -/
def R.GS_CFG : Reg := ⟨.frameAuth, 0x108, 1, 4, 0, 255, .rw, false, false, 0x3fff, 0x0, false, false⟩

/-- FRAME_AUTH.GS_PASS (R510). -/
def R.GS_PASS : Reg := ⟨.frameAuth, 0x10c, 1, 4, 0, 255, .ro, false, false, 0xffffffff, 0x0, false, false⟩

/-- FRAME_AUTH.GS_FAIL (R510). -/
def R.GS_FAIL : Reg := ⟨.frameAuth, 0x110, 1, 4, 0, 255, .ro, false, false, 0xffffffff, 0x0, false, false⟩

/-- RESET_KS.RK_WALK (R533). -/
def R.RK_WALK : Reg := ⟨.resetKs, 0x800, 1, 4, 0, 0, .ro, false, false, 0x7f, 0x1, false, true⟩

/-- RESET_KS.RK_ACTIVE (R533). -/
def R.RK_ACTIVE : Reg := ⟨.resetKs, 0x804, 1, 4, 0, 0, .ro, false, false, 0xff, 0x0, false, true⟩

/-- RESET_KS.RESET_CAUSE (R533). -/
def R.RESET_CAUSE : Reg := ⟨.resetKs, 0x808, 1, 4, 0, 0, .rws, false, false, 0xff, 0x1, false, true⟩

/-- RESET_KS.RC_COUNT0 (R533). -/
def R.RC_COUNT0 : Reg := ⟨.resetKs, 0x80c, 1, 4, 0, 0, .rws, false, false, 0xffffffff, 0x0, false, true⟩

/-- RESET_KS.RC_COUNT1 (R533). -/
def R.RC_COUNT1 : Reg := ⟨.resetKs, 0x810, 1, 4, 0, 0, .rws, false, false, 0xffffff, 0x0, false, true⟩

/-- RESET_KS.RC_CTS (R533). -/
def R.RC_CTS : Reg := ⟨.resetKs, 0x818, 8, 8, 0, 0, .rws, true, false, 0xffffffffffffffff, 0x0, false, true⟩

/-- RESET_KS.LCK_INFO (R533). -/
def R.LCK_INFO : Reg := ⟨.resetKs, 0x858, 1, 4, 0, 0, .rws, false, false, 0xfffffff, 0x0, false, true⟩

/-- RESET_KS.RK_DBG_MASK (R533). -/
def R.RK_DBG_MASK : Reg := ⟨.resetKs, 0x860, 1, 4, 0, 0, .rw, false, false, 0x1ffe, 0x1c00, false, true⟩

/-- RESET_KS.RK_SWR_KEY (R533). -/
def R.RK_SWR_KEY : Reg := ⟨.resetKs, 0x864, 1, 4, 0, 0, .rwl, false, false, 0xffff, 0x0, false, true⟩

/-- RESET_KS.WDT_KICK (R533). -/
def R.WDT_KICK : Reg := ⟨.resetKs, 0x868, 1, 4, 0, 0, .wo, false, false, 0xffffffff, 0x0, false, true⟩

/-- RESET_KS.RK_LOCKS (R533). -/
def R.RK_LOCKS : Reg := ⟨.resetKs, 0x86c, 1, 4, 0, 0, .ro, false, false, 0x1f1f, 0x0, false, true⟩

/-- RESET_KS.RK_LOADER (R533). -/
def R.RK_LOADER : Reg := ⟨.resetKs, 0x870, 1, 4, 0, 0, .ro, false, false, 0xffff00ff, 0x0, false, true⟩

/-- RESET_KS.RK_WALK_CTS (R533). -/
def R.RK_WALK_CTS : Reg := ⟨.resetKs, 0x878, 1, 8, 0, 0, .ro, true, false, 0xffffffffffffffff, 0x0, false, true⟩

/-- RESET_KS.DM_STATE (R534). -/
def R.DM_STATE : Reg := ⟨.resetKs, 0x100, 1, 4, 0, 12, .ro, false, false, 0xff3f, 0x1, false, true⟩

/-- RESET_KS.DM_GAP (R534). -/
def R.DM_GAP : Reg := ⟨.resetKs, 0x104, 1, 4, 0, 12, .ro, false, false, 0xffff, 0x0, false, true⟩

/-- RESET_KS.DM_HOLD_CTS (R534). -/
def R.DM_HOLD_CTS : Reg := ⟨.resetKs, 0x108, 1, 8, 0, 12, .ro, true, false, 0xffffffffffffffff, 0x0, false, true⟩

/-- RESET_KS.DM_RELEASE_CTS (R534). -/
def R.DM_RELEASE_CTS : Reg := ⟨.resetKs, 0x110, 1, 8, 0, 12, .ro, true, false, 0xffffffffffffffff, 0x0, false, true⟩

/-- RESET_KS.DM_RELEASES (R534). -/
def R.DM_RELEASES : Reg := ⟨.resetKs, 0x118, 1, 4, 0, 12, .ro, false, false, 0xffffffff, 0x0, false, true⟩

/-- OPTION.OPT_STATUS (R536). -/
def R.OPT_STATUS : Reg := ⟨.option, 0x800, 1, 4, 0, 0, .ro, false, false, 0xff, 0x0, false, false⟩

/-- OPTION.OPT_CRC (R536). -/
def R.OPT_CRC : Reg := ⟨.option, 0x804, 1, 4, 0, 0, .ro, false, false, 0xffffffff, 0x0, false, false⟩

/-- OPTION.OPT_OTHER_CRC (R536). -/
def R.OPT_OTHER_CRC : Reg := ⟨.option, 0x808, 1, 4, 0, 0, .ro, false, false, 0xffffffff, 0x0, false, false⟩

/-- OPTION.PM_STAGE (R536). -/
def R.PM_STAGE : Reg := ⟨.option, 0x810, 1, 4, 0, 0, .rw, false, false, 0x73f, 0x0, false, false⟩

/-- OPTION.OPT_BYTES (R536). -/
def R.OPT_BYTES : Reg := ⟨.option, 0x900, 64, 4, 0, 0, .ro, false, false, 0xffffffff, 0x0, false, false⟩

/-- OPTION.PM_FUSES (R536). -/
def R.PM_FUSES : Reg := ⟨.option, 0xa00, 8, 4, 0, 0, .ro, false, false, 0xffffffff, 0x0, true, false⟩

/-- XSPI_BOOT.XB_CFG (R537). -/
def R.XB_CFG : Reg := ⟨.xspiBoot, 0x800, 1, 4, 0, 0, .rwl, false, false, 0x1f0d, 0x1800, false, false⟩

/-- XSPI_BOOT.XB_ADDR (R537). -/
def R.XB_ADDR : Reg := ⟨.xspiBoot, 0x804, 1, 4, 0, 0, .rw, false, false, 0xfffffff, 0x0, false, false⟩

/-- XSPI_BOOT.XB_LEN (R537). -/
def R.XB_LEN : Reg := ⟨.xspiBoot, 0x808, 1, 4, 0, 0, .rw, false, false, 0x7ff, 0x0, false, false⟩

/-- XSPI_BOOT.XB_STATUS (R537). -/
def R.XB_STATUS : Reg := ⟨.xspiBoot, 0x80c, 1, 4, 0, 0, .ro, false, false, 0x7, 0x0, false, false⟩

/-- XSPI_BOOT.XB_ERRORS (R537). -/
def R.XB_ERRORS : Reg := ⟨.xspiBoot, 0x810, 1, 4, 0, 0, .ro, false, false, 0xffffffff, 0x0, false, false⟩

/-- XSPI_BOOT.XB_BUF (R537). -/
def R.XB_BUF : Reg := ⟨.xspiBoot, 0xa00, 256, 4, 0, 0, .rw, false, false, 0xffffffff, 0x0, false, false⟩

/-- MECHANIC.MC_LEASE (R565). -/
def R.MC_LEASE : Reg := ⟨.mechanic, 0x800, 1, 4, 0, 0, .ro, false, false, 0xff1f, 0x0, false, false⟩

/-- MECHANIC.MC_EPOCH (R565). -/
def R.MC_EPOCH : Reg := ⟨.mechanic, 0x804, 1, 4, 0, 0, .ro, false, false, 0xffffffff, 0x0, false, false⟩

/-- MECHANIC.MC_EXPIRY (R565). -/
def R.MC_EXPIRY : Reg := ⟨.mechanic, 0x808, 1, 8, 0, 0, .ro, true, false, 0xffffffffffffffff, 0x0, false, false⟩

/-- MECHANIC.MC_RENEW (R565). -/
def R.MC_RENEW : Reg := ⟨.mechanic, 0x810, 1, 4, 0, 0, .wo, false, false, 0xffffffff, 0x0, false, false⟩

/-- MECHANIC.MC_CAND (R565). -/
def R.MC_CAND : Reg := ⟨.mechanic, 0x814, 1, 4, 0, 0, .wo, false, false, 0xffffffff, 0x0, false, false⟩

/-- MECHANIC.MC_CANDS (R565). -/
def R.MC_CANDS : Reg := ⟨.mechanic, 0x818, 1, 4, 0, 0, .ro, false, false, 0xff, 0x0, false, false⟩

/-- MECHANIC.MC_RENEW_DENIED (R565). -/
def R.MC_RENEW_DENIED : Reg := ⟨.mechanic, 0x81c, 1, 4, 0, 0, .ro, false, false, 0xffffffff, 0x0, false, false⟩

/-- MECHANIC.MC_BOOT (R565). -/
def R.MC_BOOT : Reg := ⟨.mechanic, 0x820, 1, 4, 0, 0, .ro, false, false, 0xffff00ff, 0x0, false, false⟩

/-- MECHANIC.MC_ROLLBACK (R565). -/
def R.MC_ROLLBACK : Reg := ⟨.mechanic, 0x828, 1, 4, 0, 0, .ro, false, false, 0xff, 0x0, true, false⟩

/-- MECHANIC.MC_AUTH (R565). -/
def R.MC_AUTH : Reg := ⟨.mechanic, 0x82c, 1, 4, 0, 0, .ro, false, false, 0x3, 0x0, true, false⟩

/-- MECHANIC.MC_UPD_STATE (R565). -/
def R.MC_UPD_STATE : Reg := ⟨.mechanic, 0x830, 1, 4, 0, 0, .ro, false, false, 0xf77, 0x0, false, false⟩

/-- MECHANIC.MC_LOG_HEAD (R565). -/
def R.MC_LOG_HEAD : Reg := ⟨.mechanic, 0x834, 1, 4, 0, 0, .ro, false, false, 0xfffffff, 0x0, false, false⟩

/-- MECHANIC.MC_LOG_SEQ (R565). -/
def R.MC_LOG_SEQ : Reg := ⟨.mechanic, 0x838, 1, 4, 0, 0, .ro, false, false, 0xffffffff, 0x0, false, false⟩

/-- MECHANIC.MC_LOG_LOST (R565). -/
def R.MC_LOG_LOST : Reg := ⟨.mechanic, 0x83c, 1, 4, 0, 0, .ro, false, false, 0xffffffff, 0x0, false, false⟩

/-- MECHANIC.MC_UPD_SVN (R565). -/
def R.MC_UPD_SVN : Reg := ⟨.mechanic, 0x840, 1, 4, 0, 0, .ro, false, false, 0xff, 0x0, false, false⟩

/-- MECHANIC.MC_BUF (R565). -/
def R.MC_BUF : Reg := ⟨.mechanic, 0xa00, 12, 4, 0, 0, .rw, false, false, 0xffffffff, 0x0, false, false⟩

/-- SENSOR.SN_VALUE (R567). -/
def R.SN_VALUE : Reg := ⟨.sensor, 0x100, 1, 4, 0, 63, .ro, false, false, 0xffffffff, 0x0, false, false⟩

/-- SENSOR.SN_STATE (R567). -/
def R.SN_STATE : Reg := ⟨.sensor, 0x104, 1, 4, 0, 63, .ro, false, false, 0xf, 0x0, false, false⟩

/-- SENSOR.SN_CTS (R567). -/
def R.SN_CTS : Reg := ⟨.sensor, 0x108, 1, 8, 0, 63, .ro, true, false, 0xffffffffffffffff, 0x0, false, false⟩

/-- SENSOR.SN_MIN (R567). -/
def R.SN_MIN : Reg := ⟨.sensor, 0x110, 1, 4, 0, 63, .rc, false, false, 0xffffffff, 0x7fffffff, false, false⟩

/-- SENSOR.SN_MAX (R567). -/
def R.SN_MAX : Reg := ⟨.sensor, 0x114, 1, 4, 0, 63, .rc, false, false, 0xffffffff, 0x80000000, false, false⟩

/-- SENSOR.SN_WARN_LO (R567). -/
def R.SN_WARN_LO : Reg := ⟨.sensor, 0x118, 1, 4, 0, 63, .rw, false, false, 0xffffffff, 0x80000000, false, false⟩

/-- SENSOR.SN_WARN_HI (R567). -/
def R.SN_WARN_HI : Reg := ⟨.sensor, 0x11c, 1, 4, 0, 63, .rw, false, false, 0xffffffff, 0x7fffffff, false, false⟩

/-- SENSOR.SN_ALARM_LO (R567). -/
def R.SN_ALARM_LO : Reg := ⟨.sensor, 0x120, 1, 4, 0, 63, .rw, false, false, 0xffffffff, 0x80000000, false, false⟩

/-- SENSOR.SN_ALARM_HI (R567). -/
def R.SN_ALARM_HI : Reg := ⟨.sensor, 0x124, 1, 4, 0, 63, .rw, false, false, 0xffffffff, 0x7fffffff, false, false⟩

/-- SENSOR.SN_HYST (R567). -/
def R.SN_HYST : Reg := ⟨.sensor, 0x128, 1, 4, 0, 63, .rw, false, false, 0xffffffff, 0x0, false, false⟩

/-- SENSOR.SN_PERIOD (R567). -/
def R.SN_PERIOD : Reg := ⟨.sensor, 0x800, 1, 4, 0, 0, .rw, false, false, 0x3ff, 0xa, false, false⟩

/-- SENSOR.SN_EVENT_IDX (R567). -/
def R.SN_EVENT_IDX : Reg := ⟨.sensor, 0x804, 1, 4, 0, 0, .ro, false, false, 0x3f, 0x0, false, false⟩

/-- SENSOR.SN_MIRROR_SEL (R567). -/
def R.SN_MIRROR_SEL : Reg := ⟨.sensor, 0x808, 1, 4, 0, 0, .rw, false, false, 0x1f, 0x0, false, false⟩

/-- SENSOR.SN_MIRROR (R567). -/
def R.SN_MIRROR : Reg := ⟨.sensor, 0x900, 320, 4, 0, 0, .ro, false, false, 0xffffffff, 0x0, false, false⟩

/-- PMBUS.RL_CFG (R568). -/
def R.RL_CFG : Reg := ⟨.pmbus, 0x100, 1, 4, 0, 15, .rwl, false, false, 0x1fff7f, 0xff00, false, false⟩

/-- PMBUS.RL_VMIN (R568). -/
def R.RL_VMIN : Reg := ⟨.pmbus, 0x104, 1, 4, 0, 15, .rw, false, false, 0x3fff, 0x1c20, false, false⟩

/-- PMBUS.RL_VSET (R568). -/
def R.RL_VSET : Reg := ⟨.pmbus, 0x108, 1, 4, 0, 15, .ro, false, false, 0x3fff, 0x0, false, false⟩

/-- PMBUS.RL_VOUT (R568). -/
def R.RL_VOUT : Reg := ⟨.pmbus, 0x10c, 1, 4, 0, 15, .ro, false, false, 0xffffffff, 0x0, false, false⟩

/-- PMBUS.RL_IOUT (R568). -/
def R.RL_IOUT : Reg := ⟨.pmbus, 0x110, 1, 4, 0, 15, .ro, false, false, 0xffffffff, 0x0, false, false⟩

/-- PMBUS.RL_TEMP (R568). -/
def R.RL_TEMP : Reg := ⟨.pmbus, 0x114, 1, 4, 0, 15, .ro, false, false, 0xffffffff, 0x0, false, false⟩

/-- PMBUS.RL_STATUS (R568). -/
def R.RL_STATUS : Reg := ⟨.pmbus, 0x118, 1, 4, 0, 15, .ro, false, false, 0x3ffff, 0x0, false, false⟩

/-- PMBUS.RL_CTS (R568). -/
def R.RL_CTS : Reg := ⟨.pmbus, 0x120, 1, 8, 0, 15, .ro, true, false, 0xffffffffffffffff, 0x0, false, false⟩

/-- PMBUS.PMB_CFG (R568). -/
def R.PMB_CFG : Reg := ⟨.pmbus, 0x800, 1, 4, 0, 0, .rwl, false, false, 0x7, 0x0, false, false⟩

/-- PMBUS.AVS_CFG (R568). -/
def R.AVS_CFG : Reg := ⟨.pmbus, 0x804, 1, 4, 0, 0, .rw, false, false, 0xffffff01, 0x640001, false, false⟩

/-- PMBUS.AVS_STEP (R568). -/
def R.AVS_STEP : Reg := ⟨.pmbus, 0x808, 1, 4, 0, 0, .rw, false, false, 0xffffffff, 0x190064, false, false⟩

/-- PMBUS.AVS_BAND (R568). -/
def R.AVS_BAND : Reg := ⟨.pmbus, 0x80c, 1, 4, 0, 0, .rw, false, false, 0xffff, 0x12c, false, false⟩

/-- PMBUS.PMB_ERRORS (R568). -/
def R.PMB_ERRORS : Reg := ⟨.pmbus, 0x810, 1, 4, 0, 0, .ro, false, false, 0xffffffff, 0x0, false, false⟩

/-- MGMT_PORT.MG_CFG (R569). -/
def R.MG_CFG : Reg := ⟨.mgmtPort, 0x800, 1, 4, 0, 0, .rwl, false, false, 0x7, 0x0, false, false⟩

/-- MGMT_PORT.MG_STATE (R569). -/
def R.MG_STATE : Reg := ⟨.mgmtPort, 0x804, 1, 4, 0, 0, .ro, false, false, 0x7, 0x4, false, false⟩

/-- MGMT_PORT.MG_MAC (R569). -/
def R.MG_MAC : Reg := ⟨.mgmtPort, 0x808, 1, 8, 0, 0, .ro, true, false, 0xffffffffffff, 0x0, true, false⟩

/-- MGMT_PORT.MG_RX_FRAMES (R569). -/
def R.MG_RX_FRAMES : Reg := ⟨.mgmtPort, 0x810, 1, 4, 0, 0, .ro, false, false, 0xffffffff, 0x0, false, false⟩

/-- MGMT_PORT.MG_TX_FRAMES (R569). -/
def R.MG_TX_FRAMES : Reg := ⟨.mgmtPort, 0x814, 1, 4, 0, 0, .ro, false, false, 0xffffffff, 0x0, false, false⟩

/-- MGMT_PORT.MG_RX_DROP (R569). -/
def R.MG_RX_DROP : Reg := ⟨.mgmtPort, 0x818, 1, 4, 0, 0, .ro, false, false, 0xffffffff, 0x0, false, false⟩

/-- MGMT_PORT.MG_AUTH_FAIL (R569). -/
def R.MG_AUTH_FAIL : Reg := ⟨.mgmtPort, 0x81c, 1, 4, 0, 0, .ro, false, false, 0xffffffff, 0x0, false, false⟩

/-- MGMT_PORT.MG_REPLAY (R569). -/
def R.MG_REPLAY : Reg := ⟨.mgmtPort, 0x820, 1, 4, 0, 0, .ro, false, false, 0xffffffff, 0x0, false, false⟩

/-- SADDLEBAG.SB_HEAD (R583). -/
def R.SB_HEAD : Reg := ⟨.saddlebag, 0x800, 1, 8, 0, 0, .ro, true, false, 0xffffffffffffffff, 0x0, false, true⟩

/-- SADDLEBAG.SB_TAIL (R583). -/
def R.SB_TAIL : Reg := ⟨.saddlebag, 0x808, 1, 8, 0, 0, .ro, true, false, 0xffffffffffffffff, 0x0, false, true⟩

/-- SADDLEBAG.SB_NEXT (R583). -/
def R.SB_NEXT : Reg := ⟨.saddlebag, 0x810, 1, 4, 0, 0, .ro, false, true, 0x1fffffff, 0x0, false, true⟩

/-- SADDLEBAG.SB_NEXT_POS (R583). -/
def R.SB_NEXT_POS : Reg := ⟨.saddlebag, 0x818, 1, 8, 0, 0, .ro, true, true, 0xffffffffffffffff, 0x0, false, true⟩

/-- SADDLEBAG.SB_SEEK (R583). -/
def R.SB_SEEK : Reg := ⟨.saddlebag, 0x820, 1, 4, 0, 0, .wo, false, true, 0x1, 0x0, false, true⟩

/-- SADDLEBAG.SB_STATE (R583). -/
def R.SB_STATE : Reg := ⟨.saddlebag, 0x824, 1, 4, 0, 0, .ro, false, false, 0xfff0003, 0x0, false, true⟩

/-- SADDLEBAG.SB_FRZ_CFG (R583). -/
def R.SB_FRZ_CFG : Reg := ⟨.saddlebag, 0x828, 1, 4, 0, 0, .rw, false, false, 0xfff000f, 0x0, false, true⟩

/-- SADDLEBAG.SB_MATCH (R583). -/
def R.SB_MATCH : Reg := ⟨.saddlebag, 0x82c, 1, 4, 0, 0, .rw, false, false, 0xffffffff, 0x0, false, true⟩

/-- SADDLEBAG.SB_FRZ_CTS (R583). -/
def R.SB_FRZ_CTS : Reg := ⟨.saddlebag, 0x830, 1, 8, 0, 0, .ro, true, false, 0xffffffffffffffff, 0x0, false, true⟩

/-- SADDLEBAG.SB_LOST_D (R583). -/
def R.SB_LOST_D : Reg := ⟨.saddlebag, 0x838, 1, 4, 0, 0, .ro, false, false, 0xffffffff, 0x0, false, true⟩

/-- SADDLEBAG.SB_LOST_C (R583). -/
def R.SB_LOST_C : Reg := ⟨.saddlebag, 0x83c, 1, 4, 0, 0, .ro, false, false, 0xffffffff, 0x0, false, true⟩

/-- SADDLEBAG.SB_LOST_M (R583). -/
def R.SB_LOST_M : Reg := ⟨.saddlebag, 0x840, 1, 4, 0, 0, .ro, false, false, 0xffffffff, 0x0, false, true⟩

/-- SADDLEBAG.SB_FROZEN_LOST (R583). -/
def R.SB_FROZEN_LOST : Reg := ⟨.saddlebag, 0x844, 1, 4, 0, 0, .ro, false, false, 0xffffffff, 0x0, false, true⟩

/-- SADDLEBAG.SB_RECORDS (R583). -/
def R.SB_RECORDS : Reg := ⟨.saddlebag, 0x848, 1, 4, 0, 0, .ro, false, false, 0xffffffff, 0x0, false, true⟩

/-- SADDLEBAG.SB_WBUF (R583). -/
def R.SB_WBUF : Reg := ⟨.saddlebag, 0xc00, 62, 4, 0, 0, .rw, false, true, 0xffffffff, 0x0, false, true⟩

/-- SADDLEBAG.SS_CFG (R584). -/
def R.SS_CFG : Reg := ⟨.saddlebag, 0x100, 1, 4, 0, 7, .rw, false, false, 0x10f, 0x0, false, true⟩

/-- SADDLEBAG.SS_PERIOD (R584). -/
def R.SS_PERIOD : Reg := ⟨.saddlebag, 0x104, 1, 4, 0, 7, .rw, false, false, 0xfffff, 0x3e8, false, true⟩

/-- SADDLEBAG.SS_MATCH (R584). -/
def R.SS_MATCH : Reg := ⟨.saddlebag, 0x108, 1, 4, 0, 7, .rw, false, false, 0xffffffff, 0x0, false, true⟩

/-- SADDLEBAG.SS_STATE (R584). -/
def R.SS_STATE : Reg := ⟨.saddlebag, 0x10c, 1, 4, 0, 7, .ro, false, false, 0x7, 0x0, false, true⟩

/-- SADDLEBAG.SS_TAKEN (R584). -/
def R.SS_TAKEN : Reg := ⟨.saddlebag, 0x110, 1, 4, 0, 7, .ro, false, false, 0xffffffff, 0x0, false, true⟩

/-- SADDLEBAG.SS_SKIPPED (R584). -/
def R.SS_SKIPPED : Reg := ⟨.saddlebag, 0x114, 1, 4, 0, 7, .ro, false, false, 0xffffffff, 0x0, false, true⟩

/-- SADDLEBAG.SS_ENTRY (R584). -/
def R.SS_ENTRY : Reg := ⟨.saddlebag, 0x180, 32, 4, 0, 7, .rw, false, false, 0xffffffff, 0x0, false, true⟩

/-- CYCLOMETER.CY_CFG (R592). -/
def R.CY_CFG : Reg := ⟨.cyclometer, 0x800, 1, 4, 0, 0, .rw, false, false, 0x1ff, 0x0, false, false⟩

/-- CYCLOMETER.CY_PERIOD (R592). -/
def R.CY_PERIOD : Reg := ⟨.cyclometer, 0x804, 1, 4, 0, 0, .rw, false, false, 0x3fffffff, 0xf4240, false, false⟩

/-- CYCLOMETER.CY_START (R592). -/
def R.CY_START : Reg := ⟨.cyclometer, 0x808, 1, 8, 0, 0, .rw, true, false, 0xffffffffffffffff, 0x0, false, false⟩

/-- CYCLOMETER.CY_RING_BASE (R592). -/
def R.CY_RING_BASE : Reg := ⟨.cyclometer, 0x810, 1, 8, 0, 0, .rw, true, false, 0xffffffffffffffff, 0x0, false, false⟩

/-- CYCLOMETER.CY_RING_SIZE (R592). -/
def R.CY_RING_SIZE : Reg := ⟨.cyclometer, 0x818, 1, 4, 0, 0, .rw, false, false, 0x1f, 0x14, false, false⟩

/-- CYCLOMETER.CY_STATE (R592). -/
def R.CY_STATE : Reg := ⟨.cyclometer, 0x81c, 1, 4, 0, 0, .ro, false, false, 0x3, 0x0, false, false⟩

/-- CYCLOMETER.CY_SWEEPS (R592). -/
def R.CY_SWEEPS : Reg := ⟨.cyclometer, 0x820, 1, 4, 0, 0, .ro, false, false, 0xffffffff, 0x0, false, false⟩

/-- CYCLOMETER.CY_SKIPPED (R592). -/
def R.CY_SKIPPED : Reg := ⟨.cyclometer, 0x824, 1, 4, 0, 0, .ro, false, false, 0xffffffff, 0x0, false, false⟩

/-- CYCLOMETER.CY_LAST (R592). -/
def R.CY_LAST : Reg := ⟨.cyclometer, 0x828, 1, 8, 0, 0, .ro, true, false, 0xffffffffffffffff, 0x0, false, false⟩

/-- CYCLOMETER.CY_MAP_DENY (R592). -/
def R.CY_MAP_DENY : Reg := ⟨.cyclometer, 0x830, 1, 4, 0, 0, .ro, false, false, 0xffffffff, 0x0, false, false⟩

/-- CYCLOMETER.CY_ENTRY (R593). -/
def R.CY_ENTRY : Reg := ⟨.cyclometer, 0x100, 1, 4, 0, 255, .rw, false, false, 0x80003fff, 0x0, false, false⟩

/-- CYCLOMETER.CY_VMAP (R593). -/
def R.CY_VMAP : Reg := ⟨.cyclometer, 0x100, 8, 4, 256, 511, .rw, false, false, 0x80007fff, 0x0, false, false⟩

/-- COUNTER_VIEW.CV_VALUE (R595). -/
def R.CV_VALUE : Reg := ⟨.counterView, 0x800, 8, 8, 0, 0, .ro, true, false, 0xffffffffffffffff, 0x0, false, false⟩

/-- COUNTER_VIEW.CV_SLOTS (R595). -/
def R.CV_SLOTS : Reg := ⟨.counterView, 0x840, 1, 4, 0, 0, .ro, false, false, 0xff0f, 0x0, false, false⟩

/-- DRAM.DR_STATE (R613). -/
def R.DR_STATE : Reg := ⟨.dram, 0x800, 1, 4, 0, 0, .ro, false, false, 0xf31f, 0x0, false, false⟩

/-- DRAM.DR_SIZE (R613). -/
def R.DR_SIZE : Reg := ⟨.dram, 0x804, 1, 4, 0, 0, .ro, false, false, 0x7f, 0x0, false, false⟩

/-- DRAM.DR_SCRUB (R613). -/
def R.DR_SCRUB : Reg := ⟨.dram, 0x808, 1, 4, 0, 0, .rw, false, false, 0xff, 0x18, false, false⟩

/-- DRAM.DR_CE (R613). -/
def R.DR_CE : Reg := ⟨.dram, 0x80c, 1, 4, 0, 0, .ro, false, false, 0xffffffff, 0x0, false, true⟩

/-- DRAM.DR_UE (R613). -/
def R.DR_UE : Reg := ⟨.dram, 0x810, 1, 4, 0, 0, .ro, false, false, 0xffffffff, 0x0, false, true⟩

/-- DRAM.DR_ERR_ADDR (R613). -/
def R.DR_ERR_ADDR : Reg := ⟨.dram, 0x818, 1, 8, 0, 0, .ro, true, false, 0xffffffffffffffff, 0x0, false, false⟩

/-- DRAM.DR_ERR_CTS (R613). -/
def R.DR_ERR_CTS : Reg := ⟨.dram, 0x820, 1, 8, 0, 0, .ro, true, false, 0xffffffffffffffff, 0x0, false, false⟩

/-- DRAM.DR_MR4 (R613). -/
def R.DR_MR4 : Reg := ⟨.dram, 0x828, 1, 4, 0, 0, .ro, false, false, 0xf07, 0x0, false, false⟩

/-- DRAM.DR_TRAIN_US (R613). -/
def R.DR_TRAIN_US : Reg := ⟨.dram, 0x82c, 1, 4, 0, 0, .ro, false, false, 0xffff, 0x0, false, false⟩

/-- SV_INGEST.FRAMES_A (R221). -/
def R.FRAMES_A : Reg := ⟨.svIngest, 0x200, 1, 4, 0, 1023, .ro, false, false, 0xffffffff, 0x0, false, false⟩

/-- SV_INGEST.FRAMES_B (R221). -/
def R.FRAMES_B : Reg := ⟨.svIngest, 0x204, 1, 4, 0, 1023, .ro, false, false, 0xffffffff, 0x0, false, false⟩

/-- SV_INGEST.ASDU_WRITTEN (R221). -/
def R.ASDU_WRITTEN : Reg := ⟨.svIngest, 0x208, 1, 4, 0, 1023, .ro, false, false, 0xffffffff, 0x0, false, false⟩

/-- SV_INGEST.DUP_DISCARD (R221). -/
def R.SV_INGEST_DUP_DISCARD : Reg := ⟨.svIngest, 0x20c, 1, 4, 0, 1023, .ro, false, false, 0xffffffff, 0x0, false, false⟩

/-- SV_INGEST.GAP_SAMPLES (R221). -/
def R.GAP_SAMPLES : Reg := ⟨.svIngest, 0x210, 1, 4, 0, 1023, .ro, false, false, 0xffffffff, 0x0, false, false⟩

/-- SV_INGEST.LATE_DROP (R221). -/
def R.LATE_DROP : Reg := ⟨.svIngest, 0x214, 1, 4, 0, 1023, .ro, false, false, 0xffffffff, 0x0, false, false⟩

/-- SV_INGEST.ORDER_DROP (R221). -/
def R.ORDER_DROP : Reg := ⟨.svIngest, 0x218, 1, 4, 0, 1023, .ro, false, false, 0xffffffff, 0x0, false, false⟩

/-- SV_INGEST.AUTH_FAIL (R221). -/
def R.AUTH_FAIL : Reg := ⟨.svIngest, 0x21c, 1, 4, 0, 1023, .ro, false, false, 0xffffffff, 0x0, false, false⟩

/-- SV_INGEST.AUTH_DROP (R221). -/
def R.AUTH_DROP : Reg := ⟨.svIngest, 0x220, 1, 4, 0, 1023, .ro, false, false, 0xffffffff, 0x0, false, false⟩

/-- SV_INGEST.AUTH_SEALED (R221). -/
def R.AUTH_SEALED : Reg := ⟨.svIngest, 0x224, 1, 4, 0, 1023, .ro, false, false, 0xffffffff, 0x0, false, false⟩

/-- SV_INGEST.DUP_AFTER_FAIL (R221). -/
def R.DUP_AFTER_FAIL : Reg := ⟨.svIngest, 0x228, 1, 4, 0, 1023, .ro, false, false, 0xffffffff, 0x0, false, false⟩

/-- SV_INGEST.CONFREV_DROP (R221). -/
def R.CONFREV_DROP : Reg := ⟨.svIngest, 0x22c, 1, 4, 0, 1023, .ro, false, false, 0xffffffff, 0x0, false, false⟩

/-- SV_INGEST.DECODE_DROP (R221). -/
def R.DECODE_DROP : Reg := ⟨.svIngest, 0x230, 1, 4, 0, 1023, .ro, false, false, 0xffffffff, 0x0, false, false⟩

/-- SV_INGEST.SIM_DROP (R221). -/
def R.SIM_DROP : Reg := ⟨.svIngest, 0x234, 1, 4, 0, 1023, .ro, false, false, 0xffffffff, 0x0, false, false⟩

/-- SV_INGEST.SVID_DROP (R221). -/
def R.SVID_DROP : Reg := ⟨.svIngest, 0x238, 1, 4, 0, 1023, .ro, false, false, 0xffffffff, 0x0, false, false⟩

/-- SV_INGEST.STALE_COUNT (R221). -/
def R.STALE_COUNT : Reg := ⟨.svIngest, 0x23c, 1, 4, 0, 1023, .ro, false, false, 0xffffffff, 0x0, false, false⟩

/-- SV_INGEST.DEST_FAULT (R221). -/
def R.DEST_FAULT : Reg := ⟨.svIngest, 0x240, 1, 4, 0, 1023, .ro, false, false, 0xffffffff, 0x0, false, false⟩

/-- KEY_VIEW.KV_HUB (R508). -/
def R.KV_HUB : Reg := ⟨.keyView, 0x850, 1, 4, 0, 0, .rw, false, true, 0x1, 0x0, false, false⟩

/-- VI_INDEX.VIX_STATE (R343). -/
def R.VIX_STATE : Reg := ⟨.viIndex, 0x800, 1, 4, 0, 0, .ro, false, false, 0xffffffff, 0x0, false, false⟩

/-- VI_INDEX.VIX_MIG_COUNT (R343). -/
def R.VIX_MIG_COUNT : Reg := ⟨.viIndex, 0x804, 1, 4, 0, 0, .ro, false, false, 0xffffffff, 0x0, false, false⟩

/-- INDEX.INDEX_ENTRY (R51). -/
def R.INDEX_ENTRY : Reg := ⟨.index, 0x800, 256, 4, 0, 0, .ro, false, false, 0xffffffff, 0x0, false, false⟩

/-- SERDES.DDM_PERIOD (R193). -/
def R.DDM_PERIOD : Reg := ⟨.serdes, 0x800, 1, 4, 0, 0, .rw, false, false, 0xffff, 0x3e8, false, false⟩

/-- The registers of a block's own map, header apart (R60). -/
def blockRegs : Block → List Reg
  | .index =>
    [R.INDEX_ENTRY]
  | .resetKs =>
    [R.DL_LEVEL, R.DL_COND, R.DL_HOLD, R.DL_ENABLE, R.SW_ALIVE, R.SW_TIMEOUT, R.DL_LANE_LOSS, R.DL_TIME_ALARM, R.DL_FORCE, R.DL_KEY, R.DL_CHANGE_CTS, R.RK_WALK, R.RK_ACTIVE, R.RESET_CAUSE, R.RC_COUNT0, R.RC_COUNT1, R.RC_CTS, R.LCK_INFO, R.RK_DBG_MASK, R.RK_SWR_KEY] ++
    [R.WDT_KICK, R.RK_LOCKS, R.RK_LOADER, R.RK_WALK_CTS, R.DM_STATE, R.DM_GAP, R.DM_HOLD_CTS, R.DM_RELEASE_CTS, R.DM_RELEASES]
  | .option =>
    [R.OPT_STATUS, R.OPT_CRC, R.OPT_OTHER_CRC, R.PM_STAGE, R.OPT_BYTES, R.PM_FUSES]
  | .cadence =>
    [R.CAD_MON_INDEX, R.CAD_MON_REGION, R.CAD_INDEX, R.CAD_FLOOR, R.CAD_MARGIN, R.CAD_LOW, R.CAD_BELOW_TIME]
  | .sensor =>
    [R.SN_VALUE, R.SN_STATE, R.SN_CTS, R.SN_MIN, R.SN_MAX, R.SN_WARN_LO, R.SN_WARN_HI, R.SN_ALARM_LO, R.SN_ALARM_HI, R.SN_HYST, R.SN_PERIOD, R.SN_EVENT_IDX, R.SN_MIRROR_SEL, R.SN_MIRROR]
  | .mechanic =>
    [R.MC_LEASE, R.MC_EPOCH, R.MC_EXPIRY, R.MC_RENEW, R.MC_CAND, R.MC_CANDS, R.MC_RENEW_DENIED, R.MC_BOOT, R.MC_ROLLBACK, R.MC_AUTH, R.MC_UPD_STATE, R.MC_LOG_HEAD, R.MC_LOG_SEQ, R.MC_LOG_LOST, R.MC_UPD_SVN, R.MC_BUF]
  | .pmbus =>
    [R.RL_CFG, R.RL_VMIN, R.RL_VSET, R.RL_VOUT, R.RL_IOUT, R.RL_TEMP, R.RL_STATUS, R.RL_CTS, R.PMB_CFG, R.AVS_CFG, R.AVS_STEP, R.AVS_BAND, R.PMB_ERRORS]
  | .mgmtPort =>
    [R.MG_CFG, R.MG_STATE, R.MG_MAC, R.MG_RX_FRAMES, R.MG_TX_FRAMES, R.MG_RX_DROP, R.MG_AUTH_FAIL, R.MG_REPLAY]
  | .xspiBoot =>
    [R.XB_CFG, R.XB_ADDR, R.XB_LEN, R.XB_STATUS, R.XB_ERRORS, R.XB_BUF]
  | .xspiRetain =>
    [R.RT_CFG, R.RT_REGION, R.RT_STATUS, R.RT_WRITTEN, R.RT_ERRORS, R.RT_PF_TIME, R.RT_PF_CTS]
  | .saddlebag =>
    [R.SB_HEAD, R.SB_TAIL, R.SB_NEXT, R.SB_NEXT_POS, R.SB_SEEK, R.SB_STATE, R.SB_FRZ_CFG, R.SB_MATCH, R.SB_FRZ_CTS, R.SB_LOST_D, R.SB_LOST_C, R.SB_LOST_M, R.SB_FROZEN_LOST, R.SB_RECORDS, R.SB_WBUF, R.SS_CFG, R.SS_PERIOD, R.SS_MATCH, R.SS_STATE, R.SS_TAKEN] ++
    [R.SS_SKIPPED, R.SS_ENTRY]
  | .cyclometer =>
    [R.CY_CFG, R.CY_PERIOD, R.CY_START, R.CY_RING_BASE, R.CY_RING_SIZE, R.CY_STATE, R.CY_SWEEPS, R.CY_SKIPPED, R.CY_LAST, R.CY_MAP_DENY, R.CY_ENTRY, R.CY_VMAP]
  | .msiRoute =>
    [R.MSI_ADDR_LO, R.MSI_ADDR_HI, R.MSI_DATA, R.MSI_VALID]
  | .debug => []
  | .timeBase =>
    [R.TIME_SEC, R.TIME_NS, R.TIME_FRAC, R.TIME_BASE_CTS_NOW, R.ADDEND, R.FREQ_TRIM, R.SERVO_CORR, R.OFFSET_LAST, R.STEP_LIMIT, R.SLEW_LIMIT, R.SRC_PRIO, R.REF_TIMEOUT, R.LOCK_WINDOW, R.LOCK_COUNT, R.PPS_DELAY, R.UTC_OFFSET, R.HOLD_AVG, R.HOLD_TIME, R.PARTNER_OFFSET, R.SYNC_MISS] ++
    [R.SET_SEC, R.SET_NS, R.STEP_AMOUNT, R.OFFSET_IN, R.OFFSET_IN_CTS, R.SV_KP, R.SV_KI, R.SV_OFFSET, R.SV_INTEG, R.SV_STATE]
  | .timeCounter =>
    [R.TIME_COUNTER_CTS_NOW, R.STAMP, R.STAMP_ORDER, R.DISC_OFFSET, R.DISC_SWITCH]
  | .timeTrigger =>
    [R.TRG_CTRL, R.TRG_RATE, R.TRG_START, R.TRG_PERIOD, R.TRG_WIDTH, R.TRG_NEXT, R.TRG_COUNT, R.TRG_SKIP, R.TRG_OWNER, R.TRG_MSI, R.TRG_LAST]
  | .timeAgent =>
    [R.AGP_CFG, R.AGP_ASYM, R.AGP_STATE, R.AGP_DELAY, R.AG_CTRL, R.AG_STATUS, R.AG_INTERVALS, R.AG_PARENT]
  | .keyVault =>
    [R.VT_STATUS, R.VT_TAMPER, R.VT_TAMPER_CTS, R.VT_KEYSEL, R.VT_TARGET, R.VT_KEY_ID, R.VT_NOT_BEFORE, R.VT_NOT_AFTER, R.VT_IN_LEN, R.VT_OUT_LEN, R.VT_LOADED, R.UNSEAL_FAIL, R.VT_CMDS, R.VT_TAMPER_REFUSE, R.VT_ID_PUB, R.VT_SERIAL, R.VT_MEAS0_2, R.VT_BUF, R.KS_STATE, R.KS_KEY_ID] ++
    [R.KS_NOT_BEFORE, R.KS_NOT_AFTER, R.KS_NEXT, R.KS_PARENT, R.KS_USES]
  | .frameAuth =>
    [R.FA_SV_PASS, R.FA_SV_FAIL, R.FA_GS_FAIL, R.FA_TD_FAIL, R.FA_TAGGED, R.FA_TAG_NOKEY, R.FA_LAST_FAIL, R.FA_LAST_FAIL_CTS, R.FA_GRACE, R.GS_MATCH0, R.PK_CFG, R.GS_MATCH1, R.PK_TAGGED, R.GS_CFG, R.GS_PASS, R.GS_FAIL]
  | .dram =>
    [R.DR_STATE, R.DR_SIZE, R.DR_SCRUB, R.DR_CE, R.DR_UE, R.DR_ERR_ADDR, R.DR_ERR_CTS, R.DR_MR4, R.DR_TRAIN_US]
  | .switch =>
    [R.SW_CFG, R.SW_STATUS, R.BUF_FREE, R.BUF_POOL, R.TBL_DATA0_3, R.TBL_INDEX, R.LEARN_FULL, R.SMP_RING_BASE, R.SMP_RING_SIZE, R.SMP_HEAD, R.SMP_TAIL, R.SMP_DROP, R.SMP_CFG, R.MIR_SRC, R.SMP_N, R.MIR_DST, R.SMP_SEEN, R.SMP_TAKEN, R.SESSION_STATE]
  | .switchPort =>
    [R.PORT_CFG, R.PORT_PCP_MAP, R.PORT_STATE, R.PORT_HOLD_UP, R.DOWN_STAMP, R.UP_STAMP, R.QBV_BASE, R.QBV_CYCLE, R.QBV_LEN, R.QBV_OPER_CYCLE, R.QBV_CHANGE, R.SWITCH_PORT_RX_FRAMES, R.RX_BYTES, R.SWITCH_PORT_TX_FRAMES, R.TX_BYTES, R.RX_MCAST, R.TX_MCAST, R.RX_CRC_ERR, R.RX_SYMBOL_ERR, R.RX_RUNT] ++
    [R.RX_OVERSIZE, R.CTRL_DROP, R.VLAN_DROP, R.UNKNOWN_DROP, R.POLICE_DROP, R.CT_FRAMES, R.CT_STOMP, R.WRED_DROP, R.TAIL_DROP, R.MAX_SDU_DROP, R.DOWN_FLUSH, R.DOWN_DROP, R.MIRROR_DROP, R.PUB_WAIT]
  | .qos =>
    [R.Q_CFG, R.Q_RSV, R.Q_LIMIT, R.Q_MAX_SDU, R.Q_POLICER, R.Q_DEPTH, R.Q_PEAK, R.Q_AVG, R.TXQ_FRAMES, R.TXQ_BYTES]
  | .lane =>
    [R.LANE_CFG, R.SUP_INTERVAL, R.ENTRY_FORGET, R.NODE_FORGET, R.SHADOW_BASE, R.SHADOW_SIZE, R.SHADOW_DEPTH, R.REHOME_AT, R.REHOME_WARM, R.REHOME_LAST, R.NODE_COUNT, R.NODE_FULL, R.SHADOW_OVERRUN, R.NODE_DATA0_7, R.LP_CFG, R.LP_LOS_FILTER, R.LP_STATE, R.RX_TAGGED, R.RX_WRONG_LAN, R.TX_TAGGED] ++
    [R.LANE_DUP_DISCARD, R.OUT_OF_WINDOW, R.PT_AN_LPA, R.PT_AN_CTS, R.PT_LLDP_CTS, R.PT_LLDP_LEN, R.PT_ANN_CTS, R.PT_ANN_GM, R.PT_ANN_QUAL, R.PT_ANN_MISC, R.PT_LLDP]
  | .phyCopper =>
    [R.CU_CFG, R.CU_STATUS, R.TDR_NVP, R.TDR_PAIR0_3, R.TDR_CTS]
  | .serdes =>
    [R.SD_CFG, R.SD_STATUS, R.DDM_TEMP_VCC, R.DDM_BIAS_TXP, R.DDM_RXP, R.DDM_FLAGS, R.DDM_CTS, R.SFP_ID, R.DDM_PERIOD]
  | .tandemLane =>
    [R.TD_ID, R.TD_CFG, R.TD_CYCLE, R.TD_LEASE, R.TD_SKEW, R.TD_LISTEN, R.TD_PERMIT_MS, R.TD_PERMIT, R.TD_SW_BASE, R.TD_SW_LEN, R.TD_RX_BASE, R.TD_BEACON_MAC0, R.TD_BEACON_MAC1, R.TD_STATE, R.TD_EPOCH, R.TD_EXPIRY, R.TD_HOLDER, R.TD_HAND_AT, R.TD_LAST_RX, R.TD_TAKE_CTS] ++
    [R.TD_STOP_KEY, R.TANDEM_LANE_TX_FRAMES, R.TANDEM_LANE_RX_FRAMES, R.RX_MISS, R.RX_BAD, R.TX_OMIT, R.GATE_DROP, R.SPLIT_SEEN, R.BEACON_RX]
  | .spoke =>
    [R.SPOKE_LK_STATE, R.SPOKE_LK_RETRAINS, R.SPOKE_LK_DOWNS, R.SPOKE_LK_RESENT, R.SPOKE_LK_FLITS_TX, R.SPOKE_LK_FLITS_RX, R.SPOKE_LK_DOWN_CTS, R.SPOKE_LK_UP_CTS, R.SPOKE_LK_RTT, R.SPOKE_LK_ASYM, R.SPOKE_LK_EVENT_INST]
  | .axle =>
    [R.AXLE_LK_STATE, R.AXLE_LK_RETRAINS, R.AXLE_LK_DOWNS, R.AXLE_LK_RESENT, R.AXLE_LK_FLITS_TX, R.AXLE_LK_FLITS_RX, R.AXLE_LK_DOWN_CTS, R.AXLE_LK_UP_CTS, R.AXLE_LK_RTT, R.AXLE_LK_ASYM, R.AXLE_LK_EVENT_INST]
  | .svIngest =>
    [R.IN_SLOTS_USED, R.IN_STREAMS_ON, R.IN_UNMATCHED, R.IN_UNMATCHED_KEY, R.IN_EVENT_STREAM, R.IN_AUTH_MODE, R.ST_MATCH0, R.ST_MATCH1, R.ST_CFG, R.ST_RATE, R.ST_CONFREV, R.ST_SLOTS, R.ST_CHMASK, R.ST_KEY, R.ST_TIMING, R.ST_STALE, R.ST_DELAY, R.ST_GMID, R.ST_SVID, R.DEST_CFG] ++
    [R.DEST_ITEM, R.DEST_BASE, R.ST_STATE, R.ST_LAST_CNT, R.ST_LAST_CTS, R.FRAMES_A, R.FRAMES_B, R.ASDU_WRITTEN, R.SV_INGEST_DUP_DISCARD, R.GAP_SAMPLES, R.LATE_DROP, R.ORDER_DROP, R.AUTH_FAIL, R.AUTH_DROP, R.AUTH_SEALED, R.DUP_AFTER_FAIL, R.CONFREV_DROP, R.DECODE_DROP, R.SIM_DROP, R.SVID_DROP] ++
    [R.STALE_COUNT, R.DEST_FAULT]
  | .filter =>
    [R.FIL_SCAN_MAX, R.FIL_PHASE_MAX, R.FIL_EVENT_STREAM, R.FIL_BATCH_MAX, R.PF_CIC, R.PF_FIR, R.PF_SETTLE, R.PF_TRANS, R.PF_STEP_TH, R.PF_PRED, R.PF_GAP, R.PF_STATE, R.PF_GD, R.PF_COEF, R.FS_PROFILE, R.FS_STATE, R.FS_RATE, R.FS_GD_NS, R.FS_TRANS_US, R.FS_STEPS] ++
    [R.FS_RESTARTS, R.FS_SATURATE]
  | .detector =>
    [R.DET_ON, R.DET_EVENT_IDX, R.DET_SRC, R.DET_CFG, R.DET_ENV, R.FAST_PICKUP, R.FAST_DROP, R.SLOW_PICKUP, R.SLOW_DROP, R.DET_DEST_CFG, R.DET_DEST_ITEM, R.DET_DEST_BASE, R.DET_STATE, R.DET_FAST_VAL, R.DET_SLOW_VAL, R.DET_LAST_CTS, R.DET_FAST_CHG, R.DET_SLOW_CHG, R.DET_PICKUPS]
  | .capture =>
    [R.CAP_BASE, R.CAP_SIZE, R.CAP_LATE_WAIT, R.CAP_HIGH, R.CAP_STAGE, R.CAP_STAGE_PEAK, R.CAP_CH_USED, R.CAP_REDUCE_STEPS, R.CAP_GAP_ROWS, R.CAP_LATE_SAMPLE, R.CAP_EVENT_REC, R.REC_CFG, R.REC_RATE, R.REC_PRE, R.REC_POST, R.REC_MAX, R.REC_MEAS, R.REC_AREA, R.REC_ITEM, R.REC_DESC] ++
    [R.REC_STATE, R.REC_SLOTS, R.REC_TRIG_CTS, R.REC_SEQ, R.REC_LOST, R.REC_DEAD_NS, R.REC_RD_ADDR, R.REC_RD_LEN, R.REC_RD_COPIED, R.REC_TRIGGERS, R.GW_MATCH0, R.GW_MATCH1, R.GW_CMP, R.GW_CFG, R.GW_STATE, R.GW_STNUM, R.GW_LAST_CTS, R.GW_FRAMES]
  | .coaster =>
    [R.CO_STATUS, R.CO_ARMED, R.CO_TRIPPED, R.CO_EVENT_ZONE, R.CO_EVAL_MAX, R.ZN_CFG, R.ZN_IN01, R.ZN_IN23, R.ZN_DELAY, R.ZN_HOLD, R.ZN_OUT, R.ZN_BF, R.ZN_BF_SRC, R.ZN_STATE, R.ZN_PICKUP_CTS, R.ZN_TRIP_CTS, R.ZN_TRIPS, R.CF_FRAME, R.CF_CFG, R.CF_OFF] ++
    [R.CF_REP, R.CF_STNUM]
  | .tripIo =>
    [R.TIO_LEVELS, R.TIO_SW_SET, R.TIO_SW_CLR, R.TIO_DEMANDS, R.TIO_DENIED, R.TIO_BIN_CHG, R.TL_CFG, R.TL_SENSE_WIN, R.TL_STATE, R.TL_CHANGE_CTS, R.TL_ASSERTS, R.TB_CFG, R.TB_STATE, R.TB_CHANGE_CTS]
  | .peloton =>
    [R.PEL_TICK, R.PEL_ONDIE, R.PEL_DELAYED, R.PEL_SPILLED, R.PEL_WAITERS, R.PEL_LAST_TICK, R.TAKE, R.TAKE_CTL, R.TAKEN_D0_D3, R.POST_D0_D3, R.POST_SEQ, R.COMP_DATA0, R.COMP_DATA1, R.ADMITTED, R.REFUSED, R.TAKES, R.TAKE_NONE, R.LATE_TAKE, R.STALE_COMPLETE, R.ABORTED] ++
    [R.DELAY_FULL, R.VI_QUOTA, R.VI_OCC, R.VI_ADMITTED, R.VI_SHARE_REFUSE, R.VI_OTHER_REFUSE, R.VI_LATE_TAKE, R.VI_ABORTED, R.VI_QSTATE]
  | .pelotonFlow =>
    [R.FLOW_CFG, R.FLOW_HOLD, R.FLOW_RING_BASE, R.FLOW_STATE, R.FLOW_NEXT, R.FLOW_ADMIT, R.FLOW_ITEMS, R.FLOW_DONE_MAP, R.FL_RELEASED, R.FL_SKIPPED, R.FL_LATE_RELEASE, R.FL_WINDOW_HOLD, R.FL_REC_DISCARD, R.FL_DENIED, R.FLOW_LAST_REL]
  | .pannier =>
    [R.PAN_BASE, R.PAN_CFG, R.PAN_OCC, R.PAN_FIRST, R.PAN_FAR, R.PAN_WALK_LEFT, R.PAN_SPILLS, R.PAN_REFILLS, R.PAN_FULL, R.PAN_PEAK]
  | .viCtrl =>
    [R.VI_STATE, R.VI_CFG, R.VI_HGATP, R.VI_CUT_AT, R.VI_CUT_GRACE, R.VI_CUT_COUNT, R.VI_STATE_BASE, R.VI_QSTAMP, R.VI_QPARTS, R.KILL_CUT, R.VI_KILL_KEY, R.VI_HOMED, R.VI_EVENT_VI]
  | .derailleur =>
    [R.SH_QUOTA, R.SH_SLOTS, R.SH_EG_RATE, R.SH_EG_BURST, R.SH_CAPTURE, R.SH_KEYS, R.SH_TRIG, R.SH_CNT, R.SHF_QUOTA, R.SHF_SLOTS, R.SHF_EG_RATE, R.SHF_EG_BURST, R.SHF_CAPTURE, R.SHF_KEYS, R.SHF_TRIG, R.SHF_CNT, R.USE_SLOTS, R.USE_CAPTURE, R.USE_KEYS, R.DERAILLEUR_EG_TOKENS_A] ++
    [R.DERAILLEUR_EG_TOKENS_B, R.SHARE_REFUSE, R.EG_OVERSIZE, R.EG_RESET_DROP]
  | .dirtyLog =>
    [R.LOG_BASE0, R.LOG_BASE1, R.LOG_GPA_BASE, R.LOG_PAGES, R.LOG_STATE, R.LOG_SWAP_CTS, R.LOG_SWAPS, R.LOG_OUTSIDE]
  | .devXlate =>
    [R.XL_WALKS, R.XL_FAULTS, R.XL_FAULT_VI, R.XL_FAULT_GPA, R.XL_INVAL_GPA, R.XL_INVAL_PAGES, R.XL_EG_FAULT, R.EG_NO_SEQ, R.RX_UNMATCHED, R.RX_MATCH0, R.RX_MATCH1, R.RX_CFG, R.RX_ITEM, R.RX_BASE, R.RX_STATE, R.DEV_XLATE_RX_FRAMES, R.RX_DROP]
  | .crank =>
    [R.CR_CFG, R.CR_GUARD, R.CR_SPLIT, R.CR_VARS, R.CR_RETAIN, R.CR_CYCLE, R.CR_RECOVER, R.CR_PROG_ID, R.CR_INIT_BASE, R.CR_IMAGE_BASE, R.CR_STATE, R.CR_OLC_COUNT, R.CR_CYCLE_COUNT, R.CR_LAST_CYCLE, R.CR_JRNL_SEQ, R.CR_FORCES, R.CR_EXP_RANGE0_7, R.ARITH_FAULT, R.INDEX_FAULT, R.OUT_DENIED] ++
    [R.IN_DEFAULT, R.JRNL_MERGE, R.IMP_APPLIED, R.IMP_SKIP, R.IMP_MISMATCH, R.WIN_IGNORED, R.IMAGE_FULL, R.CRANK_MBX_IN, R.CRANK_MBX_OUT, R.CRANK_MBX_SEQ, R.OL_ENTRY, R.FC_VAR, R.OL_VALUE, R.FC_VALUE]
  | .crankTask =>
    [R.CT_CELLS, R.CT_SCHED, R.CT_CFG, R.CT_WDT, R.CT_IN, R.CT_OUT, R.CT_EVENT, R.CT_STATE, R.CT_SCANS, R.CT_LAST_US, R.CT_MAX_US, R.CT_OVERRUN, R.CT_MISS, R.CT_MERGED, R.CT_LAST_START]
  | .hartCluster =>
    [R.HC_RESET_VEC, R.HC_STATE, R.HC_HARTID]
  | .viIndex =>
    [R.VIX_STATE, R.VIX_MIG_COUNT]
  | .pelotonView => []
  | .flowView => []
  | .sampleView => []
  | .egressView =>
    [R.EGV_ENTRY, R.EGV_CFG, R.EGV_RELEASED, R.EGV_DENIED, R.EGV_MISS, R.EG_BUF, R.EG_LEN, R.EG_READ_SEQ, R.EG_RATE, R.EG_BURST, R.EGRESS_VIEW_EG_TOKENS_A, R.EGRESS_VIEW_EG_TOKENS_B, R.EG_WAITING, R.EG_SENT, R.EG_FAULT]
  | .captureView => []
  | .keyView =>
    [R.KV_HUB]
  | .crankView =>
    [R.CV_STATE, R.CV_CYCLE, R.CV_OUT_VALID, R.CRANK_VIEW_MBX_IN, R.CRANK_VIEW_MBX_OUT, R.CRANK_VIEW_MBX_SEQ]
  | .timerView =>
    [R.TV_CTS_NOW, R.TV_TIME, R.TV_UTC_OFFSET, R.TV_CHOSEN, R.TV_FIRED]
  | .viewReserved => []
  | .counterView =>
    [R.CV_VALUE, R.CV_SLOTS]

end Sys2Proof.Machine
end

