-- ==== Sys2Proof/Machine/Map.lean ====
section
/-!
DEFINITION. Sys2Proof/Machine/Map.lean: sparse data by number, as a list of pairs with rising keys. The registers,
the engines' tables and memory are such lists.
-/
namespace Sys2Proof.Machine

/-- Sparse data: pairs of a key and what it holds, keys rising. -/
abbrev Map (β : Type) := List (Nat × β)

/-- What a key holds; `d` where the list has no entry for it. -/
def mget {β : Type} (d : β) : Map β → Nat → β
  | [], _ => d
  | (k', v) :: m, k => if k = k' then v else mget d m k

/-- Put a value under a key, keeping the keys rising. -/
def mput {β : Type} (k : Nat) (v : β) : Map β → Map β
  | [] => [(k, v)]
  | (k', v') :: m =>
    if k < k' then (k, v) :: (k', v') :: m
    else if k = k' then (k, v) :: m
    else (k', v') :: mput k v m

/-- Take a key out of the list. -/
def mdel {β : Type} (k : Nat) (m : Map β) : Map β := m.filter (fun e => decide (e.1 ≠ k))

/-- Keep the entries whose key meets the test. -/
def mkeep {β : Type} (p : Nat → Bool) (m : Map β) : Map β := m.filter (fun e => p e.1)

/-- Change what a key holds. -/
def mmod {β : Type} (d : β) (k : Nat) (f : β → β) (m : Map β) : Map β := mput k (f (mget d m k)) m

/-- The keys rise strictly. -/
abbrev Map.sorted {β : Type} (m : Map β) : Prop := m.Pairwise (fun a b => a.1 < b.1)

end Sys2Proof.Machine
end

