-- ==== Sys2Proof/Machine/TypesCore.lean ====
section
/-!
DEFINITION. Sys2Proof/Machine/TypesCore.lean: the pieces of state that every block shares (page headers, stamps,
counters, records), and those of the reset controllers and the time base.
-/
namespace Sys2Proof.Machine

/-- What the last access returned: nothing yet, a value, the access fault of R50, R308 and R310, or, for a store of a hart,
the page fault or the address-misaligned exception of R307. -/
inductive Resp where
  | none
  | value (v : Nat)
  | accessFault
  | pageFault
  | misaligned
  deriving DecidableEq, Repr

/-- A stamp: a CTS and the ORDER tag that goes with it (R47, R81, R105). -/
structure Stamp where
  cts : Nat
  order : Nat
  deriving DecidableEq, Repr

/-- A command that returned ACCEPTED and still runs (R62, R618). -/
structure Ticket where
  op : Nat
  ini : Nat
  seq : Nat
  sub : Nat
  argument : Nat
  cmdArg : Nat
  inst : Nat
  view : Option Nat
  cts : Nat
  deriving DecidableEq, Repr

/-- The 64-bit latch of one initiator in one page (R70, R71). -/
structure Latch where
  off : Nat
  high : Nat
  isWrite : Bool
  deriving DecidableEq, Repr

/-- The unbanked header of one page (R60, R61), with its sequence counter (R65) and its running commands. -/
structure Hdr where
  lock : Bool
  seq : Nat
  cmdLast : Nat
  status : Nat
  event : Nat
  eventEn : Nat
  setAgain : Nat
  irqTarget : Nat
  refuseLog : Nat
  irqStamp : Nat
  irqOrder : Nat
  lastWriteStamp : Nat
  writeOrder : Nat
  lastWriter : Nat
  denyInfo : Nat
  running : List Ticket
  deriving DecidableEq, Repr

/-- The banked header of one initiator in one page (R58, R60). -/
structure Bank where
  sel : Nat
  cmdArg : Nat
  cmdResult : Nat
  cmdStamp : Nat
  cmdOrder : Nat
  latch : Option Latch
  deriving DecidableEq, Repr

/-- A die's counter (R79, R87): the nanoseconds have 48 fractional bits. -/
structure Ctr where
  valid : Bool
  sec : Nat
  ns : Nat
  frac : Nat
  deriving DecidableEq, Repr

/-- An MSI under way to an interrupt file (R76, R309), in the plane that owns the page that raised it (R77): 1 control,
2 management. -/
structure Msi where
  addr : Nat
  data : Nat
  plane : Nat
  deriving DecidableEq, Repr

/-- A Saddlebag record (R571): `words` is the payload in 8-byte units. -/
structure Rec where
  cts : Nat
  order : Nat
  plane : Nat
  snapshot : Bool
  code : Nat
  words : List Nat
  deriving DecidableEq, Repr

/-- An assertion of a source that releases by itself (R513): the source, the domains it covers, the elapsed time of the
assertion, and which of the domains were in RUN then. -/
structure Pulse where
  src : Nat
  mask : Nat
  at_ : Nat
  was : Nat
  deriving DecidableEq, Repr

/-- A reset page's data for one die (R511 to R523): what each source holds, which domains are released, and where
the walk stands. Masks have domain i at bit i. -/
structure ResetSt where
  /-- Domains held by each source, by source number, until it is released (R513). -/
  holds : List Nat
  /-- The assertions of CKF, WDT, LCK and SWR_PULSE that stand, each for its own time, oldest first (R35, R513). -/
  pulses : List Pulse
  /-- Domains in RUN, if no source covers them (R512). -/
  released : Nat
  /-- Domains a FORCE_RELEASE names for the walk (R521). -/
  forceReq : Nat
  /-- Domains released by force and still FORCED (R521). -/
  forced : Nat
  /-- Domains whose interface is NOT_READY (R519, R521). -/
  notReady : Nat
  /-- Lock-stable islands, bits of RK_LOCKS (R533). -/
  locks : Nat
  /-- The walk has counted the gap of its position and waits for lock (R515). -/
  gapDone : Bool
  /-- The elapsed time at which the gap of the walk's position began, or, once that has ended, its wait for lock (R516,
  R519). -/
  gapAt : Nat
  /-- The elapsed time at which each island lost its lock under a domain in RUN (R519). -/
  lostAt : List Nat
  /-- The elapsed time of the last release of OPT (R525). -/
  optAt : Nat
  /-- The domain whose start-up load runs, 0 for none (R522). -/
  loading : Nat
  /-- The option block is in force since the last release of OPT (R524, R525). -/
  optDone : Bool
  /-- Fuse sensing has ended since POR (R529). -/
  fuseSensed : Bool
  /-- REFCLK runs at this die (R519). -/
  refclk : Bool
  /-- The AON shadow counter in ns since the epoch, and whether it is valid (R523). -/
  shadow : Nat
  shadowValid : Bool
  /-- COASTER has not been released since the last reset of die reach (R436, R522). -/
  coasterFresh : Bool
  /-- A Mechanic has powered the die down (R513, R566). -/
  poweredOff : Bool
  /-- PM_STAGE as a running PIN_FUSE took it (R530). -/
  pinFuse : Nat
  deriving DecidableEq, Repr

/-- States of a time base (R92). -/
inductive TbState where
  | unset | free | acquire | locked | holdover | follow
  deriving DecidableEq, Repr

/-- A step that waits for its instant or, being negative, runs the counters at half rate (R90, R91). The amount is
in units of 2^-16 ns. -/
structure PendingStep where
  amount : Int
  due : Nat
  /-- The hub whose STEP command or servo asked for it, and whether a STEP command did. -/
  hub : Nat
  command : Bool
  running : Bool
  deriving DecidableEq, Repr

/-- The servo of one hub beyond its registers (R85 to R99). -/
structure TimeBase where
  state : TbState
  held : Bool
  master : Bool
  src : Option Nat
  /-- The ppm at which a refused step is being removed, while it is, and the elapsed time at which it is removed (R90). -/
  slew : Option Int
  slewEnd : Nat
  /-- No offset has been accepted since ACQUIRE was entered (R90). -/
  fresh : Bool
  inWindow : Nat
  outWindow : Nat
  gm : Bool
  /-- Which of the four inputs has had offsets and no expiry since, and the elapsed time of the last offset of each
  (R88, R92). -/
  valid : List Bool
  seen : List Nat
  /-- The time agent reports a parent clock (R88). -/
  parent : Bool
  /-- Effective addends with the elapsed time from which each held, newest first (R97). -/
  rates : List (Nat × Nat)
  /-- The rate held in HOLDOVER, and the elapsed time at which HOLDOVER was entered (R97). -/
  heldRate : Nat
  holdSince : Nat
  /-- The last IRIG-B frame and how many agreed in a row (R98). -/
  irig : Option Irig
  irigRun : Nat
  /-- The leap second that a frame announced: the end of its day in UTC seconds, and whether it is deleted (R99). -/
  leap : Option (Nat × Bool)
  deriving DecidableEq, Repr

/-- A time trigger beyond its registers (R115 to R119): what ARM read, the next firing in ns since the epoch, its
number in its second (RATE mode), the instant in ns since the epoch at which a running pulse ends, and the polarity. -/
structure Trig where
  armed : Bool
  code : Nat
  index : Nat
  rateMode : Bool
  oneShot : Bool
  next : Nat
  k : Nat
  rate : Nat
  period : Nat
  width : Nat
  pulse : Option Nat
  activeLow : Bool
  deriving DecidableEq, Repr

/-- A firing on its way to its target (R118): the target code and index of R114, the firing's CTS and ORDER tag. -/
structure Firing where
  code : Nat
  index : Nat
  hub : Nat
  cts : Nat
  order : Nat
  deriving DecidableEq, Repr

/-- A snapshot set of a Saddlebag as SS_ENABLE loaded it (R577, R578, R584). -/
structure SnapSet where
  enabled : Bool
  trigger : Nat
  management : Bool
  period : Nat
  mask : Nat
  entries : List Nat
  /-- The cause CTS of the pending trigger. -/
  pending : Option Nat
  /-- The elapsed time at which the next PERIODIC trigger is due (R579). -/
  due : Nat
  deriving DecidableEq, Repr

/-- One hub's Saddlebag beyond its registers (R33, R570 to R582): the three queues of records, whose turn it is,
records dropped since the last written one of each plane, and records lost while frozen. -/
structure Sbag where
  queues : List (List Rec)
  turn : Nat
  lost : List Nat
  frozenLost : List Nat
  /-- The trigger code and cause CTS that fired the freeze trigger. -/
  frzCode : Nat
  frzCause : Nat
  /-- The freeze trigger has fired and FREEZE_TRIGGER has not yet taken it: its cause CTS. -/
  frzPending : Option Nat
  sets : List SnapSet
  /-- Each initiator's cursor, by identity (R576). -/
  cursors : Map Nat
  deriving DecidableEq, Repr

/-- A record on its way to a hub's Saddlebag (R570). -/
structure RecInFlight where
  hub : Nat
  record : Rec
  deriving DecidableEq, Repr

/-- A Spoke or the Axle beyond its registers (R21, R24): the flits unacknowledged at each end when the retrain began, in
their original order and by their number at that end (the compute die's or hub A's end first), the flits that the last
retrain resent in the order in which they went, the elapsed times of the failed retrains of the last 1 ms, and whether
the link was declared down. -/
structure LinkSt where
  unackedA : List Nat
  unackedB : List Nat
  resentA : List Nat
  resentB : List Nat
  /-- Flits sent from each end since the link last trained; CLEAR_COUNTERS leaves them as they are. -/
  sentA : Nat
  sentB : Nat
  fails : List Nat
  declared : Bool
  deriving DecidableEq, Repr

/-- A die's Cadence judgement (R39, R41): a measurement has been made since the release of MECH, the elapsed time since
which the index has stayed below CAD_FLOOR, and whether the die is out of guarantee. -/
structure CadSt where
  measured : Bool
  since : Option Nat
  out : Bool
  deriving DecidableEq, Repr

/-- A hub's Cyclometer as CY_RUN loaded it (R589 to R594): the list, the period, the ring, the next sweep in ns since
the epoch, and the sweeps skipped since the last record. -/
structure CySt where
  running : Bool
  entries : List Nat
  period : Nat
  base : Nat
  size : Nat
  next : Nat
  head : Nat
  skipped : Nat
  deriving DecidableEq, Repr

end Sys2Proof.Machine
end

