-- ==== Sys2Proof/Machine/TypesCrank.lean ====
section
/-!
DEFINITION. Sys2Proof/Machine/TypesCrank.lean: the state of the Cranks and of the retain memories.
-/
namespace Sys2Proof.Machine

/-- A task as CR_LOAD read it (R390): CT_CELLS, CT_SCHED, CT_CFG, CT_IN, CT_OUT and CT_EVENT. -/
structure CrTask where
  cells : Nat
  sched : Nat
  cfg : Nat
  inp : Nat
  outp : Nat
  event : Nat
  deriving DecidableEq, Repr

/-- What CR_LOAD read (R388): cells, variable words, CR_RETAIN, CR_PROG_ID, CR_EXP_RANGE0–7 and the tasks. -/
structure CrProg where
  cells : Nat
  vars : Nat
  retain : Nat
  progId : Nat
  exports : List Nat
  tasks : List CrTask
  deriving DecidableEq, Repr

/-- A task's image (R365): the scan's own writes, and the words of the shared image as they stood when the scan began,
for those that have changed since. -/
structure CrImage where
  writes : Map Nat
  saved : Map Nat
  deriving DecidableEq, Repr

/-- A release of a task (R358, R359, R371): its release CTS, the elapsed time, CT_WDT and OVR_ACTION as they stood, and
whether it has been counted as an overrun. -/
structure CrRelease where
  task : Nat
  cts : Nat
  at_ : Nat
  wdt : Nat
  ovr : Bool
  overrun : Bool
  deriving DecidableEq, Repr

/-- A scan in progress (R363): its release, the next cell, the cells left of an ATOMIC region, its image in STEP and
RECOVER, whether it has written a word of an export range, and whether its image is full. -/
structure CrScan where
  rel : CrRelease
  pc : Nat
  atomic : Nat
  image : Option CrImage
  wroteExp : Bool
  full : Bool
  deriving DecidableEq, Repr

/-- An entry of an on-line change batch (R382): KIND, FIELD, target and value. -/
structure OlcEntry where
  kind : Nat
  field : Nat
  target : Nat
  value : Nat
  deriving DecidableEq, Repr

/-- A journal record under way (R378, R379): its sequence, its bytes, whether it is a checkpoint, whether POWER_FAIL is
set, its place in a region, the hubs on which it is not yet committed, and whether a hub has given it up. -/
structure JrnlRec where
  seq : Nat
  bytes : List Byte
  checkpoint : Bool
  powerFail : Bool
  place : Nat
  left : List Nat
  lost : Bool
  deriving DecidableEq, Repr

/-- A Crank beyond its registers (R347 to R388). States are those of CR_STATE. `scans` has the running scan first and
those it pre-empted behind it; `released` are the tasks that wait to start; `pend` holds each pending task's newest cause
CTS; `edges` is the word of each variable-edge task at the end of the last scan; `outs` is the demand last written to
each line (hub × 8 + line) and `evs` the variable of each EVENT entry at the last output copy; `start` is the mode that a
restart begins, with whether the restart has ended; `mode` a pending mode change. -/
structure Crank where
  state : Nat
  prog : Option CrProg
  start : Option (Nat × Nat)
  ready : Bool
  mode : Option Nat
  olc : Option (List OlcEntry)
  localCycle : Bool
  powerFail : Bool
  retainLost : Bool
  reload : Bool
  importing : Bool
  cause : Nat
  stepped : Nat
  k : Nat
  recover : Nat
  recCount : Nat
  initBase : Nat
  lastFire : Nat
  lastBoundary : Nat
  forces : Map (Nat × Nat)
  scans : List CrScan
  released : List CrRelease
  pend : Map Nat
  edges : Map Bool
  outs : Map Bool
  evs : Map Bool
  changed : List Nat
  needCk : Bool
  seq : Nat
  jpos : Nat
  slot : Nat
  queue : List JrnlRec
  exported : List Byte
  imported : Option (List Byte)
  pfMode : Option Nat
  deriving DecidableEq, Repr

/-- A hub's retain memory and its port (R379 to R381, R391): the bytes of the device, the bytes written since the
release of MECH, whether a power-fail warning runs, the elapsed time of the last assertion of PFW_N, the Cranks whose
final record is not yet committed here, and the region that RT_CLEAR is clearing. -/
structure Retain where
  cells : List Host.Cell
  written : Nat
  active : Bool
  at_ : Nat
  waits : List Nat
  deriving DecidableEq, Repr

end Sys2Proof.Machine
end

