-- ==== Sys2Proof/Machine/TypesIngest.lean ====
section
/-!
DEFINITION. Sys2Proof/Machine/TypesIngest.lean: the state of sampled-value ingest, the filter chain and the detectors.
-/
namespace Sys2Proof.Machine

/-- A ring destination as its stream or detector loaded it (R209 to R212, R220): DESTn_CFG, DESTn_ITEM, DESTn_BASE,
whether it is FAULTED, HEAD, GAP_TOTAL, whether its next record carries GAP_BEFORE, and whether a rehome makes it continue
from HEAD and GAP_TOTAL of the ring's header (R620). -/
structure Dest where
  cfg : Nat
  item : Nat
  base : Nat
  faulted : Bool
  head : Nat
  gapTotal : Nat
  gap : Bool
  sync : Bool
  deriving DecidableEq, Repr

/-- A live stream entry (R206, R214, R215, R219): the settings that ST_ENABLE loaded, its destinations, its home, the
home before a planned rehome and that rehome's instant in ns since the epoch (R183), the newest count accepted and its instant in ns since the epoch, the 64 counts below it, those of them whose kept copy
failed authentication, GAP_SAMPLES since ST_ENABLE, whether the stream has filtered nothing yet since a start,
and the elapsed time at which it last accepted or received something. -/
structure Stream where
  match0 : Nat
  match1 : Nat
  cfg : Nat
  rate : Nat
  confrev : Nat
  slots : Nat
  chmask : Nat
  key : Nat
  timing : Nat
  stale : Nat
  delay : Nat
  gmid : Nat
  svid : List Byte
  dests : List Dest
  home : Nat
  prevHome : Nat
  cutNs : Nat
  newest : Option Nat
  newestNs : Nat
  seen : Nat
  failed : Nat
  gapTotal : Nat
  fresh : Bool
  heardAt : Nat
  deriving DecidableEq, Repr

/-- A sample of one channel on its way to the filter (R208). -/
structure ChSample where
  value : Int
  flags : Nat
  deriving DecidableEq, Repr

/-- An accepted ASDU (R206, R207): its count on the grid, its instant in ns since the epoch, the counts missed before it,
whether it only warms a filter up (R183), whether it restarts the filter (R238), and its delivered channels. -/
structure Accepted where
  count : Nat
  at_ : Nat
  missed : Nat
  warm : Bool
  restart : Bool
  samples : List ChSample
  deriving DecidableEq, Repr

/-- The accepted ASDUs of one kept copy (R225). -/
structure Batch where
  hub : Nat
  stream : Nat
  asdus : List Accepted
  deriving DecidableEq, Repr

/-- A loaded filter profile (R229). -/
structure Profile where
  k : Nat
  r : Nat
  m : Nat
  shift : Nat
  t : Nat
  settle : Nat
  trans : Nat
  stepTh : Nat
  pred : Int
  gapHold : Nat
  coef : List Int
  deriving DecidableEq, Repr

/-- The filter of one channel (R230 to R243): integrators, combs (newest first), FIR history (newest first), the last two
accepted samples, settle count, the instant at which TRANSIENT ends, the last accepted sample, and whether the next
written output carries GAP_BEFORE. -/
structure Chan where
  integ : List Nat
  combs : List (List Nat)
  outs : List Int
  x1 : Option Int
  x2 : Option Int
  settle : Nat
  trans : Nat
  last : Option ChSample
  gap : Bool
  deriving DecidableEq, Repr

/-- The filter of one stream (R234, R235): the profile that FS_ASSIGN named, whether it falls back, whether the next
batch restarts every channel, and the channels. -/
structure FilterSt where
  assigned : Nat
  fallback : Bool
  restart : Bool
  chans : List Chan
  deriving DecidableEq, Repr

/-- A tap sample in a detector's window: its magnitude and its flags. -/
structure TapSample where
  mag : Nat
  flags : Nat
  deriving DecidableEq, Repr

/-- An enabled detector (R244 to R251): what DET_ENABLE loaded, its destination, its last tap samples (newest first) since
its windows restarted with their number, whether a gap restarted them, the envelope with 16 fraction bits, the tap samples since enable, and its outputs. -/
structure Det where
  src : Nat
  cfg : Nat
  env : Nat
  fastPickup : Nat
  fastDrop : Nat
  slowPickup : Nat
  slowDrop : Nat
  dest : Dest
  window : List TapSample
  taken : Nat
  gapped : Bool
  e : Nat
  taps : Nat
  fast : Bool
  slow : Bool
  blocked : Bool
  /-- The CTS of the tap samples that last changed FAST, SLOW and BLOCKED, 0 for none since enable or restart (R246). -/
  fastAt : Nat
  slowAt : Nat
  blockedAt : Nat
  deriving DecidableEq, Repr

/-- What a detector presents at the end of a visit (R250), with the CTS of the samples that last changed each state (R246). -/
structure Present where
  hub : Nat
  det : Nat
  fast : Bool
  slow : Bool
  blocked : Bool
  fastVal : Nat
  slowVal : Nat
  cts : Nat
  fastAt : Nat
  slowAt : Nat
  blockedAt : Nat
  deriving DecidableEq, Repr

/-- A tap sample on its way to the capture engine (R400): hub, stream, channel, tap (0 RAW, 1 FILTERED), the instant, its
CTS, value and flags. -/
structure TapOut where
  hub : Nat
  stream : Nat
  channel : Nat
  tap : Nat
  cts : Nat
  value : Int
  flags : Nat
  deriving DecidableEq, Repr

end Sys2Proof.Machine
end

