-- ==== Sys2Proof/Machine/TypesKey.lean ====
section
/-!
DEFINITION. Sys2Proof/Machine/TypesKey.lean: the state of the key vaults beyond their registers.
-/
namespace Sys2Proof.Machine

/-- A command that waits in or runs in a vault's command engine (R37, R503): the page and the ticket under which it
runs, whether it belongs to the management plane, its initiator's VI, and the elapsed time of its grant. -/
structure VaultJob where
  loc : Nat
  view : Bool
  ticket : Ticket
  mgmt : Bool
  vi : Option Nat
  at_ : Nat
  deriving DecidableEq, Repr

/-- A challenge and the elapsed time at which it expires (R498). -/
structure Challenge where
  bytes : List Byte
  expires : Nat
  deriving DecidableEq, Repr

/-- A vault beyond its registers: its waiting commands, whether it has alarmed since POR (R480), the two authority
hashes of OTP (R498), the challenges for unseal and debug, failed debug responses since POR (R499), whether the cache is
still to be zeroised (R497), and the measurement registers that are locked (R502). -/
structure Vault where
  jobs : List VaultJob
  alarmed : Bool
  unsealAuth : Option (List Byte)
  debugAuth : Option (List Byte)
  challenge : Option Challenge
  debugChallenge : Option Challenge
  debugFails : Nat
  debugOpen : Bool
  zeroising : Bool
  measLocked : List Nat
  deriving DecidableEq, Repr

end Sys2Proof.Machine
end

