-- ==== Sys2Proof/Machine/TypesMgmt.lean ====
section
/-!
DEFINITION. Sys2Proof/Machine/TypesMgmt.lean: the state of the Mechanics, of the lead lease and of boot flash
(R537 to R569).
-/
namespace Sys2Proof.Machine

/-- A hub's boot flash (R537, R553): its programmed bytes by rising address (an unlisted byte is erased), the running
operation's range as XSPI_BOOT took it and the elapsed time of its start, and UPDATE_AUTH (R555). -/
structure BootFlash where
  cells : List Host.Cell
  addr : Nat
  len : Nat
  data : List Byte
  begunAt : Nat
  updateAuth : Option (List Byte)
  deriving DecidableEq, Repr

/-- An entry of the management log that waits for its flash page (R562). -/
structure LogEntry where
  cts : Nat
  order : Nat
  severity : Nat
  die : Nat
  code : Nat
  payload : List Byte
  deriving DecidableEq, Repr

/-- A die's Mechanic core (R538 to R543): it runs its firmware, a reset of die reach has come since its last boot, it
runs the firmware of a trial slot, the slot from which a restart runs (none for a boot of the ROM), the elapsed time of
its last MC_CAND write while it is a candidate, that from which the watchdog counts, that of the release of MECH, that of the last
sweep of its sensors (R547), the
sensors without a sample in the last sweep, and the last sequence of its management-port sessions, latest first. -/
structure Mech where
  runs : Bool
  fresh : Bool
  trialFw : Bool
  from_ : Option Nat
  candAt : Option Nat
  kickAt : Nat
  released : Nat
  sweptAt : Nat
  missed : Nat
  sessions : List (Nat × Nat)
  deriving DecidableEq, Repr

/-- The lead lease as a hub's lease logic holds it (R542 to R545): LEAD if valid, EPOCH, EXPIRY, the elapsed time of the
last grant or renewal, whether the first grant since POR has been made, and the level of WDO_N. -/
structure Lease where
  lead : Option Nat
  epoch : Nat
  expiry : Nat
  at_ : Nat
  granted : Bool
  wdo : Bool
  deriving DecidableEq, Repr

/-- A rail of the voltage loop (R550): the elapsed times of its last raise and of its last step of either kind, and
since when the die's index has stayed at or above floor + margin + band. -/
structure Rail where
  raised : Option Nat
  stepped : Option Nat
  highSince : Option Nat
  deriving DecidableEq, Repr

/-- An update on a hub (R559, R560): the slot verified or on trial, the dies whose cores UPD_ACTIVATE or UPD_ABORT has still
to restart, in order, the one that restarts now first, and whether UPD_ABORT runs. -/
structure UpdSt where
  slot : Nat
  restarts : List Nat
  aborting : Bool
  deriving DecidableEq, Repr

end Sys2Proof.Machine
end

