-- ==== Sys2Proof/Machine/TypesNet.lean ====
section
/-!
DEFINITION. Sys2Proof/Machine/TypesNet.lean: the state of the switches and the duplicated lanes.
-/
namespace Sys2Proof.Machine

/-- An entry of a switch table: DATA0 to DATA3 (R166). -/
structure TblEntry where
  d0 : Nat
  d1 : Nat
  d2 : Nat
  d3 : Nat
  deriving DecidableEq, Repr

/-- A meter's two buckets in millionths of a bit, the elapsed time of their last update, and the cut-through frames whose
true length is charged at their last cell: elapsed time, colour and bytes, the earliest first (R143, R144). -/
structure Meter where
  committed : Int
  peak : Int
  last : Nat
  due : List (Nat × Nat × Nat)
  deriving DecidableEq, Repr

/-- What the hub at the far end of the Axle does with a frame that leaves by P12: its own lookup (R126), delivery to its
ingest (R180), delivery to compute dies that this hub's Spokes do not reach (R160), its LANE ports in a class (R172, R174),
and its ring port (R173). -/
structure Across where
  look : Bool
  feed : Bool
  compute : Bool
  lane : Option Nat
  pass : Bool
  deriving DecidableEq, Repr

/-- A frame with its MAC ingress stamp, the hub it came in by, its ingress port at the present hub and at that one, and the
lane of that port. -/
structure FrameIn where
  frame : Frame
  hub : Nat
  port : Nat
  lane : Nat
  cts : Nat
  order : Nat
  /-- It goes out on both lanes under one sequence number (R172, R174). -/
  own : Bool
  /-- It is passed on around the HSR ring (R173). -/
  pass : Bool
  /-- The port of the hub it came in by. -/
  inPort : Nat := port
  /-- The sixteen fraction bits of the ingress stamp (R102). -/
  frac : Nat := 0
  /-- The VLAN it was forwarded in, none where it was not looked up (R125). -/
  vid : Option Nat := none
  /-- A policer has set DEI (R143). -/
  dei : Bool := false
  /-- It has passed the duplicate window at its home hub (R178). -/
  kept : Bool := false
  /-- What the far hub does with its copy for P12. -/
  across : Across := ⟨true, false, false, none, false⟩
  deriving DecidableEq, Repr

/-- A frame in the cell buffer (R146): its descriptor, how many copies still refer to it, its cells and colour, the elapsed
times of its first and last bit (R132, R149), and the record it is, where it is a sampler's (R158). -/
structure Stored where
  fin : FrameIn
  refs : Nat
  cells : Nat
  colour : Nat
  startAt : Nat
  doneAt : Nat
  sample : Option (List Byte)
  deriving DecidableEq, Repr

/-- A frame copy in a virtual output queue (R146 to R151). -/
structure Copy where
  fid : Nat
  ing : Nat
  egr : Nat
  cls : Nat
  /-- Its cells, and those moved so far. -/
  cells : Nat
  moved : Nat
  cut : Bool
  /-- The frame as it was received or sent, for a mirror copy (R159). -/
  mirror : Option Frame
  /-- The length sent, and whether the end is stomped. -/
  bytes : Nat
  stomp : Bool
  /-- The cells of the room in which it was admitted (R132). -/
  room : Nat
  /-- The egress stamp, taken at its first cell (R102), with sixteen fraction bits. -/
  cts : Nat
  order : Nat
  frac : Nat
  deriving DecidableEq, Repr

/-- A pending gate list set of QBV_COMMIT (R141). -/
structure GatePending where
  at_ : Nat
  cycle : Nat
  len : Nat
  entries : List (Nat × Nat)
  deriving DecidableEq, Repr

/-- The operational gate list of a port (R139): its entries (gate states and interval), the cycle, the instant (ns
since the epoch) at which the present entry began, and the entry. -/
structure Gates where
  oper : List (Nat × Nat)
  cycle : Nat
  cycleStart : Nat
  entryStart : Nat
  entry : Nat
  pending : Option GatePending
  deriving DecidableEq, Repr

/-- A sampler or mirror session (R157, R159): frames since the last chosen one, and the gap to the next with the N and mode
for which it was drawn (R165). -/
structure Session where
  active : Bool
  count : Nat
  gap : Nat
  n : Nat
  random : Bool
  deriving DecidableEq, Repr

/-- A send on its way to or waiting at P13 (R152, R153): its VI, publication entry, frame, and the compute die that
sent it; `tokens` says that step 2 has charged the bucket, `released` that a firing has released it. -/
structure Send where
  vi : Nat
  entry : Nat
  die : Nat
  frame : Frame
  cause : Nat
  tokens : Bool
  deriving DecidableEq, Repr

/-- A frame that left the package at a ball: the hub, the port (0 to 11 of the switch, 12 the Tandem lane, 13 MGMT),
the frame, its egress stamp, and whether its end was stomped. -/
structure SentFrame where
  hub : Nat
  port : Nat
  frame : Frame
  cts : Nat
  order : Nat
  stomped : Bool
  deriving DecidableEq, Repr

/-- One hub's switch beyond its registers. -/
structure Switch where
  /-- Tables by table × 65,536 + index (R166). -/
  tables : Map TblEntry
  /-- MAC entries seen since the elapsed time, by index (R128). -/
  macSeen : Map Nat
  meters : Map Meter
  /-- The time in ps of elapsed time at which the transmit FIFO of a port has sent what it holds (R135). -/
  txEnd : Map Nat
  /-- The elapsed time at which a port entered HOLD (R162). -/
  holdAt : Map Nat
  stored : Map Stored
  nextFid : Nat
  /-- VOQs by (ingress × 16 + egress) × 8 + class (R131). -/
  voqs : Map (List Copy)
  /-- Pinned pairs: ingress, egress, class (R134). -/
  pins : List (Nat × Nat × Nat)
  /-- g[j][c] by j × 8 + c, and a[i] (R135). -/
  grant : Map Nat
  accept : Map Nat
  /-- DWRR deficits by j × 8 + c, and the class each port serves (R138). -/
  deficit : Map Int
  dwrr : Map Nat
  /-- WRED averages with 16 fraction bits, by j × 8 + c (R145). -/
  avg : Map Nat
  gates : Map Gates
  sessions : Map Session
  /-- Frames that wait for FRAME_INGRESS from P12, and copies delivered to P13, P14 and P15. -/
  fromAxle : List FrameIn
  toP13 : List FrameIn
  toP14 : List FrameIn
  toP15 : List FrameIn
  /-- Verified GOOSE frames for the capture watches (R407, R495). -/
  watch : List FrameIn
  /-- Sampler records delivered to P15 (R158). -/
  samples : List (List Byte)
  /-- Sends under way to P13, and sends that wait there (R153). -/
  sends : List Send
  waiting : List Send
  /-- Token buckets of VIs in units of 2^-16 byte (R335), by VI, and the microsecond of elapsed time up to which each has
  gained. -/
  tokens : Map Nat
  tokenAt : Map Nat
  deriving DecidableEq, Repr

/-- A duplicate window (R176): started or cleared, H, and the numbers below it (bit n is H − n). -/
structure Win where
  started : Bool
  h : Nat
  map : Nat
  deriving DecidableEq, Repr

/-- A node table entry (R176, R192), with the window of deliveries and those of HSR passing by direction (R173). -/
structure Node where
  mac : Nat
  kind : Nat
  home : Nat
  static_ : Bool
  win : Win
  passA : Win
  passB : Win
  framesA : Nat
  framesB : Nat
  dups : Nat
  wrong : Nat
  /-- Elapsed time at which a frame was last seen on lane A and B, and at which one was last accepted. -/
  seenA : Option Nat
  seenB : Option Nat
  accepted : Nat
  deriving DecidableEq, Repr

/-- A planned rehome (R183): the streams it moves, T in CTS, and whether the warm start has been made. -/
structure RehomePlan where
  streams : List Nat
  at_ : Nat
  warm : Bool
  deriving DecidableEq, Repr

/-- One hub's lane logic beyond its registers. -/
structure Lane where
  nodes : Map Node
  /-- Lane logic leaves OFF only without a configuration mismatch (R169). -/
  mismatch : Bool
  /-- STATE of R181. -/
  state : Nat
  /-- Sequence counters by source MAC (R172). -/
  seqs : Map Nat
  /-- Frames of the shadow ring, oldest first (R180). -/
  shadow : List FrameIn
  plan : Option RehomePlan
  /-- FLAP windows: elapsed time of each entry into SEARCH from UP, by port (R184). -/
  flaps : Map (List Nat)
  /-- Bytes written to the shadow ring since the release of NET (R180). -/
  shadowPos : Nat
  /-- Elapsed time of the last supervision frame (R179), and of the last diagnostics poll of each cage (R187). -/
  supAt : Option Nat
  ddmAt : Map Nat
  deriving DecidableEq, Repr

end Sys2Proof.Machine
end

