-- ==== Sys2Proof/Machine/TypesTandem.lean ====
section
/-!
DEFINITION. Sys2Proof/Machine/TypesTandem.lean: the state of the Tandem lane logic (R456 to R478).
-/
namespace Sys2Proof.Machine

/-- The newest token known (R461): EPOCH, HOLDER, EXPIRY in ns since the epoch, whether one is known, and the elapsed
time at which this module last renewed it or received its renewal. -/
structure Token where
  epoch : Nat
  holder : Nat
  expiry : Nat
  valid : Bool
  at_ : Nat
  deriving DecidableEq, Repr

/-- What the partner's last header showed (R459): its role, LOCKED, MAY_HOLD, HANDOVER, and the EPOCH of the token. -/
structure Partner where
  role : Nat
  locked : Bool
  mayHold : Bool
  handover : Bool
  epoch : Nat
  deriving DecidableEq, Repr

/-- A planned handover under way (R475): T in ns since the epoch, the hub whose page runs it, and whether it has been
acknowledged. -/
structure Handover where
  at_ : Nat
  hub : Nat
  acked : Bool
  deriving DecidableEq, Repr

/-- The segments of a state frame received so far (R458): sequence, segment count, and payloads by index. -/
structure Assembly where
  seq : Nat
  count : Nat
  parts : Map (List Byte)
  deriving DecidableEq, Repr

/-- A hub's role machine (R457, R469): the role as TD_STATE codes it, whether the gate is open, the token, the partner's last
header, the elapsed times of the last good frame or beacon, of the last permit, of the entry to CONTENDING, and since
when there has been neither a partner path nor a live lane; the path as last judged, a handover, the EPOCH that this
module acknowledges, the T in ns of the partner's handover that it has acknowledged (R475), the frame sequence, the boundary last made in ns since the epoch, segments, whether a frame
completed since that boundary, the newest complete sequence, and the receive buffer. -/
structure Tandem where
  role : Nat
  gate : Bool
  mismatch : Bool
  token : Token
  partner : Option Partner
  pathAt : Option Nat
  permitAt : Option Nat
  contendAt : Nat
  aloneAt : Option Nat
  path : Bool
  hand : Option Handover
  ack : Option Nat
  handTo : Option Nat
  seq : Nat
  boundary : Nat
  asm : Option Assembly
  heard : Bool
  lastSeq : Option Nat
  rxBuf : Bool
  deriving DecidableEq, Repr

end Sys2Proof.Machine
end

