-- ==== Sys2Proof/Machine/TypesTrip.lean ====
section
/-!
DEFINITION. Sys2Proof/Machine/TypesTrip.lean: the state of the degraded levels, the trip outputs and inputs, the Coaster
and the capture engine.
-/
namespace Sys2Proof.Machine

/-- A die's degraded level (R429 to R435): its own view (hubs), the level in force as last taken, the last view of each
hub that it received, its forced minimum, whether it still stands at the level of POR, the elapsed time since which no
condition or force at or above its view has stood, the elapsed time of the last SW_ALIVE write, whether that has
expired, whether each lane's loss and the time alarm have run out, and the compute dies that last reported themselves
in service. -/
structure LevelSt where
  own : Nat
  level : Nat
  views : List (Option Nat)
  force : Nat
  boot : Bool
  quiet : Option Nat
  alive : Option Nat
  expired : Bool
  lossA : Bool
  lossB : Bool
  alarm : Bool
  serving : List Nat
  deriving DecidableEq, Repr

/-- A TRIP_OUT line and its TRIP_SENSE (R36, R447 to R450): the software demand, whether one has been accepted since POR,
the demand that R36 last used, what the driver drives (none while it is off), the level sensed at the ball, the elapsed
time of the last change of the driver, that of the last change between asserted and de-asserted, TRIP_SENSE with the
elapsed time of its last change, whether it has read 1 within SENSE_WIN of the line's assertion, the elapsed time at which TCS_EN was set, and the three flags. -/
structure TripLine where
  demand : Bool
  accepted : Bool
  used : Bool
  drive : Option Bool
  level : Bool
  changed : Nat
  assertAt : Nat
  sense : Bool
  senseAt : Nat
  seen : Bool
  enabledAt : Nat
  tcsFail : Bool
  noCurrent : Bool
  driveFault : Bool
  deriving DecidableEq, Repr

/-- A binary input (R450): its accepted level, its raw level, and the elapsed time of the last accepted change. -/
structure BinIn where
  level : Bool
  raw : Bool
  at_ : Nat
  deriving DecidableEq, Repr

/-- A loaded Coaster zone (R437 to R440): the loaded registers in the order of R444, its state, whether pickup stands,
whether every valid input is BLOCKED, the inputs asserted, the tap CTS of the pickup in ns since the epoch, the elapsed
time of the trip decision, the start of a running breaker-failure timer in ns since the epoch, whether BFI alone started
it, whether it has run out, whether the zone has retripped, and a table image's zone that waits. -/
structure Zone where
  regs : List Nat
  state : Nat
  pick : Bool
  blocked : Bool
  inputs : Nat
  pickNs : Nat
  tripAt : Nat
  bf : Option Nat
  bfi : Bool
  bfDone : Bool
  retripped : Bool
  waits : Option (List Nat)
  deriving DecidableEq, Repr

/-- A loaded Coaster frame entry (R441): its bytes, CF_CFG, CF_OFF and CF_REP, stNum, sqNum, the data byte and T last sent,
and the elapsed time and the interval of the next repeat. -/
structure CoFrame where
  bytes : List Byte
  cfg : Nat
  off : Nat
  rep : Nat
  st : Nat
  sq : Nat
  data : Nat
  t : List Byte
  next : Nat
  gap : Nat
  deriving DecidableEq, Repr

/-- A hub's Coaster: its zones, its frame entries, and the latest presentation of each detector (bits FAST, SLOW,
BLOCKED). -/
structure Coaster where
  zones : Map Zone
  frames : Map CoFrame
  shown : Map Nat
  deriving DecidableEq, Repr

/-- An edge or a trigger on its way to a hub's capture engine (R398, R405, R406): the destination, the kind (1 to 8 as in
R398; 9 BLOCKED of a detector, 10 a watch fires, 11 CROSS), the hub and index of its source, the new state, its CTS. -/
structure CapIn where
  dest : Nat
  kind : Nat
  src : Nat
  index : Nat
  on : Bool
  cts : Nat
  deriving DecidableEq, Repr

/-- A trigger entry of a descriptor (R405). -/
structure TrigEnt where
  kind : Nat
  cond : Nat
  index : Nat
  threshold : Nat
  span : Nat
  deriving DecidableEq, Repr

/-- A sample that a channel has stored (R400): its slot row, its instant in ns since the epoch, its value and flags. -/
structure StoredSample where
  row : Nat
  ns : Nat
  value : Int
  flags : Nat
  deriving DecidableEq, Repr

/-- An analogue channel of a loaded record (R397): stream, channel and tap, REDUCIBLE and MEASURE, ZC_HYST, descriptor bytes
0 to 7, the tap rate; the reduction level, the last sample, CH_OFFSET of the slot, the open block's samples with the row
of its first (newest first), the samples stored in the slot (newest first), those since the last gap or change of
level, and the slot rows from which a level decided on applies (R415), one level each. -/
structure CapChan where
  stream : Nat
  chan : Nat
  filtered : Bool
  reducible : Bool
  measure : Bool
  hyst : Nat
  raw : List Byte
  rate : Nat
  level : Nat
  last : ChSample
  offset : Int
  block : List ChSample
  j0 : Nat
  stored : List StoredSample
  since : List StoredSample
  rises : List Nat
  deriving DecidableEq, Repr

/-- A tap sample that waits for its row: channel, instant in ns since the epoch, value and flags. -/
structure RowSample where
  chan : Nat
  ns : Nat
  value : Int
  flags : Nat
  deriving DecidableEq, Repr

/-- A block written in a slot: its last row, or for an event block the latest CTS of its entries in ns since the epoch. -/
structure BlockMark where
  event : Bool
  last : Nat
  deriving DecidableEq, Repr

/-- A trigger (R405, R409): kind, entry (255 for TIME and SOFTWARE), source index, and CTS. -/
structure Trigger where
  kind : Nat
  entry : Nat
  source : Nat
  cts : Nat
  deriving DecidableEq, Repr

/-- An open capture (R411, R412): its first trigger, T0, E and the start row as absolute rows, retriggers, and whether E was
capped. -/
structure OpenCap where
  first : Trigger
  t0 : Nat
  e : Nat
  start : Nat
  retriggers : Nat
  capped : Bool
  deriving DecidableEq, Repr

/-- A capture record as CAP_ENABLE loaded it, and its FILLING slot (R394 to R416). Rows are absolute: second × F + i.
`base` is the area's address, `size` a slot's; `slots` holds the slots' states, `order` the COMPLETE slots, oldest
first; `row0` and `next` are row 0 of the slot and the next row to complete; `events` are the entries of the open event
block with their CTS in ns (newest first); `blocks` the blocks written (newest first); `gap` the first row dropped and
how many. -/
structure CapRec where
  state : Nat
  cfg : Nat
  f : Nat
  pre : Nat
  post : Nat
  maxRows : Nat
  meas : Nat
  base : Nat
  size : Nat
  item : Nat
  chans : List CapChan
  bins : List Nat
  trigs : List TrigEnt
  slots : List Nat
  order : List Nat
  fill : Nat
  seq : Nat
  row0 : Nat
  next : Nat
  first : Bool
  overwrote : Bool
  dead : Nat
  pend : List RowSample
  initial : List Bool
  events : List (List Byte × Nat)
  entries : Nat
  blocks : List BlockMark
  written : Nat
  cap : Option OpenCap
  gap : Option (Nat × Nat)
  gapRows : Nat
  gapNs : Nat
  reduced : Bool
  truncated : Bool
  lost : Nat
  lostCts : Nat
  wait : List Trigger
  deriving DecidableEq, Repr

/-- A readout copy (R418): record, slot, destination, the VI through whose translation it goes, its length, whether it has
begun, the bytes copied, and whether it stops early. -/
structure CapRead where
  record : Nat
  slot : Nat
  addr : Nat
  vi : Option Nat
  len : Nat
  begun : Bool
  copied : Nat
  stopped : Bool
  deriving DecidableEq, Repr

/-- A hub's capture engine: the enabled records, the states of binary channels as the engine knows them (by kind, hub and
index), blocks that wait for their DRAM write, the readouts, the running one first, the elapsed time of the last step
of R415, and the newest tap sample that each channel of each stream has delivered, by stream, channel and tap (R400, R410). -/
structure Capture where
  recs : Map CapRec
  known : Map Bool
  waiting : List (Nat × List Byte)
  reads : List CapRead
  reducedAt : Option Nat
  heard : Map RowSample
  deriving DecidableEq, Repr

end Sys2Proof.Machine
end

