-- ==== Sys2Proof/Machine/TypesWork.lean ====
section
/-!
DEFINITION. Sys2Proof/Machine/TypesWork.lean: the state of the compute dies' engines: device-side translation, offers,
the Peloton slices and their flows, and the virtual instances.
-/
namespace Sys2Proof.Machine

/-- Which engine and destination an offer or a write into VI memory comes from (R270, R315). `engine` is the row of R315
from 0: ingest, detector, flow ring, egress, frame receive, capture readout. -/
structure Source where
  engine : Nat
  die : Nat
  index : Nat
  dest : Nat
  deriving DecidableEq, Repr

/-- An engine's offer of an item (R212, R249, R262, R321, R426). -/
structure Offer where
  src : Source
  kind : Nat
  vi : Nat
  flow : Nat
  inline : Bool
  len : Nat
  deadline : Nat
  release : Nat
  payload : Nat
  cause : Nat
  deriving DecidableEq, Repr

/-- A SEND that a release or an EG_SEND handed to a die's egress engine (R156, R288, R320): `direct` is the initiator and
sequence number of an EG_SEND. -/
structure SendReq where
  die : Nat
  vi : Nat
  entry : Nat
  len : Nat
  addr : Nat
  cause : Nat
  direct : Option (Nat × Nat)
  deriving DecidableEq, Repr

/-- A write into VI memory that has begun (R315): its writes by guest-physical address, and the offer made after it. -/
structure Job where
  src : Source
  vi : Nat
  cause : Nat
  writes : List (Nat × List Byte)
  offer : Option Offer
  deriving DecidableEq, Repr

/-- A cached translation (R317): VI, guest page, physical page, and what it lets an engine do. -/
structure Xlat where
  vi : Nat
  page : Nat
  phys : Nat
  read : Bool
  write : Bool
  deriving DecidableEq, Repr

/-- A walk under way (R317). -/
structure Walk where
  vi : Nat
  page : Nat
  write : Bool
  deriving DecidableEq, Repr

/-- The pages of a VI that a ring holds translations for: those it writes and the next ones (R317). -/
structure RingPages where
  src : Source
  vi : Nat
  pages : List Nat
  deriving DecidableEq, Repr

/-- A receive entry as RX_ENABLE loaded it (R321, R323). -/
structure RxEnt where
  match0 : Nat
  match1 : Nat
  cfg : Nat
  item : Nat
  base : Nat
  head : Nat
  gap : Bool
  faulted : Bool
  deriving DecidableEq, Repr

/-- The DEV_XLATE unit and the egress engine of a compute die beyond their registers (R317, R320): translations newest
first, walks, and the writes that have begun, oldest first; the sequence entries by MAC with their VI and next
number, the receive entries, and the pages that rings hold. -/
structure Xlate where
  cache : List Xlat
  walks : List Walk
  jobs : List Job
  seqs : Map (Nat × Nat)
  rx : Map RxEnt
  rings : List RingPages
  deriving DecidableEq, Repr

/-- States of R261. -/
inductive ItemState where
  | delayed | ready | spilled | taken | done | placeholder
  deriving DecidableEq, Repr

/-- What a completion keeps (R287). -/
inductive Action where
  | none
  | note (v : Nat)
  | send (entry addr len : Nat)
  deriving DecidableEq, Repr

/-- An item of a slice (R261, R262). `adm` numbers admissions of the slice; `slot` is its on-die slot; `inPan` says
that it lies in the Pannier, `bucket` the start of its bucket there in ns since the epoch (none in the far bucket), `spillOrder` numbers
spills. -/
structure Item where
  adm : Nat
  flow : Nat
  seq : Nat
  vi : Nat
  kind : Nat
  inline : Bool
  gap : Bool
  late : Bool
  len : Nat
  deadline : Nat
  release : Nat
  payload : Nat
  cause : Nat
  state : ItemState
  slot : Option Nat
  spillOrder : Nat
  stamp : Nat
  action : Action
  skipped : Bool
  inPan : Bool
  bucket : Option Nat
  deriving DecidableEq, Repr

/-- A take that waits (R282). `any` is a take for every VI of the slice; with the elapsed time of its start, its TIMEOUT in
µs, and whether it is one 64-bit read. -/
structure Waiter where
  ini : Nat
  any : Bool
  vi : Nat
  loc : Nat
  view : Bool
  at_ : Nat
  timeout : Nat
  wide : Bool
  deriving DecidableEq, Repr

/-- A flow as FLOW_ENABLE loaded it (R301, R302). -/
structure Flow where
  cfg : Nat
  base : Nat
  next : Nat
  admitNo : Nat
  head : Nat
  faulted : Bool
  gap : Bool
  recordsOff : Bool
  deriving DecidableEq, Repr

/-- A Peloton slice beyond its registers (R260): items by admission number, slot generations, waiters longest first, the
flows, the Pannier as PEL_START loaded it with PAN_FIRST in ns since the epoch, spills not yet written, the VIs that an ABORT walk looks for, and the CTS
of the last tick. -/
structure Slice where
  run : Bool
  items : Map Item
  nextAdm : Nat
  nextSpill : Nat
  gens : Map Nat
  waiters : List Waiter
  flows : Map Flow
  panBase : Nat
  panLog2 : Nat
  panK : Nat
  panFirst : Nat
  spillQ : List Nat
  walkVis : List Nat
  lastTick : Option Nat
  local_ : Bool
  /-- The elapsed time from which the next local tick is counted (R273). -/
  tickAt : Nat
  deriving DecidableEq, Repr

/-- A VI beyond its registers (R324 to R342): the destinations and entries that are held until the next VI_RUN (R332), its first
SHARE_APPLY has completed (R335), the MIG_COUNT of the block it was restored from, it was migrating out before
QUIESCING, a KILL runs, the elapsed time from which QTIMEOUT counts, whether that has passed, whether CUT_AT has been
reported, and the eight shares that a SHARE_APPLY under way loads. -/
structure ViSt where
  held : List Source
  applied : Bool
  restored : Nat
  out : Bool
  killed : Bool
  since : Nat
  timedOut : Bool
  cutSeen : Bool
  shares : List Nat
  deriving DecidableEq, Repr

/-- A dirty log as LOG_START loaded it (R337 to R340). -/
structure DirtyLog where
  on : Bool
  active : Nat
  base0 : Nat
  base1 : Nat
  gpaBase : Nat
  pages : Nat
  deriving DecidableEq, Repr

end Sys2Proof.Machine
end

