-- ==== Sys2Proof/Machine/State.lean ====
section
/-!
DEFINITION. Sys2Proof/Machine/State.lean: the state of the package. Registers stand in one sparse map over the
register tables; the page headers, the engines and the queues between them stand beside it as plain data.
-/
namespace Sys2Proof.Machine

/-- Why a run stops with a fault. No command of the table does: the specification gives each of them an effect.
`outsideMap` is raised by nothing in this model (safe). -/
inductive Fault where
  | outsideMap
  deriving DecidableEq, Repr

/-- Why a command has no meaning here. `notModelled` is raised by an arm of `exec` that has no meaning yet (safe). -/
inductive Refusal where
  | notModelled (mnemonic : String)
  deriving DecidableEq, Repr

/-- The three variants of R1. -/
inductive Variant where
  | kz8 | kz4 | kz2
  deriving DecidableEq, Repr

/-- The state of one Kazler package. -/
structure State where
  /-- The commands that wait, first in first out. -/
  pending : List Instr
  variant : Variant
  /-- Elapsed time in ns of the 1 GHz tick (R79). -/
  now : Nat
  /-- What the last access returned. -/
  resp : Resp
  /-- The model's own counter of free values. -/
  free : Nat
  /-- The CTS of the hand-off that the present command acts on, 0 for none (R107). -/
  cause : Nat
  /-- The counters, by die (R79). -/
  ctrs : Map Ctr
  /-- The next ORDER sequence of each source (R105), and the CTS of its last stamp (R110). -/
  seqs : Map Nat
  lastCts : Map Nat
  /-- The registers of the blocks' own maps. -/
  regs : Map Word
  /-- The page headers (R60). -/
  hdrs : Map Hdr
  /-- The banked headers (R58). -/
  banks : Map Bank
  /-- Cyclometer selects and values, by page and counter (R586), and the counts since the last AON tick (R587). -/
  cycSel : Map Nat
  cycVal : Map Nat
  cycSeen : Map Bool
  /-- Memory: SRAM windows, rings and DRAM of the physical map (R48), the addresses rising. -/
  mem : List Host.Cell
  /-- MSIs under way (R76). -/
  msis : List Msi
  /-- Pending identities of the interrupt files by address page (R308, R309), harts with a timer interrupt pending, and
  the elapsed time of the release of each die's TIME domain (R83). -/
  files : Map (List Nat)
  timers : List Nat
  /-- The compare value of each hart's timer as HART_TIMER_INTERRUPT last gave it (R309), and the address at which each hart
  last started (R345). -/
  compares : Map Nat
  starts : Map Nat
  timeZero : Map Nat
  /-- The reset controller of each die. -/
  rst : Map ResetSt
  /-- The die links (R21) and the Cadence judgement of each die (R41). -/
  links : Map LinkSt
  cads : Map CadSt
  /-- Saddlebag records under way, and the Saddlebags by hub. -/
  recs : List RecInFlight
  sbags : Map Sbag
  /-- The Cyclometers by hub, and whether each level condition held at the last AON tick, by page and counter. -/
  cys : Map CySt
  cycWas : Map Bool
  /-- The elapsed time of each die's last time-sync exchange (R85, R86). -/
  syncAt : Map Nat
  /-- The time bases by hub, steps under way, and triggers by hub × 16 + number. -/
  tbs : Map TimeBase
  steps : List PendingStep
  trigs : Map Trig
  /-- Firings on their way to their targets (R118). -/
  firings : List Firing
  /-- Key material by hub × 1024 + slot, and the four OTP roots by hub × 4 + root (R482, R484). -/
  keys : Map (List Byte)
  roots : Map (List Byte)
  /-- The vaults, by hub. -/
  vaults : Map Vault
  /-- The switches and the lane logic, by hub, and frames that left the package. -/
  switches : Map Switch
  lanes : Map Lane
  sent : List SentFrame
  /-- Live streams by hub × 1024 + entry, the batches that wait for the filter, and GAP marks of R270. -/
  streams : Map Stream
  batches : List Batch
  marks : List Source
  /-- Profiles by hub × 64 + number, stream filters and detectors by hub × 1024 + number. -/
  profiles : Map Profile
  filters : Map FilterSt
  dets : Map Det
  /-- Presentations on their way to a hub's Coaster and capture engine, and tap samples on their way to its capture. -/
  presents : List Present
  taps : List TapOut
  /-- Offers on their way to a slice, and SENDs handed to the egress engines, oldest first. -/
  offers : List Offer
  sendReqs : List SendReq
  /-- Translation and egress by compute die, the slices, the VIs, and the dirty logs by VI. -/
  xlates : Map Xlate
  slices : Map Slice
  vis : Map ViSt
  logs : Map DirtyLog
  /-- Degraded levels by die, trip lines by hub × 8 + line, binary inputs by hub × 16 + input, and the Coasters. -/
  levels : Map LevelSt
  /-- The last tick at which a LANE port of lane A (0) or of lane B (1) was UP, and the master LOCKED (2), for R430, and the
  last tick of the 25 MHz AON clock at which counters counted conditions (3), for R587. -/
  upAt : Map Nat
  lines : Map TripLine
  /-- The level that its block last drove on a configurable ball other than TRIP_OUT, by hub × 64 + ball (R529). -/
  kept : Map Bool
  bins : Map BinIn
  coasters : Map Coaster
  /-- Edges and triggers on their way to the capture engines, oldest first (R409). -/
  capIns : List CapIn
  captures : Map Capture
  /-- Cranks by die, and retain memories by hub. -/
  cranks : Map Crank
  retains : Map Retain
  /-- The role machines of the Tandem lanes, by hub. -/
  tandems : Map Tandem
  /-- Boot flashes, lease logic and updates by hub, Mechanics by die, rails by hub × 16 + entry, and log entries that wait
  for their hub's flash, oldest first. -/
  flashes : Map BootFlash
  leases : Map Lease
  mechs : Map Mech
  rails : Map Rail
  upds : Map UpdSt
  mgmtLogs : Map (List LogEntry)
  deriving DecidableEq, Repr

/-- The package as POR asserts it, before POR is released (R513, R514): every domain of every die is held, every
register stands at its reset value, memory lists nothing and no command waits. The package is the KZ8 (assumption 1). -/
def State.reset : State :=
  { pending := [], variant := .kz8, now := 0, resp := .none, free := 0, cause := 0, ctrs := [], seqs := [], lastCts := [], regs := []
    hdrs := [], banks := [], cycSel := [], cycVal := [], cycSeen := [], mem := [], msis := [], files := []
    timers := [], compares := [], starts := [], timeZero := [], rst := [], links := [], cads := [], recs := [], sbags := [], cys := []
    cycWas := [], syncAt := [], tbs := [], steps := [], trigs := [], firings := [], keys := [], roots := [], vaults := []
    switches := [], lanes := [], sent := [], streams := [], batches := [], marks := [], profiles := []
    filters := [], dets := [], presents := [], taps := [], offers := [], sendReqs := [], xlates := []
    slices := [], vis := [], logs := [], levels := [], upAt := [], lines := [], kept := [], bins := [], coasters := [], capIns := []
    captures := [], cranks := [], retains := [], tandems := [], flashes := [], leases := [], mechs := []
    rails := [], upds := [], mgmtLogs := [] }

/-- What a step answers. -/
abbrev Out := Host.Outcome State Fault Refusal

end Sys2Proof.Machine
end

