-- ==== Sys2Proof/Machine/Ops.lean ====
section
/-!
DEFINITION. Sys2Proof/Machine/Ops.lean: the named operations over registers, memory, counters, stamps and records.
-/
namespace Sys2Proof.Machine

/-! ### Dies, pages and registers -/

/-- A die of the variant (R1). -/
def present (s : State) (die : Nat) : Bool :=
  match s.variant with
  | .kz8 => decide (die < 8)
  | .kz4 => decide (die < 4)
  | .kz2 => decide (die = 0 ∨ die = 2)

/-- Hub dies are dies 0 and 1 (R1). -/
def isHub (die : Nat) : Bool := decide (die < 2)

/-- The hub dies of the variant. -/
def hubs (s : State) : List Nat := [0, 1].filter (present s)

/-- The compute dies of the variant. -/
def computeDies (s : State) : List Nat := [2, 3, 4, 5, 6, 7].filter (present s)

/-- Every die of the variant. -/
def diesOf (s : State) : List Nat := hubs s ++ computeDies s

/-- Where a page lies: its die and, for the pages of one type on one die, the cluster. A VI's view pages lie at
`viewLoc` instead. -/
def dieLoc (die cluster : Nat) : Nat := die + 8 * cluster

/-- Where the view pages of VI `v` lie (R73). -/
def viewLoc (v : Nat) : Nat := 8 * v

/-- The number under which a page's header stands. -/
def pageKey (loc : Nat) (b : Block) : Nat := loc * 65536 + blockCode b

/-- The die part of a page's place. -/
def locDie (loc : Nat) : Nat := loc % 8

/-- The number under which a register stands: place, instance, bank (127 where the register is not banked), block
code and offset. -/
def regKey (loc inst bank code off : Nat) : Nat :=
  ((loc * 8192 + inst) * 128 + bank) * 268435456 + code * 4096 + off

/-- The region codes that a die's Cadence monitors may name (R617). -/
def cadRegions (die : Nat) : List Nat :=
  if isHub die then [0x01, 0x02, 0x03, 0x04, 0x05, 0x06, 0x07, 0x08, 0x09]
  else [0x08, 0x09, 0x10, 0x11, 0x12, 0x13, 0x14, 0x15, 0x16]

/-- A word of PM_FUSES: the fused nibble of each configurable ball of R528, 0 where it is not WRITTEN, and 0 for the reserved
balls 24 to 63. -/
def pinFuses (f off : Nat) : Nat :=
  (List.range (min 8 (24 - (off - 0xA00) / 4 * 8))).foldl
    (fun m i => m + (if bit f (4 * i + 3) then fld f (4 * i + 3) (4 * i) * 2 ^ (4 * i) else 0)) 0

/-- A fused register's value, with its reserved bits 0 (R11). The region of a Cadence monitor is one of those that R617
lists for the die. -/
def fusedVal (r : Reg) (loc inst : Nat) : Nat :=
  let f := (Config.fused (blockCode r.blk) r.off (locDie loc) inst).toNat
  if r.blk = .option ∧ 0xA00 ≤ r.off ∧ r.off < 0xA20 then (if isHub loc then pinFuses f r.off else 0)
  else if r.blk = .cadence ∧ r.off = 0x104 then ((cadRegions (locDie loc))[f % 9]?).getD 0x08 else f &&& r.mask

/-- The reset value of a register (R60). `CT_CFG` resets to the task's number (R390); the queues of classes 4 to 7
reset to 0 (R168). -/
def resetVal (r : Reg) (loc inst : Nat) : Nat :=
  if r.blk = .keyVault ∧ r.off = 0x804 then
    let f := (Config.fused (blockCode r.blk) r.off (locDie loc) 0).toNat
    min 64 (fld f 14 8) * 256 + min (min 64 (fld f 14 8)) (fld f 22 16) * 65536
  else if r.fused then fusedVal r loc inst
  else if r.blk = .crankTask ∧ r.off = 0x108 then inst
  else if r.blk = .qos ∧ r.off = 0x100 ∧ 4 ≤ inst % 8 then 0
  else r.rst

/-- The width of a register in bits. -/
def regBits (r : Reg) : Nat := if r.wide then 64 else 32

/-- Read a register of instance `inst` (0 outside the instance window). -/
def rd (s : State) (loc : Nat) (r : Reg) (inst : Nat) : Nat :=
  (mget (BitVec.ofNat 64 (resetVal r loc inst)) s.regs (regKey loc inst 127 (blockCode r.blk) r.off)).toNat

/-- Set a register of instance `inst`, cut to its width. -/
def wr (s : State) (loc : Nat) (r : Reg) (inst v : Nat) : State :=
  { s with regs := mput (regKey loc inst 127 (blockCode r.blk) r.off) (BitVec.ofNat 64 (v % 2 ^ regBits r)) s.regs }

/-- Read an initiator's copy of a banked register (R58). -/
def rdB (s : State) (loc : Nat) (r : Reg) (ini : Nat) : Nat :=
  (mget (BitVec.ofNat 64 (resetVal r loc 0)) s.regs (regKey loc 0 ini (blockCode r.blk) r.off)).toNat

/-- Set an initiator's copy of a banked register. -/
def wrB (s : State) (loc : Nat) (r : Reg) (ini v : Nat) : State :=
  { s with regs := mput (regKey loc 0 ini (blockCode r.blk) r.off) (BitVec.ofNat 64 (v % 2 ^ regBits r)) s.regs }

/-- Add to a counter register, wrapping at its width. -/
def incr (s : State) (loc : Nat) (r : Reg) (inst k : Nat) : State := wr s loc r inst (rd s loc r inst + k)

/-- Add to a counter register, saturating at its width. -/
def incrSat (s : State) (loc : Nat) (r : Reg) (inst k : Nat) : State :=
  wr s loc r inst (satAdd (regBits r) (rd s loc r inst) k)

/-- Set a list of registers of one instance to their values. -/
def wrAll (s : State) (loc inst : Nat) (rs : List (Reg × Nat)) : State :=
  rs.foldl (fun t e => wr t loc e.1 inst e.2) s

/-- Return registers of one instance to 0 (a CLEAR_COUNTERS command). -/
def clearRegs (s : State) (loc inst : Nat) (rs : List Reg) : State :=
  rs.foldl (fun t r => wr t loc r inst 0) s

/-- Return registers of instances `lo` to `lo + n - 1` to 0. -/
def clearInsts (s : State) (loc lo n : Nat) (rs : List Reg) : State :=
  { s with regs := mkeep (fun k => !(rs.any (fun r => (k % 268435456 == blockCode r.blk * 4096 + r.off)) &&
      (k / 268435456 / 128 / 8192 == loc) && decide (lo ≤ k / 268435456 / 128 % 8192) &&
      decide (k / 268435456 / 128 % 8192 < lo + n))) s.regs }

/-- The header after reset. -/
def Hdr.empty : Hdr := ⟨false, 0, 0, 0, 0, 0, 0, 0, 0, 0, 0, 0, 0, 0, 0, []⟩

/-- The banked header after reset. -/
def Bank.empty : Bank := ⟨0, 0, 0, 0, 0, none⟩

/-- The header of a page. -/
def hdr (s : State) (loc : Nat) (b : Block) : Hdr := mget Hdr.empty s.hdrs (pageKey loc b)

/-- Set the header of a page. -/
def setHdr (s : State) (loc : Nat) (b : Block) (h : Hdr) : State := { s with hdrs := mput (pageKey loc b) h s.hdrs }

/-- The banked header of an initiator in a page. -/
def bank (s : State) (loc : Nat) (b : Block) (ini : Nat) : Bank :=
  mget Bank.empty s.banks (pageKey loc b * 128 + ini)

/-- Set the banked header of an initiator in a page. -/
def setBank (s : State) (loc : Nat) (b : Block) (ini : Nat) (k : Bank) : State :=
  { s with banks := mput (pageKey loc b * 128 + ini) k s.banks }

/-- Set STATUS of a page. -/
def setStatus (s : State) (loc : Nat) (b : Block) (v : Nat) : State :=
  setHdr s loc b { hdr s loc b with status := v }

/-! ### Memory -/

/-- What a byte of memory reads as before anything has written it. The specification leaves it undefined (R514);
DESIGN CHOICE, assumption 3. -/
def unwritten : Byte := 0


/-- Memory with one byte written, in its canonical form: a byte that an unlisted address reads as is not listed. -/
def memPut (a : Nat) (v : Byte) (m : List Host.Cell) : List Host.Cell :=
  if v = unwritten then mdel a m else mput a v m

/-- Memory with bytes written from an address upward. -/
def memPuts : Nat → List Byte → List Host.Cell → List Host.Cell
  | _, [], m => m
  | a, b :: bs, m => memPuts (a + 1) bs (memPut a b m)

/-- Memory with bytes written from an address upward, where `ok` says that the address holds memory. -/
def memPutsIn (ok : Nat → Bool) : Nat → List Byte → List Host.Cell → List Host.Cell
  | _, [], m => m
  | a, b :: bs, m => memPutsIn ok (a + 1) bs (if ok a then memPut a b m else m)

/-- The canonical form of memory: addresses rise and no entry equals what an unlisted address reads as. -/
abbrev Memory.wf (m : List Host.Cell) : Prop :=
  m.Pairwise (fun a b => a.1 < b.1) ∧ ∀ c ∈ m, c.2 ≠ unwritten

/-- Base of a die's control space (R48). -/
def ctrlBase (die : Nat) : Nat := 0x0F00000000 + die * 0x04000000

/-- Base of a die's DRAM window (R48). -/
def dramBase (die : Nat) : Nat := 0x1000000000 + die * 0x1000000000

/-- The sample store of a compute die (R49). -/
def sampleStore (die : Nat) : Nat := ctrlBase die + 0x0400000

/-- The Saddlebag ring of a hub (R49, R575). -/
def sbRing (hub : Nat) : Nat := ctrlBase hub + 0x0400000

/-- Bytes of DRAM fitted to a die's channel, by DR_SIZE in GiB (R613). -/
def dramBytes (s : State) (die : Nat) : Nat := rd s die R.DR_SIZE 0 * 0x40000000

/-- A range of physical addresses lies in the DRAM fitted to a die. -/
def inDram (s : State) (die base len : Nat) : Bool :=
  decide (dramBase die ≤ base ∧ base + len ≤ dramBase die + dramBytes s die)

/-- What the physical address map has at an address (R48, R49). -/
inductive MapPlace where
  /-- Hart-local space (R308). -/
  | hartLocal
  /-- A register page of a die, by its index. -/
  | page (die index : Nat)
  /-- A page of a VI page group. -/
  | view (vi page : Nat)
  /-- The SRAM windows: sample store, Saddlebag ring, capture staging, Peloton slice, Crank cells and variables. -/
  | store (die : Nat)
  | ring (die : Nat)
  | staging (die : Nat)
  | slice (die : Nat)
  | cells (die : Nat)
  /-- DRAM fitted to a die's channel. -/
  | dram (die : Nat)
  /-- A reserved range, or DRAM above what is fitted (R50). -/
  | reserved
  /-- The control space or DRAM window of an absent die (R50). -/
  | absent (die : Nat)
  deriving DecidableEq, Repr

/-- What a die's control space has at an offset (R49). -/
def ctrlPlace (die off : Nat) : MapPlace :=
  if off < 0x0100000 then .page die (off / 0x1000)
  else if isHub die then
    if 0x0400000 ≤ off ∧ off < 0x0440000 then .ring die
    else if 0x0800000 ≤ off ∧ off < 0x0980000 then .staging die
    else .reserved
  else if 0x0400000 ≤ off ∧ off < 0x0800000 then .store die
  else if 0x0800000 ≤ off ∧ off < 0x0900000 then .slice die
  else if 0x0900000 ≤ off ∧ off < 0x0A00000 then .cells die
  else .reserved

/-- The address map of the package (R48 to R50). -/
def mapPlace (s : State) (a : Nat) : MapPlace :=
  if a < 0x0F00000000 then .hartLocal
  else if a < 0x0F20000000 then
    let die := (a - 0x0F00000000) / 0x04000000
    if present s die then ctrlPlace die ((a - 0x0F00000000) % 0x04000000) else .absent die
  else if a < 0x0F21000000 then .view ((a - 0x0F20000000) / 0x10000) ((a - 0x0F20000000) % 0x10000 / 0x1000)
  else if a < 0x1000000000 then .reserved
  else if a < 0x9000000000 then
    let die := (a - 0x1000000000) / 0x1000000000
    if !(present s die) then .absent die
    else if (a - 0x1000000000) % 0x1000000000 < dramBytes s die then .dram die
    else .reserved
  else .reserved

/-- The address holds memory: an SRAM window or fitted DRAM. -/
def memHolds (s : State) (a : Nat) : Bool :=
  match mapPlace s a with
  | .store _ | .ring _ | .staging _ | .slice _ | .cells _ | .dram _ => true
  | _ => false

/-- Read a byte of memory; an address that holds none reads 0 (R50). -/
def readByte (s : State) (a : Nat) : Byte := if memHolds s a then mget unwritten s.mem a else 0

/-- Write bytes to memory from an address upward; an address that holds none ignores them (R50). -/
def writeBytes (s : State) (a : Nat) (bs : List Byte) : State := { s with mem := memPutsIn (memHolds s) a bs s.mem }

/-- Read `n` bytes of memory. -/
def readBytes (s : State) (a n : Nat) : List Byte := (List.range n).map (fun i => readByte s (a + i))

/-- Read an unsigned value of `n` bytes, little-endian (R8). -/
def readLE (s : State) (a n : Nat) : Nat := ofBytesLE (readBytes s a n)

/-- Write a value of `n` bytes, little-endian (R8). -/
def writeLE (s : State) (a n v : Nat) : State := writeBytes s a (bytesLE n v)

/-- A range of addresses meets the space of an absent die, so an access to it ends in a fault (R50). -/
def meetsAbsent (s : State) (a len : Nat) : Bool :=
  [a, a + (len - 1)].any (fun x => match mapPlace s x with | .absent _ => true | _ => false)

/-! ### Counters and stamps -/

/-- A counter before its first setting (R87). -/
def Ctr.empty : Ctr := ⟨false, 0, 0, 0⟩

/-- The counter of a die. -/
def ctr (s : State) (die : Nat) : Ctr := mget Ctr.empty s.ctrs die

/-- A counter's CTS (R81): 0 while it is not valid, and 1 where the value would be 0. -/
def ctsOf (c : Ctr) : Nat :=
  if c.valid then max 1 (c.sec % 2 ^ 34 * 2 ^ 30 + c.ns) else 0

/-- CTS_NOW of a die. -/
def ctsNow (s : State) (die : Nat) : Nat := ctsOf (ctr s die)

/-- Nanoseconds of TAI since the epoch on a die's counter. -/
def taiNs (s : State) (die : Nat) : Nat := (ctr s die).sec * 1000000000 + (ctr s die).ns

/-- The CTS of full seconds and nanoseconds (R81). -/
def ctsMk (sec ns : Nat) : Nat := max 1 (sec % 2 ^ 34 * 2 ^ 30 + ns)

/-- The CTS of nanoseconds since the epoch. -/
def ctsOfNs (t : Nat) : Nat := ctsMk (t / 1000000000) (t % 1000000000)

/-- Full seconds of a CTS that may lie in the future, against the present full seconds (R112). -/
def fullSec (nowSec cts : Nat) : Nat :=
  let full := nowSec / 2 ^ 34 * 2 ^ 34 + cts / 2 ^ 30
  if nowSec + 2 ^ 33 < full then full - 2 ^ 34
  else if full + 2 ^ 33 < nowSec then full + 2 ^ 34
  else full

/-- Nanoseconds since the epoch of a CTS that may lie in the future (R112). -/
def ctsNs (nowSec cts : Nat) : Nat := fullSec nowSec cts * 1000000000 + cts % 2 ^ 30

/-- The CTS lies at or before the present of the die's counter (R112). -/
def ctsDue (s : State) (die cts : Nat) : Bool :=
  (ctr s die).valid && decide (ctsNs (ctr s die).sec cts ≤ taiNs s die)

/-- Nanoseconds that a CTS lies ahead of the die's counter; 0 where it does not. -/
def ctsAhead (s : State) (die cts : Nat) : Nat := ctsNs (ctr s die).sec cts - taiNs s die

/-- The later of the counter's CTS and the cause's CTS plus 1 ns (R107). -/
def laterCts (nowCts cause : Nat) : Nat :=
  if nowCts = 0 then 0
  else if nowCts ≤ cause then
    if cause % 2 ^ 30 + 1 < 1000000000 then cause + 1 else (cause / 2 ^ 30 + 1) % 2 ^ 34 * 2 ^ 30
  else nowCts

/-- The ORDER tag of a stamp (R105). -/
def orderTag (die src seq : Nat) : Nat := die % 8 * 2 ^ 29 + src % 512 * 2 ^ 20 + seq % 2 ^ 20

/-- Where a source's sequence counter stands: the sources from 256 up of a die by number, its pages by page. -/
def srcKey (die src : Nat) : Nat := die * 512 + src

/-- Where a page's sequence counter stands. -/
def pageSeqKey (loc : Nat) (b : Block) : Nat := 4096 + pageKey loc b

/-- The CTS of a stamp taken at a reading of the counter: later than the cause that the source acts on (R107), and no
earlier than the source's last stamp, where that one was raised above the counter (R110). -/
def stampCts (nowCts cause last : Nat) : Nat :=
  let c := laterCts nowCts cause
  if c < last ∧ last < c + 2 ^ 30 ∧ nowCts ≠ 0 then last else c

/-- The CTS that a source with sequence counter `key` on a die stamps now, for a given cause. -/
def srcCts (s : State) (die key cause : Nat) : Nat :=
  stampCts (ctsNow s die) (max cause s.cause) (mget 0 s.lastCts key)

/-- A source takes the stamp: its sequence goes on (R105). -/
def tookStamp (s : State) (die key cause : Nat) : State :=
  { s with
    seqs := mput key ((mget 0 s.seqs key + 1) % 2 ^ 20) s.seqs
    lastCts := mput key (srcCts s die key cause) s.lastCts }

/-- The stamp a source of a die takes now, for a given cause (R105, R107); 0 for no cause but the command's own. -/
def stampOf (s : State) (die src cause : Nat) : Stamp :=
  ⟨srcCts s die (srcKey die src) cause, orderTag die src (mget 0 s.seqs (srcKey die src))⟩

/-- Advance a source's sequence, as taking a stamp for a given cause does (R105). -/
def tickSrcBy (s : State) (die src cause : Nat) : State := tookStamp s die (srcKey die src) cause

/-- Advance a source's sequence, as taking a stamp does (R105). -/
def tickSrc (s : State) (die src : Nat) : State := tickSrcBy s die src 0

/-- What a state becomes by an operation that acts on a hand-off with a CTS (R107). -/
def causedBy (cts : Nat) (f : State → State) (s : State) : State :=
  { f { s with cause := max s.cause cts } with cause := s.cause }

/-- Where a die's page stands in a list of all the pages that a die may have, from 1. -/
def pageSlot (loc : Nat) (b : Block) : Nat := blockAll.idxOf b + loc / 8 + 1

/-- The page index of a page of a die (R52): any of 1 to 255, no two pages of a die alike. The device's choice is open; it
stands as the exchanges that bring each place of the list to its index. -/
def pageIndexOf (die slot : Nat) : Nat :=
  (List.range 50).foldr (fun i p =>
    let t := 1 + Config.pageIndex die i % 255
    if p = i + 1 then t else if p = t then i + 1 else p) slot

/-- The page index of a page (R52). A view page has none on its die; the source of its ORDER tags is a number that the device
fixes (DESIGN CHOICE, assumption 110). -/
def pageIndex (loc : Nat) (b : Block) : Nat :=
  if b = .index then 0
  else if blockIsView b then Config.viewSource (blockCode b) (loc / 8) % 256
  else pageIndexOf (locDie loc) (pageSlot loc b)

/-- The die whose counter stamps a page: a view is stamped where it is served. -/
def stampDie (servedBy loc : Nat) (b : Block) : Nat := if blockIsView b then servedBy else locDie loc

/-- The stamp a page takes now, for a given cause (R78, R107). A view page's ORDER tag names the source that `pageIndex` gives
it (assumption 110). -/
def pageStamp (s : State) (die loc : Nat) (b : Block) (cause : Nat) : Stamp :=
  ⟨srcCts s die (pageSeqKey loc b) cause, orderTag die (pageIndex loc b) (mget 0 s.seqs (pageSeqKey loc b))⟩

/-- Advance a page's sequence, for a stamp taken by a die for a given cause. -/
def tickPageBy (s : State) (die loc : Nat) (b : Block) (cause : Nat) : State := tookStamp s die (pageSeqKey loc b) cause

/-- Advance a page's sequence. -/
def tickPage (s : State) (loc : Nat) (b : Block) : State := tickPageBy s (locDie loc) loc b 0

/-! ### Free values -/

/-- A free value: one that the specification leaves open. -/
def freeNat (s : State) : Nat := (Config.freeValue s.free).toNat

/-- The state after a free value was drawn. -/
def drew (s : State) : State := { s with free := s.free + 1 }

/-- An integer quotient whose rounding the specification does not state: one of the two neighbours, chosen by a
free value of the operands (assumption 8). -/
def divFree (a : Int) (b : Nat) : Int :=
  if a % (b : Int) = 0 then a / (b : Int)
  else a / (b : Int) + (if Config.roundUp a b then 1 else 0)

/-! ### Reset domains -/

/-- The reset controller right after POR (R514). -/
def ResetSt.por : ResetSt :=
  ⟨[8191, 0, 0, 0, 0, 0, 0, 0], [], 0, 0, 0, 0, 0, false, 0, [0, 0, 0, 0, 0], 0, 0, false, false, true, 0, false, true, false, 0⟩

/-- The reset controller of a die. -/
def rstOf (s : State) (die : Nat) : ResetSt := mget ResetSt.por s.rst die

/-- The source of a die's reset and Kickstand controller (R106, R523). -/
def rkSrc (die : Nat) : Nat := if isHub die then 317 else 277

/-- The CTS that the reset and Kickstand controller takes (R523): the die's counter, else the AON shadow counter, else 0. -/
def rcCts (s : State) (die : Nat) : Nat :=
  if (ctr s die).valid then srcCts s die (srcKey die (rkSrc die)) 0
  else if (rstOf s die).shadowValid then ctsOfNs (rstOf s die).shadow else 0

/-- Set the reset controller of a die. -/
def setRst (s : State) (die : Nat) (r : ResetSt) : State := { s with rst := mput die r s.rst }

/-- The domains that some asserted source covers (R35). -/
def heldMask (r : ResetSt) : Nat := (r.pulses.map (·.mask) ++ r.holds).foldl (fun m k => m ||| k) 0

/-- The domain is in RUN (R512). AON runs whenever POR does not stand (R511). -/
def domRun (s : State) (die dom : Nat) : Bool :=
  present s die &&
  (if dom = 0 then !(bit (heldMask (rstOf s die)) 0)
   else bit (rstOf s die).released dom && !(bit (heldMask (rstOf s die)) dom))

/-- The die's DRAM channel is READY; one that is not counts as a held DRAM domain (R611). -/
def dramRun (s : State) (die : Nat) : Bool := domRun s die 6 && rd s die R.DR_STATE 0 % 4 == 1

/-- A domain that the die does not have (R511). -/
def domEmpty (die dom : Nat) : Bool :=
  if isHub die then decide (dom = 10 ∨ dom = 11 ∨ dom = 12)
  else decide (dom = 2 ∨ dom = 3 ∨ dom = 8 ∨ dom = 9)

/-! ### Saddlebag records -/

/-- LK_STATE of an end that is not down (R21, R23): UP, or retraining outside a LINK_RESTORE. -/
def lkAlive (v : Nat) : Bool := v % 4 == 2 || (v % 4 == 1 && !(bit v 8))

/-- A Spoke is not down (R21): the SPOKE page of the compute die shows hub A in instance 0 and hub B in instance 1, the page of
a hub compute die `d` in instance `d - 2` (R23). Traffic moves to another path only once a link is declared down; while it
retrains its flits wait and are resent. -/
def spokeAlive (s : State) (die hub : Nat) : Bool :=
  lkAlive (rd s die R.SPOKE_LK_STATE hub) && lkAlive (rd s hub R.SPOKE_LK_STATE (die - 2))

/-- The Axle is not down (R21). -/
def axleAlive (s : State) : Bool :=
  present s 0 && present s 1 && lkAlive (rd s 0 R.AXLE_LK_STATE 0) && lkAlive (rd s 1 R.AXLE_LK_STATE 0)

/-- A die can be reached from a hub (R20, R447). -/
def lineReach (s : State) (die hub : Nat) : Bool :=
  present s die && (spokeAlive s die hub || (axleAlive s && spokeAlive s die (1 - hub)))

/-- A compute die reaches a hub: over its own Spoke, or over the other hub and the Axle (R20). -/
def reachesHub (s : State) (die hub : Nat) : Bool :=
  present s hub && (spokeAlive s die hub || (spokeAlive s die (1 - hub) && axleAlive s))

/-- Traffic between two dies finds a path (R20): between two compute dies through hub A, through hub B where a Spoke to
hub A is down, or over the Axle where one reaches only hub A and the other only hub B. -/
def diesReach (s : State) (a b : Nat) : Bool :=
  if a = b then true
  else if isHub a && isHub b then axleAlive s
  else if isHub a then reachesHub s b a
  else if isHub b then reachesHub s a b
  else (hubs s).any (fun h => spokeAlive s a h && reachesHub s b h)

/-- The hubs whose Saddlebags take a die's record (R570). -/
def sbHubs (s : State) (die : Nat) : List Nat :=
  if isHub die then [die] else (hubs s).filter (reachesHub s die)

/-- The code of a block's record (R572): the low 8 bits of the type code, and the event. -/
def recCode (b : Block) (low : Nat) : Nat := blockCode b % 256 * 256 + low

/-- The first word of a block record's payload (R572). -/
def recWord0 (ev inst idx : Nat) : Nat := ev % 2 ^ 32 + inst % 2 ^ 16 * 2 ^ 32 + idx % 256 * 2 ^ 48

/-- Send a record on its way (R570). -/
def sendRec (s : State) (die : Nat) (r : Rec) : State :=
  { s with recs := s.recs ++ (sbHubs s die).map (fun h => ⟨h, r⟩) }

/-- Send a block's record. `low` is code [7:0]; `ev` says whether an EVENT bit goes with it (R572). -/
def record (s : State) (die loc : Nat) (b : Block) (st : Stamp) (plane low : Nat) (ev : Bool) (inst : Nat)
    (words : List Nat) : State :=
  sendRec s die ⟨st.cts, st.order, plane, false, recCode b low,
    recWord0 (if ev then (hdr s loc b).event else 0) inst (pageIndex loc b) :: words⟩

/-- The plane whose queue takes a page's own records (R573): control where the page's PLANE names it, management
otherwise. -/
def pagePlane (b : Block) : Nat := if (blockPlane b).control then 1 else 2

/-! ### Cyclometer counters -/

/-- Where counter `n` of a page stands (R586). -/
def cycKey (loc : Nat) (b : Block) (n : Nat) : Nat := pageKey loc b * 8 + n

/-- A counter's select counts this event (R586, R587). -/
def cycMatch (sel code inst : Nat) (vi : Option Nat) : Bool :=
  sel % 256 == code && code != 0 && (!(bit sel 9) || fld sel 23 12 == inst) &&
  (!(bit sel 10) || (match vi with | none => true | some v => fld sel 31 24 == v))

/-- One event counted by the counters of a page (R587). `vi` is `none` for codes without the VI filter. -/
def cyc (s : State) (loc : Nat) (b : Block) (code inst weight : Nat) (vi : Option Nat) : State :=
  let hit := fun n => cycMatch (mget 0 s.cycSel (cycKey loc b n)) code inst vi
  let edge := (List.range 8).filter (fun n => hit n && !(bit (mget 0 s.cycSel (cycKey loc b n)) 8))
  let level := (List.range 8).filter (fun n => hit n && bit (mget 0 s.cycSel (cycKey loc b n)) 8)
  { s with
    cycVal := edge.foldl (fun m n => mmod 0 (cycKey loc b n) (fun v => wrapAdd 48 v weight) m) s.cycVal
    cycSeen := level.foldl (fun m n => mput (cycKey loc b n) true m) s.cycSeen }

/-- Answer an access with a value. -/
def respond (s : State) (v : Nat) : State := { s with resp := .value v }

/-- The state in which a command leaves off. -/
def outState (s : State) : Out → State
  | .next t => t
  | _ => s

end Sys2Proof.Machine
end

