-- ==== Sys2Proof/Machine/Flags.lean ====
section
/-!
DEFINITION. Sys2Proof/Machine/Flags.lean: EVENT bits, SET_AGAIN and interrupts (R67 to R69, R76).
-/
namespace Sys2Proof.Machine

/-- The compute die on which a VI is homed (R324): the one whose VI_CTRL shows it not FREE; die 2 where none does. -/
def viHome (s : State) (v : Nat) : Nat :=
  ((computeDies s).find? (fun d => rd s d R.VI_STATE v % 8 != 0)).getD 2

/-- The hub that serves TIMER_VIEW (R73): hub A, or hub B while hub A's time base does not run. -/
def timerHub (s : State) : Nat := if domRun s 0 5 || !(domRun s 1 5) then 0 else 1

/-- The hub that serves EGRESS_VIEW (R155): hub A, or hub B while hub A's switch does not run. -/
def egressHub (s : State) : Nat := if domRun s 0 7 || !(domRun s 1 7) then 0 else 1

/-- The hub that serves a view whose engines stand in both hubs, where no initiator chooses one (R73): hub A, or hub B while
the view's domain does not run at hub A. -/
def viewHub (s : State) (b : Block) : Nat :=
  if domRun s 0 (blockDomain b) || !(domRun s 1 (blockDomain b)) then 0 else 1

/-- The die that serves a page (R73). -/
def serveDie (s : State) (loc : Nat) (b : Block) : Nat :=
  match b with
  | .viIndex | .pelotonView | .flowView => viHome s (loc / 8)
  | .crankView => ((computeDies s).find? (fun d => bit (rd s d R.CR_CFG 0) 8 && rd s d R.CR_CFG 0 % 256 == loc / 8)).getD 2
  | .timerView => timerHub s
  | .egressView => egressHub s
  | .sampleView | .captureView | .keyView => viewHub s b
  | .counterView | .viewReserved => 0
  | _ => locDie loc

/-- The domain that holds the page runs, so the page's hardware may update it (R616). -/
def pageRun (s : State) (loc : Nat) (b : Block) : Bool := domRun s (serveDie s loc b) (blockDomain b)

/-- The plane in which a page's MSIs travel (R77): 2 management where it alone owns the page, else 1 control. -/
def msiPlane (b : Block) : Nat := if (blockPlane b).management && !(blockPlane b).control then 2 else 1

/-- Send the MSI of an MSI_ROUTE entry in a plane, if the entry is valid (R75, R76). -/
def routeMsi (s : State) (die entry plane : Nat) : Option Msi :=
  if rd s die R.MSI_VALID entry % 2 = 1 then
    some ⟨rd s die R.MSI_ADDR_HI entry % 256 * 2 ^ 32 + fld (rd s die R.MSI_ADDR_LO entry) 31 12 * 4096,
      rd s die R.MSI_DATA entry % 2048, plane⟩
  else none

/-- A header with an EVENT bit set by hardware (R67): a bit that was 1 is counted in SET_AGAIN. -/
def hdrSet (h : Hdr) (n : Nat) : Hdr :=
  if bit h.event n then { h with setAgain := n % 256 * 2 ^ 16 + satAdd 16 (h.setAgain % 2 ^ 16) 1 }
  else { h with event := h.event + 2 ^ n }

/-- The set raises an interrupt: the bit was 0, it is enabled and IRQ_TARGET.EN is 1 (R67, R76). -/
def setRaises (h : Hdr) (n : Nat) : Bool := !(bit h.event n) && bit h.eventEn n && bit h.irqTarget 31

/-- Stamp an interrupt raise and send its MSI (R76). An entry that is not valid sends none. -/
def raiseMsi (s : State) (loc : Nat) (b : Block) : State :=
  let d := serveDie s loc b
  let st := pageStamp s d loc b 0
  let s1 := setHdr (tickPageBy s d loc b 0) loc b { hdr s loc b with irqStamp := st.cts, irqOrder := st.order }
  let s2 := cyc s1 loc b 0x08 0 1 none
  { s2 with msis := s2.msis ++ (routeMsi s d ((hdr s loc b).irqTarget % 256) (msiPlane b)).toList }

/-- The hardware of a page sets an EVENT bit, without the case of an MSI_ROUTE entry that is not valid. -/
def hwSet (s : State) (loc : Nat) (b : Block) (n : Nat) : State :=
  if pageRun s loc b then
    let h := hdr s loc b
    let s1 := cyc (setHdr s loc b (hdrSet h n)) loc b (if bit h.event n then 0x05 else 0x04) 0 1 none
    let s2 := if bit h.event n then cyc s1 loc b 0x04 0 1 none else s1
    if setRaises h n then raiseMsi s2 loc b else s2
  else s

/-- An interrupt of the page would meet an MSI_ROUTE entry that is not valid. -/
def routeInvalid (s : State) (loc : Nat) (b : Block) : Bool :=
  (routeMsi s (serveDie s loc b) ((hdr s loc b).irqTarget % 256) 1).isNone

/-- MSI_ROUTE of a die sets ROUTE_INVALID (R76). Where its own interrupt meets an entry that is not valid, that sets the bit
again; the bit then stands, so no further interrupt follows. -/
def routeFails (s : State) (die : Nat) : State :=
  let s1 := hwSet s die .msiRoute 0
  if pageRun s die .msiRoute && setRaises (hdr s die .msiRoute) 0 && routeInvalid s die .msiRoute then hwSet s1 die .msiRoute 0 else s1

/-- The hardware of a page sets an EVENT bit (R67). An interrupt whose MSI_ROUTE entry is not valid sends no MSI and
sets ROUTE_INVALID on the die's MSI_ROUTE page (R76). -/
def hwEvent (s : State) (loc : Nat) (b : Block) (n : Nat) : State :=
  let s1 := hwSet s loc b n
  if pageRun s loc b && setRaises (hdr s loc b) n && routeInvalid s loc b then
    routeFails s1 (serveDie s loc b)
  else s1

/-- An interrupt raised by enabling a standing bit (R69). -/
def raiseIrq (s : State) (loc : Nat) (b : Block) : State :=
  if bit (hdr s loc b).irqTarget 31 then
    let s1 := raiseMsi s loc b
    if routeInvalid s loc b then routeFails s1 (serveDie s loc b) else s1
  else s

/-- An EVENT bit set together with a record that carries the EVENT value after the set (R572). The stamp is the
record's. -/
def eventRec (s : State) (die loc : Nat) (b : Block) (st : Stamp) (plane n inst : Nat) (words : List Nat) : State :=
  record (hwEvent s loc b n) die loc b st plane n true inst words

end Sys2Proof.Machine
end

