-- ==== Sys2Proof/Machine/Operands.lean ====
section
/-!
DEFINITION. Sys2Proof/Machine/Operands.lean: the operands of an access or a command. Which page it reaches, whether
the page takes it (R28, R50, R54, R74, R616), which instance SEL chooses (R59), and which register an offset names.
-/
namespace Sys2Proof.Machine

/-- The initiator classes of R57 (class H has no identity). -/
inductive Class where
  | c | m | d
  deriving DecidableEq, Repr

/-- The class of an initiator identity (R57). -/
def classOf (ini : Nat) : Class :=
  if ini < 96 then .c else if ini < 104 then .m else if ini = 112 then .d else .c

/-- A hart, by identity (R57). -/
def isHart (ini : Nat) : Bool := decide (ini < 96)

/-- The compute die of a hart. -/
def hartDie (ini : Nat) : Nat := 2 + ini / 16

/-- The Mechanic of a die (R57). -/
def isMech (ini : Nat) : Bool := decide (96 ≤ ini ∧ ini < 104)

/-- A hart with V = 0. -/
def hostHart (w : Who) : Bool := isHart w.ini && w.vi.isNone

/-- Where a page lies: a view in its VI's group, a HART_CLUSTER page at its cluster, every other page once on its die. -/
def pageLoc (b : Block) (die cluster : Nat) (view : Option Nat) : Nat :=
  if blockIsView b then viewLoc (view.getD 0 % 256) else dieLoc (die % 8) (if b = .hartCluster then cluster % 4 else 0)

/-- Where the page of an access lies. -/
def accLoc (a : Access) : Nat := pageLoc a.blk a.die a.cluster a.view

/-- Where the page of a command lies. -/
def cmdLoc (c : Cmd) (b : Block) : Nat := pageLoc b c.die c.cluster c.view

/-- The die carries a page of the block type (R53); every VI has every view, and pages 10 to 15 of its group are reserved
(R73). -/
def populated (loc : Nat) (b : Block) : Bool :=
  b != .viewReserved &&
  match blockDies b with
  | .hubOnly => isHub (locDie loc)
  | .computeOnly => !(isHub (locDie loc))
  | .allDies => true

/-- How a page meets an access. -/
inductive Gate where
  /-- The die is absent: an access fault (R50). -/
  | fault
  /-- The page's domain is held, or the page is unpopulated: the access completes without effect (R616, R50). -/
  | held
  /-- Denied, with the reason of DENY_INFO (R54, R61). -/
  | denied (reason : Nat)
  | pass
  deriving DecidableEq, Repr

/-- The start-up loader (R57, R522). -/
def isLoader (w : Who) : Bool := w.ini == 127

/-- The initiator's plane owns the page (R54); debug reaches every page (R56), and the start-up loader is not denied by
plane (R522). The DEBUG page is reached by initiator 112 alone (R346). -/
def planeOk (b : Block) (w : Who) : Bool :=
  isLoader w || (!decide (b = .debug) || w.ini == 112) &&
  match classOf w.ini with
  | .c => (blockPlane b).control
  | .m => (blockPlane b).management
  | .d => true

/-- The counter area of every page is readable by both planes; its selects are written by the management plane (R55). A view
page has no counters there: it reads 0, and nothing is written (R591). A class C write anywhere in the area of a control page
is denied with reason 0, at a counter's value or a reserved offset as at a select (DESIGN CHOICE, assumption 114). -/
def areaOk (b : Block) (w : Who) (off : Nat) (write : Bool) : Bool :=
  if 0xF00 ≤ off then
    match classOf w.ini with
    | .c => !write || blockIsView b
    | .m => true
    | .d => true
  else planeOk b w

/-- The state code of a VI (R324): 0 ABSENT. -/
def viState (s : State) (v : Nat) : Nat := rd s (viHome s v) R.VI_STATE v % 8

/-- A guest stays inside its own VI page group (R74), and reaches it only while its VI is RUNNING, MIGRATING, QUIESCING
or QUIESCED (R326). -/
def guestOk (s : State) (loc : Nat) (b : Block) (w : Who) : Bool :=
  match w.vi with
  | none => true
  | some v => blockIsView b && loc == viewLoc v && [2, 3, 4, 6].contains (viState s v)

/-- The debug port has been unlocked at a hub (R346, R503). -/
def debugUnlocked (s : State) : Bool := s.vaults.any (fun v => v.2.debugOpen)

/-- The flows a VI owns on a compute die, in flow-number order (R304). -/
def viFlows (s : State) (die v : Nat) : List Nat :=
  match s.slices.lookup die with
  | some x => (x.flows.filter (fun e => e.2.cfg % 256 == v)).map (fun e => e.1)
  | none => []

/-- The triggers a VI owns, hub A first (R120). -/
def viTriggers (s : State) (v : Nat) : List (Nat × Nat) :=
  (hubs s).flatMap (fun h => ((List.range 16).filter (fun t => rd s h R.TRG_OWNER t % 512 == 256 + v)).map (fun t => (h, t)))

/-- The streams with a destination naming a VI, at their home hubs (R222). -/
def viStreams (s : State) (v : Nat) : List (Nat × Nat) :=
  (s.streams.filter (fun e => decide (e.1 < 2048) && e.2.home == e.1 / 1024 &&
    e.2.dests.any (fun d => bit d.cfg 0 && fld d.cfg 15 8 == v))).map (fun e => (e.1 / 1024, e.1 % 1024))

/-- The capture records a VI owns, hub A first (R428). -/
def viRecords (s : State) (v : Nat) : List (Nat × Nat) :=
  (hubs s).flatMap (fun h => ((List.range 64).filter (fun i => rd s h R.REC_CFG i % 512 == 256 + v)).map (fun i => (h, i)))

/-- The key slots a VI owns in one vault (R508). -/
def viKeys (s : State) (hub v : Nat) : List (Nat × Nat) :=
  ((List.range 1024).filter (fun i => fld (rd s hub R.KS_STATE i) 24 16 == 256 + v)).map (fun i => (hub, i))

/-- A switch right after reset. -/
def Switch.empty : Switch :=
  ⟨[(8 * 65536, ⟨0xF88B8, 0, 0, 0⟩), (8 * 65536 + 1, ⟨0xF88BA, 0, 0, 0⟩), (8 * 65536 + 2, ⟨0xE88F7, 0, 0, 0⟩),
    (8 * 65536 + 3, ⟨0xE88FB, 0, 0, 0⟩)], [], [], [], [], [], 0, [], [], [], [], [], [], [], [], [], [], [], [], [], [], [], [], [], [], []⟩

/-- A hub's switch. -/
def swOf (s : State) (hub : Nat) : Switch := mget Switch.empty s.switches hub

/-- Set a hub's switch. -/
def setSw (s : State) (hub : Nat) (w : Switch) : State := { s with switches := mput hub w s.switches }

/-- An entry of a switch table (R166). -/
def tblGet (w : Switch) (table idx : Nat) : TblEntry := mget ⟨0, 0, 0, 0⟩ w.tables (table * 65536 + idx)

/-- Set an entry of a switch table. -/
def tblPut (w : Switch) (table idx : Nat) (e : TblEntry) : Switch :=
  { w with tables := mput (table * 65536 + idx) e w.tables }

/-- The publication entries a VI owns, in entry order (R155). -/
def viPubs (s : State) (v : Nat) : List (Nat × Nat) :=
  let h := egressHub s
  ((List.range 1024).filter (fun e => bit (tblGet (swOf s h) 9 e).d0 13 && (tblGet (swOf s h) 9 e).d0 % 256 == v)).map (fun e => (h, e))

/-- The vault that an initiator's KV_HUB chooses (R508). -/
def kvHub (s : State) (loc ini : Nat) : Nat := if present s 1 then rdB s loc R.KV_HUB ini % 2 else 0

/-- The instances behind SEL of a view page: the die and instance of each (R74). -/
def viewInsts (s : State) (loc : Nat) (b : Block) (ini : Nat) : List (Nat × Nat) :=
  match b with
  | .pelotonView => [(viHome s (loc / 8), loc / 8)]
  | .flowView => (viFlows s (viHome s (loc / 8)) (loc / 8)).map (fun f => (viHome s (loc / 8), f))
  | .timerView => viTriggers s (loc / 8)
  | .sampleView => viStreams s (loc / 8)
  | .captureView => viRecords s (loc / 8)
  | .keyView => viKeys s (kvHub s loc ini) (loc / 8)
  | .egressView => viPubs s (loc / 8)
  | _ => []

/-- SEL_LIMIT of a die's own page: the highest instance that its register map shows (R59). -/
def dieSelLimit (loc : Nat) (b : Block) : Nat :=
  match b with
  | .spoke => if isHub (locDie loc) then 5 else 1
  | .axle => 0
  | _ => (blockRegs b).foldl (fun m r => max m r.hi) 0

/-- SEL_LIMIT for the reading initiator (R60, R74). -/
def selLimit (s : State) (loc : Nat) (b : Block) (ini : Nat) : Nat :=
  if blockIsView b then (viewInsts s loc b ini).length - 1 else dieSelLimit loc b

/-- The instance that an initiator's SEL chooses (R59). -/
def selOf (s : State) (loc : Nat) (b : Block) (ini : Nat) : Nat :=
  min ((bank s loc b ini).sel % 65536) (selLimit s loc b ini)

/-- The block whose registers a view shows (R73). -/
def viewBase : Block → Block
  | .pelotonView => .peloton
  | .flowView => .pelotonFlow
  | .sampleView => .svIngest
  | .captureView => .capture
  | .keyView => .keyVault
  | .timerView => .timeTrigger
  | b => b

/-- The die and instance that SEL chooses: in a die's own page the instance, in a view the chosen instance of its
share; none where a view has no instance. -/
def chosen (s : State) (loc : Nat) (b : Block) (ini : Nat) : Option (Nat × Nat) :=
  if blockIsView b then (viewInsts s loc b ini)[selOf s loc b ini]?
  else some (loc, selOf s loc b ini)

/-- The die that serves a page for an initiator (R73): the vault that its KV_HUB chooses (R508), and the hub of the stream,
record or trigger that its SEL chooses; where none is chosen, and for every other page, the die that serves the page. -/
def serveFor (s : State) (loc : Nat) (b : Block) (ini : Nat) : Nat :=
  match b with
  | .keyView => kvHub s loc ini
  | .sampleView | .captureView | .timerView => ((chosen s loc b ini).map (fun c => c.1)).getD (serveDie s loc b)
  | _ => serveDie s loc b

/-- The domain that holds a page runs on the die that serves it for an initiator (R616). -/
def pageRunFor (s : State) (loc : Nat) (b : Block) (ini : Nat) : Bool := domRun s (serveFor s loc b ini) (blockDomain b)

/-- A hart's access to control space is naturally aligned (R310). -/
def aligned (w : Who) (off : Nat) (wide : Bool) : Bool := !(isHart w.ini) || off % (if wide then 8 else 4) == 0

/-- How a page meets an access of one word or of 64 bits (R28, R50, R54, R74, R310, R616). Debug reaches no page before the port is unlocked (R346). -/
def gate (s : State) (loc : Nat) (b : Block) (w : Who) (off : Nat) (wide write : Bool) : Gate :=
  if !(present s (serveFor s loc b w.ini)) || !(aligned w off wide) then .fault
  else if !(populated loc b) then .held
  else if !(pageRunFor s loc b w.ini) then .held
  else if w.ini == 112 && !(debugUnlocked s) then .held
  else if !(guestOk s loc b w) then .denied 1
  else if !(areaOk b w off write) then .denied 0
  else .pass

/-- A denied access: EVENT.DENIED_ACCESS and DENY_INFO, and nothing else (R54). -/
def deny (s : State) (loc : Nat) (b : Block) (w : Who) (off reason : Nat) (write : Bool) : State :=
  let s1 := hwEvent s loc b 31
  let s2 := setHdr s1 loc b { hdr s1 loc b with
    denyInfo := reason % 4 * 2 ^ 30 + b2n write * 2 ^ 29 + w.ini % 128 * 2 ^ 22 + off % 4096 }
  cyc { s2 with resp := .value 0 } loc b 0x06 0 1 none

/-- A write that counts under R60: LAST_WRITE_STAMP, WRITE_ORDER and LAST_WRITER. The start-up loader is no class C, M or D
initiator. -/
def countWrite (s : State) (loc : Nat) (b : Block) (w : Who) : State :=
  let st := pageStamp s (serveFor s loc b w.ini) loc b 0
  let s1 := tickPageBy s (serveFor s loc b w.ini) loc b 0
  if isLoader w then s1
  else cyc (setHdr s1 loc b { hdr s1 loc b with
    lastWriteStamp := st.cts, writeOrder := st.order, lastWriter := w.ini }) loc b 0x01 0 1 none

/-- A register of a list at an offset for an instance, and whether the offset names its high word. -/
def findReg (rs : List Reg) (off inst : Nat) : Option (Reg × Bool) :=
  rs.findSome? (fun r =>
    let n := (off - r.off) / r.stride
    if r.off ≤ off ∧ n < r.cnt ∧ (r.lo ≤ inst ∧ inst ≤ r.hi ∨ ¬(0x100 ≤ r.off ∧ r.off < 0x800)) then
      let within := off - r.off - n * r.stride
      if within < 4 then some (r.nth n, false)
      else if within < 8 ∧ r.wide then some (r.nth n, true)
      else none
    else none)

end Sys2Proof.Machine
end

