-- ==== Sys2Proof/Machine/Command.lean ====
section
/-!
DEFINITION. Sys2Proof/Machine/Command.lean: the command protocol (R62 to R66, R618).
-/
namespace Sys2Proof.Machine

/-- The result codes of R63. -/
inductive Code where
  | done | accepted | busy | illegalState | badArg | denied | aborted | timeout | tamper | noResource
  deriving DecidableEq, Repr

/-- The code's number (R63). -/
def Code.num : Code → Nat
  | .done => 0
  | .accepted => 1
  | .busy => 2
  | .illegalState => 3
  | .badArg => 4
  | .denied => 5
  | .aborted => 6
  | .timeout => 7
  | .tamper => 8
  | .noResource => 9

/-- A code with which a command is refused at its grant (R63, R64): TAMPER too, of a vault that a tamper alarm has sealed. -/
def Code.refusal : Code → Bool
  | .busy | .illegalState | .badArg | .denied | .tamper | .noResource => true
  | _ => false

/-- What a granted command sees: its page, its issuer, its arguments and its stamps. `die` and `inst` name the die
and instance that SEL chooses; `some_` is false where a view has no instance to choose. -/
structure Ctx where
  loc : Nat
  blk : Block
  die : Nat
  inst : Nat
  some_ : Bool
  who : Who
  view : Option Nat
  sub : Nat
  argument : Nat
  cmdArg : Nat
  op : Nat
  seq : Nat
  cts : Nat
  order : Nat
  deriving DecidableEq, Repr

/-- The checks of R64, in their order: arguments, authority, no command running, state, resources. -/
structure Checks where
  argOk : Bool
  auth : Bool
  idle : Bool
  legal : Bool
  room : Bool
  deriving DecidableEq, Repr

/-- Every check passes. -/
def Checks.pass : Checks := ⟨true, true, true, true, true⟩

/-- The code of the first check that fails (R64), none where all pass. -/
def Checks.fails (k : Checks) : Option Code :=
  if !k.argOk then some .badArg
  else if !k.auth then some .denied
  else if !k.idle then some .busy
  else if !k.legal then some .illegalState
  else if !k.room then some .noResource
  else none

/-- What an accepted command does: the state after it, its code and its NOTE bits. -/
structure Effect where
  state : State
  code : Code
  note : Nat

/-- An effect that ends with DONE. -/
def Effect.done (s : State) : Effect := ⟨s, .done, 0⟩

/-- An effect that goes on after ACCEPTED. -/
def Effect.accepted (s : State) : Effect := ⟨s, .accepted, 0⟩

/-- CMD_RESULT (R61). NOTE is meaningful with DONE only. -/
def resultWord (seq : Nat) (code : Code) (note : Nat) : Nat :=
  seq % 65536 * 65536 + (if code = .done then note % 256 * 16 else 0) + code.num

/-- The page takes the next sequence number and the command's stamp (R62 step 3, R65). -/
def grantCmd (s : State) (x : Ctx) : State :=
  let s1 := setHdr s x.loc x.blk { hdr s x.loc x.blk with
    seq := x.seq, cmdLast := x.seq * 65536 + x.who.ini }
  setBank s1 x.loc x.blk x.who.ini { bank s1 x.loc x.blk x.who.ini with cmdStamp := x.cts, cmdOrder := x.order }

/-- Post the immediate result in the initiator's CMD_RESULT (R62 step 3). -/
def postResult (s : State) (x : Ctx) (code : Code) (note : Nat) : State :=
  setBank s x.loc x.blk x.who.ini { bank s x.loc x.blk x.who.ini with cmdResult := resultWord x.seq code note }

/-- The page of the record of a refused command: under REFUSE_LOG, or always for the start-up loader (R66). -/
def refuseRec (s : State) (x : Ctx) (code : Code) : State :=
  let s1 := cyc s x.loc x.blk 0x03 0 1 none
  if bit (hdr s x.loc x.blk).refuseLog 0 || x.who.ini == 127 then
    record s1 (serveFor s x.loc x.blk x.who.ini) x.loc x.blk ⟨x.cts, x.order⟩ (pagePlane x.blk) 0x20 false x.inst
      [x.who.ini, x.op, code.num, x.cts]
  else s1

/-- The ticket under which an accepted command runs on. -/
def ticketOf (x : Ctx) : Ticket := ⟨x.op, x.who.ini, x.seq, x.sub, x.argument, x.cmdArg, x.inst, x.view, x.cts⟩

/-- The state in which a granted command acts: the page has taken its sequence number and stamp, and counts it. What the
command causes is stamped later than the command (R107). -/
def granted (s : State) (x : Ctx) : State := cyc { grantCmd s x with cause := max s.cause x.cts } x.loc x.blk 0x02 0 1 none

/-- The checks as they stand for an issuer: the start-up loader's accesses are the block's own (R522). -/
def Checks.for (k : Checks) (w : Who) : Checks := { k with auth := k.auth || isLoader w }

/-- The state after a command whose checks passed: its effect, its immediate result, and with ACCEPTED its place among the
page's running commands (R62, R63). A code of R64 that only the effect finds is a refusal too. -/
def answered (x : Ctx) (e : Effect) : State :=
  if e.code.refusal then postResult (refuseRec e.state x e.code) x e.code 0
  else
    let s1 := postResult e.state x e.code e.note
    if e.code = .accepted then
      setHdr s1 x.loc x.blk { hdr s1 x.loc x.blk with running := (hdr s1 x.loc x.blk).running ++ [ticketOf x] }
    else s1

/-- The state in which a command leaves off: what it caused, with the state's own cause again. -/
def settled (s t : State) : State := { t with cause := s.cause }

/-- A granted command: the first check that fails refuses it (R64); otherwise its effect and its immediate result. -/
def runCmd (s : State) (x : Ctx) (k : Checks) (eff : State → Effect) : State :=
  settled s (match (k.for x.who).fails with
    | some code => postResult (refuseRec (granted s x) x code) x code 0
    | none => answered x (eff (granted s x)))

/-- The context of a command at its grant. The stamp is that of the CMD write (R60, R62): DEDUCED, assumption 5. -/
def ctxOf (s : State) (c : Cmd) (b : Block) (op : Nat) : Ctx :=
  let loc := cmdLoc c b
  let d := serveFor s loc b c.who.ini
  let st := pageStamp s d loc b 0
  let ch := chosen s loc b c.who.ini
  { loc := loc, blk := b, die := (ch.getD (d, 0)).1, inst := (ch.getD (d, 0)).2, some_ := ch.isSome, who := c.who
    view := c.view, sub := c.sub % 256, argument := c.argument % 65536
    cmdArg := (bank s loc b c.who.ini).cmdArg, op := op
    seq := ((hdr s loc b).seq + 1) % 65536, cts := st.cts, order := st.order }

/-- No accepted command of the page runs (R64). -/
def pageIdle (s : State) (x : Ctx) : Bool := (hdr s x.loc x.blk).running.isEmpty

/-- The state after a write that counts (R60), with its completion. -/
def counted (s : State) (loc : Nat) (b : Block) (w : Who) : State := { countWrite s loc b w with resp := .value 0 }

/-- A write of CMD (R62): the page's gate, the write's stamp (R60), the checks and the effect. -/
def command (s : State) (c : Cmd) (b : Block) (op : Nat) (checks : State → Ctx → Checks)
    (eff : Ctx → State → Effect) : Out :=
  let loc := cmdLoc c b
  match gate s loc b c.who 0x010 false true with
  | .fault => .next { s with resp := .accessFault }
  | .held => .next { s with resp := .value 0 }
  | .denied r => .next (deny s loc b c.who 0x010 r true)
  | .pass =>
    let x := ctxOf s c b op
    .next (runCmd (counted s loc b c.who) x (checks s x) (eff x))

/-- The end of an accepted command (R618): the final code goes to CMD_RESULT while that still holds the command's
sequence number, and CMD_DONE is set in every case. -/
def finish (s : State) (loc : Nat) (b : Block) (t : Ticket) (code : Code) (note : Nat) : State :=
  let s1 := setHdr s loc b { hdr s loc b with running := (hdr s loc b).running.erase t }
  let k := bank s1 loc b t.ini
  let s2 := if k.cmdResult / 65536 = t.seq then
      setBank s1 loc b t.ini { k with cmdResult := resultWord t.seq code note } else s1
  causedBy t.cts (fun u => hwEvent u loc b 30) s2

/-- The running command with an opcode, if one runs. -/
def runningOp (s : State) (loc : Nat) (b : Block) (op : Nat) : Option Ticket :=
  (hdr s loc b).running.find? (fun t => t.op == op)

/-- The running command with an opcode on an instance. -/
def runningAt (s : State) (loc : Nat) (b : Block) (op inst : Nat) : Option Ticket :=
  (hdr s loc b).running.find? (fun t => t.op == op && t.inst == inst)

/-- End a running command with a code, where one runs. -/
def finishOp (s : State) (loc : Nat) (b : Block) (op : Nat) (code : Code) (note : Nat) : State :=
  match runningOp s loc b op with
  | some t => finish s loc b t code note
  | none => s

/-- A Mechanic core or agent core, class M (R57). JTAG debug reaches every page (R56) but is no Mechanic. -/
def fromMech (w : Who) : Bool := isMech w.ini

/-- The page of a command that a block and its view both have. -/
def viewOr (c : Cmd) (view page : Block) : Block := if c.view.isSome then view else page

/-- The checks of NOP. -/
def checksNop (_ : State) (_ : Ctx) : Checks :=
  .pass

/-- The effect of NOP. -/
def effectNop (_ : Ctx) (t : State) : Effect :=
  .done t

/-- NOP, R66: DONE, with the page's sequence number in CMD_RESULT. -/
def execNop (b : Block) (c : Cmd) (s : State) : Out :=
  command s c b 0x00 checksNop effectNop

/-- The checks of EVENT_TEST. -/
def checksEventTest (_ : State) (_ : Ctx) : Checks :=
  .pass

/-- EVENT [27:16] of PELOTON_FLOW and FLOW_VIEW is no event but the flow number of the last one (R301, R304). -/
def flowNumber (b : Block) (n : Nat) : Bool := (decide (b = .pelotonFlow) || decide (b = .flowView)) && decide (16 ≤ n ∧ n ≤ 27)

/-- The effect of EVENT_TEST. -/
def effectEventTest (x : Ctx) (t : State) : Effect :=
  .done (if flowNumber x.blk (x.sub % 32) then t else hwEvent t x.loc x.blk (x.sub % 32))

/-- EVENT_TEST, R66: set the EVENT bit named by SUB [4:0] as a hardware set would. -/
def execEventTest (b : Block) (c : Cmd) (s : State) : Out :=
  command s c b 0x01 checksEventTest effectEventTest

end Sys2Proof.Machine
end

