-- ==== Sys2Proof/Machine/Access.lean ====
section
/-!
DEFINITION. Sys2Proof/Machine/Access.lean: register accesses (R10, R11, R54, R60, R67 to R72). A write passes the
page's gate, counts, and takes its register's effect; the 64-bit latch serves writes of one word at a time.
-/
namespace Sys2Proof.Machine

/-- A register that an access names: where it stands, the register, whether the offset is its high word, and the
bank (127 where it is not banked). -/
structure Target where
  loc : Nat
  inst : Nat
  reg : Reg
  high : Bool
  bank : Nat
  deriving DecidableEq, Repr

/-- The page number of a view within its group (R73). -/
def viewPage : Block → Nat
  | .pelotonView => 1
  | .flowView => 2
  | .sampleView => 3
  | .egressView => 4
  | .captureView => 5
  | .keyView => 6
  | .crankView => 7
  | .timerView => 8
  | .counterView => 9
  | _ => 0

/-- The registers of the base block that a view shows (R218, R297, R304, R120, R428, R508). -/
def viewShown : Block → List Reg
  | .pelotonView => (blockRegs .peloton).filter (fun r => !decide (r = R.PEL_TICK))
  | .flowView => (blockRegs .pelotonFlow).filter (fun r => decide (r.off < 0x800))
  | .sampleView => (blockRegs .svIngest).filter (fun r => decide (r.off < 0x800 ∧ 0x200 ≤ r.off ∨ r.off = 0x1C0 ∨
      r.off = 0x1C8 ∨ r.off = 0x170 ∨ r.off = 0x178))
  | .captureView => (blockRegs .capture).filter (fun r => decide (0x128 ≤ r.off ∧ r.off ≤ 0x158))
  | .keyView => (blockRegs .keyVault).filter (fun r => r.banked || decide (r.off ≤ 0x800) || decide (0xA00 ≤ r.off ∧ r.off < 0xA80))
  | .timerView => (blockRegs .timeTrigger).filter (fun r => decide (r.off < 0x800))
  | _ => []

/-- A register lies in the instance window. -/
def inWindow (r : Reg) : Bool := decide (0x100 ≤ r.off ∧ r.off < 0x800)

/-- The instance under which a register stands: the chosen one in the instance window, else 0. -/
def standInst (r : Reg) (inst : Nat) : Nat := if inWindow r && !r.banked then inst else 0

/-- Where a register of a die's own page stands: the VI table is package-wide, so a VI's registers of VI_CTRL stand at its
home die, whichever die's page is used (R325). Those of an ABSENT VI stand at die 2 (DESIGN CHOICE, log entry 106). -/
def standLoc (s : State) (loc : Nat) (b : Block) (r : Reg) (inst : Nat) : Nat :=
  if b = .viCtrl ∧ inWindow r = true then viHome s inst else loc

/-- The register that an offset of a page names for an initiator (R58, R59). A view's own copy of a banked register
stands under the view's code. -/
def target (s : State) (loc : Nat) (b : Block) (ini off : Nat) : Option Target :=
  let ch := chosen s loc b ini
  let inst := (ch.getD (loc, 0)).2
  match findReg (blockRegs b) off inst with
  | some (r, hi) => some ⟨standLoc s loc b r inst, standInst r inst, r, hi, if r.banked then ini else 127⟩
  | none =>
    match findReg (viewShown b) off inst with
    | some (r, hi) =>
      if r.banked then some ⟨loc, 0, { r with blk := b }, hi, ini⟩
      else if inWindow r then ch.map (fun c => ⟨c.1, c.2, r, hi, 127⟩)
      else some ⟨if b = .keyView then kvHub s loc ini else serveDie s loc b, 0, r, hi, 127⟩
    | none => none

/-- What a target holds. -/
def readT (s : State) (t : Target) : Nat := if t.bank = 127 then rd s t.loc t.reg t.inst else rdB s t.loc t.reg t.bank

/-- Set what a target holds. -/
def writeT (s : State) (t : Target) (v : Nat) : State :=
  if t.bank = 127 then wr s t.loc t.reg t.inst v else wrB s t.loc t.reg t.bank v

/-- A register that a view shows read-only to this initiator (R74, R120, R218, R304, R428). -/
def viewReadOnly (b : Block) (w : Who) (r : Reg) : Bool :=
  match b with
  | .flowView | .sampleView => true
  | .captureView => !(decide (r = R.REC_RD_ADDR) || decide (r = R.REC_RD_LEN))
  | .timerView => !(decide (r.off = R.TRG_CTRL.off) || decide (r.off = R.TRG_RATE.off) ||
      decide (r.off = R.TRG_START.off) || decide (r.off = R.TRG_PERIOD.off) || w.vi.isNone)
  | .pelotonView => !r.banked
  | _ => false

/-- Software may write the register (R10). -/
def writable (b : Block) (w : Who) (r : Reg) : Bool :=
  match r.acc with
  | .ro | .rc => false
  | _ => !(viewReadOnly b w r)

/-- The initiator's latch in a page (R70, R71). -/
def latchOf (s : State) (loc : Nat) (b : Block) (ini : Nat) : Option Latch := (bank s loc b ini).latch

/-- Load or spend the initiator's latch. -/
def setLatch (s : State) (loc : Nat) (b : Block) (ini : Nat) (l : Option Latch) : State :=
  setBank s loc b ini { bank s loc b ini with latch := l }

/-- The value that a high-word write puts in force: with the latched low word, or with the low word in force (R71). The latch
names its register by the offset in the page, so SEL may have changed since the low word (DESIGN CHOICE, assumption 112). -/
def highWrite (s : State) (loc : Nat) (b : Block) (ini : Nat) (t : Target) (v : Nat) : Nat :=
  let low := match latchOf s loc b ini with
    | some l => if l.isWrite && l.off == t.reg.off then l.high else readT s t % 2 ^ 32
    | none => readT s t % 2 ^ 32
  v % 2 ^ 32 * 2 ^ 32 + low

/-- Spend the latch where a high-word write used it. -/
def spendLatch (s : State) (loc : Nat) (b : Block) (ini : Nat) (t : Target) : State :=
  match latchOf s loc b ini with
  | some l => if l.isWrite && l.off == t.reg.off then setLatch s loc b ini none else s
  | none => s

/-- The effect of a granted write on a target: a 64-bit register written by its low word only loads the latch; every
other write acts, as `eff` says, on the whole value with reserved bits cleared (R11, R70, R71). -/
def applyWrite (a : Access) (t : Target) (eff : Target → Nat → State → State) (s : State) : State :=
  let loc := accLoc a
  if t.reg.wide then
    if a.wide then eff t (a.value % 2 ^ 64 &&& t.reg.mask) s
    else if t.high then
      eff t (highWrite s loc a.blk a.who.ini t a.value &&& t.reg.mask) (spendLatch s loc a.blk a.who.ini t)
    else setLatch s loc a.blk a.who.ini (some ⟨t.reg.off, a.value % 2 ^ 32, true⟩)
  else eff t (a.value % 2 ^ 32 &&& t.reg.mask) s

/-- A write to a page: the gate of R50, R54 and R616, then the lock of R72, the count of R60 and the effect. `lock`
says that the write meets an RWL field. -/
def writeGate (a : Access) (lock : Bool) (eff : State → State) (s : State) : Out :=
  let loc := accLoc a
  match gate s loc a.blk a.who a.off a.wide true with
  | .fault => .next { s with resp := .accessFault }
  | .held => .next { s with resp := .value 0 }
  | .denied r => .next (deny s loc a.blk a.who a.off r true)
  | .pass =>
    if lock && (hdr s loc a.blk).lock && !(isLoader a.who) then .next (deny s loc a.blk a.who a.off 2 true)
    else .next (eff { countWrite s loc a.blk a.who with resp := .value 0 })

/-- A write of a register of the block's own map, with the register's effect. A write to a read-only register or to a
reserved offset counts and does nothing more (R10, R60). -/
def writeReg (a : Access) (eff : Target → Nat → State → State) (s : State) : Out :=
  match target s (accLoc a) a.blk a.who.ini a.off with
  | none => writeGate a false (fun t => t) s
  | some t =>
    if writable a.blk a.who t.reg then writeGate a (decide (t.reg.acc = .rwl)) (applyWrite a t eff) s
    else writeGate a false (fun t => t) s

/-- The access of a row that names its register. -/
def accAt (r : Reg) (a : Access) : Access := { a with blk := r.blk, off := r.off }

/-- A read of a page: the gate of R50, R54 and R616. `held` is the register's reset value, or its held value where it
lies in the AON domain. -/
def readGate (a : Access) (held : Nat) (eff : State → State) (s : State) : Out :=
  let loc := accLoc a
  match gate s loc a.blk a.who a.off a.wide false with
  | .fault => .next { s with resp := .accessFault }
  | .held => .next { s with resp := .value (if populated loc a.blk && present s (serveFor s loc a.blk a.who.ini) then held else 0) }
  | .denied r => .next (deny s loc a.blk a.who a.off r false)
  | .pass => .next (cyc (eff s) loc a.blk 0x01 0 1 none)

/-- SW_STATUS of the variant, at reset and after (R163): dual-lane mode, and whether P12 is present. -/
def switchStatus (s : State) : Nat := b2n (decide (s.variant = .kz2)) + b2n (present s 1) * 2

/-- What a target shows while its domain is held (R616). -/
def heldValue (s : State) (t : Target) : Nat :=
  let v := if t.reg.aon then readT s t
    else if t.reg = R.SW_STATUS then switchStatus s
    else resetVal t.reg t.loc t.inst
  if t.high then v / 2 ^ 32 else v

/-- The part of a value that an access of one word or of 64 bits returns. -/
def part (wide high : Bool) (v : Nat) : Nat := if wide then v else if high then v / 2 ^ 32 else v % 2 ^ 32

/-- A read of a 64-bit value by one access or by words (R70): a low-word read latches the high word, and the next
high-word read of the same register returns it. -/
def readWide (a : Access) (off : Nat) (high : Bool) (v : Nat) (s : State) : State :=
  let loc := accLoc a
  if a.wide then respond s v
  else if high then
    match latchOf s loc a.blk a.who.ini with
    | some l => if !l.isWrite && l.off == off then respond s l.high else respond s (v / 2 ^ 32)
    | none => respond s (v / 2 ^ 32)
  else respond (setLatch s loc a.blk a.who.ini (some ⟨off, v / 2 ^ 32, false⟩)) (v % 2 ^ 32)

end Sys2Proof.Machine
end

