-- ==== Sys2Proof/Machine/FrameAuth.lean ====
section
/-!
DEFINITION. Sys2Proof/Machine/FrameAuth.lean: the frame-authentication pipeline (R491, R492, R494, R495, R509, R510).
-/
namespace Sys2Proof.Machine

/-- A byte of a die's option block in force (R526, R536). -/
def optByte (s : State) (die n : Nat) : Nat :=
  fld (rd s die (R.OPT_BYTES.nth (n / 4)) 0) (8 * (n % 4) + 7) (8 * (n % 4))

/-- The sealed policy: drop, or pass with AUTH_FAIL (R203, R526). -/
def sealedDrop (s : State) (hub : Nat) : Bool := bit (optByte s hub 5) 1

/-- The vault's state code (R479); SEALED while the KEY domain is held. -/
def vaultState (s : State) (hub : Nat) : Nat := if domRun s hub 3 then rd s hub R.VT_STATUS 0 % 4 else 0

/-- The pipeline uses cached keys: the vault is OPEN or DORMANT (R479). -/
def pipelineOpen (s : State) (hub : Nat) : Bool := vaultState s hub == 1 || vaultState s hub == 2

/-- The key of a slot. -/
def keyOf (s : State) (hub slot : Nat) : List Byte := mget [] s.keys (hub * 1024 + slot)

/-- A slot is LOADED. -/
def slotLoaded (s : State) (hub slot : Nat) : Bool := bit (rd s hub R.KS_STATE slot) 0

/-- A slot's ATTR and KALG (R484). -/
def slotAttr (s : State) (hub slot : Nat) : Nat := fld (rd s hub R.KS_STATE slot) 3 1
def slotAlg (s : State) (hub slot : Nat) : Nat := fld (rd s hub R.KS_STATE slot) 4 4

/-- The successor that a slot names, if NEXT is valid (R493). -/
def slotNext (s : State) (hub slot : Nat) : Option Nat :=
  let n := rd s hub R.KS_NEXT slot
  if bit n 15 then some (n % 1024) else none

/-- A MAC over a message (R491): 0 AES-GMAC of 16 bytes, 1 HMAC-SHA-256 cut to a length. -/
def macOf (alg : Nat) (key iv msg : List Byte) (len : Nat) : List Byte :=
  if alg = 0 then (Config.gmac key iv msg).take 16 else (Config.hmac key msg).take len

/-- What a frame's MAC covers: its bytes from the Ethertype on, since IEC 62351-6 secures the message behind the addresses
and the VLAN tag, which a switch may change (R491; PRESUMED, log entry 104). -/
def macMsg (f : Frame) : List Byte := f.bytes.drop (if f.tag.isSome then 16 else 12)

/-- The MAC length is one that the device supports (R491). -/
def macLenOk (alg len : Nat) : Bool := if alg = 0 then len == 16 else len == 16 || len == 32

/-- FA_GRACE in ns (R509). -/
def faGrace (s : State) (hub : Nat) : Nat := min 60000 (rd s hub R.FA_GRACE 0) * 1000000

/-- A slot's validity covers an ingress CTS (R492). -/
def slotInTime (s : State) (hub cts slot : Nat) : Bool :=
  let now := (ctr s hub).sec
  let t := ctsNs now cts
  let nb := rd s hub R.KS_NOT_BEFORE slot
  let na := rd s hub R.KS_NOT_AFTER slot
  (nb == 0 || decide (ctsNs now nb ≤ t)) && (na == 0 || decide (t ≤ ctsNs now na + faGrace s hub))

/-- The check of R492: the reason of R509, 0 where the frame is accepted, and the slot that accepted it. -/
def verifyFrame (s : State) (hub slot alg cts : Nat) (f : Frame) : Nat × Nat :=
  if !(pipelineOpen s hub) then (6, slot)
  else match f.sec with
  | none => (1, slot)
  | some e =>
    if !(macLenOk alg e.mac.length) then (1, slot)
    else
      let cands := (slot :: (slotNext s hub slot).toList).filter (slotLoaded s hub)
      let known := cands.filter (fun k => rd s hub R.KS_KEY_ID k == e.keyId)
      let ok := known.filter (fun k => slotAttr s hub k == 5 && slotAlg s hub k == alg)
      let timely := ok.filter (slotInTime s hub cts)
      match known, ok, timely with
      | [], _, _ => (2, slot)
      | _, [], _ => (3, slot)
      | _, _, [] => (4, slot)
      | _, _, ts =>
        match ts.find? (fun k => macOf alg (keyOf s hub k) e.iv (macMsg f) e.mac.length == e.mac) with
        | some k => (0, k)
        | none => (5, slot)

/-- One use of a key (R507). -/
def useKey (s : State) (hub slot : Nat) : State := incr s hub R.KS_USES slot 1

/-- A verification that passed (R588, R507). -/
def authPass (s : State) (hub slot : Nat) : State := cyc (useKey s hub slot) hub .frameAuth 0x10 0 1 none

/-- A verification that failed (R495, R509): class 0 SV, 1 GOOSE, 2 Tandem. While KEY is held its page takes no note
(R616). -/
def authFail (s : State) (hub cls reason idx cts : Nat) : State :=
  if !(domRun s hub 3) then s else
  let r := if cls = 0 then R.FA_SV_FAIL else if cls = 1 then R.FA_GS_FAIL else R.FA_TD_FAIL
  let s1 := wrAll (incr s hub r 0 1) hub 0 [(R.FA_LAST_FAIL, reason + 16 * cls + idx % 1024 * 65536), (R.FA_LAST_FAIL_CTS, cts)]
  cyc (hwEvent s1 hub .frameAuth cls) hub .frameAuth 0x11 0 1 none

/-- The slot that tags a frame: NEXT once its NOT_BEFORE has been reached, else the slot itself (R494). -/
def tagSlot (s : State) (hub slot : Nat) : Nat :=
  match slotNext s hub slot with
  | some n => if ctsDue s hub (rd s hub R.KS_NOT_BEFORE n) || rd s hub R.KS_NOT_BEFORE n == 0 then n else slot
  | none => slot

/-- Tag an outgoing frame with the key of a slot (R494): the state after it, and the frame as it is sent, none where
the sealed policy drops it. The initialisation vector that the device chooses is a free value. -/
def tagFrame (s : State) (hub slot : Nat) (f : Frame) : State × Option Frame :=
  let k := tagSlot s hub slot
  if pipelineOpen s hub && slotLoaded s hub k && slotAttr s hub k == 4 then
    let iv := bytesLE 12 (freeNat s)
    let mac := macOf (slotAlg s hub k) (keyOf s hub k) iv (macMsg f) 32
    let s1 := incr (useKey (drew s) hub k) hub R.FA_TAGGED 0 1
    (cyc s1 hub .frameAuth 0x12 0 1 none, some { f with sec := some ⟨rd s hub R.KS_KEY_ID k, iv, mac⟩ })
  else
    let s1 := if domRun s hub 3 then hwEvent (incr s hub R.FA_TAG_NOKEY 0 1) hub .frameAuth 3 else s
    if sealedDrop s hub then (s1, none)
    else (s1, some { f with sec := some ⟨rd s hub R.KS_KEY_ID k, [], List.replicate 16 0⟩ })

/-- The first valid GOOSE entry that a frame matches (R510). -/
def gooseEntry (s : State) (hub : Nat) (f : Frame) : Option Nat :=
  (List.range 256).find? (fun i => bit (rd s hub R.GS_CFG i) 13 &&
    rd s hub R.GS_MATCH0 i == f.dst % 2 ^ 32 && rd s hub R.GS_MATCH1 i == f.dst / 2 ^ 32 % 65536 + f.appid * 65536)

/-- The check of a GOOSE frame before its delivery (R495): the state after it, and whether it is delivered. -/
def checkGoose (s : State) (hub : Nat) (f : Frame) (cts : Nat) : State × Bool :=
  if f.etype = 0x88B8 then
    match gooseEntry s hub f with
    | none => (s, true)
    | some i =>
      let cfg := rd s hub R.GS_CFG i
      if fld cfg 12 11 = 0 then (s, true)
      else
        let r := verifyFrame s hub (cfg % 1024) (fld cfg 10 10) cts f
        if r.1 = 0 then (incr (authPass s hub r.2) hub R.GS_PASS i 1, true)
        else
          let s1 := authFail s hub 1 r.1 i cts
          (if domRun s hub 3 then incr s1 hub R.GS_FAIL i 1 else s1, fld cfg 12 11 != 2)
  else (s, true)

/-- The checks of FA_CLEAR_COUNTERS. -/
def checksFaClearCounters (t : State) (x : Ctx) : Checks :=
  { Checks.pass with argOk := decide (x.argument ≤ 1279 ∨ x.argument = 0xFFFF), idle := pageIdle t x }

/-- The effect of FA_CLEAR_COUNTERS. -/
def effectFaClearCounters (x : Ctx) (t : State) : Effect :=
  .done
    (if x.argument = 0xFFFF then
      clearInsts (clearInsts (clearRegs t x.loc 0 [R.FA_SV_PASS, R.FA_SV_FAIL, R.FA_GS_FAIL, R.FA_TD_FAIL, R.FA_TAGGED,
        R.FA_TAG_NOKEY]) x.loc 0 256 [R.GS_PASS, R.GS_FAIL]) x.loc 256 1024 [R.PK_TAGGED]
     else if x.argument < 256 then clearRegs t x.loc x.argument [R.GS_PASS, R.GS_FAIL]
     else clearRegs t x.loc x.argument [R.PK_TAGGED])

/-- FA_CLEAR_COUNTERS, R510: clear the counters of SEL ARGUMENT, or every counter with 0xFFFF. -/
def execFaClearCounters (c : Cmd) (s : State) : Out :=
  command s c .frameAuth 0x10 checksFaClearCounters effectFaClearCounters

end Sys2Proof.Machine
end

