-- ==== Sys2Proof/Machine/Switch.lean ====
section
/-!
DEFINITION. Sys2Proof/Machine/Switch.lean: the switch core's tables, admission, policers, crossbar and gates (R122 to
R151, R157 to R168).
-/
namespace Sys2Proof.Machine

/-! ### Lanes and roles of the ports (R169, R170) -/

/-- The lane logic of a hub right after the release of NET. -/
def Lane.empty : Lane := ⟨[], false, 0, [], [], none, [], 0, none, []⟩

/-- A hub's lane logic. -/
def laneOf (s : State) (hub : Nat) : Lane := mget Lane.empty s.lanes hub

/-- Set a hub's lane logic. -/
def setLane (s : State) (hub : Nat) (l : Lane) : State := { s with lanes := mput hub l s.lanes }

/-- One hub serves both lanes (the KZ2). -/
def dualLane (s : State) : Bool := !(present s 1)

/-- The lane of a port: the hub's, or in the KZ2 by R170. -/
def portLane (s : State) (hub p : Nat) : Nat :=
  if dualLane s then (if p ≤ 4 ∨ p = 10 then 0 else 1) else hub

/-- The redundancy mode in effect: 0 while the two hubs' configurations differ (R169). -/
def laneMode (s : State) (hub : Nat) : Nat := if (laneOf s hub).mismatch then 0 else rd s hub R.LANE_CFG 0 % 4

/-- The role of a port: 0 PLAIN, 1 LANE, 2 INTERLINK (R170). -/
def portRole (s : State) (hub p : Nat) : Nat :=
  if 12 ≤ p ∨ laneMode s hub = 0 then 0
  else
    let r := rd s hub R.LP_CFG p % 4
    if r = 2 then (if bit (rd s hub R.LANE_CFG 0) 2 then 2 else 0) else if r = 1 then 1 else 0

/-- The LANE ports of a hub. -/
def lanePorts (s : State) (hub : Nat) : List Nat := (List.range 12).filter (fun p => portRole s hub p == 1)

/-! ### Ports -/

/-- PORT_STATE of a port: 0 DOWN, 1 HOLD, 2 UP (R167). -/
def portState (s : State) (hub p : Nat) : Nat := rd s hub R.PORT_STATE p % 4

/-- Set the state field of PORT_STATE, with LINK_CHANGE where it enters DOWN or UP (R167). -/
def putPortState (s : State) (hub p st : Nat) (flushing : Bool) : State :=
  let s1 := wr s hub R.PORT_STATE p (setBit (setFld (rd s hub R.PORT_STATE p) 1 0 st) 2 flushing)
  if st = 1 then s1 else hwEvent s1 hub .switchPort p

/-- The MTU of a port (R167). -/
def portMtu (s : State) (hub p : Nat) : Nat := fld (rd s hub R.PORT_CFG p) 29 16

/-- The line rate of P0 to P11 in Mbit/s (R193, R194); internal ports have none. -/
def lineRate (s : State) (hub p : Nat) : Nat :=
  if p < 10 then
    match rd s hub R.SD_CFG p % 4 with
    | 0 => 1000
    | 1 => 10000
    | _ => 25000
  else if bit (rd s hub R.CU_STATUS (p - 10)) 1 then 1000 else 100

/-- The time in ps that a port's wire takes for one byte: 0 at an internal port. -/
def bytePs (s : State) (hub p : Nat) : Nat := if p < 12 then 8000000 / lineRate s hub p else 0

/-- The time in ns from now at which a byte that a port's transmit FIFO takes now starts on the wire (R135). -/
def txWait (s : State) (hub p : Nat) : Nat := ceilDiv (mget 0 (swOf s hub).txEnd p - s.now * 1000) 1000

/-- The transmit FIFO of a port has room for a cell (R135). An empty one has; how many cells more it takes is the maker's
(assumption 94). -/
def txRoom (s : State) (hub p : Nat) : Bool :=
  if 12 ≤ p || mget 0 (swOf s hub).txEnd p ≤ s.now * 1000 then true
  else decide (ceilDiv (mget 0 (swOf s hub).txEnd p - s.now * 1000) (64 * bytePs s hub p) ≤ Config.txFifo)

/-- The queue number of (port, class) on the QOS page (R168). -/
def qosSel (p c : Nat) : Nat := p * 8 + c

/-- The VOQ of (ingress, egress, class) (R131). -/
def voqKey (i j c : Nat) : Nat := (i * 16 + j) * 8 + c

/-- A virtual output queue. -/
def voq (w : Switch) (i j c : Nat) : List Copy := mget [] w.voqs (voqKey i j c)

/-- Ports as a list of the set bits of a mask. -/
def maskPorts (m : Nat) : List Nat := (List.range 16).filter (fun p => bit m p)

/-- The mask of a list of ports. -/
def portsMask (l : List Nat) : Nat := l.foldl (fun m p => setBit m p true) 0

/-! ### Gates (R139 to R142) -/

/-- The operational gate list of a port, none while all gates are open (R142). -/
def gatesOf (s : State) (hub p : Nat) : Option Gates := (swOf s hub).gates.lookup p

/-- Offset of an entry from the start of its cycle. -/
def entryOff (g : Gates) (i : Nat) : Nat := ((g.oper.take i).map (fun e => e.2)).sum

/-- The entries that a list runs through: it is cut at the end of its cycle (R139), and what begins there is not reached. -/
def liveEntries (g : Gates) : Nat := max 1 ((List.range g.oper.length).filter (fun i => decide (entryOff g i < g.cycle))).length

/-- The length of an entry: the last one extends to the end of the cycle, and the list is cut there (R139). -/
def entryLen (g : Gates) (i : Nat) : Nat :=
  if i + 1 = g.oper.length then g.cycle - entryOff g i else min ((g.oper[i]?.getD (0, 0)).2) (g.cycle - entryOff g i)

/-- The gate of a class is open in an entry. -/
def gateOpenIn (g : Gates) (i c : Nat) : Bool := bit ((g.oper[i]?.getD (0, 0)).1) c

/-- How long a class's gate stays open from the start of an entry, looking over at most `n` entries. -/
def openFor (g : Gates) (c : Nat) : Nat → Nat → Nat
  | 0, _ => 0
  | n + 1, i => if gateOpenIn g i c then entryLen g i + openFor g c n ((i + 1) % liveEntries g) else 0

/-- Time in ns that a frame of some bytes takes on a port's wire, preamble, delimiter and gap included (R140). -/
def wireNs (s : State) (hub p bytes : Nat) : Nat := ceilDiv ((bytes + 20) * 8 * 1000) (lineRate s hub p)

/-- The gate of a class stands open in the operational list. -/
def gateIsOpen (g : Gates) (c : Nat) : Bool := g.oper.isEmpty || gateOpenIn g g.entry c

/-- The instant at which a class's open gate closes by the operational list alone; none where it never does. -/
def listShut (g : Gates) (c : Nat) : Option Nat :=
  if g.oper.isEmpty || (List.range (liveEntries g)).all (fun i => gateOpenIn g i c) then none
  else some (g.entryStart + openFor g c (liveEntries g + 1) g.entry)

/-- The instant at which a class's open gate closes, the pending list's change being seen (R140, R141). -/
def gateShut (g : Gates) (c : Nat) : Option Nat :=
  match g.pending with
  | none => listShut g c
  | some p =>
    let new : Gates := ⟨p.entries, p.cycle, p.at_, p.at_, 0, none⟩
    let after := if gateIsOpen new c then listShut new c else some p.at_
    match listShut g c with
    | some t => if t < p.at_ then some t else after
    | none => after

/-- A frame of a class may start on a port: it ends before its class's gate closes (R140). All gates are open while the
counter is not valid or the port has no operational list (R142). -/
def gateLets (s : State) (hub j c bytes : Nat) : Bool :=
  if 12 ≤ j || !(ctr s hub).valid then true
  else match gatesOf s hub j with
  | none => true
  | some g => gateIsOpen g c && (match gateShut g c with
    | none => true
    | some t => decide (taiNs s hub + txWait s hub j + wireNs s hub j bytes ≤ t))

/-- Set a port's gate list. -/
def putGates (s : State) (hub p : Nat) (g : Gates) : State :=
  let w := swOf s hub
  setSw s hub { w with gates := mput p g w.gates }

/-- The gates at a position of the cycle (R139): the entry and its start for an instant not before the cycle start. -/
def seekGates (g : Gates) (now : Nat) : Gates :=
  if g.oper.isEmpty || g.cycle = 0 then g
  else
    let start := if g.cycleStart ≤ now then g.cycleStart + (now - g.cycleStart) / g.cycle * g.cycle else g.cycleStart
    let i := ((List.range g.oper.length).filter (fun i => decide (start + entryOff g i ≤ now) && decide (entryOff g i < g.cycle))).getLastD 0
    { g with cycleStart := start, entry := i, entryStart := start + entryOff g i }

/-- A positive step moves every gate list to the counter's new position (R139). -/
def stepGates (s : State) (hub : Nat) : State :=
  let w := swOf s hub
  setSw s hub { w with gates := w.gates.map (fun e => (e.1, if e.2.cycleStart ≤ taiNs s hub then seekGates e.2 (taiNs s hub) else e.2)) }

/-- GATE_LIST_ADVANCE, R139: a port's operational list moves to its next entry at the end of an interval. -/
def execGateListAdvance (hub port : Nat) (s : State) : Out :=
  match gatesOf s hub port with
  | none => .next s
  | some g =>
    if domRun s hub 7 && (ctr s hub).valid && !g.oper.isEmpty && decide (g.entryStart + entryLen g g.entry ≤ taiNs s hub) then
      let last := decide (g.oper.length ≤ g.entry + 1) || decide (g.cycle ≤ entryOff g (g.entry + 1))
      .next (putGates s hub port
        (if last then { g with cycleStart := g.cycleStart + g.cycle, entryStart := g.cycleStart + g.cycle, entry := 0 }
         else { g with entryStart := g.cycleStart + entryOff g (g.entry + 1), entry := g.entry + 1 }))
    else .next s

/-- QBV_CONFIG_CHANGE, R141: at the config change time the pending list becomes operational. -/
def execQbvConfigChange (hub port : Nat) (s : State) : Out :=
  match gatesOf s hub port with
  | none => .next s
  | some g =>
    match g.pending with
    | none => .next s
    | some p =>
      if domRun s hub 7 && (ctr s hub).valid && decide (p.at_ ≤ taiNs s hub) then
        let s1 := putGates s hub port ⟨p.entries, p.cycle, p.at_, p.at_, 0, none⟩
        let s2 := wrAll s1 hub port [(R.QBV_OPER_CYCLE, p.cycle), (R.QBV_CHANGE, ctsOfNs p.at_),
          (R.PORT_STATE, setBit (setBit (rd s1 hub R.PORT_STATE port) 3 true) 4 false)]
        .next (hwEvent s2 hub .switchPort 16)
      else .next s

/-- The first instant of a series at or after a time. -/
def firstAt' (start period t : Nat) : Nat := if t ≤ start then start else start + ceilDiv (t - start) period * period

/-- The checks of QBV_COMMIT, as R167's table gives them: while the counter is not valid it is illegal at every port. A list
longer than its cycle is legal: it is cut (R139). A length outside QBV_LEN's range and a
cycle of 0 are BAD_ARG: DESIGN CHOICE, assumption 95. -/
def checksQbvCommit (t : State) (x : Ctx) : Checks :=
  let len := rd t x.loc R.QBV_LEN x.inst
  { Checks.pass with
    argOk := !(ctr t x.loc).valid || decide (x.inst ≤ 11 ∧ 1 ≤ len ∧ len ≤ 256 ∧ 0 < rd t x.loc R.QBV_CYCLE x.inst)
    idle := pageIdle t x, legal := (ctr t x.loc).valid }

/-- A reset of a hub's TIME domain discards every operational list, and all gates open (R142). A pending set is no operational
list: it stays, and becomes operational at its config change time of the counter's new setting (DESIGN CHOICE, assumption
115). -/
def dropGates (s : State) (hub : Nat) : State :=
  let w := swOf s hub
  let s1 := setSw s hub { w with gates := w.gates.map (fun e => (e.1, { e.2 with oper := [], cycle := 0 })) }
  (List.range 12).foldl (fun t p => wrAll t hub p [(R.QBV_OPER_CYCLE, 0), (R.PORT_STATE, setBit (rd t hub R.PORT_STATE p) 3 false)]) s1

/-- The effect of QBV_COMMIT. -/
def effectQbvCommit (x : Ctx) (t : State) : Effect :=
  let len := rd t x.loc R.QBV_LEN x.inst
  let cyc := rd t x.loc R.QBV_CYCLE x.inst
  let base := ctsNs (ctr t x.loc).sec (rd t x.loc R.QBV_BASE x.inst)
  let at_ := firstAt' base cyc (taiNs t x.loc + 10000)
  let es := (List.range len).map (fun i =>
    let e := tblGet (swOf t x.loc) 6 (x.inst * 256 + i)
    (e.d0 % 256, e.d1))
  let g := (gatesOf t x.loc x.inst).getD ⟨[], 0, 0, 0, 0, none⟩
  let t1 := putGates t x.loc x.inst { g with pending := some ⟨at_, cyc, len, es⟩ }
  .done (wrAll t1 x.loc x.inst [(R.QBV_CHANGE, ctsOfNs at_),
    (R.PORT_STATE, setBit (rd t1 x.loc R.PORT_STATE x.inst) 4 true)])

/-- QBV_COMMIT, R141: copy the port's admin list and settings to a pending set. -/
def execQbvCommit (c : Cmd) (s : State) : Out :=
  command s c .switchPort 0x10 checksQbvCommit effectQbvCommit


/-! ### Lookup (R125 to R129) -/

/-- The bucket of a (MAC, FID) key (R127). -/
def macBucket (mac fid : Nat) : Nat := Config.macHash mac fid % 8192

/-- An entry of the MAC table holds a key. -/
def macIs (e : TblEntry) (mac fid : Nat) : Bool :=
  bit e.d2 17 && e.d0 == mac % 2 ^ 32 && e.d1 % 65536 == mac / 2 ^ 32 % 65536 && fld e.d1 27 16 == fid % 4096

/-- The index of the entry of a (MAC, FID) key. -/
def macFind (w : Switch) (mac fid : Nat) : Option Nat :=
  ((List.range 8).map (fun k => macBucket mac fid * 8 + k)).find? (fun i => macIs (tblGet w 0 i) mac fid)

/-- The way in which a (MAC, FID) key is inserted: its own entry, or a free one (R127). -/
def macSlot (w : Switch) (mac fid : Nat) : Option Nat :=
  match macFind w mac fid with
  | some i => some i
  | none => ((List.range 8).map (fun k => macBucket mac fid * 8 + k)).find? (fun i => !(bit (tblGet w 0 i).d2 17))

/-- Learn a source address as a dynamic entry (R127, R128). -/
def learnMac (s : State) (hub port mac fid : Nat) : State :=
  let w := swOf s hub
  match macSlot w mac fid with
  | none => hwEvent (incr s hub R.LEARN_FULL 0 1) hub .switch 0
  | some i =>
    if bit (tblGet w 0 i).d2 17 && bit (tblGet w 0 i).d2 16 then s
    else
      let w1 := tblPut w 0 i ⟨mac % 2 ^ 32, mac / 2 ^ 32 % 65536 + fid % 4096 * 65536, port + 2 ^ 17, 0⟩
      setSw s hub { w1 with macSeen := mput i s.now w1.macSeen }

/-- MAC_AGE_OUT, R128: a dynamic entry not seen for SW_AGE seconds is removed. -/
def execMacAgeOut (hub idx : Nat) (s : State) : Out :=
  let w := swOf s hub
  let age := fld (rd s hub R.SW_CFG 0) 31 16
  let e := tblGet w 0 idx
  if domRun s hub 7 && age != 0 && idx < 65536 && bit e.d2 17 && !(bit e.d2 16) &&
      decide (mget 0 w.macSeen idx + age * 1000000000 ≤ s.now) then
    .next (setSw s hub { tblPut w 0 idx ⟨0, 0, 0, 0⟩ with macSeen := mdel idx w.macSeen })
  else .next s

/-- The group bit of a destination address, whose first octet stands in bits [47:40]. -/
def isMulticast (mac : Nat) : Bool := bit mac 40

/-- Link-local destinations 01-80-C2-00-00-00 to 0F (R123). -/
def isLinkLocal (mac : Nat) : Bool := mac / 16 == 0x0180C200000

/-- The VLAN of a frame at a port (R125). -/
def frameVid (s : State) (hub port : Nat) (f : Frame) : Nat :=
  match f.tag with
  | some t => if t.vid = 0 then fld (rd s hub R.PORT_CFG port) 15 4 else t.vid
  | none => fld (rd s hub R.PORT_CFG port) 15 4

/-- The egress ports of a lookup, none for a miss that is not flooded (R126 steps 3 and 4). -/
def lookupPorts (w : Switch) (f : Frame) (vlan : TblEntry) (ingress : Nat) : Option (List Nat) :=
  let fid := vlan.d1 % 4096
  let members := maskPorts (vlan.d0 % 65536)
  let hit : Option (List Nat) := match macFind w f.dst fid with
    | some i =>
      let e := tblGet w 0 i
      if bit e.d2 15 then some (maskPorts ((tblGet w 2 (e.d2 % 8192)).d0 % 65536)) else some [e.d2 % 16]
    | none => if bit vlan.d1 (if isMulticast f.dst then 14 else 13) then some members else none
  hit.map (fun ps => ps.filter (fun p => members.contains p && p != ingress))

/-- The ports that the variant has (R122). -/
def realPorts (s : State) (ps : List Nat) : List Nat := ps.filter (fun p => p != 12 || present s 1)

/-- The class of a frame (R126 step 5, R137). -/
def frameClass (s : State) (hub port : Nat) (f : Frame) : Nat :=
  let w := swOf s hub
  match (List.range 8).find? (fun i => bit (tblGet w 8 i).d0 19 && (tblGet w 8 i).d0 % 65536 == f.etype) with
  | some i => fld (tblGet w 8 i).d0 18 16
  | none =>
    let pcp := match f.tag with | some t => t.pcp % 8 | none => 0
    fld (rd s hub R.PORT_PCP_MAP port) (3 * pcp + 2) (3 * pcp)

/-! ### Policers (R143, R144) -/

/-- A meter with full buckets. -/
def meterFull (e : TblEntry) (at_ : Nat) : Meter := ⟨(e.d2 % 2 ^ 24 * 8000000 : Nat), (e.d3 % 2 ^ 24 * 8000000 : Nat), at_, []⟩

/-- A meter's buckets filled up to a time, in millionths of a bit. -/
def meterFill (e : TblEntry) (k : Meter) (at_ : Nat) : Meter :=
  let dt := at_ - k.last
  { k with
    committed := min ((e.d2 % 2 ^ 24 * 8000000 : Nat) : Int) (k.committed + (e.d0 * dt : Nat))
    peak := min ((e.d3 % 2 ^ 24 * 8000000 : Nat) : Int) (k.peak + (e.d1 * dt : Nat)), last := max at_ k.last }

/-- The colour of a frame of `test` bytes that enters with a colour (RFC 2698 as R143 takes it): 0 green, 1 yellow,
2 red. -/
def meterColour (k : Meter) (yellowIn : Bool) (test : Nat) : Nat :=
  let b : Int := (test * 8000000 : Nat)
  if k.peak < b then 2 else if yellowIn || k.committed < b then 1 else 0

/-- The buckets after a frame of `bytes` of a colour was charged. -/
def meterCharge (k : Meter) (colour bytes : Nat) : Meter :=
  let b : Int := (bytes * 8000000 : Nat)
  { k with committed := if colour = 0 then k.committed - b else k.committed,
           peak := if colour = 2 then k.peak else k.peak - b }

/-- A meter at a time, the frames whose last cell has come by then being charged (R144). -/
def meterAt (e : TblEntry) (k : Meter) (at_ : Nat) : Meter :=
  let k1 := (k.due.filter (fun d => decide (d.1 ≤ at_))).foldl (fun x d => meterCharge (meterFill e x d.1) d.2.1 d.2.2) k
  { meterFill e k1 at_ with due := k.due.filter (fun d => decide (at_ < d.1)) }

/-- A charge noted in the order of time. -/
def dueInsert (d : Nat × Nat × Nat) : List (Nat × Nat × Nat) → List (Nat × Nat × Nat)
  | [] => [d]
  | x :: xs => if d.1 < x.1 then d :: x :: xs else x :: dueInsert d xs

/-- The action for a colour: 0 forward, 1 set DEI, 2 drop, 3 class 0 (R143). -/
def meterAction (e : TblEntry) (colour : Nat) : Nat :=
  if colour = 0 then 0 else if colour = 1 then fld e.d2 25 24 else fld e.d2 27 26

/-- The meter that a port and class name, if it is valid (R143, R168). -/
def meterFor (s : State) (hub port cls : Nat) : Option Nat :=
  let q := rd s hub R.Q_POLICER (qosSel port cls)
  if bit q 15 && bit (tblGet (swOf s hub) 3 (q % 1024)).d2 29 then some (q % 1024) else none

/-- Add to a word of a counting table. -/
def tblCount (w : Switch) (table idx word : Nat) : Switch :=
  let e := tblGet w table idx
  let b := fun (k v : Nat) => if word = k then (v + 1) % 2 ^ 32 else v
  tblPut w table idx ⟨b 0 e.d0, b 1 e.d1, b 2 e.d2, b 3 e.d3⟩

/-- Police a frame whose last cell comes at a time: the state after it, its colour and the action (R143, R144). A
store-and-forward frame is metered by the buckets as they stand then; a cut-through frame is coloured now as if it were 64 bytes
long. Either one's true length is charged then. Since a copy needs its colour at the admission test of its first cell (R126,
R132, R145), a frame that begins later and ends earlier is not seen by it (DESIGN CHOICE, assumption 96). -/
def police (s : State) (hub port cls len doneAt : Nat) (dei cuts : Bool) : State × Nat × Nat :=
  match meterFor s hub port cls with
  | none => (s, 0, 0)
  | some m =>
    let w := swOf s hub
    let e := tblGet w 3 m
    let k := meterAt e (mget (meterFull e s.now) w.meters m) s.now
    let colour := meterColour (if cuts then k else meterAt e k doneAt) (bit e.d2 28 && dei) (if cuts then 64 else len)
    let act := meterAction e colour
    let k1 := if s.now < doneAt then { k with due := dueInsert (doneAt, colour, len) k.due } else meterCharge k colour len
    let w1 := tblCount { w with meters := mput m k1 w.meters } 4 m colour
    let w2 := if act = 2 then tblCount w1 4 m 3 else w1
    (setSw s hub w2, colour, act)

/-! ### Buffer and admission (R131 to R133, R145) -/

/-- Cells of a length. -/
def cellsOf (bytes : Nat) : Nat := ceilDiv bytes 64

/-- The sum of all reserves (R131). -/
def rsvSum (s : State) (hub : Nat) : Nat := ((List.range 128).map (fun q => rd s hub R.Q_RSV q)).sum

/-- Cells of a stored frame that have come in (R132): at the line rate of its port. -/
def cellsIn (s : State) (hub : Nat) (f : Stored) : Nat :=
  if f.doneAt ≤ s.now then f.cells
  else min f.cells (max 1 ((s.now - f.startAt) * 1000 / (64 * bytePs s hub f.fin.port)))

/-- Every copy that a hub's queues hold. -/
def allCopies (w : Switch) : List Copy := w.voqs.flatMap (fun e => e.2)

/-- Cells charged for a copy: those of the frame that have come in (R131, R132). -/
def copyCharge (s : State) (hub : Nat) (k : Copy) : Nat :=
  match (swOf s hub).stored.lookup k.fid with
  | some f => min k.cells (cellsIn s hub f)
  | none => k.cells

/-- Cells held as allowance for a copy whose frame still comes in (R132). -/
def copyAllowance (s : State) (hub : Nat) (k : Copy) : Nat :=
  match (swOf s hub).stored.lookup k.fid with
  | some f => if f.doneAt ≤ s.now then 0 else k.room - min k.cells (cellsIn s hub f)
  | none => 0

/-- The copies of an egress queue (R131). -/
def queueCopies (w : Switch) (q : Nat) : List Copy := (allCopies w).filter (fun k => qosSel k.egr k.cls == q)

/-- The allowances of a queue. -/
def queueAllowance (s : State) (hub q : Nat) : Nat := ((queueCopies (swOf s hub) q).map (copyAllowance s hub)).sum

/-- Cells that all queues draw from the shared pool, allowances among them. -/
def poolUsed (s : State) (hub : Nat) : Nat :=
  ((List.range 128).map (fun q => rd s hub R.Q_DEPTH q + queueAllowance s hub q - rd s hub R.Q_RSV q)).sum

/-- The queue has room for a number of cells: its reserve first, then the shared pool up to Q_LIMIT (R131, R132). -/
def queueRoom (s : State) (hub q cells : Nat) : Bool :=
  let d := rd s hub R.Q_DEPTH q + queueAllowance s hub q
  let r := rd s hub R.Q_RSV q
  let excess := (d + cells) - r
  decide (excess ≤ rd s hub R.Q_LIMIT q) && decide (poolUsed s hub + (excess - (d - r)) ≤ 262144 - rsvSum s hub)

/-- Q_DEPTH and Q_PEAK of a queue show the cells charged (R131, R168). -/
def showDepth (hub : Nat) (s : State) (q : Nat) : State :=
  let d := ((queueCopies (swOf s hub) q).map (copyCharge s hub)).sum
  wrAll s hub q [(R.Q_DEPTH, d), (R.Q_PEAK, max d (rd s hub R.Q_PEAK q))]

/-- Cells come in with time (R132): the queues whose copies' frames come in, or have just ended, are charged. -/
def cellsArrive (s : State) (hub : Nat) : State :=
  let w := swOf s hub
  let fids := (w.stored.filter (fun e => decide (e.2.startAt < e.2.doneAt ∧ s.now ≤ e.2.doneAt))).map (fun e => e.1)
  (((allCopies w).filter (fun k => fids.contains k.fid)).map (fun k => qosSel k.egr k.cls)).eraseDups.foldl (showDepth hub) s

/-- The WRED test of a queue (R145): the state after it, and whether the copy is dropped. -/
def wred (s : State) (hub j c colour : Nat) : State × Bool :=
  let q := qosSel j c
  let cfg := rd s hub R.Q_CFG q
  if bit cfg 4 then
    let w := swOf s hub
    let e := tblGet w 5 (fld cfg 11 8)
    let old := mget 0 w.avg q
    let avg := (divFreeless ((old : Int) + (((rd s hub R.Q_DEPTH q * 65536 : Nat) : Int) - old) / (2 ^ (fld e.d2 31 28) : Nat))).toNat
    let t := if colour = 0 then e.d0 else if colour = 1 then e.d1 else e.d2
    let lo := t % 2 ^ 14 * 16 * 65536
    let hi := fld t 27 14 * 16 * 65536
    let pm := fld e.d3 (10 * colour + 9) (10 * colour)
    let s1 := wr (setSw s hub { w with avg := mput q avg w.avg }) hub R.Q_AVG q (avg / 65536)
    if avg < lo then (s1, false)
    else if hi ≤ avg then (s1, true)
    else (drew s1, decide (freeNat s1 % 1024 * (hi - lo) < pm * (avg - lo)))
  else (s, false)
where
  /-- The average is kept with 16 fraction bits; a lower bit is cut off. -/
  divFreeless (x : Int) : Int := x

/-- BUF_FREE (R163): cells not held by a stored frame, with BUF_LOW where it falls below 16,384. -/
def refreshFree (s : State) (hub : Nat) : State :=
  let old := rd s hub R.BUF_FREE 0
  let new := 262144 - ((swOf s hub).stored.map (fun e => e.2.cells)).sum
  let s1 := wr s hub R.BUF_FREE 0 new
  if new < 16384 ∧ 16384 ≤ old then hwEvent s1 hub .switch 3 else s1

/-- One reference to a stored frame goes; the cells are freed with the last (R146). -/
def dropRef (s : State) (hub fid : Nat) : State :=
  let w := swOf s hub
  match w.stored.lookup fid with
  | none => s
  | some f =>
    if f.refs ≤ 1 then refreshFree (setSw s hub { w with stored := mdel fid w.stored }) hub
    else setSw s hub { w with stored := mput fid { f with refs := f.refs - 1 } w.stored }

/-! ### Cut-through (R147 to R151) -/

/-- A copy cuts through from ingress i to egress j in class c (R147). -/
def cutsThrough (s : State) (hub i j c len : Nat) : Bool :=
  let w := swOf s hub
  bit (rd s hub R.PORT_CFG i) 0 && bit (rd s hub R.PORT_CFG j) 0 && decide (i ≤ 11 ∧ j ≤ 13 ∧ 64 ≤ len) &&
  (decide (12 ≤ j) || decide (lineRate s hub j ≤ lineRate s hub i)) &&
  (voq w i j c).isEmpty && !(w.pins.any (fun p => p.2.1 == j)) && gateLets s hub j c (rd s hub R.Q_MAX_SDU (qosSel j c))

/-- A frame is bad (R149): 0 good, 1 FCS, 2 coding, 3 oversize. -/
def badKind (s : State) (hub port : Nat) (f : Frame) : Nat :=
  if f.fcsBad then 1 else if f.symbolErr then 2 else if portMtu s hub port < f.len then 3 else 0

/-- The elapsed time of the last bit of a frame whose first bit has come: frames of internal ports arrive whole (R147). -/
def lastBitAt (s : State) (hub port len : Nat) : Nat := if port < 12 then s.now + ceilDiv (len * bytePs s hub port) 1000 else s.now

/-! ### Copies in virtual output queues -/

/-- Put a copy at the end of its VOQ and charge its queue. -/
def pushCopy (s : State) (hub : Nat) (k : Copy) : State :=
  let w := swOf s hub
  let s1 := setSw s hub { w with voqs := mput (voqKey k.ing k.egr k.cls) (voq w k.ing k.egr k.cls ++ [k]) w.voqs }
  cyc (showDepth hub s1 (qosSel k.egr k.cls)) hub .qos 0x10 (qosSel k.egr k.cls) 1 none

/-- A copy before its first cell. -/
def newCopy (fid i j c bytes room : Nat) : Copy := ⟨fid, i, j, c, cellsOf bytes, 0, false, none, bytes, false, room, 0, 0, 0⟩

/-- Store a frame under the next number. -/
def storeFrame (s : State) (hub : Nat) (f : Stored) : State :=
  let w := swOf s hub
  refreshFree (setSw s hub { w with stored := mput w.nextFid f w.stored, nextFid := w.nextFid + 1 }) hub

/-- A copy dropped at its egress port, with its counter (R588). -/
def dropCopy (s : State) (hub j : Nat) (r : Reg) : State :=
  cyc (incr s hub r j 1) hub .switchPort 0x14 j 1 none

/-- A copy dropped by its queue (R588). -/
def dropQueue (s : State) (hub j c : Nat) (r : Reg) : State :=
  cyc (dropCopy s hub j r) hub .qos 0x11 (qosSel j c) 1 none

/-! ### Samplers (R157, R158) -/

/-- The record of a sampler (R158). -/
def sampleBytes (fin : FrameIn) (ing egr cls colour : Nat) (egress dropped stomped : Bool) (reason sampler : Nat)
    (st : Stamp) : List Byte :=
  bytesLE 8 fin.cts ++ bytesLE 4 fin.order ++ bytesLE 4 (if egress then st.order else 0) ++
  bytesLE 8 (if egress && !dropped then st.cts else 0) ++ bytesLE 2 fin.frame.len ++
  bytesLE 1 (ing % 16 + egr % 16 * 16) ++
  bytesLE 1 (cls % 8 + colour % 4 * 8 + b2n egress * 32 + b2n dropped * 64 + b2n stomped * 128) ++
  bytesLE 2 reason ++ bytesLE 2 sampler ++ (fin.frame.bytes ++ List.replicate 128 0).take 128

/-- A session of the SWITCH page: samplers 0 to 31, mirrors 32 to 35. -/
def sessionOf (w : Switch) (n : Nat) : Session := mget ⟨false, 0, 0, 0, false⟩ w.sessions n

/-- Set a session. -/
def putSession (s : State) (hub n : Nat) (k : Session) : State :=
  let w := swOf s hub
  setSw s hub { w with sessions := mput n k w.sessions }

/-- N and the mode of a sampler (R164). -/
def samplerN (s : State) (hub n : Nat) : Nat := rd s hub R.SMP_N n % 2 ^ 24 + 1
def samplerRandom (s : State) (hub n : Nat) : Bool := bit (rd s hub R.SMP_CFG n) 5

/-- The gap to a sampler's next chosen frame (R157): N, or in random mode uniform from 1 to 2N − 1 by a free value. -/
def samplerGap (s : State) (hub n : Nat) : State × Nat :=
  let k := samplerN s hub n
  if samplerRandom s hub n then (drew s, 1 + freeNat s % (2 * k - 1)) else (s, k)

/-- A sampler's record goes to P15 through the crossbar as class 0 traffic (R158), by the VOQ of the sampled port. It is no
frame: ports' frame counters, samplers and mirrors pass it over (DESIGN CHOICE, assumption 97). -/
def pushSample (s : State) (hub port : Nat) (fin : FrameIn) (bs : List Byte) : State :=
  let d := wred s hub 15 0 0
  if d.2 then dropQueue d.1 hub 15 0 R.WRED_DROP
  else if !(queueRoom d.1 hub (qosSel 15 0) (cellsOf (portMtu d.1 hub port))) then dropQueue d.1 hub 15 0 R.TAIL_DROP
  else pushCopy (storeFrame d.1 hub ⟨fin, 1, 3, 0, s.now, s.now, some bs⟩) hub (newCopy (swOf d.1 hub).nextFid port 15 0 160 3)

/-- The sampler chooses this frame, with the session after it (R157, R165): a gap drawn for other settings is drawn anew. -/
def sampleTake (s : State) (hub n : Nat) : State × Session × Bool :=
  let k := sessionOf (swOf s hub) n
  let same := k.n == samplerN s hub n && k.random == samplerRandom s hub n
  let g := if same then (s, k.gap) else samplerGap s hub n
  if k.count + 1 < g.2 then (g.1, ⟨true, k.count + 1, g.2, samplerN s hub n, samplerRandom s hub n⟩, false)
  else
    let next := samplerGap g.1 hub n
    (next.1, ⟨true, 0, next.2, samplerN s hub n, samplerRandom s hub n⟩, true)

/-- One frame passes a sampler's port (R157, R158). -/
def sampleOne (hub port : Nat) (egress dropped : Bool) (fin : FrameIn) (mk : Nat → List Byte) (s : State) (n : Nat) : State :=
  let cfg := rd s hub R.SMP_CFG n
  if (sessionOf (swOf s hub) n).active && cfg % 16 == port && bit cfg 4 == egress && (!dropped || bit cfg 6) then
    let t := sampleTake (incr s hub R.SMP_SEEN n 1) hub n
    let s1 := putSession t.1 hub n t.2.1
    if t.2.2 then incr (pushSample s1 hub port fin (mk n)) hub R.SMP_TAKEN n 1 else s1
  else s

/-- Every sampler sees a frame. -/
def samplers (s : State) (hub port : Nat) (egress dropped : Bool) (fin : FrameIn) (mk : Nat → List Byte) : State :=
  (List.range 32).foldl (sampleOne hub port egress dropped fin mk) s

/-- SAMPLER_RECORD, R158: a sampler record that has reached P15 is written into the ring, or dropped when it is full. The ring
is full when one more record would bring SMP_HEAD to SMP_TAIL, where the two tell an empty ring (DESIGN CHOICE, assumption
116). -/
def execSamplerRecord (hub : Nat) (s : State) : Out :=
  let w := swOf s hub
  match w.samples with
  | [] => .next s
  | bs :: rest =>
    let s1 := setSw s hub { w with samples := rest }
    let n := 2 ^ (rd s hub R.SMP_RING_SIZE 0)
    let head := rd s hub R.SMP_HEAD 0
    if (head + 1) % n = rd s hub R.SMP_TAIL 0 % n then
      .next (hwEvent (incr s1 hub R.SMP_DROP 0 1) hub .switch 1)
    else
      .next (wr (writeBytes s1 (rd s hub R.SMP_RING_BASE 0 + head % n * 160) bs) hub R.SMP_HEAD 0 ((head + 1) % n))

/-! ### Mirrors (R159) -/

/-- The mirror sessions that are active and name a port in their ingress or egress mask. -/
def mirrorsOf (s : State) (hub port : Nat) (egress : Bool) : List Nat :=
  [32, 33, 34, 35].filter (fun n => (sessionOf (swOf s hub) n).active &&
    bit (rd s hub R.MIR_SRC n) (port + (if egress then 16 else 0)))

/-- A mirror copy of a frame of a colour, in the form in which it was received or sent, to a session's destination (R159), where
R132, R140 and R145 apply; a refused one is counted there. -/
def mirrorCopy (s : State) (hub n i fid colour : Nat) (form : Frame) (stomp : Bool) : State × Bool :=
  let dst := rd s hub R.MIR_DST n
  let j := dst % 16
  let c := fld dst 6 4
  let bytes := if bit dst 7 then min form.len 128 else form.len
  let room := cellsOf (portMtu s hub i)
  if portState s hub j != 2 || rd s hub R.Q_MAX_SDU (qosSel j c) < bytes then (incr s hub R.MIRROR_DROP j 1, false)
  else
    let d := wred s hub j c colour
    if d.2 || !(queueRoom d.1 hub (qosSel j c) room) then (incr d.1 hub R.MIRROR_DROP j 1, false)
    else (incr (pushCopy d.1 hub { newCopy fid i j c bytes room with mirror := some form, stomp := stomp }) hub R.SMP_SEEN n 1, true)

/-- The mirror copies of a frame received at a port: the state, and how many were admitted. -/
def mirrorIn (s : State) (hub i fid colour : Nat) (form : Frame) : State × Nat :=
  (mirrorsOf s hub i false).foldl (fun (acc : State × Nat) n =>
    let o := mirrorCopy acc.1 hub n i fid colour form false
    (o.1, acc.2 + b2n o.2)) (s, 0)

/-- A frame as the buffer holds it. -/
def storedOf (s : State) (hub : Nat) (fin : FrameIn) (refs colour : Nat) : Stored :=
  ⟨fin, refs, cellsOf fin.frame.len, colour, s.now, lastBitAt s hub fin.port fin.frame.len, none⟩

/-- Keep a frame's references, or drop it where no copy was admitted (R146). -/
def keepRefs (s : State) (hub fid refs : Nat) : State :=
  let w := swOf s hub
  if refs = 0 then refreshFree (setSw s hub { w with stored := mdel fid w.stored }) hub
  else setSw s hub { w with stored := w.stored.map (fun e => if e.1 = fid then (e.1, { e.2 with refs := refs }) else e) }

/-- The mirror copies of a received frame of a colour that no egress takes. -/
def mirrorOnly (s : State) (hub : Nat) (fin : FrameIn) (colour : Nat) : State :=
  if (mirrorsOf s hub fin.port false).isEmpty then s
  else
    let fid := (swOf s hub).nextFid
    let m := mirrorIn (storeFrame s hub (storedOf s hub fin 1 colour)) hub fin.port fid colour fin.frame
    keepRefs m.1 hub fid m.2

/-! ### The copies of a frame -/

/-- What became of one egress copy: the state, whether it was admitted, whether it is cut through and stomped, and the
drop reason of R158. -/
structure CopyOut where
  state : State
  admitted : Bool
  stomped : Bool
  reason : Nat

/-- Bytes at which a cut-through copy of a bad frame ends (R150): all of them for an FCS that does not check, the MTU for an
oversize frame, and a free point after the first 64 bytes for a coding error. -/
def badBytes (s : State) (hub i len bad : Nat) : State × Nat :=
  if bad = 2 then (drew s, 64 + freeNat s % (len - 63)) else (s, if bad = 3 then min len (portMtu s hub i) else len)

/-- One egress copy of a received frame (R126 step 7, R132, R145, R147 to R151, R161). -/
def admitCopy (s : State) (hub i j c colour fid len bad : Nat) : CopyOut :=
  if portState s hub j != 2 then ⟨dropCopy s hub j R.DOWN_DROP, false, false, 7⟩
  else
    let q := qosSel j c
    let sdu := rd s hub R.Q_MAX_SDU q
    let cut := cutsThrough s hub i j c len
    if bad != 0 && !cut then ⟨s, false, false, 8⟩
    else if !cut && decide (sdu < len) then
      ⟨hwEvent (dropCopy s hub j R.MAX_SDU_DROP) hub .switchPort 17, false, false, 6⟩
    else
      let d := wred s hub j c colour
      let room := cellsOf (portMtu d.1 hub i)
      if d.2 then ⟨dropQueue d.1 hub j c R.WRED_DROP, false, false, 4⟩
      else if !(queueRoom d.1 hub q room) then ⟨dropQueue d.1 hub j c R.TAIL_DROP, false, false, 5⟩
      else
        let b := badBytes d.1 hub i len bad
        let excess := cut && decide (sdu < b.2)
        let s1 := if excess then hwEvent (incr b.1 hub R.MAX_SDU_DROP j 1) hub .switchPort 17 else b.1
        let stomp := cut && (bad != 0 || excess)
        ⟨pushCopy s1 hub { newCopy fid i j c (if excess then sdu else b.2) room with cut := cut, stomp := stomp }, true, stomp, 0⟩

/-- What the lane logic makes of a frame's egress ports: the state, the ports served, and the frame with what the far hub is to
do with it. -/
structure Adjusted where
  state : State
  ports : List Nat
  fin : FrameIn

/-- What the lane logic does to a frame's egress ports: from the ports of the lookup to those that are served. -/
abbrev Adjust := State → List Nat → Adjusted

/-- DEI of a C-tag, in the tag and in the frame's bytes. -/
def setDei (f : Frame) : Frame :=
  match f.tag with
  | none => f
  | some t => { f with
      tag := some { t with dei := true }
      bytes := patch f.bytes 14 [BitVec.ofNat 8 (setBit ((f.bytes[14]?.getD 0).toNat) 4 true)] }

/-- The frame as it leaves the policer (R143). -/
def policed (fin : FrameIn) (act : Nat) : FrameIn :=
  if act = 1 then { fin with frame := setDei fin.frame, dei := true } else fin

/-- The record of a stomped frame with its EVENT bit (R150). `reason` is 1 a bad FCS, 2 a coding error, 3 oversize, 4 over
the maximum SDU, 5 the port went down; the manual gives no code of them (DESIGN CHOICE, log entry 102). -/
def stompRec (s : State) (hub : Nat) (fin : FrameIn) (stomps : List Nat) (reason : Nat) : State :=
  if stomps.isEmpty then s
  else
    let st := pageStamp s hub hub .switch fin.cts
    eventRec (tickPageBy s hub hub .switch fin.cts) hub hub .switch st 0 2 fin.port [fin.port, portsMask stomps,
      Config.stompReason reason, fin.cts]

/-- Enter a frame's copies into their queues, and those of its ingress mirrors in the form in which it was received (R126 step
7, R146, R150, R159). `ports` and `cls` are already decided. -/
def enterCopies (s : State) (hub : Nat) (fin : FrameIn) (form : Frame) (ports : List Nat) (cls colour bad : Nat) : State :=
  let i := fin.port
  let fid := (swOf s hub).nextFid
  let step := fun (acc : State × List (Nat × CopyOut)) (j : Nat) =>
    let o := admitCopy acc.1 hub i j cls colour fid fin.frame.len bad
    (o.state, acc.2 ++ [(j, o)])
  let r := (realPorts s ports).foldl step (storeFrame s hub (storedOf s hub fin 1 colour), [])
  let m := if bad = 0 then mirrorIn r.1 hub i fid colour form else (r.1, 0)
  let refs := (r.2.filter (fun o => o.2.admitted)).length + m.2
  let s1 := keepRefs m.1 hub fid refs
  let s2 := stompRec s1 hub fin ((r.2.filter (fun o => o.2.stomped)).map (fun o => o.1)) (if bad = 0 then 4 else bad)
  let gone := !(r.2.any (fun o => o.2.admitted))
  let reason := (r.2.map (fun o => o.2.reason)).foldl max 0
  samplers s2 hub i false gone fin (sampleBytes fin i 0 cls colour false gone false (if gone then reason else 0) · ⟨0, 0⟩)

/-- Every sampler of a port sees a frame that the switch drops, for a reason of R158. -/
def sampleDrop (s : State) (hub : Nat) (fin : FrameIn) (reason : Nat) : State :=
  samplers s hub fin.port false true fin (sampleBytes fin fin.port 0 0 0 false true false reason · ⟨0, 0⟩)

/-- A frame of a colour dropped at its ingress port (R126), with its counter and the drop reason. Its ingress mirrors still have
it (R159). -/
def dropIngress (s : State) (hub : Nat) (fin : FrameIn) (r : Reg) (reason colour : Nat) : State :=
  sampleDrop (mirrorOnly (incr s hub r fin.port 1) hub fin colour) hub fin reason

/-- The counters of a received frame (R167, R588). -/
def countRx (s : State) (hub : Nat) (fin : FrameIn) : State :=
  let p := fin.port
  let s1 := incr (incr s hub R.SWITCH_PORT_RX_FRAMES p 1) hub R.RX_BYTES p fin.frame.len
  let s2 := if isMulticast fin.frame.dst then incr s1 hub R.RX_MCAST p 1 else s1
  cyc (cyc s2 hub .switchPort 0x10 p 1 none) hub .switchPort 0x11 p fin.frame.len none

/-- A frame's class is policed and its copies enter their queues (R126 steps 5 to 7). A frame with both cut-through and stored
copies is metered as a cut-through frame (R144; DESIGN CHOICE, assumption 96). -/
def classAndEnter (s : State) (hub : Nat) (fin : FrameIn) (ports : List Nat) (cls bad : Nat) : State :=
  let f := fin.frame
  let cuts := ports.any (fun j => cutsThrough s hub fin.port j cls f.len)
  let dei := match f.tag with | some t => t.dei | none => false
  let p := police s hub fin.port cls f.len (lastBitAt s hub fin.port f.len) dei cuts
  if p.2.2 = 2 then dropIngress p.1 hub fin R.POLICE_DROP 3 p.2.1
  else enterCopies p.1 hub (policed fin p.2.2) f ports (if p.2.2 = 3 then 0 else cls) p.2.1 bad

/-- What steps 2 to 4 of R126 and the lane logic make of a frame: the state, the frame and its egress ports, and for a frame
that is dropped the counter and the reason of R158. -/
structure Plan where
  state : State
  fin : FrameIn
  ports : List Nat
  drop : Option (Reg × Nat)

/-- Steps 2 to 4 of R126. `always` lists ports that the lane logic serves whatever the lookup says; `good` says that the frame
is not bad, so its source may be learned. -/
def planFrame (s : State) (hub : Nat) (fin : FrameIn) (always : List Nat) (good : Bool) (adj : Adjust) : Plan :=
  let f := fin.frame
  let p := fin.port
  if f.etype = 0x8808 then ⟨s, fin, [], some (R.CTRL_DROP, 10)⟩
  else if isLinkLocal f.dst then ⟨s, fin, [15], none⟩
  else
    let w := swOf s hub
    let vid := frameVid s hub p f
    let vlan := tblGet w 1 vid
    if !(bit vlan.d1 12) || (bit (rd s hub R.PORT_CFG p) 2 && !(bit vlan.d0 p)) then ⟨s, fin, always, some (R.VLAN_DROP, 1)⟩
    else
      let s1 := if good && bit (rd s hub R.PORT_CFG p) 1 && bit (rd s hub R.SW_CFG 0) 0 then
          learnMac s hub p f.src (vlan.d1 % 4096) else s
      let found := lookupPorts w f vlan p
      let a := adj s1 ((found.getD []).filter (fun j => !(always.contains j)))
      let ports := realPorts s (always ++ a.ports)
      ⟨a.state, { a.fin with vid := some vid }, ports, if found.isNone && ports.isEmpty then some (R.UNKNOWN_DROP, 2) else none⟩

/-- A bad frame (R149, R150): it ends at step 1 unless a copy of it cuts through, which is stomped. What a lookup of a good frame
would have changed stays as it was. -/
def badFrame (s : State) (hub : Nat) (fin : FrameIn) (cls : Option Nat) (always : List Nat) (bad : Nat) (adj : Adjust) : State :=
  let s1 := incr s hub (if bad = 1 then R.RX_CRC_ERR else if bad = 2 then R.RX_SYMBOL_ERR else R.RX_OVERSIZE) fin.port 1
  let p := planFrame s1 hub fin always false adj
  let c := cls.getD (frameClass s1 hub fin.port fin.frame)
  if p.drop.isNone && p.ports.any (fun j => cutsThrough s1 hub fin.port j c fin.frame.len) then classAndEnter s1 hub p.fin p.ports c bad
  else sampleDrop s1 hub fin (if bad = 3 then 9 else 8)

/-- The processing of a received frame (R126). `cls` overrides the class, as for a publication. A frame under 64 bytes is a runt
whatever else is wrong with it, and the error checks come before that of MAC control (DESIGN CHOICE, assumption 98). -/
def switchIngress (s : State) (hub : Nat) (fin : FrameIn) (cls : Option Nat) (always : List Nat) (adj : Adjust) : State :=
  let s0 := countRx s hub fin
  let bad := badKind s0 hub fin.port fin.frame
  if fin.frame.len < 64 then sampleDrop (incr s0 hub R.RX_RUNT fin.port 1) hub fin 8
  else if bad != 0 then badFrame s0 hub fin cls always bad adj
  else
    let p := planFrame s0 hub fin always true adj
    let c := cls.getD (frameClass s0 hub fin.port fin.frame)
    match p.drop with
    | some d =>
      let s1 := incr p.state hub d.1 fin.port 1
      if p.ports.isEmpty then sampleDrop (mirrorOnly s1 hub fin 0) hub fin d.2 else classAndEnter s1 hub p.fin p.ports c 0
    | none => classAndEnter p.state hub p.fin p.ports c 0

/-- A frame that the far hub sends to given ports (R160, R173, R180): it needs no lookup. -/
def directIngress (s : State) (hub : Nat) (fin : FrameIn) (ports : List Nat) : State :=
  let s0 := countRx s hub fin
  let bad := badKind s0 hub fin.port fin.frame
  if bad != 0 then sampleDrop (incr s0 hub (if bad = 1 then R.RX_CRC_ERR else if bad = 2 then R.RX_SYMBOL_ERR else R.RX_OVERSIZE) fin.port 1) hub fin 8
  else classAndEnter s0 hub fin ports (frameClass s0 hub fin.port fin.frame) 0

/-- A frame from P15 of the other hub for this hub's LANE ports (R172): it bypasses lookup, VLAN filter and policers as it did
there. -/
def laneCopies (s : State) (hub : Nat) (fin : FrameIn) (cls : Nat) : State :=
  let s0 := countRx s hub fin
  if fin.frame.fcsBad then sampleDrop (incr s0 hub R.RX_CRC_ERR fin.port 1) hub fin 8
  else enterCopies s0 hub fin fin.frame (lanePorts s hub) cls 0 0

/-- A frame injected at P15 with an explicit port mask and class (R123): it bypasses lookup, VLAN filter and policers. A copy for
P12 of a frame with a sequence number is the other lane's (R172); another is looked up at the other hub. -/
def injectP15 (s : State) (hub : Nat) (f : Frame) (ports : List Nat) (cls : Nat) : State :=
  let st := stampOf s hub (256 + 15) 0
  let fin : FrameIn := {
    frame := f, hub := hub, port := 15, lane := hub, cts := st.cts, order := st.order, own := true, pass := false
    across := ⟨f.red.isNone, false, false, if f.red.isSome then some cls else none, false⟩ }
  enterCopies (countRx (tickSrc s hub (256 + 15)) hub fin) hub fin f (ports.filter (fun p => p != 15)) cls 0 0

/-! ### Central scheduler (R134 to R138) -/

/-- The first number of a rotation of n, from a start, that meets a test. -/
def rotFind (n start : Nat) (p : Nat → Bool) : Option Nat := ((List.range n).map (fun k => (start + k) % n)).find? p

/-- The C-tag with which a frame leaves a port (R125, R166): none where the VLAN's untag mask names the port, else its VLAN's, with
the priority it came with (0 where it came without a tag: PRESUMED, assumption 100). A frame that was not looked up leaves as
it came. -/
def outTag (s : State) (hub j : Nat) (fin : FrameIn) : Option VTag :=
  match fin.vid with
  | none => fin.frame.tag
  | some v =>
    if bit ((tblGet (swOf s hub) 1 v).d0) (16 + j) then none
    else some (match fin.frame.tag with
      | some t => { t with vid := v }
      | none => ⟨0, fin.dei, v⟩)

/-- A frame with its C-tag put in, changed or taken out, in its bytes as in its fields. A frame that falls below 64 bytes is
padded with zeros (PRESUMED, assumption 100). -/
def withTag (f : Frame) (tag : Option VTag) : Frame :=
  if f.tag = tag then f
  else
    let head := f.bytes.take 12
    let body := f.bytes.drop (if f.tag.isSome then 16 else 12)
    let mid := match tag with
      | some t => [0x81, 0x00] ++ bytesBE 2 (t.pcp % 8 * 8192 + b2n t.dei * 4096 + t.vid % 4096)
      | none => []
    let bs := head ++ mid ++ body
    let short := 64 - (f.len + 4 * b2n tag.isSome - 4 * b2n f.tag.isSome)
    { f with tag := tag, bytes := bs ++ List.replicate short 0, len := f.len + 4 * b2n tag.isSome - 4 * b2n f.tag.isSome + short }

/-- The length in which a copy leaves its port: with the C-tag that it leaves with (R125), and cut as a mirror or a stomped copy
is. -/
def sentLen (s : State) (hub : Nat) (k : Copy) : Nat :=
  match (swOf s hub).stored.lookup k.fid with
  | none => k.bytes
  | some f =>
    match k.mirror with
    | some m => min m.len k.bytes
    | none =>
      let n := (withTag f.fin.frame (outTag s hub k.egr f.fin)).len
      if k.bytes = f.fin.frame.len then n else min n k.bytes

/-- The length in bytes that the gate test uses for a copy (R140): a stored one's true length, as it is sent. -/
def gateLen (s : State) (hub : Nat) (k : Copy) : Nat :=
  if k.cut then rd s hub R.Q_MAX_SDU (qosSel k.egr k.cls) else sentLen s hub k

/-- A copy has a cell ready: a stored one once its frame is in whole, one that cuts through once its next cell is in (R134,
R147). -/
def cellReady (s : State) (hub : Nat) (k : Copy) : Bool :=
  match (swOf s hub).stored.lookup k.fid with
  | some f => if k.cut then decide (k.moved < min k.cells (cellsIn s hub f)) else decide (f.doneAt ≤ s.now)
  | none => true

/-- VOQ(i, j, c) has an eligible head frame (R135, R138). -/
def eligible (s : State) (hub i j c : Nat) : Bool :=
  match voq (swOf s hub) i j c with
  | [] => false
  | k :: _ => portState s hub j == 2 && cellReady s hub k && gateLets s hub j c (gateLen s hub k)

/-- The head copy of a VOQ in bytes. -/
def headBytes (s : State) (hub i j c : Nat) : Nat :=
  match voq (swOf s hub) i j c with
  | [] => 0
  | k :: _ => k.bytes

/-- The ingress that egress j would grant in class c among some requesters: at or after g[j][c] (R135). -/
def grantFor (s : State) (hub j c : Nat) (req : Nat → Bool) : Option Nat := rotFind 16 (mget 0 (swOf s hub).grant (j * 8 + c)) req

/-- The mode of a queue: DWRR where Q_CFG [0] is 1 (R138, R168). -/
def isDwrr (s : State) (hub j c : Nat) : Bool := bit (rd s hub R.Q_CFG (qosSel j c)) 0

/-- The quantum of a queue in bytes (R138, R168). -/
def quantum (s : State) (hub j c : Nat) : Int := ((max 1 (fld (rd s hub R.Q_CFG (qosSel j c)) 27 16) * 64 : Nat) : Int)

/-- Deficit round robin at egress j (R138): the class it serves, with the deficits and the class pointer after the
search. `len c` is the head length that class c would serve, none where c does not request. -/
def dwrrPick (q : Nat → Int) (len : Nat → Option Nat) : Nat → Map Int → Nat → Nat → Option (Nat × Map Int × Nat)
  | 0, _, _, _ => none
  | n + 1, d, j, c =>
    let here := mget 0 d (j * 8 + c)
    let next := (c + 1) % 8
    let move := fun (d1 : Map Int) =>
      let d2 := match len next with
        | some _ => mput (j * 8 + next) (mget 0 d1 (j * 8 + next) + q next) d1
        | none => mput (j * 8 + next) 0 d1
      dwrrPick q len n d2 j next
    match len c with
    | some l => if (l : Int) ≤ here then some (c, d, c) else move d
    | none => move (mput (j * 8 + c) 0 d)

/-- Transmission selection at egress j (R138): the class, the ingress granted, and the deficits and pointer to keep. -/
def selectAt (s : State) (hub j : Nat) (req : Nat → Nat → Bool) : Option (Nat × Nat × Map Int × Nat) :=
  let w := swOf s hub
  let cand := fun c => grantFor s hub j c (fun i => req i c)
  match ((List.range 8).map (fun k => 7 - k)).find? (fun c => !(isDwrr s hub j c) && (cand c).isSome) with
  | some c => (cand c).map (fun i => (c, i, w.deficit, mget 0 w.dwrr j))
  | none =>
    let len := fun c => if isDwrr s hub j c then (cand c).map (fun i => headBytes s hub i j c) else none
    if (List.range 8).any (fun c => (len c).isSome) then
      match dwrrPick (quantum s hub j) len 1200 w.deficit j (mget 0 w.dwrr j) with
      | some (c, d, p) => (cand c).map (fun i => (c, i, mput (j * 8 + c) (mget 0 d (j * 8 + c) - (headBytes s hub i j c : Int)) d, p))
      | none => none
    else none

/-- A grant: egress, ingress, class, and the DWRR state to keep if it is accepted. -/
structure Grant where
  egr : Nat
  ing : Nat
  cls : Nat
  deficit : Map Int
  dwrr : Nat

/-- The grants of one iteration for the unmatched ports (R135). A pinned egress takes cells of its frame only (R134). -/
def grantsOf (s : State) (hub : Nat) (pairs : List (Nat × Nat × Nat)) : List Grant :=
  let freeI := fun i => !(pairs.any (fun p => p.1 == i))
  ((List.range 16).filter (fun j => txRoom s hub j && !(pairs.any (fun p => p.2.1 == j)) &&
      !((swOf s hub).pins.any (fun p => p.2.1 == j)))).filterMap (fun j =>
    (selectAt s hub j (fun i c => freeI i && eligible s hub i j c)).map (fun r => ⟨j, r.2.1, r.1, r.2.2.1, r.2.2.2⟩))

/-- One iteration of request, grant and accept (R135). -/
def iterate (first : Bool) (hub : Nat) (acc : State × List (Nat × Nat × Nat)) : State × List (Nat × Nat × Nat) :=
  let gs := grantsOf acc.1 hub acc.2
  (List.range 16).foldl (fun (a : State × List (Nat × Nat × Nat)) i =>
    let mine := gs.filter (fun g => g.ing == i)
    match rotFind 16 (mget 0 (swOf a.1 hub).accept i) (fun j => mine.any (fun g => g.egr == j)) with
    | none => a
    | some j =>
      match mine.find? (fun g => g.egr == j) with
      | none => a
      | some g =>
        let w := swOf a.1 hub
        let row := fun (m : Map Int) => (List.range 8).foldl (fun d c => mput (j * 8 + c) (mget 0 g.deficit (j * 8 + c)) d) m
        let w1 := { w with deficit := row w.deficit, dwrr := mput j g.dwrr w.dwrr }
        let w2 := if first then { w1 with grant := mput (j * 8 + g.cls) ((i + 1) % 16) w1.grant, accept := mput i ((j + 1) % 16) w1.accept } else w1
        (setSw a.1 hub w2, a.2 ++ [(i, j, g.cls)])) acc

/-- The pinned pairs that a slot keeps (R134): those whose frame has a cell ready. An ingress port sends one cell in a slot
(R124), so of two pinned frames of one ingress the first pinned moves (DEDUCED, assumption 99). -/
def readyPins (s : State) (hub : Nat) : List (Nat × Nat × Nat) :=
  (swOf s hub).pins.foldl (fun acc p => match voq (swOf s hub) p.1 p.2.1 p.2.2 with
    | [] => acc
    | k :: _ => if cellReady s hub k && !(acc.any (fun q => q.1 == p.1)) then acc ++ [p] else acc) []

/-- The lane tag or trailer that a frame carries on a LANE port (R171): PTP and link-local frames carry none. -/
def laneTagged (s : State) (hub p : Nat) (f : Frame) : Bool :=
  portRole s hub p == 1 && f.red.isSome && f.etype != 0x88F7 && !(isLinkLocal f.dst)

/-- The redundancy tag with which a frame leaves a port (R171): as it came in, and for a frame of the device or of a SAN that of
the port's lane (R172, R174). -/
def laneTag (s : State) (hub p : Nat) (fin : FrameIn) : Option RedTag :=
  if laneTagged s hub p fin.frame then
    fin.frame.red.map (fun r => if fin.own then ⟨r.seq, portLane s hub p, decide (laneMode s hub = 2)⟩ else r)
  else none

/-- The counter's sixteen bits below a nanosecond (R102). -/
def fracNow (s : State) (hub : Nat) : Nat := (ctr s hub).frac / 2 ^ 32

/-- The transparent-clock correction (R101): an event message of another clock leaves a port with its residence time added to
correctionField, where AGP_CFG [3] of the port enables it. -/
def corrected (s : State) (hub j : Nat) (k : Copy) (fin : FrameIn) (f : Frame) : Frame :=
  match f.content with
  | .ptp true c =>
    if j < 12 && !fin.own && bit (rd s hub R.AGP_CFG j) 3 && fin.cts != 0 && k.cts != 0 then
      let now := (ctr s hub).sec
      let stay : Int := (((ctsNs now k.cts : Nat) : Int) - (ctsNs now fin.cts : Nat)) * 65536 + ((k.frac : Int) - fin.frac)
      let at_ := 14 + (if f.tag.isSome then 4 else 0) + 8
      { f with content := .ptp true (c + stay), bytes := patch f.bytes at_ (bytesBE 8 (uns 64 (c + stay))) }
    else f
  | _ => f

/-- A frame as it leaves a port (R101, R125, R143, R171), cut to the length sent; a mirror copy leaves as its original came or
went (R159). -/
def outFrame (s : State) (hub j : Nat) (k : Copy) (f : Stored) : Frame :=
  let g := match k.mirror with
    | some m => m
    | none => { corrected s hub j k f.fin (withTag f.fin.frame (outTag s hub j f.fin)) with red := laneTag s hub j f.fin }
  let n := if k.mirror.isNone && k.bytes = f.fin.frame.len then g.len else min g.len k.bytes
  { g with len := n, bytes := g.bytes.take n }

/-- The counters of a copy that has left a port (R151, R167, R588): a stomped one counts as no frame sent, but its bytes are. -/
def countTx (s : State) (hub j : Nat) (k : Copy) (out : Frame) : State :=
  let s1 := if k.cut then cyc (incr s hub R.CT_FRAMES j 1) hub .switchPort 0x15 j 1 none else s
  if k.stomp then
    cyc (incr (incr s1 hub R.CT_STOMP j 1) hub R.TX_BYTES j out.len) hub .switchPort 0x13 j out.len none
  else
    let a := incr (incr s1 hub R.SWITCH_PORT_TX_FRAMES j 1) hub R.TX_BYTES j out.len
    let b := if isMulticast out.dst then incr a hub R.TX_MCAST j 1 else a
    let c := if out.red.isSome then incr b hub R.TX_TAGGED j 1 else b
    let q := qosSel j k.cls
    let d := incr (incr c hub R.TXQ_FRAMES q 1) hub R.TXQ_BYTES q out.len
    cyc (cyc d hub .switchPort 0x12 j 1 none) hub .switchPort 0x13 j out.len none

/-- A frame's last cell leaves at P0 to P11 (R102, R150, R193). A SerDes port whose SD_CFG disables its transmitter puts nothing
on the wire (DEDUCED, assumption 101). -/
def wireOut (s : State) (hub j : Nat) (k : Copy) (out : Frame) : State :=
  if decide (j < 10) && bit (rd s hub R.SD_CFG j) 5 then s
  else { s with sent := s.sent ++ [⟨hub, j, out, k.cts, k.order, k.stomp⟩] }

/-- A frame reaches the far side of an internal port (R122, R178, R180). A stomped copy is a bad frame there: the far hub finds
its FCS wrong, and P13 does not deliver it (R150). -/
def internalOut (s : State) (hub j : Nat) (k : Copy) (f : Stored) (out : Frame) : State :=
  let fin := { f.fin with frame := { out with red := f.fin.frame.red, fcsBad := k.stomp } }
  let w := swOf s hub
  match j with
  | 12 =>
    let o := 1 - hub
    if axleAlive s && domRun s o 7 then
      let v := swOf s o
      setSw s o { v with fromAxle := v.fromAxle ++ [fin] }
    else s
  | 13 => if k.stomp then s else setSw s hub { w with toP13 := w.toP13 ++ [fin] }
  | 14 => setSw s hub { w with toP14 := w.toP14 ++ [fin] }
  | _ => setSw s hub { w with toP15 := w.toP15 ++ [fin] }

/-- A copy that has left its port: the counters, the far side, the egress samplers and the egress mirrors, whose copies are
further references to the stored frame in the form in which it was sent (R157, R159). -/
def frameOut (s : State) (hub : Nat) (k : Copy) (f : Stored) : State :=
  let j := k.egr
  let out := outFrame s hub j k f
  let s1 := countTx s hub j k out
  let s2 := if j < 12 then wireOut s1 hub j k out else internalOut s1 hub j k f out
  let s3 := samplers s2 hub j true false { f.fin with frame := out } (sampleBytes { f.fin with frame := out } k.ing j k.cls f.colour true false k.stomp 0 · ⟨k.cts, k.order⟩)
  (mirrorsOf s3 hub j true).foldl (fun t n =>
    let o := mirrorCopy t hub n k.ing k.fid f.colour out k.stomp
    if o.2 then
      let v := swOf o.1 hub
      setSw o.1 hub { v with stored := mmod f k.fid (fun g => { g with refs := g.refs + 1 }) v.stored }
    else o.1) s3

/-- The last cell of a copy has moved (R134, R146): the copy leaves its queue and its port. -/
def copyDone (s : State) (hub : Nat) (k : Copy) : State :=
  let w := swOf s hub
  let key := voqKey k.ing k.egr k.cls
  let s1 := setSw s hub { w with
    voqs := mput key ((mget [] w.voqs key).drop 1) w.voqs
    pins := w.pins.filter (fun p => p != (k.ing, k.egr, k.cls)) }
  let s2 := showDepth hub s1 (qosSel k.egr k.cls)
  match w.stored.lookup k.fid with
  | none => s2
  | some f =>
    match f.sample with
    | some bs =>
      let v := swOf s2 hub
      dropRef (setSw s2 hub { v with samples := v.samples ++ [bs] }) hub k.fid
    | none => dropRef (frameOut s2 hub k f) hub k.fid

/-- The egress stamp of a frame, taken at its first cell (R102): it leaves once the transmit FIFO has sent what it holds. -/
def stampCopy (s : State) (hub : Nat) (k : Copy) (f : Stored) : State × Copy :=
  let wait := txWait s hub k.egr
  let cause := if wait = 0 || !(ctr s hub).valid then f.fin.cts else max f.fin.cts (ctsOfNs (taiNs s hub + wait) - 1)
  let st := stampOf s hub (272 + k.egr) cause
  (tickSrcBy s hub (272 + k.egr) cause, { k with cts := st.cts, order := st.order, frac := fracNow s hub })

/-- A port's transmit FIFO takes a cell of a copy; behind the last one the wire rests for preamble, delimiter and gap. -/
def txTake (s : State) (hub : Nat) (k : Copy) : State :=
  if k.egr < 12 then
    let w := swOf s hub
    let n := min 64 (k.bytes - 64 * k.moved) + (if k.cells ≤ k.moved + 1 then 20 else 0)
    setSw s hub { w with txEnd := mput k.egr (max (mget 0 w.txEnd k.egr) (s.now * 1000) + n * bytePs s hub k.egr) w.txEnd }
  else s

/-- A matched pair moves one cell (R124, R134). A port whose transmit FIFO is full takes none. -/
def moveCell (hub : Nat) (s : State) (p : Nat × Nat × Nat) : State :=
  let w := swOf s hub
  match voq w p.1 p.2.1 p.2.2 with
  | [] => setSw s hub { w with pins := w.pins.filter (fun q => q != p) }
  | k :: rest =>
    if !(txRoom s hub p.2.1) then s
    else
      let t := match w.stored.lookup k.fid with
        | some f => if k.moved = 0 && f.sample.isNone then stampCopy s hub k f else (s, k)
        | none => (s, k)
      let k1 := { t.2 with moved := k.moved + 1 }
      let u := txTake t.1 hub t.2
      let v := swOf u hub
      let s1 := setSw u hub { v with
        voqs := mput (voqKey p.1 p.2.1 p.2.2) (k1 :: rest) v.voqs
        pins := if v.pins.contains p then v.pins else v.pins ++ [p] }
      if k1.cells ≤ k1.moved then copyDone s1 hub k1 else s1

/-- CROSSBAR_SLOT, R124, R134, R135: pinned pairs stay matched, three iterations match the rest, and every matched pair
moves one cell. -/
def execCrossbarSlot (hub : Nat) (s : State) : Out :=
  if domRun s hub 7 then
    let m := iterate false hub (iterate false hub (iterate true hub (s, readyPins s hub)))
    .next (m.2.foldl (moveCell hub) m.1)
  else .next s

/-! ### Port down and up (R160 to R162) -/

/-- Flush every VOQ whose egress is a port (R160 step 2). -/
def flushPort (s : State) (hub p : Nat) : State :=
  let keys := (List.range 16).flatMap (fun i => (List.range 8).map (fun c => voqKey i p c))
  let w := swOf s hub
  let copies := keys.flatMap (fun k => mget [] w.voqs k)
  let s1 := setSw s hub { w with
    voqs := mkeep (fun k => !(keys.contains k)) w.voqs, pins := w.pins.filter (fun q => q.2.1 != p) }
  let s2 := (List.range 8).foldl (fun t c => wr t hub R.Q_DEPTH (qosSel p c) 0) s1
  let s3 := copies.foldl (fun t k => dropRef t hub k.fid) s2
  incr s3 hub R.DOWN_FLUSH p copies.length

/-- A window without a number that it has accepted. -/
def Win.free (w : Win) (seq : Nat) : Win :=
  let n := (w.h + 65536 - seq % 65536) % 65536
  if n < 128 then { w with map := setBit w.map n false } else w

/-- A frame that turns out to be bad gives back the numbers that its first bit took in its node's windows (R150): the good copy
of the other lane is not its duplicate. -/
def freeWindows (s : State) (hub : Nat) (fin : FrameIn) : State :=
  let l := laneOf s hub
  match fin.frame.red with
  | none => s
  | some t => setLane s hub { l with nodes := l.nodes.map (fun e =>
      if e.2.mac = fin.frame.src then (e.1, { e.2 with
        win := if fin.kept then e.2.win.free t.seq else e.2.win
        passA := if fin.pass ∧ fin.lane = 0 then e.2.passA.free t.seq else e.2.passA
        passB := if fin.pass ∧ fin.lane ≠ 0 then e.2.passB.free t.seq else e.2.passB }) else e) }

/-- A frame that a port was receiving is bad (R149): its stored copies are dropped, and those that cut through end at the cells
that have come in, stomped (R150). It counts as a coding error of the port (DESIGN CHOICE, assumption 102). -/
def endReception (hub : Nat) (s : State) (fid : Nat) : State :=
  let w := swOf s hub
  match w.stored.lookup fid with
  | none => s
  | some f =>
    let came := cellsIn s hub f
    let mine := (allCopies w).filter (fun k => k.fid == fid)
    let cuts := mine.filter (fun k => k.cut)
    let ends := fun (k : Copy) => if k.fid = fid ∧ k.cut then
        { k with cells := max came (k.moved + 1), bytes := min k.bytes (64 * max came (k.moved + 1)), stomp := true } else k
    let w1 := { w with
      voqs := w.voqs.map (fun e => (e.1, (e.2.filter (fun k => !(k.fid == fid && !k.cut))).map ends))
      stored := if cuts.isEmpty then mdel fid w.stored
        else w.stored.map (fun e => if e.1 = fid then (e.1, { e.2 with refs := cuts.length, doneAt := s.now }) else e) }
    let s1 := refreshFree (incr (setSw s hub w1) hub R.RX_SYMBOL_ERR f.fin.port 1) hub
    let s2 := (mine.map (fun k => qosSel k.egr k.cls)).eraseDups.foldl (showDepth hub) s1
    stompRec (freeWindows s2 hub f.fin) hub f.fin (cuts.map (fun k => k.egr)) 5

/-- The frames that a port is receiving. -/
def receiving (s : State) (hub p : Nat) : List Nat :=
  ((swOf s hub).stored.filter (fun e => e.2.fin.port == p && e.2.sample.isNone && decide (s.now < e.2.doneAt))).map (fun e => e.1)

/-- A port goes down (R160). -/
def portDown (s : State) (hub p : Nat) : State :=
  if portState s hub p = 0 then s
  else
    let s1 := flushPort (putPortState (wr s hub R.DOWN_STAMP p (ctsNow s hub)) hub p 0 true) hub p
    (receiving s1 hub p).foldl (endReception hub) s1

/-- The link of a port is up: the lane logic's link for P0 to P11, the Axle for P12, any Spoke for P13 (R160). -/
def portLinked (s : State) (hub p : Nat) : Bool :=
  if p < 12 then rd s hub R.LP_STATE p % 8 == 2
  else if p = 12 then axleAlive s
  else if p = 13 then (computeDies s).any (fun d => spokeAlive s d hub)
  else true

/-- The link returns: HOLD (R162). -/
def portReturn (s : State) (hub p : Nat) : State :=
  if portState s hub p = 0 then
    let w := swOf s hub
    putPortState (setSw s hub { w with holdAt := mput p s.now w.holdAt }) hub p 1 (bit (rd s hub R.PORT_STATE p) 2)
  else s

/-- The hold of a port has lasted PORT_HOLD_UP, of which more than 10,000 ms is taken as 10,000 (R162, R167). -/
def holdOver (s : State) (hub p : Nat) : Bool :=
  decide (mget 0 (swOf s hub).holdAt p + min 10000 (rd s hub R.PORT_HOLD_UP p) * 1000000 ≤ s.now)

/-- PORT_DOWN, R160: a port whose link has gone goes down. -/
def execPortDown (hub port : Nat) (s : State) : Out :=
  .next (if domRun s hub 7 && port < 16 && !(portLinked s hub port) then portDown s hub port else s)

/-- PORT_FLUSH_DONE, R160 step 4: FLUSHING clears. -/
def execPortFlushDone (hub port : Nat) (s : State) : Out :=
  .next (if domRun s hub 7 && port < 16 && bit (rd s hub R.PORT_STATE port) 2 then
    wr s hub R.PORT_STATE port (setBit (rd s hub R.PORT_STATE port) 2 false) else s)

/-- PORT_LINK_RETURN, R162. -/
def execPortLinkReturn (hub port : Nat) (s : State) : Out :=
  .next (if domRun s hub 7 && port < 16 && portLinked s hub port then portReturn s hub port else s)

/-! ### Commands (R165, R166) -/

/-- Entries of a table (R166). -/
def tblSize : Nat → Nat
  | 0 => 65536
  | 1 => 4096
  | 2 => 8192
  | 3 => 1024
  | 4 => 1024
  | 5 => 16
  | 6 => 4096
  | 7 => 4096
  | 8 => 8
  | 9 => 1024
  | _ => 0

/-- An entry of an operational gate list (table 7). -/
def operEntry (s : State) (hub idx : Nat) : TblEntry :=
  match gatesOf s hub (idx / 256) with
  | some g =>
    match g.oper[idx % 256]? with
    | some e => ⟨e.1, e.2, 0, 0⟩
    | none => ⟨0, 0, 0, 0⟩
  | none => ⟨0, 0, 0, 0⟩

/-- An entry as TBL_READ shows it: a MAC entry with its age in seconds, saturating. -/
def tblShown (s : State) (hub table idx : Nat) : TblEntry :=
  let w := swOf s hub
  if table = 7 then operEntry s hub idx
  else if table = 0 && bit (tblGet w 0 idx).d2 17 then
    let e := tblGet w 0 idx
    { e with d2 := setFld e.d2 31 24 (if bit e.d2 16 then 0 else min 255 ((s.now - mget 0 w.macSeen idx) / 1000000000)) }
  else tblGet w table idx

/-- Load an entry into the issuer's TBL_DATA. -/
def loadTblData (s : State) (hub ini : Nat) (e : TblEntry) : State :=
  let r := fun k => R.TBL_DATA0_3.nth k
  wrB (wrB (wrB (wrB s hub (r 0) ini e.d0) hub (r 1) ini e.d1) hub (r 2) ini e.d2) hub (r 3) ini e.d3

/-- The issuer's TBL_DATA. -/
def tblData (s : State) (hub ini : Nat) : TblEntry :=
  let r := fun k => rdB s hub (R.TBL_DATA0_3.nth k) ini
  ⟨r 0, r 1, r 2, r 3⟩

/-- The checks of a SWITCH opcode that is legal whether or not the selected instance is ACTIVE. -/
def swChecks (arg : Bool) (s : State) (x : Ctx) : Checks := { Checks.pass with argOk := arg, idle := pageIdle s x }

/-- The checks of TBL_READ. -/
def checksTblRead (t : State) (x : Ctx) : Checks :=
  swChecks (decide (x.cmdArg < tblSize x.sub)) t x

/-- The effect of TBL_READ. -/
def effectTblRead (x : Ctx) (t : State) : Effect :=
  .done (loadTblData t x.loc x.who.ini (tblShown t x.loc x.sub x.cmdArg))

/-- TBL_READ, R165. -/
def execTblRead (c : Cmd) (s : State) : Out :=
  command s c .switch 0x10 checksTblRead effectTblRead

/-- An entry may be written to a table (R166). -/
def tblEntryOk (table idx : Nat) (e : TblEntry) : Bool :=
  match table with
  | 3 => decide (e.d0 ≤ e.d1) && decide (e.d2 % 2 ^ 24 ≠ 0 ∧ e.d3 % 2 ^ 24 ≠ 0)
  | 5 => [e.d0, e.d1, e.d2].all (fun t => decide (t % 2 ^ 14 ≤ fld t 27 14))
  | 6 => decide (64 ≤ e.d1 ∧ idx / 256 ≤ 11)
  | 4 | 7 => false
  | _ => true

/-- The MAC and FID that an entry's DATA0 and DATA1 hold. -/
def entryMac (e : TblEntry) : Nat := e.d0 + e.d1 % 65536 * 2 ^ 32
def entryFid (e : TblEntry) : Nat := fld e.d1 27 16

/-- A write of a MAC entry finds a way in its bucket (R127). -/
def macRoom (w : Switch) (e : TblEntry) : Bool := !(bit e.d2 17) || (macSlot w (entryMac e) (entryFid e)).isSome

/-- A table's entry without its reserved and read-only bits (R11, R166). -/
def tblMask (table : Nat) (e : TblEntry) : TblEntry :=
  match table with
  | 0 => ⟨e.d0, e.d1 % 2 ^ 28, (if bit e.d2 15 then e.d2 % 2 ^ 13 + 2 ^ 15 else e.d2 % 16) + e.d2 / 2 ^ 16 % 4 * 2 ^ 16, 0⟩
  | 1 => ⟨e.d0, e.d1 % 2 ^ 15, 0, 0⟩
  | 2 => ⟨e.d0 % 2 ^ 16, 0, 0, 0⟩
  | 3 => ⟨e.d0, e.d1, e.d2 % 2 ^ 30, e.d3 % 2 ^ 24⟩
  | 5 => ⟨e.d0 % 2 ^ 28, e.d1 % 2 ^ 28, e.d2, e.d3 % 2 ^ 30⟩
  | 6 => ⟨e.d0 % 2 ^ 8, e.d1, 0, 0⟩
  | 8 => ⟨e.d0 % 2 ^ 20, 0, 0, 0⟩
  | 9 => ⟨e.d0 % 2 ^ 14, 0, 0, 0⟩
  | _ => e

/-- Write an entry to a table (R165, R166): a valid MAC entry goes to the bucket of its key, and every other to its index. -/
def writeTbl (s : State) (hub table idx : Nat) (e : TblEntry) : State :=
  let w := swOf s hub
  let m := tblMask table e
  match table with
  | 0 =>
    if bit e.d2 17 then
      match macSlot w (entryMac e) (entryFid e) with
      | some i => setSw s hub { tblPut w 0 i m with macSeen := mput i s.now w.macSeen }
      | none => s
    else setSw s hub { tblPut w 0 idx m with macSeen := mdel idx w.macSeen }
  | 3 => setSw s hub { tblPut w 3 idx m with meters := mput idx (meterFull m s.now) w.meters }
  | 9 =>
    let o := tblGet w 9 idx
    setSw s hub (tblPut w 9 idx { o with d0 := m.d0 })
  | _ => setSw s hub (tblPut w table idx m)

/-- The checks of TBL_WRITE. -/
def checksTblWrite (t : State) (x : Ctx) : Checks :=
  let e := tblData t x.loc x.who.ini
  { swChecks (decide (x.cmdArg < tblSize x.sub) && tblEntryOk x.sub x.cmdArg e) t x with
    room := x.sub != 0 || macRoom (swOf t x.loc) e }

/-- The effect of TBL_WRITE. -/
def effectTblWrite (x : Ctx) (t : State) : Effect :=
  .done (writeTbl t x.loc x.sub x.cmdArg (tblData t x.loc x.who.ini))

/-- TBL_WRITE, R165, R166. -/
def execTblWrite (c : Cmd) (s : State) : Out :=
  command s c .switch 0x11 checksTblWrite effectTblWrite

/-- The checks of MAC_SEARCH. -/
def checksMacSearch (t : State) (x : Ctx) : Checks :=
  swChecks true t x

/-- The effect of MAC_SEARCH. -/
def effectMacSearch (x : Ctx) (t : State) : Effect :=
  let e := tblData t x.loc x.who.ini
  match macFind (swOf t x.loc) (entryMac e) (entryFid e) with
  | some i => ⟨loadTblData (wrB t x.loc R.TBL_INDEX x.who.ini i) x.loc x.who.ini (tblShown t x.loc 0 i), .done, 1⟩
  | none => .done t

/-- MAC_SEARCH, R165. -/
def execMacSearch (c : Cmd) (s : State) : Out :=
  command s c .switch 0x12 checksMacSearch effectMacSearch

/-- The checks of MAC_FLUSH. -/
def checksMacFlush (t : State) (x : Ctx) : Checks :=
  swChecks (decide (x.sub = 0 ∨ (x.sub = 1 ∧ x.argument < 16) ∨ (x.sub = 2 ∧ x.argument < 4096))) t x

/-- The effect of MAC_FLUSH. -/
def effectMacFlush (x : Ctx) (t : State) : Effect :=
  let w := swOf t x.loc
  let goes := fun (e : Nat × TblEntry) => decide (e.1 < 65536) && bit e.2.d2 17 && !(bit e.2.d2 16) &&
    (x.sub == 0 || (x.sub == 1 && !(bit e.2.d2 15) && e.2.d2 % 16 == x.argument) || (x.sub == 2 && entryFid e.2 == x.argument))
  .done (setSw t x.loc { w with tables := w.tables.filter (fun e => !(goes e)) })

/-- MAC_FLUSH, R165: remove dynamic entries, all, of a port, or of an FID. -/
def execMacFlush (c : Cmd) (s : State) : Out :=
  command s c .switch 0x13 checksMacFlush effectMacFlush

/-- The counters of SWITCH_PORT (R167). -/
def portCounters : List Reg :=
  [R.SWITCH_PORT_RX_FRAMES, R.RX_BYTES, R.SWITCH_PORT_TX_FRAMES, R.TX_BYTES, R.RX_MCAST, R.TX_MCAST, R.RX_CRC_ERR,
   R.RX_SYMBOL_ERR, R.RX_RUNT, R.RX_OVERSIZE, R.CTRL_DROP, R.VLAN_DROP, R.UNKNOWN_DROP, R.POLICE_DROP, R.CT_FRAMES,
   R.CT_STOMP, R.WRED_DROP, R.TAIL_DROP, R.MAX_SDU_DROP, R.DOWN_FLUSH, R.DOWN_DROP, R.MIRROR_DROP, R.PUB_WAIT]

/-- The checks of SwitchClearCounters. -/
def checksSwitchClearCounters (t : State) (x : Ctx) : Checks :=
  swChecks (decide (x.argument < 16 ∨ x.argument = 0xFFFF)) t x

/-- The effect of SwitchClearCounters. -/
def effectSwitchClearCounters (x : Ctx) (t : State) : Effect :=
  .done
    (if x.argument = 0xFFFF then
      let t1 := clearInsts t x.loc 0 16 portCounters
      let w := swOf t1 x.loc
      setSw t1 x.loc { w with tables := mkeep (fun k => k / 65536 != 4) w.tables }
     else clearRegs t x.loc x.argument portCounters)

/-- CLEAR_COUNTERS of SWITCH, R165: of port ARGUMENT, or of all ports and meters. -/
def execSwitchClearCounters (c : Cmd) (s : State) : Out :=
  command s c .switch 0x14 checksSwitchClearCounters effectSwitchClearCounters

/-- The settings of a session are acceptable (R164, R165). -/
def sessionOk (s : State) (hub n : Nat) : Bool :=
  if n < 32 then decide (8 ≤ rd s hub R.SMP_RING_SIZE 0 ∧ rd s hub R.SMP_RING_SIZE 0 ≤ 20)
  else
    let j := rd s hub R.MIR_DST n % 16
    decide (j ≤ 11) && !(bit (rd s hub R.MIR_SRC n) j) && !(bit (rd s hub R.MIR_SRC n) (16 + j))

/-- The checks of SESSION_START. -/
def checksSessionStart (t : State) (x : Ctx) : Checks :=
  { swChecks (sessionOk t x.loc x.inst) t x with legal := !(sessionOf (swOf t x.loc) x.inst).active }

/-- The effect of SESSION_START. -/
def effectSessionStart (x : Ctx) (t : State) : Effect :=
  let g := samplerGap t x.loc x.inst
  .done (wrAll (putSession g.1 x.loc x.inst ⟨true, 0, g.2, samplerN t x.loc x.inst, samplerRandom t x.loc x.inst⟩) x.loc x.inst
    [(R.SESSION_STATE, 1), (R.SMP_SEEN, 0), (R.SMP_TAKEN, 0)])

/-- SESSION_START, R165: start the sampler or session chosen by SEL; counting restarts. -/
def execSessionStart (c : Cmd) (s : State) : Out :=
  command s c .switch 0x15 checksSessionStart effectSessionStart

/-- The checks of SESSION_STOP. -/
def checksSessionStop (t : State) (x : Ctx) : Checks :=
  { swChecks true t x with legal := (sessionOf (swOf t x.loc) x.inst).active }

/-- The effect of SESSION_STOP. -/
def effectSessionStop (x : Ctx) (t : State) : Effect :=
  .done (wr (putSession t x.loc x.inst ⟨false, 0, 0, 0, false⟩) x.loc R.SESSION_STATE x.inst 0)

/-- SESSION_STOP, R165. -/
def execSessionStop (c : Cmd) (s : State) : Out :=
  command s c .switch 0x16 checksSessionStop effectSessionStop

/-- A write of Q_RSV (R133): refused where the reserves would exceed their bound. -/
def qRsvWrite (t : Target) (v : Nat) (s : State) : State :=
  if rsvSum s t.loc - rd s t.loc R.Q_RSV t.inst + v ≤ 262144 - 16 * 145 then
    let s1 := writeT s t v
    wr s1 t.loc R.BUF_POOL 0 (262144 - rsvSum s1 t.loc)
  else hwEvent s t.loc .switch 4

/-- Q_RSV_WRITE, R133. -/
def execQRsvWrite (a : Access) (s : State) : Out := writeReg (accAt R.Q_RSV a) qRsvWrite s

/-! ### Publications (R152 to R154, R335, R472, R494) -/

/-- The Tandem gate is open at a hub (R469, R472). -/
def gateOpen (s : State) (hub : Nat) : Bool := domRun s hub 7 && bit (rd s hub R.TD_STATE 0) 3

/-- SH_EG_RATE and SH_EG_BURST in force for a VI (R333). -/
def egRate (s : State) (v : Nat) : Nat := rd s (viHome s v) R.SHF_EG_RATE v
def egBurst (s : State) (v : Nat) : Nat := rd s (viHome s v) R.SHF_EG_BURST v

/-- A trigger of either hub is armed for a publication entry (R153 step 3). -/
def entryTimed (s : State) (e : Nat) : Bool := s.trigs.any (fun t => t.2.armed && t.2.code == 6 && t.2.index == e)

/-- What the lane logic does with a frame at a hub. -/
abbrev Lanes := FrameIn → Adjust

/-- A send that passed R153 goes through the gate and the tagging, and on as a frame of the hub's own lane (R152, R472,
R494). -/
def forwardSend (s : State) (hub : Nat) (x : Send) (adj : Lanes) : State :=
  let w := swOf s hub
  let e := tblGet w 9 x.entry
  if bit e.d0 12 && !(gateOpen s hub) then incr s hub R.GATE_DROP 0 1
  else
    let pk := rd s hub R.PK_CFG (256 + x.entry)
    let t := if bit pk 10 then
        let r := tagFrame s hub (pk % 1024) x.frame
        (if r.2.isSome then incr r.1 hub R.PK_TAGGED (256 + x.entry) 1 else r.1, r.2)
      else (s, some x.frame)
    match t.2 with
    | none => t.1
    | some f =>
      let st := stampOf t.1 hub (256 + 13) x.cause
      let s1 := setSw (tickSrcBy t.1 hub (256 + 13) x.cause) hub (tblCount (swOf t.1 hub) 9 x.entry 1)
      let fin : FrameIn := { frame := f, hub := hub, port := 13, lane := hub, cts := st.cts, order := st.order, own := true, pass := false }
      switchIngress s1 hub fin (some (fld e.d0 10 8)) [] (adj fin)

/-- A send of a VI already waits for tokens at P13. -/
def tokenWaits (w : Switch) (v : Nat) : Bool := w.waiting.any (fun x => x.vi == v && !x.tokens)

/-- Step 3 of R153 for a send that has its tokens. Sends of one VI leave in the order posted as far as tokens hold them back; a
later send through an entry that is not TIMED does not wait for an earlier TIMED one's firing (DESIGN CHOICE, assumption
117). -/
def timedStep (s : State) (hub : Nat) (x : Send) (adj : Lanes) : State :=
  let w := swOf s hub
  if bit (tblGet w 9 x.entry).d0 11 then
    if entryTimed s x.entry then setSw s hub { w with waiting := w.waiting ++ [{ x with tokens := true }] }
    else setSw s hub (tblCount w 9 x.entry 3)
  else forwardSend s hub x adj

/-- The frame length of a send exceeds SH_EG_BURST: it is dropped and counted (R335). A held page counts nothing (R616). -/
def dropOversize (s : State) (v : Nat) : State :=
  if pageRun s (viHome s v) .derailleur then incr s (viHome s v) R.EG_OVERSIZE v 1 else s

/-- The checks of R153 on a send that reaches P13. An entry that is not VALID has no owner, so a send that names it counts in its
PUB_DENIED (DESIGN CHOICE, assumption 118). With a rate of 0 a send waits (R335). -/
def sendCheck (s : State) (hub : Nat) (x : Send) (adj : Lanes) : State :=
  let w := swOf s hub
  let e := tblGet w 9 x.entry
  if !(bit e.d0 13) || e.d0 % 256 != x.vi then
    let st := pageStamp s hub hub .switch x.cause
    record (setSw (tickPageBy s hub hub .switch x.cause) hub (tblCount w 9 x.entry 2)) hub hub .switch st 0 0x23 false x.entry [x.entry, x.vi]
  else if egBurst s x.vi < x.frame.len then dropOversize s x.vi
  else
    let have_ := mget 0 w.tokens x.vi
    if tokenWaits w x.vi || decide (egRate s x.vi = 0) || decide (have_ < x.frame.len * 65536) then
      incr (setSw s hub { w with waiting := w.waiting ++ [{ x with tokens := false }] }) hub R.PUB_WAIT 13 1
    else timedStep (setSw s hub { w with tokens := mput x.vi (have_ - x.frame.len * 65536) w.tokens }) hub x adj

/-- The sends of a VI that wait for tokens and now have enough leave in order, none at a rate of 0; one that a lowered burst has
made too long is dropped (R153, R335). -/
def releaseTokens (adj : Lanes) (hub v : Nat) : Nat → State → State
  | 0, s => s
  | n + 1, s =>
    let w := swOf s hub
    match w.waiting.find? (fun x => x.vi == v && !x.tokens) with
    | none => s
    | some x =>
      let have_ := mget 0 w.tokens v
      if egBurst s v < x.frame.len then
        releaseTokens adj hub v n (dropOversize (setSw s hub { w with waiting := w.waiting.erase x }) v)
      else if egRate s v = 0 ∨ have_ < x.frame.len * 65536 then s
      else
        let s1 := setSw s hub { w with waiting := w.waiting.erase x, tokens := mput v (have_ - x.frame.len * 65536) w.tokens }
        releaseTokens adj hub v n (timedStep s1 hub x adj)

/-- The gain of a bucket in 1 µs, in units of 2^-16 byte (R335). -/
def tokenGain (rate : Nat) : Nat := (divFree ((rate * 65536 : Nat) : Int) 8000).toNat

/-- A VI's bucket gains one microsecond's tokens, once that microsecond has passed (R335). -/
def refill (adj : Lanes) (s : State) (hub v : Nat) : State :=
  let w := swOf s hub
  let t := min (mget 0 w.tokens v + tokenGain (egRate s v)) (egBurst s v * 65536)
  if mget 0 w.tokenAt v < s.now / 1000 then
    releaseTokens adj hub v (w.waiting.length + 1)
      (setSw s hub { w with tokens := mput v t w.tokens, tokenAt := mput v (mget 0 w.tokenAt v + 1) w.tokenAt })
  else s

/-- A firing for a publication entry releases the oldest waiting send of the entry at one hub, or is counted as missed
(R153 step 3). -/
def gooseTimedAt (adj : Lanes) (entry cts : Nat) (s : State) (hub : Nat) : State :=
  if domRun s hub 7 then
    let w := swOf s hub
    match w.waiting.find? (fun x => x.entry == entry && x.tokens) with
    | some x => forwardSend (setSw s hub { w with waiting := w.waiting.erase x }) hub { x with cause := cts } adj
    | none => setSw s hub (tblCount w 9 entry 3)
  else s

end Sys2Proof.Machine
end

