-- ==== Sys2Proof/Machine/Lane.lean ====
section
/-!
DEFINITION. Sys2Proof/Machine/Lane.lean: duplicated lanes, the node table, stream homing, port links and partner
measurement (R169 to R194), and how a frame enters the switch (R126, R171 to R180).
-/
namespace Sys2Proof.Machine

/-! ### Lanes and streams -/

/-- Where a live stream stands. -/
def streamKey (hub i : Nat) : Nat := hub * 1024 + i

/-- The enabled entry that a sampled-value frame matches at a hub (R196). -/
def svEntry (s : State) (hub : Nat) (f : Frame) : Option Nat :=
  (s.streams.find? (fun e => e.1 / 1024 == hub && e.2.match0 == f.dst % 2 ^ 32 &&
    e.2.match1 == f.dst / 2 ^ 32 % 65536 + f.appid * 65536)).map (fun e => e.1 % 1024)

/-- The SANs that the device proxies (R174). -/
def sanMacs (s : State) : List Nat :=
  (hubs s).flatMap (fun h => ((laneOf s h).nodes.filter (fun e => e.2.kind == 3)).map (fun e => e.2.mac))

/-- The addresses that are the device's own (R173): the fused address of each hub and every source MAC that a counter
of R172 serves. -/
def ownMacs (s : State) : List Nat :=
  let fused := (hubs s).map (fun h => rd s h R.MG_MAC 0 % 2 ^ 48)
  let ours := (hubs s).flatMap (fun h => (laneOf s h).seqs.map (fun e => e.1))
  let guests := (computeDies s).flatMap (fun d => ((s.xlates.lookup d).map (fun x => x.seqs.map (fun e => e.1))).getD [])
  (fused ++ ours ++ guests).filter (fun m => !((sanMacs s).contains m))

/-! ### The node table (R175, R176, R191, R192) -/

/-- The places that a node's MAC may take: the ways of its bucket (R175, R191). -/
def nodePlaces (mac : Nat) : List Nat := (List.range 8).map (fun k => Config.nodeHash mac % 8192 * 8 + k)

/-- The place of a node. -/
def nodeFind (l : Lane) (mac : Nat) : Option Nat :=
  (nodePlaces mac).find? (fun i => ((l.nodes.lookup i).map (fun n => n.mac)) == some mac)

/-- The place for a node: its own, or a free one of its bucket. -/
def nodeSlot (l : Lane) (mac : Nat) : Option Nat :=
  match nodeFind l mac with
  | some i => some i
  | none => (nodePlaces mac).find? (fun i => (l.nodes.lookup i).isNone)

/-- A cleared window. -/
def Win.empty : Win := ⟨false, 0, 0⟩

/-- A new node. -/
def Node.fresh (mac kind home now : Nat) : Node :=
  ⟨mac, kind, home, false, Win.empty, Win.empty, Win.empty, 0, 0, 0, 0, none, none, now⟩

/-- Set a node. -/
def putNode (s : State) (hub i : Nat) (n : Node) : State :=
  let l := laneOf s hub
  let l1 := { l with nodes := mput i n l.nodes }
  wr (setLane s hub l1) hub R.NODE_COUNT 0 l1.nodes.length

/-- Remove nodes. -/
def keepNodes (s : State) (hub : Nat) (p : Nat → Node → Bool) : State :=
  let l := laneOf s hub
  let l1 := { l with nodes := l.nodes.filter (fun e => p e.1 e.2) }
  wr (setLane s hub l1) hub R.NODE_COUNT 0 l1.nodes.length

/-- DEFAULT_HOME; hub A in the KZ2 (R178). -/
def defaultHome (s : State) (hub : Nat) : Nat := if dualLane s then 0 else b2n (bit (rd s hub R.LANE_CFG 0) 3)

/-- A node enters the table, or is refused because its bucket is full (R175). -/
def enterNode (s : State) (hub mac kind home : Nat) : State :=
  let l := laneOf s hub
  match nodeFind l mac with
  | some _ => s
  | none =>
    match nodeSlot l mac with
    | some i => putNode s hub i (Node.fresh mac kind home s.now)
    | none => hwEvent (incr s hub R.NODE_FULL 0 1) hub .lane 0

/-- A frame of a node was seen on a lane, rightly or on the wrong LAN (R171, R192). -/
def sawNode (s : State) (hub mac lane : Nat) (wrong : Bool) : State :=
  let l := laneOf s hub
  match nodeFind l mac with
  | none => s
  | some i =>
    let n := mget (Node.fresh mac 0 0 0) l.nodes i
    let n1 := if lane = 0 then { n with framesA := (n.framesA + 1) % 2 ^ 32, seenA := some s.now }
      else { n with framesB := (n.framesB + 1) % 2 ^ 32, seenB := some s.now }
    setLane s hub { l with nodes := mput i { n1 with wrong := (n1.wrong + b2n wrong) % 2 ^ 32 } l.nodes }

/-- What the window of R176 answers: the window after it, whether the frame is accepted, and whether its number was
older than the window. -/
def Win.check (w : Win) (seq : Nat) : Win × Bool × Bool :=
  let q := seq % 65536
  if !w.started then (⟨true, q, 1⟩, true, false)
  else
    let d := (q + 65536 - w.h) % 65536
    if 1 ≤ d ∧ d ≤ 32767 then (⟨true, q, (w.map * 2 ^ d + 1) % 2 ^ 128⟩, true, false)
    else if d = 0 ∨ 65536 - 127 ≤ d then
      let n := (65536 - d) % 65536
      if bit w.map n then (w, false, false) else (⟨true, w.h, setBit w.map n true⟩, true, false)
    else (⟨true, q, 1⟩, true, true)

/-- The three windows of a node: deliveries (R177), and HSR passing from lane A and from lane B (R173). -/
inductive WinKind where
  | deliver | passA | passB
  deriving DecidableEq, Repr

/-- A window of a node. -/
def Node.window (n : Node) : WinKind → Win
  | .deliver => n.win
  | .passA => n.passA
  | .passB => n.passB

/-- A node with a window replaced. -/
def Node.withWindow (n : Node) (w : Win) : WinKind → Node
  | .deliver => { n with win := w }
  | .passA => { n with passA := w }
  | .passB => { n with passB := w }

/-- The window test of R176 on a frame at a hub, by one of its node's windows: whether the frame is kept. Discards and numbers
older than the window count at the port that received the frame (R190). -/
def winCheck (s : State) (hub : Nat) (fin : FrameIn) (seq : Nat) (kind : WinKind) : State × Bool :=
  let l := laneOf s hub
  match nodeFind l fin.frame.src with
  | none => (s, true)
  | some i =>
    let n := mget (Node.fresh fin.frame.src 0 0 0) l.nodes i
    let r := (n.window kind).check seq
    let n1 := n.withWindow r.1 kind
    let n2 := if r.2.1 then { n1 with accepted := s.now } else { n1 with dups := (n.dups + 1) % 2 ^ 32 }
    let s1 := setLane s hub { l with nodes := mput i n2 l.nodes }
    let lan := fin.inPort < 12 && domRun s fin.hub 7
    let s2 := if r.2.2 && lan then incr s1 fin.hub R.OUT_OF_WINDOW fin.inPort 1 else s1
    (if !r.2.1 && lan then incr s2 fin.hub R.LANE_DUP_DISCARD fin.inPort 1 else s2, r.2.1)

/-- The home hub of a node (R178): the surviving hub after the other was lost (R182). -/
def nodeHome (s : State) (hub mac : Nat) : Nat :=
  let l := laneOf s hub
  if dualLane s || l.state == 2 then hub
  else match nodeFind l mac with
    | some i => (mget (Node.fresh mac 0 0 0) l.nodes i).home
    | none => hub

/-- ENTRY_FORGET_EXPIRY, R176: a window that accepted nothing for ENTRY_FORGET is cleared. -/
def execEntryForgetExpiry (hub idx : Nat) (s : State) : Out :=
  let l := laneOf s hub
  match l.nodes.lookup idx with
  | none => .next s
  | some n =>
    if domRun s hub 7 && decide (n.accepted + within 10 10000 (rd s hub R.ENTRY_FORGET 0) * 1000000 ≤ s.now) then
      .next (setLane s hub { l with nodes := mput idx { n with win := Win.empty, passA := Win.empty, passB := Win.empty } l.nodes })
    else .next s

/-- Elapsed time at which a node was last seen on either lane. -/
def Node.lastSeen (n : Node) : Nat := max (n.seenA.getD 0) (max (n.seenB.getD 0) (if n.seenA.isNone && n.seenB.isNone then n.accepted else 0))

/-- NODE_FORGET in ns (R189). -/
def nodeForget (s : State) (hub : Nat) : Nat := within 1 3600 (rd s hub R.NODE_FORGET 0) * 1000000000

/-- NODE_FORGET_EXPIRY, R176: a dynamic entry with no frame on either lane for NODE_FORGET is removed. -/
def execNodeForgetExpiry (hub idx : Nat) (s : State) : Out :=
  match (laneOf s hub).nodes.lookup idx with
  | none => .next s
  | some n =>
    if domRun s hub 7 && !n.static_ && decide (n.lastSeen + nodeForget s hub ≤ s.now) then
      .next (keepNodes s hub (fun i _ => i != idx))
    else .next s

/-- Milliseconds since an elapsed time, saturating at 16 bits (R192). -/
def msSince (s : State) : Option Nat → Nat
  | none => 65535
  | some t => min 65535 ((s.now - t) / 1000000)

/-- A node as NODE_DATA shows it (R192). -/
def nodeData (s : State) (n : Node) : List Nat :=
  [n.mac % 2 ^ 32, n.mac / 2 ^ 32 % 65536 + n.kind % 4 * 65536 + n.home % 2 * 2 ^ 18 + b2n n.static_ * 2 ^ 19 + 2 ^ 20,
   n.framesA, n.framesB, n.dups, n.wrong, msSince s n.seenA, msSince s n.seenB]

/-- Load the issuer's NODE_DATA. -/
def loadNode (s : State) (hub ini : Nat) (ws : List Nat) : State :=
  (List.range 8).foldl (fun t k => wrB t hub (R.NODE_DATA0_7.nth k) ini (ws[k]?.getD 0)) s

/-- The MAC in the issuer's NODE_DATA0 and NODE_DATA1. -/
def nodeArgMac (s : State) (hub ini : Nat) : Nat :=
  rdB s hub (R.NODE_DATA0_7.nth 0) ini + rdB s hub (R.NODE_DATA0_7.nth 1) ini % 65536 * 2 ^ 32

/-- The checks of NODE_READ. -/
def checksNodeRead (t : State) (x : Ctx) : Checks :=
  swChecks (decide (x.cmdArg < 65536)) t x

/-- The effect of NODE_READ. -/
def effectNodeRead (x : Ctx) (t : State) : Effect :=
  .done (loadNode t x.loc x.who.ini (match (laneOf t x.loc).nodes.lookup x.cmdArg with
    | some n => nodeData t n
    | none => []))

/-- NODE_READ, R191. -/
def execNodeRead (c : Cmd) (s : State) : Out :=
  command s c .lane 0x10 checksNodeRead effectNodeRead

/-- The checks of NODE_WRITE. -/
def checksNodeWrite (t : State) (x : Ctx) : Checks :=
  { swChecks true t x with
    room := !(bit (rdB t x.loc (R.NODE_DATA0_7.nth 1) x.who.ini) 20) || (nodeSlot (laneOf t x.loc) (nodeArgMac t x.loc x.who.ini)).isSome }

/-- The effect of NODE_WRITE. -/
def effectNodeWrite (x : Ctx) (t : State) : Effect :=
  let mac := nodeArgMac t x.loc x.who.ini
  let d1 := rdB t x.loc (R.NODE_DATA0_7.nth 1) x.who.ini
  let l := laneOf t x.loc
  if bit d1 20 then
    match nodeSlot l mac with
    | some i =>
      let n := mget (Node.fresh mac 0 0 t.now) l.nodes i
      .done (putNode t x.loc i { n with mac := mac, kind := fld d1 17 16, home := if dualLane t then 0 else fld d1 18 18, static_ := bit d1 19 })
    | none => .done t
  else .done (keepNodes t x.loc (fun _ n => n.mac != mac))

/-- NODE_WRITE, R191: write the entry of a MAC, or remove it where VALID is 0. -/
def execNodeWrite (c : Cmd) (s : State) : Out :=
  command s c .lane 0x11 checksNodeWrite effectNodeWrite

/-- The checks of NODE_SEARCH. -/
def checksNodeSearch (t : State) (x : Ctx) : Checks :=
  swChecks true t x

/-- The effect of NODE_SEARCH. -/
def effectNodeSearch (x : Ctx) (t : State) : Effect :=
  let l := laneOf t x.loc
  match nodeFind l (nodeArgMac t x.loc x.who.ini) with
  | some i => ⟨loadNode t x.loc x.who.ini (nodeData t (mget (Node.fresh 0 0 0 0) l.nodes i)), .done, 1⟩
  | none => .done t

/-- NODE_SEARCH, R191. -/
def execNodeSearch (c : Cmd) (s : State) : Out :=
  command s c .lane 0x12 checksNodeSearch effectNodeSearch

/-- The checks of NODE_FLUSH. -/
def checksNodeFlush (t : State) (x : Ctx) : Checks :=
  swChecks true t x

/-- The effect of NODE_FLUSH. -/
def effectNodeFlush (x : Ctx) (t : State) : Effect :=
  .done (keepNodes t x.loc (fun _ n => n.static_))

/-- NODE_FLUSH, R191: remove the dynamic entries. -/
def execNodeFlush (c : Cmd) (s : State) : Out :=
  command s c .lane 0x13 checksNodeFlush effectNodeFlush

/-! ### A frame at the lane logic -/

/-- The next sequence number of a source MAC at a hub (R172). -/
def takeSeq (s : State) (hub mac : Nat) : State × Nat :=
  let l := laneOf s hub
  let n := mget 0 l.seqs mac
  (setLane s hub { l with seqs := mput mac ((n + 1) % 65536) l.seqs }, n)

/-- The tag of a frame that goes out on both lanes. -/
def ownTag (s : State) (hub lane seq : Nat) : RedTag := ⟨seq, lane, decide (laneMode s hub = 2)⟩

/-- The frame goes only to the device (R173). -/
def onlyOurs (s : State) (f : Frame) : Bool := !(isMulticast f.dst) && (ownMacs s).contains f.dst

/-- A source that the ring must not carry on (R173): the device's own, or a SAN it proxies (R174). -/
def ringRemoves (s : State) (f : Frame) : Bool := (ownMacs s).contains f.src || (sanMacs s).contains f.src

/-- Captures of LLDP and Announce frames at a port (R188). -/
def captureFrame (s : State) (hub p cts : Nat) (f : Frame) : State :=
  match f.content with
  | .lldp =>
    let body := ((f.bytes.drop (if f.tag.isSome then 18 else 14)).take (f.len - (if f.tag.isSome then 22 else 18)))
    let s1 := wrAll s hub p [(R.PT_LLDP_CTS, cts), (R.PT_LLDP_LEN, min 512 body.length + b2n (decide (512 < body.length)) * 2 ^ 15)]
    (List.range 128).foldl (fun t k => wr t hub (R.PT_LLDP.nth k) p (ofBytesLE ((body.drop (4 * k)).take 4))) s1
  | .announce gm qual misc => wrAll s hub p [(R.PT_ANN_CTS, cts), (R.PT_ANN_GM, gm), (R.PT_ANN_QUAL, qual), (R.PT_ANN_MISC, misc)]
  | _ => s

/-- Captures clear when the link leaves UP (R188). -/
def clearCaptures (s : State) (hub p : Nat) : State :=
  let s1 := clearRegs s hub p [R.PT_AN_LPA, R.PT_AN_CTS, R.PT_LLDP_CTS, R.PT_LLDP_LEN, R.PT_ANN_CTS, R.PT_ANN_GM, R.PT_ANN_QUAL, R.PT_ANN_MISC]
  (List.range 128).foldl (fun t k => wr t hub (R.PT_LLDP.nth k) p 0) s1

/-- A node whose frames were seen on both lanes within NODE_FORGET is a DAN (R179). -/
def judgeNode (s : State) (hub mac : Nat) : State :=
  let l := laneOf s hub
  match nodeFind l mac with
  | none => s
  | some i =>
    let n := mget (Node.fresh mac 0 0 0) l.nodes i
    let win := nodeForget s hub
    let both := match n.seenA, n.seenB with
      | some a, some b => decide (s.now ≤ a + win) && decide (s.now ≤ b + win)
      | _, _ => false
    if both then setLane s hub { l with nodes := mput i { n with kind := 2 } l.nodes } else s

/-- A frame of a node at the lane logic (R171, R175, R179, R192): with a trailer or tag its source enters the table and is seen
on the frame's lane; a supervision frame does so for its node, with or without one. -/
def seeNode (s : State) (hub : Nat) (fin : FrameIn) (wrong : Bool) : State :=
  let f := fin.frame
  let see := fun (t : State) (mac : Nat) (w : Bool) => sawNode (enterNode t hub mac fin.lane (defaultHome t hub)) hub mac fin.lane w
  let s1 := if f.red.isSome then see s f.src wrong else s
  match f.content with
  | .supervision mac _ => judgeNode (if f.red.isSome ∧ mac = f.src then s1 else see s1 mac false) hub mac
  | _ => s1

/-- A SAN's frame from an INTERLINK port (R174): the SAN is a virtual DAN of this hub, and its frame takes the next number. -/
def enterSan (s : State) (hub : Nat) (fin : FrameIn) : State × FrameIn :=
  let f := fin.frame
  let s1 := sawNode (enterNode s hub f.src 3 hub) hub f.src fin.lane false
  if f.etype = 0x88F7 || isLinkLocal f.dst then (s1, { fin with frame := { f with red := none } })
  else
    let q := takeSeq s1 hub f.src
    (q.1, { fin with frame := { f with red := some (ownTag s1 hub fin.lane q.2) }, own := true })

/-- A tagged frame from a ring port goes around the ring (R173): neither the device alone is addressed nor the frame its own. -/
def ringFrame (s : State) (hub : Nat) (fin : FrameIn) : Bool :=
  laneMode s hub == 2 && portRole s hub fin.port == 1 && fin.frame.red.isSome && !(ringRemoves s fin.frame) && !(onlyOurs s fin.frame)

/-- What the lane logic does to a good frame before its lookup (R171 to R175, R188): captures, the node table, sequence numbers of
proxied SANs, and whether the frame goes around the ring. -/
def laneEnter (s : State) (hub : Nat) (fin : FrameIn) : State × FrameIn :=
  let f := fin.frame
  let p := fin.port
  if p = 12 then (if fin.own || fin.hub = hub then (s, fin) else (seeNode s hub fin false, fin))
  else if 12 < p then (s, fin)
  else
    let s0 := captureFrame s hub p fin.cts f
    match portRole s0 hub p with
    | 1 =>
      let wrong := match f.red with
        | some t => !t.hsr && decide (t.lan ≠ fin.lane)
        | none => false
      let s1 := if f.red.isSome then incr s0 hub R.RX_TAGGED p 1 else s0
      let s2 := if wrong then incr s1 hub R.RX_WRONG_LAN p 1 else s1
      let s3 := seeNode s2 hub fin wrong
      match f.red with
      | some t =>
        if ringFrame s3 hub fin then
          let c := winCheck s3 hub fin t.seq (if fin.lane = 0 then .passA else .passB)
          (c.1, { fin with pass := c.2 })
        else (s3, fin)
      | none => (s3, fin)
    | 2 => enterSan s0 hub fin
    | _ => (s0, { fin with frame := { f with red := none } })

/-- Drop the oldest frames of the shadow ring until the rest fits, and count them (R180). -/
def shadowTrim (size : Nat) : List FrameIn → Nat × List FrameIn
  | [] => (0, [])
  | f :: rest =>
    if size < ((f :: rest).map (fun x => x.frame.bytes.length)).sum then
      let r := shadowTrim size rest
      (r.1 + 1, r.2)
    else (0, f :: rest)

/-- Bytes written to a ring of DRAM from a position on, which wraps. -/
def shadowWrite (s : State) (base size pos : Nat) (bs : List Byte) : State :=
  let first := bs.take (size - pos % size)
  writeBytes (writeBytes s (base + pos % size) first) base (bs.drop first.length)

/-- A frame of the shadow ring is not yet older than SHADOW_DEPTH (R180, R189). -/
def shadowFresh (s : State) (hub : Nat) (f : FrameIn) : Bool :=
  decide (taiNs s hub ≤ ctsNs (ctr s hub).sec f.cts + within 2000 16000 (rd s hub R.SHADOW_DEPTH 0) * 1000)

/-- The shadow ring keeps a frame (R180): frames older than SHADOW_DEPTH have left it, and a full ring displaces its oldest. The
frames' bytes stand one behind the other in the ring (DESIGN CHOICE, assumption 31). -/
def shadowPut (s : State) (hub : Nat) (fin : FrameIn) : State :=
  let l := laneOf s hub
  let size := 2 ^ within 16 26 (rd s hub R.SHADOW_SIZE 0)
  let kept := l.shadow.filter (shadowFresh s hub) ++ [fin]
  let r := shadowTrim size kept
  let s1 := setLane s hub { l with shadow := r.2, shadowPos := l.shadowPos + fin.frame.bytes.length }
  incr (shadowWrite s1 (rd s hub R.SHADOW_BASE 0) size l.shadowPos fin.frame.bytes) hub R.SHADOW_OVERRUN 0 r.1

/-- What the lane logic does to a sampled-value frame (R180, R197): its own lane's copy goes to P14, at the non-home hub into
the shadow ring, and to the other hub's ingest where that also holds the stream. The state after it, and whether P14 and the
other hub's ingest take it. -/
def laneSv (s : State) (hub : Nat) (fin : FrameIn) : State × Bool × Bool :=
  match (if fin.frame.etype = 0x88BA && fin.port != 12 then svEntry s hub fin.frame else none) with
  | none => (s, false, false)
  | some i =>
    let home := ((s.streams.lookup (streamKey hub i)).map (fun e => e.home)).getD hub
    let own := decide (fin.port < 12)
    (if own && home != hub && !(dualLane s) then shadowPut s hub fin else s, true,
      own && !(dualLane s) && (laneOf s hub).state == 0 && (svEntry s (1 - hub) fin.frame).isSome)

/-- The LANE ports that a frame may leave by after a lookup (R170, R173): those of its own lane, and every one for a frame of the
device or of a SAN. A frame from the Axle leaves by LANE ports as the far hub asked, not by the lookup. -/
def laneLets (s : State) (hub : Nat) (fin : FrameIn) (p : Nat) : Bool :=
  portRole s hub p != 1 || (fin.port != 12 && (fin.own || (portLane s hub p == fin.lane && laneMode s hub != 2)))

/-- The ports that serve deliveries out of the redundant domain (R177): P13, P15 and INTERLINK ports. P14 keeps copies
by instant instead (R206). -/
def leavesDomain (s : State) (hub p : Nat) : Bool := p == 13 || p == 15 || portRole s hub p == 2

/-- The lookup of a frame names P12 even where it came from there: its destination stands behind the other hub (R178). -/
def beyondAxle (s : State) (hub : Nat) (f : Frame) : Bool :=
  match lookupPorts (swOf s hub) f (tblGet (swOf s hub) 1 (frameVid s hub 12 f)) 16 with
  | some ps => ps.contains 12
  | none => false

/-- A GOOSE watch of either hub takes frames such as this one (R407): it is enabled, and its MAC and APPID are the frame's. -/
def watched (s : State) (f : Frame) : Bool :=
  f.etype == 0x88B8 && (hubs s).any (fun h => (List.range 64).any (fun w =>
    let m1 := rd s h R.GW_MATCH1 (64 + w)
    bit (rd s h R.GW_CFG (64 + w)) 0 && f.dst == rd s h R.GW_MATCH0 (64 + w) + m1 % 65536 * 2 ^ 32 && f.appid == m1 / 65536))

/-- Duplicate discard and homing of deliveries (R177, R178), to GOOSE watches too (R407): the state, the ports, whether the far
hub looks the frame up, and whether the frame has passed its home's window. -/
def laneDeliver (s : State) (hub : Nat) (fin : FrameIn) (ports : List Nat) : State × List Nat × Bool × Bool :=
  let away := ports.contains 12
  let rest := ports.filter (fun p => !(leavesDomain s hub p))
  match fin.frame.red with
  | none => (s, ports, away, false)
  | some t =>
    if fin.own then
      (s, if fin.port = 12 then ports.filter (fun p => !(p == 13 || p == 15)) else ports, away, true)
    else if fin.kept then
      (s, ports.filter (fun p => if fin.hub = hub then portRole s hub p == 2 else !(p == 13 || p == 15)), false, true)
    else if nodeHome s hub fin.frame.src = hub then
      let back := fin.port == 12 && beyondAxle s hub fin.frame
      if ports.any (leavesDomain s hub) || away || back || watched s fin.frame then
        let c := winCheck s hub fin t.seq .deliver
        if c.2 then (c.1, if back then ports ++ [12] else ports, away || back, true) else (c.1, rest.filter (fun p => p != 12), false, false)
      else (s, ports, away, false)
    else
      let send := (ports.any (leavesDomain s hub) || away || watched s fin.frame) && fin.port != 12
      (s, if send && !away then rest ++ [12] else rest, send, false)

/-- The frame meets the GOOSE watches at this hub, once: at the home hub of its node after duplicate discard; one without a
redundancy tag, or of the device itself, at the hub it came in by (R407). -/
def meetsWatches (fin : FrameIn) (won : Bool) : Bool :=
  if fin.own || fin.frame.red.isNone then fin.port != 12 else won && !fin.kept

/-- The GOOSE check before delivery to P13 and to the capture watches of both hubs (R495, R407), the other hub's over the Axle. -/
def laneGoose (s : State) (hub : Nat) (fin : FrameIn) (won : Bool) (ports : List Nat) : State × List Nat :=
  let meets := meetsWatches fin won && watched s fin.frame
  if (ports.contains 13 || meets) && fin.frame.etype == 0x88B8 then
    let c := checkGoose s hub fin.frame fin.cts
    if c.2 then
      (if meets then (hubs c.1).foldl (fun t h =>
        if h = hub ∨ axleAlive t then setSw t h { swOf t h with watch := (swOf t h).watch ++ [fin] } else t) c.1 else c.1, ports)
    else (c.1, ports.filter (fun p => p != 13))
  else (s, ports)

/-- The compute dies whose receive engines have an entry for a frame (R321). -/
def rxDies (s : State) (f : Frame) : List Nat :=
  (computeDies s).filter (fun d => match s.xlates.lookup d with
    | some x => x.rx.any (fun e => e.2.match0 == f.dst % 2 ^ 32 && e.2.match1 == f.dst / 2 ^ 32 % 65536 + f.etype % 65536 * 65536)
    | none => false)

/-- A frame for a compute die whose Spoke to this hub is down leaves the hub through P12 (R160): whether it does, and whether
P13 still has it to deliver. -/
def detour (s : State) (hub : Nat) (fin : FrameIn) : Bool × Bool :=
  let dies := rxDies s fin.frame
  let away := dies.filter (fun d => !(spokeAlive s d hub) && axleAlive s && spokeAlive s d (1 - hub))
  (!away.isEmpty && fin.port != 12, away.isEmpty || portState s hub 13 == 2)

/-- The LANE ports of the lane that a frame of the device or of a SAN has not yet been given (R172, R174): in the KZ2 the one hub
makes both copies. -/
def otherLane (s : State) (hub : Nat) (ports : List Nat) : List Nat :=
  let hit := (ports.filter (fun p => portRole s hub p == 1)).map (portLane s hub)
  if hit.isEmpty then [] else (lanePorts s hub).filter (fun p => !(hit.contains (portLane s hub p)))

/-- The frame is for the time agent, for LLDP or for the Tandem beacon's sink, which P15 serves whatever the lookup says (R123,
R466). -/
def forControl (fin : FrameIn) : Bool :=
  let f := fin.frame
  (fin.port < 12 && (f.etype == 0x88F7 || f.content == .lldp)) || (fin.port != 15 && f.etype == 0x88B5 && f.content == .tandem)

/-- What the lane logic does to the ports of a frame's lookup. -/
def laneAdjust (hub : Nat) : Lanes := fun fin s ports =>
  let f := fin.frame
  if laneMode s hub = 2 && portRole s hub fin.port == 1 && ringRemoves s f then ⟨s, [], fin⟩
  else
    let lets := ports.filter (fun p => laneLets s hub fin p && !(p == 12 && fin.port == 13))
    let lane := fin.own && fin.port < 12 && lets.any (fun p => portRole s hub p == 1)
    let twin := if fin.own && dualLane s && fin.port != 12 && f.red.isSome && f.etype != 0x88F7 && !(isLinkLocal f.dst) then
      otherLane s hub lets else []
    let ring := if fin.pass && dualLane s then (lanePorts s hub).filter (fun p => p != fin.port && !(lets.contains p)) else []
    let ctl := if forControl fin && !(lets.contains 15) then [15] else []
    let sv := laneSv s hub fin
    let p14 := if sv.2.1 && !(lets.contains 14) then [14] else []
    let d := laneDeliver sv.1 hub fin (lets ++ twin ++ ring ++ ctl)
    let g := laneGoose d.1 hub fin d.2.2.2 d.2.1
    let by12 := if g.2.contains 13 then detour g.1 hub fin else (false, true)
    let kept := if by12.2 then g.2 else g.2.filter (fun p => p != 13)
    let far : Across := ⟨d.2.2.1, sv.2.2, if fin.port = 12 then fin.across.compute else by12.1, if lane then some (frameClass s hub fin.port f) else none, fin.pass⟩
    let cross := (far.look || far.feed || by12.1 || far.lane.isSome || far.pass) && !(dualLane s)
    ⟨g.1, kept.filter (fun p => p != 12) ++ p14 ++ (if cross then [12] else []), { fin with kept := d.2.2.2, across := far }⟩

/-- The frame is bad, so the lane logic leaves its tables, windows and captures alone (R149, R150, R188). -/
def frameBad (s : State) (hub : Nat) (fin : FrameIn) : Bool := fin.frame.len < 64 || badKind s hub fin.port fin.frame != 0

/-- A bad frame goes around the ring in cut-through too, and is stomped there (R150, R173): by the window of its direction, which
it leaves as it was. -/
def badPass (s : State) (hub : Nat) (fin : FrameIn) : Bool :=
  ringFrame s hub fin && (match fin.frame.red with
    | some t => (winCheck s hub fin t.seq (if fin.lane = 0 then .passA else .passB)).2
    | none => false)

/-- A received frame enters a hub's switch (R126, R171). -/
def receive (s : State) (hub : Nat) (fin : FrameIn) : State :=
  let e := if frameBad s hub fin then (s, { fin with pass := badPass s hub fin }) else laneEnter s hub fin
  switchIngress e.1 hub e.2 none [] (laneAdjust hub e.2)

/-- A frame that crossed the Axle: what the far hub asked for (R160, R172, R173, R178, R180). -/
def receiveAcross (s : State) (hub : Nat) (fin : FrameIn) : State :=
  let x := fin.across
  let f := { fin with port := 12, pass := false, across := ⟨false, false, false, none, false⟩ }
  match x.lane, x.look || x.feed || x.compute || x.pass with
  | some c, false => laneCopies s hub f c
  | _, _ =>
    let e := if frameBad s hub f then (s, f) else laneEnter s hub f
    let always := (if x.feed then [14] else []) ++ (if x.compute then [13] else []) ++
      (if x.lane.isSome || x.pass then lanePorts e.1 hub else [])
    let seen := { e.2 with across := { e.2.across with compute := x.compute } }
    if x.look then switchIngress e.1 hub seen none always (laneAdjust hub seen)
    else directIngress e.1 hub seen always

/-- FRAME_INGRESS, R126: a frame arrives at an external port that is UP, or over the Axle, or is injected at P15 with
a port mask and a class (R123). -/
def execFrameIngress (hub port : Nat) (frame : Frame) (mask cls : Nat) (s : State) : Out :=
  if !(domRun s hub 7) then .next s
  else if port < 12 then
    if portState s hub port = 2 then
      let st := stampOf s hub (256 + port) 0
      .next (receive (tickSrc s hub (256 + port)) hub {
        frame := frame, hub := hub, port := port, lane := portLane s hub port, cts := st.cts, order := st.order
        own := false, pass := false, frac := fracNow s hub })
    else .next s
  else if port = 12 then
    let w := swOf s hub
    match w.fromAxle with
    | [] => .next s
    | f :: rest => .next (receiveAcross (setSw s hub { w with fromAxle := rest }) hub f)
  else if port = 15 then
    let q := takeSeq s hub frame.src
    let f := { frame with
      red := if laneMode s hub = 0 || frame.etype = 0x88F7 || isLinkLocal frame.dst then none else some (ownTag s hub hub q.2) }
    .next (injectP15 (if f.red.isSome then q.1 else s) hub f (maskPorts (mask % 65536)) (cls % 8))
  else .next s

/-! ### Sends through P13 (R153, R335) -/

/-- P13_SEND_CHECK, R153: the oldest send that has reached a hub's P13 is checked. -/
def execP13SendCheck (hub : Nat) (s : State) : Out :=
  let w := swOf s hub
  match w.sends with
  | [] => .next s
  | x :: rest =>
    if domRun s hub 7 then .next (sendCheck (setSw s hub { w with sends := rest }) hub x (laneAdjust hub)) else .next s

/-- TOKEN_BUCKET_REFILL, R335. -/
def execTokenBucketRefill (hub vi : Nat) (s : State) : Out :=
  .next (if domRun s hub 7 then refill (laneAdjust hub) s hub vi else s)

/-- A GOOSE_TIMED firing of a hub reaches the publication entry there, and at the other hub over the Axle (R118, R153). -/
def gooseTimed (s : State) (hub entry cts : Nat) : State :=
  ((hubs s).filter (fun h => h = hub || axleAlive s)).foldl (fun t h => gooseTimedAt (laneAdjust h) entry cts t h) s

/-! ### Supervision (R179) -/

/-- A supervision frame from an address: TLV 20 or 23 for each of the device's addresses that it names, and TLV 30 for each
proxied SAN. -/
def supFrame (s : State) (hub own : Nat) (devs sans : List Nat) (red : RedTag) : Frame :=
  let dst := 0x01154E000100 + fld (rd s hub R.LANE_CFG 0) 15 8
  let tlv := fun (code m : Nat) => bytesBE 1 code ++ bytesBE 1 6 ++ bytesBE 6 m
  let body := bytesBE 6 dst ++ bytesBE 6 own ++ bytesBE 2 0x88FB ++ bytesBE 2 1 ++ bytesBE 2 red.seq ++
    devs.flatMap (tlv (if laneMode s hub = 2 then 23 else 20)) ++ sans.flatMap (tlv 30) ++ bytesBE 2 0
  let bs := body ++ List.replicate (60 - body.length) 0
  ⟨dst, own, none, 0x88FB, 0, some red, bs.length + 4, bs, false, false, none, .supervision own hub⟩

/-- SUP_INTERVAL has passed since a hub's last supervision frame (R179). -/
def supDue (s : State) (hub : Nat) : Bool :=
  match (laneOf s hub).supAt with
  | none => true
  | some t => decide (t + within 100 10000 (rd s hub R.SUP_INTERVAL 0) * 1000000 ≤ s.now)

/-- The device's addresses that a hub's supervision frame names: hub B names them only while hub A is lost (R179). -/
def supDevs (s : State) (hub : Nat) : List Nat := if hub == 0 || (laneOf s hub).state == 2 then (ownMacs s).eraseDups else []

/-- The SANs that a hub's supervision frame names: those of its INTERLINK ports while REDBOX is 1 (R174, R179). -/
def supSans (s : State) (hub : Nat) : List Nat :=
  if bit (rd s hub R.LANE_CFG 0) 2 then
    ((laneOf s hub).nodes.filter (fun e => e.2.kind == 3 && e.2.home == hub)).map (fun e => e.2.mac)
  else []

/-- SUPERVISION_SEND, R179: every SUP_INTERVAL a hub sends a supervision frame on both lanes, if it has an address to name. -/
def execSupervisionSend (hub : Nat) (s : State) : Out :=
  if domRun s hub 7 && laneMode s hub != 0 && supDue s hub then
    let s0 := setLane s hub { laneOf s hub with supAt := some s.now }
    if (supDevs s hub).isEmpty && (supSans s hub).isEmpty then .next s0
    else
      let own := rd s hub R.MG_MAC 0 % 2 ^ 48
      let q := takeSeq s0 hub own
      let f := supFrame q.1 hub own (supDevs s hub) (supSans s hub) (ownTag s hub hub q.2)
      .next (injectP15 q.1 hub f (lanePorts q.1 hub ++ [12]) 7)
  else .next s

/-! ### Lane states and port links (R181, R184 to R188) -/

/-- A planned rehome ends with ABORTED when the state leaves NORMAL (R183). -/
def abortPlan (s : State) (hub : Nat) : State :=
  let l := laneOf s hub
  match l.plan with
  | none => s
  | some _ => finishOp (setLane s hub { l with plan := none }) hub .lane 0x14 .aborted 0

/-- Set STATE of R181, with STATE_CHANGE (R189). -/
def putLaneState (s0 : State) (hub st : Nat) : State :=
  if (laneOf s0 hub).state = st then s0
  else
    let s := if st = 0 then s0 else abortPlan s0 hub
    let l := laneOf s hub
    let s1 := setStatus (setLane s hub { l with state := st }) hub .lane (setFld (hdr s hub .lane).status 1 0 st)
    hwEvent s1 hub .lane 3

/-- The other hub still reaches a compute die (R181). -/
def otherReaches (s : State) (hub : Nat) : Bool := (computeDies s).any (fun d => spokeAlive s d (1 - hub))

/-- STATE and PARTNER_PRESENT as a link's change leaves them (R181, R189): NORMAL while the Axle is up, SPLIT once it is down and
the other hub still reaches a compute die. SOLE is entered by HUB_LOST_REHOME. -/
def laneJudge (s : State) : State :=
  if dualLane s then s
  else (hubs s).foldl (fun t h =>
    if !(domRun t h 7) then t
    else
      let t1 := setStatus t h .lane (setBit (hdr t h .lane).status 3 (axleAlive t || otherReaches t h))
      if axleAlive t then putLaneState t1 h 0 else if otherReaches t h then putLaneState t1 h 1 else t1) s

/-- The lane logic right after the release of NET (R181, R189): SOLE where the other hub shows no sign of life. -/
def laneReleased (s : State) (hub : Nat) : State :=
  let st := if dualLane s then 3 else if axleAlive s then 0 else if otherReaches s hub then 1 else 2
  setStatus (setLane s hub { Lane.empty with state := st }) hub .lane
    (setBit (setFld (hdr s hub .lane).status 1 0 st) 3 (decide (st = 0 ∨ st = 1)))

/-- The link code of a port: 0 OFF, 1 SEARCH, 2 UP, 3 FAULT (R184). -/
def portLink (s : State) (hub p : Nat) : Nat := rd s hub R.LP_STATE p % 8

/-- Set a port's link code. -/
def putPortLink (s : State) (hub p code : Nat) : State := wr s hub R.LP_STATE p (setFld (rd s hub R.LP_STATE p) 2 0 code)

/-- The status of a port's line once its link has left UP (R193, R194): no block lock or link pass, and no autonegotiation. -/
def lineDown (s : State) (hub p : Nat) : State :=
  if p < 10 then wr s hub R.SD_STATUS p (setBit (setBit (rd s hub R.SD_STATUS p) 3 false) 4 false)
  else wr s hub R.CU_STATUS (p - 10) (setBit (rd s hub R.CU_STATUS (p - 10)) 0 false)

/-- The status of a port's line once its link is UP (R185, R193, R194): on copper the speed that autonegotiation found, or the
forced one, and the crossover that automatic MDI/MDI-X found. -/
def lineUp (s : State) (hub p : Nat) (an gigabit mdix : Bool) : State :=
  if p < 10 then wr s hub R.SD_STATUS p (setBit (setBit (setBit (rd s hub R.SD_STATUS p) 1 false) 3 true) 4 an)
  else
    let cfg := rd s hub R.CU_CFG (p - 10)
    wr s hub R.CU_STATUS (p - 10) (1 + b2n (if bit cfg 0 then gigabit else fld cfg 2 1 == 1) * 2 + b2n (bit cfg 3 && mdix) * 4)

/-- A port's link leaves UP: the switch's port goes down, and its captures clear (R184, R188). -/
def leaveUp (s : State) (hub p code : Nat) : State :=
  portDown (lineDown (clearCaptures (putPortLink s hub p code) hub p) hub p) hub p

/-- Autonegotiation is enabled at a port (R184, R185): of 1000BASE-X, or of copper. -/
def anOn (s : State) (hub p : Nat) : Bool :=
  if p < 10 then bit (rd s hub R.SD_CFG p) 4 && rd s hub R.SD_CFG p % 4 == 0 else bit (rd s hub R.CU_CFG (p - 10)) 0

/-- The island of a port is locked: ETH on both hubs' RESET_KS pages (R533). -/
def portIsland (s : State) (hub p : Nat) : Bool :=
  if p < 10 then bit (rstOf s hub).locks 2 else bit (rstOf s hub).locks 3

/-- LINK of the Tandem lane (R456, R477). The lane has no flap count, so it does not enter FAULT. -/
def putTandemLink (s : State) (hub code : Nat) : State :=
  hwEvent (wr s hub R.TD_STATE 0 (setFld (rd s hub R.TD_STATE 0) 13 12 code)) hub .tandemLane 9

/-- An enabled port whose island is locked leaves OFF (R184). -/
def islandPorts (s : State) (hub : Nat) : State :=
  (List.range 12).foldl (fun t p =>
    if domRun t hub 7 && bit (rd t hub R.LP_CFG p) 2 && portLink t hub p == 0 && portIsland t hub p then putPortLink t hub p 1 else t) s

/-- LINK_SIGNAL_UP, R184: a port in SEARCH whose block lock or link pass has held for LP_LOS_FILTER µs, and whose
autonegotiation is complete where it is enabled, enters UP, and its switch port goes to HOLD (R162). The partner's ability word is
captured (R188). Port 12 names the Tandem lane (R456), which searches while its PLL is locked. -/
def execLinkSignalUp (hub port : Nat) (seen : LinkSeen) (s : State) : Out :=
  if domRun s hub 7 && port < 12 && portLink s hub port == 1 && decide (rd s hub R.LP_LOS_FILTER port ≤ seen.held) &&
      (!(anOn s hub port) || seen.ability.isSome) then
    let s1 := putPortLink s hub port 2
    let s2 := match (if anOn s hub port then seen.ability else none) with
      | some w => wrAll s1 hub port [(R.PT_AN_LPA, w), (R.PT_AN_CTS, ctsNow s1 hub)]
      | none => s1
    .next (portReturn (lineUp s2 hub port (anOn s hub port) seen.gigabit seen.mdix) hub port)
  else if domRun s hub 7 && port == 12 && bit (rstOf s hub).locks 4 && fld (rd s hub R.TD_STATE 0) 13 12 != 2 then
    .next (putTandemLink s hub 2)
  else .next s

/-- Entries into SEARCH from UP within FLAP_WINDOW (R184, R190). -/
def flapsNow (s : State) (hub p : Nat) : List Nat :=
  (mget [] (laneOf s hub).flaps p).filter (fun t => decide (s.now ≤ t + within 1 3600 (fld (rd s hub R.LP_CFG p) 31 16) * 1000000000))

/-- LINK_SIGNAL_LOSS, R184: a port in UP that has lost signal, block lock or link pass for LP_LOS_FILTER µs, or sees remote fault,
returns to SEARCH, or enters FAULT at the FLAP_COUNT-th such entry within FLAP_WINDOW. -/
def execLinkSignalLoss (hub : Nat) (gone : LinkGone) (s : State) : Out :=
  let port := gone.port
  if domRun s hub 7 && port < 12 && portLink s hub port == 2 && (gone.remote || decide (rd s hub R.LP_LOS_FILTER port ≤ gone.lost)) then
    let l := laneOf s hub
    let recent := flapsNow s hub port ++ [s.now]
    let fault := decide (max 1 (fld (rd s hub R.LP_CFG port) 11 8) ≤ recent.length)
    let s1 := setLane s hub { l with flaps := mput port recent l.flaps }
    let s2 := if port < 10 && !gone.remote then wr s1 hub R.SD_STATUS port (setBit (rd s1 hub R.SD_STATUS port) 1 true) else s1
    let s3 := leaveUp s2 hub port (if fault then 3 else 1)
    .next (if fault then hwEvent s3 hub .lane (4 + port) else s3)
  else if domRun s hub 7 && port == 12 && fld (rd s hub R.TD_STATE 0) 13 12 == 2 then .next (putTandemLink s hub 1)
  else .next s

/-- A write of LP_CFG (R184): ENABLE moves the link between OFF and SEARCH. -/
def lpCfgWrite (t : Target) (v : Nat) (s : State) : State :=
  let s1 := writeT s t v
  let p := t.inst
  if bit v 2 then
    if portLink s1 t.loc p = 0 ∧ portIsland s1 t.loc p then putPortLink s1 t.loc p 1 else s1
  else if portLink s1 t.loc p = 2 then leaveUp s1 t.loc p 0
  else putPortLink s1 t.loc p 0

/-- LP_CFG_WRITE, R184. -/
def execLpCfgWrite (a : Access) (s : State) : Out := writeReg (accAt R.LP_CFG a) lpCfgWrite s

/-- The checks of LINK_RESTART. -/
def checksLinkRestart (t : State) (x : Ctx) : Checks :=
  { swChecks true t x with legal := decide (portLink t x.loc x.inst = 3) }

/-- The effect of LINK_RESTART. -/
def effectLinkRestart (x : Ctx) (t : State) : Effect :=
  let l := laneOf t x.loc
  .done (wr (setLane t x.loc { l with flaps := mdel x.inst l.flaps }) x.loc R.LP_STATE x.inst
    (setFld (setFld (rd t x.loc R.LP_STATE x.inst) 2 0 1) 11 8 0))

/-- LINK_RESTART, R191. -/
def execLinkRestart (c : Cmd) (s : State) : Out :=
  command s c .lane 0x15 checksLinkRestart effectLinkRestart

/-- The counters of a LANE port (R190). -/
def laneCounters : List Reg := [R.RX_TAGGED, R.RX_WRONG_LAN, R.TX_TAGGED, R.LANE_DUP_DISCARD, R.OUT_OF_WINDOW]

/-- The checks of LANE_CLEAR_COUNTERS. -/
def checksLaneClearCounters (t : State) (x : Ctx) : Checks :=
  swChecks (decide (x.argument < 12 ∨ x.argument = 0xFFFF)) t x

/-- The effect of LANE_CLEAR_COUNTERS. -/
def effectLaneClearCounters (x : Ctx) (t : State) : Effect :=
  .done (if x.argument = 0xFFFF then clearInsts t x.loc 0 12 laneCounters else clearRegs t x.loc x.argument laneCounters)

/-- LANE_CLEAR_COUNTERS, R191. -/
def execLaneClearCounters (c : Cmd) (s : State) : Out :=
  command s c .lane 0x16 checksLaneClearCounters effectLaneClearCounters

/-- The checks of TDR_RUN. -/
def checksTdrRun (t : State) (x : Ctx) : Checks :=
  { swChecks true t x with legal := decide (portLink t x.loc (10 + x.inst) ≠ 2) || bit x.sub 0 }

/-- The effect of TDR_RUN. -/
def effectTdrRun (x : Ctx) (t : State) : Effect :=
  .accepted (if portLink t x.loc (10 + x.inst) = 2 then leaveUp t x.loc (10 + x.inst) 1 else t)

/-- TDR_RUN, R186: legal in OFF, SEARCH or FAULT, and with FORCE in UP, whose link leaves UP first. -/
def execTdrRun (c : Cmd) (s : State) : Out :=
  command s c .phyCopper 0x10 checksTdrRun effectTdrRun

/-- A pair's result (R186, R194): the status, and the distance of an echo of some ps at TDR_NVP in 0.1 m; beyond 100 m FAR is set
and the distance is free. What the measurement leaves within ±1 m comes with the echo. -/
def tdrPair (s : State) (hub inst : Nat) (r : Nat × Nat) : State × Nat :=
  let dm := (divFree ((r.2 * (rd s hub R.TDR_NVP inst % 1024) * 299792458 : Nat) : Int) 200000000000000).toNat
  if 1000 < dm then (drew s, r.1 % 8 + 8 + freeNat s % 4096 * 16) else (s, r.1 % 8 + dm * 16)

/-- The word of a pair: 7 where the test gave none. -/
def tdrWord (s : State) (hub inst : Nat) (r : Option (Nat × Nat)) : State × Nat :=
  match r with
  | some e => tdrPair s hub inst e
  | none => (s, 7)

/-- TDR_DONE, R186: the results are loaded, and the link returns to SEARCH if it is enabled. -/
def execTdrDone (hub inst : Nat) (pairs : List (Nat × Nat)) (s : State) : Out :=
  if !(domRun s hub 7) then .next s
  else match runningAt s hub .phyCopper 0x10 inst with
  | none => .next s
  | some t =>
    let s1 := (List.range 4).foldl (fun u k =>
      let r := tdrWord u hub inst pairs[k]?
      wr r.1 hub (R.TDR_PAIR0_3.nth k) inst r.2) s
    let s2 := wr s1 hub R.TDR_CTS inst (ctsNow s1 hub)
    let p := 10 + inst
    let s3 := if bit (rd s2 hub R.LP_CFG p) 2 && portLink s2 hub p != 2 then putPortLink s2 hub p 1 else s2
    .next (finish s3 hub .phyCopper t .done 0)

/-- LOS and TX_FAULT of a cage's pins (R193). The table has no row of their own for them, so they come with the rows of the module
(DESIGN CHOICE, assumption 103). -/
def cagePins (s : State) (hub port pins : Nat) : State :=
  wr s hub R.SD_STATUS port (setBit (setBit (rd s hub R.SD_STATUS port) 1 (bit pins 0)) 2 (bit pins 1))

/-- SFP_INSERTION, R187: A0h bytes 0 to 95 of the module are captured, and its diagnostics are due DDM_PERIOD later. -/
def execSfpInsertion (hub port : Nat) (id : CageRead) (s : State) : Out :=
  if domRun s hub 7 && port < 10 then
    let l := laneOf s hub
    let s0 := cagePins (setLane s hub { l with ddmAt := mput port s.now l.ddmAt }) hub port id.pins
    let s1 := wr s0 hub R.SD_STATUS port (setBit (rd s0 hub R.SD_STATUS port) 0 false)
    let s2 := (List.range 24).foldl (fun u k => wr u hub (R.SFP_ID.nth k) port (ofBytesLE ((id.bytes.drop (4 * k)).take 4))) s1
    .next (hwEvent s2 hub .serdes (1 + port))
  else .next s

/-- SFP_MODULE_REMOVAL, R193: MOD_ABS goes to 1 and MODULE_CHANGE is set. -/
def execSfpModuleRemoval (hub port : Nat) (s : State) : Out :=
  if domRun s hub 7 && port < 10 then
    .next (hwEvent (wr s hub R.SD_STATUS port (setBit (rd s hub R.SD_STATUS port) 0 true)) hub .serdes (1 + port))
  else .next s

/-- DDM_PERIOD has passed since the last poll of a cage (R187, R193). -/
def ddmDue (s : State) (hub port : Nat) : Bool :=
  decide (mget 0 (laneOf s hub).ddmAt port + within 100 60000 (rd s hub R.DDM_PERIOD 0) * 1000000 ≤ s.now)

/-- DDM_POLL, R187: every DDM_PERIOD, A2h bytes 96 to 105 and 112 to 117 of an occupied cage, stored raw. -/
def execDdmPoll (hub port : Nat) (diag : CageRead) (flags : List Byte) (s : State) : Out :=
  if domRun s hub 7 && port < 10 && !(bit (rd s hub R.SD_STATUS port) 0) && ddmDue s hub port then
    let w := fun (b : List Byte) k => ofBytesLE ((b.drop k).take 2)
    let l := laneOf s hub
    .next (wrAll (cagePins (setLane s hub { l with ddmAt := mput port s.now l.ddmAt }) hub port diag.pins) hub port
      [(R.DDM_TEMP_VCC, w diag.bytes 0 + w diag.bytes 2 * 65536), (R.DDM_BIAS_TXP, w diag.bytes 4 + w diag.bytes 6 * 65536),
       (R.DDM_RXP, w diag.bytes 8), (R.DDM_FLAGS, w flags 0 + w flags 4 * 65536), (R.DDM_CTS, ctsNow s hub)])
  else .next s

/-- A speed and FEC that the SerDes ports support (R185). -/
def sdCfgOk (v : Nat) : Bool :=
  match v % 4, fld v 3 2 with
  | 0, 0 => true
  | 1, 0 | 1, 1 => true
  | 2, 0 | 2, 1 | 2, 2 => true
  | _, _ => false

/-- A write of SD_CFG (R193): an unsupported speed or FEC is ignored with BAD_MODE. -/
def sdCfgWrite (t : Target) (v : Nat) (s : State) : State :=
  if sdCfgOk v then writeT s t v else hwEvent s t.loc .serdes 0

/-- SD_CFG_WRITE, R193. -/
def execSdCfgWrite (a : Access) (s : State) : Out := writeReg (accAt R.SD_CFG a) sdCfgWrite s

end Sys2Proof.Machine
end

