-- ==== Sys2Proof/Machine/Xlate.lean ====
section
/-!
DEFINITION. Sys2Proof/Machine/Xlate.lean: device-side translation, writes into VI memory, the dirty-page log, and the
frame engines of a compute die (R309, R315 to R323, R337 to R340, R155, R156).
-/
namespace Sys2Proof.Machine

/-! ### VIs -/

/-- A VI before anything has happened to it. -/
def ViSt.empty : ViSt := ⟨[], false, 0, false, false, 0, false, false, []⟩

/-- A VI beyond its registers. -/
def viOf (s : State) (v : Nat) : ViSt := mget ViSt.empty s.vis v

/-- Set a VI. -/
def setVi (s : State) (v : Nat) (x : ViSt) : State := { s with vis := mput v x s.vis }

/-- Set an EVENT bit of VI_CTRL with VI_EVENT_VI (R328). -/
def viEvent (s : State) (v n : Nat) : State :=
  hwEvent (wr s (viHome s v) R.VI_EVENT_VI 0 v) (viHome s v) .viCtrl n

/-- What the cut of R341 says of a cause. -/
inductive Cut where
  | go | suppress | late
  deriving DecidableEq, Repr

/-- A cause lies before CUT_AT of a VI. -/
def beforeCut (s : State) (v cause : Nat) : Bool :=
  let d := viHome s v
  let sec := (ctr s d).sec
  decide (ctsNs sec cause < ctsNs sec (rd s d R.VI_CUT_AT v))

/-- The cut of R341 for a cause. -/
def cutOf (s : State) (v cause : Nat) : Cut :=
  let st := viState s v
  let inward := bit (rd s (viHome s v) R.VI_STATE v) 3
  if st = 6 && inward then (if beforeCut s v cause then .suppress else .go)
  else if st = 6 then (if beforeCut s v cause then .go else .suppress)
  else if st = 3 && (viOf s v).out then (if beforeCut s v cause then .late else .suppress)
  else .go

/-- Count a cut (R328). -/
def countCut (s : State) (v : Nat) (c : Cut) : State :=
  let d := viHome s v
  let n := rd s d R.VI_CUT_COUNT v
  match c with
  | .go => s
  | .suppress => wr s d R.VI_CUT_COUNT v (setFld n 15 0 (satAdd 16 (n % 65536) 1))
  | .late => wr s d R.VI_CUT_COUNT v (setFld n 31 16 (satAdd 16 (fld n 31 16) 1))

/-- An engine may begin a write into a VI's memory (R211, R329). -/
def viTakes (s : State) (v : Nat) : Bool := [1, 2, 6].contains (viState s v)

/-- A destination or an entry of a VI is held until the next VI_RUN (R332). -/
def heldDest (s : State) (v : Nat) (src : Source) : Bool := (viOf s v).held.contains src

/-- A destination or an entry that is enabled anew is not held (R332). -/
def unhold (s : State) (src : Source) : State :=
  { s with vis := s.vis.map (fun e => (e.1, { e.2 with held := e.2.held.filter (fun x => x != src) })) }

/-- Count a refusal that a share caused (R333). -/
def shareRefuse (s : State) (v : Nat) : State :=
  if pageRun s (viHome s v) .derailleur then incr s (viHome s v) R.SHARE_REFUSE v 1 else s

/-! ### Walks (R316, R317) -/

/-- A range lies in DRAM fitted to a channel of the package. -/
def inAnyDram (s : State) (base len : Nat) : Bool := (diesOf s).any (fun d => inDram s d base len)

/-- An address lies in the capture memory of a hub (R393). -/
def inCapture (s : State) (a : Nat) : Bool :=
  (hubs s).any (fun h => decide (rd s h R.CAP_BASE 0 ≤ a ∧ a < rd s h R.CAP_BASE 0 + rd s h R.CAP_SIZE 0 * 0x100000))

/-- Write a byte into the memory of a VI. Only the capture engine writes capture memory, and a VI reaches it only through
readout (R393): there the byte changes nothing (DESIGN CHOICE, log entry 121). -/
def putVi (s : State) (a : Nat) (b : Byte) : State := if inCapture s a then s else writeBytes s a [b]

/-- A translation that a walk found: the physical page, and what it lets an access do. -/
structure Leaf where
  phys : Nat
  read : Bool
  write : Bool

/-- A leaf of R316 at a level of the table, for a guest page. An access that needs A or D where it is clear finds none (R307,
R316). -/
def leafOf (pte level page : Nat) : Option Leaf :=
  let ppn := fld pte 53 10
  let low := 2 ^ (9 * level)
  let phys := ppn / low * low + page % low
  let ok := bit pte 1 && bit pte 4 && bit pte 6 && decide (ppn % low = 0) && decide (pte / 2 ^ 54 = 0)
  if ok then some ⟨phys, true, bit pte 2 && bit pte 7⟩ else none

/-- Walk a G-stage table from a level down (R316). `top` says that the level is the root, whose index has two more
bits. -/
def walkFrom (s : State) (page : Nat) : Nat → Bool → Nat → Option Leaf
  | 0, _, _ => none
  | n + 1, top, ppn =>
    let idx := page / 2 ^ (9 * n) % (if top then 2048 else 512)
    let at_ := ppn * 4096 + idx * 8
    if inAnyDram s at_ 8 then
      let pte := readLE s at_ 8
      if !(bit pte 0) || (!(bit pte 1) && bit pte 2) then none
      else if bit pte 1 || bit pte 3 then leafOf pte n page
      else walkFrom s page n false (fld pte 53 10)
    else none

/-- The page number of the guest-physical limit of a mode of hgatp (R217). -/
def gpaLimit (mode : Nat) : Nat := if mode = 0 then 2 ^ 40 else if mode = 8 then 2 ^ 41 else if mode = 9 then 2 ^ 50 else 0

/-- Walk a VI's G-stage table for a guest page, wherever its leaf points (R307, R316). -/
def walkLeaf (s : State) (v page : Nat) : Option Leaf :=
  let h := rd s (viHome s v) R.VI_HGATP v
  let mode := h / 2 ^ 60
  if gpaLimit mode ≤ page * 4096 then none
  else if mode = 0 then some ⟨page, true, true⟩
  else walkFrom s page (if mode = 8 then 3 else 4) true (h % 2 ^ 44 / 4 * 4)

/-- The walk of an engine: the physical address must lie in DRAM fitted to a channel (R316). -/
def walk (s : State) (v page : Nat) : Option Leaf := (walkLeaf s v page).filter (fun l => inAnyDram s (l.phys * 4096) 4096)

/-- The unit of a compute die right after reset. -/
def Xlate.empty : Xlate := ⟨[], [], [], [], [], []⟩

/-- The unit of a compute die. -/
def xlOf (s : State) (die : Nat) : Xlate := mget Xlate.empty s.xlates die

/-- Set the unit of a compute die. -/
def setXl (s : State) (die : Nat) (x : Xlate) : State := { s with xlates := mput die x s.xlates }

/-- The mode of VI_HGATP is one that the unit walks; under any other every access is a fault (R316). -/
def modeOk (s : State) (v : Nat) : Bool := [0, 8, 9].contains (rd s (viHome s v) R.VI_HGATP v / 2 ^ 60)

/-- A cached translation that serves an access. -/
def cached (x : Xlate) (v page : Nat) (write : Bool) : Option Xlat :=
  x.cache.find? (fun e => e.vi == v && e.page == page && (if write then e.write else e.read))

/-- A page of a VI is translated for an access at its home die. -/
def serves (s : State) (die v page : Nat) (write : Bool) : Bool := modeOk s v && (cached (xlOf s die) v page write).isSome

/-- A KILL of the VI runs: its walks have been abandoned, and none for a write starts again (R331). The buffer of a send handed
over before the grant is still read (R329; DEDUCED, log entry 106). -/
def killing (s : State) (v : Nat) : Bool := (viOf s v).killed && viState s v == 3

/-- Start a walk, if none is under way for the page. -/
def startWalk (s : State) (v page : Nat) (write : Bool) : State :=
  let d := viHome s v
  let x := xlOf s d
  if serves s d v page write || x.walks.contains ⟨v, page, write⟩ || (write && killing s v) then s
  else cyc (incr (setXl s d { x with walks := x.walks ++ [⟨v, page, write⟩] }) d R.XL_WALKS 0 1) d .devXlate 0x10 0 1 (some v)

/-! ### The dirty-page log (R337, R338) -/

/-- A log that is OFF. -/
def DirtyLog.off : DirtyLog := ⟨false, 0, 0, 0, 0, 0⟩

/-- A VI's log. -/
def logOf (s : State) (v : Nat) : DirtyLog := mget DirtyLog.off s.logs v

/-- Set a VI's log, with LOG_STATE at its home die. -/
def setLog (s : State) (v : Nat) (l : DirtyLog) : State :=
  let d := viHome s v
  wr { s with logs := mput v l s.logs } d R.LOG_STATE v (setFld (rd s d R.LOG_STATE v) 1 0 (b2n l.on + 2 * l.active))

/-- A write into a guest page sets its bit in the active buffer (R338). -/
def logPage (s : State) (v page : Nat) : State :=
  let l := logOf s v
  if !l.on then s
  else
    let d := viHome s v
    let p := page - l.gpaBase / 4096
    if l.gpaBase / 4096 ≤ page ∧ p < l.pages then
      let at_ := (if l.active = 0 then l.base0 else l.base1) + p / 8
      cyc (writeBytes s at_ [readByte s at_ ||| BitVec.ofNat 8 (2 ^ (p % 8))]) d .dirtyLog 0x10 0 1 (some v)
    else hwEvent (incr s d R.LOG_OUTSIDE v 1) d .dirtyLog 0

/-- The guest pages that a range touches. -/
def pagesOf (gpa len : Nat) : List Nat :=
  if len = 0 then [] else (List.range ((gpa + len - 1) / 4096 - gpa / 4096 + 1)).map (fun k => gpa / 4096 + k)

/-! ### Faults (R319) -/

/-- A translation fault at a guest-physical address is reported at the VI's home die, that of an ABSENT VI where its registers
stand (log entry 106). -/
def xlFault (s : State) (v engine gpa : Nat) (write : Bool) : State :=
  let d := viHome s v
  let st := pageStamp s d d .devXlate 0
  let s1 := wrAll (incr (tickPage s d .devXlate) d R.XL_FAULTS 0 1) d 0
    [(R.XL_FAULT_VI, v % 256 + engine % 16 * 256 + b2n write * 4096), (R.XL_FAULT_GPA, gpa)]
  cyc (eventRec s1 d d .devXlate st 0 0 v [v % 256 + engine % 16 * 256 + b2n write * 4096, gpa]) d .devXlate 0x11 0 1 (some v)

/-- An ingest destination stops on a fault (R211). -/
def destFault (s : State) (hub i n : Nat) : State :=
  let k := streamKey hub i
  match s.streams.lookup k with
  | none => s
  | some e =>
    let ds := e.dests.zipIdx.map (fun d => if d.2 = n then { d.1 with faulted := true } else d.1)
    let s1 := incr { s with streams := mput k { e with dests := ds } s.streams } hub R.DEST_FAULT i 1
    let s2 := wr s1 hub R.ST_STATE i (setBit (rd s1 hub R.ST_STATE i) (4 + n) true)
    let st := pageStamp s2 hub hub .svIngest 0
    eventRec (wr (tickPage s2 hub .svIngest) hub R.IN_EVENT_STREAM 0 i) hub hub .svIngest st 0 5 i [i, n]

/-- A detector's destination stops on a fault (R248, R211). -/
def detFault (s : State) (hub i : Nat) : State :=
  let k := hub * 1024 + i
  match s.dets.lookup k with
  | none => s
  | some d =>
    let s1 := { s with dets := mput k { d with dest := { d.dest with faulted := true } } s.dets }
    let s2 := wr s1 hub R.DET_STATE i (setBit (rd s1 hub R.DET_STATE i) 7 true)
    let st := pageStamp s2 hub hub .detector 0
    eventRec (wr (tickPage s2 hub .detector) hub R.DET_EVENT_IDX 0 i) hub hub .detector st 0 3 i [i]

/-- A slice right after the release of its domain. -/
def Slice.empty : Slice := ⟨false, [], 0, 0, [], [], [], 0, 0, 0, 0, [], [], none, false, 0⟩

/-- The slice of a compute die. -/
def sliceOf (s : State) (die : Nat) : Slice := mget Slice.empty s.slices die

/-- Set the slice of a compute die. -/
def setSlice (s : State) (die : Nat) (x : Slice) : State := { s with slices := mput die x s.slices }

/-- An EVENT bit of PELOTON_FLOW with the flow of the last set in [27:16] (R301), shown in the owner's FLOW_VIEW too
(R304). -/
def flowEvent (s : State) (die f n : Nat) : State :=
  let put := fun (t : State) (loc : Nat) (b : Block) =>
    let t1 := hwEvent t loc b n
    if n ≤ 2 then setHdr t1 loc b { hdr t1 loc b with event := setFld (hdr t1 loc b).event 27 16 f } else t1
  let s1 := put s die .pelotonFlow
  match (sliceOf s die).flows.lookup f with
  | some w => put s1 (viewLoc (w.cfg % 256)) .flowView
  | none => s1

/-- A flow's ring stops on a fault (R289). -/
def ringFault (s : State) (die f : Nat) : State :=
  let x := sliceOf s die
  match x.flows.lookup f with
  | none => s
  | some w =>
    flowEvent (setSlice s die { x with flows := mput f { w with faulted := true } x.flows }) die f 2

/-- A receive entry stops on a fault (R319): the frame that met it, and those that waited behind it, are dropped. -/
def rxFault (s : State) (die i lost : Nat) : State :=
  let x := xlOf s die
  match x.rx.lookup i with
  | none => s
  | some e =>
    let s1 := setXl s die { x with rx := mput i { e with faulted := true } x.rx }
    let s2 := wr s1 die R.RX_STATE i (setBit (rd s1 die R.RX_STATE i) 1 true)
    hwEvent (incr s2 die R.RX_DROP i lost) die .devXlate 1

/-- A capture engine right after reset. -/
def Capture.empty : Capture := ⟨[], [], [], [], none, []⟩

/-- A hub's capture engine. -/
def capOf (s : State) (hub : Nat) : Capture := mget Capture.empty s.captures hub

/-- Set a hub's capture engine. -/
def setCap (s : State) (hub : Nat) (c : Capture) : State := { s with captures := mput hub c s.captures }

/-- What waits in capture staging is written, where the hub's DRAM channel takes it (R415). -/
def drainBlocks (s : State) (hub : Nat) : State :=
  let c := capOf s hub
  if dramRun s hub then c.waiting.foldl (fun t w => writeBytes t w.1 w.2) (setCap s hub { c with waiting := [] }) else s

/-- Change the running readout of a hub. -/
def onRead (s : State) (hub : Nat) (f : CapRead → CapRead) : State :=
  let c := capOf s hub
  match c.reads with
  | [] => s
  | r :: rest => setCap s hub { c with reads := f r :: rest }

/-- A capture readout meets a translation fault: the copy stops early (R418, R319). -/
def readoutFault (s : State) (hub : Nat) : State := onRead s hub (fun r => { r with stopped := true })

/-- What a fault does to the engine that met it (R319), with the number of its writes that the fault drops. -/
def engineFault (s : State) (x : Source) (lost : Nat) : State :=
  match x.engine with
  | 0 => destFault s x.die x.index x.dest
  | 1 => detFault s x.die x.index
  | 2 => ringFault s x.die x.index
  | 4 => rxFault s x.die x.index lost
  | 5 => readoutFault s x.die
  | _ => s

/-! ### Writes into VI memory -/

/-- The pages that a job writes. -/
def jobPages (j : Job) : List Nat := (j.writes.flatMap (fun w => pagesOf w.1 w.2.length)).eraseDups

/-- Write bytes at a guest-physical address, byte by byte over the pages' translations. -/
def putGuest (s : State) (x : Xlate) (v gpa : Nat) (bs : List Byte) : State :=
  (bs.zipIdx).foldl (fun t b =>
    let a := gpa + b.2
    match cached x v (a / 4096) true with
    | some e => putVi t (e.phys * 4096 + a % 4096) b.1
    | none => t) s

/-- Read bytes at a guest-physical address. -/
def getGuest (s : State) (x : Xlate) (v gpa len : Nat) : List Byte :=
  (List.range len).map (fun k =>
    match cached x v ((gpa + k) / 4096) false with
    | some e => readByte s (e.phys * 4096 + (gpa + k) % 4096)
    | none => 0)

/-- A job whose pages are all translated is done (R315, R337): its pages are logged, its bytes written, its item
offered. -/
def doJob (s : State) (die : Nat) (j : Job) : State :=
  let x := xlOf s die
  let s1 := (jobPages j).foldl (fun t p => logPage t j.vi p) s
  let s2a := j.writes.foldl (fun t w => putGuest t x j.vi w.1 w.2) s1
  let s2 := if j.src.engine = 5 then
    onRead s2a j.src.die (fun r => { r with copied := r.copied + (j.writes.map (fun w => w.2.length)).sum }) else s2a
  let s3 := if j.src.engine = 4 then incr s2 j.src.die R.DEV_XLATE_RX_FRAMES j.src.index 1 else s2
  match j.offer with
  | some o => if j.src.engine = 4 && !(viTakes s3 j.vi) then s3 else { s3 with offers := s3.offers ++ [o] }
  | none => s3

/-- Run the begun jobs of a die in order: a job waits while a page of it is not translated, and behind it the later
jobs of its source. -/
def runJobs (die : Nat) : List Job → List Source → State → State
  | [], _, s => s
  | j :: rest, blocked, s =>
    let x := xlOf s die
    if blocked.contains j.src || !((jobPages j).all (fun p => serves s die j.vi p true)) then
      let s1 := (jobPages j).foldl (fun t p => startWalk t j.vi p true) s
      runJobs die rest (j.src :: blocked) s1
    else runJobs die rest blocked (doJob (setXl s die { x with jobs := x.jobs.erase j }) die j)

/-- A write into the memory of an ABSENT VI, which has no translation, faults (R211, R319; DEDUCED, log entry 39). -/
def absentFault (s : State) (src : Source) (v gpa : Nat) : State :=
  engineFault (if pageRun s (viHome s v) .devXlate then xlFault s v src.engine gpa true else s) src 1

/-- Begin a write into a VI's memory (R211, R315). -/
def viWrite (s : State) (j : Job) : State :=
  if viState s j.vi = 0 then absentFault s j.src j.vi ((j.writes.head?.map (fun w => w.1)).getD 0)
  else
    let d := viHome s j.vi
    if domRun s d 10 then
      let x := xlOf s d
      let s1 := setXl s d { x with jobs := x.jobs ++ [j] }
      runJobs d (xlOf s1 d).jobs [] s1
    else s

/-- The pages of a stretch of a ring's data area of `cap` bytes behind a 64-byte header, which wraps. -/
def ringSpan (base cap off len : Nat) : List Nat :=
  if off + len ≤ cap then pagesOf (base + 64 + off) len
  else pagesOf (base + 64 + off) (cap - off) ++ pagesOf (base + 64) (off + len - cap)

/-- The pages that a ring holds (R317): its header's, those of a write of `len` bytes and of the next one, and the page after
the one written. -/
def ringPages (base cap off len : Nat) : List Nat :=
  let after := (base + 64 + off + len - 1) / 4096 + 1
  (base / 4096 :: ringSpan base cap off len ++ ringSpan base cap ((off + len) % cap) len ++
    [if after * 4096 < base + 64 + cap then after else (base + 64) / 4096]).eraseDups

/-- A ring is live: it is enabled and has not stopped on a fault. -/
def ringLive (s : State) (x : Source) : Bool :=
  match x.engine with
  | 0 => match s.streams.lookup (streamKey x.die x.index) with
    | some e => match e.dests[x.dest]? with | some d => !d.faulted | none => false
    | none => false
  | 1 => match s.dets.lookup (x.die * 1024 + x.index) with | some d => !d.dest.faulted | none => false
  | 2 => match (sliceOf s x.die).flows.lookup x.index with | some w => !w.faulted | none => false
  | _ => match (xlOf s x.die).rx.lookup x.index with | some e => !e.faulted | none => false

/-- A live ring of a die holds the translation of a page (R317). -/
def ringHolds (s : State) (die v page : Nat) : Bool :=
  (xlOf s die).rings.any (fun r => r.vi == v && r.pages.contains page && ringLive s r.src)

/-- The 2,048 translations of a die when one more comes: the oldest that no live ring holds gives way (R317). -/
def trimCache (s : State) (die : Nat) (c : List Xlat) : List Xlat :=
  if c.length ≤ 2048 then c
  else match c.reverse.find? (fun e => !(ringHolds s die e.vi e.page)) with
    | some e => c.erase e
    | none => c.dropLast

/-- A ring holds translations for these pages, and for no others any more; those not cached are walked (R317). -/
def prefetch (s : State) (src : Source) (v : Nat) (pages : List Nat) : State :=
  if viState s v = 0 then s
  else
    let d := viHome s v
    let x := xlOf s d
    let s1 := setXl s d { x with rings := ⟨src, v, pages⟩ :: x.rings.filter (fun r => r.src != src) }
    pages.foldl (fun t p => startWalk t v p true) s1

/-- HEAD of a ring whose queued groups a fault has dropped, the first of them a given job: the records below it are those
written (R209, R210). The header that a job writes last carries the HEAD behind its records. -/
def rewindHead (s : State) (j : Job) : State :=
  let head := (j.writes.getLast?.map (fun w => ofBytesLE (w.2.take 8))).getD 0 - (j.writes.length - 1)
  let k := j.src.die * 1024 + j.src.index
  match j.src.engine with
  | 0 => { s with streams := s.streams.map (fun e => if e.1 = k then
      (e.1, { e.2 with dests := e.2.dests.zipIdx.map (fun d => if d.2 = j.src.dest then { d.1 with head := head } else d.1) }) else e) }
  | 1 => { s with dets := s.dets.map (fun e => if e.1 = k then (e.1, { e.2 with dest := { e.2.dest with head := head } }) else e) }
  | 2 =>
    let x := sliceOf s j.src.die
    setSlice s j.src.die { x with flows := x.flows.map (fun e => if e.1 = j.src.index then (e.1, { e.2 with head := head }) else e) }
  | 4 =>
    let x := xlOf s j.src.die
    setXl s j.src.die { x with rx := x.rx.map (fun e => if e.1 = j.src.index then (e.1, { e.2 with head := head }) else e) }
  | _ => s

/-- The first guest-physical address at which a job meets a page. -/
def jobGpa (j : Job) (page : Nat) : Nat :=
  match j.writes.find? (fun w => (pagesOf w.1 w.2.length).contains page) with
  | some w => max w.1 (page * 4096)
  | none => page * 4096

/-- A send whose buffer cannot be read at a page is dropped (R319). EGRESS_VIEW counts it while its hub's NET domain runs
(R616). -/
def sendFault (s : State) (q : SendReq) (page : Nat) : State :=
  let s1 := xlFault (incr { s with sendReqs := s.sendReqs.erase q } q.die R.XL_EG_FAULT 0 1) q.vi 3 (max q.addr (page * 4096)) false
  if q.direct.isSome && pageRun s1 (viewLoc q.vi) .egressView then
    hwEvent (incr s1 (viewLoc q.vi) R.EG_FAULT 0 1) (viewLoc q.vi) .egressView 1
  else s1

/-- A walk that found no translation: the writes that wait for it fault, and no others do (R211, R319). -/
def walkFaults (s : State) (die : Nat) (w : Walk) : State :=
  let x := xlOf s die
  let hit := x.jobs.filter (fun j => w.write && j.vi == w.vi && (jobPages j).contains w.page)
  match hit with
  | [] =>
    match s.sendReqs.find? (fun q => q.die == die && q.vi == w.vi && !w.write && (pagesOf q.addr q.len).contains w.page) with
    | none => s
    | some q => sendFault s q w.page
  | j :: _ =>
    let gone := fun (k : Job) => decide (k.src = j.src)
    let s1 := setXl s die { x with jobs := x.jobs.filter (fun k => !(gone k)) }
    rewindHead (engineFault (xlFault s1 w.vi j.src.engine (jobGpa j w.page) true) j.src (x.jobs.filter gone).length) j

/-- XLATE_WALK_DONE, R317: the oldest walk of a die ends with a cached translation or a fault. -/
def execXlateWalkDone (die : Nat) (s : State) : Out :=
  let x := xlOf s die
  match x.walks with
  | [] => .next s
  | w :: rest =>
    if !(domRun s die 10) then .next s
    else
      let s1 := setXl s die { x with walks := rest }
      match walk s w.vi w.page with
      | some l =>
        if w.write && !l.write then .next (walkFaults s1 die w)
        else
          let y := xlOf s1 die
          let c := trimCache s1 die (⟨w.vi, w.page, l.phys, l.read, l.write⟩ :: y.cache.filter (fun e => !(e.vi == w.vi && e.page == w.page)))
          let s2 := setXl s1 die { y with cache := c }
          .next (runJobs die (xlOf s2 die).jobs [] s2)
      | none => .next (walkFaults s1 die w)

/-! ### DEV_XLATE commands (R318, R323) -/

/-- The translations that an XLATE_INVAL drops. -/
def invalHits (s : State) (die : Nat) (t : Ticket) (v page : Nat) : Bool :=
  let n := rd s die R.XL_INVAL_PAGES 0
  let first := rd s die R.XL_INVAL_GPA 0 / 4096
  v == t.argument % 256 && (n == 0 || decide (first ≤ page ∧ page < first + n))

/-- The checks of XLATE_INVAL. -/
def checksXlateInval (t : State) (x : Ctx) : Checks :=
  swChecks true t x

/-- The effect of XLATE_INVAL. -/
def effectXlateInval (x : Ctx) (t : State) : Effect :=
  let y := xlOf t x.loc
  let gone := y.cache.filter (fun e => invalHits t x.loc (ticketOf x) e.vi e.page)
  let t1 := setXl t x.loc { y with cache := y.cache.filter (fun e => !(gone.contains e)) }
  .accepted ((gone.filter (fun e => ringHolds t1 x.loc e.vi e.page)).foldl (fun u e => startWalk u e.vi e.page e.write) t1)

/-- XLATE_INVAL, R318: the command drops the translations in range; those that a live ring holds are walked again. -/
def execXlateInval (c : Cmd) (s : State) : Out :=
  command s c .devXlate 0x10 checksXlateInval effectXlateInval

/-- XLATE_INVAL_DONE, R318. -/
def execXlateInvalDone (die : Nat) (s : State) : Out :=
  .next (if domRun s die 10 then finishOp s die .devXlate 0x10 .done 0 else s)

/-- The checks of RX_ENABLE. -/
def checksRxEnable (t : State) (x : Ctx) : Checks :=
  let cfg := rd t x.loc R.RX_CFG x.inst
  { swChecks (decide (4 ≤ fld cfg 11 8 ∧ fld cfg 11 8 ≤ 12 ∧ 11 ≤ fld cfg 15 12 ∧ fld cfg 15 12 ≤ 14)) t x with
    legal := ((xlOf t x.loc).rx.lookup x.inst).isNone }

/-- The effect of RX_ENABLE. -/
def effectRxEnable (x : Ctx) (t : State) : Effect :=
  let y := xlOf t x.loc
  let e : RxEnt := ⟨rd t x.loc R.RX_MATCH0 x.inst, rd t x.loc R.RX_MATCH1 x.inst, rd t x.loc R.RX_CFG x.inst,
    rd t x.loc R.RX_ITEM x.inst, rd t x.loc R.RX_BASE x.inst, 0, false, false⟩
  let src : Source := ⟨4, x.loc, x.inst, 0⟩
  let t1 := wr (unhold (setXl t x.loc { y with rx := mput x.inst e y.rx }) src) x.loc R.RX_STATE x.inst 1
  .done (prefetch t1 src (e.cfg % 256) (ringPages e.base (2 ^ (fld e.cfg 11 8 + fld e.cfg 15 12)) 0 (2 ^ fld e.cfg 15 12)))

/-- RX_ENABLE, R323: load receive entry SEL. -/
def execRxEnable (c : Cmd) (s : State) : Out :=
  command s c .devXlate 0x11 checksRxEnable effectRxEnable

/-- The checks of RX_DISABLE. -/
def checksRxDisable (t : State) (x : Ctx) : Checks :=
  { swChecks true t x with legal := ((xlOf t x.loc).rx.lookup x.inst).isSome }

/-- The effect of RX_DISABLE. -/
def effectRxDisable (x : Ctx) (t : State) : Effect :=
  let y := xlOf t x.loc
  .done (wr (setXl t x.loc { y with rx := mdel x.inst y.rx }) x.loc R.RX_STATE x.inst 0)

/-- RX_DISABLE, R323. -/
def execRxDisable (c : Cmd) (s : State) : Out :=
  command s c .devXlate 0x12 checksRxDisable effectRxDisable

/-- The checks of RX_RESTART. -/
def checksRxRestart (t : State) (x : Ctx) : Checks :=
  { swChecks true t x with legal := ((xlOf t x.loc).rx.lookup x.inst).isSome }

/-- The effect of RX_RESTART. -/
def effectRxRestart (x : Ctx) (t : State) : Effect :=
  let y := xlOf t x.loc
  match y.rx.lookup x.inst with
  | none => .done t
  | some e =>
    if e.faulted then
      let t1 := setXl t x.loc { y with rx := mput x.inst { e with faulted := false } y.rx }
      .done (wr { t1 with marks := ⟨4, x.loc, x.inst, 0⟩ :: t1.marks } x.loc R.RX_STATE x.inst (setBit (rd t1 x.loc R.RX_STATE x.inst) 1 false))
    else .done t

/-- RX_RESTART, R323: resume a faulted entry; its next item carries GAP_BEFORE (R319). -/
def execRxRestart (c : Cmd) (s : State) : Out :=
  command s c .devXlate 0x13 checksRxRestart effectRxRestart

/-- A receive slot (R322). The frame's bytes run to the last byte before the FCS. -/
def rxSlot (fin : FrameIn) (hub : Nat) : List Byte :=
  let len := fin.frame.len - 4
  bytesLE 8 fin.cts ++ bytesLE 4 fin.order ++ bytesLE 2 len ++ bytesLE 1 (fin.lane % 2 + hub % 8 * 2) ++ [0] ++ fin.frame.bytes.take len

/-- P13 of a hub delivers a frame to a die: over the die's Spoke to that hub, and where the frame left the other hub for want of
one there, to the dies that want it (R160). -/
def p13Serves (s : State) (hub : Nat) (fin : FrameIn) (die : Nat) : Bool :=
  spokeAlive s die hub && (!fin.across.compute || fin.hub == hub || !(spokeAlive s die (1 - hub)))

/-- A frame at the receive engine of one die (R321). -/
def rxOne (hub : Nat) (fin : FrameIn) (s : State) (die : Nat) : State :=
  if !(domRun s die 10 && p13Serves s hub fin die) then s
  else
    let x := xlOf s die
    let f := fin.frame
    match x.rx.find? (fun e => e.2.match0 == f.dst % 2 ^ 32 && e.2.match1 == f.dst / 2 ^ 32 % 65536 + f.etype % 65536 * 65536) with
    | none => incr s die R.RX_UNMATCHED 0 1
    | some (i, e) =>
      let v := e.cfg % 256
      let m := fld e.cfg 15 12
      let n := fld e.cfg 11 8
      let src : Source := ⟨4, die, i, 0⟩
      if e.faulted || 2 ^ m - 16 < f.len - 4 then incr s die R.RX_DROP i 1
      else if heldDest s v src then s
      else if viState s v = 0 then absentFault s src v (e.base + 64 + e.head % 2 ^ n * 2 ^ m)
      else match cutOf s v fin.cts with
        | .go =>
          if !(viTakes s v) then s else
          let slot := e.base + 64 + e.head % 2 ^ n * 2 ^ m
          let body := rxSlot fin hub
          let offer : Offer := ⟨src, 5, v, e.item % 4096, false, body.length,
            ctsOfNs (ctsNs (ctr s die).sec fin.cts + fld e.item 31 16 * 1000), 0, slot, fin.cts⟩
          let s1 := setXl s die { x with rx := mput i { e with head := e.head + 1 } x.rx }
          prefetch (viWrite s1 ⟨src, v, fin.cts, [(slot, body), (e.base, bytesLE 8 (e.head + 1) ++ bytesLE 8 fin.cts)],
            if bit e.cfg 16 then some offer else none⟩) src v (ringPages e.base (2 ^ (n + m)) (e.head % 2 ^ n * 2 ^ m) (2 ^ m))
        | c => countCut s v c

/-- RX_FRAME, R321: the oldest frame that a hub delivers through P13 reaches the compute dies. -/
def execRxFrame (hub : Nat) (s : State) : Out :=
  let w := swOf s hub
  match w.toP13 with
  | [] => .next s
  | f :: rest => .next ((computeDies s).foldl (rxOne hub f) (setSw s hub { w with toP13 := rest }))

/-! ### The egress engine (R155, R156, R320) -/

/-- The frame that a buffer holds. -/
def parseFrame (bs : List Byte) : Frame :=
  let dst := ofBytesBE (bs.take 6)
  let src := ofBytesBE ((bs.drop 6).take 6)
  let t := ofBytesBE ((bs.drop 12).take 2)
  let tci := ofBytesBE ((bs.drop 14).take 2)
  let tag : Option VTag := if t = 0x8100 then some ⟨tci / 8192, bit tci 12, tci % 4096⟩ else none
  let off := if t = 0x8100 then 16 else 12
  ⟨dst, src, tag, ofBytesBE ((bs.drop off).take 2), ofBytesBE ((bs.drop (off + 2)).take 2), none, bs.length, bs, false, false, none, .other⟩

/-- The sequence number of a send (R320): the table after it, none where the send is dropped. A send that leaves untagged
(R171) takes no number; that it meets the table all the same is DEDUCED (log entry 122). -/
def egressSeq (x : Xlate) (v mac : Nat) (tagged : Bool) : Option (Xlate × Nat) :=
  let up := b2n tagged
  match x.seqs.lookup mac with
  | some e => if e.1 = v then some ({ x with seqs := mput mac (v, (e.2 + up) % 65536) x.seqs }, e.2) else none
  | none => if x.seqs.length < 256 then some ({ x with seqs := mput mac (v, up) x.seqs }, 0) else none

/-- One copy of a send over a Spoke (R152). -/
def sendCopy (die : Nat) (q : SendReq) (f : Frame) (s : State) (hub : Nat) : State :=
  if spokeAlive s die hub then
    let w := swOf s hub
    setSw s hub { w with sends := w.sends ++ [⟨q.vi, q.entry, die, f, q.cause, false⟩] }
  else s

/-- EG_BUFFER_READ, R156: the oldest send of a die, once its buffer's pages are translated, is read and one copy goes
over each Spoke. -/
def execEgBufferRead (die : Nat) (s : State) : Out :=
  match s.sendReqs.find? (fun q => q.die == die) with
  | none => .next s
  | some q =>
    if !(domRun s die 10) then .next s
    else
      let x := xlOf s die
      let missing := (pagesOf q.addr q.len).filter (fun p => !(serves s die q.vi p false))
      if !missing.isEmpty then .next (missing.foldl (fun t p => startWalk t q.vi p false) s)
      else
        let f := parseFrame (getGuest s x q.vi q.addr q.len)
        let s0 := { s with sendReqs := s.sendReqs.erase q }
        let s1 := match q.direct with
          | some (ini, seq) =>
            if pageRun s0 (viewLoc q.vi) .egressView then
              hwEvent (wrB s0 (viewLoc q.vi) R.EG_READ_SEQ ini seq) (viewLoc q.vi) .egressView 0
            else s0
          | none => s0
        let tagged := !(decide (f.etype = 0x88F7) || isLinkLocal f.dst)
        match egressSeq (xlOf s1 die) q.vi f.src tagged with
        | none => .next (incr s1 die R.EG_NO_SEQ 0 1)
        | some r =>
          .next ((hubs s1).foldl (sendCopy die q { f with red := if tagged then some ⟨r.2, 0, false⟩ else none }) (setXl s1 die r.1))

/-- The VI of a view command. -/
def cmdVi (x : Ctx) : Nat := x.loc / 8

/-- The checks of EG_SEND. -/
def checksEgSend (t : State) (x : Ctx) : Checks :=
  let v := cmdVi x
  let len := rdB t x.loc R.EG_LEN x.who.ini
  let st := viState t v
  { Checks.pass with
    argOk := decide (64 ≤ len ∧ len ≤ 9216) && x.some_
    auth := (tblGet (swOf t (egressHub t)) 9 x.inst).d0 % 256 == v
    idle := pageIdle t x
    legal := st == 2 || st == 6 || (st == 3 && !(bit (rd t (viHome t v) R.VI_STATE v) 4)) }

/-- The effect of EG_SEND. -/
def effectEgSend (x : Ctx) (t : State) : Effect :=
  let v := cmdVi x
  let q : SendReq := ⟨viHome t v, v, x.inst, rdB t x.loc R.EG_LEN x.who.ini, rdB t x.loc R.EG_BUF x.who.ini, x.cts, some (x.who.ini, x.seq)⟩
  .done (incr { t with sendReqs := t.sendReqs ++ [q] } x.loc R.EG_SENT 0 1)

/-- EG_SEND, R156. -/
def execEgSend (c : Cmd) (s : State) : Out :=
  command s c .egressView 0x10 checksEgSend effectEgSend

/-- The checks of EGRESS_CLEAR_COUNTERS. -/
def checksEgressClearCounters (t : State) (x : Ctx) : Checks :=
  { swChecks true t x with legal := [2, 3, 4, 6].contains (viState t (cmdVi x)) }

/-- The effect of EGRESS_CLEAR_COUNTERS. -/
def effectEgressClearCounters (x : Ctx) (t : State) : Effect :=
  .done (clearRegs t x.loc 0 [R.EG_SENT, R.EG_FAULT])

/-- EGRESS_CLEAR_COUNTERS, R156. -/
def execEgressClearCounters (c : Cmd) (s : State) : Out :=
  command s c .egressView 0x11 checksEgressClearCounters effectEgressClearCounters

/-! ### DIRTY_LOG commands (R339, R340) -/

/-- Set LOG_STATE.SWAPPING. -/
def putSwapping (s : State) (die v : Nat) (b : Bool) : State := wr s die R.LOG_STATE v (setBit (rd s die R.LOG_STATE v) 2 b)

/-- The checks of LOG_START. -/
def checksLogStart (t : State) (x : Ctx) : Checks :=
  let b0 := rd t x.loc R.LOG_BASE0 x.inst
  let b1 := rd t x.loc R.LOG_BASE1 x.inst
  let n := rd t x.loc R.LOG_PAGES x.inst
  { swChecks (decide (b0 % 4096 = 0 ∧ b1 % 4096 = 0 ∧ rd t x.loc R.LOG_GPA_BASE x.inst % 4096 = 0 ∧ 1 ≤ n ∧ n ≤ 16777216) &&
      inAnyDram t b0 (ceilDiv n 8) && inAnyDram t b1 (ceilDiv n 8)) t x with
    legal := viState t x.inst != 0 && viHome t x.inst == x.loc && !(logOf t x.inst).on }

/-- The effect of LOG_START: the staged registers are loaded (R340). The log goes ON at the command's DONE. -/
def effectLogStart (x : Ctx) (t : State) : Effect :=
  .accepted (setLog t x.inst ⟨false, 0, rd t x.loc R.LOG_BASE0 x.inst, rd t x.loc R.LOG_BASE1 x.inst,
    rd t x.loc R.LOG_GPA_BASE x.inst, rd t x.loc R.LOG_PAGES x.inst⟩)

/-- LOG_START, R340. -/
def execLogStart (c : Cmd) (s : State) : Out :=
  command s c .dirtyLog 0x10 checksLogStart effectLogStart

/-- The checks of LOG_SWAP. -/
def checksLogSwap (t : State) (x : Ctx) : Checks :=
  { swChecks true t x with legal := viHome t x.inst == x.loc && (logOf t x.inst).on }

/-- The effect of LOG_SWAP. -/
def effectLogSwap (x : Ctx) (t : State) : Effect :=
  .accepted (putSwapping t x.loc x.inst true)

/-- LOG_SWAP, R339. -/
def execLogSwap (c : Cmd) (s : State) : Out :=
  command s c .dirtyLog 0x11 checksLogSwap effectLogSwap

/-- The checks of LOG_STOP. -/
def checksLogStop (t : State) (x : Ctx) : Checks :=
  { swChecks true t x with legal := viHome t x.inst == x.loc && (logOf t x.inst).on }

/-- The effect of LOG_STOP. -/
def effectLogStop (_ : Ctx) (t : State) : Effect :=
  .accepted t

/-- LOG_STOP, R340. -/
def execLogStop (c : Cmd) (s : State) : Out :=
  command s c .dirtyLog 0x12 checksLogStop effectLogStop

/-- DIRTY_LOG_DONE, R339, R340: the running command of a die's log ends; from here every write records as it says. -/
def execDirtyLogDone (die : Nat) (s : State) : Out :=
  if !(domRun s die 10) then .next s
  else match (hdr s die .dirtyLog).running.find? (fun t => decide (0x10 ≤ t.op ∧ t.op ≤ 0x12)) with
  | none => .next s
  | some t =>
    let v := t.inst
    let l := logOf s v
    let s1 := match t.op with
      | 0x10 => setLog s v { l with on := decide (l.pages ≠ 0) }
      | 0x11 => hwEvent (wr (incr (putSwapping (setLog s v { l with active := 1 - l.active }) die v false) die R.LOG_SWAPS v 1)
          die R.LOG_SWAP_CTS v (ctsNow s die)) die .dirtyLog 1
      | _ => setLog s v DirtyLog.off
    .next (finish s1 die .dirtyLog t .done 0)

end Sys2Proof.Machine
end

