-- ==== Sys2Proof/Machine/Peloton.lean ====
section
/-!
DEFINITION. Sys2Proof/Machine/Peloton.lean: the Peloton slices, the Pannier and the flows (R260 to R305).
-/
namespace Sys2Proof.Machine

/-! ### Items -/

/-- An item counts in its VI's occupancy (R261). -/
def Item.counts (i : Item) : Bool := match i.state with
  | .delayed | .ready | .spilled | .taken => true
  | .done | .placeholder => false

/-- The items of a slice. -/
def itemsOf (s : State) (die : Nat) : List Item := (sliceOf s die).items.map (fun e => e.2)

/-- A VI's occupancy (R269). -/
def occupancy (s : State) (die v : Nat) : Nat := ((itemsOf s die).filter (fun i => i.vi == v && i.counts)).length

/-- Set an item. -/
def putItem (s : State) (die : Nat) (i : Item) : State :=
  let x := sliceOf s die
  setSlice s die { x with items := mput i.adm i x.items }

/-- Free an item's place: it leaves the slice. -/
def dropItem (s : State) (die adm : Nat) : State :=
  let x := sliceOf s die
  setSlice s die { x with items := mdel adm x.items }

/-- A stored CTS lies before another, both extended to the full seconds nearest the die's (R112). -/
def ctsBefore (s : State) (die a b : Nat) : Bool := decide (ctsNs (ctr s die).sec a < ctsNs (ctr s die).sec b)

/-- An item's deadline lies before a CTS (R112, R286, R288); 0 is no deadline (R262). -/
def pastDeadline (s : State) (die : Nat) (i : Item) (cts : Nat) : Bool := i.deadline != 0 && ctsBefore s die i.deadline cts

/-- The order of R274: deadlines with their low 4 bits ignored, 0 later than every other, ties to the earlier
admission. -/
def earlier (a b : Item) : Bool :=
  let k := fun (i : Item) => if i.deadline = 0 then 2 ^ 64 else i.deadline / 16
  decide (k a < k b) || (k a == k b && decide (a.adm < b.adm))

/-- The first item of a list under an order. -/
def firstBy (lt : Item → Item → Bool) : List Item → Option Item
  | [] => none
  | i :: rest => match firstBy lt rest with
    | some j => if lt i j then some i else some j
    | none => some i

/-- The last item of a list under R274: the victim of a spill. -/
def latest (l : List Item) : Option Item := firstBy (fun a b => earlier b a) l

/-- A flow of a slice. -/
def flowOf (s : State) (die f : Nat) : Option Flow := (sliceOf s die).flows.lookup f

/-- Set a flow. -/
def putFlow (s : State) (die f : Nat) (w : Flow) : State :=
  let x := sliceOf s die
  setSlice s die { x with flows := mput f w x.flows }

/-- Distance of a sequence from NEXT. -/
def seqDist (w : Flow) (seq : Nat) : Nat := (seq + 2 ^ 20 - w.next) % 2 ^ 20

/-- The item lies in its flow's reorder window, or its flow is not ordered (R267). -/
def inReorder (s : State) (die : Nat) (i : Item) : Bool :=
  match flowOf s die i.flow with
  | some w => !(bit w.cfg 8) || decide (seqDist w i.seq < 64)
  | none => false

/-- A VI that is MIGRATING in (R341). -/
def migIn (s : State) (v : Nat) : Bool := viState s v == 6 && bit (rd s (viHome s v) R.VI_STATE v) 3

/-- The item can be taken (R267, R341). -/
def eligibleItem (s : State) (die : Nat) (i : Item) : Bool :=
  decide (i.state = .ready) && i.slot.isSome && inReorder s die i && !(migIn s i.vi)

/-- The first of `n` numbers from `k` that meets a test. -/
def firstFrom (p : Nat → Bool) : Nat → Nat → Option Nat
  | 0, _ => none
  | n + 1, k => if p k then some k else firstFrom p n (k + 1)

/-- A free on-die slot. -/
def freeSlot (s : State) (die : Nat) : Option Nat :=
  firstFrom (fun n => !((itemsOf s die).any (fun i => i.slot == some n))) 1024 0

/-- Put an item into an on-die slot under a new generation (R298); a slot's first item has generation 0 (DESIGN CHOICE, assumption 20). -/
def toSlot (s : State) (die : Nat) (i : Item) (n : Nat) : State :=
  let x := sliceOf s die
  putItem (setSlice s die { x with gens := mput n ((mget 65535 x.gens n + 1) % 65536) x.gens }) die
    { i with slot := some n, inPan := false, bucket := none }

/-! ### The Pannier (R276 to R281) -/

/-- The items in the Pannier, in no order. -/
def panItems (s : State) (die : Nat) : List Item := (itemsOf s die).filter (fun i => i.inPan)

/-- The Pannier's capacity (R276). -/
def panCap (x : Slice) : Nat := if x.panLog2 = 0 then 0 else 2 ^ x.panLog2

/-- The SPILLED items (R305). -/
def panOcc (s : State) (die : Nat) : Nat := ((panItems s die).filter (fun i => decide (i.state = .spilled))).length

/-- The Pannier has room for one more item. -/
def panRoom (s : State) (die : Nat) : Bool := decide ((panItems s die).length < panCap (sliceOf s die))

/-- A deadline in ns since the epoch (R112). -/
def deadlineNs (s : State) (die deadline : Nat) : Nat := ctsNs (ctr s die).sec deadline

/-- The bucket of a deadline (R278), by its start in ns since the epoch: none for the far bucket. -/
def bucketOf (s : State) (die first deadline : Nat) : Option Nat :=
  let w := 2 ^ (sliceOf s die).panK
  let at_ := deadlineNs s die deadline
  if deadline = 0 ∨ first + 4095 * w ≤ at_ then none
  else if at_ < first then some first
  else some (first + (at_ - first) / w * w)

/-- The start of the far bucket becomes PAN_FIRST when no other bucket holds items (R279): what lies within the buckets from
there joins bucket 0 in spill order, and the rest stays in the far bucket (R278; DESIGN CHOICE, log entry 124). -/
def openFar (s : State) (die : Nat) : State :=
  let x := sliceOf s die
  let first := x.panFirst + 4095 * 2 ^ x.panK
  let near := fun (i : Item) => i.inPan && (bucketOf s die first i.deadline).isSome
  if x.items.any (fun e => near e.2) then
    setSlice s die { x with
      panFirst := first
      items := x.items.map (fun e => (e.1, if near e.2 then { e.2 with bucket := some first } else e.2)) }
  else s

/-- Spill an item (R277): it enters the Pannier's bucket of its deadline. -/
def spill (s : State) (die : Nat) (i : Item) : State :=
  let x := sliceOf s die
  let w := 2 ^ x.panK
  let first := if (panItems s die).isEmpty then (if i.deadline = 0 then taiNs s die else deadlineNs s die i.deadline) / w * w else x.panFirst
  let b := bucketOf s die first i.deadline
  let y := { x with panFirst := first, nextSpill := x.nextSpill + 1, spillQ := x.spillQ ++ [i.adm] }
  let s1 := putItem (setSlice s die y) die { i with
    slot := none, inPan := true, bucket := b, spillOrder := x.nextSpill
    state := if i.state = .placeholder then .placeholder else .spilled }
  let s2 := incr s1 die R.PAN_SPILLS 0 1
  let s3 := if b.isNone then hwEvent s2 die .pannier 1 else s2
  let s4 := wr s3 die R.PAN_PEAK 0 (max (rd s3 die R.PAN_PEAK 0) (panOcc s3 die))
  cyc s4 die .peloton 0x14 0 1 (some i.vi)

/-- The order in which a refill takes items (R279): the earliest bucket, the far bucket last, in spill order. -/
def refillOrder (a b : Item) : Bool :=
  let k := fun (i : Item) => i.bucket.getD (2 ^ 80)
  decide (k a < k b) || (k a == k b && decide (a.spillOrder < b.spillOrder))

/-- A VI whose items an ABORT turns into placeholders (R294). -/
def aborting (s : State) (die v : Nat) : Bool := (sliceOf s die).walkVis.contains v

/-- PAN_FIRST moves to the next non-empty bucket when its bucket has emptied (R279). -/
def movePanFirst (s : State) (die : Nat) : State :=
  let x := sliceOf s die
  match firstBy refillOrder (panItems s die) with
  | none => setSlice s die { x with panFirst := 0 }
  | some i =>
    match i.bucket with
    | some b => setSlice s die { x with panFirst := max x.panFirst b }
    | none => openFar s die

/-- Count an item that becomes ready outside its reorder window (R267). -/
def countWindow (s : State) (die : Nat) (i : Item) : State :=
  if inReorder s die i then s else incr s die R.FL_WINDOW_HOLD i.flow 1

/-- Count a placeholder that quiesce or KILL makes (R297, R299). -/
def countAbort (s : State) (die v : Nat) : State := incr (incr s die R.ABORTED 0 1) die R.VI_ABORTED v 1

/-- An item as a placeholder (R261, R293). -/
def Item.abort (i : Item) : Item := { i with state := .placeholder, action := .none, kind := 0xF }

/-- The item in a free slot, an aborted one as its placeholder (R279, R293). -/
def refillOne (s : State) (die k : Nat) (i : Item) : State :=
  let gone := decide (i.state = .spilled) && aborting s die i.vi
  let j := if gone then i.abort else if i.state = .spilled then { i with state := .ready } else i
  let s1 := toSlot s die j k
  let s2 := if i.state = .spilled ∧ j.state = .placeholder then countAbort s1 die i.vi else s1
  movePanFirst (incr s2 die R.PAN_REFILLS 0 1) die

/-- Refill up to `n` free slots from the earliest bucket, in spill order (R279). -/
def refillSlots (die : Nat) : Nat → State → State
  | 0, s => s
  | n + 1, s =>
    match freeSlot s die, firstBy refillOrder (panItems s die) with
    | some k, some i => refillSlots die n (refillOne s die k i)
    | _, _ => s

/-- Where an item that enters READY goes (R277). -/
inductive Place where
  | slot (n : Nat)
  | swap (victim : Item) (n : Nat)
  | pannier
  deriving DecidableEq, Repr

/-- The place of R277 for a deadline that enters READY. -/
def placeOf (s : State) (die : Nat) (i : Item) : Place :=
  if !(panItems s die).isEmpty && (i.deadline == 0 || decide ((sliceOf s die).panFirst ≤ deadlineNs s die i.deadline)) then .pannier
  else match freeSlot s die with
    | some n => .slot n
    | none =>
      match latest (i :: (itemsOf s die).filter (fun j => decide (j.state = .ready) && j.slot.isSome)) with
      | some v => if v.adm = i.adm then .pannier else match v.slot with
        | some n => .swap v n
        | none => .pannier
      | none => .pannier

/-- While the Pannier holds items, every free slot is filled from it (R279). -/
def refillAll (s : State) (die : Nat) : State := refillSlots die 1024 s

/-- An item enters READY (R272, R277). -/
def enterReady (s : State) (die : Nat) (i : Item) : State :=
  let s0 := refillAll s die
  let j := { i with state := .ready }
  match placeOf s0 die j with
  | .slot n => countWindow (toSlot s0 die j n) die j
  | .swap v n =>
    let s1 := spill s0 die v
    countWindow (toSlot s1 die j n) die j
  | .pannier => countWindow (spill s0 die j) die j

/-! ### Takes (R282 to R286) -/

/-- The descriptor of an item (R262, R264). -/
def descriptor (i : Item) : List Nat :=
  [i.flow % 4096 + i.seq % 2 ^ 20 * 4096 +
    (i.vi % 256 + i.kind % 16 * 256 + b2n i.inline * 4096 + b2n i.gap * 8192 + b2n i.late * 16384 +
      b2n (decide (i.state = .placeholder)) * 32768 + i.len % 65536 * 65536) * 2 ^ 32,
   i.deadline, i.release, i.payload]

/-- The block under which a waiter's banked registers stand. -/
def takeReg (view : Bool) (r : Reg) : Reg := if view then { r with blk := .pelotonView } else r

/-- The read of a take returns (R282): whole, or its low word with the high word latched (R70). -/
def takeReturns (s : State) (w : Waiter) (v : Nat) : State :=
  let b := if w.view then Block.pelotonView else .peloton
  if w.wide then respond s v
  else respond (setLatch s w.loc b w.ini (some ⟨R.TAKE.off, v / 2 ^ 32, false⟩)) (v % 2 ^ 32)

/-- A take ends with a NONE code (R283). -/
def endTake (s : State) (die : Nat) (w : Waiter) (code : Nat) : State :=
  let x := sliceOf s die
  let s1 := setSlice s die { x with waiters := x.waiters.erase w }
  takeReturns (incr (wrB s1 w.loc (takeReg w.view R.TAKE) w.ini (code * 2 ^ 28)) die R.TAKE_NONE 0 1) w (code * 2 ^ 28)

/-- An item belongs to a take's VI set. -/
def inSet (w : Waiter) (i : Item) : Bool := w.any || i.vi == w.vi

/-- Bind an item to a take (R284, R286). -/
def bindTake (s : State) (die : Nat) (w : Waiter) (i : Item) : State :=
  let x := sliceOf s die
  let late := pastDeadline s die i (ctsNow s die)
  let n := i.slot.getD 0
  let v := mget 65535 x.gens n * 2 ^ 48 + n * 2 ^ 32 + i.vi * 2 ^ 20
  let j := { i with state := .taken, late := i.late || late }
  let s1 := setSlice s die { x with waiters := x.waiters.erase w, items := mput i.adm j x.items }
  let s2 := (List.range 4).foldl (fun t k => wrB t w.loc (takeReg w.view (R.TAKEN_D0_D3.nth k)) w.ini ((descriptor j)[k]?.getD 0)) s1
  let s3 := cyc (incr (wrB s2 w.loc (takeReg w.view R.TAKE) w.ini v) die R.TAKES 0 1) die .peloton 0x12 0 1 (some i.vi)
  let s4 := if late then
      causedBy i.stamp (fun u =>
        cyc (hwEvent (incr (incr u die R.LATE_TAKE 0 1) die R.VI_LATE_TAKE i.vi 1) die .peloton 2) die .peloton 0x13 0 1 (some i.vi)) s3
    else s3
  takeReturns s4 w v

/-- The VI of a take's set ends it with NONE_QUIESCE (R283). -/
def quiesceEnds (s : State) (die : Nat) (w : Waiter) : Bool :=
  if w.any then false
  else
    let st := viState s w.vi
    let abort := bit (rd s (viHome s w.vi) R.VI_STATE w.vi) 4
    st == 4 || (st == 3 && (abort || !((itemsOf s die).any (fun i => i.vi == w.vi && [ItemState.delayed, .ready, .spilled].contains i.state))))

/-- Serve the waiting takes, longest first (R284). -/
def serveTakes (die : Nat) : List Waiter → State → State
  | [], s => s
  | w :: rest, s =>
    match firstBy earlier ((itemsOf s die).filter (fun i => eligibleItem s die i && inSet w i)) with
    | some i => serveTakes die rest (bindTake s die w i)
    | none => serveTakes die rest (if quiesceEnds s die w then endTake s die w 3 else s)

/-- Whatever made items eligible, the waiting takes are served. -/
def dispatch (s : State) (die : Nat) : State := serveTakes die (sliceOf s die).waiters s

/-- A take that a hart of the die may start: it has none outstanding (R260, R282). -/
def mayStartTake (s : State) (die ini : Nat) : Bool :=
  isHart ini && hartDie ini == die && !((sliceOf s die).waiters.any (fun w => w.ini == ini))

/-- TAKE_START, R282, R283: a read of TAKE by a hart of the die starts a take; TIMEOUT 0 makes it return at once. A read by
another initiator, or by a hart whose take is outstanding, starts none and returns the register: the slice hands items to
the harts of its die alone, and a hart has one take at most. -/
def execTakeStart (a : Access) (s : State) : Out :=
  let b := if a.view.isSome then Block.pelotonView else .peloton
  let acc := { a with blk := b, off := R.TAKE.off }
  readGate acc 0 (fun t =>
    let loc := accLoc acc
    let die := match a.view with | some v => viHome t v | none => loc
    let ctl := rdB t loc (takeReg a.view.isSome R.TAKE_CTL) a.who.ini
    let w : Waiter := ⟨a.who.ini, a.view.isNone && bit ctl 28, a.view.getD (fld ctl 27 20), loc, a.view.isSome, t.now, ctl % 2 ^ 20, a.wide⟩
    let x := sliceOf t die
    let t1 := setSlice { t with resp := .none } die { x with waiters := x.waiters ++ [w] }
    if !(mayStartTake t die a.who.ini) then takeReturns t w (rdB t loc (takeReg a.view.isSome R.TAKE) a.who.ini)
    else if !x.run then endTake t1 die w 4
    else
      let t2 := dispatch t1 die
      if (sliceOf t2 die).waiters.contains w && ctl % 2 ^ 20 == 0 then endTake t2 die w 1 else t2) s

/-- The waiting take of an initiator. -/
def waiterOf (s : State) (die ini : Nat) : Option Waiter := (sliceOf s die).waiters.find? (fun w => w.ini == ini)

/-- TAKE_TIMEOUT, R283, R285: the TIMEOUT under which the take was started has passed with no item. A TIMEOUT of all ones
waits without limit. -/
def execTakeTimeout (die ini : Nat) (s : State) : Out :=
  match waiterOf s die ini with
  | none => .next s
  | some w =>
    if domRun s die 10 && w.timeout != 2 ^ 20 - 1 && decide (w.at_ + w.timeout * 1000 ≤ s.now) then .next (endTake s die w 1) else .next s

/-- TAKE_IRQ_END, R285: an interrupt becomes pending for the waiting hart. -/
def execTakeIrqEnd (die ini : Nat) (s : State) : Out :=
  match waiterOf s die ini with
  | none => .next s
  | some w => if domRun s die 10 then .next (endTake s die w 2) else .next s

/-! ### Release (R288 to R291, R295) -/

/-- A release record (R289). -/
def releaseRecord (i : Item) (st : Stamp) (gap late : Bool) : List Byte :=
  let act := match i.action with | .none => 0 | .note _ => 1 | .send _ _ _ => 2
  let v := match i.action with | .none => 0 | .note v => v | .send e _ l => e % 1024 + l % 16384 * 65536
  bytesLE 8 st.cts ++ bytesLE 4 st.order ++ bytesLE 4 (i.flow % 4096 + i.seq % 2 ^ 20 * 4096) ++
  bytesLE 4 (i.vi % 256 + i.kind % 16 * 256 + b2n i.skipped * 4096 + b2n gap * 8192 + b2n late * 16384 +
    b2n (decide (i.state = .placeholder)) * 32768 + act * 65536) ++ bytesLE 4 0 ++ bytesLE 8 v

/-- Write an item's release record into its flow's ring (R289, R295). -/
def writeRelease (s : State) (die : Nat) (i : Item) (st : Stamp) (late : Bool) : State :=
  match flowOf s die i.flow with
  | none => s
  | some w =>
    if !(bit w.cfg 10) then s
    else if w.recordsOff then incr s die R.FL_REC_DISCARD i.flow 1
    else if w.faulted then s
    else
      let v := w.cfg % 256
      let off := w.head % 2 ^ (fld w.cfg 20 16) * 32
      let at_ := w.base + 64 + off
      let s1 := putFlow s die i.flow { w with head := w.head + 1, gap := false }
      prefetch (viWrite s1 ⟨⟨2, die, i.flow, 0⟩, v, st.cts, [(at_, releaseRecord i st (w.gap || i.gap) late),
        (w.base, bytesLE 8 (w.head + 1) ++ bytesLE 8 st.cts)], none⟩) ⟨2, die, i.flow, 0⟩ v (ringPages w.base (32 * 2 ^ fld w.cfg 20 16) off 32)

/-- Release an item (R288): its record, its SEND, its slot. -/
def releaseItem (s : State) (die : Nat) (i : Item) : State :=
  let st := stampOf s die 257 i.stamp
  let late := pastDeadline s die i st.cts
  let s1 := writeRelease (tickSrc s die 257) die i st late
  let s2 := match i.action with
    | .send e a l => { s1 with sendReqs := s1.sendReqs ++ [⟨die, i.vi, e, l, a, st.cts, none⟩] }
    | _ => s1
  let s3 := wr (incr s2 die R.FL_RELEASED i.flow 1) die R.FLOW_LAST_REL i.flow st.cts
  let s4 := if late then flowEvent (incr s3 die R.FL_LATE_RELEASE i.flow 1) die i.flow 1 else s3
  cyc (dropItem s4 die i.adm) die .pelotonFlow 0x10 i.flow 1 none

/-- An item that ordered release may take: DONE, or a placeholder that does not lie in the Pannier. -/
def Item.ended (i : Item) : Bool := decide (i.state = .done) || (decide (i.state = .placeholder) && !i.inPan)

/-- Ordered release from NEXT on (R288). -/
def releaseFrom (die f : Nat) : Nat → State → State
  | 0, s => s
  | n + 1, s =>
    match flowOf s die f with
    | none => s
    | some w =>
      match (itemsOf s die).find? (fun i => i.flow == f && i.seq == w.next && i.ended) with
      | none => s
      | some i =>
        let s1 := releaseItem s die i
        match flowOf s1 die f with
        | none => s1
        | some w1 => releaseFrom die f n (putFlow s1 die f { w1 with next := (w1.next + 1) % 2 ^ 20 })

/-- Release what a flow now can: in sequence order, or each ended item at once (R265, R288). -/
def releaseFlow (s : State) (die f : Nat) : State :=
  match flowOf s die f with
  | none => s
  | some w =>
    if bit w.cfg 8 then releaseFrom die f ((itemsOf s die).length) s
    else
      let s1 := ((itemsOf s die).filter (fun i => i.flow == f && i.ended)).foldl (fun t i => releaseItem t die i) s
      match flowOf s1 die f with
      | none => s1
      | some w1 => putFlow s1 die f { w1 with next := w1.admitNo }

/-- Release what the flows of ended items now can. -/
def releaseEnded (s : State) (die : Nat) : State :=
  ((((itemsOf s die).filter (fun i => i.ended)).map (fun i => i.flow)).eraseDups).foldl (fun t f => releaseFlow t die f) s

/-! ### Admission (R268 to R273) -/

/-- What admission decides. -/
inductive Verdict where
  | refused (code : Code) (why : Nat)
  | admitted (delayed spilled : Bool) (seq : Nat)
  deriving DecidableEq, Repr

/-- A release CTS is at or before the last tick's: the item enters READY at admission (R112, R272). -/
def dueAt (s : State) (die release : Nat) : Bool :=
  release == 0 || (match (sliceOf s die).lastTick with | some t => !(ctsBefore s die t release) | none => false)

/-- The slice has a place for an item that enters READY: an on-die slot, or Pannier room (R268, R277, R281). -/
def hasPlace (s : State) (die : Nat) (i : Item) : Bool :=
  match placeOf s die i with
  | .slot _ => true
  | _ => panRoom s die

/-- Why an admission fails (R268), in its order: none, or the code a POST gets and the row's number. -/
def admitFails (s : State) (die kind flow vi : Nat) (inline post : Bool) (len release deadline : Nat) : Option (Code × Nat) :=
  let x := sliceOf s die
  let st := fun v => viState s v
  if !x.run then some (.illegalState, 0)
  else if !(if post then kind == 3 else [1, 2, 3, 4, 5].contains kind) || (inline && decide (8 < len)) || decide (4096 ≤ flow) then some (.badArg, 1)
  else match flowOf s die flow with
  | none => some (.illegalState, 2)
  | some w =>
    let owner := w.cfg % 256
    if (owner != vi && !(bit w.cfg 9)) || st vi == 0 || viHome s vi != die then some (.denied, 3)
    else if st vi == 3 || st vi == 4 || [3, 4, 5].contains (st owner) then some (.illegalState, 4)
    else if rd s die R.SHF_QUOTA vi ≤ occupancy s die vi then some (.noResource, 5)
    else if 2 ^ 19 ≤ ((itemsOf s die).filter (fun i => i.flow == flow)).length then some (.noResource, 6)
    else
      if !(dueAt s die release) then
        if 4096 ≤ ((itemsOf s die).filter (fun i => decide (i.state = .delayed))).length then some (.noResource, 7) else none
      else
        let probe : Item := ⟨x.nextAdm, flow, 0, vi, kind, inline, false, false, len, deadline, release, 0, 0, .ready, none, 0, 0, .none, false, false, none⟩
        if hasPlace (refillAll s die) die probe then none else some (.noResource, 8)

/-- Count a refusal (R268, R281, R297, R299). -/
def countRefusal (s : State) (die vi flow : Nat) (offer : Bool) (why : Nat) : State :=
  let s1 := cyc (hwEvent (incr s die R.REFUSED 0 1) die .peloton 3) die .peloton 0x11 0 1 (some vi)
  let s2 := if why = 5 then shareRefuse (incr s1 die R.VI_SHARE_REFUSE vi 1) vi
    else incr s1 die R.VI_OTHER_REFUSE vi 1
  if why = 3 ∧ offer then incr s2 die R.FL_DENIED flow 1
  else if why = 7 then hwEvent (incr s2 die R.DELAY_FULL 0 1) die .peloton 1
  else if why = 8 then hwEvent (incr s2 die R.PAN_FULL 0 1) die .pannier 0
  else s2

/-- Admit an item that passed the checks (R268, R272): its sequence, its stamp, its place. -/
def admitItem (s : State) (die kind flow vi : Nat) (inline gap : Bool) (len release deadline payload cause : Nat) : State × Verdict :=
  match flowOf s die flow with
  | none => (s, .refused .illegalState 2)
  | some w =>
    let st := stampOf s die 256 cause
    let x := sliceOf s die
    let i : Item := ⟨x.nextAdm, flow, w.admitNo, vi, kind, inline, gap, false, len, deadline, release, payload, cause, .delayed, none, 0,
      st.cts, .none, false, false, none⟩
    let s1 := setSlice (tickSrc s die 256) die { x with nextAdm := x.nextAdm + 1 }
    let s2 := putFlow s1 die flow { w with admitNo := (w.admitNo + 1) % 2 ^ 20 }
    let s3 := incr (incr s2 die R.ADMITTED 0 1) die R.VI_ADMITTED vi 1
    let s4 := cyc s3 die .peloton 0x10 0 1 (some vi)
    if dueAt s die release then
      let before := rd s4 die R.PAN_SPILLS 0
      let s5 := enterReady s4 die i
      (dispatch (releaseEnded s5 die) die, .admitted false (rd s5 die R.PAN_SPILLS 0 != before) w.admitNo)
    else (putItem s4 die i, .admitted true false w.admitNo)

/-- A refused offer marks its destination (R270). -/
def markSource (s : State) (x : Source) : State :=
  if s.marks.contains x then s else { s with marks := x :: s.marks }

/-- One engine offer at the slice of its VI (R268, R270, R341). -/
def offerAt (s : State) (o : Offer) : State :=
  if viState s o.vi = 0 then markSource s o.src
  else
    let die := viHome s o.vi
    if !(domRun s die 10) then markSource s o.src
    else match cutOf s o.vi o.cause with
    | .suppress => countCut s o.vi .suppress
    | .late => markSource (countRefusal (countCut s o.vi .late) die o.vi o.flow true 4) o.src
    | .go =>
      match admitFails s die o.kind o.flow o.vi o.inline false o.len o.release o.deadline with
      | some (_, why) => markSource (countRefusal s die o.vi o.flow true why) o.src
      | none =>
        let gap := s.marks.contains o.src
        (admitItem { s with marks := s.marks.filter (fun m => m != o.src) } die o.kind o.flow o.vi o.inline gap o.len o.release
          o.deadline o.payload o.cause).1

/-- PELOTON_OFFER, R268: the oldest offer reaches its slice. -/
def execPelotonOffer (s : State) : Out :=
  match s.offers with
  | [] => .next s
  | o :: rest => .next (offerAt { s with offers := rest } o)

/-- PANNIER_SPILL_WRITE, R277: the oldest posted spill of a slice is written. -/
def execPannierSpillWrite (die : Nat) (s : State) : Out :=
  let x := sliceOf s die
  .next (if domRun s die 10 then setSlice s die { x with spillQ := x.spillQ.drop 1 } else s)

/-- PANNIER_REFILL, R279. -/
def execPannierRefill (die : Nat) (s : State) : Out :=
  if !(domRun s die 10 && (sliceOf s die).run) then .next s
  else
    .next (dispatch (releaseEnded (refillSlots die 16 s) die) die)

/-- One entry of the Pannier as the walk meets it (R294). -/
def walkEntry (die : Nat) (s : State) (i : Item) : State :=
  if decide (i.state = .spilled) && aborting s die i.vi then
    let x := sliceOf s die
    let j := i.abort
    let s1 := countAbort s die i.vi
    if inReorder s die i then putItem s1 die { j with inPan := false, bucket := none }
    else putItem s1 die { j with bucket := some x.panFirst }
  else s

/-- PANNIER_WALK, R294: the walk handles every entry, ends with WALK_DONE, and what it made releasable is released. -/
def execPannierWalk (die : Nat) (s : State) : Out :=
  if !(domRun s die 10) || (sliceOf s die).walkVis.isEmpty then .next s
  else
    let s1 := (panItems s die).foldl (walkEntry die) s
    let x := sliceOf s1 die
    let s2 := setSlice s1 die { x with walkVis := [] }
    let s3 := setStatus (movePanFirst s2 die) die .peloton (setBit (hdr s2 die .peloton).status 3 false)
    .next (hwEvent (dispatch (releaseEnded s3 die) die) die .pannier 2)

/-! ### Ticks (R272, R273) -/

/-- The delay list in its order: release CTS, then admission. -/
def delayOrder (s : State) (die : Nat) (a b : Item) : Bool :=
  ctsBefore s die a.release b.release || (!(ctsBefore s die b.release a.release) && decide (a.adm < b.adm))

/-- Release every due delayed item in delay-list order (R272). An item for which there is neither a slot nor Pannier room
waits in the list, and those behind it, until a later tick: the manual refuses no admitted item (DESIGN CHOICE, log entry
105). -/
def releaseDelayed (die cts : Nat) : Nat → State → State
  | 0, s => s
  | n + 1, s =>
    match firstBy (delayOrder s die) ((itemsOf s die).filter (fun i => decide (i.state = .delayed) && !(ctsBefore s die cts i.release))) with
    | none => s
    | some i =>
      let s1 := refillAll s die
      if hasPlace s1 die { i with state := .ready } then releaseDelayed die cts n (enterReady s1 die i) else s1

/-- A tick with a CTS. -/
def tickSlice (s : State) (die cts : Nat) : State :=
  let x := sliceOf s die
  let s1 := wr (setSlice s die { x with lastTick := some cts }) die R.PEL_LAST_TICK 0 cts
  dispatch (releaseEnded (releaseDelayed die cts x.items.length s1) die) die

/-- PELOTON_TICK, R272: the oldest tick firing on its way to a slice; one of a hub that the die no longer reaches is lost
(R118). A firing ends local ticking (R273), and is the cause of what the tick does (R107). -/
def execPelotonTick (die : Nat) (s : State) : Out :=
  match s.firings.find? (fun f => f.code == 2 && f.index == die) with
  | none => .next s
  | some f =>
    let s0 := { s with firings := s.firings.erase f }
    if domRun s die 10 && (sliceOf s die).run && lineReach s die f.hub then
      let x := sliceOf s0 die
      let s1 := setStatus (setSlice s0 die { x with local_ := false, tickAt := s.now }) die .peloton (setBit (hdr s0 die .peloton).status 1 false)
      .next (causedBy f.cts (fun u => tickSlice u die f.cts) s1)
    else .next s0

/-- The elapsed time of a slice's next local tick (R273): twice PEL_TICK after the last firing, or after PEL_START, then every
PEL_TICK. -/
def localTickAt (s : State) (die : Nat) : Nat :=
  let x := sliceOf s die
  x.tickAt + (if x.local_ then 1 else 2) * within 1000 1000000 (rd s die R.PEL_TICK 0)

/-- PELOTON_LOCAL_TICK, R273: with no firing for twice PEL_TICK the slice ticks by itself, and sets LOCAL_TICK when it
begins to. -/
def execPelotonLocalTick (die : Nat) (s0 : State) : Out :=
  let at_ := localTickAt s0 die
  let s := setSlice s0 die { sliceOf s0 die with tickAt := at_ }
  let x := sliceOf s die
  if !(decide (at_ ≤ s0.now)) then .next s0
  else if domRun s die 10 && x.run then
    let s1 := if x.local_ then s
      else hwEvent (setStatus (setSlice s die { x with local_ := true }) die .peloton (setBit (hdr s die .peloton).status 1 true)) die .peloton 0
    .next (tickSlice s1 die (ctsNow s1 die))
  else .next s0

/-! ### PELOTON commands (R287, R296) -/

/-- The slice of a PELOTON or PELOTON_VIEW command. -/
def pelDie (s : State) (x : Ctx) : Nat := if blockIsView x.blk then viHome s (x.loc / 8) else x.loc

/-- The checks of PEL_START. -/
def checksPelStart (t : State) (x : Ctx) : Checks :=
  let base := rd t x.loc R.PAN_BASE 0
  let cfg := rd t x.loc R.PAN_CFG 0
  let n := cfg % 32
  let k := fld cfg 20 16
  { swChecks (decide (base % 4096 = 0) && (n == 0 || decide (10 ≤ n ∧ n ≤ 20)) && decide (10 ≤ k ∧ k ≤ 20) &&
      (n == 0 || inDram t x.loc base (2 ^ n * 32 + 65536))) t x with legal := !(sliceOf t x.loc).run }

/-- The effect of PEL_START. -/
def effectPelStart (x : Ctx) (t : State) : Effect :=
  let cfg := rd t x.loc R.PAN_CFG 0
  let y := sliceOf t x.loc
  let t1 := setSlice t x.loc { y with
    run := true, panBase := rd t x.loc R.PAN_BASE 0, panLog2 := cfg % 32, panK := fld cfg 20 16, lastTick := none, local_ := false
    tickAt := t.now }
  .done (hwEvent (setStatus t1 x.loc .peloton (1 + b2n (decide (cfg % 32 ≠ 0)) * 4)) x.loc .peloton 5)

/-- PEL_START, R296. -/
def execPelStart (c : Cmd) (s : State) : Out :=
  command s c .peloton 0x10 checksPelStart effectPelStart

/-- A banked register of PELOTON, or of PELOTON_VIEW for a view command. -/
def pelReg (x : Ctx) (r : Reg) : Reg := takeReg (blockIsView x.blk) r

/-- The checks of POST. -/
def checksPost (t : State) (x : Ctx) : Checks :=
  swChecks true t x

/-- The effect of POST. -/
def effectPost (x : Ctx) (t : State) : Effect :=
  let die := pelDie t x
  let d := fun k => rdB t x.loc (pelReg x (R.POST_D0_D3.nth k)) x.who.ini
  let hi := d 0 / 2 ^ 32
  let vi := x.view.getD (hi % 256)
  let flow := d 0 % 4096
  let kind := fld hi 11 8
  let inline := bit hi 12
  let len := fld hi 31 16
  match admitFails t die kind flow vi inline true len (d 2) (d 1) with
  | some (code, why) => ⟨countRefusal t die vi flow false why, code, 0⟩
  | none =>
    let r := admitItem t die kind flow vi inline false len (d 2) (d 1) (d 3) x.cts
    match r.2 with
    | .admitted delayed spilled seq => ⟨wrB r.1 x.loc (pelReg x R.POST_SEQ) x.who.ini seq, .done, b2n spilled + 2 * b2n delayed⟩
    | .refused code _ => ⟨t, code, 0⟩

/-- POST, R296: admit POST_D0 to POST_D3 as a SOFT item. -/
def execPost (c : Cmd) (s : State) : Out :=
  command s c (viewOr c .pelotonView .peloton) 0x11 checksPost effectPost

/-- The item that a COMPLETE names by its handle: the slot's generation and a TAKEN item. -/
def handleItem (s : State) (die arg : Nat) : Option Item :=
  (itemsOf s die).find? (fun i => i.slot == some (arg % 65536) && decide (i.state = .taken) &&
    mget 65535 (sliceOf s die).gens (arg % 65536) == fld arg 31 16)

/-- The item in a slot, whatever its state. -/
def slotItem (s : State) (die n : Nat) : Option Item := (itemsOf s die).find? (fun i => i.slot == some n)

/-- The checks of COMPLETE: any hart of the item's VI may issue it, and a hart with V = 0 (R287). That any other initiator is
answered with DENIED is DEDUCED (log entry 125). -/
def checksComplete (t : State) (x : Ctx) : Checks :=
  let die := pelDie t x
  { swChecks (decide (x.cmdArg % 65536 ≤ 1023 ∧ x.sub ≤ 2)) t x with
    auth := hostHart x.who || (isHart x.who.ini && (match x.who.vi, slotItem t die (x.cmdArg % 65536) with
      | some v, some i => i.vi == v
      | _, _ => true))
    legal := (sliceOf t die).run }

/-- The effect of COMPLETE. -/
def effectComplete (x : Ctx) (t : State) : Effect :=
  let die := pelDie t x
  match handleItem t die x.cmdArg with
  | none => ⟨hwEvent (incr t die R.STALE_COMPLETE 0 1) die .peloton 4, .illegalState, 0⟩
  | some i =>
    let d0 := rdB t x.loc (pelReg x R.COMP_DATA0) x.who.ini
    let d1 := rdB t x.loc (pelReg x R.COMP_DATA1) x.who.ini
    let act := match x.sub with
      | 0 => Action.none
      | 1 => .note d0
      | _ => .send (fld d1 25 16) d0 (d1 % 16384)
    let t1 := putItem t die { i with state := .done, stamp := x.cts, action := act }
    let t2 := releaseFlow t1 die i.flow
    let gone := ((sliceOf t2 die).items.lookup i.adm).isNone
    ⟨dispatch t2 die, .done, b2n gone + 2 * b2n (pastDeadline t die i x.cts)⟩

/-- COMPLETE, R287: end a TAKEN item with an action; what it makes releasable is released. -/
def execComplete (c : Cmd) (s : State) : Out :=
  command s c (viewOr c .pelotonView .peloton) 0x12 checksComplete effectComplete

/-- The checks of PELOTON_CLEAR_COUNTERS. -/
def checksPelotonClearCounters (t : State) (x : Ctx) : Checks :=
  swChecks (x.view.isSome || decide (x.argument < 256 ∨ x.argument = 0xFFFF)) t x

/-- The effect of PELOTON_CLEAR_COUNTERS. -/
def effectPelotonClearCounters (x : Ctx) (t : State) : Effect :=
  let vi := [R.VI_ADMITTED, R.VI_SHARE_REFUSE, R.VI_OTHER_REFUSE, R.VI_LATE_TAKE, R.VI_ABORTED]
  let own := [R.ADMITTED, R.REFUSED, R.TAKES, R.TAKE_NONE, R.LATE_TAKE, R.STALE_COMPLETE, R.ABORTED, R.DELAY_FULL]
  .done (match x.view with
    | some v => clearRegs t (pelDie t x) v vi
    | none => if x.argument = 0xFFFF then clearRegs (clearInsts t x.loc 0 256 vi) x.loc 0 own else clearRegs t x.loc x.argument vi)

/-- PELOTON_CLEAR_COUNTERS, R296, R300. -/
def execPelotonClearCounters (c : Cmd) (s : State) : Out :=
  command s c (viewOr c .pelotonView .peloton) 0x13 checksPelotonClearCounters effectPelotonClearCounters

/-! ### Flows (R291, R303) -/

/-- The blocking item of a flow: at NEXT, TAKEN or READY (R291, R301). -/
def blockingItem (s : State) (die f : Nat) : Option Item :=
  match flowOf s die f with
  | none => none
  | some w => (itemsOf s die).find? (fun i => i.flow == f && i.seq == w.next && bit w.cfg 8 && (decide (i.state = .taken) || decide (i.state = .ready)))

/-- Items that a flow holds. -/
def flowItems (s : State) (die f : Nat) : Nat := ((itemsOf s die).filter (fun i => i.flow == f)).length

/-- Skip a blocking item (R291): the item is the cause of what the skip stamps (R107). -/
def skipItem (s : State) (die : Nat) (i : Item) : State :=
  causedBy i.stamp (fun u =>
    let st := pageStamp u die die .pelotonFlow 0
    let s1 := putItem (tickPage u die .pelotonFlow) die { i.abort with skipped := true, stamp := st.cts }
    let s2 := flowEvent (incr s1 die R.FL_SKIPPED i.flow 1) die i.flow 0
    let s3 := cyc (record s2 die die .pelotonFlow st 1 0 true i.flow [i.flow, i.seq, i.vi]) die .pelotonFlow 0x11 i.flow 1 none
    dispatch (releaseFlow s3 die i.flow) die) s

/-- FLOW_HOLD_EXPIRY, R291: the blocking item's deadline lies more than FLOW_HOLD in the past. -/
def execFlowHoldExpiry (die flow : Nat) (s : State) : Out :=
  match blockingItem s die flow with
  | none => .next s
  | some i =>
    let hold := rd s die R.FLOW_HOLD flow
    let sec := (ctr s die).sec
    if domRun s die 10 && hold != 0 && i.deadline != 0 && decide (ctsNs sec i.deadline + hold * 1000 < taiNs s die) then
      .next (skipItem s die i)
    else .next s

/-- The flow, and its die, of a PELOTON_FLOW or FLOW_VIEW command. -/
def flowLegal (s : State) (x : Ctx) (p : Flow → Bool) : Bool :=
  x.some_ && (match flowOf s x.die x.inst with | some w => p w | none => false)

/-- The checks of FLOW_ENABLE. -/
def checksFlowEnable (t : State) (x : Ctx) : Checks :=
  let cfg := rd t x.loc R.FLOW_CFG x.inst
  let v := cfg % 256
  { swChecks (decide (viState t v ≠ 0) && viHome t v == x.loc && decide (6 ≤ fld cfg 20 16 ∧ fld cfg 20 16 ≤ 16) &&
      decide (rd t x.loc R.FLOW_RING_BASE x.inst % 64 = 0)) t x with legal := (flowOf t x.loc x.inst).isNone }

/-- The effect of FLOW_ENABLE. -/
def effectFlowEnable (x : Ctx) (t : State) : Effect :=
  let cfg := rd t x.loc R.FLOW_CFG x.inst
  let base := rd t x.loc R.FLOW_RING_BASE x.inst
  let t1 := flowEvent (putFlow t x.loc x.inst ⟨cfg, base, 0, 0, 0, false, false, false⟩) x.loc x.inst 3
  .done (if bit cfg 10 then prefetch t1 ⟨2, x.loc, x.inst, 0⟩ (cfg % 256) (ringPages base (32 * 2 ^ fld cfg 20 16) 0 32) else t1)

/-- FLOW_ENABLE, R303. -/
def execFlowEnable (c : Cmd) (s : State) : Out :=
  command s c .pelotonFlow 0x10 checksFlowEnable effectFlowEnable

/-- The checks of FLOW_DISABLE. -/
def checksFlowDisable (t : State) (x : Ctx) : Checks :=
  { swChecks true t x with legal := flowLegal t x (fun _ => flowItems t x.loc x.inst == 0) }

/-- The effect of FLOW_DISABLE. -/
def effectFlowDisable (x : Ctx) (t : State) : Effect :=
  let t1 := flowEvent t x.loc x.inst 3
  let y := sliceOf t1 x.loc
  .done (setSlice t1 x.loc { y with flows := mdel x.inst y.flows })

/-- FLOW_DISABLE, R303: legal while the flow holds no item. -/
def execFlowDisable (c : Cmd) (s : State) : Out :=
  command s c .pelotonFlow 0x11 checksFlowDisable effectFlowDisable

/-- The checks of FLOW_SKIP. -/
def checksFlowSkip (t : State) (x : Ctx) : Checks :=
  { swChecks true t x with auth := hostHart x.who, legal := (blockingItem t x.loc x.inst).isSome }

/-- The effect of FLOW_SKIP. -/
def effectFlowSkip (x : Ctx) (t : State) : Effect :=
  match blockingItem t x.loc x.inst with
    | some i => .done (skipItem t x.loc i)
    | none => .done t

/-- FLOW_SKIP, R303. -/
def execFlowSkip (c : Cmd) (s : State) : Out :=
  command s c .pelotonFlow 0x12 checksFlowSkip effectFlowSkip

/-- The checks of RING_RESTART. -/
def checksRingRestart (t : State) (x : Ctx) : Checks :=
  { swChecks true t x with legal := flowLegal t x (fun _ => true) }

/-- The effect of RING_RESTART. -/
def effectRingRestart (x : Ctx) (t : State) : Effect :=
  match flowOf t x.die x.inst with
    | some w => .done (if w.faulted then putFlow t x.die x.inst { w with faulted := false, gap := true } else t)
    | none => .done t

/-- RING_RESTART, R303, R304: resume a faulted ring; its next record carries GAP_BEFORE (R289). -/
def execRingRestart (c : Cmd) (s : State) : Out :=
  command s c (viewOr c .flowView .pelotonFlow) 0x13 checksRingRestart effectRingRestart

/-- The counters of a flow (R301). -/
def flowCounters : List Reg := [R.FL_RELEASED, R.FL_SKIPPED, R.FL_LATE_RELEASE, R.FL_WINDOW_HOLD, R.FL_REC_DISCARD, R.FL_DENIED]

/-- The checks of FLOW_CLEAR_COUNTERS. -/
def checksFlowClearCounters (t : State) (x : Ctx) : Checks :=
  swChecks (x.view.isSome || decide (x.argument < 4096 ∨ x.argument = 0xFFFF)) t x

/-- The effect of FLOW_CLEAR_COUNTERS. -/
def effectFlowClearCounters (x : Ctx) (t : State) : Effect :=
  .done (match x.view with
    | some _ => if x.some_ then clearRegs t x.die x.inst flowCounters else t
    | none => if x.argument = 0xFFFF then clearInsts t x.loc 0 4096 flowCounters else clearRegs t x.loc x.argument flowCounters)

/-- FLOW_CLEAR_COUNTERS, R303, R304. -/
def execFlowClearCounters (c : Cmd) (s : State) : Out :=
  command s c (viewOr c .flowView .pelotonFlow) 0x14 checksFlowClearCounters effectFlowClearCounters

/-! ### Quiesce (R292 to R295) -/

/-- The flows that a VI owns. -/
def ownedFlows (s : State) (die v : Nat) : List (Nat × Flow) := (sliceOf s die).flows.filter (fun e => e.2.cfg % 256 == v)

/-- A VI's flows write no release records from here on (R295). -/
def recordsOff (s : State) (die v : Nat) : State :=
  (ownedFlows s die v).foldl (fun t e => putFlow t die e.1 { e.2 with recordsOff := true }) s

/-- The Peloton's part of a QUIESCE in ABORT, or of a KILL (R293). -/
def pelAbort (s : State) (die v : Nat) : State :=
  let ws := (sliceOf s die).waiters.filter (fun w => !w.any && w.vi == v)
  let s1 := ws.foldl (fun t w => endTake t die w 3) (recordsOff s die v)
  let mine := (itemsOf s1 die).filter (fun i => i.vi == v && !i.inPan && !(decide (i.state = .placeholder)))
  let s2 := mine.foldl (fun t i => putItem (countAbort t die v) die i.abort) s1
  let x := sliceOf s2 die
  let s3 := if (panItems s2 die).isEmpty then s2
    else setStatus (setSlice s2 die { x with walkVis := v :: x.walkVis }) die .peloton (setBit (hdr s2 die .peloton).status 3 true)
  dispatch ((mine.map (fun i => i.flow)).eraseDups.foldl (fun t f => releaseFlow t die f) s3) die

/-- A write of an engine into a VI's memory is in progress. -/
def jobsOf (s : State) (v : Nat) (engines : List Nat) : List Job :=
  (xlOf s (viHome s v)).jobs.filter (fun j => j.vi == v && engines.contains j.src.engine)

/-- The Peloton's part of a quiesce is done (R292, R293). -/
def pelQuiet (s : State) (die v : Nat) (abort : Bool) : Bool :=
  (jobsOf s v [2]).isEmpty && (abort || !((itemsOf s die).any (fun i => i.vi == v)))

end Sys2Proof.Machine
end

