-- ==== Sys2Proof/Machine/Rings.lean ====
section
/-!
DEFINITION. Sys2Proof/Machine/Rings.lean: the rings of stream and detector destinations (R209 to R212, R248, R620).
-/
namespace Sys2Proof.Machine

/-- Fields of DESTn_CFG and DET_DEST_CFG (R220, R257). -/
def Dest.valid (d : Dest) : Bool := bit d.cfg 0
def Dest.inVi (d : Dest) : Bool := bit d.cfg 1
def Dest.items (d : Dest) : Bool := bit d.cfg 2
def Dest.die (d : Dest) : Nat := fld d.cfg 6 4
def Dest.vi (d : Dest) : Nat := fld d.cfg 15 8
def Dest.log2 (d : Dest) : Nat := fld d.cfg 20 16

/-- A destination of a staged entry, as ST_ENABLE or DET_ENABLE loads it. -/
def Dest.load (cfg item base : Nat) : Dest := ⟨cfg, item, base, false, 0, 0, false, false⟩

/-- The destination's ring fits its memory (R217). R217 states a limit for three modes of VI_HGATP; for another it states
none, and the model refuses nothing: the ring's writes then fault (R316). DESIGN CHOICE, log entry 23. -/
def destOk (s : State) (d : Dest) : Bool :=
  let n := d.log2
  let size := 64 + 16 * 2 ^ n
  decide (8 ≤ n ∧ n ≤ 20 ∧ d.base % 64 = 0) &&
  let limit := gpaLimit (rd s (viHome s d.vi) R.VI_HGATP d.vi / 2 ^ 60)
  (if d.inVi then decide (limit = 0 ∨ d.base + size ≤ limit)
   else present s d.die && !(isHub d.die) && decide (d.base + size ≤ 0x400000))

/-- A physical address of a ring, none where its page does not translate. -/
def ringAddr (s : State) (d : Dest) (off : Nat) : Option Nat :=
  if d.inVi then (walk s d.vi ((d.base + off) / 4096)).map (fun l => l.phys * 4096 + (d.base + off) % 4096)
  else some (sampleStore d.die + d.base + off)

/-- A 64-bit value of a ring's header. -/
def ringWord (s : State) (d : Dest) (off : Nat) : Nat :=
  match ringAddr s d off with
  | some a => readLE s a 8
  | none => 0

/-- The header of a ring (R209). -/
def ringHeader (head cts idx die n group gap : Nat) : List Byte :=
  bytesLE 8 head ++ bytesLE 8 cts ++ bytesLE 2 idx ++ bytesLE 1 die ++ bytesLE 1 n ++ bytesLE 2 group ++ bytesLE 2 0 ++ bytesLE 8 gap

/-- A hub's engine writes to memory of a compute die's own (R20). -/
def storeDevice (s : State) (hub die addr : Nat) (bs : List Byte) : State :=
  if reachesHub s die hub then writeBytes s addr bs else s

/-- What a group of records brings: its records, its instant, the header's index and group size, and the
offer that follows, without its payload address. -/
structure Group where
  records : List (List Byte)
  cts : Nat
  index : Nat
  offer : Option Offer

/-- Offsets of the records of a group in a ring (R210). -/
def groupWrites (d : Dest) (g : Group) (base : Nat) : List (Nat × List Byte) :=
  g.records.zipIdx.map (fun r => (base + 64 + (d.head + r.2) % 2 ^ d.log2 * 16, r.1))

/-- Write one group into a destination's ring, header last, and make its offer (R210, R211, R212, R332, R341). A
group for a die that the hub does not reach is not written, and HEAD counts none of its records (R209). -/
def writeGroup (s : State) (hub : Nat) (src : Source) (d : Dest) (g : Group) : State × Dest :=
  let n := g.records.length
  if !d.valid || d.faulted || heldDest s d.vi src then (s, d)
  else
    let d1 := { d with head := d.head + n, gap := false }
    let header := ringHeader (d.head + n) g.cts g.index hub d.log2 n d.gapTotal
    let at_ := d.head % 2 ^ d.log2 * 16
    if d.inVi then
      if viState s d.vi = 0 then (absentFault s src d.vi (d.base + 64 + at_), { d with faulted := true })
      else match cutOf s d.vi g.cts with
      | .go =>
        if !(viTakes s d.vi) then (s, d) else
        let first := d.base + 64 + at_
        let job : Job := ⟨src, d.vi, g.cts, groupWrites d g d.base ++ [(d.base, header)],
          if d.items then g.offer.map (fun o => { o with payload := if o.inline then o.payload else first }) else none⟩
        (prefetch (viWrite s job) src d.vi (ringPages d.base (16 * 2 ^ d.log2) at_ (16 * n)), d1)
      | c => (countCut s d.vi c, d)
    else if !(reachesHub s d.die hub) then (s, d)
    else
      let base := sampleStore d.die + d.base
      let s1 := (groupWrites d g base).foldl (fun t w => storeDevice t hub d.die w.1 w.2) s
      let s2 := storeDevice s1 hub d.die base header
      let first := base + 64 + at_
      (match d.items, g.offer with
       | true, some o => { s2 with offers := s2.offers ++ [{ o with payload := if o.inline then o.payload else first }] }
       | _, _ => s2, d1)

/-- Initialise a ring's header with HEAD 0 (R216). -/
def initRing (s : State) (hub : Nat) (src : Source) (d : Dest) (idx group : Nat) : State :=
  if !d.valid then s
  else
    let header := ringHeader 0 0 idx hub d.log2 group 0 ++ List.replicate 32 0
    if d.inVi then
      if viState s d.vi = 0 then s
      else if viTakes s d.vi then prefetch (viWrite s ⟨src, d.vi, 0, [(d.base, header)], none⟩) src d.vi (ringPages d.base (16 * 2 ^ d.log2) 0 (16 * group))
      else s
    else storeDevice s hub d.die (sampleStore d.die + d.base) header

/-- A new home continues a ring from the HEAD and the GAP_TOTAL of its own header (R620). -/
def syncDest (s : State) (d : Dest) : Dest :=
  if d.sync && d.valid then
    { d with head := ringWord s d 0, gapTotal := (ringWord s d 24 + d.gapTotal) % 2 ^ 64, sync := false }
  else d

end Sys2Proof.Machine
end

