-- ==== Sys2Proof/Machine/Filter.lean ====
section
/-!
DEFINITION. Sys2Proof/Machine/Filter.lean: the filter chain and the detectors (R223 to R259).
-/
namespace Sys2Proof.Machine

/-! ### Profiles (R229 to R243) -/

/-- The bypass (R229, R253). -/
def Profile.bypass : Profile := ⟨0, 1, 1, 0, 0, 0, 0, 0, 0, 4, []⟩

/-- A hub's loaded profile. -/
def profileOf (s : State) (hub n : Nat) : Profile := mget Profile.bypass s.profiles (hub * 64 + n)

/-- A stream's filter before anything is assigned. -/
def FilterSt.empty : FilterSt := ⟨0, false, false, []⟩

/-- A stream's filter. -/
def filterOf (s : State) (hub i : Nat) : FilterSt := mget FilterSt.empty s.filters (streamKey hub i)

/-- Set a stream's filter. -/
def setFilter (s : State) (hub i : Nat) (f : FilterSt) : State := { s with filters := mput (streamKey hub i) f s.filters }

/-- The profile in force for a stream (R234). -/
def profileNow (s : State) (hub i : Nat) : Profile :=
  let f := filterOf s hub i
  profileOf s hub (if f.fallback then 0 else f.assigned)

/-- The instance of a stream on the FILTER page (R254). -/
def fsInst (i : Nat) : Nat := 64 + i

/-- Effective SETTLE_N (R239). -/
def effSettle (p : Profile) : Nat := max p.settle (ceilDiv (p.k * (p.r * p.m - 1)) p.r + (p.t - 1))

/-- Effective TRANS_US (R243). -/
def effTrans (p : Profile) (n : Nat) : Nat :=
  max p.trans (ceilDiv ((p.k * (p.r * p.m - 1) + p.r * (p.t - 1) + 1) * 1000000) n)

/-- Twice the group delay in input samples (R237). -/
def groupDelay2 (p : Profile) : Nat := p.k * (p.r * p.m - 1) + p.r * (p.t - 1)

/-- Limit to INT32 (R230). -/
def sat32 (x : Int) : Int := clampInt (-2147483648) 2147483647 x

/-- Arithmetic shift right of an integer. -/
def sar (x : Int) (n : Nat) : Int := x / (2 ^ n : Nat)

/-- A channel's filter after a restart (R238). -/
def Chan.restart (p : Profile) (c : Chan) : Chan :=
  { c with
    integ := List.replicate p.k 0, combs := List.replicate p.k [], outs := [], x1 := none, x2 := none, settle := effSettle p }

/-- A channel's filter before its first sample. -/
def Chan.empty : Chan := ⟨[], [], [], none, none, 0, 0, none, false⟩

/-- The integrators take a sample (R230): each adds the one before it. -/
def integrate : Nat → List Nat → List Nat
  | _, [] => []
  | x, a :: rest => let b := (a + x) % 2 ^ 72; b :: integrate b rest

/-- The combs take a value (R230): each subtracts the value that entered it m outputs ago. -/
def comb (m : Nat) : Nat → List (List Nat) → Nat × List (List Nat)
  | v, [] => (v, [])
  | v, c :: rest =>
    let w := (v + 2 ^ 72 - c.getD (m - 1) 0) % 2 ^ 72
    let r := comb m w rest
    (r.1, (v :: c).take m :: r.2)

/-- An output of the chain: its value, and whether sat32 limited it. -/
structure ChainOut where
  value : Int
  limited : Bool

/-- The FIR (R232): the history after an output, and the value. -/
def fir (p : Profile) (outs : List Int) : Int × Bool :=
  if p.t = 0 then (outs.headD 0, false)
  else
    let acc := ((List.range p.t).map (fun i => p.coef[i]?.getD 0 * outs[i]?.getD 0)).foldl (fun a b => a + b) 0
    let y := sar (acc + 131072) 18
    (sat32 y, decide (sat32 y ≠ y))

/-- The chain takes one input of count k (R230, R232, R233): the channel after it, and the output that it completes. -/
def feed (p : Profile) (n count : Nat) (x : Int) (c : Chan) : Chan × Option ChainOut :=
  let k := count % n
  if p.k = 0 then
    let outs := (x :: c.outs).take (max 1 p.t)
    let y := fir p outs
    ({ c with outs := outs }, some ⟨y.1, y.2⟩)
  else
    let integ := integrate (uns 72 x) c.integ
    if k % p.r = p.r - 1 then
      let r := comb p.m (integ.getLastD 0) c.combs
      let raw := sar (sgn 72 r.1 + (if p.shift = 0 then 0 else (2 ^ (p.shift - 1) : Nat))) p.shift
      let o := sat32 raw
      let outs := (o :: c.outs).take (max 1 p.t)
      let y := fir p outs
      ({ c with integ := integ, combs := r.2, outs := outs }, some ⟨y.1, y.2 || decide (o ≠ raw)⟩)
    else ({ c with integ := integ }, none)

/-- Bridge a gap (R241): each missing count enters as a copy of the last value; a completed output is not written, but
lowers the settle count. With the channel, the outputs that sat32 limited (R231). -/
def bridge (p : Profile) (n : Nat) (x : Int) : List Nat → Chan × Nat → Chan × Nat
  | [], c => c
  | k :: ks, c =>
    let r := feed p n k x c.1
    bridge p n x ks (match r.2 with
      | some o => ({ r.1 with settle := r.1.settle - 1 }, c.2 + b2n o.limited)
      | none => (r.1, c.2))

/-- The flags whose change marks a channel (R238). -/
def markFlags (f : Nat) : Nat := f &&& 0x2161

/-- A step at a sample (R242). -/
def isStep (p : Profile) (c : Chan) (x : Int) : Bool :=
  match c.x1, c.x2 with
  | some a, some b => decide (p.stepTh ≠ 0) && decide (p.stepTh ≤ (x - sar (p.pred * a) 30 + b).natAbs)
  | _, _ => false

/-! ### Detectors (R244 to R251) -/

/-- An enabled detector of a hub. -/
def detKey (hub i : Nat) : Nat := hub * 1024 + i

/-- Fields of DET_SRC and DET_CFG (R257, R258). -/
def Det.stream (d : Det) : Nat := d.src % 1024
def Det.chan (d : Det) : Nat := fld d.src 14 10
def Det.filtered (d : Det) : Bool := bit d.src 15
def Det.cycleLen (d : Det) : Nat := fld d.cfg 25 16
def Det.peakW (d : Det) : Nat := fld d.cfg 13 8 + 1
def Det.coarse (d : Det) : Bool := bit d.cfg 0
def Det.envelope (d : Det) : Bool := bit d.cfg 1

/-- The spans of the fast and the slow measure (R245, R247). -/
def Det.fastSpan (d : Det) : Nat := if d.coarse then d.cycleLen / 4 else d.peakW
def Det.slowSpan (d : Det) : Nat := d.cycleLen

/-- Root of the mean square of magnitudes, truncated (R245). -/
def rms (l : List Nat) : Nat := Nat.sqrt ((l.map (fun m => m * m)).sum / max 1 l.length)

/-- The fast measure (R245). -/
def Det.fastMeasure (d : Det) : Nat :=
  let l := (d.window.take d.fastSpan).map (fun t => t.mag)
  if d.coarse then rms l else l.foldl max 0

/-- The slow measure (R245). -/
def Det.slowMeasure (d : Det) : Nat :=
  if d.envelope then d.e / 65536 else rms ((d.window.take d.slowSpan).map (fun t => t.mag))

/-- The envelope after a magnitude (R245): 16 fraction bits. -/
def envStep (env e mag : Nat) : Nat :=
  let m := mag * 65536
  if e < m then e + (m - e) / 2 ^ (env % 16) else e - (e - m) / 2 ^ (fld env 11 8)

/-- An output by its thresholds (R246). -/
def threshold (pickup drop measure : Nat) (was : Bool) : Bool :=
  if pickup ≤ measure then true else if measure < drop then false else was

/-- The magnitude of a value (R245). -/
def magnitude (x : Int) : Nat := min x.natAbs 2147483647

/-- Some sample of a window carries a flag of a mask. -/
def windowHas (l : List TapSample) (mask : Nat) : Bool := l.any (fun t => t.flags &&& mask != 0)

/-- What a tap sample does to a detector (R246, R247): the detector after it, and whether each output was held. A window
that a gap restarted holds its output until it refills; one that DET_ENABLE restarted does not (DEDUCED, assumption 21). -/
def Det.take (d : Det) (value : Int) (flags : Nat) : Det × Bool × Bool :=
  let bad := !(bit flags 0) || (bit flags 5 && !(bit d.cfg 3))
  if bad then
    ({ d with window := [], taken := 0, gapped := false, e := 0, fast := false, slow := false, blocked := true, taps := d.taps + 1 }, false, false)
  else
    let gap := bit flags 4
    let old := if gap then [] else d.window
    let mag := magnitude value
    let d1 := { d with
      window := (TapSample.mk mag flags :: old).take (max d.fastSpan d.slowSpan)
      taken := (if gap then 0 else d.taken) + 1
      gapped := d.gapped || gap
      e := envStep d.env (if gap then 0 else d.e) mag
      taps := d.taps + 1 }
    let fastFull := decide (d1.fastSpan ≤ d1.taken)
    let slowFull := decide (d1.slowSpan ≤ d1.taken)
    let blocked := d.blocked && !(fastFull && slowFull)
    let fastHeld := (d1.gapped && !fastFull) || (bit flags 1 && bit d.cfg 2)
    let slowHeld := (d1.gapped && !slowFull) || windowHas (d1.window.take d1.slowSpan) 6
    ({ d1 with
       gapped := d1.gapped && !(fastFull && slowFull)
       blocked := blocked
       fast := if blocked then false else if fastHeld then d.fast else threshold d.fastPickup d.fastDrop d1.fastMeasure d.fast
       slow := if blocked then false else if slowHeld then d.slow else threshold d.slowPickup d.slowDrop d1.slowMeasure d.slow },
     !blocked && fastHeld, !blocked && slowHeld)

/-- A detector record (R248). -/
def detRecord (i : Nat) (slow : Bool) (d : Det) (cts flags : Nat) : List Byte :=
  let win := d.window.take (if slow then d.slowSpan else d.fastSpan)
  let q0 := if windowHas win 2 then setBit flags 1 true else flags
  let q1 := if windowHas win 4 then setBit q0 2 true else q0
  let q2 := if d.coarse && !slow then setBit q1 3 true else q1
  let q := if d.blocked then setBit q2 0 false else q2
  bytesLE 8 cts ++ bytesLE 4 (if slow then d.slowMeasure else d.fastMeasure) ++ bytesLE 2 q ++
    bytesLE 2 (32768 + b2n slow * 16384 + i % 1024)

/-- DET_STATE of a detector; ACTIVE is shown by the page (R257). -/
def putDetState (s : State) (hub i : Nat) (d : Det) (fh sh : Bool) : State :=
  wr s hub R.DET_STATE i (b2n d.fast + 2 * b2n d.slow + 4 * b2n d.blocked + 8 * b2n fh + 16 * b2n sh + 64 + 128 * b2n d.dest.faulted)

/-- An EVENT bit of DETECTOR with its detector (R256). -/
def detEvent (s : State) (hub i n : Nat) : State :=
  let s1 := hwEvent s hub .detector n
  if n ≤ 3 then wr s1 hub R.DET_EVENT_IDX 0 i else s1

/-- The offer of an output change (R249). -/
def detOffer (s : State) (hub i : Nat) (d : Det) (slow : Bool) (cts : Nat) : State :=
  if d.dest.items && !(heldDest s d.dest.vi ⟨1, hub, i, 0⟩) then
    let m := if slow then d.slowMeasure else d.fastMeasure
    let payload := m % 2 ^ 32 + i % 65536 * 2 ^ 32 + (b2n d.fast + 2 * b2n d.slow + 4 * b2n slow) * 2 ^ 48
    { s with offers := s.offers ++ [⟨⟨1, hub, i, 0⟩, 2, d.dest.vi, d.dest.item % 4096, true, 8,
      ctsOfNs (ctsNs (ctr s hub).sec cts + fld d.dest.item 31 16 * 1000), 0, payload, cts⟩] }
  else s

/-- One output of a detector changed (R246, R249); on a warm sample nothing is offered (R183). -/
def outputChanged (s : State) (hub i : Nat) (d : Det) (slow warm : Bool) (cts : Nat) : State :=
  let now := if slow then d.slow else d.fast
  let s1 := wr s hub (if slow then R.DET_SLOW_CHG else R.DET_FAST_CHG) i cts
  let p := rd s1 hub R.DET_PICKUPS i
  let s2 := if now then wr s1 hub R.DET_PICKUPS i (if slow then setFld p 31 16 (fld p 31 16 + 1) else setFld p 15 0 (p + 1)) else s1
  let s3 := if now && !slow then cyc s2 hub .detector 0x10 i 1 none else s2
  let s4 := detEvent s3 hub i (b2n slow)
  if warm then s4 else detOffer s4 hub i d slow cts

/-- GAP_TOTAL of a stream since ST_ENABLE (R209, R248). A new home that has not yet continued the stream's rings adds its own
count to that of their headers (R620). -/
def streamGap (s : State) (hub i : Nat) : Nat :=
  match s.streams.lookup (streamKey hub i) with
  | none => 0
  | some e =>
    match e.dests.find? (fun d => d.sync && d.valid) with
    | some d => (ringWord s d 24 + e.gapTotal) % 2 ^ 64
    | none => e.gapTotal

/-- A tap sample reaches an enabled detector of a hub. `warm` samples of a planned rehome are neither written nor
offered (R251). -/
def detSample (s : State) (hub i : Nat) (warm : Bool) (cts : Nat) (value : Int) (flags : Nat) : State :=
  match s.dets.lookup (detKey hub i) with
  | none => s
  | some d =>
    let r := d.take value flags
    let d1 := { r.1 with
      fastAt := if r.1.fast != d.fast then cts else d.fastAt
      slowAt := if r.1.slow != d.slow then cts else d.slowAt
      blockedAt := if r.1.blocked != d.blocked then cts else d.blockedAt }
    let s1 := putDetState { s with dets := mput (detKey hub i) d1 s.dets } hub i d1 r.2.1 r.2.2
    let s2 := wrAll s1 hub i [(R.DET_FAST_VAL, d1.fastMeasure), (R.DET_SLOW_VAL, d1.slowMeasure), (R.DET_LAST_CTS, cts)]
    let s3 := if d1.blocked && !d.blocked then detEvent s2 hub i 2 else s2
    let s4 := if d1.fast != d.fast then outputChanged s3 hub i d1 false warm cts else s3
    let s5 := if d1.slow != d.slow then outputChanged s4 hub i d1 true warm cts else s4
    if warm then s5
    else
      let every := fld d1.dest.cfg 31 24 + 1
      if d1.taps % every = 0 ∨ d1.fast ≠ d.fast ∨ d1.slow ≠ d.slow then
        let dd := { syncDest s5 d1.dest with gapTotal := streamGap s5 hub d.stream }
        let g := writeGroup s5 hub ⟨1, hub, i, 0⟩ { dd with cfg := setBit dd.cfg 2 false }
          ⟨[detRecord i false d1 cts flags, detRecord i true d1 cts flags].map (fun b => if dd.gap then b.set 12 ((b[12]?.getD 0) ||| 0x10) else b),
            cts, 32768 + i, none⟩
        { g.1 with dets := mput (detKey hub i) { d1 with dest := { g.2 with cfg := dd.cfg } } g.1.dets }
      else s5

/-- The enabled detectors of a stream's channel and tap. -/
def detsOf (s : State) (hub stream chan : Nat) (filtered : Bool) : List Nat :=
  (s.dets.filter (fun e => e.1 / 1024 == hub && e.2.stream == stream && e.2.chan == chan && e.2.filtered == filtered)).map (fun e => e.1 % 1024)

/-- The hubs that a hub's presentations and tap samples reach: itself, and the other over the Axle (R250, R399). -/
def hubsFrom (s : State) (hub : Nat) : List Nat := if axleAlive s then [hub, 1 - hub] else [hub]

/-- A hub is the present home of a stream (R251). -/
def homeHere (s : State) (hub stream : Nat) : Bool :=
  ((s.streams.lookup (streamKey hub stream)).map (fun e => e.home)) == some hub

/-- A tap sample goes to the detectors of its channel, which run at the present home of its stream or on warm samples, and to
the capture engines (R244, R251, R399). -/
def tapSample (s : State) (hub stream chan : Nat) (filtered warm : Bool) (cts : Nat) (value : Int) (flags : Nat) : State :=
  let s1 := if warm || homeHere s hub stream then
      (detsOf s hub stream chan filtered).foldl (fun t i => detSample t hub i warm cts value flags) s
    else s
  if warm then s1
  else { s1 with taps := s1.taps ++ (hubsFrom s1 hub).map (fun h => ⟨h, stream, chan, b2n filtered, cts, value, flags⟩) }

/-- The presentations at the end of a channel's visit, at the present home of the stream only (R250, R251). -/
def presentAll (s : State) (hub stream chan : Nat) : State :=
  let mine := s.dets.filter (fun e => homeHere s hub stream && e.1 / 1024 == hub && e.2.stream == stream && e.2.chan == chan)
  mine.foldl (fun t e =>
    let i := e.1 % 1024
    { t with presents := t.presents ++ (hubsFrom t hub).map (fun h =>
      let last := rd t hub R.DET_LAST_CTS i
      let since := fun (c : Nat) => if c = 0 then last else c
      ⟨h, i, e.2.fast, e.2.slow, e.2.blocked, e.2.fastMeasure, e.2.slowMeasure, last, since e.2.fastAt, since e.2.slowAt,
        since e.2.blockedAt⟩) }) s

/-! ### The visit of a batch (R225, R238 to R243) -/

/-- An EVENT bit of FILTER with its stream (R252). -/
def filEvent (s : State) (hub i n : Nat) : State :=
  let s1 := hwEvent s hub .filter n
  if n ≤ 3 then wr s1 hub R.FIL_EVENT_STREAM 0 i else s1

/-- One output of a stream's channel at an instant. -/
structure OutSample where
  at_ : Nat
  chan : Nat
  value : Int
  flags : Nat
  deriving DecidableEq, Repr

/-- What a visit carries along: the state, the channel and its outputs that are to be written. -/
structure Visit where
  state : State
  chan : Chan
  outs : List OutSample

/-- One accepted sample of one channel (R225, R238 to R243). -/
def visitSample (hub i j n : Nat) (p : Profile) (v : Visit) (acc : Accepted) : Visit :=
  let x := acc.samples[j]?.getD ⟨0, 0⟩
  let restart := acc.restart || decide (p.gapHold < acc.missed)
  let c0 := v.chan
  let marked := match c0.last with
    | some l => decide (markFlags l.flags ≠ markFlags x.flags)
    | none => false
  let b := if restart then (c0.restart p, 0)
    else if acc.missed ≠ 0 then
      let c := { c0 with settle := effSettle p, x1 := none, x2 := none }
      bridge p n ((c0.last.map (fun l => l.value)).getD 0) ((List.range acc.missed).map (fun q => acc.count - acc.missed + q)) (c, 0)
    else (c0, 0)
  let c1 := if marked && !restart then { b.1 with settle := effSettle p } else b.1
  let s0 := if b.2 = 0 then v.state else filEvent (incr v.state hub R.FS_SATURATE (fsInst i) b.2) hub i 2
  let s1 := if restart && j == 0 then filEvent (incr s0 hub R.FS_RESTARTS (fsInst i) 1) hub i 1 else s0
  let step := isStep p c1 x.value
  let s2 := if step then cyc (filEvent (incr s1 hub R.FS_STEPS (fsInst i) 1) hub i 0) hub .filter 0x11 i 1 none else s1
  let trans := if step then acc.at_ + effTrans p n * 1000 else c1.trans
  let tflag := if acc.at_ < trans then 4 else 0
  let s3 := tapSample s2 hub i j false acc.warm (ctsOfNs acc.at_) x.value (x.flags ||| tflag)
  let c2 := { c1 with x2 := c1.x1, x1 := some x.value, trans := trans, last := some x, gap := c1.gap || decide (acc.missed ≠ 0) || bit x.flags 4 }
  let r := feed p n acc.count x.value c2
  match r.2 with
  | none => ⟨s3, r.1, v.outs⟩
  | some o =>
    let f0 := setBit x.flags 4 c2.gap
    let f1 := if 0 < c2.settle then setBit f0 1 true else f0
    let f := (if o.limited then setBit f1 7 true else f1) ||| tflag
    let s4 := if o.limited then filEvent (incr s3 hub R.FS_SATURATE (fsInst i) 1) hub i 2 else s3
    let s5 := tapSample s4 hub i j true acc.warm (ctsOfNs acc.at_) o.value f
    ⟨s5, { r.1 with settle := c2.settle - 1, gap := c2.gap && acc.warm },
      if acc.warm then v.outs else v.outs ++ [⟨acc.at_, j, o.value, f⟩]⟩

/-- The channel slot of a delivered channel (R199). -/
def chanSlot (e : Stream) (j : Nat) : Nat := e.slots % 4096 + j * ceilDiv e.rate 14400

/-- The delivered channels of a stream. -/
def delivered (e : Stream) : List Nat := (List.range 32).filter (fun b => bit e.chmask b)

/-- One channel's visit (R225). -/
def visitChan (hub i : Nat) (e : Stream) (p : Profile) (asdus : List Accepted)
    (r : State × List OutSample) (j : Nat) : State × List OutSample :=
  let f := filterOf r.1 hub i
  let v := asdus.foldl (visitSample hub i j e.rate p) ⟨r.1, f.chans[j]?.getD Chan.empty, r.2⟩
  let f1 := filterOf v.state hub i
  let chans := if f1.chans.length ≤ j then f1.chans ++ List.replicate (j + 1 - f1.chans.length) Chan.empty else f1.chans
  let s1 := setFilter v.state hub i { f1 with chans := chans.set j v.chan }
  let s2 := if asdus.all (fun a => a.warm) then s1 else presentAll s1 hub i j
  (cyc s2 hub .filter 0x10 i 1 none, v.outs)

/-- A sample record (R108). -/
def sampleRecord (e : Stream) (gap : Bool) (o : OutSample) : List Byte :=
  bytesLE 8 (ctsOfNs o.at_) ++ bytesLE 4 (uns 32 o.value) ++ bytesLE 2 (if gap then setBit o.flags 4 true else o.flags) ++ bytesLE 2 (chanSlot e o.chan)

/-- One output instant written to destination n of a stream (R210 to R212). -/
def writeDest (hub i : Nat) (os : List OutSample) (at_ : Nat) (s : State) (n : Nat) : State :=
  match s.streams.lookup (streamKey hub i) with
  | none => s
  | some e =>
    match e.dests[n]? with
    | none => s
    | some d0 =>
      let d := d0
      let src : Source := ⟨0, hub, i, n⟩
      let cts := ctsOfNs at_
      let offer : Offer := ⟨src, 1, d.vi, d.item % 4096, false, os.length * 16, ctsOfNs (at_ + fld d.item 31 16 * 1000), 0, 0, cts⟩
      let g := writeGroup s hub src d ⟨os.map (sampleRecord e d.gap), cts, i, some offer⟩
      let e1 := (g.1.streams.lookup (streamKey hub i)).getD e
      { g.1 with streams := mput (streamKey hub i) { e1 with dests := e1.dests.set n g.2 } g.1.streams }

/-- A new home continues the rings of a stream from HEAD and GAP_TOTAL of their headers (R620). -/
def syncStream (s : State) (hub i : Nat) : State :=
  match s.streams.lookup (streamKey hub i) with
  | none => s
  | some e =>
    match e.dests.find? (fun d => d.sync && d.valid) with
    | none => s
    | some d =>
      let e1 := { e with dests := e.dests.map (syncDest s), gapTotal := ringWord s d 24 + e.gapTotal }
      { s with streams := mput (streamKey hub i) e1 s.streams }

/-- The records of every output instant of a batch (R210). -/
def writeOutputs (s : State) (hub i : Nat) (outs : List OutSample) : State :=
  let instants := (outs.map (fun o => o.at_)).eraseDups
  instants.foldl (fun t a => (List.range 4).foldl (writeDest hub i (outs.filter (fun o => o.at_ == a)) a) t)
    (if instants.isEmpty then s else syncStream s hub i)

/-- The phase, scan and batch times of R252, which R224 and R227 only bound. -/
def filterTimes (s : State) (hub : Nat) : State :=
  let put := fun (t : State) (r : Reg) (bound : Nat) => wr (drew t) hub r 0 (max (rd t hub r 0) (freeNat t % (bound + 1)))
  put (put (put s R.FIL_PHASE_MAX 360) R.FIL_SCAN_MAX 2880) R.FIL_BATCH_MAX 3960

/-- A stream takes a new profile from the first batch after the grant: all its channels restart (R235, R238). -/
def reassignChans (s : State) (hub i n : Nat) (p : Profile) : State :=
  let f := filterOf s hub i
  let s1 := setFilter s hub i { f with
    restart := false, chans := (List.range n).map (fun j => (f.chans[j]?.getD Chan.empty).restart p) }
  filEvent (incr s1 hub R.FS_RESTARTS (fsInst i) 1) hub i 1

/-- A batch is visited by the lanes of its channels (R225). -/
def visitBatch (s : State) (b : Batch) : State :=
  match s.streams.lookup (streamKey b.hub b.stream) with
  | none => s
  | some e =>
    let p := profileNow s b.hub b.stream
    let n := (delivered e).length
    let s1 := if (filterOf s b.hub b.stream).restart then reassignChans s b.hub b.stream n p else s
    let r := (List.range n).foldl (visitChan b.hub b.stream e p b.asdus) (s1, [])
    writeOutputs (filterTimes r.1 b.hub) b.hub b.stream r.2

/-- FILTER_BATCH_VISIT, R225: the oldest batch of a stream at a hub. -/
def execFilterBatchVisit (hub stream : Nat) (s : State) : Out :=
  match s.batches.find? (fun b => b.hub == hub && b.stream == stream) with
  | none => .next s
  | some b =>
    let s1 := { s with batches := s.batches.erase b }
    .next (if domRun s hub 8 then visitBatch s1 b else s1)

/-! ### FILTER commands (R235, R255) -/

/-- A stream's N is no multiple of a profile's R (R234). -/
def fallsBack (s : State) (hub : Nat) (e : Stream) (n : Nat) : Bool := decide (e.rate % max 1 (profileOf s hub n).r ≠ 0)

/-- Check a stream's profile against its rate (R234): each check that fails sets FALLBACK and EVENT [3]; entering or leaving
fallback is a reassignment. -/
def checkFallback (s : State) (hub i : Nat) : State :=
  match s.streams.lookup (streamKey hub i) with
  | none => s
  | some e =>
    let f := filterOf s hub i
    let fb := fallsBack s hub e f.assigned
    let s1 := if fb = f.fallback then s else setFilter s hub i { f with fallback := fb, restart := true }
    if fb then filEvent s1 hub i 3 else s1

/-- The staged profile of an instance (R253). -/
def stagedProfile (s : State) (hub n : Nat) : Profile :=
  let c := rd s hub R.PF_CIC n
  ⟨c % 8, fld c 10 4 + 1, bit c 3 |> b2n |> (· + 1), fld c 21 16, rd s hub R.PF_FIR n % 32, rd s hub R.PF_SETTLE n, rd s hub R.PF_TRANS n,
   rd s hub R.PF_STEP_TH n, sgn 32 (rd s hub R.PF_PRED n), rd s hub R.PF_GAP n,
   (List.range 31).map (fun i => sgn 20 (rd s hub (R.PF_COEF.nth i) n))⟩

/-- What makes a load a reassignment (R235). -/
def sameChain (a b : Profile) : Bool :=
  a.k == b.k && a.r == b.r && a.m == b.m && a.shift == b.shift && a.t == b.t && a.coef.take 31 == b.coef.take 31

/-- The coefficients of a profile, padded as the registers hold them. -/
def padCoef (p : Profile) : Profile := { p with coef := (p.coef ++ List.replicate 31 0).take 31 }

/-- The checks of PROFILE_LOAD. -/
def checksProfileLoad (t : State) (x : Ctx) : Checks :=
  let p := stagedProfile t x.loc x.inst
  swChecks (decide (x.inst ≤ 63) && [0, 3, 4, 5].contains p.k && (p.k != 0 || p.r == 1) && decide (p.shift ≤ 40 ∧ p.t ≤ 31)) t x

/-- The effect of PROFILE_LOAD. -/
def effectProfileLoad (x : Ctx) (t : State) : Effect :=
  let p := stagedProfile t x.loc x.inst
  let same := sameChain (padCoef (profileOf t x.loc x.inst)) p
  let t1 := { t with profiles := mput (x.loc * 64 + x.inst) p t.profiles }
  let on := (List.range 1024).filter (fun i => (t1.streams.lookup (streamKey x.loc i)).isSome)
  let users := on.filter (fun i => let f := filterOf t1 x.loc i; (if f.fallback then 0 else f.assigned) == x.inst)
  let t2 := if same then t1 else users.foldl (fun u i => setFilter u x.loc i { filterOf u x.loc i with restart := true }) t1
  let t3 := (on.filter (fun i => (filterOf t2 x.loc i).assigned == x.inst)).foldl (fun u i => checkFallback u x.loc i) t2
  .done (hwEvent t3 x.loc .filter 4)

/-- PROFILE_LOAD, R235, R255. -/
def execProfileLoad (c : Cmd) (s : State) : Out :=
  command s c .filter 0x10 checksProfileLoad effectProfileLoad

/-- The checks of FS_ASSIGN. -/
def checksFsAssign (t : State) (x : Ctx) : Checks :=
  swChecks (decide (64 ≤ x.inst)) t x

/-- The effect of FS_ASSIGN. -/
def effectFsAssign (x : Ctx) (t : State) : Effect :=
  let i := x.inst - 64
  let f := filterOf t x.loc i
  let n := rd t x.loc R.FS_PROFILE x.inst % 64
  let sameCheck := match t.streams.lookup (streamKey x.loc i) with
    | some e => fallsBack t x.loc e n == f.fallback
    | none => true
  .done (if n = f.assigned && sameCheck then t
    else checkFallback (setFilter t x.loc i { f with assigned := n, restart := true }) x.loc i)

/-- FS_ASSIGN, R235, R255. -/
def execFsAssign (c : Cmd) (s : State) : Out :=
  command s c .filter 0x11 checksFsAssign effectFsAssign

/-- The checks of FILTER_CLEAR_COUNTERS. -/
def checksFilterClearCounters (t : State) (x : Ctx) : Checks :=
  swChecks (decide (x.argument < 1024 ∨ x.argument = 0xFFFF)) t x

/-- The effect of FILTER_CLEAR_COUNTERS. -/
def effectFilterClearCounters (x : Ctx) (t : State) : Effect :=
  let rs := [R.FS_STEPS, R.FS_RESTARTS, R.FS_SATURATE]
  .done (if x.argument = 0xFFFF then clearInsts t x.loc 64 1024 rs else clearRegs t x.loc (fsInst x.argument) rs)

/-- FILTER_CLEAR_COUNTERS, R255. -/
def execFilterClearCounters (c : Cmd) (s : State) : Out :=
  command s c .filter 0x12 checksFilterClearCounters effectFilterClearCounters

/-! ### DETECTOR commands (R259) -/

/-- The staged detector of an instance (R257). -/
def stagedDet (s : State) (hub i : Nat) : Det :=
  ⟨rd s hub R.DET_SRC i, rd s hub R.DET_CFG i, rd s hub R.DET_ENV i, rd s hub R.FAST_PICKUP i, rd s hub R.FAST_DROP i,
   rd s hub R.SLOW_PICKUP i, rd s hub R.SLOW_DROP i,
   Dest.load (rd s hub R.DET_DEST_CFG i) (rd s hub R.DET_DEST_ITEM i) (rd s hub R.DET_DEST_BASE i), [], 0, false, 0, 0, false, false, false, 0, 0, 0⟩

/-- The thresholds of a detector may stand (R246). -/
def detThresholds (d : Det) : Bool := decide (d.fastDrop ≤ d.fastPickup ∧ d.slowDrop ≤ d.slowPickup)

/-- The checks of DET_ENABLE. -/
def checksDetEnable (t : State) (x : Ctx) : Checks :=
  let d := stagedDet t x.loc x.inst
  { swChecks (decide (8 ≤ d.cycleLen ∧ d.cycleLen ≤ 512 ∧ d.cycleLen % 4 = 0) && detThresholds d && (!d.dest.valid || destOk t d.dest)) t x with
    legal := (t.dets.lookup (detKey x.loc x.inst)).isNone
    room := decide ((t.dets.filter (fun e => e.1 / 1024 == x.loc && e.2.stream == d.stream && e.2.chan == d.chan)).length < 4) }

/-- The effect of DET_ENABLE. -/
def effectDetEnable (x : Ctx) (t : State) : Effect :=
  let d := stagedDet t x.loc x.inst
  let t0 := unhold t ⟨1, x.loc, x.inst, 0⟩
  let t1 := putDetState { t0 with dets := mput (detKey x.loc x.inst) d t.dets } x.loc x.inst d false false
  let t2 := if homeHere t x.loc d.stream then initRing t1 x.loc ⟨1, x.loc, x.inst, 0⟩ d.dest (32768 + x.inst) 2 else t1
  .done (hwEvent t2 x.loc .detector 4)

/-- DET_ENABLE, R259. -/
def execDetEnable (c : Cmd) (s : State) : Out :=
  command s c .detector 0x10 checksDetEnable effectDetEnable

/-- A detector is enabled. -/
def detOn (s : State) (x : Ctx) : Bool := (s.dets.lookup (detKey x.loc x.inst)).isSome

/-- The checks of DET_DISABLE. -/
def checksDetDisable (t : State) (x : Ctx) : Checks :=
  { swChecks true t x with legal := detOn t x }

/-- The effect of DET_DISABLE. -/
def effectDetDisable (x : Ctx) (t : State) : Effect :=
  .done (hwEvent (wr { t with dets := mdel (detKey x.loc x.inst) t.dets } x.loc R.DET_STATE x.inst 0) x.loc .detector 4)

/-- DET_DISABLE, R259. -/
def execDetDisable (c : Cmd) (s : State) : Out :=
  command s c .detector 0x11 checksDetDisable effectDetDisable

/-- The checks of DET_TUNE. -/
def checksDetTune (t : State) (x : Ctx) : Checks :=
  { swChecks (detThresholds (stagedDet t x.loc x.inst)) t x with legal := detOn t x }

/-- The effect of DET_TUNE. -/
def effectDetTune (x : Ctx) (t : State) : Effect :=
  let n := stagedDet t x.loc x.inst
  match t.dets.lookup (detKey x.loc x.inst) with
  | none => .done t
  | some d =>
    let d1 := { d with fastPickup := n.fastPickup, fastDrop := n.fastDrop, slowPickup := n.slowPickup, slowDrop := n.slowDrop }
    .done { t with dets := mput (detKey x.loc x.inst) d1 t.dets }

/-- DET_TUNE, R259: load the four thresholds. -/
def execDetTune (c : Cmd) (s : State) : Out :=
  command s c .detector 0x12 checksDetTune effectDetTune

/-- The checks of DET_DEST_RESTART. -/
def checksDetDestRestart (t : State) (x : Ctx) : Checks :=
  { swChecks true t x with legal := detOn t x }

/-- The effect of DET_DEST_RESTART. -/
def effectDetDestRestart (x : Ctx) (t : State) : Effect :=
  match t.dets.lookup (detKey x.loc x.inst) with
    | none => .done t
    | some d =>
      if d.dest.faulted then
        let d1 := { d with dest := { d.dest with faulted := false, gap := true } }
        .done (wr { t with dets := mput (detKey x.loc x.inst) d1 t.dets }
          x.loc R.DET_STATE x.inst (setBit (rd t x.loc R.DET_STATE x.inst) 7 false))
      else .done t

/-- DET_DEST_RESTART, R259, R211: the destination resumes; its first record carries GAP_BEFORE. -/
def execDetDestRestart (c : Cmd) (s : State) : Out :=
  command s c .detector 0x13 checksDetDestRestart effectDetDestRestart

/-- The checks of DET_CLEAR_COUNTERS. -/
def checksDetClearCounters (t : State) (x : Ctx) : Checks :=
  swChecks (decide (x.argument < 1024 ∨ x.argument = 0xFFFF)) t x

/-- The effect of DET_CLEAR_COUNTERS. -/
def effectDetClearCounters (x : Ctx) (t : State) : Effect :=
  .done (if x.argument = 0xFFFF then clearInsts t x.loc 0 1024 [R.DET_PICKUPS] else clearRegs t x.loc x.argument [R.DET_PICKUPS])

/-- DET_CLEAR_COUNTERS, R259. -/
def execDetClearCounters (c : Cmd) (s : State) : Out :=
  command s c .detector 0x14 checksDetClearCounters effectDetClearCounters

end Sys2Proof.Machine
end

