-- ==== Sys2Proof/Machine/Log.lean ====
section
/-!
DEFINITION. Sys2Proof/Machine/Log.lean: entries of the management log on their way to flash (R562).
-/
namespace Sys2Proof.Machine

/-- The source of a die's Mechanic (R106). -/
def mechSrc (die : Nat) : Nat := if isHub die then 315 else 276

/-- A hub's waiting log entries. -/
def logOfHub (s : State) (hub : Nat) : List LogEntry := mget [] s.mgmtLogs hub

/-- A hub whose Mechanic keeps a log takes an entry. -/
def takeLog (e : LogEntry) (s : State) (hub : Nat) : State :=
  if domRun s hub 4 then { s with mgmtLogs := mput hub (logOfHub s hub ++ [e]) s.mgmtLogs } else s

/-- An event of a die goes into the log of its hub, or for a compute die of both (R562). The manual gives neither the
codes of its entries nor their payloads: they are free. -/
def pushLog (s : State) (die severity kind : Nat) (values : List Nat) : State :=
  if domRun s die 4 then
    let st := stampOf s die (mechSrc die) 0
    let e : LogEntry := ⟨st.cts, st.order, severity, die, Config.logCode kind % 65536,
      (Config.logPayload kind values ++ List.replicate 40 0).take 40⟩
    (sbHubs s die).foldl (takeLog e) (tickSrc s die (mechSrc die))
  else s

end Sys2Proof.Machine
end

