-- ==== Sys2Proof/Machine/Saddlebag.lean ====
section
/-!
DEFINITION. Sys2Proof/Machine/Saddlebag.lean: the Saddlebag's queues, ring, triggers and freeze (R33, R34, R570 to
R585).
-/
namespace Sys2Proof.Machine

/-! ### One hub's Saddlebag -/

/-- A snapshot set before SS_ENABLE. -/
def SnapSet.empty : SnapSet := ⟨false, 0, false, 1000, 0, [], none, 0⟩

/-- A Saddlebag right after POR (R582). -/
def Sbag.empty : Sbag :=
  ⟨[[], [], []], 0, [0, 0, 0], [0, 0, 0], 0, 0, none, List.replicate 8 SnapSet.empty, []⟩

/-- A hub's Saddlebag. -/
def sbagOf (s : State) (h : Nat) : Sbag := mget Sbag.empty s.sbags h

/-- Set a hub's Saddlebag. -/
def setSbag (s : State) (h : Nat) (g : Sbag) : State := { s with sbags := mput h g s.sbags }

/-- Ring states of R580: 0 OPEN, 1 ARMED, 2 TRIGGERED, 3 FROZEN. -/
def sbState (s : State) (h : Nat) : Nat := rd s h R.SB_STATE 0 % 4

/-- Set the ring state and POST_LEFT. -/
def putSbState (s : State) (h st left : Nat) : State := wr s h R.SB_STATE 0 (st + left % 4096 * 65536)

/-- A snapshot set of a Saddlebag. -/
def snapOf (g : Sbag) (i : Nat) : SnapSet := g.sets[i]?.getD SnapSet.empty

/-- SS_STATE of a set. No snapshot is in the middle of being read between two steps. -/
def snapState (k : SnapSet) : Nat := b2n k.enabled + 4 * b2n k.pending.isSome

/-- Set a snapshot set with its SS_STATE. -/
def putSnap (s : State) (h i : Nat) (k : SnapSet) : State :=
  let g := sbagOf s h
  wr (setSbag s h { g with sets := g.sets.set i k }) h R.SS_STATE i (snapState k)

/-! ### Triggers (R579) -/

/-- A trigger of a snapshot set: it pends, or finds one pending and is counted (R578). -/
def snapFire (h : Nat) (cause : Nat) (s : State) (i : Nat) : State :=
  let k := snapOf (sbagOf s h) i
  if k.enabled then
    if k.pending.isSome then causedBy cause (fun t => hwEvent (incr t h R.SS_SKIPPED i 1) h .saddlebag 3) s
    else putSnap s h i { k with pending := some cause }
  else s

/-- The freeze trigger fires while the ring is ARMED (R580). -/
def freezeFire (s : State) (h code cause : Nat) : State :=
  let g := sbagOf s h
  if sbState s h = 1 && g.frzPending.isNone then setSbag s h { g with frzPending := some cause, frzCode := code, frzCause := cause }
  else s

/-- A trigger of R579 at a hub: the sets and the freeze trigger that name its code. -/
def fireTrigger (s : State) (h code cause : Nat) : State :=
  if domRun s h 0 then
    let s1 := ((List.range 8).filter (fun i => (snapOf (sbagOf s h) i).trigger == code)).foldl (snapFire h cause) s
    if rd s1 h R.SB_FRZ_CFG 0 % 16 = code then freezeFire s1 h code cause else s1
  else s

/-- The code of a record meets a match register: [15:0] match, [31:16] mask (R579). -/
def codeMatch (reg code : Nat) : Bool := (code &&& fld reg 31 16) == (reg % 65536 &&& fld reg 31 16)

/-- A record that never fires a CODE trigger (R579). -/
def ownCode (code : Nat) : Bool := code / 256 == 0 || code / 256 == 0xF1

/-- The CODE triggers that a written record fires (R579). -/
def fireCode (s : State) (h : Nat) (r : Rec) : State :=
  if ownCode r.code then s
  else
    let s1 := ((List.range 8).filter (fun i => (snapOf (sbagOf s h) i).trigger == 3 &&
      codeMatch (snapOf (sbagOf s h) i).mask r.code)).foldl (snapFire h r.cts) s
    if rd s1 h R.SB_FRZ_CFG 0 % 16 = 3 && codeMatch (rd s1 h R.SB_MATCH 0) r.code then freezeFire s1 h 3 r.cts else s1

/-- The record would fire the freeze trigger by its code, so it is not counted in POST (R580). -/
def codeFires (s : State) (h : Nat) (r : Rec) : Bool :=
  !(ownCode r.code) && rd s h R.SB_FRZ_CFG 0 % 16 == 3 && codeMatch (rd s h R.SB_MATCH 0) r.code

/-! ### Queues and ring -/

/-- The counter of records lost at a full queue of a plane (R583). -/
def lostReg (p : Nat) : Reg := if p = 0 then R.SB_LOST_D else if p = 1 then R.SB_LOST_C else R.SB_LOST_M

/-- The queue of a plane. -/
def sbQueue (g : Sbag) (p : Nat) : List Rec := g.queues[p]?.getD []

/-- A record lost while the ring is FROZEN (R581). -/
def frozenLose (s : State) (h p : Nat) : State :=
  let g := sbagOf s h
  incr (setSbag s h { g with frozenLost := g.frozenLost.set p (satAdd 32 (g.frozenLost[p]?.getD 0) 1) }) h R.SB_FROZEN_LOST 0 1

/-- A record reaches its plane's queue (R33, R34, R581). -/
def enqueue (s : State) (h : Nat) (r : Rec) : State :=
  let g := sbagOf s h
  let p := min 2 r.plane
  if sbState s h = 3 then frozenLose s h p
  else if 32 ≤ (sbQueue g p).length then
    hwEvent (incr (setSbag s h { g with lost := g.lost.set p (satAdd 8 (g.lost[p]?.getD 0) 1) }) h (lostReg p) 0 1) h .saddlebag 2
  else setSbag s h { g with queues := g.queues.set p (sbQueue g p ++ [r]) }

/-- A record of this plane would be lost on its arrival (R585). -/
def wouldLose (s : State) (h p : Nat) : Bool :=
  sbState s h == 3 || decide (32 ≤ (sbQueue (sbagOf s h) p).length)

/-- The bytes of a record (R571). -/
def recBytes (r : Rec) (lost : Nat) : List Byte :=
  bytesLE 8 r.cts ++ bytesLE 4 r.order ++
  bytesLE 1 (r.words.length % 32 + r.plane % 4 * 32 + b2n r.snapshot * 128) ++ bytesLE 1 lost ++ bytesLE 2 r.code ++
  r.words.flatMap (bytesLE 8)

/-- Bytes of a ring that a position starts, wrapping at its end (R575). -/
def ringPut (s : State) (h pos : Nat) (bs : List Byte) : State :=
  let o := pos % 262144
  let n := 262144 - o
  writeBytes (writeBytes s (sbRing h + o) (bs.take n)) (sbRing h) (bs.drop n)

/-- The length in bytes of the record at a position of the ring. -/
def recLenAt (s : State) (h pos : Nat) : Nat := 16 + 8 * ((readByte s (sbRing h + (pos + 12) % 262144)).toNat % 32)

/-- The first record boundary at or after a position, from the oldest record on (R575). -/
def tailFrom (s : State) (h bound : Nat) : Nat → Nat → Nat
  | 0, t => t
  | n + 1, t => if bound ≤ t then t else tailFrom s h bound n (t + recLenAt s h t)

/-- Write a record into the ring (R571, R575). -/
def ringWrite (s : State) (h : Nat) (r : Rec) : State :=
  let g := sbagOf s h
  let p := min 2 r.plane
  let bs := recBytes r (g.lost[p]?.getD 0)
  let head := rd s h R.SB_HEAD 0
  let newHead := head + bs.length
  let tail := tailFrom s h (newHead - 262144) 16 (rd s h R.SB_TAIL 0)
  let s1 := ringPut (setSbag s h { g with lost := g.lost.set p 0 }) h head bs
  incr (wr (wr s1 h R.SB_HEAD 0 newHead) h R.SB_TAIL 0 tail) h R.SB_RECORDS 0 1

/-- A record of the Saddlebag itself, stamped under its page now (R572, R578). -/
def ownRec (s : State) (h cause code : Nat) (plane : Nat) (snapshot : Bool) (words : List Nat) : Rec :=
  let st := pageStamp s h h .saddlebag cause
  ⟨st.cts, st.order, plane, snapshot, code, words⟩

/-- Entry to FROZEN (R580): the FROZEN record, its stamp, EVENT [0], and every queued record lost. -/
def enterFrozen (s : State) (h code cause : Nat) : State :=
  let r := ownRec s h cause 0x0002 1 false [cause, code]
  let s1 := wr (ringWrite (tickPageBy s h h .saddlebag cause) h r) h R.SB_FRZ_CTS 0 r.cts
  let s2 := causedBy cause (fun t => hwEvent (putSbState t h 3 0) h .saddlebag 0) s1
  let g := sbagOf s2 h
  let s3 := setSbag s2 h { g with queues := [[], [], []], frzPending := none, frzCode := code, frzCause := cause }
  (List.range 3).foldl (fun t p => (sbQueue g p).foldl (fun u _ => frozenLose u h p) t) s3

/-- What follows a record's writing in the state TRIGGERED: it is counted in POST, and the last of them freezes the
ring (R580). -/
def countPost (s : State) (h : Nat) (fired : Bool) : State :=
  if sbState s h = 2 && !fired then
    let left := fld (rd s h R.SB_STATE 0) 27 16
    if left ≤ 1 then enterFrozen s h (sbagOf s h).frzCode (sbagOf s h).frzCause
    else putSbState s h 2 (left - 1)
  else s

/-- SADDLEBAG_RECORD_ENQUEUE, R34: the oldest record under way to a hub reaches its plane's queue. -/
def execSaddlebagRecordEnqueue (hub : Nat) (s : State) : Out :=
  match s.recs.find? (fun r => r.hub == hub) with
  | none => .next s
  | some r =>
    let s1 := { s with recs := s.recs.erase r }
    .next (if domRun s hub 0 then enqueue s1 hub r.record else s1)

/-- The plane whose turn it is: data, control, management in rotation, an empty queue giving up its turn (R33). -/
def nextPlane (g : Sbag) : Option Nat :=
  [g.turn % 3, (g.turn + 1) % 3, (g.turn + 2) % 3].find? (fun p => !(sbQueue g p).isEmpty)

/-- SADDLEBAG_RING_WRITE, R33, R575: the next queued record goes into the ring. -/
def execSaddlebagRingWrite (hub : Nat) (s : State) : Out :=
  let g := sbagOf s hub
  match nextPlane g with
  | none => .next s
  | some p =>
    match sbQueue g p with
    | [] => .next s
    | r :: rest =>
      if domRun s hub 0 && sbState s hub != 3 then
        let s1 := setSbag s hub { g with queues := g.queues.set p rest, turn := (p + 1) % 3 }
        let s2 := fireCode (ringWrite s1 hub r) hub r
        .next (countPost s2 hub (codeFires s hub r))
      else .next s

/-- FREEZE_TRIGGER, R580: the armed freeze trigger fires and the ring enters TRIGGERED with POST_LEFT. -/
def execFreezeTrigger (hub : Nat) (s : State) : Out :=
  let g := sbagOf s hub
  match g.frzPending with
  | some _ =>
    if sbState s hub = 1 then
      let post := fld (rd s hub R.SB_FRZ_CFG 0) 27 16
      let s1 := causedBy g.frzCause (fun t => hwEvent (putSbState (setSbag t hub { g with frzPending := none }) hub 2 post) hub .saddlebag 1) s
      .next (if post = 0 then enterFrozen s1 hub g.frzCode g.frzCause else s1)
    else .next (setSbag s hub { g with frzPending := none })
  | none => .next s

/-- SS_PERIOD of a set in ns, within its range (R584). -/
def SnapSet.periodNs (k : SnapSet) : Nat := within 10 1000000 k.period * 1000

/-- The CTS of an instant that a hub's counter passed, given by its elapsed time. -/
def ctsPast (s : State) (h at_ : Nat) : Nat := ctsOfNs (taiNs s h - (s.now - at_))

/-- SNAPSHOT_PERIOD, R579: an enabled PERIODIC set whose instant has come fires, with that instant as its cause. -/
def execSnapshotPeriod (hub set : Nat) (s : State) : Out :=
  let k := snapOf (sbagOf s hub) set
  if domRun s hub 0 && set < 8 && k.enabled && k.trigger == 2 && decide (k.due ≤ s.now) then
    .next (snapFire hub (ctsPast s hub k.due) (putSnap s hub set { k with due := k.due + k.periodNs }) set)
  else .next s

/-! ### Readers (R576) -/

/-- SB_NEXT as a read would report it: the value, the record's position and the new cursor. -/
def sbNext (s : State) (h ini : Nat) : Nat × Nat × Nat :=
  let cur := mget 0 (sbagOf s h).cursors ini
  let head := rd s h R.SB_HEAD 0
  let tail := rd s h R.SB_TAIL 0
  if cur = head then (2 ^ 27, cur, cur)
  else
    let p := if cur < tail then tail else cur
    let len := recLenAt s h p
    (p % 262144 + len * 2 ^ 18 + (if cur < tail then 2 ^ 28 else 0), p, p + len)

/-- SB_NEXT_READ, R576: report the record at the reader's cursor and move the cursor past it. -/
def execSbNextRead (a : Access) (s : State) : Out :=
  let a := accAt R.SB_NEXT a
  readGate a 0 (fun t =>
    let r := sbNext t a.die a.who.ini
    let g := sbagOf t a.die
    let t1 := if bit r.1 27 then t else wrB t a.die R.SB_NEXT_POS a.who.ini r.2.1
    respond (setSbag t1 a.die { g with cursors := mput a.who.ini r.2.2 g.cursors }) r.1) s

/-- SB_SEEK moves the writer's cursor to SB_TAIL or to SB_HEAD (R576). -/
def sbSeek (ini : Nat) (t : Target) (v : Nat) (s : State) : State :=
  let g := sbagOf s t.loc
  setSbag s t.loc { g with cursors := mput ini (if bit v 0 then rd s t.loc R.SB_HEAD 0 else rd s t.loc R.SB_TAIL 0) g.cursors }

/-- SB_SEEK_WRITE, R576. -/
def execSbSeekWrite (a : Access) (s : State) : Out := writeReg (accAt R.SB_SEEK a) (sbSeek a.who.ini) s

/-! ### Commands (R585) -/

/-- The ring state allows an opcode (R585). -/
def sbLegal (st op : Nat) : Bool :=
  match st with
  | 0 => op != 0x12 && op != 0x14
  | 1 => op != 0x12 && op != 0x13
  | 2 => op != 0x12 && op != 0x13 && op != 0x14
  | _ => op == 0x10 || op == 0x12 || decide (0x15 ≤ op)

/-- The checks of a SADDLEBAG opcode beyond its arguments. -/
def sbChecks (s : State) (x : Ctx) : Checks :=
  { Checks.pass with idle := pageIdle s x, legal := sbLegal (sbState s x.loc) x.op }

/-- The queue that SB_POST by an initiator uses (R573). -/
def postPlane (w : Who) : Nat := if classOf w.ini = .c then 1 else 2

/-- The payload of SB_POST: `n` 8-byte units of the issuer's SB_WBUF. -/
def postWords (s : State) (h ini n : Nat) : List Nat :=
  (List.range n).map (fun i =>
    rdB s h (R.SB_WBUF.nth (2 * i)) ini + rdB s h (R.SB_WBUF.nth (2 * i + 1)) ini * 2 ^ 32)

/-- The checks of SB_POST. -/
def checksSbPost (t : State) (x : Ctx) : Checks :=
  { sbChecks t x with argOk := decide (x.sub % 32 ≠ 0) }

/-- The effect of SB_POST. -/
def effectSbPost (x : Ctx) (t : State) : Effect :=
  let r := ownRec t x.loc x.cts (0xF000 + x.argument % 256) (postPlane x.who) false (postWords t x.loc x.who.ini (x.sub % 32))
  ⟨enqueue (tickPageBy t x.loc x.loc .saddlebag x.cts) x.loc r, .done, b2n (wouldLose t x.loc (postPlane x.who))⟩

/-- SB_POST, R585. -/
def execSbPost (c : Cmd) (s : State) : Out :=
  command s c .saddlebag 0x10 checksSbPost effectSbPost

/-- The effect of SB_FREEZE. -/
def effectSbFreeze (x : Ctx) (t : State) : Effect :=
  .done (enterFrozen t x.loc 1 x.cts)

/-- SB_FREEZE, R580: trigger code 1 and the CTS of its grant. -/
def execSbFreeze (c : Cmd) (s : State) : Out :=
  command s c .saddlebag 0x11 sbChecks effectSbFreeze

/-- Reopen the ring with its UNFROZEN record (R581). -/
def unfreeze (s : State) (h grant : Nat) : State :=
  let g := sbagOf s h
  let n := fun p => g.frozenLost[p]?.getD 0
  let r := ownRec s h grant 0x0001 1 false [rd s h R.SB_FRZ_CTS 0, grant, n 0 + n 1 * 2 ^ 32, n 2]
  let s1 := putSbState (setSbag s h { g with frozenLost := [0, 0, 0] }) h 0 0
  wr (ringWrite (tickPageBy s1 h h .saddlebag grant) h r) h R.SB_FROZEN_LOST 0 0

/-- The effect of SB_UNFREEZE. -/
def effectSbUnfreeze (x : Ctx) (t : State) : Effect :=
  .done (unfreeze t x.loc x.cts)

/-- SB_UNFREEZE, R581. -/
def execSbUnfreeze (c : Cmd) (s : State) : Out :=
  command s c .saddlebag 0x12 sbChecks effectSbUnfreeze

/-- The checks of SB_ARM. -/
def checksSbArm (t : State) (x : Ctx) : Checks :=
  { sbChecks t x with
    argOk := decide (rd t x.loc R.SB_FRZ_CFG 0 % 16 ≠ 0 ∧ rd t x.loc R.SB_FRZ_CFG 0 % 16 ≠ 2 ∧ rd t x.loc R.SB_FRZ_CFG 0 % 16 ≤ 9) }

/-- The effect of SB_ARM. -/
def effectSbArm (x : Ctx) (t : State) : Effect :=
  .done (putSbState (setSbag t x.loc { sbagOf t x.loc with frzPending := none }) x.loc 1 0)

/-- SB_ARM, R585. -/
def execSbArm (c : Cmd) (s : State) : Out :=
  command s c .saddlebag 0x13 checksSbArm effectSbArm

/-- The effect of SB_DISARM. -/
def effectSbDisarm (x : Ctx) (t : State) : Effect :=
  .done (putSbState (setSbag t x.loc { sbagOf t x.loc with frzPending := none }) x.loc 0 0)

/-- SB_DISARM, R585. -/
def execSbDisarm (c : Cmd) (s : State) : Out :=
  command s c .saddlebag 0x14 sbChecks effectSbDisarm

/-- The page that a page index names on a die (R51). -/
def pageAt (s : State) (die page : Nat) : Option (Nat × Block) :=
  if present s die then
    (blockAll.flatMap (fun b => (List.range (if b = .hartCluster then 4 else 1)).map (fun k => (dieLoc die k, b)))).find?
      (fun p => populated p.1 p.2 && pageIndex p.1 p.2 == page)
  else none

/-- The staged entries of a set that are VALID (R577). -/
def stagedEntries (s : State) (h i : Nat) : List Nat :=
  ((List.range 32).map (fun e => rd s h (R.SS_ENTRY.nth e) i)).filter (fun e => bit e 31)

/-- The value words of entries (R577). -/
def entryWords (es : List Nat) : Nat := es.foldl (fun n e => n + (if bit e 21 then 2 else 1)) 0

/-- An entry names a page whose PLANE excludes the set's (R585). -/
def entryExcluded (s : State) (mgmt : Bool) (e : Nat) : Bool :=
  match pageAt s (fld e 2 0) (fld e 10 3) with
  | some p => if mgmt then !(blockPlane p.2).management else !(blockPlane p.2).control
  | none => false

/-- The checks of SS_ENABLE. -/
def checksSsEnable (t : State) (x : Ctx) : Checks :=
  let cfg := rd t x.loc R.SS_CFG x.inst
  let es := stagedEntries t x.loc x.inst
  { sbChecks t x with
    argOk := !es.isEmpty && decide (entryWords es ≤ 32) && decide (cfg % 16 ≤ 9) &&
      !(es.any (entryExcluded t (bit cfg 8)))
    auth := decide (classOf x.who.ini = (if bit cfg 8 then Class.m else Class.c))
    legal := sbLegal (sbState t x.loc) x.op && !(snapOf (sbagOf t x.loc) x.inst).enabled }

/-- The effect of SS_ENABLE. -/
def effectSsEnable (x : Ctx) (t : State) : Effect :=
  let cfg := rd t x.loc R.SS_CFG x.inst
  let k : SnapSet := ⟨true, cfg % 16, bit cfg 8, rd t x.loc R.SS_PERIOD x.inst,
    rd t x.loc R.SS_MATCH x.inst, stagedEntries t x.loc x.inst, none, 0⟩
  .done (putSnap t x.loc x.inst { k with due := t.now + k.periodNs })

/-- SS_ENABLE, R585: load and enable set SEL. -/
def execSsEnable (c : Cmd) (s : State) : Out :=
  command s c .saddlebag 0x15 checksSsEnable effectSsEnable

/-- The effect of SS_DISABLE. -/
def effectSsDisable (x : Ctx) (t : State) : Effect :=
  .done (putSnap t x.loc x.inst SnapSet.empty)

/-- SS_DISABLE, R585: a pending trigger is dropped. -/
def execSsDisable (c : Cmd) (s : State) : Out :=
  command s c .saddlebag 0x16 sbChecks effectSsDisable

/-- The effect of SB_TRIGGER. -/
def effectSbTrigger (x : Ctx) (t : State) : Effect :=
  .done
    (if bit x.sub 0 then (if rd t x.loc R.SB_FRZ_CFG 0 % 16 = 1 then freezeFire t x.loc 1 x.cts else t)
     else if (snapOf (sbagOf t x.loc) x.inst).trigger = 1 then snapFire x.loc x.cts t x.inst else t)

/-- SB_TRIGGER, R585: the SOFTWARE trigger of a set, or of the freeze trigger. -/
def execSbTrigger (c : Cmd) (s : State) : Out :=
  command s c .saddlebag 0x17 sbChecks effectSbTrigger

/-- The effect of SbClearCounters. -/
def effectSbClearCounters (x : Ctx) (t : State) : Effect :=
  .done (clearInsts (clearRegs t x.loc 0
    [R.SB_LOST_D, R.SB_LOST_C, R.SB_LOST_M, R.SB_FROZEN_LOST, R.SB_RECORDS]) x.loc 0 8 [R.SS_TAKEN, R.SS_SKIPPED])

/-- CLEAR_COUNTERS of SADDLEBAG, R585. -/
def execSbClearCounters (c : Cmd) (s : State) : Out :=
  command s c .saddlebag 0x18 sbChecks effectSbClearCounters

end Sys2Proof.Machine
end

