-- ==== Sys2Proof/Machine/TripIo.lean ====
section
/-!
DEFINITION. Sys2Proof/Machine/TripIo.lean: trip outputs, trip-circuit supervision and binary inputs (R36, R447 to R452).
-/
namespace Sys2Proof.Machine

/-! ### The pin map and the level in force -/

/-- The fused pin map code of a configurable ball (R528): an unwritten ball reads as 0, and 6 and 7 are HI-Z. -/
def pinCode (s : State) (hub ball : Nat) : Nat :=
  let n := rd s hub (R.PM_FUSES.nth (ball / 8)) 0 / 16 ^ (ball % 8) % 16
  if bit n 3 && n % 8 < 6 then n % 8 else 0

/-- A die's level right after POR (R434, R435). -/
def LevelSt.por : LevelSt := ⟨4, 4, [none, none], 0, true, none, none, false, false, false, false, []⟩

/-- A die's level. -/
def levelOf (s : State) (die : Nat) : LevelSt := mget LevelSt.por s.levels die

/-- Set a die's level. -/
def putLevel (s : State) (die : Nat) (l : LevelSt) : State := { s with levels := mput die l s.levels }

/-! ### Edges (R398, R450) -/

/-- Push an edge to the capture engines of both hubs; the other hub's over the Axle (R399, R450). -/
def pushEdge (s : State) (hub kind idx : Nat) (on : Bool) (cts : Nat) : State :=
  let dsts := (hubs s).filter (fun g => g == hub || axleAlive s)
  { s with capIns := s.capIns ++ (dsts.filter (fun g => domRun s g 8)).map (fun g => ⟨g, kind, hub, idx, on, cts⟩) }

/-! ### Coaster demands (R439, R440, R472) -/

/-- A Coaster before its tables are loaded. -/
def Coaster.empty : Coaster := ⟨[], [], []⟩

/-- A hub's Coaster. -/
def coOf (s : State) (hub : Nat) : Coaster := mget Coaster.empty s.coasters hub

/-- Set a hub's Coaster. -/
def setCo (s : State) (hub : Nat) (c : Coaster) : State := { s with coasters := mput hub c s.coasters }

/-- The Tandem gate of a hub is open (R469, R472). -/
def tdGate (s : State) (hub : Nat) : Bool := domRun s hub 7 && bit (rd s hub R.TD_STATE 0) 3

/-- Registers of a loaded zone, in the order of R444. -/
def Zone.cfg (z : Zone) : Nat := z.regs[0]?.getD 0
def Zone.out (z : Zone) : Nat := z.regs[5]?.getD 0
def Zone.bfSrc (z : Zone) : Nat := z.regs[7]?.getD 0

/-- A zone whose demands and frames the closed gate stops (R438, R472). -/
def zoneGated (s : State) (hub : Nat) (z : Zone) : Bool := bit z.cfg 9 && !(tdGate s hub)

/-- The lines that a zone demands: TRIP while TRIPPED, RETRIP while retripped (R439, R440). -/
def Zone.demand (z : Zone) : Nat :=
  (if z.state = 4 then z.out % 256 else 0) ||| (if z.retripped then fld z.out 23 16 else 0)

/-- The Coaster demands of a hub, combined by OR (R439). -/
def coDemand (s : State) (hub : Nat) : Nat :=
  if domRun s hub 9 then
    (coOf s hub).zones.foldl (fun m e => if zoneGated s hub e.2 then m else m ||| e.2.demand) 0
  else 0

/-! ### Lines (R36, R447, R448) -/

/-- A line before anything drives it. -/
def TripLine.empty : TripLine := ⟨false, false, false, none, false, 0, 0, false, 0, false, 0, false, false, false⟩

/-- A line of a hub. -/
def lineOf (s : State) (hub n : Nat) : TripLine := mget TripLine.empty s.lines (hub * 8 + n)

/-- Set a line of a hub. -/
def putLine (s : State) (hub n : Nat) (l : TripLine) : State := { s with lines := mput (hub * 8 + n) l s.lines }

/-- TL_CFG of a line while COASTER runs, its reset value otherwise. -/
def tlCfg (s : State) (hub n : Nat) : Nat := if domRun s hub 9 then rd s hub R.TL_CFG n else R.TL_CFG.rst

/-- OWNER and OWNER_DIE of a line (R447). -/
def lineOwner (s : State) (hub n : Nat) : Nat := tlCfg s hub n % 4 % 3
def lineOwnerDie (s : State) (hub n : Nat) : Nat := fld (tlCfg s hub n) 6 4

/-- kickstand_active of a line (R36, R447). -/
def kickActive (s : State) (hub n : Nat) : Bool :=
  decide (4 ≤ (levelOf s hub).level) ||
  (let d := lineOwnerDie s hub n
   match lineOwner s hub n with
   | 1 => !(domRun s d 11) || !(lineReach s d hub)
   | 2 => !(domRun s d 12) || !(lineReach s d hub)
   | _ => false)

/-- The gate of a line's software demand is closed (R472). -/
def lineGated (s : State) (hub n : Nat) : Bool := bit (tlCfg s hub n) 9 && !(tdGate s hub)

/-- The software demand that R36 uses: 0 without an owner and while the line's gate is closed. -/
def swDemand (s : State) (hub n : Nat) : Bool :=
  lineOwner s hub n != 0 && (lineOf s hub n).demand && !(lineGated s hub n)

/-- The fused code stands in place of the software demand (R36, R448, R529). -/
def lineSafe (s : State) (hub n : Nat) : Bool := !(domRun s hub 2) || !(domRun s hub 9) || kickActive s hub n

/-- What the driver of a line drives (R36, R448, R529); none while it is off. -/
def lineDrive (s : State) (hub n : Nat) : Option Bool :=
  if !(rstOf s hub).fuseSensed then none
  else if bit (coDemand s hub) n then some true
  else if lineSafe s hub n then
    match pinCode s hub n with
    | 3 => some false
    | 4 => some true
    | 5 => some ((lineOf s hub n).accepted && (lineOf s hub n).used)
    | _ => none
  else some (swDemand s hub n)

/-- TL_STATE of a line (R452). -/
def tlState (s : State) (hub n : Nat) : Nat :=
  let l := lineOf s hub n
  b2n l.level + b2n (bit (coDemand s hub) n) * 2 + b2n l.demand * 4 + b2n (kickActive s hub n) * 8 +
  b2n (lineGated s hub n) * 16 + b2n l.sense * 32 + b2n l.tcsFail * 64 + b2n l.noCurrent * 128 +
  b2n l.driveFault * 256 + pinCode s hub n * 65536

/-- The line follows R36: the driver, the level sensed at the ball, LINE_CHANGE with its CTS, later than that of the
demand that moved it (R107), the TRIP trigger
(R579), the count of assertions and the edge for capture. A ball whose driver goes off stands at a free level, which the pull and the carrier set (R451). -/
def refreshLine (hub : Nat) (s : State) (n : Nat) : State :=
  let l := lineOf s hub n
  let d := lineDrive s hub n
  let used := if lineSafe s hub n then l.used else swDemand s hub n
  let l1 := { l with used := used }
  if d = l.drive then putLine s hub n l1
  else
    let rises := d == some true && l.drive != some true
    let falls := d != some true && l.drive == some true
    let level := match d with
      | some b => b
      | none => bit (freeNat s) 0
    let l2 := { l1 with
      drive := d, level := level, changed := s.now, assertAt := if rises || falls then s.now else l.assertAt
      noCurrent := l.noCurrent && !rises, seen := if rises then l.sense else l.seen }
    let s0 := putLine (if d = none then drew s else s) hub n l2
    let cts := laterCts (ctsNow s0 hub) s.cause
    let s1 := if level = l.level then s0 else fireTrigger s0 hub 6 cts
    if !(domRun s hub 9) then (if level = l.level then s1 else pushEdge s1 hub 2 n level cts)
    else
      let s2 := if rises then incr s1 hub R.TL_ASSERTS n 1 else s1
      if level = l.level then s2
      else hwEvent (pushEdge (wr s2 hub R.TL_CHANGE_CTS n cts) hub 2 n level cts) hub .tripIo n

/-- The mask of the lines of a hub that meet a test. -/
def lineMask (p : Nat → Bool) : Nat := ((List.range 8).map (fun n => b2n (p n) * 2 ^ n)).sum

/-- A binary input before its first accepted level. -/
def BinIn.empty : BinIn := ⟨false, false, 0⟩

/-- A binary input of a hub. -/
def binOf (s : State) (hub b : Nat) : BinIn := mget BinIn.empty s.bins (hub * 16 + b)

/-- The registers of TRIP_IO show the lines and the inputs (R451, R452). -/
def showLines (s : State) (hub : Nat) : State :=
  if domRun s hub 9 then
    let bins := ((List.range 16).map (fun b => b2n (binOf s hub b).level * 2 ^ b)).sum
    let s1 := wr s hub R.TIO_LEVELS 0
      (lineMask (fun n => (lineOf s hub n).level) + lineMask (fun n => (lineOf s hub n).sense) * 256 + bins * 65536)
    let s2 := wr s1 hub R.TIO_DEMANDS 0
      (lineMask (fun n => (lineOf s hub n).demand) + coDemand s hub % 256 * 256 + lineMask (kickActive s hub) * 65536 +
        lineMask (lineGated s hub) * 2 ^ 24)
    (List.range 8).foldl (fun t n => wr t hub R.TL_STATE n (tlState t hub n)) s2
  else s

/-- Every line of a hub follows R36. -/
def refreshLines (s : State) (hub : Nat) : State := showLines ((List.range 8).foldl (refreshLine hub) s) hub

/-- Every line of the package follows R36. -/
def refreshAll (s : State) : State := (hubs s).foldl refreshLines s

/-! ### Software demands (R447) -/

/-- The writer owns a line (R447). -/
def ownsLine (s : State) (hub : Nat) (w : Who) (n : Nat) : Bool :=
  let d := lineOwnerDie s hub n
  match lineOwner s hub n with
  | 1 => w.ini == 106 + (d - 2) && decide (2 ≤ d)
  | 2 => hostHart w && hartDie w.ini == d
  | _ => false

/-- A write of TIO_SW_SET or TIO_SW_CLR (R447): the owned lines take the demand; a write that names other lines counts
TIO_DENIED once. -/
def tioDemand (hub : Nat) (w : Who) (on : Bool) (v : Nat) (s : State) : State :=
  let named := (List.range 8).filter (bit v)
  let mine := named.filter (ownsLine s hub w)
  let s1 := mine.foldl (fun t n => putLine t hub n { lineOf t hub n with demand := on, accepted := true }) s
  let s2 := if mine.length < named.length then hwEvent (incr s1 hub R.TIO_DENIED 0 1) hub .tripIo 16 else s1
  refreshLines s2 hub

/-- TIO_SW_SET, R447. -/
def execTioSwSet (a : Access) (s : State) : Out :=
  writeReg (accAt R.TIO_SW_SET a) (fun t v u => tioDemand (locDie t.loc) a.who true v u) s

/-- TIO_SW_CLR, R447. -/
def execTioSwClr (a : Access) (s : State) : Out :=
  writeReg (accAt R.TIO_SW_CLR a) (fun t v u => tioDemand (locDie t.loc) a.who false v u) s

/-- A write of TL_CFG (R447, R449, R452): OWNER 3 stores 0; with TCS_EN at 0, TCS_FAIL and NO_CURRENT read 0. -/
def tlCfgWrite (t : Target) (v : Nat) (s : State) : State :=
  let hub := locDie t.loc
  let n := t.inst
  let l := lineOf s hub n
  let on := bit v 8
  let was := bit (rd s hub R.TL_CFG n) 8
  let l1 := { l with
    tcsFail := l.tcsFail && on, noCurrent := l.noCurrent && on, enabledAt := if on && !was then s.now else l.enabledAt }
  refreshLines (writeT (putLine s hub n l1) t (if v % 4 = 3 then v - 3 else v)) hub

/-- The checks of TripIoClearCounters. -/
def checksTripIoClearCounters (t : State) (x : Ctx) : Checks :=
  { Checks.pass with argOk := decide (x.argument < 8 ∨ x.argument = 0xFFFF), idle := pageIdle t x }

/-- The effect of TripIoClearCounters. -/
def effectTripIoClearCounters (x : Ctx) (t : State) : Effect :=
  .done (if x.argument = 0xFFFF then clearRegs (clearInsts t x.loc 0 8 [R.TL_ASSERTS]) x.loc 0 [R.TIO_DENIED]
    else clearRegs t x.loc x.argument [R.TL_ASSERTS])

/-- CLEAR_COUNTERS of TRIP_IO, R452. -/
def execTripIoClearCounters (c : Cmd) (s : State) : Out :=
  command s c .tripIo 0x10 checksTripIoClearCounters effectTripIoClearCounters

/-! ### Supervision (R449) -/

/-- Set a flag of a line, with FLAG_SET and its record (R449, R451). -/
def flagSet (s : State) (hub n : Nat) (l : TripLine) : State :=
  let s1 := showLines (putLine s hub n l) hub
  let st := pageStamp s1 hub hub .tripIo 0
  eventRec (tickPage s1 hub .tripIo) hub hub .tripIo st (pagePlane .tripIo) (8 + n) n []

/-- Clear a flag of a line. -/
def flagClear (s : State) (hub n : Nat) (l : TripLine) : State := showLines (putLine s hub n l) hub

/-- The TCS block input of a line lets TCS_FAIL be judged: none valid, or 0; with the elapsed time of its last change. -/
def tcsUnblocked (s : State) (hub n : Nat) : Bool × Nat :=
  let c := tlCfg s hub n
  if bit c 15 && fld c 14 10 < 16 then (!(binOf s hub (fld c 14 10)).level, (binOf s hub (fld c 14 10)).at_) else (true, 0)

/-- TCS_DELAY_EXPIRY, R449: TRIP_SENSE has stood at one level for TCS_DELAY. -/
def execTcsDelayExpiry (hub line : Nat) (s : State) : Out :=
  let l := lineOf s hub line
  let c := tlCfg s hub line
  let delay := within 1 60000 (fld c 31 16) * 1000000
  if domRun s hub 9 && line < 8 && bit c 8 then
    if l.tcsFail then
      if l.sense && decide (l.senseAt + delay ≤ s.now) then .next (flagClear s hub line { l with tcsFail := false }) else .next s
    else
      let u := tcsUnblocked s hub line
      let from_ := max (max l.senseAt l.enabledAt) (max l.assertAt u.2)
      if l.drive != some true && !l.sense && u.1 && decide (from_ + delay ≤ s.now) then
        .next (flagSet s hub line { l with tcsFail := true })
      else .next s
  else .next s

/-- SENSE_WIN of a line in ns (R452). -/
def senseWin (s : State) (hub line : Nat) : Nat := within 100 65535 (rd s hub R.TL_SENSE_WIN line) * 1000

/-- SENSE_WIN_EXPIRY, R449: TRIP_SENSE has not read 1 within SENSE_WIN of the line's assertion. -/
def execSenseWinExpiry (hub line : Nat) (s : State) : Out :=
  let l := lineOf s hub line
  if domRun s hub 9 && line < 8 && bit (tlCfg s hub line) 8 && l.drive == some true && !l.seen && !l.noCurrent &&
      decide (l.assertAt + senseWin s hub line ≤ s.now) then
    .next (flagSet s hub line { l with noCurrent := true })
  else .next s

/-- DRIVE_FAULT_EXPIRY, R449: for 10 µs the ball has differed from its command or sourced more than 30 mA while
asserted (`bad`), or has done neither. It is compared only while its driver is on. -/
def execDriveFaultExpiry (hub line : Nat) (bad : Bool) (s : State) : Out :=
  let l := lineOf s hub line
  if domRun s hub 9 && line < 8 && decide (l.changed + 10000 ≤ s.now) then
    if bad && l.drive.isSome && !l.driveFault then .next (flagSet s hub line { l with driveFault := true })
    else if l.driveFault && (!bad || l.drive.isNone) then .next (flagClear s hub line { l with driveFault := false })
    else .next s
  else .next s

/-- TRIP_SENSE_CHANGE, R450: a TRIP_SENSE level is sampled, stamped and pushed, with no debounce. -/
def execTripSenseChange (hub line : Nat) (level : Bool) (s : State) : Out :=
  let l := lineOf s hub line
  if domRun s hub 9 && line < 8 && l.sense != level then
    let s1 := putLine s hub line { l with
        sense := level, senseAt := s.now
        seen := l.seen || (level && decide (s.now ≤ l.assertAt + senseWin s hub line)) }
    .next (showLines (pushEdge s1 hub 3 line level (ctsNow s1 hub)) hub)
  else .next s

end Sys2Proof.Machine
end

