-- ==== Sys2Proof/Machine/Coaster.lean ====
section
/-!
DEFINITION. Sys2Proof/Machine/Coaster.lean: the Coaster's zones and frames (R436 to R446), and binary inputs (R450).
-/
namespace Sys2Proof.Machine

/-! ### Zones -/

/-- The staged registers of a zone, in the order of R444. -/
def zoneRegs : List Reg := [R.ZN_CFG, R.ZN_IN01, R.ZN_IN23, R.ZN_DELAY, R.ZN_HOLD, R.ZN_OUT, R.ZN_BF, R.ZN_BF_SRC]

/-- A zone as ZONE_LOAD or a table image loads it. -/
def Zone.fresh (regs : List Nat) : Zone := ⟨regs, 0, false, false, 0, 0, 0, none, false, false, false, none⟩

/-- A zone of a hub. -/
def zoneOf (s : State) (hub i : Nat) : Zone := mget (Zone.fresh [0, 0, 0, 0, 0, 0, 0, 0]) (coOf s hub).zones i

/-- Fields of a loaded zone (R444, R445). -/
def Zone.func (z : Zone) : Nat := z.cfg % 8
def Zone.slow (z : Zone) : Bool := bit z.cfg 3
def Zone.minInputs (z : Zone) : Nat := fld z.cfg 5 4 + 1
def Zone.armLevel (z : Zone) : Nat := fld z.cfg 8 6
def Zone.latch (z : Zone) : Bool := bit z.cfg 10
def Zone.bfEn (z : Zone) : Bool := bit z.cfg 11
def Zone.bfBreaker (z : Zone) : Bool := bit z.cfg 12
def Zone.delayNs (z : Zone) : Nat := within 0 60000000 ((z.regs[3]?.getD 0) % 2 ^ 26) * 1000
def Zone.holdNs (z : Zone) : Nat := within 0 60000 ((z.regs[4]?.getD 0) % 65536) * 1000000
def Zone.bfNs (z : Zone) : Nat := within 1000 1000000 ((z.regs[6]?.getD 0) % 2 ^ 20) * 1000

/-- The valid inputs of a zone: detector numbers. -/
def Zone.detectors (z : Zone) : List Nat :=
  let a := z.regs[1]?.getD 0
  let b := z.regs[2]?.getD 0
  ([(bit a 15, a % 1024), (bit a 31, fld a 25 16), (bit b 15, b % 1024), (bit b 31, fld b 25 16)].filter (fun e => e.1)).map (fun e => e.2)

/-- The frames of a zone: trip and BF, where valid. -/
def Zone.tripFrame (z : Zone) : Option Nat := if bit z.out 15 then some (fld z.out 14 8) else none
def Zone.bfFrame (z : Zone) : Option Nat := if bit z.out 31 then some (fld z.out 30 24) else none
def Zone.frames (z : Zone) : List Nat := z.tripFrame.toList ++ z.bfFrame.toList

/-- The current-check detector, the BFI input and the breaker-closed input of a zone, where valid. -/
def Zone.check (z : Zone) : Option Nat := if bit z.bfSrc 15 then some (z.bfSrc % 1024) else none
def Zone.bfiBin (z : Zone) : Option Nat := if bit z.bfSrc 20 then some (fld z.bfSrc 19 16) else none
def Zone.breakerBin (z : Zone) : Option Nat := if bit z.bfSrc 28 then some (fld z.bfSrc 27 24) else none

/-- The zone is armed (R438). -/
def zoneArmed (s : State) (hub : Nat) (z : Zone) : Bool := decide (z.armLevel ≤ (levelOf s hub).level)

/-- ZN_STATE (R444). -/
def znState (s : State) (hub : Nat) (z : Zone) : Nat :=
  z.state + b2n z.blocked * 8 + b2n z.bf.isSome * 16 + b2n z.retripped * 32 + b2n (zoneGated s hub z) * 64 + z.inputs % 16 * 256

/-- The registers of COASTER show the zones. -/
def showZones (s : State) (hub : Nat) : State :=
  let zs := (coOf s hub).zones
  let s1 := zs.foldl (fun t e => wr t hub R.ZN_STATE e.1 (znState t hub e.2)) s
  wr (wr s1 hub R.CO_ARMED 0 (zs.filter (fun e => e.2.state != 0 && zoneArmed s hub e.2)).length) hub R.CO_TRIPPED 0
    (zs.filter (fun e => e.2.state == 4)).length

/-- Set a zone; the lines follow its demands (R36, R439). -/
def putZone (s : State) (hub i : Nat) (z : Zone) : State :=
  let c := coOf s hub
  refreshLines (showZones (setCo s hub { c with zones := mput i z c.zones }) hub) hub

/-- An EVENT bit of COASTER that names a zone (R443). -/
def zoneEvent (s : State) (hub i n : Nat) : State := hwEvent (wr s hub R.CO_EVENT_ZONE 0 i) hub .coaster n

/-- A zone enters a state, with STATE_CHANGE where it is another. -/
def enterZone (s : State) (hub i : Nat) (z : Zone) (st : Nat) : State :=
  let s1 := putZone s hub i { z with state := st }
  if z.state = st then s1 else hwEvent s1 hub .coaster 5

/-- The state of a zone that has no pickup and no trip. -/
def restState (s : State) (hub : Nat) (z : Zone) : Nat := if z.func = 0 then 0 else if zoneArmed s hub z then 2 else 1

/-- A stamp of a decision under source 295 (R442). -/
def coStamp (s : State) (hub cause : Nat) : State × Nat := (tickSrcBy s hub 295 cause, (stampOf s hub 295 cause).cts)

/-- The instant of a decision in ns since the epoch, which is the counter's own where it is not valid (R87). -/
def decidedNs (s : State) (hub cts : Nat) : Nat := if cts = 0 then taiNs s hub else ctsNs (ctr s hub).sec cts

/-! ### Frames (R441) -/

/-- REP_MIN and REP_MAX of an entry in ns. -/
def CoFrame.repMin (f : CoFrame) : Nat := within 500 65535 (f.rep % 65536) * 1000
def CoFrame.repMax (f : CoFrame) : Nat := within 10 60000 (f.rep / 65536) * 1000000

/-- A frame entry's patched bytes. -/
def CoFrame.image (f : CoFrame) : List Byte :=
  let b := f.bytes.take (f.cfg % 256)
  let b1 := patch b (f.off % 256) (bytesBE 4 f.st)
  let b2 := patch b1 (fld f.off 15 8) (bytesBE 4 f.sq)
  patch (patch b2 (fld f.off 23 16) f.t) (fld f.off 31 24) (bytesBE 1 f.data)

/-- The frame of bytes built by Esnak, with one sequence number for both lanes. -/
def coFrameOf (s : State) (hub seq : Nat) (f : CoFrame) : Frame :=
  let b := f.image
  let be := fun (o n : Nat) => ofBytesBE ((b.drop o).take n)
  let tagged := be 12 2 == 0x8100
  let o := if tagged then 16 else 12
  let tag := if tagged then some (VTag.mk (be 14 2 / 8192) (bit (be 14 2) 12) (be 14 2 % 4096)) else none
  ⟨be 0 6, be 6 6, tag, be o 2, be (o + 2) 2, some ⟨seq, hub, decide (laneMode s hub = 2)⟩, b.length + 4, b, false, false,
    none, .goose f.st f.sq [f.data]⟩

/-- Send a frame entry from P15 in class 7 on both lanes (R441, R172), tagged where it carries a valid key (R494). -/
def emitFrame (s : State) (hub : Nat) (f : CoFrame) : State :=
  if domRun s hub 7 then
    let q := takeSeq s hub (ofBytesBE ((f.bytes.drop 6).take 6))
    let g := coFrameOf q.1 hub q.2 f
    let r : State × Option Frame := if bit f.cfg 26 then tagFrame q.1 hub (fld f.cfg 25 16) g else (q.1, some g)
    match r.2 with
    | none => r.1
    | some h =>
      let ports := (List.range 12).filter (fun p => portRole r.1 hub p == 1)
      injectP15 r.1 hub h (ports ++ (if dualLane s then [] else [12])) 7
  else s

/-- T of a decision CTS: UtcTime, seconds and a 24-bit fraction of UTC, and a quality byte that the manual leaves open. -/
def utcTime (s : State) (hub cts : Nat) : List Byte :=
  let ns := ctsNs (ctr s hub).sec cts
  let sec := (ns / 1000000000 : Int) - sgn 16 (rd s hub R.UTC_OFFSET 0)
  bytesBE 4 (uns 32 sec) ++ bytesBE 3 (ns % 1000000000 * 2 ^ 24 / 1000000000) ++ [Config.freeByte s.free]

/-- Set a frame entry; CF_STNUM shows its stNum. -/
def putFrame (s : State) (hub e : Nat) (f : CoFrame) : State :=
  let c := coOf s hub
  wr (setCo s hub { c with frames := mput e f c.frames }) hub R.CF_STNUM (64 + e) f.st

/-- A frame is sent at a change (R441): stNum incremented, sqNum 0, the data and T; repeats begin at REP_MIN. -/
def changeFrame (hub : Nat) (data : Bool) (cts : Nat) (s : State) (e : Nat) : State :=
  match (coOf s hub).frames.lookup e with
  | none => s
  | some f =>
    if bit f.cfg 8 then
      let g := f.repMin
      let f1 := { f with
        st := (f.st + 1) % 2 ^ 32, sq := 0, data := if data then 0xFF else 0, t := utcTime s hub cts
        next := s.now + g, gap := g }
      emitFrame (putFrame (drew s) hub e f1) hub f1
    else s

/-- The frames of a zone at a change, unless the closed gate stops them (R472). -/
def zoneFrames (s : State) (hub : Nat) (z : Zone) (fs : List Nat) (data : Bool) (cts : Nat) : State :=
  if zoneGated s hub z then s else fs.foldl (changeFrame hub data cts) s

/-- A zone that is not OFF uses a frame entry. -/
def frameUsed (s : State) (hub e : Nat) : Bool := (coOf s hub).zones.any (fun z => z.2.state != 0 && z.2.frames.contains e)

/-- The heartbeat of the entries that a zone begins to use starts REP_MAX after the load. -/
def beginBeat (hub : Nat) (s : State) (e : Nat) : State :=
  match (coOf s hub).frames.lookup e with
  | some f => if f.next ≤ s.now then putFrame s hub e { f with next := s.now + f.repMax, gap := f.repMax } else s
  | none => s

/-- GOOSE_REPEAT, R441: a repeat or heartbeat is due; sqNum is incremented and the interval doubles up to REP_MAX. -/
def execGooseRepeat (hub frame : Nat) (s : State) : Out :=
  match (coOf s hub).frames.lookup frame with
  | none => .next s
  | some f =>
    let gated := (coOf s hub).zones.all (fun z => z.2.state == 0 || !(z.2.frames.contains frame) || zoneGated s hub z.2)
    if domRun s hub 9 && bit f.cfg 8 && frameUsed s hub frame && decide (f.next ≤ s.now) then
      let g := min (2 * f.gap) f.repMax
      let f1 := { f with sq := (f.sq + 1) % 2 ^ 32, next := s.now + g, gap := g }
      .next (if gated then putFrame s hub frame { f with next := s.now + f.gap } else emitFrame (putFrame s hub frame f1) hub f1)
    else .next s

/-! ### Criterion, pickup, trip and end (R437 to R440) -/

/-- The latest presentation of a detector: FAST, SLOW, BLOCKED. -/
def shownOf (s : State) (hub det : Nat) : Nat := mget 0 (coOf s hub).shown det

/-- An input shows the zone's output asserted and not BLOCKED. -/
def inputOn (s : State) (hub : Nat) (z : Zone) (det : Nat) : Bool :=
  bit (shownOf s hub det) (b2n z.slow) && !(bit (shownOf s hub det) 2)

/-- Inputs asserted. -/
def inputsOn (s : State) (hub : Nat) (z : Zone) : Nat := (z.detectors.filter (inputOn s hub z)).length

/-- Every valid input is BLOCKED. -/
def allBlocked (s : State) (hub : Nat) (z : Zone) : Bool :=
  !z.detectors.isEmpty && z.detectors.all (fun d => bit (shownOf s hub d) 2)

/-- The current check: FAST asserted and not BLOCKED in its latest presentation (R440). -/
def currentOn (s : State) (hub : Nat) (z : Zone) : Bool :=
  match z.check with
  | some d => bit (shownOf s hub d) 0 && !(bit (shownOf s hub d) 2)
  | none => false

/-- An accepted input level. -/
def binOn (s : State) (hub : Nat) : Option Nat → Bool
  | some b => (binOf s hub b).level
  | none => false

/-- A BFI-started timer ends once its input has fallen and the current check has dropped, and with it its demand. -/
def endBfi (s : State) (hub i : Nat) : State :=
  let z := zoneOf s hub i
  if z.bf.isSome && z.bfi && !(binOn s hub z.bfiBin) && !(currentOn s hub z) then
    putZone s hub i { z with bf := none, bfi := false, bfDone := false, retripped := z.retripped && z.state == 4 }
  else s

/-- A queued table-image zone is loaded once the zone has come to rest (R446). -/
def applyWaiting (s : State) (hub i : Nat) : State :=
  let z := zoneOf s hub i
  match z.waits with
  | none => s
  | some regs =>
    if z.state ≤ 2 then
      let n := Zone.fresh regs
      let s1 := putZone s hub i n
      enterZone s1 hub i n (restState s1 hub n)
    else s

/-- The trip ends (R439): demands withdrawn, both frames sent FALSE. -/
def endTrip (s : State) (hub i cause : Nat) : State :=
  let z := zoneOf s hub i
  let k := coStamp s hub cause
  let keep := z.bf.isSome && z.bfi
  let z1 := { z with
    pick := false, retripped := false, bf := if keep then z.bf else none, bfi := keep, bfDone := keep && z.bfDone }
  causedBy k.2 (fun t =>
    let s1 := enterZone t hub i z1 (restState t hub z)
    let s2 := zoneFrames (pushEdge s1 hub 7 i false k.2) hub z z.frames false k.2
    applyWaiting (zoneEvent s2 hub i 3) hub i) k.1

/-- The trip decision (R439, R440): demands, frame, TRIPPED, and the breaker-failure timer. -/
def tripZone (s : State) (hub i cause : Nat) : State :=
  let z := zoneOf s hub i
  let k := coStamp s hub cause
  let z1 := { z with
    tripAt := s.now, retripped := z.retripped && z.bfi
    bf := if z.bfEn && (z.bf.isNone || z.bfDone) then some (decidedNs s hub k.2) else z.bf
    bfDone := z.bfDone && !z.bfEn, bfi := z.bfi && !z.bfEn }
  causedBy k.2 (fun t =>
    let s1 := enterZone (wr t hub R.ZN_TRIP_CTS i k.2) hub i z1 4
    let n := rd s1 hub R.ZN_TRIPS i
    let s2 := zoneFrames (wr s1 hub R.ZN_TRIPS i (setFld n 15 0 (n + 1))) hub z z.tripFrame.toList true k.2
    zoneEvent (pushEdge s2 hub 7 i true k.2) hub i 1) k.1

/-- A retrip (R440), caused by the passing of the retrip instant. -/
def retripZone (s : State) (hub i : Nat) : State :=
  let z := zoneOf s hub i
  let k := coStamp s hub 0
  causedBy k.2 (fun t =>
    let s1 := putZone t hub i { z with retripped := true }
    let n := rd s1 hub R.ZN_TRIPS i
    let s2 := wr s1 hub R.ZN_TRIPS i (setFld n 31 16 (n / 65536 + 1))
    zoneEvent (zoneFrames s2 hub z z.bfFrame.toList true k.2) hub i 2) k.1

/-- Pickup begins or ends: the decision's stamp, its edge for capture, and EVENT PICKUP where it begins (R437, R443). -/
def setPick (s : State) (hub i : Nat) (on : Bool) (cause : Nat) : State :=
  let z := zoneOf s hub i
  if z.pick = on then s
  else
    let k := coStamp s hub cause
    causedBy k.2 (fun t =>
      let s1 := pushEdge (putZone t hub i { z with pick := on }) hub 6 i on k.2
      if on then zoneEvent (wr s1 hub R.ZN_PICKUP_CTS i k.2) hub i 0 else s1) k.1

/-- One zone acts on a presentation of one of its inputs (R437 to R439): the tap sample's CTS. -/
def evalZone (hub cts : Nat) (s : State) (i : Nat) : State :=
  let z0 := zoneOf s hub i
  let tap := ctsNs (ctr s hub).sec cts
  let holds := decide (z0.minInputs ≤ inputsOn s hub z0)
  let blk := allBlocked s hub z0
  let s1 := putZone s hub i { z0 with inputs := inputsOn s hub z0, blocked := blk }
  let s2 := if blk && !z0.blocked then zoneEvent s1 hub i 4 else s1
  let z := zoneOf s2 hub i
  match z.state with
  | 2 =>
    if holds then
      let s4 := setPick (enterZone s2 hub i { z with pickNs := tap } 3) hub i true cts
      if z.func = 1 ∨ z.delayNs = 0 then tripZone s4 hub i cts else s4
    else s2
  | 3 =>
    if !holds then
      let s3 := setPick s2 hub i false cts
      applyWaiting (enterZone s3 hub i (zoneOf s3 hub i) 2) hub i
    else if z.func = 1 ∨ z.pickNs + z.delayNs ≤ tap then tripZone s2 hub i cts
    else s2
  | 4 =>
    let s3 := setPick s2 hub i holds cts
    if !holds && !z.latch && decide (z.tripAt + z.holdNs ≤ s.now) then endTrip s3 hub i cts else s3
  | _ => s2

/-- A presentation reaches a hub's Coaster (R250, R437): every zone that names the detector acts. How long that took, for
CO_EVAL_MAX, is a free value within the bound of R442. -/
def coPresent (s : State) (p : Present) : State :=
  if domRun s p.hub 9 then
    let c := coOf s p.hub
    let s0 := setCo s p.hub { c with shown := mput p.det (b2n p.fast + b2n p.slow * 2 + b2n p.blocked * 4) c.shown }
    let s1 := wr (drew s0) p.hub R.CO_EVAL_MAX 0 (max (rd s0 p.hub R.CO_EVAL_MAX 0) (freeNat s0 % 11201))
    let s2 := (c.zones.filter (fun e => e.2.state != 0 && e.2.check == some p.det)).foldl (fun t e => endBfi t p.hub e.1) s1
    causedBy p.cts (fun u =>
      (c.zones.filter (fun e => e.2.state != 0 && e.2.detectors.contains p.det)).foldl (fun t e => evalZone p.hub p.cts t e.1) u) s2
  else s

/-- The level in force at a hub has changed: zones arm and disarm (R438). A queued table-image zone is loaded where its
zone comes to rest, disarmed or not (assumption 75). -/
def armZones (s : State) (hub : Nat) : State :=
  if domRun s hub 9 then
    (coOf s hub).zones.foldl (fun t e =>
      let z := zoneOf t hub e.1
      let armed := zoneArmed t hub z
      if z.state = 1 && armed then enterZone t hub e.1 z 2
      else if (z.state = 2 || z.state = 3) && !armed then
        let s1 := setPick t hub e.1 false 0
        let z1 := zoneOf s1 hub e.1
        applyWaiting (enterZone s1 hub e.1 { z1 with bf := none, bfi := false, bfDone := false, retripped := false } 1) hub e.1
      else t) (showZones s hub)
  else s

/-- The Tandem gate of a hub has changed (R473): gated lines and zones follow; on opening, every TRIPPED gated zone sends
its frames again as for a change. -/
def gateChanged (s : State) (hub : Nat) (opened : Bool) : State :=
  if domRun s hub 9 then
    let s1 := refreshLines (showZones s hub) hub
    if opened then
      ((coOf s1 hub).zones.filter (fun e => bit e.2.cfg 9 && e.2.state == 4)).foldl (fun t e =>
        let k := coStamp t hub 0
        causedBy k.2 (fun u =>
          zoneFrames u hub e.2 (e.2.tripFrame.toList ++ (if e.2.retripped then e.2.bfFrame.toList else [])) true k.2) k.1) s1
    else s1
  else s

/-- BF_TIMER_EXPIRY, R440: the hub counter passes the start CTS + BF_DELAY. -/
def execBfTimerExpiry (hub zone : Nat) (s : State) : Out :=
  let z := zoneOf s hub zone
  match z.bf with
  | none => .next s
  | some t =>
    if domRun s hub 9 && !z.bfDone && decide (t + z.bfNs ≤ taiNs s hub) then
      let retrip := decide (2 ≤ z.state) && (currentOn s hub z || (z.bfBreaker && binOn s hub z.breakerBin))
      let s1 := putZone s hub zone { z with bfDone := true }
      let s2 := if retrip then retripZone s1 hub zone else s1
      if z.bfi then .next (endBfi s2 hub zone)
      else .next (putZone s2 hub zone { zoneOf s2 hub zone with bf := none, bfDone := false })
    else .next s

/-! ### Binary inputs (R450) -/

/-- A BIN edge at the zones that name it as BFI (R440). -/
def bfiEdge (hub bin at_ : Nat) (level : Bool) (s : State) (i : Nat) : State :=
  let z := zoneOf s hub i
  if z.bfEn && z.bfiBin == some bin && decide (2 ≤ z.state) then
    if level then
      if z.bf.isNone then putZone s hub i { z with bf := some at_, bfi := true, bfDone := false } else s
    else endBfi s hub i
  else s

/-- BIN_ACCEPT, R450: a BIN level has held for TB_DEBOUNCE. `age` is the time in ns since the sample at which it first
appeared, which stamps the change. TB_CFG [16] inverts the raw level. -/
def execBinAccept (hub bin : Nat) (raw : Bool) (age : Nat) (s : State) : Out :=
  let cfg := rd s hub R.TB_CFG (8 + bin)
  let level := raw != bit cfg 16
  let b := binOf s hub bin
  if domRun s hub 9 && bin < 16 && b.level != level && decide (cfg % 65536 * 1000 ≤ age) then
    let at_ := taiNs s hub - age
    let cts := if (ctr s hub).valid then ctsOfNs at_ else 0
    let s1 := { s with bins := mput (hub * 16 + bin) ⟨level, raw, s.now⟩ s.bins }
    let s2 := wrAll s1 hub (8 + bin) [(R.TB_STATE, b2n level + b2n raw * 2), (R.TB_CHANGE_CTS, cts)]
    let s3 := wr s2 hub R.TIO_BIN_CHG 0 (setBit (rd s2 hub R.TIO_BIN_CHG 0) bin true)
    let s4 := showLines (pushEdge (hwEvent s3 hub .tripIo 17) hub 1 bin level cts) hub
    .next ((coOf s4 hub).zones.foldl (fun t e => bfiEdge hub bin at_ level t e.1) s4)
  else .next s

/-! ### Commands (R446) -/

/-- What ZONE_LOAD checks (R446). A zone of FUNC 0 enters OFF and uses neither inputs nor frames nor the BF timer, so
their checks do not meet it: DEDUCED, assumption 24. -/
def zoneOk (s : State) (hub : Nat) (regs : List Nat) : Bool :=
  let z := Zone.fresh regs
  decide (z.func ≤ 2 ∧ z.armLevel ≤ 4) && (decide (z.func = 0) ||
    decide (z.minInputs ≤ z.detectors.length) &&
    z.frames.all (fun e => match (coOf s hub).frames.lookup e with | some f => bit f.cfg 8 | none => false) &&
    (!z.bfEn || z.check.isSome))

/-- A zone is loaded (R446). -/
def loadZone (hub i : Nat) (regs : List Nat) (s : State) : State :=
  let old := zoneOf s hub i
  let n := { Zone.fresh regs with state := old.state }
  let s1 := enterZone s hub i n (restState s hub n)
  if n.func = 0 then s1 else n.frames.foldl (beginBeat hub) s1

/-- The zone states in which an opcode is legal (R446). -/
def zoneLegal (s : State) (hub i : Nat) : Bool := decide ((zoneOf s hub i).state ≤ 2)

/-- The checks of ZONE_LOAD. -/
def checksZoneLoad (t : State) (x : Ctx) : Checks :=
  let regs := zoneRegs.map (fun r => rd t x.loc r x.inst)
  { Checks.pass with
    argOk := decide (x.inst < 64) && zoneOk t x.loc regs, idle := pageIdle t x, legal := zoneLegal t x.loc x.inst }

/-- The effect of ZONE_LOAD. -/
def effectZoneLoad (x : Ctx) (t : State) : Effect :=
  .done (loadZone x.loc x.inst (zoneRegs.map (fun r => rd t x.loc r x.inst)) t)

/-- ZONE_LOAD, R446. -/
def execZoneLoad (c : Cmd) (s : State) : Out :=
  command s c .coaster 0x10 checksZoneLoad effectZoneLoad

/-- The staged frame entry of an instance: its bytes, CF_CFG, CF_OFF and CF_REP. -/
def stagedFrame (s : State) (hub inst : Nat) : List Byte × Nat × Nat × Nat :=
  ((List.range 32).flatMap (fun k => bytesLE 4 (rd s hub (R.CF_FRAME.nth k) inst)),
    rd s hub R.CF_CFG inst, rd s hub R.CF_OFF inst, rd s hub R.CF_REP inst)

/-- What FRAME_LOAD checks (R446). -/
def frameOk (cfg off rep : Nat) : Bool :=
  let n := cfg % 256
  decide (64 ≤ n ∧ n ≤ 128 ∧ off % 256 + 4 ≤ n ∧ fld off 15 8 + 4 ≤ n ∧ fld off 23 16 + 8 ≤ n ∧ fld off 31 24 + 1 ≤ n) &&
  decide (rep % 65536 ≤ rep / 65536 * 1000)

/-- A frame entry is loaded. It keeps stNum, sqNum, the data and T last sent. -/
def loadFrame (hub e : Nat) (x : List Byte × Nat × Nat × Nat) (s : State) : State :=
  let old := mget ⟨[], 0, 0, 0, 0, 0, 0, List.replicate 8 0, 0, 0⟩ (coOf s hub).frames e
  let f := { old with bytes := x.1, cfg := x.2.1, off := x.2.2.1, rep := x.2.2.2 }
  putFrame s hub e { f with next := s.now + f.repMax, gap := f.repMax }

/-- A zone in PICKUP or TRIPPED names the entry. -/
def frameBusy (s : State) (hub e : Nat) : Bool := (coOf s hub).zones.any (fun z => decide (3 ≤ z.2.state) && z.2.frames.contains e)

/-- The checks of FRAME_LOAD. -/
def checksFrameLoad (t : State) (x : Ctx) : Checks :=
  let f := stagedFrame t x.loc x.inst
  { Checks.pass with
    argOk := decide (64 ≤ x.inst) && frameOk f.2.1 f.2.2.1 f.2.2.2, idle := pageIdle t x
    legal := !(frameBusy t x.loc (x.inst - 64)) }

/-- The effect of FRAME_LOAD. -/
def effectFrameLoad (x : Ctx) (t : State) : Effect :=
  .done (loadFrame x.loc (x.inst - 64) (stagedFrame t x.loc x.inst) t)

/-- FRAME_LOAD, R446. -/
def execFrameLoad (c : Cmd) (s : State) : Out :=
  command s c .coaster 0x11 checksFrameLoad effectFrameLoad

/-- The checks of ZONE_OFF. -/
def checksZoneOff (t : State) (x : Ctx) : Checks :=
  { Checks.pass with argOk := decide (x.inst < 64), idle := pageIdle t x, legal := zoneLegal t x.loc x.inst }

/-- The effect of ZONE_OFF. -/
def effectZoneOff (x : Ctx) (t : State) : Effect :=
  let z := zoneOf t x.loc x.inst
  .done (enterZone t x.loc x.inst { z with bf := none, bfi := false, bfDone := false, retripped := false, waits := none } 0)

/-- ZONE_OFF, R446. -/
def execZoneOff (c : Cmd) (s : State) : Out :=
  command s c .coaster 0x12 checksZoneOff effectZoneOff

/-- The checks of ZONE_RESET. -/
def checksZoneReset (t : State) (x : Ctx) : Checks :=
  let z := zoneOf t x.loc x.inst
  { Checks.pass with argOk := decide (x.inst < 64), idle := pageIdle t x, legal := z.state == 4 && z.latch && !z.pick }

/-- The effect of ZONE_RESET. -/
def effectZoneReset (x : Ctx) (t : State) : Effect :=
  .done (endTrip t x.loc x.inst 0)

/-- ZONE_RESET, R439, R446: end a latched trip, once pickup has ended. -/
def execZoneReset (c : Cmd) (s : State) : Out :=
  command s c .coaster 0x13 checksZoneReset effectZoneReset

/-- The checks of CoasterClearCounters. -/
def checksCoasterClearCounters (t : State) (x : Ctx) : Checks :=
  { Checks.pass with argOk := decide (x.argument < 64 ∨ x.argument = 0xFFFF), idle := pageIdle t x }

/-- The effect of CoasterClearCounters. -/
def effectCoasterClearCounters (x : Ctx) (t : State) : Effect :=
  .done (if x.argument = 0xFFFF then clearInsts t x.loc 0 64 [R.ZN_TRIPS] else clearRegs t x.loc x.argument [R.ZN_TRIPS])

/-- CLEAR_COUNTERS of COASTER, R446. -/
def execCoasterClearCounters (c : Cmd) (s : State) : Out :=
  command s c .coaster 0x14 checksCoasterClearCounters effectCoasterClearCounters

end Sys2Proof.Machine
end

