-- ==== Sys2Proof/Machine/Time.lean ====
section
/-!
DEFINITION. Sys2Proof/Machine/Time.lean: the counters, the servo, references and the time agent (R79 to R104).
-/
namespace Sys2Proof.Machine

/-! ### Counters -/

/-- A counter's reading in units of 2^-48 ns (R79). -/
def ctrTotal (c : Ctr) : Nat := (c.sec * 1000000000 + c.ns) * 2 ^ 48 + c.frac

/-- The counter with a reading in units of 2^-48 ns. -/
def ctrAt (valid : Bool) (t : Nat) : Ctr :=
  ⟨valid, t / 2 ^ 48 / 1000000000, t / 2 ^ 48 % 1000000000, t % 2 ^ 48⟩

/-- Set the counter of a die. -/
def setCtr (s : State) (die : Nat) (c : Ctr) : State := { s with ctrs := mput die c s.ctrs }

/-- The time CSR of a hart (R83). -/
def timeCsr (s : State) (die : Nat) : Nat :=
  if (ctr s die).valid then taiNs s die % 2 ^ 64 else (s.now - mget 0 s.timeZero die) % 2 ^ 64

/-- The dies whose TIME domain runs. -/
def timeDies (s : State) : List Nat := (diesOf s).filter (fun d => domRun s d 5)

/-- TIME_COUNTER.STATUS of a compute die with VALID set (R113); a hub has no such page. -/
def showValid (s : State) (die : Nat) : State :=
  if isHub die then s else setStatus s die .timeCounter (setBit (hdr s die .timeCounter).status 0 true)

/-- Set every counter of the package at one instant (R87, R619). -/
def setAllCtrs (s : State) (t : Nat) : State :=
  (timeDies s).foldl (fun u d => showValid (setCtr u d (ctrAt true t)) d) s

/-- Move every valid counter of the package forward (R91). -/
def moveAllCtrs (s : State) (t : Nat) : State :=
  (timeDies s).foldl (fun u d => if (ctr u d).valid then setCtr u d (ctrAt true (ctrTotal (ctr u d) + t)) else u) s

/-! ### The time base of a hub -/

/-- The nominal ADDEND (R82). -/
def addendNominal : Nat := 0x1000000000000

/-- The time base right after the release of TIME (R92, R95). -/
def TimeBase.empty : TimeBase :=
  ⟨.unset, false, false, none, none, 0, true, 0, 0, false, [false, false, false, false], [0, 0, 0, 0], false, [], addendNominal, 0, none, 0, none⟩

/-- The time base of a hub. -/
def tb (s : State) (h : Nat) : TimeBase := mget TimeBase.empty s.tbs h

/-- The code of a state (R92). -/
def TbState.code : TbState → Nat
  | .unset => 0
  | .free => 1
  | .acquire => 2
  | .locked => 3
  | .holdover => 4
  | .follow => 5

/-- The correction in ADDEND units for a correction in ppb with 16 fractional bits (R82, R89). -/
def corrUnits (c : Int) : Int := divFree (c * 2 ^ 32) 1000000000

/-- The slew of a refused step still removes it: its time |x| ÷ SLEW_LIMIT has not passed (R90). -/
def slewing (s : State) (h : Nat) : Option Int :=
  if s.now < (tb s h).slewEnd then (tb s h).slew else none

/-- The effective ADDEND before its clamp (R82, R89, R90, R97). A hub in FOLLOW or UNSET has no servo correction
(assumption 88). -/
def addendRaw (s : State) (h : Nat) : Int :=
  let t := tb s h
  match t.state with
  | .holdover => t.heldRate
  | st =>
    let c := match slewing s h with
      | some p => p * 1000 * 65536
      | none => if st = .free ∨ st = .acquire ∨ st = .locked then sgn 64 (rd s h R.SERVO_CORR 0) else 0
    (addendNominal : Int) + sgn 64 (rd s h R.FREQ_TRIM 0) - corrUnits c

/-- The effective ADDEND, within ±500 ppm of nominal (R82). -/
def addendOf (s : State) (h : Nat) : Nat :=
  (clampInt (addendNominal - 140737488355) (addendNominal + 140737488355) (addendRaw s h)).toNat

/-- The clamp of R82 acts. -/
def addendClamped (s : State) (h : Nat) : Bool := addendRaw s h != (addendOf s h : Int)

/-- The input that is selected: the servo follows one in ACQUIRE and LOCKED (R92, R95; DEDUCED, assumption 22). -/
def TimeBase.selected (t : TimeBase) : Option Nat :=
  match t.state with
  | .acquire | .locked => t.src
  | _ => none

/-- STATUS of TIME_BASE (R95). -/
def tbStatus (t : TimeBase) (valid : Bool) : Nat :=
  t.state.code + b2n valid * 32 + b2n t.master * 64 + b2n t.slew.isSome * 128 + (t.selected.getD 7) % 8 * 256 + b2n t.gm * 2048

/-- Set a hub's time base with its STATUS, and STATE_CHANGE where its state changed (R95). -/
def putTb (s : State) (h : Nat) (t : TimeBase) : State :=
  let old := tb s h
  let s1 := { s with tbs := mput h t s.tbs }
  let s2 := setStatus s1 h .timeBase (tbStatus t (ctr s1 h).valid)
  if old.state = t.state then s2 else hwEvent s2 h .timeBase 0

/-- The other hub. -/
def otherHub (h : Nat) : Nat := 1 - h

/-- The hub that is package time master (R84). -/
def masterHub (s : State) : Option Nat := (hubs s).find? (fun h => (tb s h).master && domRun s h 5)

/-- The ADDEND that moves the counter of a die: the master's, to which the others are disciplined (R84). A slew acts until
its time has passed (R90). -/
def rateOf (s : State) (die : Nat) : Nat :=
  let of_ := fun h => if (tb s h).slew.isSome then addendOf s h else rd s h R.ADDEND 0
  match masterHub s with
  | some h => of_ h
  | none => if isHub die then of_ die else addendNominal

/-- Note the rate at which a hub's counter runs from now on, for the mean of R97. -/
def noteRate (s : State) (h : Nat) : State :=
  if domRun s h 5 then
    let a := rateOf s h
    match (tb s h).rates with
    | (_, b) :: _ => if a = b then s else { s with tbs := mput h { tb s h with rates := (s.now, a) :: (tb s h).rates } s.tbs }
    | [] => { s with tbs := mput h { tb s h with rates := [(s.now, a)] } s.tbs }
  else s

/-- Note the rates of both hubs. -/
def noteRates (s : State) : State := (hubs s).foldl noteRate s

/-- Load ADDEND; a clamp sets RATE_CLAMP (R82). -/
def refreshAddend (s : State) (h : Nat) : State :=
  let s1 := wr s h R.ADDEND 0 (addendOf s h)
  noteRates (if addendClamped s h then hwEvent s1 h .timeBase 3 else s1)

/-- Sum of rate × time and of time over the part of the rates that lies after `from_`, newest first. -/
def rateSum (from_ upto : Nat) : List (Nat × Nat) → Nat × Nat
  | [] => (0, 0)
  | (t, a) :: rest =>
    let b := max t from_
    let r := rateSum from_ (min b upto) rest
    if upto ≤ b then r else (r.1 + a * (upto - b), r.2 + (upto - b))

/-- The mean rate of the last HOLD_AVG seconds (R97). -/
def meanRate (s : State) (h : Nat) : Nat :=
  let w := min 3600 (max 1 (rd s h R.HOLD_AVG 0)) * 1000000000
  let r := rateSum (s.now - w) s.now (tb s h).rates
  if r.2 = 0 then addendOf s h else (divFree r.1 r.2).toNat

/-- REF_TIMEOUT in ns (R94). -/
def refTimeout (s : State) (h : Nat) : Nat := min 60000 (max 100 (rd s h R.REF_TIMEOUT 0)) * 1000000

/-- The elapsed time of an input's last offset plus REF_TIMEOUT has passed (R88, R92). -/
def inputStale (s : State) (h i : Nat) : Bool := decide (((tb s h).seen[i]?.getD 0) + refTimeout s h ≤ s.now)

/-- An input of R88 is valid: offsets arrive at least once in REF_TIMEOUT and, for PTP, the agent has a parent clock. -/
def inputValid (s : State) (h i : Nat) : Bool :=
  ((tb s h).valid[i]?.getD false) && !(inputStale s h i) &&
  (match i with
   | 0 => (tb s h).parent
   | 1 => true
   | 2 => present s (otherHub h) && (tb s (otherHub h)).parent
   | _ => present s (otherHub h))

/-- The codes of SRC_PRIO up to the end of the list (R88). -/
def prioList (v : Nat) : List Nat :=
  ((List.range 4).map (fun i => fld v (4 * i + 3) (4 * i))).takeWhile (fun c => c != 15)

/-- The input that SRC_PRIO prefers among the valid ones (R88). -/
def bestInput (s : State) (h : Nat) : Option Nat :=
  (prioList (rd s h R.SRC_PRIO 0)).find? (fun i => decide (i < 4) && inputValid s h i)

/-- Load SV_STATE of the four inputs (R96). The count of offsets starts again once an input has become invalid. -/
def refreshInputs (s : State) (h : Nat) : State :=
  (List.range 4).foldl (fun u i => wr u h R.SV_STATE i
    (setFld (if inputValid u h i then rd u h R.SV_STATE i else 0) 1 0
      (b2n (inputValid u h i) + 2 * b2n ((tb u h).selected == some i)))) s

/-- Enter a state of R92 with what the entry brings. -/
def enterTb (s : State) (h : Nat) (st : TbState) : State :=
  let t := tb s h
  let t1 := { t with state := st }
  let t2 := match st with
    | .holdover => { t1 with heldRate := meanRate s h, holdSince := s.now, slew := none }
    | .follow => { t1 with held := false, slew := none }
    | .acquire => { t1 with fresh := true, inWindow := 0, outWindow := 0 }
    | .locked => { t1 with outWindow := 0 }
    | _ => t1
  let s1 := if st = .locked then { s with levels := s.levels.map (fun e => (e.1, { e.2 with alarm := false })) } else s
  refreshInputs (refreshAddend (putTb s1 h t2) h) h

/-- Select an input again (R88, R92). A change of the selected input in ACQUIRE starts the count of consecutive offsets in
LOCK_WINDOW afresh (DESIGN CHOICE, assumption 107). It happens at an offset, at an expiry or at SELECT_REF; a write of SRC_PRIO acts from the next of
these (assumption 93): REF_LOST where the selected one became invalid, and the transitions that
follow for the master. -/
def reselect (s : State) (h : Nat) : State :=
  let t := tb s h
  let new := bestInput s h
  let s1 := refreshInputs (putTb s h { t with src := new }) h
  if !t.master then s1
  else
    let s2 := match t.src with
      | some i => if inputValid s h i then s1 else hwEvent s1 h .timeBase 2
      | none => s1
    match t.state with
    | .acquire => if new.isNone then enterTb s2 h .holdover
      else if new = t.src then s2 else putTb s2 h { tb s2 h with inWindow := 0, outWindow := 0 }
    | .locked => if new.isNone then enterTb s2 h .holdover
      else if new = t.src then s2 else enterTb s2 h .acquire
    | .free | .holdover => if new.isSome && !t.held then enterTb s2 h .acquire else s2
    | _ => s2

/-- Count an offset inside or outside LOCK_WINDOW, with the transitions between ACQUIRE and LOCKED (R92). -/
def judgeOffset (s : State) (h : Nat) (x : Int) : State :=
  let t := tb s h
  let inside := decide (x.natAbs ≤ min 1000000 (max 1 (rd s h R.LOCK_WINDOW 0)) * 65536)
  let n := max 1 (rd s h R.LOCK_COUNT 0)
  match t.state with
  | .acquire =>
    let k := if inside then t.inWindow + 1 else 0
    if n ≤ k then enterTb s h .locked else putTb s h { t with inWindow := k }
  | .locked =>
    let k := if inside then 0 else t.outWindow + 1
    if n ≤ k then enterTb s h .acquire else putTb s h { t with outWindow := k }
  | _ => s

/-- SLEW_LIMIT in ppm (R94). -/
def slewLimit (s : State) (h : Nat) : Nat := min 500 (max 1 (rd s h R.SLEW_LIMIT 0))

/-- One servo update (R89) for an offset in 2^-16 ns. -/
def servoUpdate (s : State) (h i : Nat) (x : Int) : State :=
  let integ := sgn 64 (rd s h R.SV_INTEG i)
  let kp := sgn 32 (rd s h R.SV_KP i)
  let ki := sgn 32 (rd s h R.SV_KI i)
  let lim : Int := slewLimit s h * 1000 * 65536
  let c := divFree (kp * x) 65536 + integ
  let cc := clampInt (-lim) lim c
  let s1 := wr s h R.SERVO_CORR 0 (uns 64 cc)
  let s2 := if cc = c ∧ addendClamped s1 h = false then
      wr s1 h R.SV_INTEG i (uns 64 (integ + divFree (ki * x) 65536)) else s1
  refreshAddend s2 h

/-- A step asked for by the servo has not yet taken effect (R90). -/
def servoStepping (s : State) : Bool := s.steps.any (fun p => !p.command)

/-- STEP_LIMIT in ns (R94). -/
def stepLimit (s : State) (h : Nat) : Nat := min 1000000000 (rd s h R.STEP_LIMIT 0)

/-- How long a refused offset, in 2^-16 ns, is slewed at a rate in ppm: |x| ÷ SLEW_LIMIT, in ns (R90). -/
def slewTime (x : Int) (ppm : Nat) : Nat := (divFree (x.natAbs * 1000000 : Nat) (ppm * 65536)).toNat

/-- An offset of the selected input reaches the master's servo (R89, R90, R92). The first offset of ACQUIRE, which a step
removes, is not counted against LOCK_WINDOW (assumption 89). Leaving UNSET sets the hub's own counter; the other counters are
set from the master (R84, R87). -/
def useOffset (s : State) (h i : Nat) (x : Int) : State :=
  let t := tb s h
  match t.state with
  | .unset =>
    let now := ctrTotal (ctr s h)
    let s1 := setCtr (wr s h R.OFFSET_LAST 0 (uns 64 x)) h (ctrAt true ((now : Int) - x * 2 ^ 32).toNat)
    let s2 := enterTb s1 h .acquire
    putTb s2 h { tb s2 h with fresh := false }
  | .acquire | .locked =>
    if t.slew.isSome || servoStepping s then s
    else
      let s1 := putTb (wr s h R.OFFSET_LAST 0 (uns 64 x)) h { t with fresh := false }
      if stepLimit s h * 65536 < x.natAbs then
        let s2 := hwEvent s1 h .timeBase 1
        let p : Int := if 0 < x then slewLimit s h else -(slewLimit s h : Int)
        judgeOffset (refreshAddend (putTb s2 h { tb s2 h with slew := some p, slewEnd := s.now + slewTime x (slewLimit s h) }) h) h x
      else if t.fresh && rd s h R.STEP_LIMIT 0 != 0 && t.state = .acquire then
        { s1 with steps := s1.steps ++ [⟨-x, s.now + 10000, h, false, false⟩] }
      else judgeOffset (servoUpdate s1 h i x) h x
  | _ => s

/-- An offset arrives at an input of a hub (R88). -/
def arriveOffset (s : State) (h i : Nat) (x : Int) : State :=
  let was := inputValid s h i
  let n := if was then satAdd 16 (fld (rd s h R.SV_STATE i) 31 16) 1 else 1
  let s1 := wr s h R.SV_OFFSET i (uns 64 x)
  let s2 := wr s1 h R.SV_STATE i (setFld (rd s1 h R.SV_STATE i) 31 16 n)
  let s3 := putTb s2 h { tb s2 h with valid := (tb s2 h).valid.set i true, seen := (tb s2 h).seen.set i s.now }
  let s4 := reselect s3 h
  if (tb s4 h).master && (tb s4 h).src == some i then useOffset s4 h i x else s4

/-- An offset of a hub's own agent or PPS_IN, which also reaches the other hub's partner input (R88). -/
def offsetIn (s : State) (h i : Nat) (x : Int) : State :=
  if domRun s h 5 then
    let s1 := arriveOffset s h i x
    let o := otherHub h
    if present s o && domRun s o 5 then
      arriveOffset s1 o (i + 2) (x + divFree (sgn 32 (rd s o R.PARTNER_OFFSET 0) * 65536) 1000)
    else s1
  else s

/-- The master is LOCKED (R97). -/
def masterLocked (s : State) : Bool :=
  match masterHub s with
  | some h => decide ((tb s h).state = .locked)
  | none => false

/-- Make a hub the package time master, and no other. A hub that still runs when the other takes mastership over a failed
Axle pair keeps its state (assumption 90). -/
def makeMaster (s : State) (h : Nat) : State :=
  let s1 := putTb s h { tb s h with master := true }
  noteRates (if present s (otherHub h) then putTb s1 (otherHub h) { tb s1 (otherHub h) with master := false } else s1)

/-! ### What happens on the block's own time -/

/-- A counter runs at half rate for a negative step (R91). -/
def halfRate (s : State) : Bool := s.steps.any (fun p => p.running && decide (s.now < p.due))

/-- The amount that one tick adds to the counter of a die: ADDEND, or half of it while a negative step runs (R79, R91).
Which neighbour half of an odd ADDEND is, is left open (assumption 8). -/
def rateFor (s : State) (die : Nat) : Nat :=
  if halfRate s then (divFree (rateOf s die) 2).toNat else rateOf s die

/-- Where a die's own rate takes its counter in 1 ns. -/
def ownNext (s : State) (die : Nat) : Nat := ctrTotal (ctr s die) + (if (rstOf s die).refclk then rateFor s die else 0)

/-- The elapsed time of a die's last time-sync exchange. -/
def lastSync (s : State) (die : Nat) : Nat := mget 0 s.syncAt die

/-- The bound in ps that a die keeps against the master's counter (R84). -/
def syncBound (die : Nat) : Nat := if isHub die then 2000 else 1500

/-- The master's counter, to which a valid counter is held while its exchanges run, or fail for no longer than the move to the
other hub takes (R84, R86). -/
def heldTo (s : State) (die : Nat) : Option Nat :=
  match masterHub s with
  | some m => if m ≠ die ∧ (ctr s m).valid ∧ (ctr s die).valid ∧ s.now ≤ lastSync s die + 10000 then some m else none
  | none => none

/-- Where a counter goes in 1 ns. One that is held to the master's and leads it by more than its bound, as it can after a
change of master, waits until it is within the bound again: it never decreases (R84, R86, R91). -/
def tickNext (s : State) (die : Nat) : Nat :=
  match heldTo s die with
  | some m => max (ctrTotal (ctr s die)) (min (ownNext s die) (ownNext s m + syncBound die * 2 ^ 48 / 1000))
  | none => ownNext s die

/-- One 1 GHz tick (R79), with the AON shadow counters (R523). -/
def idleTick (s : State) : State :=
  let s1 := { s with now := s.now + 1 }
  let s2 := (timeDies s).foldl (fun u d => setCtr u d (ctrAt (ctr s d).valid (tickNext s d))) s1
  (diesOf s).foldl (fun u d =>
    let r := rstOf u d
    if (ctr u d).valid && domRun u d 5 && s1.now % 1000000 == 0 then
      setRst u d { r with shadow := taiNs u d, shadowValid := true }
    else if r.shadowValid && s1.now % 40 == 0 then setRst u d { r with shadow := r.shadow + 40 }
    else u) s2

/-! ### Links' time-sync exchanges -/

/-- A deviation in ps within a bound, left open inside it by R84. -/
def freeDeviation (s : State) (bound : Nat) : Int := (freeNat s % (2 * bound + 1) : Nat) - (bound : Int)

/-- A counter disciplined to another: its reading plus a deviation in ps, never decreasing (R84, R91). -/
def disciplined (own master : Ctr) (d : Int) : Ctr :=
  let t := ((ctrTotal master : Int) + divFree (d * 2 ^ 48) 1000).toNat
  ctrAt true (if own.valid then max (ctrTotal own) t else t)

/-- The hub that disciplines a compute die (R113). -/
def discHub (s : State) (die : Nat) : Nat := fld (hdr s die .timeCounter).status 1 1

/-- A counter's lead over another in ps (R94, R113). -/
def leadPs (a b : Ctr) : Int := divFree (((ctrTotal a : Int) - ctrTotal b) * 1000) (2 ^ 48)

/-- Note a time-sync exchange of a die. -/
def noteSync (s : State) (die at_ : Nat) : State := { s with syncAt := mput die at_ s.syncAt }

/-- Exchanges missed at a die since its last one: one runs every 1 µs (R85). -/
def missed (s : State) (die : Nat) : Nat := (s.now - lastSync s die) / 1000 - 1

/-- A Spoke or the Axle has been declared down, so its time-sync pair does not run (R84; assumption 86). -/
def pairDown (s : State) (die hub : Nat) : Bool :=
  match s.links.lookup (if isHub die then 1024 else die * 8 + hub) with
  | some l => l.declared
  | none => false

/-- Show whether the time-sync pair of a Spoke or of the Axle runs, at both ends (R23). -/
def showPair (s : State) (die hub : Nat) (on : Bool) : State :=
  if isHub die then
    let s1 := wr s 0 R.AXLE_LK_STATE 0 (setBit (rd s 0 R.AXLE_LK_STATE 0) 3 on)
    wr s1 1 R.AXLE_LK_STATE 0 (setBit (rd s1 1 R.AXLE_LK_STATE 0) 3 on)
  else
    let s1 := wr s die R.SPOKE_LK_STATE hub (setBit (rd s die R.SPOKE_LK_STATE hub) 3 on)
    wr s1 hub R.SPOKE_LK_STATE (die - 2) (setBit (rd s1 hub R.SPOKE_LK_STATE (die - 2)) 3 on)

/-- Show the round trip of an exchange at both ends (R23). -/
def showRtt (s : State) (die hub rtt : Nat) : State :=
  if isHub die then wr (wr s 0 R.AXLE_LK_RTT 0 (rtt % 2 ^ 24)) 1 R.AXLE_LK_RTT 0 (rtt % 2 ^ 24)
  else wr (wr s die R.SPOKE_LK_RTT hub (rtt % 2 ^ 24)) hub R.SPOKE_LK_RTT (die - 2) (rtt % 2 ^ 24)

/-- An exchange over the Axle disciplines the hub that is not master, which follows the master (R84, R86, R92). -/
def axleExchange (s : State) : State :=
  let s1 := (hubs s).foldl (fun u h => noteSync (incrSat u h R.SYNC_MISS 0 (missed u h)) h u.now) s
  match masterHub s1 with
  | none => s1
  | some m =>
    let f := otherHub m
    if (ctr s1 m).valid then
      let s2 := setCtr (drew s1) f (disciplined (ctr s1 f) (ctr s1 m) (freeDeviation s1 2000))
      let d := leadPs (ctr s2 f) (ctr s2 m)
      let s3 := wr (wr s2 f R.PARTNER_OFFSET 0 (uns 32 d)) m R.PARTNER_OFFSET 0 (uns 32 (-d))
      if (tb s3 f).state = .follow then putTb s3 f (tb s3 f) else enterTb s3 f .follow
    else s1

/-- The counter that a compute die is held to: the master's, which a hub that is not master forwards corrected by its own
measured offset (R84); its hub's where no hub is master. -/
def discTo (s : State) (hub : Nat) : Nat := (masterHub s).getD hub

/-- A compute die's counter is set or held to the master's, with DISC_OFFSET (R84, R87, R113). -/
def discipline (s : State) (die hub : Nat) : State :=
  let m := discTo s hub
  let s1 := setCtr (drew s) die (disciplined (ctr s die) (ctr s m) (freeDeviation s 1500))
  setStatus (wr s1 die R.DISC_OFFSET 0 (uns 32 (leadPs (ctr s1 die) (ctr s1 m)))) die .timeCounter (1 + 2 * hub)

/-- TIME_SYNC_EXCHANGE, R85: an exchange over a Spoke (die 2 to 7) or the Axle (die 1) with a hub. -/
def execTimeSyncExchange (die hub rtt : Nat) (s : State) : Out :=
  if !(present s die && present s hub && domRun s die 5 && domRun s hub 5) || pairDown s die hub then .next s
  else
    let s1 := showPair (showRtt s die hub rtt) die hub true
    if isHub die then .next (axleExchange s1)
    else if discHub s1 die != hub then .next s1
    else
      let s2 := noteSync s1 die s1.now
      if (ctr s2 (discTo s2 hub)).valid then .next (discipline s2 die hub)
      else .next (setStatus s2 die .timeCounter (setBit (hdr s2 die .timeCounter).status 2 false))

/-- SYNC_EXCHANGE_LOSS, R86: three exchanges from the master are missed. A hub that is not yet valid becomes master and stays
UNSET (assumption 91). -/
def execSyncExchangeLoss (die : Nat) (s : State) : Out :=
  if !(domRun s die 5) || decide (s.now < lastSync s die + 3000) then .next s
  else if isHub die then
    let s1 := noteSync (incrSat s die R.SYNC_MISS 0 3) die (lastSync s die + 3000)
    let s2 := showPair s1 die (otherHub die) false
    if (tb s2 die).state = .follow then
      .next (hwEvent (makeMaster (enterTb s2 die .holdover) die) die .timeBase 5)
    else if die = 1 ∧ (tb s2 die).state = .unset ∧ !(tb s2 die).master then
      .next (hwEvent (makeMaster s2 die) die .timeBase 5)
    else .next s2
  else
    let h := discHub s die
    let st := (hdr s die .timeCounter).status
    let s1 := showPair (noteSync s die (lastSync s die + 3000)) die h false
    if present s (otherHub h) then
      .next (setStatus (incrSat s1 die R.DISC_SWITCH 0 1) die .timeCounter
        (setFld (setBit st 2 true) 1 1 (otherHub h)))
    else .next (setStatus s1 die .timeCounter (setBit st 2 true))

/-- COUNTER_SET_FROM_HUB, R87: a compute die's counter is set from its hub, where the master is valid. -/
def execCounterSetFromHub (die : Nat) (s : State) : Out :=
  let h := discHub s die
  if !(isHub die) && domRun s die 5 && !(ctr s die).valid && (ctr s (discTo s h)).valid && domRun s h 5 then
    .next (discipline s die h)
  else .next s

/-! ### Servo, references and grandmaster -/

/-- SLEW_END, R90: |x| ÷ SLEW_LIMIT has passed; SLEWING clears and the servo resumes with its integrator as it was. -/
def execSlewEnd (hub : Nat) (s : State) : Out :=
  if (tb s hub).slew.isSome && decide ((tb s hub).slewEnd ≤ s.now) && domRun s hub 5 then
    .next (refreshAddend (putTb s hub { tb s hub with slew := none }) hub)
  else .next s

/-- IRIG-B is valid after two consecutive frames that agree (R98). It stays valid, and labels every later edge with the last
frame's second, until a frame that is invalid or does not agree comes (DESIGN CHOICE, assumption 108). -/
def irigValid (t : TimeBase) : Bool := decide (2 ≤ t.irigRun) && t.irig.isSome

/-- Whether the hub is grandmaster (R98): IRIG-B and PPS_IN are valid, PPS_IN as the input PPS_LOCAL of R88 is. -/
def gmNow (s : State) (h : Nat) : Bool := irigValid (tb s h) && inputValid s h 1 && bit (rd s h R.AG_CTRL 0) 1

/-- Judge again whether the hub is grandmaster. -/
def refreshGm (s : State) (h : Nat) : State := putTb s h { tb s h with gm := gmNow s h }

/-- REF_TIMEOUT_EXPIRY, R88, R92: an input with no offset for REF_TIMEOUT becomes invalid. -/
def execRefTimeoutExpiry (hub input : Nat) (s : State) : Out :=
  if domRun s hub 5 && ((tb s hub).valid[input]?.getD false) && inputStale s hub input then
    let s1 := putTb s hub { tb s hub with valid := (tb s hub).valid.set input false }
    .next (refreshGm (reselect s1 hub) hub)
  else .next s

/-- PPS_IN_EDGE, R98: the edge is stamped, and with valid IRIG-B yields a PPS_LOCAL offset against the second of the last frame
(assumption 108). -/
def execPpsInEdge (hub : Nat) (s : State) : Out :=
  if !(domRun s hub 5) then .next s
  else
    let s1 := tickSrc s hub 297
    let t := tb s1 hub
    match t.irig with
    | some f =>
      if irigValid t then
        let edge : Int := (ctrTotal (ctr s1 hub) / 2 ^ 32 : Nat)
        let delay := divFree (sgn 32 (rd s1 hub R.PPS_DELAY 0) * 65536) 1000
        let sec : Int := ((f.utcSec + rd s1 hub R.UTC_OFFSET 0) * 1000000000 * 65536 : Nat)
        .next (refreshGm (offsetIn s1 hub 1 (edge - delay - sec)) hub)
      else .next s1
    | none => .next s1

/-- IRIG_B_FRAME, R98, R99: a frame labels the second, or sets IRIG_ERROR. -/
def execIrigBFrame (hub : Nat) (frame : Option Irig) (markError : Bool) (s : State) : Out :=
  if !(domRun s hub 5) then .next s
  else
    let t := tb s hub
    match frame with
    | none => .next (hwEvent (putTb s hub { t with irig := none, irigRun := 0, gm := false }) hub .timeBase 6)
    | some f =>
      let run := match t.irig with
        | some g => if g.utcSec + 1 = f.utcSec then min 2 (t.irigRun + 1) else 1
        | none => 1
      let s1 := putTb s hub { t with irig := some f, irigRun := run, leap := if f.leap then some (f.dayEnd, f.leapDelete) else t.leap }
      let s2 := refreshGm s1 hub
      let s3 := if markError then hwEvent s2 hub .timeBase 6 else s2
      .next (if f.leap then hwEvent s3 hub .timeBase 4 else s3)

/-- UTC_OFFSET once a leap second has been deleted or inserted (R99). -/
def leapOffset (v : Nat) (delete : Bool) : Nat := if delete then (v + 65535) % 65536 else (v + 1) % 65536

/-- LEAP_SECOND_APPLY, R99: at the UTC midnight that ends the announced day UTC_OFFSET changes by one. That midnight is the
first second of the next day, whose TAI the new offset gives: a day with an inserted second is a second longer, one with a
deleted second a second shorter. An announcement stands until it is applied, whatever frames follow it (assumption 109). -/
def execLeapSecondApply (hub : Nat) (s : State) : Out :=
  let t := tb s hub
  match t.leap with
  | some (dayEnd, delete) =>
    let v := leapOffset (rd s hub R.UTC_OFFSET 0) delete
    if domRun s hub 5 && (ctr s hub).valid && decide (dayEnd + v ≤ (ctr s hub).sec) then
      .next (putTb (wr s hub R.UTC_OFFSET 0 v) hub { t with leap := none })
    else .next s
  | none => .next s

/-- The time agent reports whether it has a parent clock (R88). -/
def setParent (s : State) (hub : Nat) (p : Bool) : State :=
  let s1 := reselect (putTb s hub { tb s hub with parent := p }) hub
  let o := otherHub hub
  if present s o && domRun s o 5 then reselect s1 o else s1

/-- ANNOUNCE_RECEIPT_TIMEOUT, R88, R100: the agent has no parent clock, and PTP_LOCAL becomes invalid. -/
def execAnnounceReceiptTimeout (hub : Nat) (s : State) : Out :=
  if domRun s hub 5 then .next (setParent (wr s hub R.AG_PARENT 0 0) hub false) else .next s

/-- The role of a port, AGP_CFG [1:0] (R103). -/
def agentRole (s : State) (hub port : Nat) : Nat := rd s hub R.AGP_CFG port % 4

/-- The portState that a port's role admits, by the enumeration of IEEE 1588 (3 DISABLED, 6 MASTER, 9 SLAVE): a disabled
port is DISABLED, a port that is master only is no slave, and one that is slave only is no master (R100, R103). -/
def roleState (role portState : Nat) : Nat :=
  match role with
  | 0 => 3
  | 2 => if portState = 8 ∨ portState = 9 then 6 else portState
  | 3 => if portState = 5 ∨ portState = 6 then 4 else portState
  | _ => portState

/-- AG_STATUS [5:1] (R103): whether some port is SLAVE, and which, the present one before others. -/
def slaveField (s : State) (hub port st : Nat) : Nat :=
  let slaves := (List.range 12).filter (fun p => rd s hub R.AGP_STATE p == 9)
  match slaves with
  | [] => setBit st 1 false
  | p :: _ => setFld (setBit st 1 true) 5 2 (if slaves.contains port then port else if slaves.contains (fld st 5 2) then fld st 5 2 else p)

/-- PTP_MESSAGE_RX, R100: a PTP message reaches the time agent, whose clock sets the port's state and delay as the port's
role admits, reports its parent's clockIdentity, its clockClass and its firmware's version (R103), and may write an offset
through OFFSET_IN. What the clock finds in the message is IEEE 1588's (R5), so it comes with the row. -/
def execPtpMessageRx (hub port portState delay : Nat) (parent : Option Nat) (clockClass version : Nat)
    (offset : Option Int) (s : State) : Out :=
  if domRun s hub 5 && bit (rd s hub R.AG_CTRL 0) 0 then
    let w := swOf s hub
    let s0 := setSw s hub { w with toP15 := w.toP15.eraseP (fun f => f.frame.etype == 0x88F7) }
    let ps := roleState (agentRole s hub port) (portState % 16)
    let s1 := wr (wr s0 hub R.AGP_STATE port ps) hub R.AGP_DELAY port delay
    let st := rd s1 hub R.AG_STATUS 0
    let slave := decide (ps = 9)
    let s2 := wr s1 hub R.AG_STATUS 0
      (setFld (setFld (slaveField s1 hub port st) 15 8 clockClass) 31 16 version)
    let s3 := setParent (wr s2 hub R.AG_PARENT 0 (parent.getD 0)) hub parent.isSome
    match (if slave then offset else none) with
    | none => .next s3
    | some x =>
      let s4 := countWrite (wr (wr s3 hub R.OFFSET_IN 0 (uns 64 x)) hub R.OFFSET_IN_CTS 0 (ctsNow s3 hub)) hub .timeBase
        ⟨104 + hub, none⟩
      .next (offsetIn s4 hub 0 x)
  else .next s

/-! ### Commands of TIME_BASE (R93) -/

/-- The state of a time base lies in a list. -/
def tbIn (s : State) (h : Nat) (l : List TbState) : Bool := l.contains (tb s h).state

/-- The checks of a TIME_BASE opcode legal in a list of states. -/
def tbChecks (l : List TbState) (s : State) (x : Ctx) : Checks :=
  { Checks.pass with idle := pageIdle s x, legal := tbIn s x.die l }

/-- The states in which the servo's opcodes are legal (R93). -/
def servoStates : List TbState := [.free, .acquire, .locked, .holdover]

/-- SET_TIME, R93, R619. -/
def setTime (h : Nat) (s : State) : State :=
  let m := if domRun s 0 5 then 0 else h
  let s1 := setAllCtrs s ((rd s h R.SET_SEC 0 * 1000000000 + rd s h R.SET_NS 0) * 2 ^ 48)
  let s2 := enterTb (makeMaster s1 m) m .free
  let o := otherHub m
  if present s o && domRun s o 5 then enterTb s2 o .follow else s2

/-- The checks of SET_TIME. -/
def checksSetTime (t : State) (x : Ctx) : Checks :=
  { tbChecks [.unset] t x with argOk := decide (rd t x.die R.SET_NS 0 ≤ 999999999) }

/-- The effect of SET_TIME. -/
def effectSetTime (x : Ctx) (t : State) : Effect :=
  .done (setTime x.die t)

/-- SET_TIME, R93. -/
def execSetTime (c : Cmd) (s : State) : Out :=
  command s c .timeBase 0x10 checksSetTime effectSetTime

/-- The checks of STEP. -/
def checksStep (t : State) (x : Ctx) : Checks :=
  { tbChecks servoStates t x with
    argOk := decide ((sgn 64 (rd t x.die R.STEP_AMOUNT 0)).natAbs ≤ stepLimit t x.die) }

/-- The effect of STEP. -/
def effectStep (x : Ctx) (t : State) : Effect :=
  .accepted { t with steps := t.steps ++
    [⟨sgn 64 (rd t x.die R.STEP_AMOUNT 0) * 65536, t.now + 10000, x.die, true, false⟩] }

/-- STEP, R91, R93: the step acts at least 10 µs after the grant. -/
def execStep (c : Cmd) (s : State) : Out :=
  command s c .timeBase 0x11 checksStep effectStep

/-- The effect of SELECT_REF. -/
def effectSelectRef (x : Ctx) (t : State) : Effect :=
  .done (reselect (putTb t x.die { tb t x.die with held := false }) x.die)

/-- SELECT_REF, R93: release a HOLD and select again. -/
def execSelectRef (c : Cmd) (s : State) : Out :=
  command s c .timeBase 0x12 (tbChecks servoStates) effectSelectRef

/-- The effect of HOLD. -/
def effectHold (x : Ctx) (t : State) : Effect :=
  .done (enterTb (putTb t x.die { tb t x.die with held := true }) x.die .holdover)

/-- HOLD, R93: enter HOLDOVER and stay there. -/
def execHold (c : Cmd) (s : State) : Out :=
  command s c .timeBase 0x13 (tbChecks [.acquire, .locked]) effectHold

/-- The checks of TAKE_MASTER. -/
def checksTakeMaster (t : State) (x : Ctx) : Checks :=
  { tbChecks [.follow] t x with
    legal := tbIn t x.die [.follow] && present t (otherHub x.die) && (ctr t (otherHub x.die)).valid }

/-- The effect of TAKE_MASTER. -/
def effectTakeMaster (_ : Ctx) (t : State) : Effect :=
  .accepted t

/-- TAKE_MASTER, R93: legal in FOLLOW while the other hub is valid. -/
def execTakeMaster (c : Cmd) (s : State) : Out :=
  command s c .timeBase 0x14 checksTakeMaster effectTakeMaster

/-- The same physical source in the partner's numbering (R619). -/
def swapSource (i : Nat) : Nat := if i < 2 then i + 2 else i - 2

/-- The new master takes over its partner's servo, and the partner enters FOLLOW (R619), where it has no HOLD and slews
nothing (assumption 92). -/
def takeMaster (s : State) (h : Nat) : State :=
  let o := otherHub h
  let p := tb s o
  let a := rd s o R.ADDEND 0
  let corr := divFree (((addendNominal : Int) + sgn 64 (rd s h R.FREQ_TRIM 0) - a) * 1000000000) (2 ^ 32)
  let s1 := wr s h R.SERVO_CORR 0 (uns 64 corr)
  let s2 := putTb s1 h { tb s1 h with
    state := p.state, held := p.held, heldRate := p.heldRate, holdSince := p.holdSince
    src := p.src.map swapSource, fresh := false, inWindow := 0, outWindow := 0, slew := none }
  let s3 := enterTb (makeMaster s2 h) o .follow
  refreshInputs (noteRates (wr s3 h R.ADDEND 0 a)) h

/-- TAKE_MASTER_DONE, R93, R619: the handover ends with DONE, or with ABORTED when the other hub is no longer valid. -/
def execTakeMasterDone (hub : Nat) (s : State) : Out :=
  match runningOp s hub .timeBase 0x14 with
  | none => .next s
  | some t =>
    if present s (otherHub hub) && domRun s (otherHub hub) 5 && (ctr s (otherHub hub)).valid then
      .next (finish (takeMaster s hub) hub .timeBase t .done 0)
    else .next (finish s hub .timeBase t .aborted 0)

/-- The effect of RESET_SERVO. -/
def effectResetServo (x : Ctx) (t : State) : Effect :=
  .done ((List.range 4).foldl (fun u i => wr u x.die R.SV_INTEG i 0) t)

/-- RESET_SERVO, R93: clear the integrators of all four inputs. -/
def execResetServo (c : Cmd) (s : State) : Out :=
  command s c .timeBase 0x15 (tbChecks servoStates) effectResetServo

/-- What the release of TIME brings on a die (R84, R86, R92). -/
def timeReleased (s : State) (die : Nat) : State :=
  let s1 := noteSync (setCtr s die Ctr.empty) die s.now
  if isHub die then
    let s2 := putTb s1 die TimeBase.empty
    let o := otherHub die
    let oRuns := present s o && domRun s o 5
    if die = 0 then
      if oRuns && (ctr s o).valid then s2 else makeMaster s2 0
    else if oRuns then s2 else makeMaster s2 1
  else setStatus s1 die .timeCounter 0

/-- REFCLK_LOSS, R519: REFCLK stops at a die's balls; the ticks already counted of a gap are kept, and the fastest ring
oscillator counts on. -/
def execRefclkLoss (die : Nat) (s : State) : Out :=
  let r := rstOf s die
  .next (if present s die && r.refclk then
    setRst s die { r with refclk := false, gapAt := if r.gapDone then r.gapAt else r.gapAt + (s.now - r.gapAt) / 5 } else s)

/-- REFCLK_RETURN, R519: REFCLK returns; the ticks already counted are kept. -/
def execRefclkReturn (die : Nat) (s : State) : Out :=
  let r := rstOf s die
  .next (if present s die && !r.refclk then
    setRst s die { r with refclk := true, gapAt := if r.gapDone then r.gapAt else r.gapAt - (s.now - r.gapAt) / 4 } else s)

end Sys2Proof.Machine
end

