-- ==== Sys2Proof/Machine/Ingest.lean ====
section
/-!
DEFINITION. Sys2Proof/Machine/Ingest.lean: sampled-value ingest and the rehoming of streams (R180 to R183, R195 to R222,
R620).
-/
namespace Sys2Proof.Machine

/-! ### Entries -/

/-- A stream entry in force. -/
def streamOf (s : State) (hub i : Nat) : Option Stream := s.streams.lookup (streamKey hub i)

/-- Set a stream entry. -/
def putStream (s : State) (hub i : Nat) (e : Stream) : State := { s with streams := mput (streamKey hub i) e s.streams }

/-- Channels and ASDUs of a frame (R220). -/
def Stream.channels (e : Stream) : Nat := fld e.cfg 21 16
def Stream.asdus (e : Stream) : Nat := fld e.cfg 15 12 + 1
def Stream.policy (e : Stream) : Nat := fld e.cfg 5 4

/-- Slots of a stream (R199). -/
def Stream.slotCount (e : Stream) : Nat := (delivered e).length * ceilDiv e.rate 14400

/-- The VI to which a stream's slots are charged (R217). -/
def Stream.charged (e : Stream) : Nat := ((e.dests.find? (fun d => d.valid)).map (fun d => d.vi)).getD 0

/-- An EVENT bit of SV_INGEST with its stream (R218). -/
def inEvent (s : State) (hub i n : Nat) : State :=
  let s1 := hwEvent s hub .svIngest n
  if n ≤ 5 then wr s1 hub R.IN_EVENT_STREAM 0 i else s1

/-- Set ST_STATE.STATE; each change sets STATE_CHANGE (R214, R218). -/
def putSt (s : State) (hub i st : Nat) : State :=
  if rd s hub R.ST_STATE i % 4 = st then s
  else inEvent (wr s hub R.ST_STATE i (setFld (rd s hub R.ST_STATE i) 1 0 st)) hub i 6

/-- Slots in use at a hub by home entries, of one VI or of all (R200, R217). -/
def slotsUsed (s : State) (hub : Nat) (vi : Option Nat) : Nat :=
  ((s.streams.filter (fun e => e.1 / 1024 == hub && e.2.home == hub &&
    (match vi with | none => true | some v => e.2.charged == v))).map (fun e => e.2.slotCount)).sum

/-! ### Authentication (R201 to R203) -/

/-- What stage 2 says of a copy. -/
inductive AuthResult where
  | drop | clean | marked
  deriving DecidableEq, Repr

/-- Count an authentication result of a stream with EVENT AUTH_FAIL (R202, R203, R588). -/
def authCount (s : State) (hub i : Nat) (rs : List Reg) : State :=
  cyc (inEvent (rs.foldl (fun t r => incr t hub r i 1) s) hub i 1) hub .svIngest 0x13 i 1 none

/-- Stage 2 of R195. -/
def authStage (s : State) (hub i : Nat) (e : Stream) (fin : FrameIn) : State × AuthResult :=
  if e.policy = 0 then (s, .clean)
  else
    let slot := e.key % 1024
    let r := verifyFrame s hub slot (fld e.key 10 10) fin.cts fin.frame
    if r.1 = 0 then (incr (authPass s hub r.2) hub R.FA_SV_PASS 0 1, .clean)
    else
      let s1 := authFail s hub 0 r.1 i fin.cts
      if !(pipelineOpen s hub) then
        (authCount s1 hub i [R.AUTH_SEALED], if sealedDrop s hub then .drop else .marked)
      else if e.policy = 1 then (authCount s1 hub i [R.AUTH_FAIL], .marked)
      else (authCount s1 hub i [R.AUTH_FAIL, R.AUTH_DROP], .drop)

/-! ### Instants, order and quality (R204 to R208) -/

/-- A place on a stream's grid (R204, R206): the count that runs on from second to second, and the instant in ns since the
epoch. -/
structure GridPlace where
  count : Nat
  at_ : Nat
  deriving DecidableEq, Repr

/-- Counts of a second whose low 16 bits are an smpCnt (R204). -/
def countsOf (n c : Nat) : List Nat := ((List.range 6).map (fun j => c + 65536 * j)).filter (fun k => decide (k < n))

/-- R204: the latest candidate not later than the ingress instant. -/
def latestPlace (n c tIn : Nat) : Option GridPlace :=
  let sec := tIn / 1000000000
  let secs := if sec = 0 then [0] else [sec - 1, sec]
  let cands := secs.flatMap (fun y => (countsOf n c).map (fun k => GridPlace.mk (y * n + k) (y * 1000000000 + k * 1000000000 / n)))
  (cands.filter (fun p => decide (p.at_ ≤ tIn))).foldl (fun b p => match b with
    | none => some p
    | some q => if q.at_ ≤ p.at_ then some p else some q) none

/-- R206: the count in which an instant falls. -/
def gridCount (n t : Nat) : Nat := t / 1000000000 * n + t % 1000000000 * n / 1000000000

/-- R205 applies to an ASDU. -/
def unsynced (e : Stream) (a : Asdu) : Bool :=
  bit e.cfg 9 || !(a.smpSynch == 2 || (decide (5 ≤ a.smpSynch ∧ a.smpSynch ≤ 254) && (a.smpSynch == e.gmid || bit e.cfg 8)))

/-- The place of an ASDU (R204, R205). -/
def gridPlaceOf (e : Stream) (tIn : Nat) (a : Asdu) : Option GridPlace :=
  if unsynced e a then some ⟨gridCount e.rate (tIn - e.delay), tIn - e.delay⟩ else latestPlace e.rate a.smpCnt tIn

/-- Device flags of a channel (R208) from its quality word and the flags of its ASDU. -/
def ingestFlags (e : Stream) (q base : Nat) : Nat :=
  let invalid := q % 4 == 1 || q % 4 == 2 || bit q 6 || bit q 4 || bit base 13
  let good := (q % 4 == 0 || (q % 4 == 3 && bit e.cfg 6)) && !(bit q 12) && !invalid && !(bit base 8)
  base ||| b2n good ||| (if bit q 2 || bit q 3 then 2 ^ 7 else 0) ||| (if bit q 10 then 2 ^ 6 else 0) |||
    (if bit q 11 then 2 ^ 5 else 0) ||| (if invalid then 2 ^ 13 else 0)

/-- The delivered samples of an ASDU. -/
def asduSamples (e : Stream) (a : Asdu) (base : Nat) : List ChSample :=
  (delivered e).map (fun c => ⟨a.values[c]?.getD 0, ingestFlags e (a.quality[c]?.getD 0) base⟩)

/-- What the window of R206 says of a count. -/
inductive Order where
  | accepted (missed : Nat)
  | duplicate (failed : Bool)
  | late
  deriving DecidableEq, Repr

/-- The duplicate and order check of R206. -/
def orderOf (e : Stream) (count : Nat) : Order :=
  match e.newest with
  | none => .accepted 0
  | some n =>
    if n < count then .accepted (count - n - 1)
    else if n - count ≤ 64 ∧ bit e.seen (n - count) then .duplicate (bit e.failed (n - count))
    else .late

/-- The window after a count was accepted: bit d stands for the newest count less d. -/
def slide (e : Stream) (p : GridPlace) (marked : Bool) : Stream :=
  let d := match e.newest with
    | none => 65
    | some n => min 65 (p.count - n)
  { e with newest := some p.count, newestNs := p.at_,
           seen := (e.seen * 2 ^ d + 1) % 2 ^ 65, failed := (e.failed * 2 ^ d + b2n marked) % 2 ^ 65, fresh := false }

/-- The part that a hub takes in a stream for an instant (R183): it writes, it only warms its filter up, or neither. -/
inductive Part where
  | writes | warms | idle
  deriving DecidableEq, Repr

/-- A planned rehome has warmed a stream up at a hub (R183). -/
def warmHere (s : State) (hub i : Nat) : Bool :=
  match (laneOf s hub).plan with
  | some p => p.warm && p.streams.contains i
  | none => false

/-- The part of a hub. -/
def partOf (s : State) (hub i : Nat) (e : Stream) (t : Nat) : Part :=
  let home := if t < e.cutNs then e.prevHome else e.home
  if home = hub then .writes else if e.home = hub || warmHere s hub i then .warms else .idle

/-- A hub takes copies of a stream past stage 1: it is the home or warms up, or an instant before a planned rehome is still
its own. -/
def takesPart (s : State) (hub i : Nat) (e : Stream) (tIn : Nat) : Bool :=
  e.home == hub || warmHere s hub i || (e.prevHome == hub && decide (tIn < e.cutNs + fld e.timing 16 0 * 1000))

/-- The counts of an accepted ASDU of a stream that is not warming, with the samples missed before it (R207). -/
def countAccepted (s : State) (hub i : Nat) (e : Stream) (missed : Nat) : State :=
  let s1 := putStream s hub i { e with
    gapTotal := (e.gapTotal + missed) % 2 ^ 64
    dests := e.dests.map (fun d => { d with gapTotal := (d.gapTotal + missed) % 2 ^ 64 }) }
  let s2 := if missed = 0 then s1
    else cyc (inEvent (incr s1 hub R.GAP_SAMPLES i missed) hub i 2) hub .svIngest 0x12 i missed none
  cyc (incr s2 hub R.ASDU_WRITTEN i 1) hub .svIngest 0x10 i 1 none

/-- One ASDU at stage 4 (R204 to R208). -/
def takeAsdu (hub i lane : Nat) (tIn : Nat) (sim marked : Bool) (r : State × List Accepted) (a : Asdu) : State × List Accepted :=
  let s := r.1
  match streamOf s hub i with
  | none => r
  | some e =>
    if e.rate ≤ 65536 ∧ e.rate ≤ a.smpCnt then (incr s hub R.DECODE_DROP i 1, r.2)
    else match gridPlaceOf e tIn a with
    | none => (incr s hub R.LATE_DROP i 1, r.2)
    | some p =>
      if !(unsynced e a) && decide (e.timing % 2 ^ 17 * 1000 < tIn - p.at_) then (incr s hub R.LATE_DROP i 1, r.2)
      else
        let part := partOf s hub i e p.at_
        if part = .idle then r
        else match orderOf e p.count with
        | .duplicate f =>
          (cyc (incr s hub (if f then R.DUP_AFTER_FAIL else R.SV_INGEST_DUP_DISCARD) i 1) hub .svIngest 0x11 i 1 none, r.2)
        | .late => (incr s hub R.ORDER_DROP i 1, r.2)
        | .accepted missed =>
          let base := (if lane = 0 then 2 ^ 9 else 2 ^ 10) + (if marked then 2 ^ 8 else 0) + (if sim then 2 ^ 5 else 0) +
            (if masterLocked s then 0 else 2 ^ 11) + (if missed = 0 then 0 else 2 ^ 4) + (if unsynced e a then 2 ^ 13 else 0)
          let acc : Accepted := ⟨p.count, p.at_, missed, decide (part = .warms), e.fresh, asduSamples e a base⟩
          let e1 := slide e p marked
          let s1 := wrAll s hub i [(R.ST_LAST_CNT, p.count % e.rate), (R.ST_LAST_CTS, ctsOfNs p.at_)]
          (if part = .warms then putStream s1 hub i e1 else countAccepted s1 hub i e1 missed, r.2 ++ [acc])

/-- Something was accepted or received for a stream (R214). -/
def heard (s : State) (hub i : Nat) : State :=
  match streamOf s hub i with
  | none => s
  | some e => putSt (putStream s hub i { e with heardAt := s.now }) hub i 2

/-- The svID of a frame differs from ST_SVID (R196). -/
def svidDiffers (e : Stream) (f : Frame) : Bool :=
  match f.content with
  | .sv _ _ asdus => bit e.cfg 3 && asdus.any (fun a => decide (64 < a.svId.length) ||
      decide (a.svId ++ List.replicate (64 - a.svId.length) 0 ≠ e.svid))
  | _ => false

/-- Stages 3 and 4 of R195, with the frame checks in the order in which R195 and R197 list them. What a home accepts makes
its stream RUN; a shadow's RUN follows the copies of its own lane (R214). -/
def frameStage (s : State) (hub i : Nat) (e : Stream) (fin : FrameIn) (marked : Bool) : State :=
  let tIn := ctsNs (ctr s hub).sec fin.cts
  let c : Bool × Bool × List Asdu := match fin.frame.content with
    | .sv ok sim asdus => (ok, sim, asdus)
    | _ => (false, false, [])
  if c.1 && c.2.2.any (fun a => decide (a.confRev ≠ e.confrev)) then inEvent (incr s hub R.CONFREV_DROP i 1) hub i 3
  else if svidDiffers e fin.frame then incr s hub R.SVID_DROP i 1
  else if c.2.1 && !(bit e.cfg 7) then incr s hub R.SIM_DROP i 1
  else if !c.1 || decide (c.2.2.length ≠ e.asdus) || c.2.2.any (fun a => decide (a.values.length ≠ e.channels)) then
    incr s hub R.DECODE_DROP i 1
  else
    let r := c.2.2.foldl (takeAsdu hub i fin.lane tIn c.2.1 marked) (s, [])
    if r.2.isEmpty then r.1
    else
      let s1 := { r.1 with batches := r.1.batches ++ [⟨hub, i, r.2⟩] }
      if e.home = hub then heard s1 hub i else s1

/-- A copy past stage 1 (R195). -/
def pastMatch (s : State) (hub i : Nat) (e : Stream) (fin : FrameIn) : State :=
  let a := authStage s hub i e fin
  if a.2 = .drop then a.1 else frameStage a.1 hub i e fin (decide (a.2 = .marked))

/-- A stream takes copies from a lane (R220). -/
def laneTaken (e : Stream) (lane : Nat) : Bool := bit e.cfg (1 + lane % 2)

/-- A copy of a sampled-value frame at P14 (R195, R531). -/
def svCopy (s : State) (hub : Nat) (fin : FrameIn) : State :=
  let f := fin.frame
  match svEntry s hub f with
  | none => hwEvent (wr (incr s hub R.IN_UNMATCHED 0 1) hub R.IN_UNMATCHED_KEY 0 (f.appid % 65536)) hub .svIngest 4
  | some i =>
    match streamOf s hub i with
    | none => s
    | some e =>
      if !(laneTaken e fin.lane) || !(ctr s hub).valid then s
      else
        let s1 := incr s hub (if fin.lane = 0 then R.FRAMES_A else R.FRAMES_B) i 1
        let s2 := if e.home != hub && decide (fin.port < 12) then heard s1 hub i else s1
        if takesPart s2 hub i e (ctsNs (ctr s hub).sec fin.cts) then pastMatch s2 hub i e fin else s2

/-- SV_COPY_INGEST, R195: the oldest frame copy at a hub's P14. -/
def execSvCopyIngest (hub : Nat) (s : State) : Out :=
  let w := swOf s hub
  match w.toP14 with
  | [] => .next s
  | fin :: rest =>
    let s1 := setSw s hub { w with toP14 := rest }
    .next (if domRun s hub 8 then svCopy s1 hub fin else s1)

/-- STREAM_STALE, R214. -/
def execStreamStale (hub i : Nat) (s : State) : Out :=
  match streamOf s hub i with
  | none => .next s
  | some e =>
    if domRun s hub 8 && rd s hub R.ST_STATE i % 4 == 2 && decide (e.heardAt + e.stale % 2 ^ 20 * 1000 ≤ s.now) then
      .next (inEvent (incr (putSt (putStream s hub i { e with fresh := true }) hub i 3) hub R.STALE_COUNT i 1) hub i 0)
    else .next s

/-! ### SV_INGEST commands (R215 to R217) -/

/-- The staged entry of an instance (R215). -/
def stagedStream (s : State) (hub i : Nat) : Stream :=
  { match0 := rd s hub R.ST_MATCH0 i, match1 := rd s hub R.ST_MATCH1 i, cfg := rd s hub R.ST_CFG i
    rate := rd s hub R.ST_RATE i, confrev := rd s hub R.ST_CONFREV i, slots := rd s hub R.ST_SLOTS i
    chmask := rd s hub R.ST_CHMASK i, key := rd s hub R.ST_KEY i, timing := rd s hub R.ST_TIMING i
    stale := rd s hub R.ST_STALE i, delay := rd s hub R.ST_DELAY i, gmid := rd s hub R.ST_GMID i
    svid := (List.range 16).flatMap (fun k => bytesLE 4 (rd s hub (R.ST_SVID.nth k) i))
    dests := (List.range 4).map (fun n => Dest.load (rd s hub (R.DEST_CFG.nth n) i) (rd s hub (R.DEST_ITEM.nth n) i)
      (rd s hub (R.DEST_BASE.nth n) i))
    home := rd s hub R.ST_CFG i % 2, prevHome := rd s hub R.ST_CFG i % 2, cutNs := 0
    newest := none, newestNs := 0, seen := 0, failed := 0, gapTotal := 0, fresh := true, heardAt := s.now }

/-- LATE_LIMIT and ST_STALE lie in their ranges (R219). -/
def timingOk (s : State) (hub i : Nat) : Bool :=
  let t := rd s hub R.ST_TIMING i
  let x := rd s hub R.ST_STALE i
  decide (100 ≤ t ∧ t ≤ 100000 ∧ 100 ≤ x ∧ x ≤ 1000000)

/-- N, NOF_ASDU and CHANNELS of R198; the standard rates are its case of one ASDU. -/
def rateOk (e : Stream) : Bool :=
  decide (1 ≤ e.channels ∧ e.channels ≤ 32 ∧ 0 < e.rate ∧ e.rate % 4800 = 0 ∧ e.rate ≤ 384000 ∧ e.rate % e.asdus = 0 ∧ e.rate / e.asdus ≤ 96000)

/-- Slot ranges of two entries overlap (R200). -/
def slotsMeet (a b : Stream) : Bool :=
  decide (a.slots % 4096 < b.slots % 4096 + b.slotCount ∧ b.slots % 4096 < a.slots % 4096 + a.slotCount)

/-- The checks of R217 that answer BAD_ARG. -/
def streamOk (s : State) (hub i : Nat) (e : Stream) : Bool :=
  let others := s.streams.filter (fun o => o.1 / 1024 == hub && o.1 % 1024 != i)
  rateOk e && decide (e.chmask ≠ 0 ∧ e.chmask < 2 ^ e.channels ∧ e.slots % 4096 + e.slotCount ≤ 4096) &&
  others.all (fun o => !(slotsMeet o.2 e) && !(o.2.match0 == e.match0 && o.2.match1 == e.match1)) &&
  present s e.home && timingOk s hub i && e.dests.any (fun d => d.valid) && e.dests.all (fun d => !d.valid || destOk s d)

/-- The filter-slot share in force of a VI (R335). -/
def slotShare (s : State) (v : Nat) : Nat := rd s (viHome s v) R.SHF_SLOTS v

/-- The share of the charged VI takes a stream (R217). -/
def shareTakes (s : State) (e : Stream) : Bool :=
  decide (((hubs s).map (fun h => slotsUsed s h (some e.charged))).sum + e.slotCount ≤ slotShare s e.charged)

/-- The slots of the home hub take a stream (R217). -/
def slotsTake (s : State) (hub : Nat) (e : Stream) : Bool := decide (slotsUsed s hub none + e.slotCount ≤ 4096)

/-- The checks of ST_ENABLE. -/
def checksStEnable (t : State) (x : Ctx) : Checks :=
  { swChecks (streamOk t x.loc x.inst (stagedStream t x.loc x.inst)) t x with legal := (streamOf t x.loc x.inst).isNone }

/-- The effect of ST_ENABLE. -/
def effectStEnable (x : Ctx) (t : State) : Effect :=
  let e := stagedStream t x.loc x.inst
  let home := decide (e.home = x.loc)
  if home && !(slotsTake t x.loc e) then ⟨t, .noResource, 0⟩
  else if home && !(shareTakes t e) then ⟨shareRefuse t e.charged, .noResource, 0⟩
  else
    let t0 := (List.range e.dests.length).foldl (fun u n => unhold u ⟨0, x.loc, x.inst, n⟩) t
    let t1 := wrAll (putStream t0 x.loc x.inst e) x.loc x.inst [(R.ST_STATE, rd t x.loc R.ST_STATE x.inst % 4), (R.ST_LAST_CNT, 0), (R.ST_LAST_CTS, 0)]
    let t2 := if home then e.dests.zipIdx.foldl (fun u d => initRing u x.loc ⟨0, x.loc, x.inst, d.2⟩ d.1 x.inst (delivered e).length) t1 else t1
    let t3 := checkFallback t2 x.loc x.inst
    .done (putSt (setFilter t3 x.loc x.inst { filterOf t3 x.loc x.inst with restart := false, chans := [] }) x.loc x.inst 1)

/-- ST_ENABLE, R216, R217. -/
def execStEnable (c : Cmd) (s : State) : Out :=
  command s c .svIngest 0x10 checksStEnable effectStEnable

/-- The stream is not DISABLED. -/
def streamOn (t : State) (x : Ctx) : Bool := (streamOf t x.loc x.inst).isSome

/-- Batches of a stream that a command lets complete first. -/
def completeBatches (s : State) (hub i : Nat) : State :=
  let mine := s.batches.filter (fun b => b.hub == hub && b.stream == i)
  mine.foldl visitBatch { s with batches := s.batches.filter (fun b => !(b.hub == hub && b.stream == i)) }

/-- A stream leaves a planned rehome (R216). -/
def dropFromPlan (s : State) (hub i : Nat) : State :=
  let l := laneOf s hub
  match l.plan with
  | none => s
  | some p => setLane s hub { l with plan := some { p with streams := p.streams.filter (fun k => k != i) } }

/-- The checks of ST_DISABLE. -/
def checksStDisable (t : State) (x : Ctx) : Checks :=
  { swChecks true t x with legal := streamOn t x }

/-- The effect of ST_DISABLE. -/
def effectStDisable (x : Ctx) (t : State) : Effect :=
  let t1 := completeBatches t x.loc x.inst
  let t2 := (hubs t1).foldl (fun u h => dropFromPlan u h x.inst) t1
  let t3 := { t2 with streams := mdel (streamKey x.loc x.inst) t2.streams }
  let t4 := putSt t3 x.loc x.inst 0
  .done (wr t4 x.loc R.ST_STATE x.inst 0)

/-- ST_DISABLE, R216: copies in progress are completed; a pending REHOME drops the stream. -/
def execStDisable (c : Cmd) (s : State) : Out :=
  command s c .svIngest 0x11 checksStDisable effectStDisable

/-- The checks of ST_TUNE. -/
def checksStTune (t : State) (x : Ctx) : Checks :=
  { swChecks (timingOk t x.loc x.inst) t x with legal := streamOn t x }

/-- The effect of ST_TUNE. -/
def effectStTune (x : Ctx) (t : State) : Effect :=
  match streamOf t x.loc x.inst with
    | none => .done t
    | some e =>
      let n := rd t x.loc R.ST_CFG x.inst
      .done (putStream t x.loc x.inst { e with
        cfg := setFld (setFld e.cfg 6 6 (fld n 6 6)) 5 4 (fld n 5 4)
        timing := rd t x.loc R.ST_TIMING x.inst, stale := rd t x.loc R.ST_STALE x.inst })

/-- ST_TUNE, R215, R216. -/
def execStTune (c : Cmd) (s : State) : Out :=
  command s c .svIngest 0x12 checksStTune effectStTune

/-- The counters of R221. -/
def ingestCounters : List Reg :=
  [R.FRAMES_A, R.FRAMES_B, R.ASDU_WRITTEN, R.SV_INGEST_DUP_DISCARD, R.GAP_SAMPLES, R.LATE_DROP, R.ORDER_DROP, R.AUTH_FAIL,
   R.AUTH_DROP, R.AUTH_SEALED, R.DUP_AFTER_FAIL, R.CONFREV_DROP, R.DECODE_DROP, R.SIM_DROP, R.SVID_DROP, R.STALE_COUNT, R.DEST_FAULT]

/-- The checks of INGEST_CLEAR_COUNTERS. -/
def checksIngestClearCounters (t : State) (x : Ctx) : Checks :=
  swChecks (decide (x.argument < 1024 ∨ x.argument = 0xFFFF)) t x

/-- The effect of INGEST_CLEAR_COUNTERS. -/
def effectIngestClearCounters (x : Ctx) (t : State) : Effect :=
  .done (if x.argument = 0xFFFF then clearInsts t x.loc 0 1024 ingestCounters else clearRegs t x.loc x.argument ingestCounters)

/-- INGEST_CLEAR_COUNTERS, R216. -/
def execIngestClearCounters (c : Cmd) (s : State) : Out :=
  command s c .svIngest 0x13 checksIngestClearCounters effectIngestClearCounters

/-- The checks of DEST_RESTART. -/
def checksDestRestart (t : State) (x : Ctx) : Checks :=
  { swChecks true t x with legal := streamOn t x }

/-- The effect of DEST_RESTART. -/
def effectDestRestart (x : Ctx) (t : State) : Effect :=
  match streamOf t x.loc x.inst with
    | none => .done t
    | some e =>
      let n := x.sub % 4
      let ds := e.dests.zipIdx.map (fun d => if d.2 = n && d.1.faulted then { d.1 with faulted := false, gap := true } else d.1)
      .done (wr (putStream t x.loc x.inst { e with dests := ds }) x.loc R.ST_STATE x.inst
        (setBit (rd t x.loc R.ST_STATE x.inst) (4 + n) false))

/-- DEST_RESTART, R216, R211. -/
def execDestRestart (c : Cmd) (s : State) : Out :=
  command s c .svIngest 0x14 checksDestRestart effectDestRestart

/-! ### Rehoming (R181 to R183, R251, R620) -/

/-- The streams of a hub that the other hub serves. -/
def otherHomed (s : State) (hub : Nat) : List Nat :=
  (s.streams.filter (fun e => e.1 / 1024 == hub && e.2.home != hub)).map (fun e => e.1 % 1024)

/-- A detector of a stream restarts (R251). -/
def detRestart (s : State) (hub i : Nat) : State :=
  (s.dets.filter (fun e => e.1 / 1024 == hub && e.2.stream == i)).foldl (fun t e =>
    let d := { e.2 with window := [], taken := 0, gapped := false, e := 0, fast := false, slow := false, fastAt := 0, slowAt := 0, blockedAt := 0, dest := { e.2.dest with sync := true } }
    putDetState { t with dets := mput e.1 d t.dets } hub (e.1 % 1024) d false false) s

/-- The ring from which a new home reads where the old one stopped (R182): the first in a sample store, else the first. -/
def homeRing (e : Stream) : Option Dest :=
  match e.dests.find? (fun d => d.valid && !d.inVi) with
  | some d => some d
  | none => e.dests.find? (fun d => d.valid)

/-- The count whose instant a record carries (R204, R206): the one that R204 places there, else the one in which it falls. -/
def placeCount (n t : Nat) : Nat :=
  let k := gridCount n (t + 1)
  if k / n * 1000000000 + k % n * 1000000000 / n = t then k else gridCount n t

/-- One stream moves to a hub that has lost the other (R182, R620), with its shadow frames. -/
def forceHome (hub : Nat) (s : State) (i : Nat) : State :=
  match streamOf s hub i with
  | none => s
  | some e =>
    let newest := match homeRing e with
      | some d => ringWord s d 8
      | none => 0
    let at_ := ctsNs (ctr s hub).sec newest
    let e1 := { e with
      home := hub, prevHome := hub, cutNs := 0, fresh := true, gapTotal := 0
      dests := e.dests.map (fun d => { d with gapTotal := 0, sync := true })
      newest := if newest = 0 then none else some (placeCount e.rate at_), newestNs := at_, seen := 1, failed := 0 }
    detRestart (putStream s hub i e1) hub i

/-- The places of a frame's ASDUs on a stream's grid, none of a frame that is no sampled values. -/
def framePlaces (s : State) (hub : Nat) (e : Stream) (f : FrameIn) : List (Option GridPlace) :=
  match f.frame.content with
  | .sv _ _ asdus => asdus.map (gridPlaceOf e (ctsNs (ctr s hub).sec f.cts))
  | _ => []

/-- The shadow frames of a stream from the lanes that it takes, in the order of their sample counts (R182, R220), but for those
that are older than SHADOW_DEPTH (R180). -/
def shadowOf (s : State) (hub i : Nat) : List FrameIn :=
  match streamOf s hub i with
  | none => []
  | some e => sortBy (fun f => (((framePlaces s hub e f).head?.getD none).map (fun p => p.count)).getD 0)
      ((laneOf s hub).shadow.filter (fun f => shadowFresh s hub f && svEntry s hub f.frame == some i && laneTaken e f.lane))

/-- Shadow frames are ingested, later than the newest record (R182 step 4): the window drops the others, uncounted. -/
def replay (hub : Nat) (s : State) (i : Nat) : State :=
  (shadowOf s hub i).foldl (fun t f =>
    match streamOf t hub i with
    | none => t
    | some e =>
      let places := framePlaces t hub e f
      let old := !places.isEmpty && places.all (fun q => match q with
        | some p => decide (p.at_ ≤ e.newestNs)
        | none => false)
      if old then t else pastMatch t hub i e f) s

/-- The lane logic judges the other hub lost (R182): the Axle is down, and so is every present compute die's Spoke to it. -/
def otherLost (s : State) (hub : Nat) : Bool :=
  !(dualLane s) && !(axleAlive s) && (computeDies s).all (fun d => !(spokeAlive s d (1 - hub)))

/-- HUB_LOST_REHOME, R182. -/
def execHubLostRehome (hub : Nat) (s : State) : Out :=
  if domRun s hub 7 && otherLost s hub && (laneOf s hub).state != 2 then
    let moved := otherHomed s hub
    let s1 := putLaneState s hub 2
    let l := laneOf s1 hub
    let s2 := setLane s1 hub { l with nodes := l.nodes.map (fun e => (e.1, { e.2 with home := hub })) }
    let s3 := moved.foldl (forceHome hub) s2
    let st := pageStamp s3 hub hub .lane 0
    let s4 := eventRec (tickPage s3 hub .lane) hub hub .lane st (pagePlane .lane) 1 0 [moved.length]
    let s5 := wr s4 hub R.REHOME_LAST 0 st.cts
    .next (if domRun s hub 8 then moved.foldl (replay hub) s5 else s5)
  else .next s

/-- A stream's home moves at a hub that the other one had judged lost (R24): it ceases to write, and its detectors return to
outputs 0. -/
def yieldStream (keeper other : Nat) (s : State) (i : Nat) : State :=
  match streamOf s keeper i, streamOf s other i with
  | some k, some e =>
    if k.home = keeper ∧ e.home ≠ keeper then
      detRestart (putStream s other i { e with home := keeper, prevHome := keeper, cutNs := 0 }) other i
    else s
  | _, _ => s

/-- Two hubs meet again over the Axle (R24, R182): what the one that had judged the other lost took, it keeps, and the other's
tables name it as home. Where each had judged the other lost, hub A keeps (DESIGN CHOICE, assumption 119). -/
def rejoinHubs (s : State) : State :=
  if dualLane s || !(axleAlive s) then s
  else (hubs s).foldl (fun t h =>
    let o := otherHub h
    let l := laneOf t o
    if (laneOf t h).state = 2 ∧ domRun t h 7 ∧ domRun t o 7 ∧ (h = 0 ∨ (laneOf s 0).state ≠ 2) then
      let t1 := setLane t o { l with nodes := l.nodes.map (fun e => (e.1, { e.2 with home := h })) }
      ((t1.streams.filter (fun e => e.1 / 1024 == h)).map (fun e => e.1 % 1024)).foldl (yieldStream h o) t1
    else t) s

/-- The instant of REHOME_AT. -/
def rehomeNs (s : State) (hub at_ : Nat) : Nat := ctsNs (ctr s hub).sec at_

/-- The checks of REHOME. -/
def checksRehome (t : State) (x : Ctx) : Checks :=
  let ahead := ctsAhead t x.loc (rd t x.loc R.REHOME_AT 0)
  { swChecks ((bit x.sub 1 || decide (x.argument < 1024)) && (ctr t x.loc).valid && decide (100000 ≤ ahead ∧ ahead ≤ 10000000000)) t x with
    legal := decide ((laneOf t x.loc).state = 0) }

/-- The effect of REHOME. -/
def effectRehome (x : Ctx) (t : State) : Effect :=
  let l := laneOf t x.loc
  let all := otherHomed t x.loc
  let moving := if bit x.sub 1 then all else all.filter (fun i => i == x.argument)
  .accepted (setLane t x.loc { l with plan := some ⟨moving, rd t x.loc R.REHOME_AT 0, false⟩ })

/-- REHOME, R183, R191. -/
def execRehome (c : Cmd) (s : State) : Out :=
  command s c .lane 0x14 checksRehome effectRehome

/-- REHOME_WARM_START, R183: at T − REHOME_WARM the new home's filters start on both copies. -/
def execRehomeWarmStart (hub : Nat) (s : State) : Out :=
  let l := laneOf s hub
  match l.plan with
  | none => .next s
  | some p =>
    if domRun s hub 7 && !p.warm && decide (rehomeNs s hub p.at_ ≤ taiNs s hub + rd s hub R.REHOME_WARM 0 * 1000) then
      let s1 := setLane s hub { l with plan := some { p with warm := true } }
      .next (p.streams.foldl (fun t i => match streamOf t hub i with
        | none => t
        | some e => detRestart (putStream t hub i { e with
            newest := none, seen := 0, failed := 0, fresh := true }) hub i) s1)
    else .next s

/-- The home of a stream changes at T at both hubs (R183); the old home's detectors return to outputs 0 (R251). -/
def cutStream (hub at_ : Nat) (s : State) (i : Nat) : State :=
  let old := 1 - hub
  let move := fun (t : State) (h : Nat) => match streamOf t h i with
    | none => t
    | some e =>
      let e1 := { e with prevHome := old, home := hub, cutNs := at_ }
      putStream t h i (if h = hub then
        { e1 with gapTotal := 0, dests := e.dests.map (fun d => { d with gapTotal := 0, sync := true }) } else e1)
  detRestart (move (move s hub) old) old i

/-- REHOME_CUT, R183, R620: at T the new home, whose filters the warm period has started, starts to write, each ring from its
header, and REHOME ends with DONE. -/
def execRehomeCut (hub : Nat) (s : State) : Out :=
  let l := laneOf s hub
  match l.plan with
  | none => .next s
  | some p =>
    let t := rehomeNs s hub p.at_
    if domRun s hub 7 && p.warm && decide (t ≤ taiNs s hub) then
      let s1 := p.streams.foldl (cutStream hub t) (setLane s hub { l with plan := none })
      .next (finishOp (hwEvent (wr s1 hub R.REHOME_LAST 0 p.at_) hub .lane 2) hub .lane 0x14 .done 0)
    else .next s

end Sys2Proof.Machine
end

