-- ==== Sys2Proof/Machine/Links.lean ====
section
/-!
DEFINITION. Sys2Proof/Machine/Links.lean: the Spokes and the Axle (R19 to R24) and the Cadence monitors (R39 to R41).
-/
namespace Sys2Proof.Machine

/-! ### Link endpoints -/

/-- One end of a link: its die, its page and its instance there. -/
structure LinkEnd where
  die : Nat
  blk : Block
  inst : Nat
  deriving DecidableEq, Repr

/-- The registers that a link page shows, for either block type (R23). -/
def linkReg (b : Block) (r : Reg) : Reg := { r with blk := b }

/-- The ends of the link that an instance of a page names: the compute die's or hub A's end first. -/
def linkEnds (die inst : Nat) (axle : Bool) : LinkEnd × LinkEnd :=
  if axle then (⟨0, .axle, 0⟩, ⟨1, .axle, 0⟩)
  else if isHub die then (⟨inst + 2, .spoke, die⟩, ⟨die, .spoke, inst⟩)
  else (⟨die, .spoke, inst⟩, ⟨inst, .spoke, die - 2⟩)

/-- Where a link stands in `State.links`. -/
def linkKey (e : LinkEnd × LinkEnd) : Nat := e.1.die * 8 + e.1.inst + (if e.1.blk = .axle then 1024 else 0)

/-- A link before its first training. -/
def LinkSt.empty : LinkSt := ⟨[], [], [], [], 0, 0, [], false⟩

/-- A link. -/
def linkOf (s : State) (e : LinkEnd × LinkEnd) : LinkSt := mget LinkSt.empty s.links (linkKey e)

/-- Set a link. -/
def setLink (s : State) (e : LinkEnd × LinkEnd) (l : LinkSt) : State := { s with links := mput (linkKey e) l s.links }

/-- Both dies of the link are present. -/
def linkPresent (s : State) (e : LinkEnd × LinkEnd) : Bool :=
  present s e.1.die && present s e.2.die && decide (e.1.die ≠ e.2.die) && decide (e.1.inst < 6 ∧ e.2.inst < 6)

/-- The domains of both ends are in RUN (R24). -/
def linkRuns (s : State) (e : LinkEnd × LinkEnd) : Bool :=
  linkPresent s e && domRun s e.1.die 7 && domRun s e.2.die 7

/-- Change LK_STATE at one end. -/
def lkState (s : State) (e : LinkEnd) (f : Nat → Nat) : State :=
  let r := linkReg e.blk R.SPOKE_LK_STATE
  wr s e.die r e.inst (f (rd s e.die r e.inst))

/-- The STATE field of one end. -/
def linkState (s : State) (e : LinkEnd) : Nat := rd s e.die (linkReg e.blk R.SPOKE_LK_STATE) e.inst % 4

/-- Set STATE and PRESENT of one end. -/
def putLinkState (s : State) (e : LinkEnd) (st : Nat) : State :=
  lkState s e (fun v => setBit (setFld v 1 0 st) 2 true)

/-- The failed retrains of a link in the present 1 ms window (R21, R23). -/
def failsNow (s : State) (l : LinkSt) : List Nat := l.fails.filter (fun t => decide (s.now < t + 1000000))

/-- The stamp of a link event at one end: a hub stamps it under source 319, a compute die under its page (R106). -/
def linkStamp (s : State) (e : LinkEnd) : Stamp :=
  if isHub e.die then stampOf s e.die 319 0 else pageStamp s e.die e.die e.blk 0

/-- One end takes the stamp of a link event. -/
def tickLink (s : State) (e : LinkEnd) : State :=
  if isHub e.die then tickSrc s e.die 319 else tickPage s e.die e.blk

/-- An EVENT bit of one end, with its instance (R23). -/
def linkEvent (s : State) (e : LinkEnd) (n : Nat) : State :=
  hwEvent (wr s e.die (linkReg e.blk R.SPOKE_LK_EVENT_INST) 0 e.inst) e.die e.blk n

/-- Do the same at both ends; the page of a held end makes no update (R616). -/
def atEnds (e : LinkEnd × LinkEnd) (f : LinkEnd → State → State) (s : State) : State :=
  let at_ := fun (d : LinkEnd) (t : State) => if domRun t d.die 7 then f d t else t
  at_ e.2 (at_ e.1 s)

/-- Every end that runs stands in a state, and one does: a link one of whose ends is held fails its handshakes too (R21). -/
def endsIn (s : State) (e : LinkEnd × LinkEnd) (st : Nat) : Bool :=
  let live := [e.1, e.2].filter (fun d => domRun s d.die 7)
  linkPresent s e && !live.isEmpty && live.all (fun d => linkState s d == st)

/-- LINK_RESTORE runs on the link: LK_STATE [8] at either end. -/
def restoreRuns (s : State) (e : LinkEnd × LinkEnd) : Bool :=
  bit (rd s e.1.die (linkReg e.1.blk R.SPOKE_LK_STATE) e.1.inst) 8 || bit (rd s e.2.die (linkReg e.2.blk R.SPOKE_LK_STATE) e.2.inst) 8

/-- A retrain begins (R21): TRAINING, counted, RETRAIN set. -/
def beginRetrain (e : LinkEnd) (s : State) : State :=
  let s1 := incr (putLinkState s e 1) e.die (linkReg e.blk R.SPOKE_LK_RETRAINS) e.inst 1
  cyc (linkEvent s1 e 2) e.die e.blk 0x11 0 1 none

/-- Entry to UP (R23). -/
def enterUp (e : LinkEnd) (s : State) : State :=
  linkEvent (wr (tickLink (putLinkState s e 2) e) e.die (linkReg e.blk R.SPOKE_LK_UP_CTS) e.inst (linkStamp s e).cts) e 1

/-- An end is the first of its link, as `linkEnds` orders them. -/
def isFirst (e : LinkEnd) : Bool := if e.blk = .axle then decide (e.die = 0) else !(isHub e.die)

/-- Flits leave one end of a link: they go on in that end's numbering (R21). -/
def numberFlits (n : Nat) (e : LinkEnd) (s : State) : State :=
  let k := linkEnds e.die e.inst (decide (e.blk = .axle))
  let l := linkOf s k
  setLink s k (if isFirst e then { l with sentA := l.sentA + n } else { l with sentB := l.sentB + n })

/-- Flits resent at one end after a retrain (R21). -/
def resend (n : Nat) (e : LinkEnd) (s : State) : State :=
  let s1 := numberFlits n e s
  let s2 := incr s1 e.die (linkReg e.blk R.SPOKE_LK_RESENT) e.inst n
  cyc (incr s2 e.die (linkReg e.blk R.SPOKE_LK_FLITS_TX) e.inst n) e.die e.blk 0x10 0 n none

/-- Flits received at one end. -/
def receiveFlits (n : Nat) (e : LinkEnd) (s : State) : State :=
  incr s e.die (linkReg e.blk R.SPOKE_LK_FLITS_RX) e.inst n

/-- Flits that one end of a link sends and the far end receives (R23). -/
def moveFlits (n : Nat) (from_ to_ : LinkEnd) (s : State) : State :=
  let s1 := numberFlits n from_ s
  let s2 := incr s1 from_.die (linkReg from_.blk R.SPOKE_LK_FLITS_TX) from_.inst n
  receiveFlits n to_ (cyc s2 from_.die from_.blk 0x10 0 n none)

/-- Every link of the package. -/
def allLinks (s : State) : List (LinkEnd × LinkEnd) :=
  ((computeDies s).flatMap (fun d => [linkEnds d 0 false, linkEnds d 1 false]) ++ [linkEnds 0 0 true]).filter (linkPresent s)

/-- Ordinary traffic of a link in 1 ns: how many flits a transfer takes is stated nowhere, so the number sent each way is
a free value, at most 3, which is the nominal rate of the Axle (R19; assumption 87). -/
def linkTraffic (s : State) (e : LinkEnd × LinkEnd) : State :=
  if linkRuns s e && linkState s e.1 == 2 && linkState s e.2 == 2 then
    let s1 := moveFlits (freeNat s % 4) e.1 e.2 (drew s)
    moveFlits (freeNat s1 % 4) e.2 e.1 (drew s1)
  else s

/-- One end declared down (R21): counted, stamped, DOWN set and recorded. Its time-sync pair stops with it (assumption 86). -/
def declareDown (e : LinkEnd) (s : State) : State :=
  let st := linkStamp s e
  let s1 := tickLink (lkState (putLinkState s e 0) e (fun v => setBit v 3 false)) e
  let s2 := incr s1 e.die (linkReg e.blk R.SPOKE_LK_DOWNS) e.inst 1
  let s3 := linkEvent (wr s2 e.die (linkReg e.blk R.SPOKE_LK_DOWN_CTS) e.inst st.cts) e 0
  record s3 e.die e.die e.blk st 0 0x22 true e.inst []

/-- Once the Axle is up each hub shows the CRC of the other's option block, with MISMATCH when the two differ (R525). -/
def optCompare (s : State) : State :=
  if axleAlive s then
    (hubs s).foldl (fun t h =>
      let c := rd t (1 - h) R.OPT_CRC 0
      if domRun t h 1 && domRun t (1 - h) 1 && c != rd t h R.OPT_OTHER_CRC 0 then
        let t1 := wr t h R.OPT_OTHER_CRC 0 c
        if c = rd t1 h R.OPT_CRC 0 then t1 else hwEvent t1 h .option 1
      else t) s
  else s

/-- What follows a link's change at once: the homes of hubs that meet again, STATE of the lane logic, the lines whose owner it cuts
off or returns, and the option blocks compared. -/
def linesJudge (s : State) : State := optCompare (refreshAll (laneJudge (rejoinHubs s)))

/-- The numbers of the last `n` of `sent` flits, oldest first: a flit is numbered as it leaves its end, counted from the
link's last training. -/
def lastFlits (sent n : Nat) : List Nat := (List.range (min n sent)).map (fun i => sent - min n sent + i)

/-- FLIT_HANDSHAKE_FAIL, R21: an UP link retrains. The operands say how many flits stand unacknowledged at the end of
the named die and at the far end. -/
def execFlitHandshakeFail (die inst : Nat) (axle : Bool) (unackedHere unackedThere : Nat) (s : State) : Out :=
  let e := linkEnds die inst axle
  if endsIn s e 2 then
    let n := if e.1.die = die then (unackedHere, unackedThere) else (unackedThere, unackedHere)
    .next (atEnds e beginRetrain (setLink s e { linkOf s e with
      unackedA := lastFlits (linkOf s e).sentA n.1, unackedB := lastFlits (linkOf s e).sentB n.2, fails := failsNow s (linkOf s e) }))
  else .next s

/-- LINK_RETRAIN_DONE, R21: the retrain returns the link to UP and resends its flits in order, or counts as failed;
the third failure within 1 ms declares the link down, and otherwise the link retrains again. -/
def execLinkRetrainDone (die inst : Nat) (axle : Bool) (up : Bool) (s : State) : Out :=
  let e := linkEnds die inst axle
  let l := linkOf s e
  if endsIn s e 1 && !(restoreRuns s e) && (linkRuns s e || !up) then
    if up then
      let s1 := atEnds e enterUp (setLink s e { l with
        unackedA := [], unackedB := [], resentA := l.unackedA, resentB := l.unackedB, fails := failsNow s l })
      let s2 := receiveFlits l.unackedB.length e.1 (resend l.unackedA.length e.1 s1)
      .next (linesJudge (receiveFlits l.unackedA.length e.2 (resend l.unackedB.length e.2 s2)))
    else
      let fs := s.now :: failsNow s l
      if 3 ≤ fs.length then
        .next (linesJudge (atEnds e declareDown (setLink s e { l with fails := fs, declared := true })))
      else .next (atEnds e beginRetrain (setLink s e { l with fails := fs }))
  else .next s

/-- LINK_INITIAL_TRAIN, R24: a link trains by itself at the release of its domain, once both of its ends run. A link
declared down does not. -/
def execLinkInitialTrain (die inst : Nat) (axle : Bool) (s : State) : Out :=
  let e := linkEnds die inst axle
  if linkRuns s e && (linkState s e.1 == 0 || linkState s e.2 == 0) && !(linkOf s e).declared then
    .next (linesJudge (atEnds e enterUp (setLink s e LinkSt.empty)))
  else .next s

/-- The page of a link command. -/
def linkBlk (axle : Bool) : Block := if axle then .axle else .spoke

/-- Set LK_STATE [8] at one end. -/
def putRestore (on : Bool) (e : LinkEnd) (s : State) : State := lkState s e (fun v => setBit v 8 on)

/-- The checks of LINK_RESTORE. -/
def checksLinkRestore (axle : Bool) (t : State) (x : Ctx) : Checks :=
  { Checks.pass with
    idle := pageIdle t x
    legal := linkPresent t (linkEnds x.loc x.inst axle) && linkState t ⟨x.loc, linkBlk axle, x.inst⟩ == 0 }

/-- The effect of LINK_RESTORE. -/
def effectLinkRestore (axle : Bool) (x : Ctx) (t : State) : Effect :=
  let e := linkEnds x.loc x.inst axle
  .accepted (atEnds e (putRestore true) (atEnds e beginRetrain
    (setLink t e { LinkSt.empty with declared := (linkOf t e).declared })))

/-- LINK_RESTORE, R24: train the link chosen by SEL. -/
def execLinkRestore (axle : Bool) (c : Cmd) (s : State) : Out :=
  command s c (linkBlk axle) 0x10 (checksLinkRestore axle) (effectLinkRestore axle)

/-- LINK_RESTORE_DONE, R24: DONE with the link UP, or TIMEOUT after three failed trainings within 1 ms, with the link
back in DOWN. A link that was declared down stays so; one that never was trains by itself once both its ends run. -/
def execLinkRestoreDone (die inst : Nat) (axle : Bool) (up : Bool) (s : State) : Out :=
  let e := linkEnds die inst axle
  if restoreRuns s e then
    let s1 := atEnds e (putRestore false) s
    let s2 := if up && linkRuns s e then linesJudge (atEnds e enterUp (setLink s1 e LinkSt.empty))
      else atEnds e (fun d t => linkEvent (putLinkState t d 0) d 3) (setLink s1 e { LinkSt.empty with declared := (linkOf s1 e).declared })
    let code := if up && linkRuns s e then Code.done else Code.timeout
    let s3 := match runningAt s2 e.1.die e.1.blk 0x10 e.1.inst with
      | some t => finish s2 e.1.die e.1.blk t code 0
      | none => s2
    .next (match runningAt s3 e.2.die e.2.blk 0x10 e.2.inst with
      | some t => finish s3 e.2.die e.2.blk t code 0
      | none => s3)
  else .next s

/-- The counters of a link page (R23). -/
def linkCounters (b : Block) : List Reg :=
  [R.SPOKE_LK_RETRAINS, R.SPOKE_LK_DOWNS, R.SPOKE_LK_RESENT, R.SPOKE_LK_FLITS_TX, R.SPOKE_LK_FLITS_RX].map (linkReg b)

/-- The checks of LINK_CLEAR_COUNTERS. -/
def checksLinkClearCounters (axle : Bool) (t : State) (x : Ctx) : Checks :=
  { Checks.pass with
    argOk := decide (x.argument = 0xFFFF ∨ x.argument ≤ dieSelLimit x.loc (linkBlk axle)), idle := pageIdle t x }

/-- The counters of a link return to 0 at both of its ends (R24). -/
def clearLink (axle : Bool) (die inst : Nat) (s : State) : State :=
  let e := linkEnds die inst axle
  if linkPresent s e then
    atEnds e (fun d t => clearRegs t d.die d.inst (linkCounters d.blk)) s
  else clearRegs s die inst (linkCounters (linkBlk axle))

/-- The effect of LINK_CLEAR_COUNTERS: the command acts on the link, so both of its pages show it (R24). -/
def effectLinkClearCounters (axle : Bool) (x : Ctx) (t : State) : Effect :=
  .done
    (if x.argument = 0xFFFF then
       (List.range (dieSelLimit x.loc (linkBlk axle) + 1)).foldl (fun u i => clearLink axle x.loc i u) t
     else clearLink axle x.loc x.argument t)

/-- LINK_CLEAR_COUNTERS, R24: clear the counters of instance ARGUMENT, 0xFFFF for all. -/
def execLinkClearCounters (axle : Bool) (c : Cmd) (s : State) : Out :=
  command s c (linkBlk axle) 0x11 (checksLinkClearCounters axle) (effectLinkClearCounters axle)

/-- What the release of NET or SPOKE brings to a die's links: each present endpoint shows PRESENT and may train by
itself (R23, R24), unless the far end, which ran on, has declared the link down. -/
def linksReleased (s : State) (die : Nat) : State :=
  let es := (if isHub die then (List.range 6).map (fun i => linkEnds die i false) else [linkEnds die 0 false, linkEnds die 1 false]) ++
    (if isHub die then [linkEnds die 0 true] else [])
  es.foldl (fun t e =>
    if linkPresent t e then
      let me := if e.1.die = die then e.1 else e.2
      let far := if e.1.die = die then e.2 else e.1
      setLink (putLinkState t me 0) e { LinkSt.empty with declared := (linkOf t e).declared && domRun t far.die 7 }
    else t) s

/-! ### Cadence -/

/-- A Cadence judgement before the first measurement. -/
def CadSt.empty : CadSt := ⟨false, none, false⟩

/-- The Cadence judgement of a die. -/
def cadOf (s : State) (die : Nat) : CadSt := mget CadSt.empty s.cads die

/-- Set the Cadence judgement of a die. -/
def setCad (s : State) (die : Nat) (c : CadSt) : State := { s with cads := mput die c s.cads }

/-- An EVENT bit of CADENCE with its record: the index and the monitor number (R41). -/
def cadEvent (s : State) (die n idx mon : Nat) : State :=
  let st := pageStamp s die die .cadence 0
  eventRec (tickPage s die .cadence) die die .cadence st 2 n mon [idx, mon]

/-- CADENCE_MEASUREMENT, R39, R40, R41: the eight monitors' values, in units of 0.01 %. -/
def execCadenceMeasurement (die : Nat) (values : List Nat) (s : State) : Out :=
  if domRun s die 4 then
    let vs := (List.range 8).map (fun i => (values[i]?.getD 0) % 65536)
    let idx := vs.foldl min 65535
    let mon := vs.findIdx (fun v => v == idx)
    let floor := rd s die R.CAD_FLOOR 0
    let warn := floor + rd s die R.CAD_MARGIN 0
    let old := rd s die R.CAD_INDEX 0
    let c := cadOf s die
    let s0 := if c.measured && decide (old < floor) then incrSat s die R.CAD_BELOW_TIME 0 10 else s
    let s1 := (List.range 8).foldl (fun t i => wr t die R.CAD_MON_INDEX i (vs[i]?.getD 0)) s0
    let s2 := wr (wr s1 die R.CAD_INDEX 0 idx) die R.CAD_LOW 0 (min (rd s1 die R.CAD_LOW 0) idx)
    let below := decide (idx < floor)
    let s3 := setCad s2 die ⟨true, if below then some (c.since.getD s.now) else none, below && c.out⟩
    let s4 := if idx < warn ∧ !(c.measured && decide (old < warn)) then cadEvent s3 die 0 idx mon else s3
    .next (if below && !(c.measured && decide (old < floor)) then cadEvent s4 die 1 idx mon else s4)
  else .next s

/-- The latest sample of sensor 0 shows VDD_CORE at or above 0.875 V (R41, R547). -/
def vddCoreHigh (s : State) (die : Nat) : Bool :=
  bit (rd s die R.SN_STATE 0) 0 && decide (8750 ≤ rd s die R.SN_VALUE 0)

/-- The below-floor condition of a die has lasted 1 ms (R41). -/
def belowLong (s : State) (die : Nat) : Bool :=
  match (cadOf s die).since with
  | some t => decide (t + 1000000 ≤ s.now)
  | none => false

/-- OUT_OF_GUARANTEE, R41: the below-floor condition has lasted 1 ms and VDD_CORE is at or above 0.875 V. -/
def execOutOfGuarantee (die : Nat) (s : State) : Out :=
  let c := cadOf s die
  if domRun s die 4 && belowLong s die && vddCoreHigh s die then .next (setCad s die { c with out := true })
  else .next s

end Sys2Proof.Machine
end

