-- ==== Sys2Proof/Machine/Level.lean ====
section
/-!
DEFINITION. Sys2Proof/Machine/Level.lean: the degraded levels (R429 to R435).
-/
namespace Sys2Proof.Machine

/-! ### Conditions (R430, R431) -/

/-- A compute die as it reports itself: DRAM, PELOTON and HARTS released and within guarantee (R431). -/
def dieServes (s : State) (die : Nat) : Bool := dramRun s die && domRun s die 10 && domRun s die 12 && !(cadOf s die).out

/-- A compute die is in service in a hub's view (R431). -/
def inService (s : State) (hub die : Nat) : Bool := spokeAlive s die hub && (levelOf s hub).serving.contains die

/-- A LANE port of a lane is UP (R430). -/
def laneUp (s : State) (lane : Nat) : Bool :=
  (hubs s).any (fun h => domRun s h 7 && (List.range 12).any (fun p =>
    portRole s h p == 1 && portLane s h p == lane && portState s h p == 2))

/-- The lane logic of a present hub stands in a state of R181. -/
def laneIn (s : State) (st : Nat) : Bool := !(dualLane s) && (hubs s).any (fun h => domRun s h 7 && (laneOf s h).state == st)

/-- The standing conditions at a hub, bits of R430. -/
def levelConds (s : State) (hub : Nat) : Nat :=
  let l := levelOf s hub
  let cs := computeDies s
  let served := cs.filter (inService s hub)
  let lanes := laneMode s hub != 0
  let bits := [(hubs s).all (fun h => !(domRun s h 9)), (hubs s).all (fun h => (cadOf s h).out), l.force == 4,
    served.isEmpty, l.alive.isNone || l.expired, laneIn s 2, laneIn s 1,
    lanes && l.lossA && !(laneUp s 0), lanes && l.lossB && !(laneUp s 1), (hubs s).any (fun h => (cadOf s h).out),
    !served.isEmpty && decide (served.length < cs.length),
    cs.any (fun d => (hubs s).any (fun h => !(spokeAlive s d h))), (hubs s).any (fun h => !(dramRun s h)),
    bit (rd s hub R.DL_ENABLE 0) 0 && l.alarm && !(masterLocked s)]
  (bits.zipIdx.map (fun e => b2n e.1 * 2 ^ e.2)).sum

/-- The level of a condition (R430). -/
def condLevel (i : Nat) : Nat := if i ≤ 2 then 4 else if i ≤ 4 then 3 else if i ≤ 9 then 2 else 1

/-- The highest level of the conditions and of the hub's own force (R429, R433). -/
def standingLevel (conds force : Nat) : Nat :=
  (((List.range 14).filter (bit conds)).map condLevel).foldl max force

/-! ### Views and the level in force (R432, R433) -/

/-- DL_LEVEL and DL_FORCE show a die's level (R435). -/
def showLevel (s : State) (die : Nat) : State :=
  let l := levelOf s die
  let other := (l.views[1 - die]?.getD none)
  if isHub die then
    wr (wr s die R.DL_LEVEL 0 (l.level + l.own * 256 + other.getD 0 * 65536 + b2n (other.isSome && axleAlive s) * 2 ^ 19))
      die R.DL_FORCE 0 l.force
  else wr s die R.DL_LEVEL 0 l.level

/-- The level in force at a die (R432): at a hub the higher of its own view and, while the Axle is up, the other's; at a
compute die the higher of what the hubs send, a hub whose Spoke is down sending nothing; with neither, the level stays
(DEDUCED, assumption 52). -/
def forceLevel (s : State) (die : Nat) : Nat :=
  let l := levelOf s die
  if isHub die then max l.own (if axleAlive s then (l.views[1 - die]?.getD none).getD 0 else 0)
  else match ((hubs s).filter (spokeAlive s die)).filterMap (fun h => l.views[h]?.getD none) with
    | [] => l.level
    | v :: vs => vs.foldl max v

/-- The level in force comes into effect; a change is stamped, recorded with DL_COND, logged and shown, fires the LEVEL
trigger (R579), and zones and lines follow it (R432, R438, R447). -/
def applyLevel (s : State) (die : Nat) : State :=
  let l := levelOf s die
  let n := forceLevel s die
  if n = l.level then showLevel s die
  else
    let s1 := showLevel (putLevel s die { l with level := n }) die
    let st : Stamp := { stampOf s1 die (rkSrc die) 0 with cts := rcCts s1 die }
    let s2 := wr (tickSrc s1 die (rkSrc die)) die R.DL_CHANGE_CTS 0 st.cts
    let s3 := eventRec s2 die die .resetKs st (pagePlane .resetKs) 16 0 [if isHub die then rd s2 die R.DL_COND 0 else 0]
    let s4 := pushLog s3 die 1 1 [l.level, n]
    if isHub die then causedBy st.cts (fun t => refreshLines (armZones (fireTrigger t die 4 st.cts) die) die) s4 else s4

/-- A hub evaluates its conditions (R430 to R434): a rise takes effect at once, and a fall waits for DL_HOLD, except that
of the level of POR at the first release of a Coaster domain (R434). -/
def evalLevel (s : State) (hub : Nat) : State :=
  let l0 := levelOf s hub
  let l := { l0 with
    lossA := l0.lossA && !(laneUp s 0), lossB := l0.lossB && !(laneUp s 1), alarm := l0.alarm && !(masterLocked s) }
  let s0 := putLevel s hub l
  let conds := levelConds s0 hub
  let standing := standingLevel conds l.force
  let booted := l.boot && !(bit conds 0)
  let l1 :=
    if l.own ≤ standing ∨ booted then { l with own := standing, quiet := none, boot := l.boot && !booted }
    else { l with quiet := some (l.quiet.getD s.now) }
  applyLevel (wr (putLevel s0 hub l1) hub R.DL_COND 0 conds) hub

/-- LEVEL_CONDITION_CHANGE, R432: a condition arises or clears at a hub. -/
def execLevelConditionChange (hub : Nat) (s : State) : Out :=
  .next (if isHub hub && present s hub && domRun s hub 0 then evalLevel s hub else s)

/-- DIE_STATE_REPORT, R431: a compute die's report reaches the hubs. -/
def execDieStateReport (die : Nat) (s : State) : Out :=
  if !(isHub die) && present s die then
    .next ((hubs s).foldl (fun t h =>
      if domRun t h 0 && lineReach t die h then
        let l := levelOf t h
        let others := l.serving.filter (fun d => d != die)
        evalLevel (putLevel t h { l with serving := if dieServes t die then die :: others else others }) h
      else t) s)
  else .next s

/-- LEVEL_VIEW_RECEIVE, R432: a die takes what a hub sends it: a hub the other hub's own view over the Axle, a compute die
the level in force at the hub. -/
def execLevelViewReceive (die hub : Nat) (s : State) : Out :=
  if present s die && domRun s die 0 && domRun s hub 0 && isHub hub && present s hub && die != hub then
    let l := levelOf s die
    let v := if isHub die then (levelOf s hub).own else (levelOf s hub).level
    if (if isHub die then axleAlive s else spokeAlive s die hub) then
      .next (applyLevel (putLevel s die { l with views := l.views.set hub (some v) }) die)
    else .next s
  else .next s

/-- DL_HOLD_EXPIRY, R433: no condition or force at or above the view has stood for DL_HOLD. -/
def execDlHoldExpiry (hub : Nat) (s : State) : Out :=
  if isHub hub && present s hub && domRun s hub 0 then
    let s1 := evalLevel s hub
    let l := levelOf s1 hub
    match l.quiet with
    | some t =>
      if t + within 0 60000 (rd s1 hub R.DL_HOLD 0) * 1000000 ≤ s.now then
        let standing := standingLevel (rd s1 hub R.DL_COND 0) l.force
        .next (applyLevel (putLevel s1 hub { l with own := standing, quiet := none }) hub)
      else .next s1
    | none => .next s1
  else .next s

/-! ### Timers of the conditions (R430, R434) -/

/-- A write of SW_ALIVE (R434): only class C restarts the timer. -/
def swAlive (a : Access) (t : Target) (_ : Nat) (s : State) : State :=
  let die := locDie t.loc
  if isHub die && classOf a.who.ini == .c then
    evalLevel (putLevel s die { levelOf s die with alive := some s.now, expired := false }) die
  else s

/-- SW_ALIVE_WRITE, R434. -/
def execSwAliveWrite (a : Access) (s : State) : Out := writeReg (accAt R.SW_ALIVE a) (swAlive a) s

/-- SW_ALIVE_TIMEOUT, R430: SW_ALIVE has not been written for SW_TIMEOUT. -/
def execSwAliveTimeout (hub : Nat) (s : State) : Out :=
  let l := levelOf s hub
  match l.alive with
  | some t =>
    if isHub hub && present s hub && domRun s hub 0 && decide (t + within 1 10000 (rd s hub R.SW_TIMEOUT 0) * 1000000 ≤ s.now) then
      .next (evalLevel (putLevel s hub { l with expired := true }) hub)
    else .next s
  | none => .next s

/-- The elapsed time at which a lane last had a LANE port UP (0, 1), or the master was last LOCKED (2); that of POR for none. -/
def upAtOf (s : State) (k : Nat) : Nat := mget 0 s.upAt k

/-- What stands at this tick: a LANE port of each lane UP, and the master LOCKED (R430). -/
def levelWatch (s : State) : State :=
  let stands := [laneUp s 0, laneUp s 1, masterLocked s]
  { s with upAt := ((List.range 3).filter (fun k => stands[k]?.getD false)).foldl (fun m k => mput k s.now m) s.upAt }

/-- LANE_LOSS_TIMEOUT, R430: no LANE port of a lane has been UP for DL_LANE_LOSS. -/
def execLaneLossTimeout (hub lane : Nat) (s : State) : Out :=
  let l := levelOf s hub
  if isHub hub && present s hub && domRun s hub 0 && laneMode s hub != 0 && lane < 2 && !(laneUp s lane) &&
      decide (upAtOf s lane + within 0 10000 (rd s hub R.DL_LANE_LOSS 0) * 1000000 ≤ s.now) then
    .next (evalLevel (putLevel s hub { l with lossA := l.lossA || lane == 0, lossB := l.lossB || lane == 1 }) hub)
  else .next s

/-- TIME_ALARM_TIMEOUT, R430: the master has not been LOCKED for DL_TIME_ALARM. -/
def execTimeAlarmTimeout (hub : Nat) (s : State) : Out :=
  if isHub hub && present s hub && domRun s hub 0 && !(masterLocked s) &&
      decide (upAtOf s 2 + within 100 60000 (rd s hub R.DL_TIME_ALARM 0) * 1000000 ≤ s.now) then
    .next (evalLevel (putLevel s hub { levelOf s hub with alarm := true }) hub)
  else .next s

/-- A port that enters UP ends its lane's loss (R430). -/
def laneReturned (s : State) (hub p : Nat) : State :=
  if portRole s hub p = 1 then
    let a := portLane s hub p == 0
    { s with levels := s.levels.map (fun e => (e.1, { e.2 with lossA := e.2.lossA && !a, lossB := e.2.lossB && a })) }
  else s

/-- PORT_HOLD_UP_EXPIRY, R162: after PORT_HOLD_UP ms of stable link the port is UP. -/
def execPortHoldUpExpiry (hub port : Nat) (s : State) : Out :=
  .next (if domRun s hub 7 && port < 16 && portState s hub port == 1 && portLinked s hub port && holdOver s hub port then
    laneReturned
      (putPortState (wr s hub R.UP_STAMP port (ctsNow s hub)) hub port 2 (bit (rd s hub R.PORT_STATE port) 2)) hub port else s)

/-! ### LEVEL_FORCE (R433, R435) -/

/-- The checks of LEVEL_FORCE. -/
def checksLevelForce (t : State) (x : Ctx) : Checks :=
  let n := x.argument % 8
  let key := n == 4 || ((levelOf t x.loc).force == 4 && n < 4)
  { Checks.pass with
    argOk := isHub (locDie x.loc) && decide (n ≤ 4), auth := !key || x.cmdArg == rd t x.loc R.DL_KEY 0, idle := pageIdle t x }

/-- The effect of LEVEL_FORCE. -/
def effectLevelForce (x : Ctx) (t : State) : Effect :=
  .done (evalLevel (putLevel t x.loc { levelOf t x.loc with force := x.argument % 8 }) x.loc)

/-- LEVEL_FORCE, R433: a force to 4, and a lowering of a force that stands at 4, need DL_KEY. -/
def execLevelForce (c : Cmd) (s : State) : Out :=
  command s c .resetKs 0x30 checksLevelForce effectLevelForce

end Sys2Proof.Machine
end

