-- ==== Sys2Proof/Machine/Cyclometer.lean ====
section
/-!
DEFINITION. Sys2Proof/Machine/Cyclometer.lean: counter selects, sweeps and the counters a VI may read (R586 to R595).
-/
namespace Sys2Proof.Machine

/-- A Cyclometer after reset. -/
def CySt.empty : CySt := ⟨false, [], 1000000, 0, 20, 0, 0, 0⟩

/-- A hub's Cyclometer. -/
def cyOf (s : State) (h : Nat) : CySt := mget CySt.empty s.cys h

/-- Set a hub's Cyclometer. -/
def setCy (s : State) (h : Nat) (c : CySt) : State := { s with cys := mput h c s.cys }

/-- Set CY_STATE, with EVENT [1] at a change (R592). -/
def putCyRun (s : State) (h : Nat) (on : Bool) : State :=
  let c := cyOf s h
  let s1 := wr (setCy s h { c with running := on }) h R.CY_STATE 0 (b2n on)
  if c.running = on then s1 else hwEvent s1 h .cyclometer 1

/-- Write a counter's select: the value clears, and the counter counts under the new select (R587). -/
def putSelect (s : State) (loc : Nat) (b : Block) (n v : Nat) : State :=
  { s with
    cycSel := mput (cycKey loc b n) (v &&& 0xFFFFF7FF) s.cycSel
    cycVal := mdel (cycKey loc b n) s.cycVal
    cycSeen := mdel (cycKey loc b n) s.cycSeen
    cycWas := mdel (cycKey loc b n) s.cycWas }

/-- A write in the counter area, 0xF00 to 0xF3F: the low word of a select register acts; everything else there is
reserved or read only (R586). -/
def areaWrite (a : Access) (s : State) : State :=
  if 0xF00 ≤ a.off ∧ a.off < 0xF40 ∧ a.off % 8 < 4 ∧ blockIsView a.blk = false then
    putSelect s (accLoc a) a.blk ((a.off - 0xF00) / 8) (a.value % 2 ^ 32)
  else s

/-- COUNTER_SELECT_WRITE, R586, R587. -/
def execCounterSelectWrite (a : Access) (s : State) : Out := writeGate a false (areaWrite a) s

/-- The value of a counter of a page (R586). -/
def counterOf (s : State) (loc : Nat) (b : Block) (n : Nat) : Nat := mget 0 s.cycVal (cycKey loc b n) % 2 ^ 48

/-- A hub reaches a die: itself, the other hub over the Axle, a compute die by R20. -/
def hubReaches (s : State) (h die : Nat) : Bool :=
  present s die && (if die = h then true else if isHub die then axleAlive s else reachesHub s die h)

/-- The counter that a list or slot entry maps, read across the package: none where its die is absent or lost or its
page's domain is held (R590). -/
def mappedCounter (s : State) (h e : Nat) : Option Nat :=
  if bit e 31 && hubReaches s h (fld e 2 0) then
    match pageAt s (fld e 2 0) (fld e 10 3) with
    | some p => if pageRun s p.1 p.2 then some (counterOf s p.1 p.2 (fld e 13 11)) else none
    | none => none
  else none

/-- The word of a sweep record for an entry (R590). -/
def sweepWord (s : State) (h e : Nat) : Nat := (mappedCounter s h e).getD (2 ^ 48)

/-- The record length for c counters (R590). -/
def sweepLen (c : Nat) : Nat := 16 + 8 * c

/-- Records that a ring of 2^n bytes holds (R590). -/
def sweepRing (n c : Nat) : Nat := (2 ^ n - 64) / sweepLen c

/-- Make a sweep (R589, R590): record, then header. -/
def makeSweep (s : State) (h : Nat) : State :=
  let c := cyOf s h
  let n := c.entries.length
  let cts := ctsOfNs c.next
  let o := orderTag h 316 (mget 0 s.seqs (srcKey h 316))
  let at_ := c.base + 64 + c.head % (max 1 (sweepRing c.size n)) * sweepLen n
  let bs := bytesLE 8 cts ++ bytesLE 4 o ++ bytesLE 2 n ++ bytesLE 2 (min 65535 c.skipped) ++
    c.entries.flatMap (fun e => bytesLE 8 (sweepWord s h e))
  let s1 := writeBytes (tickSrc s h 316) at_ bs
  let s2 := writeBytes s1 c.base (bytesLE 8 (c.head + 1) ++ bytesLE 8 cts ++ bytesLE 4 (sweepLen n))
  let s3 := incr (wr s2 h R.CY_LAST 0 cts) h R.CY_SWEEPS 0 1
  setCy s3 h { c with head := c.head + 1, next := c.next + c.period, skipped := 0 }

/-- A sweep that is not made (R589). -/
def skipSweep (s : State) (h : Nat) : State :=
  let c := cyOf s h
  hwEvent (incr (setCy s h { c with next := c.next + c.period, skipped := c.skipped + 1 }) h R.CY_SKIPPED 0 1) h .cyclometer 0

/-- CYCLOMETER_SWEEP, R589: the next sweep instant of a hub's Cyclometer is reached. -/
def execCyclometerSweep (hub : Nat) (s : State) : Out :=
  let c := cyOf s hub
  if c.running && domRun s hub 4 && (ctr s hub).valid && decide (c.next ≤ taiNs s hub) then
    .next (if dramRun s hub then makeSweep s hub else skipSweep s hub)
  else .next s

/-- The first instant of a series at or after a time (R594). -/
def firstAt (start period t : Nat) : Nat := if t ≤ start then start else start + ceilDiv (t - start) period * period

/-- CY_RUN's arguments hold (R592, R594). -/
def cyArgs (s : State) (h : Nat) : Bool :=
  let c := rd s h R.CY_CFG 0
  let p := rd s h R.CY_PERIOD 0
  let n := rd s h R.CY_RING_SIZE 0
  let base := rd s h R.CY_RING_BASE 0
  decide (1 ≤ c ∧ c ≤ 256 ∧ 1000 ≤ p ∧ p ≤ 1000000000 ∧ 500 + 125 * c ≤ 2 * p ∧ 12 ≤ n ∧ n ≤ 30 ∧
    2 ≤ sweepRing n c ∧ base % 4096 = 0) && inDram s h base (2 ^ n)

/-- The checks of CY_RUN. -/
def checksCyRun (t : State) (x : Ctx) : Checks :=
  { Checks.pass with
    argOk := cyArgs t x.loc, idle := pageIdle t x, legal := !(cyOf t x.loc).running && (ctr t x.loc).valid }

/-- The effect of CY_RUN. -/
def effectCyRun (x : Ctx) (t : State) : Effect :=
  let h := x.loc
  let n := rd t h R.CY_CFG 0
  let p := rd t h R.CY_PERIOD 0
  let start := ctsNs (ctr t h).sec (rd t h R.CY_START 0)
  let st : CySt := ⟨false, (List.range n).map (fun i => rd t h R.CY_ENTRY i), p, rd t h R.CY_RING_BASE 0,
    rd t h R.CY_RING_SIZE 0, firstAt start p (taiNs t h + 10000), 0, 0⟩
  .done (putCyRun (writeLE (setCy t h st) st.base 8 0) h true)

/-- CY_RUN, R594: load the staged registers and the list, and begin. -/
def execCyRun (c : Cmd) (s : State) : Out :=
  command s c .cyclometer 0x10 checksCyRun effectCyRun

/-- The checks of CY_STOP. -/
def checksCyStop (t : State) (x : Ctx) : Checks :=
  { Checks.pass with idle := pageIdle t x, legal := (cyOf t x.loc).running }

/-- The effect of CY_STOP. -/
def effectCyStop (x : Ctx) (t : State) : Effect :=
  .done (putCyRun t x.loc false)

/-- CY_STOP, R594. -/
def execCyStop (c : Cmd) (s : State) : Out :=
  command s c .cyclometer 0x11 checksCyStop effectCyStop

/-- The checks of CyClearCounters. -/
def checksCyClearCounters (t : State) (x : Ctx) : Checks :=
  { Checks.pass with idle := pageIdle t x }

/-- The effect of CyClearCounters. -/
def effectCyClearCounters (x : Ctx) (t : State) : Effect :=
  .done (clearRegs t x.loc 0 [R.CY_SWEEPS, R.CY_SKIPPED, R.CY_MAP_DENY])

/-- CLEAR_COUNTERS of CYCLOMETER, R594. -/
def execCyClearCounters (c : Cmd) (s : State) : Out :=
  command s c .cyclometer 0x12 checksCyClearCounters effectCyClearCounters

/-- SH_CNT in force for a VI (R333). -/
def cntShare (s : State) (v : Nat) : Nat := rd s (viHome s v) R.SHF_CNT v % 16

/-- CV_SLOTS of a VI's COUNTER_VIEW (R595). -/
def cvSlots (s : State) (v : Nat) : Nat :=
  cntShare s v + (List.range 8).foldl (fun n i => n + b2n (bit (rd s 0 (R.CY_VMAP.nth i) (256 + v)) 31) * 2 ^ (8 + i)) 0

/-- The codes whose events VI_EN can filter (R588). -/
def viCode (b : Block) (code : Nat) : Bool :=
  match b with
  | .peloton => decide (0x10 ≤ code ∧ code ≤ 0x15)
  | .hartCluster => decide (0x10 ≤ code ∧ code ≤ 0x14)
  | .devXlate => decide (0x10 ≤ code ∧ code ≤ 0x11)
  | .dirtyLog => decide (code = 0x10)
  | _ => false

/-- A slot with OWN_ONLY may show its counter to a VI (R591). -/
def ownCounter (s : State) (v e : Nat) : Bool :=
  match pageAt s (fld e 2 0) (fld e 10 3) with
  | some p =>
    let sel := mget 0 s.cycSel (cycKey p.1 p.2 (fld e 13 11))
    bit sel 10 && fld sel 31 24 == v && viCode p.2 (sel % 256)
  | none => false

/-- A hub is lost to the package: it reaches no other die (R182). -/
def hubCutOff (s : State) (h : Nat) : Bool := !((diesOf s).any (fun d => d != h && hubReaches s h d))

/-- What a slot of a VI's COUNTER_VIEW reads, and whether the read counts CY_MAP_DENY (R591). -/
def slotValue (s : State) (v i : Nat) : Nat × Bool :=
  let e := rd s 0 (R.CY_VMAP.nth i) (256 + v)
  if hubCutOff s 0 then (0, false)
  else if !(bit e 31) || decide (cntShare s v ≤ i) then (0, false)
  else if bit e 14 && !(ownCounter s v e) then (0, true)
  else ((mappedCounter s 0 e).getD 0, false)

/-- CV_SLOT_READ, R591: a read of a slot of COUNTER_VIEW. -/
def execCvSlotRead (a : Access) (s : State) : Out :=
  let i := (a.off - 0x800) / 8 % 8
  let a : Access := { a with blk := .counterView, view := some (a.view.getD 0), off := 0x800 + 8 * i + a.off % 8 / 4 * 4 }
  readGate a 0 (fun t =>
    let r := slotValue t (a.view.getD 0) i
    let t1 := if r.2 then incr t 0 R.CY_MAP_DENY 0 1 else t
    readWide a (0x800 + 8 * i) (decide (a.off % 8 = 4)) r.1 t1) s

end Sys2Proof.Machine
end

