-- ==== Sys2Proof/Machine/TimeAccess.lean ====
section
/-!
DEFINITION. Sys2Proof/Machine/TimeAccess.lean: register accesses of the time base and of the compute dies' counters
(R94, R113).
-/
namespace Sys2Proof.Machine

/-- A write of OFFSET_IN delivers one PTP_LOCAL offset to the servo (R94). -/
def offsetWrite (t : Target) (v : Nat) (s : State) : State :=
  offsetIn (wr s t.loc R.OFFSET_IN 0 v) t.loc 0 (sgn 64 v)

/-- OFFSET_IN_DELIVERY, R94: the high-word write, or a 64-bit write, of OFFSET_IN. -/
def execOffsetInDelivery (a : Access) (s : State) : Out :=
  writeReg { a with blk := .timeBase, off := R.OFFSET_IN.off + 4 * b2n (!a.wide) } offsetWrite s

/-- The low 16 bits that TIME_FRAC shows of the fraction of a nanosecond (R94). -/
def timeFrac (c : Ctr) : Nat := c.frac / 2 ^ 32

/-- TIME_SNAPSHOT_READ, R94: a low-word read of TIME_SEC snapshots the time for the reading initiator. -/
def execTimeSnapshotRead (a : Access) (s : State) : Out :=
  let a := accAt R.TIME_SEC a
  readGate a 0 (fun t =>
    let c := ctr t a.die
    let t1 := wrB (wrB t a.die R.TIME_NS a.who.ini c.ns) a.die R.TIME_FRAC a.who.ini (timeFrac c)
    readWide a R.TIME_SEC.off false c.sec (wrB t1 a.die R.TIME_SEC a.who.ini c.sec)) s

/-- STAMP_READ, R113: a low-word read of STAMP by a hart of the die takes a stamp under the hart's source; any other
initiator reads CTS_NOW and an ORDER tag of 0. -/
def execStampRead (a : Access) (s : State) : Out :=
  let a := accAt R.STAMP a
  readGate a 0 (fun t =>
    if isHart a.who.ini && hartDie a.who.ini == a.die then
      let src := 260 + a.who.ini % 16
      let st := stampOf t a.die src 0
      readWide a R.STAMP.off false st.cts (wrB (tickSrc t a.die src) a.die R.STAMP_ORDER a.who.ini st.order)
    else readWide a R.STAMP.off false (ctsNow t a.die) (wrB t a.die R.STAMP_ORDER a.who.ini 0)) s

end Sys2Proof.Machine
end

