-- ==== Sys2Proof/Machine/Trigger.lean ====
section
/-!
DEFINITION. Sys2Proof/Machine/Trigger.lean: time triggers, timers for VIs, and steps of the counters (R91, R114 to
R121).
-/
namespace Sys2Proof.Machine

/-- A trigger before ARM. -/
def Trig.empty : Trig := ⟨false, 0, 0, false, false, 0, 0, 0, 0, 0, none, false⟩

/-- A trigger of a hub. -/
def trigOf (s : State) (h t : Nat) : Trig := mget Trig.empty s.trigs (h * 16 + t)

/-- Set a trigger, with TRG_NEXT. -/
def putTrig (s : State) (h t : Nat) (g : Trig) : State :=
  wr { s with trigs := mput (h * 16 + t) g s.trigs } h R.TRG_NEXT t (if g.armed then ctsOfNs g.next else 0)

/-- The range of periods of a target code, in ns (R114, R117). -/
def trgRange (code : Nat) : Nat × Nat :=
  if code = 1 then (250000, 100000000) else if code = 2 then (1000, 1000000) else (1000, 4294967295)

/-- The target index is in range for the target code (R114, R117). -/
def trgIndexOk (s : State) (code idx : Nat) : Bool :=
  match code with
  | 0 | 4 => true
  | 1 | 2 => decide (2 ≤ idx ∧ idx ≤ 7) && present s idx
  | 3 => decide (idx ≤ 63)
  | 5 => decide (idx ≤ 3)
  | 6 => decide (idx ≤ 1023)
  | 7 => decide (idx ≤ 255)
  | _ => false

/-- A target that is a pin. -/
def trgPin (code : Nat) : Bool := code == 4 || code == 5

/-- The checks of R117 on the mode, rate, period and width of a trigger. -/
def trgArgs (code rate period width : Nat) (rateMode oneShot : Bool) : Bool :=
  let r := trgRange code
  (if rateMode then
     decide (1 ≤ rate ∧ rate ≤ 1000000) && (oneShot || decide (r.1 * rate ≤ 1000000000 ∧ 1000000000 ≤ r.2 * rate))
   else oneShot || decide (r.1 ≤ period ∧ period ≤ r.2)) &&
  (!(trgPin code) ||
    (decide (width ≠ 0) && (oneShot || decide (width < (if rateMode then 1000000000 / max 1 rate else period)))))

/-- Another armed trigger of either hub holds a target that takes one trigger (R114, R117). -/
def trgHeld (s : State) (h t code idx : Nat) : Bool :=
  (code == 1 || code == 2 || code == 4 || code == 5 || code == 6) &&
  (hubs s).any (fun g => (List.range 16).any (fun u =>
    !(g == h && u == t) && (trigOf s g u).armed && (trigOf s g u).code == code &&
    (code == 4 || (trigOf s g u).index == idx) && (!(trgPin code) || g == h)))

/-- The first RATE instant at or after a time, and its number in its second (R116). -/
def rateInstant (rate t : Nat) : Nat × Nat :=
  let k := ceilDiv (t % 1000000000 * rate) 1000000000
  if k < rate then (t / 1000000000 * 1000000000 + k * 1000000000 / max 1 rate, k)
  else ((t / 1000000000 + 1) * 1000000000, 0)

/-- The owning VI of a trigger (R115). -/
def trgOwner (s : State) (h t : Nat) : Option Nat :=
  let o := rd s h R.TRG_OWNER t
  if bit o 8 then some (o % 256) else none

/-- An EVENT bit of the owning VI's TIMER_VIEW (R120). -/
def viewTrg (s : State) (h t n : Nat) : State :=
  match trgOwner s h t with
  | some v => hwEvent s (viewLoc v) .timerView n
  | none => s

/-- The page of a trigger command: the hub's own, or the VI's view (R120). -/
def trgBlk (c : Cmd) : Block := if c.view.isSome then .timerView else .timeTrigger

/-- ARM (R117). -/
def armTrig (s : State) (h t : Nat) : State :=
  let ctl := rd s h R.TRG_CTRL t
  let rate := rd s h R.TRG_RATE t
  let period := rd s h R.TRG_PERIOD t
  let start := ctsNs (ctr s h).sec (rd s h R.TRG_START t)
  let at_ := taiNs s h + 1000
  let first := if bit ctl 6 then rateInstant rate at_
    else if bit ctl 5 then (start, 0) else (firstAt start period at_, 0)
  let g : Trig := ⟨true, ctl % 16, ctl / 65536, bit ctl 6, bit ctl 5, first.1, first.2, rate, period,
    rd s h R.TRG_WIDTH t, (trigOf s h t).pulse, bit ctl 7⟩
  putTrig (wr s h R.TRG_COUNT t 0) h t g

/-- The checks of TRG_ARM. -/
def checksTrgArm (u : State) (x : Ctx) : Checks :=
  let h := x.die
  let t := x.inst
  let ctl := rd u h R.TRG_CTRL t
  let start := ctsNs (ctr u h).sec (rd u h R.TRG_START t)
  { argOk := trgIndexOk u (ctl % 16) (ctl / 65536) &&
      trgArgs (ctl % 16) (rd u h R.TRG_RATE t) (rd u h R.TRG_PERIOD t) (rd u h R.TRG_WIDTH t) (bit ctl 6) (bit ctl 5) &&
      (!(bit ctl 5 && !(bit ctl 6) && (ctr u h).valid) || decide (taiNs u h + 1000 ≤ start))
    auth := match x.who.vi with
      | some v => ctl % 16 == 7 && ctl / 65536 == v
      | none => true
    idle := pageIdle u x
    legal := x.some_ && !(trigOf u h t).armed && (ctr u h).valid
    room := !(trgHeld u h t (ctl % 16) (ctl / 65536)) }

/-- The effect of TRG_ARM. -/
def effectTrgArm (x : Ctx) (u : State) : Effect :=
  .done (armTrig u x.die x.inst)

/-- TRG_ARM, R117, R120. -/
def execTrgArm (c : Cmd) (s : State) : Out :=
  command s c (trgBlk c) 0x10 checksTrgArm effectTrgArm

/-- The checks of TRG_DISARM. -/
def checksTrgDisarm (u : State) (x : Ctx) : Checks :=
  { Checks.pass with idle := pageIdle u x, legal := x.some_ && (trigOf u x.die x.inst).armed }

/-- The effect of TRG_DISARM. -/
def effectTrgDisarm (x : Ctx) (u : State) : Effect :=
  .done (putTrig u x.die x.inst { trigOf u x.die x.inst with armed := false })

/-- TRG_DISARM, R117. -/
def execTrgDisarm (c : Cmd) (s : State) : Out :=
  command s c (trgBlk c) 0x11 checksTrgDisarm effectTrgDisarm

/-- What a trigger does after a firing: the next one is scheduled, or a one-shot returns to IDLE (R116). -/
def scheduleNext (s : State) (h t : Nat) (g : Trig) : Trig :=
  if g.oneShot then { g with armed := false }
  else if g.rateMode then
    if g.k + 1 < g.rate then
      { g with k := g.k + 1, next := g.next / 1000000000 * 1000000000 + (g.k + 1) * 1000000000 / max 1 g.rate
               width := rd s h R.TRG_WIDTH t }
    else { g with k := 0, next := (g.next / 1000000000 + 1) * 1000000000, rate := rd s h R.TRG_RATE t
                  width := rd s h R.TRG_WIDTH t }
  else
    let p := rd s h R.TRG_PERIOD t
    { g with next := g.next + p, period := p, width := rd s h R.TRG_WIDTH t }

/-- A VI_TIMER firing (R121): the MSI through TRG_MSI, and TV_FIRED of the owning VI. -/
def viTimer (s : State) (h t : Nat) : State :=
  let s1 := match routeMsi s h (rd s h R.TRG_MSI t % 256) 1 with
    | some m => if domRun s h 4 then { s with msis := s.msis ++ [m] } else s
    | none => routeFails s h
  match trgOwner s h t with
  | some v => wr s1 (viewLoc v) R.TV_FIRED 0 (setBit (rd s1 (viewLoc v) R.TV_FIRED 0) (h * 16 + t) true)
  | none => s1

/-- The signal of a firing reaches its target: a Crank, a Peloton slice and a capture record by the list of firings
under way; a pin, a publication and a VI at once (R114, R118). -/
def deliverFiring (s : State) (h t : Nat) (g : Trig) (cts order : Nat) : State :=
  match g.code with
  | 1 | 2 | 3 => { s with firings := s.firings ++ [⟨g.code, g.index, h, cts, order⟩] }
  | 6 => gooseTimed s h g.index cts
  | 7 => viTimer s h t
  | _ => s

/-- A firing of a trigger at an instant, in ns since the epoch (R116, R118, R121). Its pulse has the width in force when it
was scheduled. -/
def fireTrig (s : State) (h t at_ : Nat) : State :=
  let g := trigOf s h t
  let cts := ctsOfNs at_
  let order := orderTag h (298 + t) (mget 0 s.seqs (srcKey h (298 + t)))
  let s1 := incrSat (wr (tickSrc s h (298 + t)) h R.TRG_LAST t cts) h R.TRG_COUNT t 1
  let s2 := putTrig s1 h t { scheduleNext s h t g with
    pulse := if trgPin g.code then some (at_ + g.width) else g.pulse }
  causedBy cts (fun u => viewTrg (hwEvent (deliverFiring u h t g cts order) h .timeTrigger t) h t 0) s2

/-- TRIGGER_FIRING, R116: a trigger reaches its instant. -/
def execTriggerFiring (hub t : Nat) (s : State) : Out :=
  let g := trigOf s hub t
  if domRun s hub 5 && t < 16 && g.armed && (ctr s hub).valid && decide (g.next ≤ taiNs s hub) then .next (fireTrig s hub t g.next)
  else .next s

/-- TRIGGER_PULSE_END, R116: the hub counter reaches the end of a pin pulse. -/
def execTriggerPulseEnd (hub t : Nat) (s : State) : Out :=
  let g := trigOf s hub t
  match g.pulse with
  | some e => .next (if domRun s hub 5 && decide (e ≤ taiNs s hub) then putTrig s hub t { g with pulse := none } else s)
  | none => .next s

/-- The level of a trigger's pin: active during a pulse (R114, R115). -/
def pinLevel (g : Trig) : Bool := if g.activeLow then g.pulse.isNone else g.pulse.isSome

/-- A write of TRG_PERIOD, TRG_WIDTH or TRG_RATE (R116): while the trigger is armed, a value that ARM would refuse is
ignored with BAD_WRITE. -/
def trgWrite (t : Target) (v : Nat) (s : State) : State :=
  let h := t.loc
  let i := t.inst
  let g := trigOf s h i
  if g.armed then
    let pick := fun (r : Reg) => if t.reg.off = r.off then v else rd s h r i
    if trgArgs g.code (pick R.TRG_RATE) (pick R.TRG_PERIOD) (pick R.TRG_WIDTH) g.rateMode g.oneShot then writeT s t v
    else viewTrg (hwEvent s h .timeTrigger 18) h i 3
  else writeT s t v

/-- TRIGGER_ARMED_WRITE, R116. -/
def execTriggerArmedWrite (a : Access) (s : State) : Out :=
  let off := if a.off = R.TRG_WIDTH.off ∨ a.off = R.TRG_RATE.off then a.off else R.TRG_PERIOD.off
  writeReg { a with blk := if a.view.isSome then .timerView else .timeTrigger, off := off } trgWrite s

/-! ### Steps (R91, R119) -/

/-- Where a RATE trigger goes when a step passes over its next instant: the instant from which it goes on, its number in
its second, the rate there, and how many instants were passed. Within the second of the next firing the rate is that of
the trigger; a later second takes TRG_RATE as it stands (R116, R119). -/
def rateSkip (g : Trig) (reg now : Nat) : Nat × Nat × Nat × Nat :=
  let sec := g.next / 1000000000
  let n := rateInstant g.rate now
  if n.1 / 1000000000 = sec then (n.1, n.2, g.rate, n.2 - g.k)
  else if now / 1000000000 = sec then (n.1, 0, reg, g.rate - g.k)
  else
    let m := rateInstant reg now
    (m.1, m.2, reg, (g.rate - g.k) + (m.1 / 1000000000 - sec - 1) * reg + m.2)

/-- The instants of a periodic trigger that a positive step passes over are skipped; a one-shot fires late (R119). -/
def stepTrig (h : Nat) (s : State) (t : Nat) : State :=
  let g := trigOf s h t
  let now := taiNs s h
  let s0 := match g.pulse with
    | some e => if e ≤ now then putTrig s h t { g with pulse := none } else s
    | none => s
  let g := trigOf s0 h t
  if g.armed && decide (g.next < now) then
    if g.oneShot then viewTrg (hwEvent (fireTrig s0 h t now) h .timeTrigger 16) h t 1
    else
      let p := rd s0 h R.TRG_PERIOD t
      let q := if g.rateMode then rateSkip g (rd s0 h R.TRG_RATE t) now
        else (firstAt g.next p now, 0, g.rate, (firstAt g.next p now - g.next) / max 1 p)
      let s1 := incr (putTrig s0 h t { g with
        next := q.1, k := q.2.1, rate := q.2.2.1, width := rd s0 h R.TRG_WIDTH t }) h R.TRG_SKIP t q.2.2.2
      viewTrg (hwEvent s1 h .timeTrigger 17) h t 2
  else s0

/-- Sweeps that a positive step passes over are not made (R589). -/
def stepSweeps (s : State) (h : Nat) : State :=
  let c := cyOf s h
  if c.running && decide (c.next < taiNs s h) then
    let n := ceilDiv (taiNs s h - c.next) (max 1 c.period)
    hwEvent (incr (setCy s h { c with next := c.next + n * c.period, skipped := c.skipped + n }) h R.CY_SKIPPED 0 n) h .cyclometer 0
  else s

/-- What a positive step does to a hub's triggers, sweeps and gate lists (R119, R139, R589). -/
def stepHub (s : State) (h : Nat) : State :=
  if domRun s h 5 then stepGates (stepSweeps ((List.range 16).foldl (stepTrig h) s) h) h else s

/-- A step ends: the STEP command, if one asked for it, with DONE (R91). -/
def stepEnds (s : State) (p : PendingStep) : State :=
  let s1 := { s with steps := s.steps.erase p }
  if p.command then finishOp s1 p.hub .timeBase 0x11 .done 0 else s1

/-- STEP_TAKES_EFFECT, R91: the oldest pending step whose instant has come acts on every counter of the package. -/
def execStepTakesEffect (s : State) : Out :=
  match s.steps.find? (fun p => !p.running && decide (p.due ≤ s.now)) with
  | none => .next s
  | some p =>
    if 0 ≤ p.amount then
      let s1 := moveAllCtrs s (p.amount.toNat * 2 ^ 32)
      .next (stepEnds ((hubs s1).foldl stepHub s1) p)
    else
      .next { s with steps := s.steps.map (fun q => if q = p then { q with running := true, due := s.now + 2 * p.amount.natAbs / 65536 } else q) }

/-- NEGATIVE_STEP_END, R91: the half-rate run ends. -/
def execNegativeStepEnd (s : State) : Out :=
  match s.steps.find? (fun p => p.running && decide (p.due ≤ s.now)) with
  | none => .next s
  | some p => .next (stepEnds s p)

end Sys2Proof.Machine
end

