-- ==== Sys2Proof/Machine/Capture.lean ====
section
/-!
DEFINITION. Sys2Proof/Machine/Capture.lean: disturbance capture (R393 to R428).
-/
namespace Sys2Proof.Machine

/-! ### Records, rows and slots -/

/-- An enabled record of a hub. -/
def recOf (s : State) (hub i : Nat) : Option CapRec := (capOf s hub).recs.lookup i

/-- The instant of an absolute row, in ns since the epoch (R400, R116). -/
def rowNs (f row : Nat) : Nat := row / max 1 f * 1000000000 + row % max 1 f * 1000000000 / max 1 f

/-- The row with the latest instant not later than a time (R409). -/
def rowAt (f ns : Nat) : Nat := ns / 1000000000 * f + ((ns % 1000000000 + 1) * f - 1) / 1000000000

/-- Nanoseconds since the epoch of a CTS at a hub. -/
def hubNs (s : State) (hub cts : Nat) : Nat := ctsNs (ctr s hub).sec cts

/-- Blocks of a slot's data area (R394). -/
def CapRec.room (r : CapRec) : Nat := (r.size - 8192) / 256

/-- The address of a slot. -/
def CapRec.slotAt (r : CapRec) (k : Nat) : Nat := r.base + k * r.size

/-- CAP_LATE_WAIT in ns. -/
def lateWait (s : State) (hub : Nat) : Nat := within 0 100000 (rd s hub R.CAP_LATE_WAIT 0) * 1000

/-- Blocks of a kind that wait for their DRAM write: 1 analogue, 2 event (R403, R404). -/
def waitingBlocks (c : Capture) (kind : Nat) : Nat :=
  (c.waiting.filter (fun w => w.2.length == 256 && (w.2.headD 0).toNat % 16 == kind)).length

/-- Staging blocks that analogue blocks use: the open block of each channel and the blocks that wait (R415). -/
def analogueStage (c : Capture) : Nat :=
  (c.recs.map (fun e => (e.2.chans.filter (fun x => !x.block.isEmpty)).length)).sum + waitingBlocks c 1

/-- Staging blocks that event blocks use, of the 128 reserved for them (R415). -/
def eventStage (c : Capture) : Nat := (c.recs.filter (fun e => !e.2.events.isEmpty)).length + waitingBlocks c 2

/-- Staging in use (R415, R424). -/
def stageUsed (c : Capture) : Nat := analogueStage c + eventStage c

/-- The registers show a record and the staging. -/
def showRec (s : State) (hub i : Nat) (r : CapRec) : State :=
  let slots := (r.slots.zipIdx.map (fun e => e.1 % 4 * 4 ^ e.2)).sum
  let n := stageUsed (capOf s hub)
  wr (wrAll s hub i [(R.REC_STATE, r.state + r.fill % 16 * 16), (R.REC_SLOTS, slots)])
    hub R.CAP_STAGE_PEAK 0 (max n (rd s hub R.CAP_STAGE_PEAK 0))

/-- Set a record. -/
def putRec (s : State) (hub i : Nat) (r : CapRec) : State :=
  let c := capOf s hub
  showRec (setCap s hub { c with recs := mput i r c.recs }) hub i r

/-- An EVENT bit of CAPTURE with its record (R424). -/
def capEvent (s : State) (hub i n : Nat) : State :=
  hwEvent (if n ≤ 8 then wr s hub R.CAP_EVENT_REC 0 i else s) hub .capture n

/-- A record enters a state, with STATE_CHANGE. -/
def enterRec (s : State) (hub i : Nat) (r : CapRec) (st : Nat) : State :=
  let s1 := putRec s hub i { r with state := st }
  if r.state = st then s1 else capEvent s1 hub i 9

/-! ### Blocks and events (R403, R404, R413) -/

/-- Write a block to capture memory; while the hub's DRAM channel does not run, blocks wait in staging (R415). -/
def writeBlock (s : State) (hub addr : Nat) (bs : List Byte) : State :=
  let c := capOf s hub
  drainBlocks (setCap s hub { c with waiting := c.waiting ++ [(addr, bs)] }) hub

/-- The block that the ring would overwrite next is one that an open capture still needs (R413). -/
def ringNeeds (r : CapRec) : Bool :=
  match r.cap, r.blocks[r.room - 1]? with
  | some k, some b => if b.event then decide (rowNs r.f k.start ≤ b.last) else decide (k.start ≤ b.last)
  | _, _ => false

/-- Blocks that the capture still needs, counted from the newest back to the oldest that holds rows at or after the start
row or an event at or after its instant (R413, R421). -/
def neededBlocks (r : CapRec) (k : OpenCap) : Nat :=
  (r.blocks.zipIdx.filter (fun e => if e.1.event then decide (rowNs r.f k.start ≤ e.1.last) else decide (k.start ≤ e.1.last))).foldl
    (fun m e => max m (e.2 + 1)) 0

/-- The open event block, or the one that the entry of a running gap will open. -/
def CapRec.eventOpen (r : CapRec) : Nat := b2n (!(r.events.isEmpty) || r.gap.isSome)

/-- With so many further blocks opened, the ring could not take what an open capture needs and the open blocks: it would have
to overwrite (R413). -/
def ringLacks (r : CapRec) (more : Nat) : Bool :=
  match r.cap with
  | none => false
  | some k => decide (r.room < neededBlocks r k + (r.chans.filter (fun c => !c.block.isEmpty)).length + r.eventOpen + more)

/-- Put a block in the ring of the FILLING slot (R394, R413). -/
def slotPut (s : State) (hub : Nat) (r : CapRec) (bs : List Byte) (mark : BlockMark) : State × CapRec :=
  if ringNeeds r then (s, { r with truncated := true })
  else
    let at_ := r.slotAt r.fill + 8192 + r.written % max 1 r.room * 256
    (writeBlock s hub at_ (bs ++ List.replicate (256 - bs.length) 0),
      { r with written := r.written + 1, blocks := (mark :: r.blocks).take r.room })

/-- An analogue block's bytes (R403). -/
def analogueBytes (r : CapRec) (c : CapChan) (n : Nat) : List Byte :=
  bytesLE 1 (1 + c.level * 16) ++ bytesLE 1 n ++ bytesLE 1 c.block.length ++ [1] ++ bytesLE 4 c.j0 ++
  bytesLE 8 (ctsOfNs (rowNs r.f (r.row0 + c.j0))) ++ c.block.reverse.flatMap (fun x => bytesLE 4 (uns 32 x.value) ++ bytesLE 2 x.flags)

/-- Close a channel's open block. -/
def closeBlock (hub n : Nat) (a : State × CapRec) : State × CapRec :=
  match a.2.chans[n]? with
  | none => a
  | some c =>
    if c.block.isEmpty then a
    else
      let last := a.2.row0 + c.j0 + (c.block.length - 1) * 2 ^ c.level
      let p := slotPut a.1 hub a.2 (analogueBytes a.2 c n) ⟨false, last⟩
      (p.1, { p.2 with chans := p.2.chans.set n { c with block := [] } })

/-- Close every open analogue block. -/
def closeBlocks (hub : Nat) (a : State × CapRec) : State × CapRec := (List.range a.2.chans.length).foldl (fun b n => closeBlock hub n b) a

/-- Close the open event block. -/
def closeEvents (hub : Nat) (a : State × CapRec) : State × CapRec :=
  match a.2.events with
  | [] => a
  | _ :: _ =>
    let bs := [2, 0, BitVec.ofNat 8 a.2.events.length, 1] ++ List.replicate 12 0 ++ a.2.events.reverse.flatMap (fun x => x.1)
    let p := slotPut a.1 hub a.2 bs ⟨true, a.2.events.foldl (fun m x => max m x.2) 0⟩
    (p.1, { p.2 with events := [] })

/-- Write an event entry (R404): CTS, type, byte 9, bytes 10 to 11, bytes 12 to 15. An entry that finds none of the 128 event
blocks of R415 free to open is not stored (DESIGN CHOICE, log entry 129). -/
def addEvent (hub cts type b9 w10 w12 : Nat) (a : State × CapRec) : State × CapRec :=
  if a.2.events.isEmpty && decide (128 ≤ eventStage (capOf a.1 hub)) then a
  else
    let bs := bytesLE 8 cts ++ bytesLE 1 type ++ bytesLE 1 b9 ++ bytesLE 2 w10 ++ bytesLE 4 w12
    let r : CapRec := { a.2 with events := (bs, hubNs a.1 hub cts) :: a.2.events, entries := a.2.entries + 1 }
    if r.events.length = 15 then closeEvents hub (a.1, r) else (a.1, r)

/-! ### Binary states (R398, R402) -/

/-- Where a binary channel's state stands in `known`: detectors are package-wide. -/
def binKey (kind src idx : Nat) : Nat := kind * 4096 + (if kind = 4 ∨ kind = 5 then 0 else src) * 1024 + idx

/-- A state that no edge has yet told the engine, as its block holds it. -/
def binDirect (s : State) (hub kind src idx : Nat) : Bool :=
  match kind with
  | 1 => (binOf s src idx).level
  | 2 => (lineOf s src idx).level
  | 3 => (lineOf s src idx).sense
  | 4 => bit (shownOf s hub idx) 0
  | 5 => bit (shownOf s hub idx) 1
  | 6 => (zoneOf s src idx).pick
  | 7 => (zoneOf s src idx).state == 4
  | _ => bit (rd s hub R.GW_STATE (64 + idx)) 0

/-- Fields of a binary entry (R398). -/
def binKind (e : Nat) : Nat := e % 16
def binHub (hub e : Nat) : Nat := if e % 16 = 8 then hub else b2n (bit e 4)
def binIndex (e : Nat) : Nat := fld e 25 16

/-- The state of a binary entry as known to the engine. -/
def binKnown (s : State) (hub e : Nat) : Bool :=
  let k := binKey (binKind e) (binHub hub e) (binIndex e)
  match (capOf s hub).known.lookup k with
  | some b => b
  | none => binDirect s hub (binKind e) (binHub hub e) (binIndex e)

/-! ### Slots and the close (R395, R410 to R414, R417, R421) -/

/-- Begin a slot at an absolute row: every channel at level 0, nothing stored (R414, R415). -/
def CapRec.begin (r : CapRec) (slot row0 dead : Nat) (first overwrote : Bool) : CapRec :=
  { r with
    fill := slot, slots := r.slots.set slot 1, order := r.order.filter (fun k => k != slot), row0 := row0, next := row0
    first := first, overwrote := overwrote, dead := dead, initial := [], events := [], entries := 0, blocks := []
    written := 0, cap := none, gap := none, gapRows := 0, gapNs := 0, reduced := false, truncated := false
    chans := r.chans.map (fun c => { c with level := 0, offset := 0, block := [], j0 := 0, stored := [], since := [], rises := [] }) }

/-- The next slot to take (R395, R414): the first FREE one after the slot that filled last, else with FULL_ACT the oldest
COMPLETE one; with whether it overwrites. -/
def CapRec.nextSlot (r : CapRec) : Option (Nat × Bool) :=
  let n := r.slots.length
  match ((List.range n).map (fun k => (r.fill + 1 + k) % max 1 n)).find? (fun k => r.slots[k]?.getD 0 == 0) with
  | some k => some (k, false)
  | none => if bit r.cfg 11 then (r.order.find? (fun k => r.slots[k]?.getD 0 == 2)).map (fun k => (k, true)) else none

/-- A crossing search (R423): whether the channel is armed, the sample before, the first and the last crossing, and how
many. -/
structure Crossing where
  armed : Bool
  before : Option StoredSample
  first : Nat
  last : Nat
  count : Nat

/-- One sample of the crossing search. -/
def Crossing.take (hyst : Nat) (k : Crossing) (b : StoredSample) : Crossing :=
  let k1 : Crossing :=
    match k.before with
    | some a =>
      if k.armed && decide (a.value ≤ 0 ∧ 0 < b.value) && bit a.flags 0 && bit b.flags 0 then
        let t := a.ns + (b.ns - a.ns) * (-a.value).toNat / (b.value - a.value).toNat
        { k with armed := false, first := if k.count = 0 then t else k.first, last := t, count := k.count + 1 }
      else k
    | none => k
  { k1 with armed := k1.armed || decide (b.value ≤ -(hyst : Int)), before := some b }

/-- The measurements of a channel over its samples of the window, oldest first (R422). With no valid sample the values
that count samples are free. -/
def measureBytes (s : State) (c : CapChan) (l : List StoredSample) : List Byte :=
  let good := l.filter (fun x => bit x.flags 0)
  let n := good.length
  let xs := good.map (fun x => x.value)
  let k := l.foldl (Crossing.take c.hyst) ⟨false, none, 0, 0, 0⟩
  let period := if k.count < 2 then 0 else (k.last - k.first) / (k.count - 1)
  let lo := xs.foldl min (xs.headD 0)
  let hi := xs.foldl max (xs.headD 0)
  let peak := xs.foldl (fun m x => max m x.natAbs) 0
  let rmsV := Nat.sqrt ((xs.map (fun x => x.natAbs * x.natAbs)).sum / max 1 n)
  let dc := Int.tdiv xs.sum (max 1 n : Nat)
  (if n = 0 then (List.range 20).map (fun i => Config.freeByte (s.free + i))
   else bytesLE 4 (uns 32 lo) ++ bytesLE 4 (uns 32 hi) ++ bytesLE 4 peak ++ bytesLE 4 rmsV ++ bytesLE 4 (uns 32 dc)) ++
  bytesLE 4 period ++ bytesLE 4 (if period = 0 then 0 else 1000000000000 / period) ++ bytesLE 2 (min k.count 65535) ++
  bytesLE 2 (b2n (decide (0 < n)) + 2 * b2n (decide (n < l.length)))

/-- The window of the measurements: from T0 for REC_MEAS, or the whole capture (R422). -/
def inMeasure (r : CapRec) (k : OpenCap) (x : StoredSample) : Bool :=
  let row := r.row0 + x.row
  if r.meas = 0 then decide (k.start ≤ row ∧ row ≤ k.e)
  else decide (k.t0 ≤ row ∧ rowNs r.f row < rowNs r.f k.t0 + r.meas * 1000)

/-- Header flags (R421). -/
def headerFlags (r : CapRec) (k : OpenCap) (cut : Bool) : Nat :=
  b2n (decide (k.t0 < k.start + r.pre)) + b2n r.truncated * 2 + b2n cut * 4 + b2n (decide (0 < k.retriggers)) * 8 +
  b2n r.reduced * 16 + b2n (decide (0 < r.gapRows)) * 32 + b2n (decide (0 < r.lost)) * 64 + b2n k.capped * 128 +
  b2n r.first * 256 + b2n r.overwrote * 512

/-- Bytes padded with zeros to a length. -/
def padTo (n : Nat) (bs : List Byte) : List Byte := bs ++ List.replicate (n - bs.length) 0

/-- The slot header (R421). -/
def slotHeader (s : State) (hub i : Nat) (r : CapRec) (k : OpenCap) (cut : Bool) (closeCts : Nat) : List Byte :=
  let need := neededBlocks r k
  let head := bytesLE 1 i ++ bytesLE 1 hub ++ bytesLE 1 r.fill ++ [1] ++ bytesLE 4 (r.seq + 1) ++ bytesLE 8 k.first.cts ++
    bytesLE 1 k.first.kind ++ bytesLE 1 k.first.entry ++ bytesLE 2 k.first.source ++ bytesLE 4 (headerFlags r k cut) ++
    bytesLE 8 (ctsOfNs (rowNs r.f r.row0)) ++ bytesLE 4 r.f ++ bytesLE 4 (k.t0 - r.row0) ++ bytesLE 4 (k.start - r.row0) ++
    bytesLE 4 (k.e - r.row0) ++ bytesLE 4 (r.next - 1 - r.row0) ++ bytesLE 4 k.retriggers ++ bytesLE 8 r.dead ++
    bytesLE 8 r.lostCts ++ bytesLE 4 r.lost ++ bytesLE 4 r.gapRows ++ bytesLE 8 r.gapNs ++ bytesLE 4 need ++
    bytesLE 4 ((r.written - need) % max 1 r.room * 256) ++ bytesLE 4 (r.room * 256) ++ bytesLE 4 r.entries ++
    bytesLE 8 closeCts ++ List.replicate 16 0 ++
    bytesLE 32 ((r.initial.zipIdx.map (fun e => b2n e.1 * 2 ^ e.2)).sum)
  let chans := r.chans.flatMap (fun c => bytesLE 4 (uns 32 c.offset) ++ bytesLE 1 c.level ++ [0, 0, 0] ++ c.raw)
  let bins := r.bins.flatMap (bytesLE 4)
  let meas := r.chans.flatMap (fun c =>
    if c.measure then measureBytes s c (c.stored.reverse.filter (inMeasure r k)) else List.replicate 32 0)
  padTo 8192 (padTo 4096 (padTo 3072 (padTo 1024 head ++ chans) ++ bins) ++ meas)

/-- The item of a close (R417). -/
def capOffer (s : State) (hub i : Nat) (r : CapRec) (flags closeCts : Nat) : State :=
  if bit r.cfg 9 && bit r.cfg 8 then
    let payload := i + hub * 2 ^ 8 + r.fill * 2 ^ 16 + flags % 256 * 2 ^ 24 + (r.seq + 1) % 2 ^ 32 * 2 ^ 32
    { s with offers := s.offers ++ [⟨⟨5, hub, i, 0⟩, 4, r.cfg % 256, r.item % 4096, true, 8,
      ctsOfNs (hubNs s hub closeCts + fld r.item 31 16 * 1000), 0, payload, closeCts⟩] }
  else s

/-- A lost trigger (R414). -/
def loseTrig (s : State) (hub i : Nat) (r : CapRec) (t : Trigger) : State :=
  let r1 := { r with lost := r.lost + 1, lostCts := if r.lost = 0 then t.cts else r.lostCts }
  capEvent (incr (putRec s hub i r1) hub R.REC_LOST i 1) hub i 8

/-- Triggers that a HELD record can no longer take are lost (R414). -/
def loseAll (s : State) (hub i : Nat) (ts : List Trigger) : State :=
  ts.foldl (fun t x => match recOf t hub i with | some r => loseTrig t hub i r x | none => t) s

/-- The record goes on to its next slot, or waits HELD (R410, R414): the triggers that waited are lost there. A record that moves
straight on loses no row. -/
def moveOn (s : State) (hub i : Nat) (r : CapRec) : State :=
  match r.nextSlot with
  | some (k, excess) =>
    let n := r.begin k r.next 0 false excess
    enterRec (wr s hub R.REC_DEAD_NS i 0) hub i n 1
  | none => loseAll (capEvent (enterRec s hub i { r with cap := none, wait := [] } 3) hub i 2) hub i r.wait

/-- The end of a gap before a row that is stored (R416): its entry, the header's totals and GAP. -/
def endGap (hub i row : Nat) (a : State × CapRec) : State × CapRec :=
  match a.2.gap with
  | none => a
  | some (g, n) =>
    let len := rowNs a.2.f row - rowNs a.2.f g
    let s1 := capEvent (wr a.1 hub R.CAP_GAP_ROWS 0 ((rd a.1 hub R.CAP_GAP_ROWS 0 + n) % 2 ^ 32)) hub i 4
    addEvent hub (ctsOfNs (rowNs a.2.f g)) 5 255 (min n 65535) (min len (2 ^ 32 - 1))
      (s1, { a.2 with gap := none, gapRows := a.2.gapRows + n, gapNs := a.2.gapNs + len })

/-- The close of an open capture (R411): header, COMPLETE, CLOSED and the item; then the next state. A gap that still runs
ends with the slot (DESIGN CHOICE, log entry 50). -/
def closeRec (s : State) (hub i : Nat) (cut : Bool) : State :=
  match recOf s hub i with
  | none => s
  | some r0 =>
    match r0.cap with
    | none => s
    | some k =>
      let a := closeEvents hub (closeBlocks hub (endGap hub i r0.next (s, r0)))
      let r := a.2
      let st := stampOf a.1 hub 294 0
      let s1 := tickSrc a.1 hub 294
      let flags := headerFlags r k cut
      let free := if r.chans.any (fun c => c.measure) then { s1 with free := s1.free + 20 } else s1
      let s2 := writeBlock free hub (r.slotAt r.fill) (slotHeader s1 hub i r k cut st.cts)
      let s3 := wr s2 hub R.REC_SEQ i (r.seq + 1)
      let s4 := capOffer s3 hub i r flags st.cts
      let done := { r with
        slots := r.slots.set r.fill 2, order := r.order ++ [r.fill], seq := r.seq + 1, lost := 0, lostCts := 0 }
      let s5 := capEvent (putRec s4 hub i done) hub i 1
      if cut || bit r.cfg 10 then enterRec s5 hub i { done with cap := none } 0
      else moveOn s5 hub i done

/-- The ring would have to overwrite what the open capture needs once so many further blocks are opened: it closes at once at the
last row stored (R413). -/
def checkTrunc (s : State) (hub i more : Nat) : State :=
  match recOf s hub i with
  | some r =>
    if ringLacks r more || r.truncated then capEvent (closeRec (putRec s hub i { r with truncated := true }) hub i false) hub i 5 else s
  | none => s

/-- Further event blocks that so many entries open (R404), the entry of a running gap counted with them. -/
def CapRec.entriesOpen (r : CapRec) (n : Nat) : Nat := ceilDiv (r.events.length + b2n r.gap.isSome + n) 15 - r.eventOpen

/-! ### Triggers (R405 to R414) -/

/-- An accepted trigger counts and writes its entry (R404, R425). -/
def acceptTrig (s : State) (hub i : Nat) (r : CapRec) (t : Trigger) (type : Nat) : State :=
  let a := addEvent hub t.cts type t.entry t.kind t.source (s, r)
  incr (wr (putRec a.1 hub i a.2) hub R.REC_TRIG_CTS i t.cts) hub R.REC_TRIGGERS i 1

/-- The CROSS triggers that a first trigger sends (R406). -/
def sendCross (s : State) (hub i : Nat) (t : Trigger) : State :=
  if t.kind = 6 then s
  else { s with capIns := s.capIns ++ ((hubs s).filter (fun g => g == hub || axleAlive s)).map (fun g => ⟨g, 11, hub, i, true, t.cts⟩) }

/-- A retrigger (R411): E moves to its row + POST, capped at T0 + MAX. One whose entry the ring cannot take closes the capture, and
is lost (R413, R414). -/
def retrigger (s : State) (hub i : Nat) (r : CapRec) (k : OpenCap) (t : Trigger) (row : Nat) : State :=
  if ringLacks r (r.entriesOpen 1) then
    let s1 := checkTrunc s hub i (r.entriesOpen 1)
    match recOf s1 hub i with
    | some q => if q.state = 0 then s1 else loseTrig s1 hub i q t
    | none => s1
  else
    let top := k.t0 + r.maxRows
    let k1 := { k with e := min (row + r.post) top, retriggers := k.retriggers + 1, capped := k.capped || decide (top < row + r.post) }
    acceptTrig s hub i { r with cap := some k1 } t 3

/-- A first trigger starts a capture (R410 to R412). -/
def startCapture (s : State) (hub i : Nat) (r : CapRec) (t : Trigger) (row : Nat) : State :=
  let k : OpenCap := ⟨t, row, row + r.post, max (row - r.pre) r.row0, 0, false⟩
  let s1 := enterRec s hub i { r with cap := some k } 2
  let s2 := sendCross (capEvent s1 hub i 0) hub i t
  match recOf s2 hub i with
  | some r1 => checkTrunc (acceptTrig s2 hub i r1 t 2) hub i 0
  | none => s2

/-- A trigger reaches a record (R409 to R414). One whose row lies before row 0 is lost after a close; in the first slot, where
nothing has closed, it is a retrigger of an open capture, and no capture starts on it. One whose row is not stored yet, while a
capture is open, waits for the row or for the next slot. -/
def trigRec (s : State) (hub i : Nat) (t : Trigger) : State :=
  match recOf s hub i with
  | none => s
  | some r =>
    let row := rowAt r.f (hubNs s hub t.cts)
    if r.state = 0 then s
    else if r.state = 3 then loseTrig s hub i r t
    else if row < r.row0 && !r.first then loseTrig s hub i r t
    else match r.cap with
      | none => if row < r.row0 then s else startCapture s hub i r t row
      | some k => if row < r.next then retrigger s hub i r k t row else putRec s hub i { r with wait := r.wait ++ [t] }

/-- Triggers that waited for a row or for the next slot arrive again. -/
def wakeTrigs (s : State) (hub i : Nat) : State :=
  match recOf s hub i with
  | none => s
  | some r =>
    let due := r.wait.filter (fun t => r.cap.isNone || decide (rowAt r.f (hubNs s hub t.cts) < r.next))
    due.foldl (fun u t => trigRec u hub i t) (if due.isEmpty then s else putRec s hub i { r with wait := r.wait.filter (fun t => !(due.contains t)) })

/-- The records of a hub with their entries of a trigger kind that meet a test: each such entry fires (R405). -/
def fireEntries (s : State) (hub kind : Nat) (source : Option Nat) (cts : Nat) (p : TrigEnt → Bool) : State :=
  (capOf s hub).recs.foldl (fun t e =>
    (e.2.trigs.zipIdx.filter (fun x => x.1.kind == kind && p x.1)).foldl (fun u x => trigRec u hub e.1 ⟨kind, x.2, source.getD x.1.index, cts⟩) t) s

/-- An edge of a binary channel is stored in every record that watches it (R402), in the next slot where the ring of an open
capture cannot take it (R413). -/
def storeEdge (s : State) (hub kind src idx : Nat) (on : Bool) (cts : Nat) : State :=
  let c := capOf s hub
  let s0 := setCap s hub { c with known := mput (binKey kind src idx) on c.known }
  c.recs.foldl (fun t e =>
    let hits := (e.2.bins.zipIdx.filter (fun b => binKey (binKind b.1) (binHub hub b.1) (binIndex b.1) == binKey kind src idx)).map (fun b => b.2)
    hits.foldl (fun u n =>
      match recOf u hub e.1 with
      | none => u
      | some r =>
        let u1 := checkTrunc u hub e.1 (r.entriesOpen 1)
        match recOf u1 hub e.1 with
        | none => u1
        | some q =>
          if q.state = 1 ∨ q.state = 2 then
            let a := addEvent hub cts 1 n (b2n on) 0 (u1, q)
            wakeTrigs (putRec a.1 hub e.1 a.2) hub e.1
          else u1) t) s0

/-- An edge or a trigger acts on a hub's records (R398, R405). -/
def takeIn (s : State) (c : CapIn) : State :=
  let hub := c.dest
  let s1 := if 1 ≤ c.kind ∧ c.kind ≤ 8 then storeEdge s hub c.kind c.src c.index c.on c.cts else s
  let at_ := fun (x : TrigEnt) => x.index % 64 == c.index && b2n (bit x.index 6) == c.src
  match c.kind with
  | 1 => fireEntries s1 hub 5 none c.cts (fun x => x.index % 16 == c.index && b2n (bit x.index 4) == c.src && bit x.cond (b2n (!c.on)))
  | 4 => if c.on then fireEntries s1 hub 1 none c.cts (fun x => x.index == c.index && bit x.cond 0) else s1
  | 5 => if c.on then fireEntries s1 hub 1 none c.cts (fun x => x.index == c.index && bit x.cond 1) else s1
  | 9 => if c.on then fireEntries s1 hub 1 none c.cts (fun x => x.index == c.index && bit x.cond 2) else s1
  | 6 => if c.on then fireEntries s1 hub 4 none c.cts (fun x => at_ x && bit x.cond 0) else s1
  | 7 => if c.on then fireEntries s1 hub 4 none c.cts (fun x => at_ x && bit x.cond 1) else s1
  | 10 => fireEntries s1 hub 3 none c.cts (fun x => x.index == c.index)
  | 11 => fireEntries s1 hub 6 (some (c.index + c.src * 64)) c.cts at_
  | _ => s1

/-- CAPTURE_TRIGGER_ARRIVAL, R409: the oldest edge or trigger on its way to a hub's engine, or the oldest firing of a time
trigger whose target is one of its records (R114). -/
def execCaptureTriggerArrival (hub : Nat) (s : State) : Out :=
  match s.capIns.find? (fun c => c.dest == hub) with
  | some c =>
    let s1 := { s with capIns := s.capIns.erase c }
    .next (if domRun s hub 8 then causedBy c.cts (fun t => takeIn t c) s1 else s1)
  | none =>
    match s.firings.find? (fun f => f.code == 3 && f.hub == hub) with
    | none => .next s
    | some f =>
      let s1 := { s with firings := s.firings.erase f }
      let source := f.order / 2 ^ 20 % 512 - 298 + hub * 16
      .next (if domRun s hub 8 then causedBy f.cts (fun t => trigRec t hub (f.index % 64) ⟨7, 255, source, f.cts⟩) s1 else s1)

/-! ### Rows (R400 to R402, R408, R415, R416) -/

/-- The instant of the tap sample after one (R400, R204): it lies as far from its place on the grid of the rate. -/
def nextTap (rate ns : Nat) : Nat := rowNs rate (rowAt rate ns + 1) + (ns - rowNs rate (rowAt rate ns))

/-- A channel has delivered its sample for a row: one after the previous row's instant whose next sample lies after the row's. -/
def delivers (r : CapRec) (c : CapChan) (n row : Nat) : Bool :=
  let lo := rowNs r.f (row - 1)
  let hi := rowNs r.f row
  r.pend.any (fun x => x.chan == n && decide (lo < x.ns ∧ x.ns ≤ hi ∧ hi < nextTap c.rate x.ns))

/-- The newest waiting sample of a channel for a row. -/
def rowSample (r : CapRec) (n row : Nat) : Option RowSample :=
  (r.pend.filter (fun x => x.chan == n && decide (x.ns ≤ rowNs r.f row))).foldl
    (fun m x => match m with | none => some x | some y => if y.ns ≤ x.ns then some x else m) none

/-- What a channel shows in a row (R401): its sample, or its last value with VALID cleared; RATE_REDUCED above level 0. -/
def rowValue (r : CapRec) (c : CapChan) (n row : Nat) : ChSample × Nat :=
  let reduce := fun (f : Nat) => if 0 < c.level then setBit f 12 true else f
  match rowSample r n row with
  | some x => (⟨x.value, reduce x.flags⟩, x.ns)
  | none => (⟨c.last.value, reduce (setBit c.last.flags 0 false)⟩, (rowNs r.f row + c.offset).toNat)

/-- Levels that a channel goes up by a slot row (R415). -/
def CapChan.rising (c : CapChan) (j : Nat) : Nat := (c.rises.filter (fun k => decide (k ≤ j))).length

/-- The channel stores in a row at its level there (R415). -/
def storesIn (r : CapRec) (c : CapChan) (row : Nat) : Bool := (row - r.row0) % 2 ^ (c.level + c.rising (row - r.row0)) == 0

/-- A level decided on applies from this row (R415): the channel's block closes, and its samples are at the new level (R403). -/
def raiseLevel (hub row : Nat) (a : State × CapRec) (n : Nat) : State × CapRec :=
  match a.2.chans[n]? with
  | none => a
  | some c =>
    let j := row - a.2.row0
    if c.rising j = 0 then a
    else
      let b := closeBlock hub n a
      (b.1, { b.2 with chans := b.2.chans.set n { c with
        block := [], level := c.level + c.rising j, since := [], rises := c.rises.filter (fun k => decide (j < k)) } })

/-- The samples of the slot that the measurements can still count (R422): from the start row of an open capture on, else what the
ring can hold. -/
def CapRec.keeps (r : CapRec) (row : Nat) (y : StoredSample) : Bool :=
  match r.cap with
  | some k => decide (k.start ≤ r.row0 + y.row)
  | none => decide (row ≤ r.row0 + y.row + r.room * 320)

/-- Store one channel in a row. -/
def storeChan (hub row : Nat) (a0 : State × CapRec) (n : Nat) : State × CapRec :=
  let a := raiseLevel hub row a0 n
  match a.2.chans[n]? with
  | none => a
  | some c =>
    let v := rowValue a.2 c n row
    let x : StoredSample := ⟨row - a.2.row0, v.2, v.1.value, v.1.flags⟩
    let off := if row = a.2.row0 then (v.2 : Int) - (rowNs a.2.f row : Int) else c.offset
    let base := { c with last := match rowSample a.2 n row with | some y => ⟨y.value, y.flags⟩ | none => c.last, offset := off }
    let c1 := if storesIn a.2 c row then
      { base with
        block := v.1 :: c.block, j0 := if c.block.isEmpty then row - a.2.row0 else c.j0
        stored := x :: c.stored.filter (a.2.keeps row), since := (x :: c.since).take 65 }
      else base
    let r1 := { a.2 with chans := a.2.chans.set n c1 }
    if c1.block.length = 40 then closeBlock hub n (a.1, r1) else (a.1, r1)

/-- Analogue blocks that a row must open. -/
def opens (r : CapRec) (row : Nat) : Nat :=
  (r.chans.filter (fun c => (c.block.isEmpty || c.rising (row - r.row0) != 0) && storesIn r c row)).length

/-- ROC triggers of a stored row (R408). -/
def rocTrigs (s : State) (hub i row : Nat) (r : CapRec) : State :=
  (r.trigs.zipIdx.filter (fun t => t.1.kind == 2)).foldl (fun u t =>
    match r.chans[t.1.index]? with
    | none => u
    | some c =>
      match c.since.head?, c.since[t.1.span]? with
      | some a, some b =>
        if storesIn r c row && a.row == row - r.row0 && bit a.flags 0 && bit b.flags 0 && decide (t.1.threshold ≤ (a.value - b.value).natAbs) then
          trigRec u hub i ⟨2, t.2, t.1.index, ctsOfNs (rowNs r.f row)⟩
        else u
      | _, _ => u) s

/-- A row of a record is stored, or dropped whole where a block cannot be opened (R415). The states of the binary channels at row
0 are taken as it completes, stored or not (R402). -/
def takeRow (s : State) (hub i : Nat) : State :=
  match recOf s hub i with
  | none => s
  | some q =>
    let row := q.next
    let r := if row = q.row0 then { q with initial := q.bins.map (binKnown s hub) } else q
    if r.chans.length ≠ 0 ∧ 6016 < analogueStage (capOf s hub) + opens r row then
      let a := closeBlocks hub (s, r)
      let r1 := { a.2 with
        next := row + 1, gap := match r.gap with | none => some (row, 1) | some (g, n) => some (g, n + 1)
        pend := r.pend.filter (fun x => decide (rowNs r.f row < x.ns)), chans := a.2.chans.map (fun c => { c with since := [] }) }
      wakeTrigs (putRec a.1 hub i r1) hub i
    else
      let a := (List.range r.chans.length).foldl (storeChan hub row) (endGap hub i row (s, r))
      let r1 := { a.2 with next := row + 1, pend := a.2.pend.filter (fun x => decide (rowNs r.f row < x.ns)) }
      wakeTrigs (rocTrigs (putRec a.1 hub i r1) hub i row r1) hub i

/-- The next row of a record completes (R401). Where the ring of an open capture cannot take the blocks that it opens, the capture
closes first, at the last row stored (R413), and the row is the next slot's row 0, if the record goes on. -/
def completeRow (s : State) (hub i : Nat) : State :=
  match recOf s hub i with
  | none => s
  | some r =>
    let s1 := checkTrunc s hub i (opens r r.next)
    match recOf s1 hub i with
    | none => s1
    | some q => if q.state = 1 ∨ q.state = 2 then takeRow s1 hub i else s1

/-- Rows complete while every channel has delivered. -/
def completeRows (hub i : Nat) : Nat → State → State
  | 0, s => s
  | n + 1, s =>
    match recOf s hub i with
    | none => s
    | some r =>
      if (r.state = 1 ∨ r.state = 2) ∧ r.chans.length ≠ 0 ∧ r.chans.zipIdx.all (fun c => delivers r c.1 c.2 r.next) then
        completeRows hub i n (completeRow s hub i)
      else s

/-- A tap sample reaches one record: it waits for its row, or its row has completed (R401). -/
def recTap (hub : Nat) (t : TapOut) (s : State) (e : Nat × CapRec) : State :=
  let ns := hubNs s hub t.cts
  let hits := (e.2.chans.zipIdx.filter (fun c => c.1.stream == t.stream && c.1.chan == t.channel && c.1.filtered == (t.tap == 1))).map (fun c => c.2)
  if (e.2.state = 1 ∨ e.2.state = 2) ∧ hits ≠ [] then
    if ns ≤ rowNs e.2.f (e.2.next - 1) then
      if e.2.next = e.2.row0 && e.2.first then s else incr s hub R.CAP_LATE_SAMPLE 0 hits.length
    else
      let r := { e.2 with pend := e.2.pend ++ hits.map (fun n => ⟨n, ns, t.value, t.flags⟩) }
      completeRows hub e.1 (r.pend.length) (putRec s hub e.1 r)
  else s

/-- Where a channel's newest tap sample stands in `heard`. -/
def heardKey (stream chan : Nat) (filtered : Bool) : Nat := (stream * 32 + chan) * 2 + b2n filtered

/-- The engine has a channel's newest tap sample (R400). -/
def hearTap (s : State) (hub : Nat) (t : TapOut) : State :=
  let c := capOf s hub
  setCap s hub { c with heard := mput (heardKey t.stream t.channel (t.tap == 1)) ⟨0, hubNs s hub t.cts, t.value, t.flags⟩ c.heard }

/-- CAPTURE_TAP_SAMPLE, R400: the oldest tap sample on its way to a hub's engine. -/
def execCaptureTapSample (hub : Nat) (s : State) : Out :=
  match s.taps.find? (fun t => t.hub == hub) with
  | none => .next s
  | some t =>
    let s1 := { s with taps := s.taps.erase t }
    .next (if domRun s hub 8 then causedBy t.cts (fun u => (capOf u hub).recs.foldl (recTap hub t) (hearTap u hub t)) s1 else s1)

/-- ROW_LATE_COMPLETE, R401: the hub counter has passed the next row's instant plus CAP_LATE_WAIT. A record without
analogue channels completes its rows at their instants. -/
def execRowLateComplete (hub record : Nat) (s : State) : Out :=
  match recOf s hub record with
  | none => .next s
  | some r =>
    let wait := if r.chans.isEmpty then 0 else lateWait s hub
    if domRun s hub 8 && (r.state == 1 || r.state == 2) && decide (rowNs r.f r.next + wait < taiNs s hub) then
      .next (completeRows hub record r.pend.length (completeRow s hub record))
    else .next s

/-- CAPTURE_CLOSE, R411: row E is complete and the counter has passed its instant plus CAP_LATE_WAIT. -/
def execCaptureClose (hub record : Nat) (s : State) : Out :=
  match recOf s hub record with
  | none => .next s
  | some r =>
    match r.cap with
    | none => .next s
    | some k =>
      if domRun s hub 8 && decide (k.e < r.next ∧ rowNs r.f k.e + lateWait s hub < taiNs s hub) then
        .next (wakeTrigs (closeRec s hub record false) hub record)
      else .next s

/-- A REDUCIBLE channel below level 3, with the levels decided on counted. -/
def CapChan.canRise (c : CapChan) : Bool := c.reducible && decide (c.level + c.rises.length < 3)

/-- A record with a channel that a step of R415 can move. -/
def canReduce (r : CapRec) : Bool := r.chans.any CapChan.canRise

/-- The record to reduce (R415): ARMED before CAPTURING, then the highest PRIO value, then the highest index. -/
def reduceOne (c : Capture) : Option Nat :=
  let pick := fun (st : Nat) => (c.recs.filter (fun e => e.2.state == st && canReduce e.2)).foldl
    (fun (m : Option (Nat × Nat)) e =>
      let p := fld e.2.cfg 21 16
      match m with
      | none => some (p, e.1)
      | some x => if x.1 < p ∨ (x.1 = p ∧ x.2 < e.1) then some (p, e.1) else m) none
  match pick 1 with
  | some x => some x.2
  | none => (pick 2).map (fun x => x.2)

/-- One channel is to move up a level from its first row at the new level on (R415); until there it stores at the old one. -/
def reduceChan (hub : Nat) (a : State × CapRec) (n : Nat) : State × CapRec :=
  match a.2.chans[n]? with
  | none => a
  | some c =>
    if c.canRise then
      let level := c.level + c.rises.length + 1
      let from_ := (a.2.next - a.2.row0 + 2 ^ level - 1) / 2 ^ level * 2 ^ level
      addEvent hub (ctsNow a.1 hub) 4 n level from_
        (a.1, { a.2 with chans := a.2.chans.set n { c with rises := c.rises ++ [from_] }, reduced := true })
    else a

/-- A step of R415 is due: staging stands at or above CAP_HIGH, and 64 µs have passed since the last step. -/
def reduceDue (s : State) (hub : Nat) : Bool :=
  let c := capOf s hub
  domRun s hub 8 && decide (within 1024 6016 (rd s hub R.CAP_HIGH 0) ≤ stageUsed c) &&
    (match c.reducedAt with | some t => decide (t + 64000 ≤ s.now) | none => true)

/-- A step of R415 on a record: one REDUCE entry for every channel that goes up. -/
def reduceRec (s : State) (hub i : Nat) (r : CapRec) : State :=
  let a := (List.range r.chans.length).foldl (reduceChan hub) (s, r)
  wakeTrigs (capEvent (incr (putRec a.1 hub i a.2) hub R.CAP_REDUCE_STEPS 0 1) hub i 3) hub i

/-- CAPTURE_REDUCE, R415. An open capture whose ring cannot take the REDUCE entries closes first (R413). -/
def execCaptureReduce (hub : Nat) (s : State) : Out :=
  let c := capOf s hub
  if reduceDue s hub then
    match reduceOne c with
    | none => .next s
    | some i =>
      match recOf s hub i with
      | none => .next s
      | some r =>
        let s0 := setCap s hub { c with reducedAt := some s.now }
        let s1 := checkTrunc s0 hub i (r.entriesOpen (r.chans.filter CapChan.canRise).length)
        .next (match recOf s1 hub i with
          | none => s1
          | some q => if q.state = 1 ∨ q.state = 2 then reduceRec s1 hub i q else s1)
  else .next s

/-! ### GOOSE watches (R407) -/

/-- One watch sees a frame. -/
def watchFrame (hub : Nat) (fin : FrameIn) (s : State) (w : Nat) : State :=
  let i := 64 + w
  let cfg := rd s hub R.GW_CFG i
  let f := fin.frame
  let mac := rd s hub R.GW_MATCH0 i + rd s hub R.GW_MATCH1 i % 65536 * 2 ^ 32
  match f.content with
  | .goose st _ _ =>
    if bit cfg 0 && f.etype == 0x88B8 && f.dst == mac && f.appid == rd s hub R.GW_MATCH1 i / 65536 then
      let cmp := rd s hub R.GW_CMP i
      let at_ := 14 + (if f.tag.isSome then 4 else 0) + cmp % 65536
      let hit := match f.bytes[at_]? with
        | some b => b.toNat &&& fld cmp 23 16 == fld cmp 31 24
        | none => false
      let was := rd s hub R.GW_STATE i
      let fires := bit was 1 && rd s hub R.GW_STNUM i != st % 2 ^ 32 && (!(bit cfg 1) || hit)
      let s1 := wrAll (incr s hub R.GW_FRAMES i 1) hub i
        [(R.GW_STATE, b2n hit + 2), (R.GW_STNUM, st), (R.GW_LAST_CTS, fin.cts)]
      let edge : List CapIn := if bit was 0 != hit then [⟨hub, 8, hub, w, hit, fin.cts⟩] else []
      let fire : List CapIn := if fires then [⟨hub, 10, hub, w, true, fin.cts⟩] else []
      { s1 with capIns := s1.capIns ++ edge ++ fire }
    else s
  | _ => s

/-- GOOSE_WATCH_FRAME, R407: the oldest verified GOOSE frame on its way to a hub's watches. -/
def execGooseWatchFrame (hub : Nat) (s : State) : Out :=
  let w := swOf s hub
  match w.watch with
  | [] => .next s
  | f :: rest =>
    let s1 := setSw s hub { w with watch := rest }
    .next (if domRun s hub 8 then (List.range 64).foldl (watchFrame hub f) s1 else s1)

/-- A write of GW_CFG that sets ENABLE: no frame has been seen since (R407). -/
def gwCfgWrite (t : Target) (v : Nat) (s : State) : State :=
  let was := readT s t
  let s1 := writeT s t v
  if bit v 0 && !(bit was 0) then wr s1 t.loc R.GW_STATE t.inst (setBit (rd s1 t.loc R.GW_STATE t.inst) 1 false) else s1

/-! ### Presentations (R250, R398, R437) -/

/-- DETECTOR_PRESENTATION, R250: the oldest presentation on its way to a hub reaches its capture engine and its Coaster. -/
def execDetectorPresentation (hub : Nat) (s : State) : Out :=
  match s.presents.find? (fun p => p.hub == hub) with
  | none => .next s
  | some p =>
    let s1 := { s with presents := s.presents.erase p }
    let c := capOf s1 hub
    let shown := [(4, p.fast), (5, p.slow), (9, p.blocked)]
    let edge := fun (k : Nat) (on : Bool) (at_ : Nat) => if mget false c.known (binKey (k + 8) 0 p.det) = on then [] else [CapIn.mk hub k 0 p.det on at_]
    let s2 := if domRun s hub 8 then
      let s3 := setCap s1 hub { c with known := shown.foldl (fun m e => mput (binKey (e.1 + 8) 0 p.det) e.2 m) c.known }
      { s3 with capIns := s3.capIns ++ edge 4 p.fast p.fastAt ++ edge 5 p.slow p.slowAt ++ edge 9 p.blocked p.blockedAt }
      else s1
    .next (coPresent s2 p)

/-! ### Readout (R418, R419) -/

/-- Set a slot's state. -/
def putSlot (s : State) (hub i k st : Nat) : State :=
  let c := capOf s hub
  match c.recs.lookup i with
  | none => s
  | some r => putRec s hub i { r with slots := r.slots.set k st, order := if st = 2 ∧ !(r.order.contains k) then r.order ++ [k] else r.order }

/-- The bytes of a copy (R418): the header, then the blocks from FIRST_BLOCK on in the order written. -/
def copyBytes (s : State) (r : CapRec) (slot len : Nat) : List Byte :=
  let at_ := r.slotAt slot
  let first := readLE s (at_ + 92) 4
  let area := max 256 (readLE s (at_ + 96) 4)
  readBytes s at_ 8192 ++ (List.range ((len - 8192) / 256)).flatMap (fun k => readBytes s (at_ + 8192 + (first + k * 256) % area) 256)

/-- The length of a copy (R418). -/
def copyLen (s : State) (r : CapRec) (slot : Nat) : Nat := 8192 + 256 * readLE s (r.slotAt slot + 88) 4

/-- The oldest readout of a hub begins: into a VI's memory it writes 256 bytes at a time through the translation (R315). The cut
of R341 takes the instant at which it begins as its cause and stops the whole copy (DEDUCED, log entry 81). -/
def beginRead (s : State) (hub : Nat) : State :=
  let c := capOf s hub
  match c.reads with
  | [] => s
  | q :: rest =>
    if q.begun then s
    else
      let s1 := setCap s hub { c with reads := { q with begun := true } :: rest }
      match q.vi, c.recs.lookup q.record with
      | some v, some r =>
        if viTakes s1 v && decide (cutOf s1 v (ctsNow s1 hub) = .go) then
          let bs := copyBytes s1 r q.slot q.len
          (List.range (ceilDiv q.len 256)).foldl (fun t k =>
            viWrite t ⟨⟨5, hub, q.record, 0⟩, v, ctsNow t hub, [(q.addr + k * 256, (bs.drop (k * 256)).take 256)], none⟩) s1
        else readoutFault (countCut s1 v (cutOf s1 v (ctsNow s1 hub))) hub
      | _, _ => s1

/-- A write of a hub's copy has begun and not ended. -/
def copyWrites (s : State) (hub : Nat) : Bool :=
  (computeDies s).any (fun d => (xlOf s d).jobs.any (fun j => j.src.engine == 5 && j.src.die == hub))

/-- CAPTURE_READOUT_DONE, R418: the running copy of a hub ends, once its bytes are written or it stops early; the next
one begins. A copy to a physical address of an absent die ends in an error completion (R50): it stops early, with no byte
copied (DESIGN CHOICE, log entry 50). -/
def execCaptureReadoutDone (hub : Nat) (s : State) : Out :=
  let c := capOf s hub
  match c.reads, domRun s hub 8 with
  | q :: rest, true =>
    match c.recs.lookup q.record with
    | none => .next (beginRead (setCap s hub { c with reads := rest }) hub)
    | some r =>
      if q.vi.isSome && (copyWrites s hub || (!q.stopped && decide (q.copied < q.len))) then .next s
      else
        let bad := q.vi.isNone && meetsAbsent s q.addr q.len
        let s1 := if q.vi.isNone && !bad then writeBytes s q.addr (copyBytes s r q.slot q.len) else s
        let n := if bad then 0 else if q.vi.isNone then q.len else q.copied
        let s2 := putSlot (setCap s1 hub { c with reads := rest }) hub q.record q.slot 2
        let s3 := capEvent (wr s2 hub R.REC_RD_COPIED q.record n) hub q.record 6
        .next (beginRead (if q.stopped || bad then capEvent s3 hub q.record 7 else s3) hub)
  | _, _ => .next s

/-- QUIESCE or KILL of a VI (R419): its queued copies are discarded, and a copy in progress into its memory stops once the
256 bytes that it writes are written. -/
def quiesceReads (v : Nat) (s : State) (hub : Nat) : State :=
  let c := capOf s hub
  let gone := c.reads.filter (fun q => q.vi == some v && !q.begun)
  let keep := (c.reads.filter (fun q => !(q.vi == some v && !q.begun))).map (fun q => if q.vi = some v then { q with stopped := true } else q)
  let s1 := gone.foldl (fun t q => putSlot t hub q.record q.slot 2) (setCap s hub { c with reads := keep })
  let x := xlOf s1 (viHome s1 v)
  let mine := fun (j : Job) => j.vi == v && j.src.engine == 5 && j.src.die == hub
  let begun := (x.jobs.filter mine).take 1
  setXl s1 (viHome s1 v) { x with jobs := x.jobs.filter (fun j => !(mine j) || begun.contains j) }

/-! ### Commands (R427, R428) -/

/-- The page of a CAPTURE command. -/
def capBlk (c : Cmd) : Block := viewOr c .captureView .capture

/-- The record that a command selects. -/
def capHub (x : Ctx) : Nat := locDie x.die

/-- The state of a record, DISABLED where it has none. -/
def recState (s : State) (x : Ctx) : Nat := match recOf s (capHub x) x.inst with | some r => r.state | none => 0

/-- The state of a slot of a record. -/
def slotState (s : State) (x : Ctx) (k : Nat) : Nat :=
  match recOf s (capHub x) x.inst with
  | some r => r.slots[k]?.getD 0
  | none => 0

/-- A descriptor in memory (R396): analogue and binary entries and trigger entries. -/
def descAt (s : State) (a : Nat) : Nat × Nat × Nat × Nat :=
  (readLE s a 1, readLE s (a + 1) 1, readLE s (a + 2) 2, readLE s (a + 4) 1)

/-- The rate of a tap of a stream at a hub (R400): the stream's, or its filter's output rate. -/
def tapRate (s : State) (hub stream : Nat) (filtered : Bool) : Nat :=
  match s.streams.lookup (streamKey hub stream) with
  | some e => if filtered then e.rate / max 1 (profileNow s hub stream).r else e.rate
  | none => 0

/-- An analogue entry (R397). -/
def descChan (s : State) (hub a : Nat) : CapChan :=
  let w := readLE s a 2
  let o := readLE s (a + 2) 1
  ⟨w % 1024, fld w 14 10, bit w 15, bit o 0, bit o 1, readLE s (a + 4) 4, readBytes s a 8, tapRate s hub (w % 1024) (bit w 15),
    0, ⟨0, 0⟩, 0, [], 0, [], [], []⟩

/-- A trigger entry (R405). -/
def descTrig (s : State) (a : Nat) : TrigEnt := ⟨readLE s a 1, readLE s (a + 1) 1, readLE s (a + 2) 2, readLE s (a + 4) 4, readLE s (a + 8) 1⟩

/-- A stream of a hub delivers a channel (R199). -/
def streamHas (s : State) (hub stream chan : Nat) : Bool :=
  match s.streams.lookup (streamKey hub stream) with
  | some e => decide (chan < (delivered e).length)
  | none => false

/-- An analogue entry names what exists, and its rate is a whole multiple of F (R397, R400). -/
def chanOk (s : State) (hub f a : Nat) (c : CapChan) : Bool :=
  decide (readLE s (a + 2) 1 < 4 ∧ c.hyst < 2 ^ 31 ∧ 0 < c.rate) && streamHas s hub c.stream c.chan && c.rate % max 1 f == 0

/-- The hub that a descriptor names by HUB is there: 1 is hub B, which the KZ2 lacks (R398, R405). -/
def hubThere (s : State) (b : Bool) : Bool := (hubs s).contains (b2n b)

/-- A binary entry names what exists (R398). For the detector kinds HUB is ignored, and a watch is the record's own hub's. -/
def binOk (s : State) (e : Nat) : Bool :=
  let k := e % 16
  let lim := if k = 1 then 16 else if k = 2 ∨ k = 3 then 8 else if k = 4 ∨ k = 5 then 1024 else 64
  decide (1 ≤ k ∧ k ≤ 8) && (k == 4 || k == 5 || k == 8 || hubThere s (bit e 4)) && fld e 15 5 == 0 && fld e 31 26 == 0 && decide (fld e 25 16 < lim)

/-- A trigger entry names what exists (R405). -/
def trigOk (s : State) (a : Nat) (t : TrigEnt) : Bool :=
  match t.kind with
  | 0 => true
  | 1 => decide (t.index < 1024)
  | 2 => decide (t.index < a ∧ 1 ≤ t.span ∧ t.span ≤ 64)
  | 3 => decide (t.index < 64)
  | 4 => decide (t.index < 128) && hubThere s (bit t.index 6)
  | 5 => decide (t.index < 32) && hubThere s (bit t.index 4)
  | 6 => decide (t.index < 128) && hubThere s (bit t.index 6)
  | _ => false

/-- The newest tap sample that a channel of a record has delivered to its hub's engine. -/
def heardOf (s : State) (hub : Nat) (c : CapChan) : Option RowSample := (capOf s hub).heard.lookup (heardKey c.stream c.chan c.filtered)

/-- The first row of a record that completes from now on (R401, R410): later than the last that CAP_LATE_WAIT has completed, and
than the last whose samples have all been delivered. Without analogue channels a row completes at its instant. -/
def firstRow (s : State) (hub f : Nat) (chans : List CapChan) : Nat :=
  let t := taiNs s hub
  if chans.isEmpty then rowAt f t + 1
  else
    let had := chans.map (fun c => match heardOf s hub c with | some x => rowAt f (nextTap c.rate x.ns - 1) + 1 | none => 0)
    max (rowAt f (t - lateWait s hub - 1) + 1) (had.foldl min (had.headD 0))

/-- The samples of a record's channels that wait for its rows from row 0 on: the newest ones delivered before (R400). -/
def firstPend (s : State) (hub f row0 : Nat) (chans : List CapChan) : List RowSample :=
  chans.zipIdx.filterMap (fun c => match heardOf s hub c.1 with
    | some x => if rowNs f (row0 - 1) < x.ns then some { x with chan := c.2 } else none
    | none => none)

/-- The record that CAP_ENABLE would load (R394, R396, R410 to R412). -/
def stagedRec (s : State) (hub i : Nat) : CapRec :=
  let g := fun r => rd s hub r i
  let cfg := g R.REC_CFG
  let f := g R.REC_RATE
  let n := fld cfg 15 12 + 1
  let rows := fun us => us * f / 1000000
  let d := g R.REC_DESC
  let (_, a, b, t) := descAt s d
  let chans := (List.range a).map (fun k => descChan s hub (d + 16 + 16 * k))
  let row0 := firstRow s hub f chans
  { state := 1, cfg := cfg, f := f, pre := rows (g R.REC_PRE), post := rows (g R.REC_POST), maxRows := rows (g R.REC_MAX)
    meas := g R.REC_MEAS, base := rd s hub R.CAP_BASE 0 + g R.REC_AREA % 65536 * 0x100000
    size := g R.REC_AREA / 65536 * 0x100000 / n / 4096 * 4096, item := g R.REC_ITEM
    chans := chans
    bins := (List.range b).map (fun k => readLE s (d + 16 + 16 * a + 4 * k) 4)
    trigs := (List.range t).map (fun k => descTrig s (d + 16 + 16 * a + 4 * b + 16 * k))
    slots := List.replicate n 0, order := [], fill := n - 1, seq := 0, row0 := row0, next := row0, first := true
    overwrote := false, dead := 0, pend := firstPend s hub f row0 chans, initial := [], events := [], entries := 0, blocks := [], written := 0
    cap := none, gap := none, gapRows := 0, gapNs := 0, reduced := false, truncated := false, lost := 0, lostCts := 0
    wait := [] }

/-- Two ranges overlap. -/
def overlap (a n b m : Nat) : Bool := decide (a < b + m ∧ b < a + n)

/-- The area of a record, in bytes. -/
def CapRec.areaLen (r : CapRec) : Nat := r.size * r.slots.length

/-- Records that are enabled, DISABLED ones left out. -/
def enabledRecs (s : State) (hub : Nat) : List (Nat × CapRec) := (capOf s hub).recs.filter (fun e => e.2.state != 0)

/-- What CAP_ENABLE checks of a record's arguments (R394, R396, R400, R425, R427). -/
def recOk (s : State) (hub i : Nat) : Bool :=
  let r := stagedRec s hub i
  let d := rd s hub R.REC_DESC i
  let (fmt, a, b, t) := descAt s d
  let us := [rd s hub R.REC_PRE i, rd s hub R.REC_POST i, rd s hub R.REC_MAX i]
  decide (d % 4096 = 0) && inDram s hub d (16 + 16 * a + 4 * b + 16 * t) && fmt == 1 && decide (a ≤ 128 ∧ b ≤ 256 ∧ t ≤ 16) &&
  decide (100 ≤ r.f ∧ r.f ≤ 384000) &&
  decide ((us[0]?.getD 0) ≤ 10000000 ∧ 1 ≤ (us[1]?.getD 0) ∧ (us[1]?.getD 0) ≤ (us[2]?.getD 0) ∧ (us[2]?.getD 0) ≤ 60000000) &&
  decide (8192 < r.size ∧ rd s hub R.REC_AREA i % 65536 + rd s hub R.REC_AREA i / 65536 ≤ rd s hub R.CAP_SIZE 0) &&
  inDram s hub r.base (rd s hub R.REC_AREA i / 65536 * 0x100000) &&
  (enabledRecs s hub).all (fun e => e.1 == i || !(overlap r.base r.areaLen e.2.base e.2.areaLen)) &&
  (r.chans.zipIdx.all (fun c => chanOk s hub r.f (d + 16 + 16 * c.2) c.1)) && r.bins.all (binOk s) && r.trigs.all (trigOk s a)

/-- Analogue entries of the enabled records of a hub (R399). -/
def chansUsed (s : State) (hub : Nat) : Nat := ((enabledRecs s hub).map (fun e => e.2.chans.length)).sum

/-- The data area can hold what R413 asks. -/
def recRoom (r : CapRec) : Bool :=
  decide (r.chans.length * ((ceilDiv (r.pre + r.maxRows) 40 + 1) * 256) + 65536 ≤ r.size - 8192)

/-- The owner's share lets it enable another record (R333, R420). -/
def ownerShare (s : State) (r : CapRec) : Bool :=
  let v := r.cfg % 256
  !(bit r.cfg 8) ||
    decide (((hubs s).map (fun h => ((enabledRecs s h).filter (fun e => bit e.2.cfg 8 && e.2.cfg % 256 == v)).length)).sum <
      rd s (viHome s v) R.SHF_CAPTURE v)

/-- The checks of CAP_ENABLE. -/
def checksCapEnable (t : State) (x : Ctx) : Checks :=
  let r := stagedRec t x.loc x.inst
  let reading := match recOf t x.loc x.inst with | some q => q.slots.contains 3 | none => false
  { Checks.pass with
    argOk := decide (x.inst < 64) && recOk t x.loc x.inst, idle := pageIdle t x, legal := recState t x == 0 && !reading
    room := decide (chansUsed t x.loc + r.chans.length ≤ 2048) && recRoom r }

/-- The effect of CAP_ENABLE. A refusal that the owner's share causes is counted there (R333). -/
def effectCapEnable (x : Ctx) (t : State) : Effect :=
  let r := stagedRec t x.loc x.inst
  if ownerShare t r then
    let r1 := r.begin 0 r.row0 0 true false
    .done (enterRec (wr (wr t x.loc R.REC_DEAD_NS x.inst 0) x.loc R.REC_SEQ x.inst 0) x.loc x.inst { r1 with state := 0 } 1)
  else ⟨shareRefuse t (r.cfg % 256), .noResource, 0⟩

/-- CAP_ENABLE, R410, R427. -/
def execCapEnable (c : Cmd) (s : State) : Out :=
  command s c .capture 0x10 checksCapEnable effectCapEnable

/-- The checks of CAP_DISABLE. -/
def checksCapDisable (t : State) (x : Ctx) : Checks :=
  { Checks.pass with argOk := decide (x.inst < 64), idle := pageIdle t x, legal := recState t x != 0 }

/-- A record that is DISABLED stores nothing: its open blocks are dropped (R410, R424). -/
def CapRec.drop (r : CapRec) : CapRec :=
  { r with
    slots := if r.state = 1 then r.slots.set r.fill 0 else r.slots, pend := [], wait := [], events := [], gap := none
    chans := r.chans.map (fun c => { c with block := [] }) }

/-- The effect of CAP_DISABLE. -/
def effectCapDisable (x : Ctx) (t : State) : Effect :=
  let t1 := closeRec t x.loc x.inst true
  .done (match recOf t1 x.loc x.inst with
    | some r =>
      if r.state = 0 then t1
      else enterRec t1 x.loc x.inst r.drop 0
    | none => t1)

/-- CAP_DISABLE, R410: an open capture closes at once with CUT; the FILLING slot of a record that has none is FREE. -/
def execCapDisable (c : Cmd) (s : State) : Out :=
  command s c .capture 0x11 checksCapDisable effectCapDisable

/-- The checks of CAP_TRIGGER. -/
def checksCapTrigger (t : State) (x : Ctx) : Checks :=
  { Checks.pass with argOk := decide (x.inst < 64), idle := pageIdle t x
                     legal := x.some_ && (recState t x == 1 || recState t x == 2) }

/-- The effect of CAP_TRIGGER. -/
def effectCapTrigger (x : Ctx) (t : State) : Effect :=
  ⟨trigRec t (capHub x) x.inst ⟨8, 255, x.who.ini, x.cts⟩, .done, b2n (recState t x == 2)⟩

/-- CAP_TRIGGER, R427: a SOFTWARE trigger with the CTS of its grant; NOTE [0] for a retrigger. -/
def execCapTrigger (c : Cmd) (s : State) : Out :=
  command s c (capBlk c) 0x12 checksCapTrigger effectCapTrigger

/-- The checks of CAP_READOUT. -/
def checksCapReadout (t : State) (x : Ctx) : Checks :=
  let h := capHub x
  let fits := match recOf t h x.inst with
    | some r => decide (copyLen t r (x.sub % 16) ≤ rd t h R.REC_RD_LEN x.inst)
    | none => true
  { Checks.pass with
    argOk := decide (x.inst < 64) && (fits || slotState t x (x.sub % 16) != 2), idle := pageIdle t x
    legal := x.some_ && slotState t x (x.sub % 16) == 2 }

/-- The effect of CAP_READOUT. -/
def effectCapReadout (x : Ctx) (t : State) : Effect :=
  let h := capHub x
  let k := x.sub % 16
  let len := match recOf t h x.inst with | some r => copyLen t r k | none => 0
  let t1 := putSlot t h x.inst k 3
  let q := capOf t1 h
  let vi := if x.blk = .captureView then some (x.loc / 8) else none
  .done (beginRead (setCap t1 h { q with reads := q.reads ++ [⟨x.inst, k, rd t h R.REC_RD_ADDR x.inst, vi, len, false, 0, false⟩] }) h)

/-- CAP_READOUT, R418, R427. -/
def execCapReadout (c : Cmd) (s : State) : Out :=
  command s c (capBlk c) 0x13 checksCapReadout effectCapReadout

/-- The checks of CAP_RELEASE. -/
def checksCapRelease (t : State) (x : Ctx) : Checks :=
  { Checks.pass with argOk := decide (x.inst < 64), idle := pageIdle t x
                     legal := x.some_ && slotState t x (x.sub % 16) == 2 }

/-- The effect of CAP_RELEASE. -/
def effectCapRelease (x : Ctx) (t : State) : Effect :=
  let h := capHub x
  let k := x.sub % 16
  match recOf t h x.inst with
  | none => .done t
  | some r =>
    let r1 := { r with slots := r.slots.set k 0, order := r.order.filter (fun j => j != k) }
    if r.state = 3 then
      let row0 := max r.next (firstRow t h r.f r.chans)
      let dead := rowNs r.f row0 - rowNs r.f r.next
      .done (enterRec (wr t h R.REC_DEAD_NS x.inst dead) h x.inst { (r1.begin k row0 dead false false) with pend := firstPend t h r.f row0 r.chans } 1)
    else .done (putRec t h x.inst r1)

/-- CAP_RELEASE, R427: a COMPLETE slot becomes FREE; a HELD record takes it and is ARMED again (R410, R414). -/
def execCapRelease (c : Cmd) (s : State) : Out :=
  command s c (capBlk c) 0x14 checksCapRelease effectCapRelease

/-- The counters of a record and of the page (R424, R425). -/
def recCounters : List Reg := [R.REC_LOST, R.REC_TRIGGERS]

/-- The checks of CapClearCounters. -/
def checksCapClearCounters (t : State) (x : Ctx) : Checks :=
  { Checks.pass with
    argOk := x.blk == .captureView || decide (x.argument < 64 ∨ x.argument = 0xFFFF), idle := pageIdle t x
    legal := x.blk != .captureView || x.some_ }

/-- The effect of CapClearCounters. -/
def effectCapClearCounters (x : Ctx) (t : State) : Effect :=
  let h := capHub x
  .done
    (if x.blk = .captureView then clearRegs t h x.inst recCounters
     else if x.argument = 0xFFFF then
       clearRegs (clearInsts (clearInsts t h 0 64 recCounters) h 64 64 [R.GW_FRAMES]) h 0
         [R.CAP_REDUCE_STEPS, R.CAP_GAP_ROWS, R.CAP_LATE_SAMPLE]
     else clearRegs t h x.argument recCounters)

/-- CLEAR_COUNTERS of CAPTURE, R427, R428. -/
def execCapClearCounters (c : Cmd) (s : State) : Out :=
  command s c (capBlk c) 0x15 checksCapClearCounters effectCapClearCounters

end Sys2Proof.Machine
end

