-- ==== Sys2Proof/Machine/Real.lean ====
section
/-!
DEFINITION. Sys2Proof/Machine/Real.lean: IEEE 754 binary32 as the Crank uses it (R349, R353): round to nearest, ties to
even. Operations compute the exact result and round it once.
-/
namespace Sys2Proof.Machine

/-- A binary32 datum: a NaN, an infinity, or the number (-1)^neg × m × 2^e. -/
inductive Real32 where
  | nan
  | inf (neg : Bool)
  | num (neg : Bool) (m : Nat) (e : Int)
  deriving DecidableEq, Repr

/-- The datum that a word encodes. -/
def realOf (w : Nat) : Real32 :=
  let neg := bit w 31
  let ex := fld w 30 23
  let fr := fld w 22 0
  if ex = 255 then (if fr = 0 then .inf neg else .nan)
  else if ex = 0 then .num neg fr (-149)
  else .num neg (fr + 0x800000) (Int.ofNat ex - 150)

/-- The word of a sign and a magnitude code. -/
def signWord (neg : Bool) (code : Nat) : Nat := b2n neg * 0x80000000 + code

/-- The quotient rounded to nearest, ties to even. -/
def roundEven (m shift : Nat) : Nat :=
  let q := m / 2 ^ shift
  let r := m % 2 ^ shift * 2
  if r < 2 ^ shift then q else if 2 ^ shift < r then q + 1 else q + q % 2

/-- The word nearest to (-1)^neg × m × 2^e. A carry out of the significand moves into the exponent by itself. -/
def realWord (neg : Bool) (m : Nat) (e : Int) : Nat :=
  if m = 0 then signWord neg 0
  else
    let ulp := max (e + Int.ofNat (Nat.log2 m) - 23) (-149)
    let sig := if e ≤ ulp then roundEven m (ulp - e).toNat else m * 2 ^ (e - ulp).toNat
    let code := (ulp + 149).toNat * 0x800000 + sig
    signWord neg (min code 0x7F800000)

/-- A NaN, its sign and its payload free. -/
def nanWord (op a b : Nat) : Nat :=
  let f := (Config.nanBits op a b).toNat
  signWord (bit f 31) (0x7F800001 + f % 0x7FFFFF)

/-- A signed integer as exact number, rounded. -/
def realOfInt (i : Int) : Nat := realWord (decide (i < 0)) i.natAbs 0

/-- The signed significand at an exponent no larger than the datum's own. -/
def scaled (neg : Bool) (m : Nat) (e lo : Int) : Int :=
  let v := Int.ofNat (m * 2 ^ (e - lo).toNat)
  if neg then -v else v

/-- A + B. -/
def realAdd (op a b : Nat) : Nat :=
  match realOf a, realOf b with
  | .nan, _ | _, .nan => nanWord op a b
  | .inf n, .inf m => if n = m then signWord n 0x7F800000 else nanWord op a b
  | .inf n, _ | _, .inf n => signWord n 0x7F800000
  | .num n m e, .num n' m' e' =>
    let lo := min e e'
    let v := scaled n m e lo + scaled n' m' e' lo
    if v = 0 then signWord (n && n' && m == 0 && m' == 0) 0 else realWord (decide (v < 0)) v.natAbs lo

/-- −A, the sign bit inverted. -/
def realNeg (a : Nat) : Nat := a ^^^ 0x80000000

/-- A − B. A NaN operand keeps its word, since the sign of a NaN is free. -/
def realSub (op a b : Nat) : Nat := if realOf b = .nan then nanWord op a b else realAdd op a (realNeg b)

/-- A × B. -/
def realMul (op a b : Nat) : Nat :=
  match realOf a, realOf b with
  | .nan, _ | _, .nan => nanWord op a b
  | .inf n, .inf n' => signWord (n != n') 0x7F800000
  | .inf n, .num n' m _ | .num n' m _, .inf n => if m = 0 then nanWord op a b else signWord (n != n') 0x7F800000
  | .num n m e, .num n' m' e' => realWord (n != n') (m * m') (e + e')

/-- A ÷ B: 60 bits of the quotient below the point and one for the remainder. -/
def realDiv (op a b : Nat) : Nat :=
  match realOf a, realOf b with
  | .nan, _ | _, .nan => nanWord op a b
  | .inf _, .inf _ => nanWord op a b
  | .inf n, .num n' _ _ => signWord (n != n') 0x7F800000
  | .num n _ _, .inf n' => signWord (n != n') 0
  | .num n m e, .num n' m' e' =>
    if m' = 0 then (if m = 0 then nanWord op a b else signWord (n != n') 0x7F800000)
    else
      let x := m * 2 ^ 60
      realWord (n != n') (x / m' * 2 + (if x % m' = 0 then 0 else 1)) (e - e' - 61)

/-- A < B; a NaN compares as unordered. -/
def realLt (a b : Nat) : Bool :=
  match realOf a, realOf b with
  | .nan, _ | _, .nan => false
  | .inf n, .inf n' => n && !n'
  | .inf n, .num _ _ _ => n
  | .num _ _ _, .inf n => !n
  | .num n m e, .num n' m' e' => decide (scaled n m e (min e e') < scaled n' m' e' (min e e'))

/-- A = B; the two zeros are equal. -/
def realEq (a b : Nat) : Bool :=
  match realOf a, realOf b with
  | .nan, _ | _, .nan => false
  | .inf n, .inf n' => n == n'
  | .inf _, .num _ _ _ | .num _ _ _, .inf _ => false
  | .num n m e, .num n' m' e' => decide (scaled n m e (min e e') = scaled n' m' e' (min e e'))

/-- MIN and MAX: where neither operand is smaller (a NaN, or two zeros of different sign) the result is open. -/
def realMin (op a b : Nat) : Nat :=
  if realLt a b || a == b && realEq a b then a else if realLt b a then b else (Config.minMaxOpen op a b).toNat % 2 ^ 32
def realMax (op a b : Nat) : Nat :=
  if realLt b a || a == b && realEq a b then a else if realLt a b then b else (Config.minMaxOpen op a b).toNat % 2 ^ 32

/-- The integer of a datum truncated toward zero and saturated; a NaN gives 0. -/
def realToInt (bits w : Nat) : Int :=
  let top := Int.ofNat (2 ^ (bits - 1))
  match realOf w with
  | .nan => 0
  | .inf n => if n then -top else top - 1
  | .num n m e =>
    let a := if 0 ≤ e then Int.ofNat (m * 2 ^ e.toNat) else Int.ofNat (m / 2 ^ (-e).toNat)
    clampInt (-top) (top - 1) (if n then -a else a)

end Sys2Proof.Machine
end

