-- ==== Sys2Proof/Machine/Cell.lean ====
section
/-!
DEFINITION. Sys2Proof/Machine/Cell.lean: the cells of the Crank (R347 to R357): variables, forces and images, the checks of
CR_LOAD on one cell, and the meaning of each opcode.
-/
namespace Sys2Proof.Machine

/-! ### The window and its variables (R347, R349) -/

/-- A Crank after a reset of its domain (R374). -/
def Crank.empty : Crank :=
  ⟨0, none, none, false, none, none, false, false, false, false, false, 0, 0, 0, 0, 0, 0, 0, 0, [], [], [], [], [], [], [], [],
    true, 0, 0, 1, [], [], none, none⟩

/-- The Crank of a die. -/
def crOf (s : State) (die : Nat) : Crank := mget Crank.empty s.cranks die

/-- Set the Crank of a die. -/
def setCr (s : State) (die : Nat) (c : Crank) : State := { s with cranks := mput die c s.cranks }

/-- A Crank with nothing loaded. -/
def CrProg.empty : CrProg := ⟨0, 0, 0, 0, [], []⟩

/-- The loaded program. -/
def Crank.p (c : Crank) : CrProg := c.prog.getD CrProg.empty

/-- The Crank window of a die (R49). -/
def crWindow (die : Nat) : Nat := ctrlBase die + 0x0900000

/-- Where a variable word stands (R347). -/
def varAt (die : Nat) (p : CrProg) (a : Nat) : Nat := crWindow die + 16 * p.cells + 4 * a

/-- A word of the shared image. A cell that CR_LOAD has not checked may name a word outside the variables: it reads 0. -/
def sharedRead (s : State) (die a : Nat) : Nat :=
  let p := (crOf s die).p
  if a < p.vars then readLE s (varAt die p a) 4 else 0

/-- The retain range of a program: first word and words (R388). -/
def CrProg.retainFrom (p : CrProg) : Nat := fld p.retain 15 0
def CrProg.retainLen (p : CrProg) : Nat := fld p.retain 30 16

/-- A write to a retain word marks its block changed (R378). -/
def markRetain (c : Crank) (a : Nat) : Crank :=
  let b := (a - c.p.retainFrom) / 16
  if c.p.retainFrom ≤ a ∧ a < c.p.retainFrom + c.p.retainLen ∧ !(c.changed.contains b) then
    { c with changed := c.changed ++ [b] }
  else c

/-- An image keeps what a changed word of the shared image held when its scan began (R365). -/
def CrImage.keep (i : CrImage) (a old : Nat) : CrImage :=
  if (i.saved.lookup a).isSome then i else { i with saved := mput a old i.saved }

/-- Write a word of the shared image. -/
def sharedWrite (s : State) (die a v : Nat) : State :=
  let c := crOf s die
  if a < c.p.vars then
    let old := sharedRead s die a
    let c1 := { c with scans := c.scans.map (fun x => { x with image := x.image.map (fun i => i.keep a old) }) }
    setCr (writeLE s (varAt die c.p a) 4 v) die (markRetain c1 a)
  else s

/-- The active force on a word (R384). -/
def forceOf (c : Crank) (a : Nat) : Option Nat := (c.forces.find? (fun e => e.2.1 == a)).map (fun e => e.2.2)

/-- A word as an output copy or an event source reads it: a forced word reads FC_VALUE (R384). -/
def varRead (s : State) (die a : Nat) : Nat := (forceOf (crOf s die) a).getD (sharedRead s die a)

/-- A write that a force stops (R384): by cells in RUN, input copies and imports. -/
def varWrite (s : State) (die a v : Nat) : State :=
  if (forceOf (crOf s die) a).isSome then s else sharedWrite s die a v

/-- The running scan of a Crank. -/
def topScan (s : State) (die : Nat) : Option CrScan := (crOf s die).scans.head?

/-- Replace the running scan. -/
def setTop (s : State) (die : Nat) (x : CrScan) : State :=
  let c := crOf s die
  setCr s die { c with scans := x :: c.scans.tail }

/-- A word lies in an export range of the program (R386). -/
def inExport (p : CrProg) (a : Nat) : Bool := p.exports.any (fun r => decide (fld r 15 0 ≤ a ∧ a < fld r 15 0 + fld r 31 16))

/-- A word as a scan reads it: forced, or through its image (R365, R384). -/
def scanRead (s : State) (die : Nat) (x : CrScan) (a : Nat) : Nat :=
  match forceOf (crOf s die) a with
  | some v => v
  | none =>
    match x.image with
    | none => sharedRead s die a
    | some i => (i.writes.lookup a).getD ((i.saved.lookup a).getD (sharedRead s die a))

/-- A word as the running scan reads it. -/
def topRead (s : State) (die a : Nat) : Nat :=
  match topScan s die with
  | some x => scanRead s die x a
  | none => varRead s die a

/-- A write by the running scan: a forced word stays; in an image it waits for the scan's end, up to 16,384 distinct
words (R364, R365, R384). -/
def topWrite (s : State) (die a v : Nat) : State :=
  match topScan s die with
  | none => s
  | some x =>
    if (forceOf (crOf s die) a).isSome then s
    else
      let x1 := { x with wroteExp := x.wroteExp || inExport (crOf s die).p a }
      match x.image with
      | none => setTop (sharedWrite s die a v) die { (topScan (sharedWrite s die a v) die).getD x1 with wroteExp := x1.wroteExp }
      | some i =>
        if (i.writes.lookup a).isNone && decide (16384 ≤ i.writes.length) then setTop s die { x1 with full := true }
        else setTop s die { x1 with image := some { i with writes := mput a (v % 2 ^ 32) i.writes } }

/-! ### Cells (R350, R351) -/

/-- A cell's 16 bytes. -/
structure CellWord where
  op : Nat
  ty : Nat
  immA : Bool
  immB : Bool
  negA : Bool
  negB : Bool
  negR : Bool
  d : Nat
  a : Nat
  b : Nat
  c : Nat
  deriving DecidableEq, Repr

/-- The cell of four little-endian words. -/
def cellOf (w0 w1 w2 w3 : Nat) : CellWord :=
  ⟨fld w0 7 0, fld w0 10 8, bit w0 11, bit w0 12, bit w0 13, bit w0 14, bit w0 15, fld w0 31 16, w1, w2, w3⟩

/-- A cell of the window. -/
def cellAt (s : State) (die n : Nat) : CellWord :=
  let a := crWindow die + 16 * n
  cellOf (readLE s a 4) (readLE s (a + 4) 4) (readLE s (a + 8) 4) (readLE s (a + 12) 4)

/-- What an operand of an opcode is: nothing, a value of the cell's type, a BOOL, a DINT read through an address, or an
immediate. -/
inductive OpKind where
  | none | typed | bool | index | imm
  deriving DecidableEq, Repr

/-- What C is (R351): nothing, an address with the words that stand there, a cell index, or an immediate. -/
inductive CKind where
  | none | addr (words : Nat) | target | imm
  deriving DecidableEq, Repr

/-- An opcode of R352: its types, its operands, the words at D, and whether its result is a BOOL. -/
structure OpInfo where
  types : List Nat
  a : OpKind
  b : OpKind
  c : CKind
  dWords : Nat
  boolResult : Bool
  deriving DecidableEq, Repr

/-- Every type of R349. -/
def allTypes : List Nat := [0, 1, 2, 3, 4]

/-- The table of R352; none for a reserved opcode. -/
def opInfo (op : Nat) : Option OpInfo :=
  if op = 0 then some ⟨allTypes, .none, .none, .none, 0, false⟩
  else if op ≤ 3 then some ⟨[0, 1, 2], .typed, .typed, .none, 1, false⟩
  else if op = 4 then some ⟨allTypes, .typed, .none, .none, 1, false⟩
  else if op = 5 then some ⟨allTypes, .bool, .typed, .addr 1, 1, false⟩
  else if op ≤ 7 then some ⟨[0], .bool, .bool, .none, 1, true⟩
  else if op ≤ 9 then some ⟨[0], .bool, .none, .addr 1, 1, true⟩
  else if op < 0x10 then none
  else if op ≤ 0x13 then some ⟨[1, 2, 3, 4], .typed, .typed, .none, 1, false⟩
  else if op = 0x14 then some ⟨[1, 2], .typed, .typed, .none, 1, false⟩
  else if op ≤ 0x16 then some ⟨[1, 2, 3, 4], .typed, .none, .none, 1, false⟩
  else if op ≤ 0x18 then some ⟨[1, 2, 3, 4], .typed, .typed, .none, 1, false⟩
  else if op < 0x20 then none
  else if op ≤ 0x21 then some ⟨allTypes, .typed, .typed, .none, 1, true⟩
  else if op ≤ 0x25 then some ⟨[1, 2, 3, 4], .typed, .typed, .none, 1, true⟩
  else if op < 0x28 then none
  else if op = 0x28 then some ⟨[0, 1, 3, 4], .typed, .none, .none, 1, false⟩
  else if op = 0x29 then some ⟨[1, 2, 4], .typed, .none, .none, 1, false⟩
  else if op = 0x2A then some ⟨[2, 3, 4], .typed, .none, .none, 1, false⟩
  else if op = 0x2B then none
  else if op ≤ 0x2D then some ⟨[2], .typed, .typed, .none, 1, false⟩
  else if op < 0x30 then none
  else if op ≤ 0x32 then some ⟨[4], .bool, .typed, .addr 4, 1, true⟩
  else if op = 0x33 then some ⟨[2], .bool, .typed, .addr 2, 1, true⟩
  else if op = 0x34 then some ⟨[2], .bool, .imm, .addr 2, 1, true⟩
  else if op = 0x35 then some ⟨[2], .bool, .typed, .addr 2, 0, false⟩
  else if op < 0x38 then none
  else if op = 0x38 then some ⟨allTypes, .none, .none, .target, 0, false⟩
  else if op ≤ 0x3A then some ⟨[0], .bool, .none, .target, 0, false⟩
  else if op = 0x3B then some ⟨allTypes, .none, .none, .none, 0, false⟩
  else if op = 0x3C then some ⟨allTypes, .index, .imm, .imm, 1, false⟩
  else if op = 0x3D then some ⟨allTypes, .index, .typed, .imm, 0, false⟩
  else if op = 0x3E then some ⟨allTypes, .imm, .none, .none, 0, false⟩
  else if op = 0x3F then some ⟨allTypes, .none, .none, .none, 2, false⟩
  else if op = 0x40 then some ⟨[0], .bool, .imm, .none, 0, false⟩
  else none

/-- An operand is a BOOL, so that its negate flag may be set (R351). -/
def OpKind.isBool (k : OpKind) (ty : Nat) : Bool := k == .bool || (k == .typed && ty == 0)

/-- The opcode takes this operand as an immediate. -/
def OpKind.mayImm (k : OpKind) : Bool := k == .typed || k == .bool || k == .imm

/-- The result is a BOOL: D of an opcode of type BOOL or of a BOOL result, and the word that STX writes. -/
def resultBool (i : OpInfo) (w : CellWord) : Bool :=
  i.boolResult || ((i.dWords == 1 || w.op == 0x3D) && w.ty == 0 && w.op != 0x28)

/-- An operand's address lies inside the variables; an immediate has none. -/
def operandOk (k : OpKind) (isImm : Bool) (v vars : Nat) : Bool :=
  match k with
  | .none | .imm => true
  | .typed | .bool => isImm || decide (v < vars)
  | .index => decide (v < vars)

/-- The checks of R376 on one cell. `n` is its index and `last` the last cell of its task. -/
def cellOk (vars n last : Nat) (w : CellWord) : Bool :=
  match opInfo w.op with
  | none => false
  | some i =>
    i.types.contains w.ty &&
    (!w.negA || i.a.isBool w.ty) && (!w.negB || i.b.isBool w.ty) && (!w.negR || resultBool i w) &&
    (!w.immA || i.a.mayImm) && (!w.immB || i.b.mayImm) &&
    operandOk i.a w.immA w.a vars && operandOk i.b w.immB w.b vars &&
    (i.dWords == 0 || decide (w.d + i.dWords ≤ vars)) &&
    (match i.c with
     | .none | .imm => true
     | .addr k => decide (w.c + k ≤ vars)
     | .target => decide (n < w.c ∧ w.c ≤ last)) &&
    (w.op != 0x3C || decide (w.b + w.c ≤ vars)) && (w.op != 0x3D || decide (w.d + w.c ≤ vars)) &&
    (w.op != 0x3E || decide (1 ≤ w.a ∧ w.a ≤ 256 ∧ n + w.a ≤ last)) &&
    (w.op != 0x40 || decide (8 ≤ w.b ∧ w.b ≤ 15)) && (w.op != 0x34 || w.b == 0)

/-! ### Values (R349, R353) -/

/-- A word read as a type: BOOL as 0 or 1, INT sign-extended. -/
def typed (ty w : Nat) : Nat :=
  if ty = 0 then b2n (w % 2 ^ 32 != 0) else if ty = 1 then uns 32 (sgn 16 w) else w % 2 ^ 32

/-- A BOOL negated under its flag. -/
def negIf (n : Bool) (v : Nat) : Nat := if n then 1 - v else v

/-- Operand A or B as its opcode reads it. -/
def operand (s : State) (die : Nat) (k : OpKind) (ty : Nat) (isImm neg : Bool) (v : Nat) : Nat :=
  match k with
  | .none => 0
  | .imm => v
  | .index => topRead s die (v % 65536)
  | .bool => negIf neg (typed 0 (if isImm then v else topRead s die (v % 65536)))
  | .typed =>
    let w := typed ty (if isImm then v else topRead s die (v % 65536))
    if ty = 0 then negIf neg w else w

/-- Signed arithmetic of the int types, wrapped (R353). -/
def intOp (ty : Nat) (i : Int) : Nat := typed ty (uns 32 i)

/-- A comparison: 0 EQ, 1 NE, 2 LT, 3 LE, 4 GT, 5 GE. -/
def compareOp (k : Nat) (lt eq gt : Bool) : Nat :=
  b2n (match k with
    | 0 => eq
    | 1 => !eq
    | 2 => lt
    | 3 => lt || eq
    | 4 => gt
    | _ => gt || eq)

/-- Arithmetic and comparisons on REAL (R353). -/
def realOp (op a b : Nat) : Nat :=
  if op = 0x10 then realAdd op a b else if op = 0x11 then realSub op a b else if op = 0x12 then realMul op a b
  else if op = 0x13 then realDiv op a b else if op = 0x15 then a % 0x80000000 else if op = 0x16 then realNeg a
  else if op = 0x17 then realMin op a b else if op = 0x18 then realMax op a b
  else compareOp (op - 0x20) (realLt a b) (realEq a b) (realLt b a)

/-- Arithmetic and comparisons on int types (R352, R353). A division by 0 gives 0. -/
def intOps (op ty a b : Nat) : Nat :=
  let x := sgn 32 a
  let y := sgn 32 b
  if op = 0x10 then intOp ty (x + y) else if op = 0x11 then intOp ty (x - y) else if op = 0x12 then intOp ty (x * y)
  else if op = 0x13 then (if y = 0 then 0 else intOp ty (Int.tdiv x y))
  else if op = 0x14 then (if y = 0 then 0 else intOp ty (Int.tmod x y))
  else if op = 0x15 then intOp ty (if x < 0 then -x else x) else if op = 0x16 then intOp ty (-x)
  else if op = 0x17 then (if y < x then b else a) else if op = 0x18 then (if x < y then b else a)
  else compareOp (op - 0x20) (decide (x < y)) (decide (x = y)) (decide (y < x))

/-- Conversions (R352). -/
def convertOp (op ty a : Nat) : Nat :=
  if op = 0x28 then (if ty = 3 then uns 32 (realToInt 32 a) else a)
  else if op = 0x29 then realOfInt (sgn 32 a)
  else uns 32 (if ty = 3 then realToInt 16 a else clampInt (-32768) 32767 (sgn 32 a))

/-- D of the opcodes that only compute (R352). `old` is the word at D, which SR and RS hold. -/
def pureOp (op ty a b c old : Nat) : Nat :=
  if op = 0x01 then a &&& b else if op = 0x02 then a ||| b else if op = 0x03 then a ^^^ b
  else if op = 0x04 then a else if op = 0x05 then (if a = 0 then b else c)
  else if op = 0x06 then b2n (a != 0 || (old != 0 && b == 0)) else if op = 0x07 then b2n (b == 0 && (a != 0 || old != 0))
  else if op < 0x28 then (if ty = 3 then realOp op a b else intOps op ty a b)
  else if op < 0x2B then convertOp op ty a
  else if op = 0x2C then a * 2 ^ (b % 32) % 2 ^ 32
  else a / 2 ^ (b % 32)

/-! ### Timers and counters (R355 to R357) -/

/-- Elapsed µs between two CTS, over seconds modulo 2^34. -/
def elapsedUs (now start : Nat) : Nat :=
  let all := 2 ^ 34 * 1000000000
  let ns := fun c => c / 2 ^ 30 * 1000000000 + c % 2 ^ 30
  (ns now + all - ns start) % all / 1000

/-- A timer instance (R355): ET, start CTS, and the flags IN, Q and RUNNING. -/
structure TimerInst where
  et : Nat
  start : Nat
  inp : Bool
  q : Bool
  running : Bool
  deriving DecidableEq, Repr

/-- A running timer at this scan (R356): ET, and its end once the elapsed time reaches PT. -/
def TimerInst.run (t : TimerInst) (now pt : Nat) (qEnd : Bool) : TimerInst :=
  if t.running then
    let e := Int.ofNat (elapsedUs now t.start)
    let p := sgn 32 pt
    let t1 := { t with et := uns 32 (if e < p then e else p) }
    if p ≤ e then { t1 with q := qEnd, running := false } else t1
  else t

/-- The rules of R356 for TON, TOF and TP. -/
def timerStep (op : Nat) (t : TimerInst) (inp : Bool) (pt now : Nat) : TimerInst :=
  let t1 :=
    if op = 0x30 then
      let t0 := if inp then t else { t with q := false, et := 0, running := false }
      let t2 := if inp && !t0.running && !t0.q then { t0 with start := now, running := true } else t0
      t2.run now pt true
    else if op = 0x31 then
      let t0 := if inp then { t with q := true, et := 0, running := false } else t
      let t2 := if !inp && t.inp then { t0 with start := now, running := true } else t0
      t2.run now pt false
    else
      let t0 := if inp && !t.inp && !t.running then { t with start := now, running := true, q := true } else t
      let t2 := t0.run now pt false
      if !inp && !t2.running then { t2 with et := 0 } else t2
  { t1 with inp := inp }

/-- The instance at C. -/
def timerAt (s : State) (die c : Nat) : TimerInst :=
  let r := fun i => topRead s die (c + i)
  let f := r 3
  ⟨r 0, r 1 + r 2 * 2 ^ 32, bit f 0, bit f 1, bit f 2⟩

/-- Write words from an address upward by the running scan. -/
def topWrites (s : State) (die a : Nat) (ws : List Nat) : State :=
  ws.zipIdx.foldl (fun t w => topWrite t die (a + w.2) w.1) s

/-- The words of an instance. -/
def TimerInst.words (t : TimerInst) : List Nat :=
  [t.et, t.start % 2 ^ 32, t.start / 2 ^ 32, b2n t.inp + b2n t.q * 2 + b2n t.running * 4]

/-- CV of a counter after a rising edge (R352). -/
def countStep (op : Nat) (rise : Bool) (cv : Int) : Int :=
  if !rise then cv else if op = 0x33 then clampInt (-2147483648) 2147483647 (cv + 1) else clampInt (-2147483648) 2147483647 (cv - 1)

/-! ### Events of tasks (R359) -/

/-- A task of the loaded program. -/
def crTask (c : Crank) (t : Nat) : CrTask := c.p.tasks[t]?.getD ⟨0, 0, 0, 0, 0, 0⟩

/-- A task is enabled in the loaded program. -/
def taskOn (c : Crank) (t : Nat) : Bool := c.prog.isSome && bit (crTask c t).cfg 4

/-- The engine makes scans (R374): RUN, RECOVER or STEP. -/
def Crank.active (c : Crank) : Bool := c.state == 2 || c.state == 3 || c.state == 4

/-- A task is released or its scan is in progress. -/
def taskBusy (c : Crank) (t : Nat) : Bool := c.released.any (fun r => r.task == t) || c.scans.any (fun x => x.rel.task == t)

/-- A release as it is made now; CT_WDT and OVR_ACTION act from here (R390). -/
def releaseNow (s : State) (die t cts : Nat) : CrRelease :=
  ⟨t, cts, s.now, within 10 1000000 (rd s die R.CT_WDT t), bit (rd s die R.CT_CFG t) 5, false⟩

/-- An event for a task (R359): released, or pending where it is released or its scan is in progress; the last cause
stands. -/
def taskEvent (s : State) (die t cts : Nat) : State :=
  let c := crOf s die
  if c.active && taskOn c t && decide (8 ≤ t ∧ t < 16) then
    if taskBusy c t then
      hwEvent (incr (setCr s die { c with pend := mput t cts c.pend }) die R.CT_MERGED t 1) die .crankTask 17
    else setCr s die { c with released := c.released ++ [releaseNow s die t cts] }
  else s

/-! ### One cell -/

/-- Write D: negated under its flag, in the word form of the result's type (R349, R351). -/
def writeD (s : State) (die : Nat) (i : OpInfo) (w : CellWord) (v : Nat) : State :=
  let b := resultBool i w
  topWrite s die w.d (if b then negIf w.negR (typed 0 v) else v % 2 ^ 32)

/-- The meaning of one cell other than a jump and END (R352, R353). -/
def cellEffect (s : State) (die : Nat) (cts : Nat) (i : OpInfo) (w : CellWord) : State :=
  let a := operand s die i.a w.ty w.immA w.negA w.a
  let b := operand s die i.b w.ty w.immB w.negB w.b
  let rdw := topRead s die
  if w.op = 0x00 then s
  else if w.op = 0x08 ∨ w.op = 0x09 then
    let m := typed 0 (rdw w.c)
    let v := if w.op = 0x08 then b2n (a != 0 && m == 0) else b2n (m != 0 && a == 0)
    writeD (topWrite s die w.c a) die i w v
  else if w.op = 0x13 ∧ w.ty ≠ 3 ∧ b = 0 ∨ w.op = 0x14 ∧ b = 0 then
    hwEvent (incr (writeD s die i w 0) die R.ARITH_FAULT 0 1) die .crank 2
  else if 0x30 ≤ w.op ∧ w.op ≤ 0x32 then
    let t := timerStep w.op (timerAt s die w.c) (a != 0) b cts
    writeD (topWrites s die w.c t.words) die i w (b2n t.q)
  else if w.op = 0x33 ∨ w.op = 0x34 then
    let cv := countStep w.op (a != 0 && !(bit (rdw (w.c + 1)) 0)) (sgn 32 (rdw w.c))
    let q := if w.op = 0x33 then decide (sgn 32 b ≤ cv) else decide (cv ≤ 0)
    writeD (topWrites s die w.c [uns 32 cv, a]) die i w (b2n q)
  else if w.op = 0x35 then (if a = 0 then s else topWrite s die w.c b)
  else if w.op = 0x3C then
    let x := sgn 32 a
    if 0 ≤ x ∧ x < Int.ofNat w.c then writeD s die i w (typed w.ty (rdw (b + a)))
    else hwEvent (incr (writeD s die i w 0) die R.INDEX_FAULT 0 1) die .crank 3
  else if w.op = 0x3D then
    let x := sgn 32 a
    if 0 ≤ x ∧ x < Int.ofNat w.c then topWrite s die (w.d + a) (if w.ty = 0 then negIf w.negR b else b)
    else hwEvent (incr s die R.INDEX_FAULT 0 1) die .crank 3
  else if w.op = 0x3E then
    match topScan s die with
    | some x => setTop s die { x with atomic := max x.atomic (w.a + 1) }
    | none => s
  else if w.op = 0x3F then topWrites s die w.d [cts % 2 ^ 32, cts / 2 ^ 32]
  else if w.op = 0x40 then (if a = 0 then s else taskEvent s die w.b cts)
  else writeD s die i w (pureOp w.op w.ty a b (typed w.ty (rdw w.c)) (typed 0 (rdw w.d)))

/-- Whether a jump is taken; none for another opcode. -/
def jumpTaken (s : State) (die : Nat) (w : CellWord) : Option Bool :=
  let a := operand s die .bool 0 w.immA w.negA w.a
  if w.op = 0x38 then some true else if w.op = 0x39 then some (a != 0) else if w.op = 0x3A then some (a == 0) else none

/-- The running scan stands at END. -/
def atEnd (s : State) (die : Nat) : Bool :=
  match topScan s die with
  | some x => (cellAt s die x.pc).op == 0x3B
  | none => true

/-- What a cell that is no jump does, given its opcode's entry in the table of cells. -/
def cellActs (s : State) (die cts : Nat) (w : CellWord) (o : Option OpInfo) : State :=
  match o with
  | some i => if (jumpTaken s die w).isNone then cellEffect s die cts i w else s
  | none => s

/-- The running scan goes on at a cell. -/
def toCell (s : State) (die pc : Nat) : State :=
  match topScan s die with
  | some y => setTop s die { y with pc := pc, atomic := y.atomic - 1 }
  | none => s

/-- Run the running scan's next cell, which is not END. A reserved opcode, which only an unchecked cell has, does
nothing. -/
def stepCell (s : State) (die : Nat) : State :=
  match topScan s die with
  | none => s
  | some x =>
    let w := cellAt s die x.pc
    let next := match jumpTaken s die w with
      | some true => w.c % 65536
      | _ => x.pc + 1
    toCell (cyc (cellActs s die x.rel.cts w (opInfo w.op)) die .crank 0x10 0 1 none) die next

/-- CT_CFG priority of a task. -/
def prio (c : Crank) (t : Nat) : Nat := fld (crTask c t).cfg 3 0

/-- The released task of the highest priority. -/
def bestRelease (c : Crank) : Option CrRelease :=
  c.released.foldl (fun o r => match o with
    | none => some r
    | some q => if prio c r.task < prio c q.task then some r else some q) none

/-- A released task may start: nothing runs, or it pre-empts in RUN (R360). In STEP scans begin by CR_STEP. -/
def mayStart (c : Crank) : Option CrRelease :=
  match bestRelease c, c.scans.head? with
  | none, _ => none
  | some r, none => if c.state = 2 ∨ c.state = 3 then some r else none
  | some r, some x => if c.state = 2 ∧ prio c r.task < prio c x.rel.task then some r else none

/-- The running scan goes on with a cell: it does not stand at END, and its image is not full. -/
def goesOn (s : State) (die : Nat) : Bool :=
  !(atEnd s die) && (match topScan s die with | some x => !x.full | none => false)

/-- A released task pre-empts the running scan before its next cell: it stands in no ATOMIC region (R360). -/
def preempted (s : State) (die : Nat) : Bool :=
  (mayStart (crOf s die)).isSome && (match topScan s die with | some x => x.atomic == 0 | none => false)

/-- Run up to `n` cells of the running scan; it stops before END, where its image is full, and where a task that it has
released pre-empts it (R360). -/
def runCells : Nat → State → Nat → State
  | 0, s, _ => s
  | n + 1, s, die => if goesOn s die && !(preempted s die) then runCells n (stepCell s die) die else s

/-- Run the cells of an ATOMIC region to its end, and of one that it enters (R352, R360). -/
def atomicCells : Nat → State → Nat → State
  | 0, s, _ => s
  | n + 1, s, die =>
    if goesOn s die && (match topScan s die with | some x => x.atomic != 0 | none => false) then atomicCells n (stepCell s die) die else s

end Sys2Proof.Machine
end

