-- ==== Sys2Proof/Machine/Retain.lean ====
section
/-!
DEFINITION. Sys2Proof/Machine/Retain.lean: the retain journal of the Cranks and the XSPI_RETAIN pages (R377 to R381, R391).
-/
namespace Sys2Proof.Machine

/-! ### The device and its regions (R379, R391) -/

/-- A retain memory that nothing has written. -/
def Retain.empty : Retain := ⟨[], 0, false, 0, []⟩

/-- A hub's retain memory. -/
def rtOf (s : State) (hub : Nat) : Retain := mget Retain.empty s.retains hub

/-- Set a hub's retain memory. -/
def setRt (s : State) (hub : Nat) (r : Retain) : State := { s with retains := mput hub r s.retains }

/-- Bytes of a retain memory. -/
def rtRead (r : Retain) (a n : Nat) : List Byte := (List.range n).map (fun i => mget unwritten r.cells (a + i))

/-- Base and size of a Crank's region in bytes. -/
def rtBase (s : State) (hub die : Nat) : Nat := rd s hub (R.RT_REGION.nth (die - 2)) 0 % 65536 * 65536
def rtSize (s : State) (hub die : Nat) : Nat := rd s hub (R.RT_REGION.nth (die - 2)) 0 / 65536 * 65536

/-- A hub takes part in a Crank's journal: it is present and runs, its port is enabled, and it has a region. -/
def rtTakes (s : State) (hub die : Nat) : Bool :=
  domRun s hub 4 && bit (rd s hub R.RT_CFG 0) 0 && decide (0 < rtSize s hub die)

/-- The hubs that take part. -/
def rtHubs (s : State) (die : Nat) : List Nat := (hubs s).filter (fun h => rtTakes s h die)

/-- RT_STATUS (R391): READY while the port is enabled, BUSY while a record waits for it, PF_ACTIVE. -/
def rtStatus (s : State) (hub : Nat) : Nat :=
  let busy := (diesOf s).any (fun d => (crOf s d).queue.any (fun q => q.left.contains hub))
  b2n (bit (rd s hub R.RT_CFG 0) 0) + b2n busy * 2 + b2n (rtOf s hub).active * 4

/-- RT_STATUS, RT_WRITTEN. -/
def showRt (s : State) (hub : Nat) : State :=
  wrAll s hub 0 [(R.RT_STATUS, rtStatus s hub), (R.RT_WRITTEN, (rtOf s hub).written / 1024)]

/-! ### Records (R378, R379) -/

/-- Blocks of a program's retain range. -/
def retainBlocks (p : CrProg) : Nat := ceilDiv p.retainLen 16

/-- The 64 bytes of a block; words past the range are 0. -/
def blockBytes (s : State) (die b : Nat) : List Byte :=
  let p := (crOf s die).p
  (List.range 16).flatMap (fun i =>
    bytesLE 4 (if b * 16 + i < p.retainLen then sharedRead s die (p.retainFrom + b * 16 + i) else 0))

/-- A record before its padding. -/
def jrnlBody (s : State) (die seq cts flags : Nat) (blocks : List Nat) : List Byte :=
  bytesLE 4 seq ++ bytesLE 4 (crOf s die).p.progId ++ bytesLE 8 cts ++ bytesLE 2 blocks.length ++ bytesLE 1 flags ++ bytesLE 1 1 ++
  blocks.flatMap (fun b => bytesLE 4 b ++ blockBytes s die b)

/-- A record with its CRC, padded to a multiple of 16 bytes. -/
def jrnlBytes (s : State) (die seq cts flags : Nat) (blocks : List Nat) : List Byte :=
  let body := jrnlBody s die seq cts flags blocks
  let all := body ++ bytesLE 4 (crc32 body)
  all ++ List.replicate ((16 - all.length % 16) % 16) 0

/-- Form one record and queue it for every hub that takes part. -/
def pushRec (s : State) (die cts flags : Nat) (blocks : List Nat) (checkpoint : Bool) : State :=
  let c := crOf s die
  let seq := (c.seq + 1) % 2 ^ 32
  let bytes := jrnlBytes s die seq cts (flags + b2n checkpoint) blocks
  let hs := rtHubs s die
  let slot := if checkpoint then 1 - c.slot else c.slot
  let place := if checkpoint then slot * 0x20000 else 0x40000 + c.jpos
  let r : JrnlRec := ⟨seq, bytes, checkpoint, bit flags 2, place, hs, false⟩
  setCr s die { c with
    seq := seq, slot := slot, jpos := if checkpoint then 0 else c.jpos + bytes.length
    changed := c.changed.filter (fun b => !(blocks.contains b))
    needCk := c.needCk && !checkpoint, queue := if hs.isEmpty then c.queue else c.queue ++ [r] }

/-- Bytes of a record of `b` blocks. -/
def recLen (b : Nat) : Nat := ceilDiv (24 + 68 * b) 16 * 16

/-- A record of `b` blocks fits before the end of the journal area of every hub that takes part. -/
def recFits (s : State) (die b : Nat) : Bool :=
  (rtHubs s die).all (fun h => decide (0x40000 + (crOf s die).jpos + recLen b ≤ rtSize s h die))

/-- Form the record of the changed blocks (R378, R379): a checkpoint where one is due, a checkpoint first where the record
would not fit. -/
def formRec (s : State) (die cts flags : Nat) : State :=
  let c := crOf s die
  let all := List.range (retainBlocks c.p)
  if c.needCk then pushRec s die cts flags all true
  else if recFits s die c.changed.length then pushRec s die cts flags c.changed false
  else
    let s1 := pushRec s die cts flags all true
    pushRec s1 die cts flags c.changed false

/-- The record of a boundary (R362, R378): none while no block has changed, and none while the previous one is still
being written. -/
def boundaryRec (s : State) (die cts : Nat) : State :=
  let c := crOf s die
  if c.changed.isEmpty then s
  else if c.queue.isEmpty then formRec s die cts 0
  else incr s die R.JRNL_MERGE 0 1

/-- The record of a stop (R373, R380): the blocks changed since the last boundary, with PARTIAL. -/
def stopRec (s : State) (die : Nat) (power : Bool) : State :=
  if (crOf s die).p.retainLen = 0 then s else formRec s die (ctsNow s die) (2 + b2n power * 4)

/-! ### Commit (R378, R380, R391) -/

/-- The oldest record not yet committed on a hub. -/
def frontRec (c : Crank) (hub : Nat) : Option JrnlRec := c.queue.find? (fun r => r.left.contains hub)

/-- Take records from the front of the queue that no hub has yet to write; CR_JRNL_SEQ follows those that every hub has
committed (R378). -/
def popRecs : List JrnlRec → Option Nat × List JrnlRec
  | [] => (none, [])
  | r :: rs => if r.left.isEmpty then
      let p := popRecs rs
      (if r.lost then p.1 else some (p.1.getD r.seq), p.2)
    else (none, r :: rs)

/-- A hub is done with a record: it is committed there, or given up. -/
def leaveRec (s : State) (die hub seq : Nat) (lost : Bool) : State :=
  let c := crOf s die
  let q := c.queue.map (fun r => if r.seq = seq then { r with left := r.left.erase hub, lost := r.lost || lost } else r)
  let p := popRecs q
  let s1 := setCr s die { c with queue := p.2 }
  match p.1 with
  | some n => wr s1 die R.CR_JRNL_SEQ 0 n
  | none => s1

/-- The final records of R380 are committed on a hub: RT_PF_TIME, PF_DONE, and PF_LATE beyond 1.5 ms. -/
def pfDone (s : State) (hub : Nat) : State :=
  let r := rtOf s hub
  if r.active && r.waits.isEmpty then
    let us := (s.now - r.at_) / 1000
    let s1 := hwEvent (wr s hub R.RT_PF_TIME 0 (min us 65535)) hub .xspiRetain 1
    if r.at_ + 1500000 < s.now then hwEvent s1 hub .xspiRetain 2 else s1
  else s

/-- A record's bytes reach a hub's device. -/
def rtStore (s : State) (die hub : Nat) (r : JrnlRec) : State :=
  let m := rtOf s hub
  setRt s hub { m with
    cells := memPuts (rtBase s hub die + r.place) r.bytes m.cells, written := m.written + r.bytes.length
    waits := if r.powerFail then m.waits.erase die else m.waits }

/-- JOURNAL_COMMIT, R378: the oldest record's CRC is written on a hub. Whether its write failed once and its retry went well is a
free value, counted in RT_ERRORS (R391; DESIGN CHOICE, log entry 128). -/
def execJournalCommit (die hub : Nat) (s : State) : Out :=
  match frontRec (crOf s die) hub with
  | some r =>
    if rtTakes s hub die && lineReach s die hub then
      let s0 := incr (drew s) hub R.RT_ERRORS 0 (freeNat s % 2)
      let s1 := leaveRec (rtStore s0 die hub r) die hub r.seq false
      .next (showRt (if r.powerFail then pfDone s1 hub else s1) hub)
    else .next s
  | none => .next s

/-- A hub's port reports a record that has failed twice (R391). -/
def retainFails (s : State) (hub : Nat) : State :=
  let st := pageStamp s hub hub .xspiRetain 0
  let s1 := incr (tickPage s hub .xspiRetain) hub R.RT_ERRORS 0 2
  eventRec s1 hub hub .xspiRetain st (pagePlane .xspiRetain) 0 0 []

/-- Records that wait for a hub behind one that it gave up: a checkpoint formed now takes their place, as the Crank's next record
to that hub is one (R391; DESIGN CHOICE, log entry 128). -/
def replaceQueued (s : State) (die hub : Nat) : State :=
  match (crOf s die).queue.filter (fun r => r.left.contains hub && !r.checkpoint) with
  | [] => s
  | q :: qs =>
    let power := (q :: qs).any (fun r => r.powerFail)
    let s1 := (q :: qs).foldl (fun t r => leaveRec t die hub r.seq true) s
    pushRec s1 die (ctsNow s1 die) (b2n power * 6) (List.range (retainBlocks (crOf s1 die).p)) true

/-- RETAIN_WRITE_ERROR, R391: the oldest record has failed twice on a hub; the Crank's next record is a checkpoint. A hub whose
port no longer takes part reports nothing. -/
def execRetainWriteError (die hub : Nat) (s : State) : Out :=
  match frontRec (crOf s die) hub with
  | some r =>
    let s1 := leaveRec (if rtTakes s hub die then retainFails s hub else s) die hub r.seq true
    let s2 := replaceQueued (setCr s1 die { crOf s1 die with needCk := true }) die hub
    .next (if domRun s2 hub 4 then showRt s2 hub else s2)
  | none => .next s

/-! ### Restore (R377, R379) -/

/-- A record that a region holds: sequence, program, flags, entries (block index and bytes) and its length. -/
structure StoredRec where
  seq : Nat
  progId : Nat
  flags : Nat
  entries : List (Nat × List Byte)
  len : Nat
  deriving DecidableEq, Repr

/-- The record at an address of a retain memory, where its CRC checks; `room` bytes are left there. -/
def recAt (m : Retain) (a room : Nat) : Option StoredRec :=
  let h := rtRead m a 20
  let f := fun i n => ofBytesLE ((h.drop i).take n)
  let b := f 16 2
  if recLen b ≤ room ∧ b ≤ 1024 ∧ f 19 1 = 1 then
    let body := rtRead m a (20 + 68 * b)
    if crc32 body = ofBytesLE (rtRead m (a + 20 + 68 * b) 4) then
      some ⟨f 0 4, f 4 4, f 18 1, (List.range b).map (fun i =>
        (ofBytesLE ((body.drop (20 + 68 * i)).take 4) % 1024, (body.drop (24 + 68 * i)).take 64)), recLen b⟩
    else none
  else none

/-- Journal records from an offset on, while each checks and carries the next sequence. -/
def chainAt (m : Retain) (base size : Nat) : Nat → Nat → Nat → List StoredRec
  | 0, _, _ => []
  | n + 1, off, seq =>
    match recAt m (base + off) (size - off) with
    | some r => if r.seq = (seq + 1) % 2 ^ 32 then r :: chainAt m base size n (off + r.len) r.seq else []
    | none => []

/-- The newest valid checkpoint of a region, with its slot. -/
def newestCk (m : Retain) (base progId : Nat) : Option (Nat × StoredRec) :=
  let ok := fun i => match recAt m (base + i * 0x20000) 0x20000 with
    | some r => if bit r.flags 0 && r.progId == progId then some (i, r) else none
    | none => none
  match ok 0, ok 1 with
  | some a, some b => if a.2.seq < b.2.seq then some b else some a
  | some a, none => some a
  | none, b => b

/-- What a hub's region restores: the slot of its checkpoint and the records to apply, the checkpoint first. -/
def regionRecs (s : State) (hub die : Nat) : Option (Nat × List StoredRec) :=
  let m := rtOf s hub
  let base := rtBase s hub die
  let size := rtSize s hub die
  let prog := (crOf s die).p.progId
  if rtTakes s hub die && lineReach s die hub then
    (newestCk m base prog).map (fun k => (k.1, k.2 :: chainAt m base size (size / 32) 0x40000 k.2.seq))
  else none

/-- The sequence that a restore reaches. -/
def reached (rs : List StoredRec) : Nat := match rs.getLast? with | some r => r.seq | none => 0

/-- The hub that reaches the higher sequence; hub A for equal ones (R379). -/
def bestRegion (s : State) (die : Nat) : Option (Nat × List StoredRec) :=
  match regionRecs s 0 die, regionRecs s 1 die with
  | some a, some b => if reached a.2 < reached b.2 then some b else some a
  | some a, none => some a
  | none, b => b

/-- Put a block's words into the shared image. -/
def putBlock (s : State) (die : Nat) (e : Nat × List Byte) : State :=
  let p := (crOf s die).p
  (List.range 16).foldl (fun t i =>
    if e.1 * 16 + i < p.retainLen then sharedWrite t die (p.retainFrom + e.1 * 16 + i) (ofBytesLE ((e.2.drop (4 * i)).take 4)) else t) s

/-- Apply the records of a restore, in order. -/
def applyRecs (s : State) (die : Nat) (rs : List StoredRec) : State :=
  rs.foldl (fun t r => r.entries.foldl (fun u e => putBlock u die e) t) s

/-! ### RT_CLEAR (R391) -/

/-- The region's Crank is EMPTY, STOPPED or HALTED. -/
def rtQuiet (s : State) (die : Nat) : Bool := let st := (crOf s die).state; st == 0 || st == 1 || st == 5

/-- The checks of RT_CLEAR. -/
def checksRtClear (t : State) (x : Ctx) : Checks :=
  { Checks.pass with
    argOk := decide (x.argument % 8 < 6), idle := pageIdle t x
    legal := bit (rd t x.loc R.RT_CFG 0) 0 && rtQuiet t (x.argument % 8 + 2) }

/-- The effect of RT_CLEAR. -/
def effectRtClear (_ : Ctx) (t : State) : Effect :=
  .accepted t

/-- RT_CLEAR, R391. -/
def execRtClear (c : Cmd) (s : State) : Out :=
  command s c .xspiRetain 0x10 checksRtClear effectRtClear

/-- Addresses of the record headers of a region (R391): both slots, the start of the journal area, and every place there at which
a record stands. -/
def headersOf (m : Retain) (base size : Nat) : List Nat :=
  if size = 0 then []
  else base :: (base + 0x20000) :: (base + 0x40000) ::
    (((List.range ((size - 0x40000) / 16)).map (fun k => 0x40000 + 16 * (k + 1))).filter
      (fun off => (recAt m (base + off) (size - off)).isSome)).map (fun off => base + off)

/-- RT_CLEAR_DONE, R391: every record header of the region is zeros. -/
def execRtClearDone (hub : Nat) (s : State) : Out :=
  match runningOp s hub .xspiRetain 0x10 with
  | some t =>
    if domRun s hub 4 then
      let die := t.argument % 8 + 2
      let m := rtOf s hub
      let base := rtBase s hub die
      let size := rtSize s hub die
      let heads := headersOf m base size
      let m1 := { m with cells := heads.foldl (fun cs a => memPuts a (List.replicate 20 0) cs) m.cells
                         written := m.written + 20 * heads.length }
      .next (showRt (finish (setRt s hub m1) hub .xspiRetain t .done 0) hub)
    else .next s
  | none => .next s

end Sys2Proof.Machine
end

