-- ==== Sys2Proof/Machine/Crank.lean ====
section
/-!
DEFINITION. Sys2Proof/Machine/Crank.lean: the Crank engine (R347 to R392): scans, outputs, boundaries, stops, on-line change,
forcing, and its commands.
-/
namespace Sys2Proof.Machine

/-! ### What the registers show (R388, R390) -/

/-- CR_STATE. -/
def crStateWord (c : Crank) : Nat :=
  c.state + b2n c.start.isSome * 8 + b2n c.olc.isSome * 16 + b2n c.localCycle * 32 + b2n c.powerFail * 64 + b2n c.retainLost * 128 +
  b2n c.reload * 256 + b2n c.importing * 512 + b2n c.mode.isSome * 1024 + c.cause * 4096 + c.stepped * 65536

/-- CT_STATE of a task. -/
def ctStateWord (c : Crank) (t : Nat) : Nat :=
  let n :=
    match c.scans.findIdx? (fun x => x.rel.task == t) with
    | some 0 => 2
    | some _ => 3
    | none => if c.released.any (fun r => r.task == t) then 1 else 0
  n + b2n (c.pend.lookup t).isSome * 4

/-- The registers follow the engine. -/
def showCrank (s : State) (die : Nat) : State :=
  if domRun s die 11 then
    let c := crOf s die
    let s1 := wrAll s die 0 [(R.CR_STATE, crStateWord c), (R.CR_CYCLE_COUNT, c.k), (R.CR_FORCES, c.forces.length)]
    (List.range 16).foldl (fun t i => wr t die R.CT_STATE i (ctStateWord c i)) s1
  else s

/-- The end of a Crank row. -/
def crankOut (die : Nat) (s : State) : Out := .next (showCrank s die)

/-- An EVENT bit of the owner's CRANK_VIEW (R368, R392). -/
def crViewEvent (s : State) (die n : Nat) : State :=
  let g := rd s die R.CR_CFG 0
  if bit g 8 then hwEvent s (viewLoc (g % 256)) .crankView n else s

/-- The owner of CRANK_VIEW. -/
def crOwner (s : State) (die v : Nat) : Bool := rd s die R.CR_CFG 0 % 512 == 256 + v

/-! ### The maps (R367, R368) -/

/-- An entry of the input map or the output map: VAR, KIND, HUB, DEFAULT and INDEX. -/
structure MapEntry where
  var : Nat
  kind : Nat
  hub : Nat
  dflt : Nat
  index : Nat
  deriving DecidableEq, Repr

/-- An entry of the window at an offset. -/
def mapEntry (s : State) (die off n : Nat) : MapEntry :=
  let a := crWindow die + off + 8 * n
  let w := readLE s a 4
  ⟨w % 65536, fld w 19 16, fld w 24 24, fld w 25 25, readLE s (a + 4) 4 % 65536⟩

/-- The input map and the output map (R347). -/
def inEntry (s : State) (die n : Nat) : MapEntry := mapEntry s die 0xFE000 n
def outEntry (s : State) (die n : Nat) : MapEntry := mapEntry s die 0xFF000 n

/-- First entry and count of a task's range (R390). -/
def rangeOf (w : Nat) : List Nat := (List.range (fld w 25 16)).map (fun i => fld w 8 0 + i)

/-- A hub's BIN and TRIP_SENSE reach the Crank (R367). -/
def hubSeen (s : State) (die hub : Nat) : Bool := domRun s hub 9 && lineReach s die hub

/-- The value of an input entry's source; none where its hub is absent or lost (R367). -/
def inValue (s : State) (die : Nat) (e : MapEntry) : Option Nat :=
  if e.kind = 0 then some (rd s die (R.CRANK_MBX_IN.nth e.index) 0)
  else if e.kind = 1 then (if hubSeen s die e.hub then some (b2n (binOf s e.hub e.index).level) else none)
  else if e.kind = 2 then (if hubSeen s die e.hub then some (b2n (lineOf s e.hub e.index).sense) else none)
  else if e.index = 0 then
    some (match (hubs s).find? (fun h => domRun s h 7) with
      | some h => b2n (decide (rd s h R.TD_STATE 0 % 8 < 2))
      | none => 0)
  else if e.index = 1 then some (levelOf s die).level
  else if e.index = 2 then some (b2n (masterLocked s))
  else some (b2n (crOf s die).localCycle)

/-- The input copy of a map entry. -/
def copyIn (s : State) (die : Nat) (e : MapEntry) : State :=
  match inValue s die e with
  | some v => topWrite s die e.var v
  | none => topWrite (incr s die R.IN_DEFAULT 0 1) die e.var e.dflt

/-- One entry of the input copy. -/
def inputCopy (die : Nat) (s : State) (n : Nat) : State := copyIn s die (inEntry s die n)

/-! ### Demands (R369, R370) -/

/-- The Crank's write of a line's software demand, as an access of its own initiator (R57, R369). At a hub that does not take
it, the demand counts as denied (DESIGN CHOICE, log entry 47). -/
def crDemand (s : State) (die hub line : Nat) (on : Bool) : State :=
  let w : Who := ⟨106 + (die - 2), none⟩
  let a : Access := ⟨hub, .tripIo, 0, none, 0, false, 2 ^ line, w⟩
  let c := crOf s die
  let s0 := setCr s die { c with outs := mput (hub * 8 + line) on c.outs }
  if present s0 hub && domRun s0 hub 9 && lineReach s0 die hub then
    let taken := ownsLine s0 hub w line
    let s1 := { outState s0 (if on then execTioSwSet a s0 else execTioSwClr a s0) with resp := s0.resp }
    if taken then s1 else hwEvent (incr s1 die R.OUT_DENIED 0 1) die .crank 4
  else hwEvent (incr s0 die R.OUT_DENIED 0 1) die .crank 4

/-- TRIP entries of the output map that name a line, while a program is loaded (R370, R374). -/
def tripEntries (s : State) (die : Nat) : List MapEntry :=
  if (crOf s die).prog.isNone then []
  else ((List.range 512).map (outEntry s die)).filter (fun e => e.kind == 1 && decide (e.index < 8))

/-- The Kickstand demands of R370: DRIVE-1 sets, KEEP leaves the demand, every other code clears. -/
def kickDemands (s : State) (die : Nat) : State :=
  (tripEntries s die).foldl (fun t e =>
    let code := pinCode t e.hub (e.index % 8)
    if code = 5 then t else crDemand t die e.hub (e.index % 8) (code == 4)) s

/-- Enter a state: STATE_CHANGE, its VI's copy, and outside RUN the Kickstand demands (R370, R374). -/
def enterCr (s : State) (die st : Nat) : State :=
  let c := crOf s die
  let c1 := { c with state := st, cause := if st = 5 then c.cause else 0, outs := if st = 2 then [] else c.outs
                     recCount := if st = 3 then 0 else c.recCount }
  let s1 := setCr s die c1
  let s2 := if c.state = st then s1 else crViewEvent (hwEvent s1 die .crank 0) die 16
  if st = 2 then s2 else kickDemands s2 die

/-! ### Stops (R373) -/

/-- Every scan is abandoned, and nothing waits to start. -/
def dropScans (c : Crank) : Crank := { c with scans := [], released := [], pend := [], mode := none }

/-- The engine stops at the next cell boundary (R373). -/
def stopCr (s : State) (die st : Nat) (power : Bool) : State :=
  let s0 := setCr s die (dropScans (crOf s die))
  let s1 := enterCr s0 die st
  let s2 := stopRec s1 die power
  let tag := pageStamp s2 die die .crank 0
  if st = 5 then eventRec (tickPage s2 die .crank) die die .crank tag (pagePlane .crank) 1 0 []
  else record (tickPage s2 die .crank) die die .crank tag (pagePlane .crank) 0 true 0 []

/-- The engine halts with a HALT_CAUSE. -/
def haltCr (s : State) (die cause : Nat) : State := stopCr (setCr s die { crOf s die with cause := cause }) die 5 false

/-! ### Scans (R360, R363, R365) -/

/-- Finish an ATOMIC region (R360); a scan has at most 65,536 cells. -/
def finishAtomic (s : State) (die : Nat) : State := atomicCells 65536 s die

/-- A scan that has written more words than its image holds is abandoned (R365). -/
def checkFull (s : State) (die : Nat) : State :=
  match topScan s die with
  | some x =>
    if x.full then
      let c := crOf s die
      let s1 := incr (setCr s die { c with scans := c.scans.tail }) die R.IMAGE_FULL 0 1
      if x.rel.ovr then haltCr s1 die 3 else s1
    else s
  | none => s

/-- Begin a scan: its image in STEP and RECOVER, and its input copy (R363, R365). -/
def beginScan (s : State) (die : Nat) (r : CrRelease) : State :=
  let c := crOf s die
  let image : Option CrImage := if c.state = 2 then none else some ⟨[], []⟩
  let x : CrScan := ⟨r, fld (crTask c r.task).cells 15 0, 0, image, false, false⟩
  let s1 := setCr s die { c with released := c.released.filter (fun q => q.task != r.task), scans := x :: c.scans }
  let s2 := wr s1 die R.CT_LAST_START r.task r.cts
  (rangeOf (crTask c r.task).inp).foldl (inputCopy die) s2

/-- Start what may start now: the running scan first leaves its ATOMIC region, which may release a task of higher
priority (R360). -/
def schedule (s : State) (die : Nat) : State :=
  match mayStart (crOf s die) with
  | none => s
  | some _ =>
    let s1 := finishAtomic s die
    match mayStart (crOf s1 die) with
    | some r => beginScan s1 die r
    | none => s1

/-- The running scan goes on for a number of cells that timing leaves open. -/
def advance (s : State) (die : Nat) : State :=
  match topScan s die with
  | none => s
  | some x =>
    if (crOf s die).state = 4 ∧ x.image.isSome then s
    else
      let s1 := runCells (freeNat s % 65536) (drew s) die
      if preempted s1 die then schedule s1 die else s1

/-- One entry of the output copy of a scan, with the values that the scan sees (R365, R368, R370). -/
def outputCopy (die : Nat) (x : CrScan) (s : State) (n : Nat) : State :=
  let e := outEntry s die n
  let v := scanRead s die x e.var
  let c := crOf s die
  if e.kind = 0 then wr s die (R.CRANK_MBX_OUT.nth e.index) 0 v
  else if e.kind = 1 then
    let on := v != 0
    if c.state = 2 ∧ (c.outs.lookup (e.hub * 8 + e.index % 8)) ≠ some on then crDemand s die e.hub (e.index % 8) on else s
  else
    let s1 := setCr s die { c with evs := mput n (v != 0) c.evs }
    if v ≠ 0 ∧ !(mget false c.evs n) then crViewEvent s1 die e.index else s1

/-- An image's writes reach the shared image (R365). -/
def commitImage (s : State) (die : Nat) (x : CrScan) : State :=
  match x.image with
  | none => s
  | some i => i.writes.foldl (fun t w => varWrite t die w.1 w.2) s

/-- Variable-edge tasks at the end of a scan (R359): released where the word is TRUE and was FALSE at the end of the
previous scan. -/
def edgeTasks (s : State) (die cts : Nat) : State :=
  ((List.range 16).filter (fun t => 8 ≤ t ∧ taskOn (crOf s die) t ∧ (crTask (crOf s die) t).event % 4 = 1)).foldl (fun u t =>
    let c := crOf u die
    let v := varRead u die (fld (crTask c t).event 31 16) != 0
    let u1 := setCr u die { c with edges := mput t v c.edges }
    if v && !(mget false c.edges t) then taskEvent u1 die t cts else u1) s

/-- An overrun (R371). -/
def overrunCr (s : State) (die : Nat) (r : CrRelease) : State :=
  let s0 := cyc (incr s die R.CT_OVERRUN r.task 1) die .crank 0x12 0 1 none
  let st := pageStamp s0 die die .crankTask 0
  let s1 := eventRec (tickPage s0 die .crankTask) die die .crankTask st (pagePlane .crankTask) r.task r.task []
  if r.ovr then haltCr s1 die 1 else s1

/-- The scan time of a release so far in ns (R371): from its release CTS, by the die's counter; where that gives no time, from
the release. -/
def scanNs (s : State) (die : Nat) (r : CrRelease) : Nat :=
  if (ctr s die).valid && r.cts != 0 then taiNs s die - ctsNs (ctr s die).sec r.cts else s.now - r.at_

/-- A scan has taken longer than its CT_WDT, which does not run in STEP. -/
def lateScan (s : State) (die : Nat) (r : CrRelease) : Bool :=
  (crOf s die).state != 4 && !r.overrun && decide (r.wdt * 1000 < scanNs s die r)

/-- The running scan has reached END: commit, output copy, the scan's end and what it releases (R363, R365, R359, R371). -/
def endScan (s : State) (die : Nat) : State :=
  match topScan s die with
  | none => s
  | some x =>
    let s0 := cyc s die .crank 0x10 0 1 none
    let c := crOf s0 die
    let s1 := commitImage (setCr s0 die { c with scans := c.scans.tail }) die x
    let outs := rangeOf (crTask c x.rel.task).outp
    let s2 := outs.foldl (outputCopy die x) s1
    let s3 := if outs.any (fun n => (outEntry s1 die n).kind == 0) then incr s2 die R.CRANK_MBX_SEQ 0 1 else s2
    let us := scanNs s3 die x.rel / 1000
    let s4 := wrAll s3 die x.rel.task [(R.CT_LAST_US, min us 0xFFFFF), (R.CT_MAX_US, max (rd s3 die R.CT_MAX_US x.rel.task) (min us 0xFFFFF))]
    let s5 := cyc (tickSrc (incr s4 die R.CT_SCANS x.rel.task 1) die 259) die .crank 0x11 0 1 none
    let c6 := crOf s5 die
    let s6 := match c6.pend.lookup x.rel.task with
      | some cause => setCr s5 die { c6 with
          pend := mdel x.rel.task c6.pend, released := c6.released ++ [releaseNow s5 die x.rel.task cause] }
      | none => s5
    let s7 := edgeTasks s6 die x.rel.cts
    let s8 := if lateScan s7 die x.rel then overrunCr s7 die x.rel else s7
    schedule s8 die

/-- Run the running scan to END; a scan in an unchecked program may not reach it. -/
def toEnd (s : State) (die : Nat) : State :=
  let s1 := checkFull (runCells 65536 s die) die
  if (topScan s1 die).isSome && atEnd s1 die then endScan s1 die else schedule s1 die

/-- CRANK_SCAN_END, R363: the running scan ends. A scan that CR_STEP began ends by CR_STEP. -/
def execCrankScanEnd (die : Nat) (s : State) : Out :=
  let c := crOf s die
  match c.scans.head? with
  | some x => if domRun s die 11 && !(c.state == 4 && x.image.isSome) then crankOut die (toEnd s die) else .next s
  | none => .next s

/-- CRANK_OVERRUN, R371: a scan that is released, running or pre-empted has taken longer than CT_WDT. -/
def execCrankOverrun (die task : Nat) (s : State) : Out :=
  let c := crOf s die
  match (c.released ++ c.scans.map (fun x => x.rel)).find? (fun r => r.task == task) with
  | some r =>
    if domRun s die 11 && lateScan s die r then
      let mark := fun (q : CrRelease) => if q.task = task then { q with overrun := true } else q
      let s1 := setCr s die { c with released := c.released.map mark, scans := c.scans.map (fun x => { x with rel := mark x.rel }) }
      crankOut die (overrunCr (advance s1 die) die r)
    else .next s
  | none => .next s

/-- CRANK_INPUT_CHANGE, R359: the source of an input entry changes value; its event tasks are released. `cts` is the CTS
of the change at its hub. -/
def execCrankInputChange (die entry cts : Nat) (s : State) : Out :=
  let c := crOf s die
  if domRun s die 11 && c.active then
    let ts := (List.range 16).filter (fun t => (crTask c t).event % 4 == 2 && fld (crTask c t).event 31 16 == entry)
    let s1 := checkFull (advance s die) die
    crankOut die (schedule (ts.foldl (fun u t => taskEvent u die t cts) s1) die)
  else .next s

/-! ### Export and import (R386, R387) -/

/-- The export section of a boundary (R386). -/
def exportSection (s : State) (die cts : Nat) : List Byte :=
  let c := crOf s die
  let ranges := c.p.exports.filter (fun r => decide (0 < fld r 31 16))
  let flags := b2n (c.scans.any (fun x => x.wroteExp)) + b2n (c.state == 3) * 2
  bytesLE 1 die ++ bytesLE 1 1 ++ bytesLE 1 flags ++ bytesLE 1 ranges.length ++ bytesLE 4 c.p.progId ++ bytesLE 8 cts ++ bytesLE 8 c.k ++
  ranges.flatMap (fun r => bytesLE 4 r ++ (List.range (fld r 31 16)).flatMap (fun i => bytesLE 4 (sharedRead s die (fld r 15 0 + i))))

/-- Write the ranges of a section into the shared image. -/
def importRanges (die : Nat) : Nat → List Byte → State → State
  | 0, _, s => s
  | n + 1, bs, s =>
    let r := ofBytesLE (bs.take 4)
    let len := fld r 31 16
    let s1 := (List.range len).foldl (fun t i => varWrite t die (fld r 15 0 + i) (ofBytesLE ((bs.drop (4 + 4 * i)).take 4))) s
    importRanges die n (bs.drop (4 + 4 * len)) s1

/-- The standby imports the newest section (R387); until a newer one arrives, the same section again (R476). -/
def importSection (s : State) (die : Nat) (bs : List Byte) : State :=
  let c := crOf s die
  let s0 := setCr s die { c with importing := false }
  let partial_ := bit (ofBytesLE ((bs.drop 2).take 1)) 0
  let s1 := if partial_ then incr s0 die R.IMP_SKIP 0 1 else s0
  if ofBytesLE ((bs.drop 4).take 4) ≠ c.p.progId then
    let s2 := incr s1 die R.IMP_MISMATCH 0 1
    let st := pageStamp s2 die die .crank 0
    eventRec (tickPage s2 die .crank) die die .crank st (pagePlane .crank) 6 0 []
  else if partial_ then s1
  else
    let s2 := importRanges die (ofBytesLE ((bs.drop 3).take 1)) (bs.drop 24) s1
    incr (setCr s2 die { crOf s2 die with importing := true }) die R.IMP_APPLIED 0 1

/-- The module's Tandem role is STANDBY. -/
def roleStandby (s : State) : Bool := (hubs s).any (fun h => domRun s h 7 && rd s h R.TD_STATE 0 % 8 == 2)

/-- Step 3 of a boundary (R362). -/
def exchange (s : State) (die cts : Nat) : State :=
  let c := crOf s die
  let s1 := if c.state = 2 ∨ c.state = 3 then setCr s die { c with exported := exportSection s die cts } else s
  let c1 := crOf s1 die
  if bit (rd s1 die R.CR_CFG 0) 10 && roleStandby s1 then
    match c1.imported with
    | some bs => importSection s1 die bs
    | none => setCr s1 die { c1 with importing := false }
  else setCr s1 die { c1 with imported := none, importing := false }

/-! ### On-line change (R382) -/

/-- Where the init image lies: as CR_START or CR_STEP_MODE last read it since CR_LOAD, else as CR_INIT_BASE says (R382, R388;
DESIGN CHOICE, log entry 127). -/
def initAt (s : State) (die : Nat) : Nat :=
  if (crOf s die).initBase = 0 then rd s die R.CR_INIT_BASE 0 else (crOf s die).initBase

/-- Apply one entry. -/
def olcApply (die : Nat) (s : State) (e : OlcEntry) : State :=
  if e.kind = 1 then writeLE s (crWindow die + 16 * e.target + 4 + 4 * e.field) 4 e.value
  else if e.kind = 2 then sharedWrite s die e.target e.value
  else if e.kind = 3 then writeLE s (initAt s die + 4 * e.target) 4 e.value
  else s

/-- Apply a pending batch: OLC_APPLIED and its record. -/
def olcStep (s : State) (die : Nat) : State :=
  match (crOf s die).olc with
  | none => s
  | some es =>
    let s1 := es.foldl (olcApply die) s
    let s2 := setCr s1 die { crOf s1 die with olc := none }
    let st := pageStamp s2 die die .crank 0
    eventRec (tickPage s2 die .crank) die die .crank st (pagePlane .crank) 9 0 []

/-! ### Boundaries (R358, R361, R362, R366, R372) -/

/-- Step 5: a restart begins its mode, a pending mode change takes effect, or AUTO_RUN leaves RECOVER. -/
def modeStep (s : State) (die : Nat) : State :=
  let c := crOf s die
  match c.start, c.mode with
  | some (st, _), _ => enterCr (setCr s die { c with start := none, ready := false, mode := none, powerFail := false }) die st
  | none, some m => enterCr (setCr s die { c with mode := none }) die m
  | none, none =>
    if c.state = 3 ∧ bit (rd s die R.CR_CFG 0) 9 ∧ c.recover ≤ c.recCount then enterCr s die 2 else s

/-- A cyclic task is due at this cycle (R358). -/
def taskDue (c : Crank) (t : Nat) : Bool :=
  taskOn c t && c.k % (fld (crTask c t).sched 9 0 + 1) == fld (crTask c t).sched 25 16

/-- A cyclic release, or a miss where the task's previous scan is still in progress (R372). In STEP a release that no CR_STEP has
taken up stands, and the next is no miss (DESIGN CHOICE, log entry 46). -/
def cyclicRelease (die cts : Nat) (s : State) (t : Nat) : State :=
  let c := crOf s die
  let waits := c.released.any (fun r => r.task == t)
  if !c.active || (c.state == 4 && waits) then s
  else if taskBusy c t then
    let s1 := hwEvent (incr s die R.CT_MISS t 1) die .crankTask 16
    let ovr := (c.released ++ c.scans.map (fun x => x.rel)).any (fun r => r.task == t && r.ovr)
    if ovr then haltCr s1 die 2 else s1
  else setCr s die { c with released := c.released ++ [releaseNow s die t cts] }

/-- Step 6. In STEP the tasks are released too, and a scan begins by CR_STEP only. -/
def releaseStep (s : State) (die cts : Nat) : State :=
  let c := crOf s die
  if c.active then
    schedule (((List.range 8).filter (taskDue c)).foldl (cyclicRelease die cts) s) die
  else s

/-- The engine makes boundaries: in RUN, RECOVER and STEP, and the one that begins a mode after a restart (R361, R377). -/
def makesBoundary (c : Crank) : Bool := c.active || (c.start.isSome && c.ready)

/-- A boundary with its CTS (R362). -/
def boundary (s : State) (die cts : Nat) : State :=
  let s0 := checkFull (advance s die) die
  let c := crOf s0 die
  if makesBoundary c then
    let c1 := { c with k := c.k + 1, lastBoundary := timeCsr s0 die, recCount := if c.state = 3 then c.recCount + 1 else c.recCount }
    let s1 := wr (setCr s0 die c1) die R.CR_LAST_CYCLE 0 cts
    let s2 := exchange (boundaryRec s1 die cts) die cts
    releaseStep (modeStep (olcStep s2 die) die) die cts
  else s0

/-- CRANK_BOUNDARY, R361, R362: a firing for this Crank arrives. -/
def execCrankBoundary (die : Nat) (s : State) : Out :=
  match s.firings.find? (fun f => f.code == 1 && f.index == die) with
  | some f =>
    let s1 := { s with firings := s.firings.erase f }
    if domRun s1 die 11 && lineReach s1 die f.hub then
      let s2 := setCr s1 die { crOf s1 die with lastFire := timeCsr s die, localCycle := false }
      crankOut die (boundary s2 die f.cts)
    else .next s1
  | none => .next s

/-- CRANK_LOCAL_BOUNDARY, R361: 2 × CR_CYCLE after the last firing, then every CR_CYCLE, the Crank makes a boundary from
its die's counter, by which the time is counted (while it is not valid, it counts as R83 says; DESIGN CHOICE, log entry 126). -/
def execCrankLocalBoundary (die : Nat) (s : State) : Out :=
  let c := crOf s die
  let cycle := within 250000 100000000 (rd s die R.CR_CYCLE 0)
  let due := if c.localCycle then c.lastBoundary + cycle else c.lastFire + 2 * cycle
  if domRun s die 11 && makesBoundary c && decide (due ≤ timeCsr s die) then
    let s1 := setCr s die { c with localCycle := true }
    let s2 := if c.localCycle then s1 else hwEvent s1 die .crank 8
    crankOut die (boundary s2 die (ctsNow s2 die))
  else .next s

/-! ### The window (R348) -/

/-- A range of the window touches the cell table or a map. -/
def touchesProgram (cells off len : Nat) : Bool := decide (off < 16 * cells ∨ 0xFE000 < off + len)

/-- Cells that the window holds now: as loaded, or as CR_SPLIT says where nothing is loaded. -/
def windowCells (s : State) (die : Nat) : Nat :=
  match (crOf s die).prog with
  | some p => p.cells
  | none => rd s die R.CR_SPLIT 0 % 64 * 1024

/-- CRANK_WINDOW_WRITE, R348: 4 or 8 bytes at an offset of the window, by an initiator of class C, M or D (R57), debug once it is
unlocked (R499); a reserved identity faults (DESIGN CHOICE, assumption 130). A hart with V = 1 cannot reach it, and accesses
follow R310. -/
def execCrankWindowWrite (die off : Nat) (bytes : List Byte) (w : Who) (s : State) : Out :=
  let n := bytes.length
  let c := crOf s die
  let aligned := (n == 4 || n == 8) && off % n == 0 && decide (off + n ≤ 0x100000)
  if !(present s die) || isHub die || w.vi.isSome || !aligned || decide (112 < w.ini) then .next { s with resp := .accessFault }
  else if !(domRun s die 11) || (w.ini == 112 && !(debugUnlocked s)) then .next { s with resp := .value 0 }
  else if rtQuiet s die then
    let cells := windowCells s die
    let s1 := writeBytes { s with resp := .value 0 } (crWindow die + off) bytes
    let words := (List.range (n / 4)).map (fun i => off + 4 * i)
    let c1 := words.foldl (fun q o => if 16 * q.p.cells ≤ o ∧ (o - 16 * q.p.cells) / 4 < q.p.vars then
      markRetain q ((o - 16 * q.p.cells) / 4) else q) c
    crankOut die (setCr s1 die { c1 with reload := c1.reload || touchesProgram cells off n })
  else .next (hwEvent (incr { s with resp := .value 0 } die R.WIN_IGNORED 0 1) die .crank 7)

/-! ### The program check (R376) -/

/-- A range of cells of a task passes the checks. -/
def cellsOk (s : State) (die : Nat) (p : CrProg) (t : CrTask) : Bool :=
  let lo := fld t.cells 15 0
  let hi := fld t.cells 31 16
  decide (lo ≤ hi ∧ hi < p.cells) && (cellAt s die hi).op == 0x3B &&
  ((List.range (hi - lo + 1)).all (fun i => cellOk p.vars (lo + i) hi (cellAt s die (lo + i))))

/-- Input sources and output actions have an INDEX in range (R367, R368). -/
def inEntryOk (p : CrProg) (e : MapEntry) : Bool :=
  decide (e.var < p.vars ∧ e.kind < 4 ∧ e.index < (if e.kind = 0 then 128 else if e.kind = 1 then 16 else if e.kind = 2 then 8 else 4))
def outEntryOk (p : CrProg) (e : MapEntry) : Bool :=
  decide (e.var < p.vars ∧ e.kind < 3 ∧ e.index < (if e.kind = 0 then 128 else if e.kind = 1 then 8 else 16))

/-- Two ranges of map entries overlap. -/
def rangesMeet (a b : Nat) : Bool :=
  decide (0 < fld a 25 16 ∧ 0 < fld b 25 16 ∧ fld a 8 0 < fld b 8 0 + fld b 25 16 ∧ fld b 8 0 < fld a 8 0 + fld a 25 16)

/-- No two of a list of ranges overlap. -/
def noneMeet : List Nat → Bool
  | [] => true
  | r :: rs => rs.all (fun q => !(rangesMeet r q)) && noneMeet rs

/-- The checks of R376 on the whole program. -/
def progOk (s : State) (die split : Nat) (p : CrProg) : Bool :=
  let on := p.tasks.filter (fun t => bit t.cfg 4)
  decide (1 ≤ split ∧ split ≤ 63 ∧ p.vars ≤ 65536 ∧ 16 * p.cells + 4 * p.vars ≤ 1040384) &&
  decide (p.retainFrom + p.retainLen ≤ p.vars ∧ p.retainLen ≤ 16384) &&
  p.exports.all (fun r => fld r 31 16 == 0 || decide (fld r 15 0 + fld r 31 16 ≤ p.vars)) &&
  decide ((p.exports.map (fun r => fld r 31 16)).sum ≤ 16384) &&
  on.all (cellsOk s die p) && decide ((on.map (fun t => fld t.cfg 3 0)).Nodup) &&
  noneMeet (p.tasks.map (fun t => t.inp)) && noneMeet (p.tasks.map (fun t => t.outp)) &&
  on.all (fun t => decide (fld t.inp 8 0 + fld t.inp 25 16 ≤ 512 ∧ fld t.outp 8 0 + fld t.outp 25 16 ≤ 512)) &&
  on.all (fun t => (rangeOf t.inp).all (fun n => inEntryOk p (inEntry s die n)) &&
    (rangeOf t.outp).all (fun n => outEntryOk p (outEntry s die n)))

/-! ### Commands (R374, R375) -/

/-- Authority over the Crank (R375). -/
def crAuth (x : Ctx) : Bool := hostHart x.who || fromMech x.who

/-- The checks that every Crank opcode shares. -/
def crChecks (t : State) (x : Ctx) (states : List Nat) : Checks :=
  { Checks.pass with auth := crAuth x, idle := pageIdle t x, legal := states.contains (crOf t x.loc).state }

/-- The effect of a command, with the registers following. -/
def crDone (x : Ctx) (s : State) (note : Nat) : Effect := ⟨showCrank s x.loc, .done, note⟩

/-- A base in fitted DRAM of the die, 4 KiB aligned, with room for `len` bytes. -/
def baseOk (s : State) (die base len : Nat) : Bool := base % 4096 == 0 && inDram s die base len

/-- What CR_LOAD reads. -/
def stagedProg (s : State) (die : Nat) : CrProg :=
  ⟨rd s die R.CR_SPLIT 0 % 64 * 1024, rd s die R.CR_VARS 0, rd s die R.CR_RETAIN 0, rd s die R.CR_PROG_ID 0,
    (List.range 8).map (fun i => rd s die (R.CR_EXP_RANGE0_7.nth i) 0),
    (List.range 16).map (fun t => ⟨rd s die R.CT_CELLS t, rd s die R.CT_SCHED t, rd s die R.CT_CFG t, rd s die R.CT_IN t,
      rd s die R.CT_OUT t, rd s die R.CT_EVENT t⟩)⟩

/-- The checks of CR_LOAD. -/
def checksCrLoad (t : State) (x : Ctx) : Checks :=
  crChecks t x [0, 1, 5]

/-- The effect of CR_LOAD. -/
def effectCrLoad (x : Ctx) (t : State) : Effect :=
  let q := crOf t x.loc
  let t1 := setCr t x.loc { (dropScans q) with reload := false, forces := [], start := none, ready := false, olc := none, initBase := 0 }
  let t2 := enterCr t1 x.loc 6
  let t3 := setCr t2 x.loc { crOf t2 x.loc with prog := some (stagedProg t x.loc), evs := [], edges := [], changed := [] }
  .accepted (showCrank t3 x.loc)

/-- CR_LOAD, R375, R376. -/
def execCrLoad (c : Cmd) (s : State) : Out :=
  command s c .crank 0x10 checksCrLoad effectCrLoad

/-- CR_LOAD_DONE, R376: STOPPED, or BAD_ARG with the engine EMPTY. -/
def execCrLoadDone (die : Nat) (s : State) : Out :=
  let c := crOf s die
  if domRun s die 11 && c.state == 6 then
    if progOk s die (c.p.cells / 1024) c.p then crankOut die (finishOp (enterCr s die 1) die .crank 0x10 .done 0)
    else crankOut die (finishOp (enterCr (setCr s die { c with prog := none }) die 0) die .crank 0x10 .badArg 0)
  else .next s

/-- The checks of CR_START. -/
def checksCrStart (t : State) (x : Ctx) : Checks :=
  let q := crOf t x.loc
  let k := x.sub % 4
  { crChecks t x [1, 5] with
    argOk := k != 3 && (!(bit x.sub 2) || baseOk t x.loc (rd t x.loc R.CR_IMAGE_BASE 0) 0x200000) &&
      (k == 2 || baseOk t x.loc (rd t x.loc R.CR_INIT_BASE 0) (4 * q.p.vars))
    legal := (q.state == 1 || q.state == 5) && !q.reload }

/-- The effect of CR_START. -/
def effectCrStart (x : Ctx) (t : State) : Effect :=
  let q := crOf t x.loc
  let k := x.sub % 4
  crDone x (setCr t x.loc { q with
    start := some (if bit x.sub 2 then 3 else 2, k), ready := false, k := 0, retainLost := false, powerFail := false
    pfMode := none, forces := if k = 2 then q.forces else [], recover := within 1 65535 (rd t x.loc R.CR_RECOVER 0)
    initBase := rd t x.loc R.CR_INIT_BASE 0 }) 0

/-- CR_START, R375, R377: the restart begins. -/
def execCrStart (c : Cmd) (s : State) : Out :=
  command s c .crank 0x11 checksCrStart effectCrStart

/-- Copy the init image over the variables that meet a test. -/
def copyInit (s : State) (die : Nat) (p : Nat → Bool) : State :=
  let c := crOf s die
  ((List.range c.p.vars).filter p).foldl (fun t a => sharedWrite t die a (readLE s (c.initBase + 4 * a) 4)) s

/-- The variables after a restart (R377): COLD, WARM or HOT. -/
def restartVars (s : State) (die kind : Nat) : State :=
  let c := crOf s die
  if kind = 2 then s
  else if kind = 0 then copyInit s die (fun _ => true)
  else
    match bestRegion s die with
    | some (slot, rs) =>
      let inRetain := fun a => decide (c.p.retainFrom ≤ a ∧ a < c.p.retainFrom + c.p.retainLen)
      let s1 := applyRecs (copyInit s die (fun a => !(inRetain a))) die rs
      setCr s1 die { crOf s1 die with seq := reached rs, slot := slot }
    | none =>
      let s1 := copyInit s die (fun _ => true)
      hwEvent (setCr s1 die { crOf s1 die with retainLost := true }) die .crank 5

/-- CRANK_RESTART_DONE, R377: the restart ends; every retain block counts as changed, and the time to a local boundary
counts from here. -/
def execCrankRestartDone (die : Nat) (s : State) : Out :=
  let c := crOf s die
  match c.start with
  | some (_, kind) =>
    if domRun s die 11 && !c.ready then
      let s1 := restartVars s die kind
      let q := crOf s1 die
      crankOut die (setCr s1 die { q with
        ready := true, lastFire := timeCsr s die, localCycle := false, changed := List.range (retainBlocks q.p)
        needCk := q.needCk || decide (kind ≠ 2) })
    else .next s
  | none => .next s

/-- The checks of CR_STOP. -/
def checksCrStop (t : State) (x : Ctx) : Checks :=
  crChecks t x [2, 3, 4]

/-- The effect of CR_STOP. -/
def effectCrStop (x : Ctx) (t : State) : Effect :=
  crDone x (stopCr (advance t x.loc) x.loc 1 false) 0

/-- CR_STOP, R373. -/
def execCrStop (c : Cmd) (s : State) : Out :=
  command s c .crank 0x12 checksCrStop effectCrStop

/-- The checks of CR_RUN. -/
def checksCrRun (t : State) (x : Ctx) : Checks :=
  { crChecks t x [3, 4] with
    legal := [3, 4].contains (crOf t x.loc).state && (crOf t x.loc).mode.isNone }

/-- The effect of CR_RUN. -/
def effectCrRun (x : Ctx) (t : State) : Effect :=
  crDone x (setCr t x.loc { crOf t x.loc with mode := some 2 }) 0

/-- CR_RUN, R375. -/
def execCrRun (c : Cmd) (s : State) : Out :=
  command s c .crank 0x13 checksCrRun effectCrRun

/-- The checks of CR_STEP_MODE. -/
def checksCrStepMode (t : State) (x : Ctx) : Checks :=
  { crChecks t x [1, 2, 3] with
    argOk := baseOk t x.loc (rd t x.loc R.CR_IMAGE_BASE 0) 0x200000
    auth := crAuth x && bit (rd t x.loc R.CR_GUARD 0) 0
    legal := [1, 2, 3].contains (crOf t x.loc).state && (crOf t x.loc).mode.isNone }

/-- The effect of CR_STEP_MODE. -/
def effectCrStepMode (x : Ctx) (t : State) : Effect :=
  let q := crOf t x.loc
  let q1 := { q with recover := within 1 65535 (rd t x.loc R.CR_RECOVER 0), initBase := rd t x.loc R.CR_INIT_BASE 0 }
  if q.state = 1 then crDone x (enterCr (setCr t x.loc { q1 with
    start := none, ready := false, localCycle := false, lastFire := timeCsr t x.loc }) x.loc 4) 0
  else crDone x (setCr t x.loc { q1 with mode := some 4 }) 0

/-- CR_STEP_MODE, R375: at once from STOPPED, at the next boundary from RUN and RECOVER. -/
def execCrStepMode (c : Cmd) (s : State) : Out :=
  command s c .crank 0x14 checksCrStepMode effectCrStepMode

/-- Begin or continue a task's scan in STEP (R375), for one cell or to its end; whether the scan has ended. -/
def stepTask (s : State) (die t cts : Nat) (whole : Bool) : State × Bool :=
  let s1 := if (topScan s die).isSome then s else beginScan s die (releaseNow s die t cts)
  let s2 := if whole then checkFull (runCells 65536 s1 die) die else if atEnd s1 die then s1 else checkFull (stepCell s1 die) die
  let due := atEnd (if whole then s2 else s1) die
  if (topScan s2 die).isNone then (s2, true) else if due then (endScan s2 die, true) else (s2, false)

/-- The checks of CR_STEP. -/
def checksCrStep (t : State) (x : Ctx) : Checks :=
  let q := crOf t x.loc
  { crChecks t x [4] with
    argOk := taskOn q (x.argument % 16)
    legal := q.state == 4 && (match q.scans.head? with | some y => y.rel.task == x.argument % 16 | none => true) }

/-- The effect of CR_STEP. -/
def effectCrStep (x : Ctx) (t : State) : Effect :=
  let d := x.loc
  let task := x.argument % 16
  let t0 := setCr t d { crOf t d with stepped := task }
  let r := stepTask t0 d task x.cts (bit x.sub 0)
  crDone x r.1 (b2n r.2)

/-- CR_STEP, R360, R375: another task's scan in progress must end first. -/
def execCrStep (c : Cmd) (s : State) : Out :=
  command s c .crank 0x15 checksCrStep effectCrStep

/-- The page of a Crank command and the Crank that it reaches. -/
def crBlk (c : Cmd) : Block := viewOr c .crankView .crank

/-- The Crank of a command's page: the die's own, or the one that a view shows. -/
def crDie (s : State) (x : Ctx) : Nat := serveDie s x.loc x.blk

/-- The checks of CR_FIRE. -/
def checksCrFire (t : State) (x : Ctx) : Checks :=
  let d := crDie t x
  { crChecks t x [2, 3, 4] with
    argOk := decide (8 ≤ x.argument % 16)
    auth := if x.blk = .crankView then crOwner t d (x.loc / 8) else crAuth x
    legal := (crOf t d).active }

/-- The effect of CR_FIRE. -/
def effectCrFire (x : Ctx) (t : State) : Effect :=
  let d := crDie t x
  let t1 := taskEvent (checkFull (advance t d) d) d (x.argument % 16) x.cts
  ⟨showCrank (schedule t1 d) d, .done, 0⟩

/-- CR_FIRE, R359, R375, R392: from the page, or from the owner's CRANK_VIEW. -/
def execCrFire (c : Cmd) (s : State) : Out :=
  command s c (crBlk c) 0x16 checksCrFire effectCrFire

/-! ### On-line change and forcing (R382, R384, R385) -/

/-- The staged entries of a batch. -/
def stagedOlc (s : State) (die : Nat) : List OlcEntry :=
  (List.range (rd s die R.CR_OLC_COUNT 0)).map (fun i =>
    let e := rd s die R.OL_ENTRY i
    ⟨e % 4, fld e 2 2, fld e 31 16, rd s die R.OL_VALUE i⟩)

/-- The last cell of the enabled task that holds a cell. -/
def taskEndOf (p : CrProg) (n : Nat) : Option Nat :=
  (p.tasks.find? (fun t => bit t.cfg 4 && decide (fld t.cells 15 0 ≤ n ∧ n ≤ fld t.cells 31 16))).map (fun t => fld t.cells 31 16)

/-- The checks of R382 on an entry. -/
def olcOk (s : State) (die : Nat) (e : OlcEntry) : Bool :=
  let p := (crOf s die).p
  if e.kind = 0 then true
  else if e.kind = 1 then
    let w := cellAt s die e.target
    decide (e.target < p.cells) && (if e.field = 0 then w.immA else w.immB) &&
      (match taskEndOf p e.target with
       | some last => cellOk p.vars e.target last (if e.field = 0 then { w with a := e.value } else { w with b := e.value })
       | none => true)
  else decide (e.target < p.vars)

/-- An entry meets a forced word (R385). -/
def olcForced (s : State) (die : Nat) (e : OlcEntry) : Bool :=
  let c := crOf s die
  if e.kind = 1 then
    let w := cellAt s die e.target
    (match opInfo w.op with
     | some i => (List.range (max i.dWords (b2n (w.op == 0x3D)))).any (fun k => (forceOf c (w.d + k)).isSome)
     | none => false)
  else e.kind != 0 && (forceOf c e.target).isSome

/-- The checks of OLC_COMMIT. -/
def checksOlcCommit (t : State) (x : Ctx) : Checks :=
  let n := rd t x.loc R.CR_OLC_COUNT 0
  { crChecks t x [1, 2, 3, 4, 5] with
    argOk := decide (1 ≤ n ∧ n ≤ 64) && (stagedOlc t x.loc).all (olcOk t x.loc)
    auth := crAuth x && bit (rd t x.loc R.CR_GUARD 0) 2
    legal := [1, 2, 3, 4, 5].contains (crOf t x.loc).state && (crOf t x.loc).olc.isNone }

/-- The effect of OLC_COMMIT. -/
def effectOlcCommit (x : Ctx) (t : State) : Effect :=
  let es := stagedOlc t x.loc
  let note := b2n (es.any (olcForced t x.loc))
  let t1 := setCr t x.loc { crOf t x.loc with olc := some es }
  let st := (crOf t x.loc).state
  crDone x (if st = 2 ∨ st = 3 then t1 else olcStep t1 x.loc) note

/-- OLC_COMMIT, R382, R385. -/
def execOlcCommit (c : Cmd) (s : State) : Out :=
  command s c .crank 0x17 checksOlcCommit effectOlcCommit

/-- The checks of FORCE. -/
def checksForce (t : State) (x : Ctx) : Checks :=
  let q := crOf t x.loc
  let a := rd t x.loc R.FC_VAR x.inst % 65536
  { crChecks t x [1, 2, 3, 4, 5] with
    argOk := decide (64 ≤ x.inst ∧ a < q.p.vars) && !(q.forces.any (fun e => e.1 != x.inst && e.2.1 == a))
    auth := crAuth x && bit (rd t x.loc R.CR_GUARD 0) 1 }

/-- The effect of FORCE. -/
def effectForce (x : Ctx) (t : State) : Effect :=
  let t1 := advance t x.loc
  let q := crOf t1 x.loc
  let a := rd t1 x.loc R.FC_VAR x.inst % 65536
  crDone x (setCr t1 x.loc { q with forces := mput x.inst (a, rd t1 x.loc R.FC_VALUE x.inst) q.forces }) 0

/-- FORCE, R384: entry SEL, 64 to 319. -/
def execForce (c : Cmd) (s : State) : Out :=
  command s c .crank 0x18 checksForce effectForce

/-- End forces whose entry meets a test. -/
def endForces (s : State) (die : Nat) (p : Nat → Bool) : State :=
  let c := crOf s die
  setCr s die { c with forces := mkeep (fun n => !(p n)) c.forces }

/-- The checks of UNFORCE. -/
def checksUnforce (t : State) (x : Ctx) : Checks :=
  { crChecks t x [1, 2, 3, 4, 5] with argOk := decide (64 ≤ x.inst) || bit x.sub 0 }

/-- The effect of UNFORCE. -/
def effectUnforce (x : Ctx) (t : State) : Effect :=
  crDone x (endForces (advance t x.loc) x.loc (fun n => bit x.sub 0 || n == x.inst)) 0

/-- UNFORCE, R384, R385. -/
def execUnforce (c : Cmd) (s : State) : Out :=
  command s c .crank 0x19 checksUnforce effectUnforce

/-- The checks of CR_UNLOAD. -/
def checksCrUnload (t : State) (x : Ctx) : Checks :=
  crChecks t x [1, 5]

/-- The effect of CR_UNLOAD. -/
def effectCrUnload (x : Ctx) (t : State) : Effect :=
  let t1 := endForces (setCr t x.loc { (dropScans (crOf t x.loc)) with start := none, ready := false, olc := none }) x.loc (fun _ => true)
  let t2 := enterCr t1 x.loc 0
  crDone x (setCr t2 x.loc { crOf t2 x.loc with prog := none }) 0

/-- CR_UNLOAD, R375: EMPTY, with the Kickstand demands of the program that goes. -/
def execCrUnload (c : Cmd) (s : State) : Out :=
  command s c .crank 0x1A checksCrUnload effectCrUnload

/-- The counters of a task (R390) and of CRANK (R388). -/
def taskCounters : List Reg := [R.CT_SCANS, R.CT_OVERRUN, R.CT_MISS, R.CT_MERGED]
def crankCounters : List Reg :=
  [R.ARITH_FAULT, R.INDEX_FAULT, R.OUT_DENIED, R.IN_DEFAULT, R.JRNL_MERGE, R.IMP_APPLIED, R.IMP_SKIP, R.IMP_MISMATCH, R.WIN_IGNORED,
    R.IMAGE_FULL]

/-- The checks of CrankClearCounters. -/
def checksCrankClearCounters (_ : State) (x : Ctx) : Checks :=
  { Checks.pass with auth := crAuth x }

/-- The effect of CrankClearCounters. -/
def effectCrankClearCounters (x : Ctx) (t : State) : Effect :=
  .done (clearInsts (clearRegs t x.loc 0 crankCounters) x.loc 0 16 taskCounters)

/-- CLEAR_COUNTERS of CRANK, R375: legal in every state, LOADING too (R374). -/
def execCrankClearCounters (c : Cmd) (s : State) : Out :=
  command s c .crank 0x1B checksCrankClearCounters effectCrankClearCounters

/-- The checks of TaskClearCounters. -/
def checksTaskClearCounters (t : State) (x : Ctx) : Checks :=
  { Checks.pass with argOk := decide (x.argument < 16 ∨ x.argument = 0xFFFF), idle := pageIdle t x }

/-- The effect of TaskClearCounters. -/
def effectTaskClearCounters (x : Ctx) (t : State) : Effect :=
  .done (if x.argument = 0xFFFF then clearInsts t x.loc 0 16 taskCounters else clearRegs t x.loc x.argument taskCounters)

/-- CLEAR_COUNTERS of CRANK_TASK, R390. -/
def execTaskClearCounters (c : Cmd) (s : State) : Out :=
  command s c .crankTask 0x10 checksTaskClearCounters effectTaskClearCounters

/-! ### Power fail (R380) -/

/-- A Crank on PFW_N: a running one stops and remembers its mode, a restart under way ends, and each loaded one forms its final
record. -/
def powerStop (s : State) (die : Nat) : State :=
  let c := crOf s die
  if domRun s die 11 then
    let s1 := setCr s die { c with powerFail := true, start := none, ready := false, pfMode := if c.active then some c.state else c.pfMode }
    if c.active then showCrank (stopCr (advance s1 die) die 1 true) die
    else if c.state = 1 ∨ c.state = 5 then showCrank (stopRec s1 die true) die
    else showCrank s1 die
  else s

/-- Cranks whose final record a hub has yet to commit. -/
def pfWaits (s : State) (hub : Nat) : List Nat :=
  (computeDies s).filter (fun d => (crOf s d).queue.any (fun r => r.powerFail && r.left.contains hub))

/-- POWER_FAIL_WARNING, R380: PFW_N is asserted at a hub. The first 16 unwritten log entries remain (R562). -/
def execPowerFailWarning (hub : Nat) (s : State) : Out :=
  if isHub hub && domRun s hub 4 && !(rtOf s hub).active then
    let s1 := (computeDies s).foldl powerStop s
    .next ((hubs s1).foldl (fun t h =>
      if domRun t h 4 then
        let t1 := setRt (wr t h R.RT_PF_CTS 0 (ctsNow t h)) h { rtOf t h with active := true, at_ := t.now, waits := pfWaits t h }
        let t2 := showRt (pfDone t1 h) h
        { t2 with mgmtLogs := mput h ((logOfHub t2 h).take 16) t2.mgmtLogs }
      else t) s1)
  else .next s

/-- A Crank with PF_RESUME restarts HOT into the mode that it left, at the next boundary. -/
def powerResume (s : State) (die : Nat) : State :=
  let c := crOf s die
  match c.pfMode with
  | some m =>
    if domRun s die 11 && c.powerFail && c.state == 1 && bit (rd s die R.CR_CFG 0) 11 then
      showCrank (setCr s die { c with
        start := some (m, 2), ready := true, k := 0, lastFire := timeCsr s die, localCycle := false, pfMode := none
        changed := List.range (retainBlocks c.p) }) die
    else s
  | none => s

/-- POWER_FAIL_RECOVERY, R380: PFW_N has stayed deasserted for 10 ms with no reset. -/
def execPowerFailRecovery (s : State) : Out :=
  if (hubs s).any (fun h => (rtOf s h).active && decide ((rtOf s h).at_ + 10000000 ≤ s.now)) then
    let s1 := (hubs s).foldl (fun t h => showRt (setRt t h { rtOf t h with active := false }) h) s
    .next ((computeDies s1).foldl powerResume s1)
  else .next s

end Sys2Proof.Machine
end

