-- ==== Sys2Proof/Machine/Mech.lean ====
section
/-!
DEFINITION. Sys2Proof/Machine/Mech.lean: boot flash, the Mechanics' own state and the lead lease (R537, R542 to R545,
R553).
-/
namespace Sys2Proof.Machine

/-! ### Boot flash (R537, R553) -/

/-- What an erased byte of boot flash reads as. The manual does not state it: PRESUMED from NOR flash. -/
def erased : Byte := 0xFF

/-- A boot flash that is erased throughout. -/
def BootFlash.empty : BootFlash := ⟨[], 0, 0, [], 0, none⟩

/-- A hub's boot flash. -/
def flashOf (s : State) (hub : Nat) : BootFlash := mget BootFlash.empty s.flashes hub

/-- Set a hub's boot flash. -/
def setFlash (s : State) (hub : Nat) (f : BootFlash) : State := { s with flashes := mput hub f s.flashes }

/-- A byte of flash. -/
def flashByte (f : BootFlash) (a : Nat) : Byte := mget erased f.cells a

/-- Bytes of flash from an address upward. -/
def flashRead (f : BootFlash) (a n : Nat) : List Byte := (List.range n).map (fun i => flashByte f (a + i))

/-- Flash cells with one byte set; an erased byte is not listed. -/
def cellPut (a : Nat) (v : Byte) (m : List Host.Cell) : List Host.Cell := if v = erased then mdel a m else mput a v m

/-- Programming a byte can only clear its bits: PRESUMED from NOR flash. -/
def flashProgram : Nat → List Byte → BootFlash → BootFlash
  | _, [], f => f
  | a, b :: bs, f => flashProgram (a + 1) bs { f with cells := cellPut a (flashByte f a &&& b) f.cells }

/-- Erase the 4 KiB sector that holds an address. -/
def flashErase (a : Nat) (f : BootFlash) : BootFlash := { f with cells := mkeep (fun k => k / 4096 != a / 4096) f.cells }

/-- Erase the sectors that a range touches. -/
def flashEraseRange (a n : Nat) (f : BootFlash) : BootFlash :=
  { f with cells := mkeep (fun k => decide (k / 4096 < a / 4096 ∨ (a + n - 1) / 4096 < k / 4096)) f.cells }

/-- What the bytes of a range hold after a program or erase that failed: free values, since the manual states nothing of
them (assumption 65). -/
def flashUnknown (a n free : Nat) (f : BootFlash) : BootFlash :=
  (List.range n).foldl (fun g i => { g with cells := cellPut (a + i) (Config.freeByte (free + i)) g.cells }) f

/-- Base of a slot (R553). -/
def slotBase (slot : Nat) : Nat := if slot = 0 then 0x100000 else 0x500000

/-- A range of flash touches a slot. -/
def touchesSlot (slot a n : Nat) : Bool := decide (a < slotBase slot + 0x400000 ∧ slotBase slot < a + n)

/-! ### Cores -/

/-- A core before its boot. -/
def Mech.empty : Mech := ⟨false, true, false, none, none, 0, 0, 0, 0, []⟩

/-- A die's Mechanic core. -/
def mechOf (s : State) (die : Nat) : Mech := mget Mech.empty s.mechs die

/-- Set it. -/
def setMech (s : State) (die : Nat) (m : Mech) : State := { s with mechs := mput die m s.mechs }

/-- The boot ROM of a hub has verified a slot (R540). -/
def bootVerified (s : State) (die : Nat) : Bool := domRun s die 4 && bit (rd s die R.MC_BOOT 0) 2

/-- The slot that a hub booted (R565). -/
def bootedSlot (s : State) (hub : Nat) : Nat := rd s hub R.MC_BOOT 0 % 2

/-- The two records of a rail's steps. -/
def railOf (s : State) (hub n : Nat) : Rail := mget ⟨none, none, none⟩ s.rails (hub * 16 + n)

/-- Set them. -/
def setRail (s : State) (hub n : Nat) (r : Rail) : State := { s with rails := mput (hub * 16 + n) r s.rails }

/-- A hub's update. -/
def updOf (s : State) (hub : Nat) : UpdSt := mget ⟨0, [], false⟩ s.upds hub

/-- Set it. -/
def setUpd (s : State) (hub : Nat) (u : UpdSt) : State := { s with upds := mput hub u s.upds }

/-- MC_UPD_STATE's state (R565). -/
def updState (s : State) (hub : Nat) : Nat := rd s hub R.MC_UPD_STATE 0 % 8

/-- Set it. -/
def putUpdState (s : State) (hub st : Nat) : State :=
  wr s hub R.MC_UPD_STATE 0 (setFld (rd s hub R.MC_UPD_STATE 0) 2 0 st)

/-- A program or erase that touches the verified or trial slot returns the update to IDLE (R559). -/
def updTouched (s : State) (hub a n : Nat) : State :=
  if (updState s hub = 2 ∨ updState s hub = 4) ∧ touchesSlot (updOf s hub).slot a n then putUpdState s hub 0 else s

/-- An option byte of the Mechanic area (R563). -/
def maFlag (s : State) (die n : Nat) : Bool := bit (optByte s die 64) n

/-- A 16-bit option field. -/
def optHalf (s : State) (die n : Nat) : Nat := optByte s die n + 256 * optByte s die (n + 1)

/-! ### The lead lease (R542 to R545) -/

/-- A lease before the first grant. -/
def Lease.empty : Lease := ⟨none, 0, 0, 0, false, false⟩

/-- The lease as a hub's lease logic holds it. -/
def leaseOf (s : State) (hub : Nat) : Lease := mget Lease.empty s.leases hub

/-- Set it. -/
def setLease (s : State) (hub : Nat) (l : Lease) : State := { s with leases := mput hub l s.leases }

/-- Hub A is lost in hub B's judgement (R182, R542): the Axle and every Spoke to hub A are declared down. -/
def hubALost (s : State) : Bool :=
  present s 1 && (linkOf s (linkEnds 0 0 true)).declared &&
  (computeDies s).all (fun d => (linkOf s (linkEnds d 0 false)).declared)

/-- The hub's lease logic decides (R542). -/
def decides (s : State) (hub : Nat) : Bool :=
  domRun s hub 0 && (if hub = 0 then true else decide (hub = 1) && hubALost s)

/-- A die that a hub's lease logic reaches: no path to it that is not declared down is a path lost. -/
def leaseReach (s : State) (hub die : Nat) : Bool :=
  let axle := present s 1 && !(linkOf s (linkEnds 0 0 true)).declared
  present s die && (if isHub die then decide (die = hub) || axle
    else !(linkOf s (linkEnds die hub false)).declared || (axle && !(linkOf s (linkEnds die (1 - hub) false)).declared))

/-- A die's core is a live candidate (R543). -/
def candidate (s : State) (die : Nat) : Bool :=
  present s die && (mechOf s die).candAt.any (fun t => decide (s.now ≤ t + 2000000)) && (isHub die || !(maFlag s die 2))

/-- The live candidates that a hub reaches, in the order of R545. -/
def candidates (s : State) (hub : Nat) : List Nat := (diesOf s).filter (fun d => leaseReach s hub d && candidate s d)

/-- A MECHANIC page shows a lease (R542, R565). -/
def showLease (hub : Nat) (s : State) (die : Nat) : State :=
  if domRun s die 4 then
    let l := leaseOf s hub
    let n := l.lead.getD 0
    wrAll s die 0 [(R.MC_LEASE, n + b2n l.lead.isSome * 8 + b2n (l.lead == some die) * 16 + hub * 256),
      (R.MC_EPOCH, l.epoch), (R.MC_EXPIRY, l.expiry), (R.MC_CANDS, ((candidates s hub).map (fun d => 2 ^ d)).sum)]
  else s

/-- The deciding hub sends the lease to the other hub and to every compute die (R542). -/
def sendLease (s : State) (hub : Nat) : State :=
  let l := leaseOf s hub
  let s1 := if isHub hub && present s (1 - hub) && leaseReach s hub (1 - hub) then
      setLease s (1 - hub) { l with wdo := (leaseOf s (1 - hub)).wdo } else s
  ((diesOf s).filter (leaseReach s hub)).foldl (showLease hub) s1

/-- The hub that decides for a die; none where none reaches it. -/
def deciderOf (s : State) (die : Nat) : Option Nat := (hubs s).find? (fun h => decides s h && leaseReach s h die)

/-- The pages show the lease and the candidates as they now stand. -/
def refreshLease (s : State) : State := ((hubs s).filter (decides s)).foldl sendLease s

/-- A CTS 10 ms after the present of a hub; 0 while its counter is not valid. -/
def leaseEnd (s : State) (hub : Nat) : Nat := if (ctr s hub).valid then ctsOfNs (taiNs s hub + 10000000) else 0

/-- A grant (R545): EPOCH, EXPIRY, LEASE_GRANT on the pages that show the lease, the LEAD trigger (R579), a record and a
log entry. With no candidate LEAD becomes not valid. -/
def grantLease (s : State) (hub : Nat) (lead : Option Nat) : State :=
  let l := leaseOf s hub
  match lead with
  | none => sendLease (setLease s hub { l with lead := none, granted := true }) hub
  | some d =>
    let l1 := { l with lead := some d, epoch := (l.epoch + 1) % 2 ^ 32, expiry := leaseEnd s hub, at_ := s.now, granted := true }
    let s1 := sendLease (setLease s hub l1) hub
    let told := (diesOf s1).filter (leaseReach s1 hub)
    let s2 := told.foldl (fun t e => if e = hub then t else hwEvent t e .mechanic 0) s1
    let st := stampOf s2 hub 315 0
    let s3 := eventRec (tickSrc s2 hub 315) hub hub .mechanic st (pagePlane .mechanic) 0 0 [d, l1.epoch]
    let s4 := pushLog s3 hub 1 4 [d, l1.epoch]
    (hubs s4).foldl (fun t h => if told.contains h then fireTrigger t h 8 st.cts else t) s4

/-- The page shows this initiator as the lead (R546, R565). -/
def isLead (s : State) (loc : Nat) (w : Who) : Bool :=
  let v := rd s (locDie loc) R.MC_LEASE 0
  isMech w.ini && bit v 3 && w.ini == 96 + v % 8

end Sys2Proof.Machine
end

