-- ==== Sys2Proof/Machine/Balls.lean ====
section
/-!
DEFINITION. Sys2Proof/Machine/Balls.lean: the states of the configurable balls other than TRIP_OUT (R528, R529).
-/
namespace Sys2Proof.Machine

/-- The level of a pin that time triggers drive (R114 to R116): that of the armed trigger of the target, else of one whose
pulse still runs; without either, 0 (DESIGN CHOICE, assumption 55). -/
def trgPinLevel (s : State) (hub code index : Nat) : Bool :=
  let mine := ((List.range 16).map (trigOf s hub)).filter (fun g => g.code == code && (code == 4 || g.index == index))
  match mine.find? (fun g => g.armed || g.pulse.isSome) with
  | some g => pinLevel g
  | none => false

/-- The domain of the block that owns a ball (R529): TIME for SYNC_OUT and PPS_OUT, AON for WDO_N, NET for TX_DISABLE. -/
def ballDomain (ball : Nat) : Nat := if ball ≤ 12 then 5 else if ball = 13 then 0 else 7

/-- The level that its block drives on a ball: SYNC_OUT, PPS_OUT, WDO_N, TX_DISABLE of P0 to P9 (R528, R544, R193). -/
def blockLevel (s : State) (hub ball : Nat) : Bool :=
  if ball ≤ 11 then trgPinLevel s hub 5 (ball - 8)
  else if ball = 12 then trgPinLevel s hub 4 0
  else if ball = 13 then (leaseOf s hub).wdo
  else bit (rd s hub R.SD_CFG (ball - 14)) 5

/-- Its block drives a ball: fuses sensed, and PINMAP and the block's domain in RUN (R529). -/
def blockDrives (s : State) (hub ball : Nat) : Bool :=
  (rstOf s hub).fuseSensed && domRun s hub 2 && domRun s hub (ballDomain ball)

/-- What a configurable ball drives (R529): none for HI-Z and the pulls. KEEP is the level its block last drove, and
DRIVE-0 before the first since POR. -/
def ballDrive (s : State) (hub ball : Nat) : Option Bool :=
  if ball < 8 then lineDrive s hub ball
  else if !(rstOf s hub).fuseSensed then none
  else if blockDrives s hub ball then some (blockLevel s hub ball)
  else match pinCode s hub ball with
    | 3 => some false
    | 4 => some true
    | 5 => some (mget false s.kept (hub * 64 + ball))
    | _ => none

/-- The internal pull of a ball that is not driven: up or down, by its code (R528, R529). -/
def ballPull (s : State) (hub ball : Nat) : Option Bool :=
  if (ballDrive s hub ball).isSome || !(rstOf s hub).fuseSensed then none
  else match pinCode s hub ball with
    | 1 => some true
    | 2 => some false
    | _ => none

/-- The levels that blocks drive are kept before a reset takes them (R529). -/
def keepBalls (s : State) (hub : Nat) : State :=
  let driven := (List.range 24).filter (fun b => decide (8 ≤ b) && blockDrives s hub b)
  { s with kept := driven.foldl (fun m b => mput (hub * 64 + b) (blockLevel s hub b) m) s.kept }

end Sys2Proof.Machine
end

