-- ==== Sys2Proof/Machine/Tandem.lean ====
section
/-!
DEFINITION. Sys2Proof/Machine/Tandem.lean: Tandem pairing (R456 to R478): the state frame and beacons, the token and its lease,
the roles, the gate and the planned handover.
-/
namespace Sys2Proof.Machine

/-! ### State and registers (R457, R477) -/

/-- A role machine before the release of NET. -/
def Tandem.empty : Tandem :=
  ⟨0, false, false, ⟨0, 0, 0, false, 0⟩, none, none, none, 0, none, false, none, none, none, 0, 0, none, false, none, false⟩

/-- A hub's role machine. -/
def tdOf (s : State) (hub : Nat) : Tandem := mget Tandem.empty s.tandems hub

/-- Set a hub's role machine. -/
def setTd (s : State) (hub : Nat) (t : Tandem) : State := { s with tandems := mput hub t s.tandems }

/-- The hubs that run one role machine in lockstep with a hub (R457): both while the Axle is up, else the hub alone. -/
def tdGroup (s : State) (hub : Nat) : List Nat :=
  if present s 1 && domRun s 0 7 && domRun s 1 7 && axleAlive s then [0, 1] else if domRun s hub 7 then [hub] else []

/-- MODULE and PAIR_ID of this module. -/
def tdModule (s : State) (hub : Nat) : Nat := rd s hub R.TD_ID 0 % 2
def tdPair (s : State) (hub : Nat) : Nat := rd s hub R.TD_ID 0 / 65536

/-- TD_CYCLE in ns, TD_LEASE × TD_CYCLE in ns, TD_SKEW in ns, and TD_PERMIT_MS and TD_LISTEN in ns, each setting within its
range (R477, assumption 73). -/
def tdCycle (s : State) (hub : Nat) : Nat := within 250000 100000000 (rd s hub R.TD_CYCLE 0)
def leaseNs (s : State) (hub : Nat) : Nat := within 2 255 (rd s hub R.TD_LEASE 0) * tdCycle s hub
def skewNs (s : State) (hub : Nat) : Nat := within 1000 10000000 (rd s hub R.TD_SKEW 0)
def permitNs (s : State) (hub : Nat) : Nat := within 10 60000 (rd s hub R.TD_PERMIT_MS 0) * 1000000
def listenNs (s : State) (hub : Nat) : Nat := within 1 1000 (rd s hub R.TD_LISTEN 0) * 1000000

/-- A partner path (R465): a good frame or beacon within the last TD_LEASE × TD_CYCLE. -/
def tdPath (s : State) (hub : Nat) : Bool :=
  match (tdOf s hub).pathAt with
  | some t => decide (s.now ≤ t + leaseNs s hub)
  | none => false

/-- LANE_LIVE (R465): a stream of either hub in RUN; where none is enabled, a LANE port that is UP. -/
def laneLive (s : State) (hub : Nat) : Bool :=
  let hs := (hubs s).filter (fun h => h == hub || axleAlive s)
  let up := fun h => domRun s h 8 && s.streams.any (fun e => e.1 / 1024 == h && rd s h R.ST_STATE (e.1 % 1024) % 4 == 2)
  let any := hs.any (fun h => domRun s h 8 && s.streams.any (fun e => e.1 / 1024 == h))
  let port := fun h => domRun s h 7 && (List.range 12).any (fun p => portRole s h p == 1 && portState s h p == 2)
  hs.any up || (!any && hs.any port)

/-- The permit stands (R464). -/
def permitted (s : State) (hub : Nat) : Bool :=
  match (tdOf s hub).permitAt with
  | some t => decide (s.now ≤ t + permitNs s hub)
  | none => false

/-- MAY_HOLD (R464). -/
def mayHold (s : State) (hub : Nat) : Bool :=
  decide ((levelOf s hub).level < within 1 4 (rd s hub R.TD_CFG 0 % 8)) && permitted s hub && (ctr s hub).valid && (tdPath s hub || laneLive s hub)

/-- The lease is judged by TAI alone (R467): this module's master and the partner's last header show LOCKED. -/
def taiJudge (s : State) (hub : Nat) : Bool :=
  masterLocked s && (match (tdOf s hub).partner with | some p => p.locked | none => false)

/-- TD_STATE, TD_EPOCH, TD_EXPIRY and TD_HOLDER follow the role machine. -/
def showTd (s : State) (hub : Nat) : State :=
  if domRun s hub 7 then
    let t := tdOf s hub
    let w := t.role + b2n t.gate * 8 + b2n (t.role != 0 && !(taiJudge s hub)) * 16 + b2n (mayHold s hub) * 32 + b2n (tdPath s hub) * 64 +
      b2n (laneLive s hub) * 128 + b2n t.hand.isSome * 256 + b2n t.mismatch * 512 + b2n t.rxBuf * 1024 +
      fld (rd s hub R.TD_STATE 0) 13 12 * 4096 + b2n (t.token.valid && t.token.holder == tdModule s hub) * 65536
    let k := t.token
    wrAll s hub 0 [(R.TD_STATE, w), (R.TD_EPOCH, k.epoch), (R.TD_EXPIRY, if k.valid then ctsOfNs k.expiry else 0),
      (R.TD_HOLDER, k.holder + b2n k.valid * 2)]
  else s

/-- Change the role machine of a hub; its gate reaches the outputs (R473). -/
def putTd (s : State) (hub : Nat) (t : Tandem) : State :=
  let was := (tdOf s hub).gate
  let s1 := showTd (setTd s hub t) hub
  if was = t.gate then s1 else gateChanged s1 hub t.gate

/-- The same change in every hub of a group. -/
def putGroup (s : State) (g : List Nat) (f : State → Nat → State) : State := g.foldl f s

/-- Enter a role, with the gate as it then stands; ROLE_CHANGE and the ROLE trigger (R579), and FENCED on entry
to it. -/
def enterRole (role : Nat) (gate : Bool) (s : State) (hub : Nat) : State :=
  let t := tdOf s hub
  if t.role = role then putTd s hub { t with gate := gate }
  else
    let s1 := putTd s hub { t with role := role, gate := gate, contendAt := if role = 3 then s.now else t.contendAt }
    let s2 := fireTrigger (hwEvent s1 hub .tandemLane 0) hub 9 (ctsNow s1 hub)
    if role = 4 then hwEvent s2 hub .tandemLane 5 else s2

/-- A record of TANDEM_LANE with an EVENT bit. -/
def tdRecord (s : State) (hub ev : Nat) : State :=
  let st := pageStamp s hub hub .tandemLane 0
  eventRec (tickPage s hub .tandemLane) hub hub .tandemLane st (pagePlane .tandemLane) ev 0 []

/-! ### Judging the lease (R467) -/

/-- Nanoseconds of elapsed time times 10^6 since the token's renewal. -/
def sinceRenewal (s : State) (hub : Nat) : Nat := (s.now - (tdOf s hub).token.at_) * 1000000

/-- The holder's lease ends `early` ns from now or sooner, by TAI alone or by the earlier judgement. -/
def holderDue (s : State) (hub early : Nat) : Bool :=
  let tai := (ctr s hub).valid && decide ((tdOf s hub).token.expiry ≤ taiNs s hub + early)
  let el := decide (leaseNs s hub * 999950 ≤ sinceRenewal s hub + early * 1000000)
  if taiJudge s hub then tai else tai || el

/-- Another module may take the lease: by TAI alone or by the later judgement. -/
def takeDue (s : State) (hub : Nat) : Bool :=
  let tai := (ctr s hub).valid && decide ((tdOf s hub).token.expiry + skewNs s hub < taiNs s hub)
  let el := decide (leaseNs s hub * 1000050 + skewNs s hub * 1000000 ≤ sinceRenewal s hub)
  if taiJudge s hub then tai else tai && el

/-- The newest known token names the partner and has not expired. -/
def partnerHolds (s : State) (hub : Nat) : Bool :=
  let k := (tdOf s hub).token
  k.valid && k.holder != tdModule s hub && !(takeDue s hub)

/-- A handover that this module has acknowledged is due: its counter passes T + TD_SKEW (R475). -/
def handDue (s : State) (hub : Nat) : Bool :=
  match (tdOf s hub).handTo with
  | some at_ => (ctr s hub).valid && decide (at_ + skewNs s hub < taiNs s hub)
  | none => false

/-- The token may be taken: another module's by R467 or at the end of its handover (R475); where none is known, once there
is no partner path. -/
def mayTake (s : State) (hub : Nat) : Bool :=
  let k := (tdOf s hub).token
  if k.valid then k.holder != tdModule s hub && (takeDue s hub || handDue s hub) else !(tdPath s hub)

/-! ### Roles (R468 to R471) -/

/-- Module 1 defers while module 0, CONTENDING too, shows MAY_HOLD (R470). -/
def defers (s : State) (hub : Nat) : Bool :=
  tdModule s hub == 1 && tdPath s hub && (match (tdOf s hub).partner with | some p => p.role == 3 && p.mayHold | none => false)

/-- Take the lease (R462, R470). -/
def takeLease (s : State) (hub : Nat) : State :=
  let t := tdOf s hub
  let sec := (ctr s hub).sec % 2 ^ 32 * 2 ^ 32
  let k : Token := ⟨max (t.token.epoch + 1) sec % 2 ^ 64, tdModule s hub, taiNs s hub + leaseNs s hub, true, s.now⟩
  let s1 := enterRole 1 true (setTd s hub { t with token := k, ack := none, handTo := none }) hub
  tdRecord (wr s1 hub R.TD_TAKE_CTS 0 (ctsNow s1 hub)) hub 1

/-- The holder's lease has run out (R468): STANDBY with a path or a live lane, FENCED otherwise. -/
def loseLease (s : State) (hub : Nat) : State := enterRole (if tdPath s hub || laneLive s hub then 2 else 4) false s hub

/-- The transitions that follow from the inputs alone (R469), and PARTNER_LOST when the partner path is lost. -/
def judgeTd (s : State) (hub : Nat) : State :=
  let t := tdOf s hub
  let path := tdPath s hub
  let live := path || laneLive s hub
  let t1 := { t with path := path, aloneAt := if live then none else some (t.aloneAt.getD s.now) }
  let s1 := setTd s hub t1
  let s2 := if t.path && !path then hwEvent s1 hub .tandemLane 3 else s1
  let s3 :=
    if t.role = 3 then
      let first := match t.partner with
        | some p => path && p.role == 3 && p.mayHold && tdModule s hub == 1
        | none => false
      if partnerHolds s2 hub || first then enterRole 2 false s2 hub else s2
    else if t.role = 4 ∧ live then enterRole 3 false s2 hub
    else s2
  showTd s3 hub

/-- LEASE_GATE_CLOSE, R468: a holder that stops renewing closes its gate, and at expiry leaves ACTIVE. -/
def execLeaseGateClose (hub : Nat) (s : State) : Out :=
  .next (putGroup s (tdGroup s hub) (fun u h =>
    let t := tdOf u h
    if t.role ≠ 1 then u
    else
      let u1 := if t.gate && holderDue u h (skewNs u h) then hwEvent (putTd u h { t with gate := false }) h .tandemLane 2 else u
      if holderDue u1 h 0 then loseLease u1 h else u1))

/-- LEASE_TAKEOVER, R469, R470. -/
def execLeaseTakeover (hub : Nat) (s : State) : Out :=
  .next (putGroup s (tdGroup s hub) (fun u h =>
    if (tdOf u h).role = 2 ∧ (ctr u h).valid ∧ mayTake u h ∧ mayHold u h then takeLease u h else u))

/-- CONTEND_LISTEN_EXPIRY, R469. -/
def execContendListenExpiry (hub : Nat) (s : State) : Out :=
  .next (putGroup s (tdGroup s hub) (fun u h =>
    let t := tdOf u h
    if t.role = 3 ∧ t.contendAt + listenNs u h ≤ u.now ∧ (ctr u h).valid ∧ !(partnerHolds u h) ∧ mayHold u h ∧
        !(defers u h) then takeLease u h
    else u))

/-- PARTNER_PATH_LOSS, R469: neither a partner path nor a live lane for TD_LEASE × TD_CYCLE fences STANDBY and CONTENDING;
an ACTIVE module is fenced at expiry. -/
def execPartnerPathLoss (hub : Nat) (s : State) : Out :=
  .next (putGroup s (tdGroup s hub) (fun u h =>
    let u1 := judgeTd u h
    let t := tdOf u1 h
    match t.aloneAt with
    | some a => if (t.role = 2 ∨ t.role = 3) ∧ a + leaseNs u1 h ≤ u1.now then enterRole 4 false u1 h else u1
    | none => u1))

/-! ### Exchange over the Axle (R457) -/

/-- The newer of two tokens (R461). -/
def newerToken (a b : Token) : Token :=
  if !b.valid then a else if !a.valid then b
  else if a.epoch < b.epoch ∨ (a.epoch = b.epoch ∧ a.expiry < b.expiry) then b else a

/-- The later of two elapsed times. -/
def laterOf (a b : Option Nat) : Option Nat :=
  match a, b with
  | some x, some y => some (max x y)
  | some x, none => some x
  | none, y => y

/-- The inputs of two hubs merged: the newest token, the later path and permit, and the header that came later. -/
def mergeTd (a b : Tandem) : Tandem :=
  { a with
    token := newerToken a.token b.token, pathAt := laterOf a.pathAt b.pathAt, permitAt := laterOf a.permitAt b.permitAt
    partner := if a.pathAt.getD 0 < b.pathAt.getD 0 then b.partner else a.partner }

/-- TANDEM_INPUT_EXCHANGE, R457: both hubs exchange their inputs, and judge them. -/
def execTandemInputExchange (s : State) : Out :=
  let both := tdGroup s 0
  if both = [0, 1] then
    let a := tdOf s 0
    let b := tdOf s 1
    .next (putGroup (setTd (setTd s 0 (mergeTd a b)) 1 (mergeTd b a)) both judgeTd)
  else .next (putGroup s ((hubs s).filter (fun h => domRun s h 7)) judgeTd)

/-! ### The state frame (R459, R460) -/

/-- Bytes 0 to 59 of the header, and its CRC. `len` and `n` are the frame's length and its sections. -/
def tdHeader (s : State) (hub boundary len n : Nat) : List Byte :=
  let t := tdOf s hub
  let k := t.token
  let ack := match t.ack with | some e => e | none => 0
  let flags := b2n (masterLocked s) + b2n (mayHold s hub) * 2 + b2n (laneLive s hub) * 4 + b2n t.hand.isSome * 8 + b2n t.ack.isSome * 16
  let at_ := match t.hand with | some h => ctsOfNs h.at_ | none => 0
  let body := bytesLE 2 (tdPair s hub) ++ bytesLE 1 (tdModule s hub) ++ bytesLE 1 1 ++ bytesLE 4 t.seq ++ bytesLE 8 (ctsOfNs boundary) ++
    bytesLE 8 k.epoch ++ bytesLE 1 (k.holder + b2n k.valid * 2) ++ bytesLE 1 t.role ++ bytesLE 1 (levelOf s hub).level ++ bytesLE 1 flags ++
    bytesLE 8 (if k.valid then ctsOfNs k.expiry else 0) ++ bytesLE 8 at_ ++ bytesLE 8 ack ++ bytesLE 4 len ++ bytesLE 2 n ++ bytesLE 2 0
  body ++ bytesLE 4 (crc32 body)

/-- A section. -/
def section_ (type die : Nat) (bs : List Byte) : List Byte :=
  bytesLE 1 type ++ bytesLE 1 die ++ bytesLE 2 0 ++ bytesLE 4 bs.length ++ bs

/-- The sections of a frame: each Crank's newest export, in die order, then the software block, from hub A's DRAM or from hub
B's while hub A is lost or out of reach (R460, R461). A block outside that DRAM, or one whose DRAM is held, is no section
(DESIGN CHOICE, assumption 58). -/
def tdSections (s : State) (hub : Nat) : List (List Byte) :=
  let cranks := (computeDies s).filterMap (fun d =>
    let e := (crOf s d).exported
    if e.isEmpty || !(lineReach s d hub) then none else some (section_ 1 d e))
  let src := if hub = 0 ∨ (domRun s 0 7 ∧ axleAlive s) then 0 else 1
  let len := min 262144 (rd s hub R.TD_SW_LEN 0)
  let base := rd s src R.TD_SW_BASE 0
  let sw := if len = 0 ∨ !(dramRun s src) ∨ !(inDram s src base len) then [] else [section_ 2 0 (readBytes s base len)]
  cranks ++ sw

/-- Sections that fit with the header and the CRC within 256 KiB, and how many are left out. -/
def fitSections : Nat → List (List Byte) → List (List Byte) × Nat
  | _, [] => ([], 0)
  | room, x :: xs =>
    if x.length ≤ room then
      let r := fitSections (room - x.length) xs
      (x :: r.1, r.2)
    else
      let r := fitSections room xs
      (r.1, r.2 + 1)

/-- The state frame of a boundary. -/
def tdFrame (s : State) (hub boundary : Nat) (secs : List (List Byte)) : List Byte :=
  let len := 64 + (secs.map List.length).sum + 4
  let body := tdHeader s hub boundary len secs.length ++ secs.flatten
  body ++ bytesLE 4 (crc32 body)

/-- The source address of a hub's own frames. -/
def ownMac (s : State) (hub : Nat) : Nat := rd s hub R.MG_MAC 0 % 2 ^ 48

/-- One Ethernet frame of the Tandem lanes or a beacon (R458, R466). -/
def tdEther (s : State) (hub dst : Nat) (payload : List Byte) : Frame :=
  let own := ownMac s hub
  let bs := bytesBE 6 dst ++ bytesBE 6 own ++ bytesBE 2 0x88B5 ++ payload
  ⟨dst, own, none, 0x88B5, 0, none, bs.length + 4, bs, false, false, none, .tandem⟩

/-- Segment `i` of a state frame (R458). -/
def tdSegment (s : State) (hub : Nat) (frame : List Byte) (i : Nat) : Frame :=
  let n := ceilDiv frame.length 8192
  tdEther s hub 0xFFFFFFFFFFFF
    (bytesLE 2 (tdPair s hub) ++ bytesLE 1 (tdModule s hub) ++ bytesLE 1 1 ++ bytesLE 4 (tdOf s hub).seq ++ bytesLE 2 i ++ bytesLE 2 n ++
      bytesLE 4 (i * 8192) ++ (frame.drop (i * 8192)).take 8192)

/-- Send one segment on a hub's Tandem lane, with its tag where AUTH is set (R458). -/
def sendSegment (hub : Nat) (s : State) (f : Frame) : State :=
  let st := stampOf s hub 289 0
  let s1 := tickSrc s hub 289
  let r := if bit (rd s hub R.TD_CFG 0) 3 then tagFrame s1 hub (fld (rd s hub R.TD_CFG 0) 25 16) f else (s1, some f)
  match r.2 with
  | some g => { r.1 with sent := r.1.sent ++ [⟨hub, 12, g, st.cts, st.order, false⟩] }
  | none => r.1

/-- LINK of a hub's Tandem lane is UP. -/
def tdLinkUp (s : State) (hub : Nat) : Bool := fld (rd s hub R.TD_STATE 0) 13 12 == 2

/-- The beacon from a hub's P15 on both process lanes, under one sequence number (R466). -/
def sendBeacon (s : State) (hub : Nat) (header : List Byte) : State :=
  let dst := rd s hub R.TD_BEACON_MAC0 0 + rd s hub R.TD_BEACON_MAC1 0 % 65536 * 2 ^ 32
  let f := tdEther s hub dst header
  let ports := (List.range 12).filter (fun p => portRole s hub p == 1)
  let all := ports ++ (if dualLane s then [] else [12])
  if laneMode s hub = 0 then injectP15 s hub f all 7
  else
    let q := takeSeq s hub (ownMac s hub)
    injectP15 q.1 hub { f with red := some ⟨q.2, hub, decide (laneMode s hub = 2)⟩ } all 7

/-- A hub sends the state frame of a boundary on its lane if that is UP, and its beacon. -/
def sendTd (boundary : Nat) (s : State) (hub : Nat) : State :=
  let t := tdOf s hub
  let s0 := setTd s hub { t with seq := (t.seq + 1) % 2 ^ 32 }
  let fit := fitSections (262144 - 68) (tdSections s0 hub)
  let frame := tdFrame s0 hub boundary fit.1
  let s1 := if fit.2 = 0 then s0 else hwEvent (incr s0 hub R.TX_OMIT 0 fit.2) hub .tandemLane 7
  let n := ceilDiv frame.length 8192
  let s2 := if tdLinkUp s1 hub then ((List.range n).map (tdSegment s1 hub frame)).foldl (sendSegment hub) s1 else s1
  sendBeacon (incr s2 hub R.TANDEM_LANE_TX_FRAMES 0 1) hub (frame.take 64)

/-- The renewal of a boundary (R463), capped at T while a handover is pending (R475). A token that may no longer be
renewed stays as it is. -/
def renew (boundary : Nat) (s : State) (hub : Nat) : State :=
  let t := tdOf s hub
  if t.role = 1 ∧ mayHold s hub ∧ !(holderDue s hub 0) then
    let e := boundary + leaseNs s hub
    let cap := match t.hand with | some h => min e h.at_ | none => e
    let open_ := match t.hand with | some h => decide (taiNs s hub + skewNs s hub < h.at_) | none => true
    putTd s hub { t with token := { t.token with expiry := cap, at_ := s.now }, gate := open_ }
  else s

/-- A frame that stayed incomplete, or none, since the last boundary (R461). -/
def missFrame (s : State) (hub : Nat) : State :=
  let t := tdOf s hub
  let s1 := setTd s hub { t with asm := none, heard := false }
  if t.heard then s1 else incr s1 hub R.RX_MISS 0 1

/-- The boundary at or before a hub's present (R459). -/
def lastBoundaryNs (s : State) (hub : Nat) : Nat :=
  let c := ctr s hub
  c.sec * 1000000000 + c.ns / tdCycle s hub * tdCycle s hub

/-- TANDEM_BOUNDARY, R459, R463, R466. -/
def execTandemBoundary (hub : Nat) (s : State) : Out :=
  let b := lastBoundaryNs s hub
  .next (putGroup s ((tdGroup s hub).filter (fun h => (ctr s h).valid && (tdOf s h).role != 0 && decide ((tdOf s h).boundary < b)))
    (fun u h =>
      let u0 := missFrame (setTd u h { tdOf u h with boundary := b }) h
      showTd (sendTd b (renew b (judgeTd u0 h) h) h) h))

/-! ### Receiving (R458, R461, R466, R471) -/

/-- A field of received bytes. -/
def rxFld (bs : List Byte) (i n : Nat) : Nat := ofBytesLE ((bs.drop i).take n)

/-- A header that came in from the partner, from a frame or a beacon: the path, the partner's state, the token, the
acknowledgement of a handover, and a healed split (R465, R471, R475). -/
def hearHeader (bs : List Byte) (s : State) (hub : Nat) : State :=
  let t := tdOf s hub
  let flags := rxFld bs 27 1
  let now := (ctr s hub).sec
  let valid := bit (rxFld bs 24 1) 1
  let k : Token := ⟨rxFld bs 16 8, rxFld bs 24 1 % 2, ctsNs now (rxFld bs 28 8), valid, s.now⟩
  let p : Partner := ⟨rxFld bs 25 1 % 8, bit flags 0, bit flags 1, bit flags 3, k.epoch⟩
  let split := t.role == 1 && valid && k.holder != tdModule s hub && decide (t.token.epoch < k.epoch)
  let own := t.role == 1 && !split
  let token := if own then t.token else newerToken t.token k
  let hand := t.hand.map (fun h => { h with
    acked := h.acked || (bit flags 4 && rxFld bs 44 8 == t.token.epoch && decide (taiNs s hub + tdCycle s hub ≤ h.at_)) })
  let s1 := setTd s hub { t with partner := some p, pathAt := some s.now, path := true, token := token, hand := hand }
  let s2 := if split then tdRecord (incr (enterRole 2 false s1 hub) hub R.SPLIT_SEEN 0 1) hub 4 else s1
  let t2 := tdOf s2 hub
  let acks := p.handover && t2.role == 2 && mayHold s2 hub
  judgeTd (setTd s2 hub { t2 with
    ack := if acks then some k.epoch else none
    handTo := if acks then some (ctsNs now (rxFld bs 36 8)) else if p.role = 1 then none else t2.handTo }) hub

/-- The software block reaches the receive buffers of a hub (R461); without its DRAM it reaches none (DESIGN CHOICE,
assumption 58). -/
def hearSoftware (bs : List Byte) (s : State) (hub : Nat) : State :=
  let t := tdOf s hub
  let base := rd s hub R.TD_RX_BASE 0 + (if t.rxBuf then 0 else 0x40000)
  if inDram s hub base bs.length && dramRun s hub && decide (bs.length ≤ 0x40000) then
    hwEvent (putTd (writeBytes s base bs) hub { t with rxBuf := !t.rxBuf }) hub .tandemLane 10
  else s

/-- The sections of a complete frame: exports to the Cranks of their dies, the software block to the buffers of the hubs. -/
def hearSections (group : List Nat) : Nat → List Byte → State → State
  | 0, _, s => s
  | n + 1, bs, s =>
    let len := rxFld bs 4 4
    let body := (bs.drop 8).take len
    let die := rxFld bs 1 1
    let s1 :=
      if rxFld bs 0 1 = 1 then (if present s die && !(isHub die) && group.any (fun h => lineReach s die h && rd s h R.TD_STATE 0 % 8 == 2) then setCr s die { crOf s die with imported := some body } else s)
      else if rxFld bs 0 1 = 2 then group.foldl (hearSoftware body) s
      else s
    hearSections group n (bs.drop (8 + len)) s1

/-- A bad segment or frame (R458). -/
def rxBad (s : State) (hub : Nat) : State := hwEvent (incr s hub R.RX_BAD 0 1) hub .tandemLane 8

/-- A complete state frame (R458, R459). -/
def hearFrame (s : State) (hub seq : Nat) (bs : List Byte) : State :=
  let g := tdGroup s hub
  let n := bs.length
  if 68 ≤ n ∧ rxFld bs 52 4 = n ∧ crc32 (bs.take 60) = rxFld bs 60 4 ∧ crc32 (bs.take (n - 4)) = rxFld bs (n - 4) 4 then
    let s1 := g.foldl (fun u h =>
      let u1 := incr (wr u h R.TD_LAST_RX 0 (rxFld bs 8 8)) h R.TANDEM_LANE_RX_FRAMES 0 1
      hearHeader bs (setTd u1 h { tdOf u1 h with asm := none, heard := true, lastSeq := some seq }) h) s
    hearSections g (rxFld bs 56 2) (bs.drop 64) s1
  else rxBad (g.foldl (fun u h => setTd u h { tdOf u h with asm := none }) s) hub

/-- A good segment joins the frame being assembled; a newer sequence begins a new one. -/
def joinSegment (s : State) (hub seq idx count : Nat) (part : List Byte) : State :=
  let t := tdOf s hub
  if t.lastSeq = some seq then s
  else
    let a0 := match t.asm with
      | some a => if a.seq = seq then a else ⟨seq, count, []⟩
      | none => ⟨seq, count, []⟩
    let a : Assembly := if (a0.parts.lookup idx).isSome then a0 else { a0 with parts := mput idx part a0.parts }
    let s1 := (tdGroup s hub).foldl (fun u h => setTd u h { tdOf u h with asm := some a }) s
    if a.parts.length = a.count then hearFrame s1 hub seq (a.parts.flatMap (fun e => e.2)) else s1

/-- The check of a segment's tag (R458, R203): the state after it, and whether the segment is taken. -/
def checkSegment (s : State) (hub cts : Nat) (f : Frame) : State × Bool :=
  let cfg := rd s hub R.TD_CFG 0
  if bit cfg 3 then
    let slot := fld cfg 25 16
    let r := verifyFrame s hub slot 1 cts f
    if r.1 = 0 then (authPass s hub r.2, true)
    else if r.1 = 6 then (authFail s hub 2 6 0 cts, !(sealedDrop s hub))
    else (authFail s hub 2 r.1 0 cts, false)
  else (s, true)

/-- TANDEM_SEGMENT_RX, R458: a frame arrives on a hub's Tandem lane. -/
def execTandemSegmentRx (hub : Nat) (f : Frame) (s : State) : Out :=
  if domRun s hub 7 && tdLinkUp s hub && (tdOf s hub).role != 0 then
    let st := stampOf s hub 288 0
    let s1 := tickSrc s hub 288
    let p := f.bytes.drop 14
    let idx := rxFld p 8 2
    let count := rxFld p 10 2
    let good := !f.fcsBad && !f.symbolErr && f.etype == 0x88B5 && rxFld p 0 2 == tdPair s hub && rxFld p 2 1 % 2 != tdModule s hub && rxFld p 3 1 == 1 &&
      decide (idx < count ∧ rxFld p 12 4 = idx * 8192 ∧ (p.drop 16).length ≤ 8192)
    .next (causedBy st.cts (fun u =>
      if good then
        let c := checkSegment u hub st.cts f
        if c.2 then joinSegment c.1 hub (rxFld p 4 4) idx count (p.drop 16) else rxBad c.1 hub
      else rxBad u hub) s1)
  else .next s

/-- BEACON_RX, R466: the oldest beacon at a hub's P15 is sunk; one with another PAIR_ID, of this module or with a bad header CRC
is discarded. -/
def execBeaconRx (hub : Nat) (s : State) : Out :=
  let w := swOf s hub
  match w.toP15.find? (fun f => f.frame.etype == 0x88B5) with
  | some x =>
    if domRun s hub 7 then
      let s0 := setSw s hub { w with toP15 := w.toP15.erase x }
      let p := x.frame.bytes.drop (if x.frame.tag.isSome then 18 else 14)
      if !x.frame.fcsBad && decide (rxFld p 0 2 = tdPair s hub) && rxFld p 2 1 % 2 != tdModule s hub && rxFld p 3 1 == 1 &&
          crc32 (p.take 60) == rxFld p 60 4 && (tdOf s hub).role != 0 then
        .next (causedBy x.cts (fun u => (tdGroup u hub).foldl (hearHeader p) (incr u hub R.BEACON_RX 0 1)) s0)
      else .next s0
    else .next s
  | none => .next s

/-! ### The permit (R464) -/

/-- A write of TD_PERMIT: by class M it refreshes the permit (R464). -/
def tdPermit (w : Who) (t : Target) (_ : Nat) (s : State) : State :=
  let hub := locDie t.loc
  if isMech w.ini then judgeTd (setTd s hub { tdOf s hub with permitAt := some s.now }) hub else s

/-- TD_PERMIT_WRITE, R464: a write by class M refreshes the permit; others are ignored. -/
def execTdPermitWrite (a : Access) (s : State) : Out := writeReg (accAt R.TD_PERMIT a) (tdPermit a.who) s

/-- TD_PERMIT_LAPSE, R464: TD_PERMIT_MS without a write withdraws MAY_HOLD. -/
def execTdPermitLapse (hub : Nat) (s : State) : Out := .next (putGroup s (tdGroup s hub) showTd)

/-! ### Handover (R475) -/

/-- End a handover with a code on the page that runs it. -/
def endHandover (s : State) (hub : Nat) (code : Code) : State :=
  match (tdOf s hub).hand with
  | some h =>
    let s1 := putTd s hub { tdOf s hub with hand := none }
    if h.hub = hub then finishOp s1 hub .tandemLane 0x12 code 0 else s1
  | none => s

/-- HANDOVER_ACK_DEADLINE, R475: no acknowledgement by T − TD_CYCLE ends the command with ABORTED. -/
def execHandoverAckDeadline (hub : Nat) (s : State) : Out :=
  .next (putGroup s (tdGroup s hub) (fun u h =>
    match (tdOf u h).hand with
    | some x => if !x.acked && decide (x.at_ < taiNs u h + tdCycle u h) then endHandover u h .aborted else u
    | none => u))

/-- HANDOVER_CUT, R475: at T − TD_SKEW the holder closes its gate and becomes STANDBY. -/
def execHandoverCut (hub : Nat) (s : State) : Out :=
  .next (putGroup s (tdGroup s hub) (fun u h =>
    match (tdOf u h).hand with
    | some x =>
      if x.acked && decide (x.at_ ≤ taiNs u h + skewNs u h) then
        hwEvent (endHandover (enterRole 2 false u h) h .done) h .tandemLane 6
      else u
    | none => u))

/-! ### Commands (R478) and the release of NET (R469) -/

/-- The checks that every opcode of TANDEM_LANE shares. -/
def tdChecks (t : State) (x : Ctx) (roles : List Nat) : Checks :=
  { Checks.pass with auth := hostHart x.who || fromMech x.who, idle := pageIdle t x, legal := roles.contains (tdOf t x.loc).role }

/-- The hubs on which a command acts: the package's. -/
def tdAll (s : State) : List Nat := (hubs s).filter (fun h => domRun s h 7)

/-- The checks of TD_START. -/
def checksTdStart (t : State) (x : Ctx) : Checks :=
  let n := rd t x.loc R.TD_CYCLE 0
  { tdChecks t x [0] with
    argOk := decide (n ≠ 0 ∧ 1000000000 % n = 0)
    legal := (tdOf t x.loc).role == 0 && !(tdOf t x.loc).mismatch }

/-- The effect of TD_START. -/
def effectTdStart (_ : Ctx) (t : State) : Effect :=
  .done (putGroup t (tdAll t) (enterRole 3 false))

/-- TD_START, R478. -/
def execTdStart (c : Cmd) (s : State) : Out :=
  command s c .tandemLane 0x10 checksTdStart effectTdStart

/-- To ALONE, with its gate open; a pending handover ends with ABORTED. -/
def stopTd (s : State) (hub : Nat) : State := enterRole 0 true (endHandover s hub .aborted) hub

/-- The checks of TD_STOP. -/
def checksTdStop (t : State) (x : Ctx) : Checks :=
  let forced := bit x.sub 0
  { tdChecks t x [1, 2, 3, 4] with
    auth := (hostHart x.who || fromMech x.who) &&
      (!forced || !(tdPath t x.loc) || decide (x.argument = rd t x.loc R.TD_STOP_KEY 0 % 65536))
    idle := true
    legal := (tdOf t x.loc).role != 0 && (forced || !(tdPath t x.loc)) }

/-- The effect of TD_STOP. -/
def effectTdStop (_ : Ctx) (t : State) : Effect :=
  .done (putGroup t (tdAll t) stopTd)

/-- TD_STOP, R478: while a partner path stands it needs SUB [0] and the key. A handover under way does not hold it up. -/
def execTdStop (c : Cmd) (s : State) : Out :=
  command s c .tandemLane 0x11 checksTdStop effectTdStop

/-- The checks of HANDOVER. -/
def checksHandover (t : State) (x : Ctx) : Checks :=
  let h := x.loc
  let at_ := ctsNs (ctr t h).sec (rd t h R.TD_HAND_AT 0)
  let now := ctsNs (ctr t h).sec x.cts
  { tdChecks t x [1] with
    idle := true
    legal := (tdOf t h).role == 1 && (tdOf t h).hand.isNone && taiJudge t h &&
      decide (now + 2 * tdCycle t h ≤ at_ ∧ at_ ≤ now + 10000000000) }

/-- The effect of HANDOVER. -/
def effectHandover (x : Ctx) (t : State) : Effect :=
  let at_ := ctsNs (ctr t x.loc).sec (rd t x.loc R.TD_HAND_AT 0)
  .accepted (putGroup t (tdGroup t x.loc) (fun u h => putTd u h { tdOf u h with hand := some ⟨at_, x.loc, false⟩ }))

/-- HANDOVER, R475, R478. -/
def execHandover (c : Cmd) (s : State) : Out :=
  command s c .tandemLane 0x12 checksHandover effectHandover

/-- The checks of TdClearCounters. -/
def checksTdClearCounters (_ : State) (x : Ctx) : Checks :=
  { Checks.pass with auth := hostHart x.who || fromMech x.who }

/-- The effect of TdClearCounters. -/
def effectTdClearCounters (_ : Ctx) (t : State) : Effect :=
  .done ((tdAll t).foldl (fun u h => clearRegs u h 0 [R.TANDEM_LANE_TX_FRAMES, R.TANDEM_LANE_RX_FRAMES, R.RX_MISS, R.RX_BAD,
    R.TX_OMIT, R.GATE_DROP, R.SPLIT_SEEN, R.BEACON_RX]) t)

/-- CLEAR_COUNTERS of TANDEM_LANE, R478. -/
def execTdClearCounters (c : Cmd) (s : State) : Out :=
  command s c .tandemLane 0x13 checksTdClearCounters effectTdClearCounters

/-- The settings that both hubs must share (R457). -/
def tdSettings (s : State) (hub : Nat) : List Nat :=
  [R.TD_ID, R.TD_CFG, R.TD_CYCLE, R.TD_LEASE, R.TD_SKEW].map (fun r => rd s hub r 0)

/-- NET is released at a hub (R469): the role by option byte 5, with the token kept. -/
def tandemReleased (s : State) (hub : Nat) : State :=
  let t0 := { Tandem.empty with token := (tdOf s hub).token }
  if bit (optByte s hub 5) 0 then putTd s hub { t0 with role := 3, contendAt := s.now } else putTd s hub { t0 with gate := true }

/-- A hub's NET domain runs, and its start-up load has ended. -/
def netLoaded (s : State) (hub : Nat) : Bool := domRun s hub 7 && (rstOf s hub).loading != 7

/-- The hubs' settings are compared once NET runs on both with its configuration loaded (R457): two that disagree stay
ALONE with the gate closed. -/
def tandemCompare (s : State) : State :=
  if present s 1 && netLoaded s 0 && netLoaded s 1 && tdSettings s 0 != tdSettings s 1 then
    putGroup s (tdAll s) (fun u h => putTd u h { tdOf u h with role := 0, gate := false, mismatch := true })
  else s

end Sys2Proof.Machine
end

