-- ==== Sys2Proof/Machine/Vault.lean ====
section
/-!
DEFINITION. Sys2Proof/Machine/Vault.lean: the key vaults (R37, R479 to R490, R493, R496 to R508).
-/
namespace Sys2Proof.Machine

/-! ### Vaults and slots -/

/-- A vault out of Tlanor's test: OTP as the integrator finds it. -/
def Vault.empty : Vault := ⟨[], false, none, none, none, none, 0, false, false, []⟩

/-- A hub's vault. -/
def vaultOf (s : State) (hub : Nat) : Vault := mget Vault.empty s.vaults hub

/-- Set a hub's vault. -/
def putVault (s : State) (hub : Nat) (v : Vault) : State := { s with vaults := mput hub v s.vaults }

/-- Enter a vault state (R479): STATE_CHANGE is set, and the change is logged (R562). -/
def enterVault (s : State) (hub st : Nat) : State :=
  let v := rd s hub R.VT_STATUS 0
  if v % 4 = st then s else pushLog (hwEvent (wr s hub R.VT_STATUS 0 (setFld v 1 0 st)) hub .keyVault 0) hub 1 2 [v % 4, st]

/-- An OTP root (R482), none where it is not written. -/
def rootOf (s : State) (hub n : Nat) : Option (List Byte) :=
  if n = 0 then some (Config.rootZero hub) else s.roots.lookup (hub * 4 + n)

/-- TAMPER_COUNT and ACK_COUNT (R483, R506). -/
def tamperCount (s : State) (hub : Nat) : Nat := fld (rd s hub R.VT_TAMPER 0) 14 8
def ackCount (s : State) (hub : Nat) : Nat := fld (rd s hub R.VT_TAMPER 0) 22 16

/-- ROOTS_BLOCKED (R483). -/
def rootsBlocked (s : State) (hub : Nat) : Bool := decide (ackCount s hub < tamperCount s hub ∨ 64 ≤ tamperCount s hub)

/-- The roots that are written, root n at bit n. -/
def rootsWritten (s : State) (hub : Nat) : Nat := ((List.range 4).map (fun n => b2n (rootOf s hub n).isSome * 2 ^ n)).sum

/-- VT_STATUS (R506). STATE and TRNG_FAIL stand in the register; the rest is what OTP and the options say. -/
def vtStatus (s : State) (hub : Nat) : Nat :=
  let v := rd s hub R.VT_STATUS 0
  let x := vaultOf s hub
  v % 4 + rootsWritten s hub * 4 + b2n (rootsBlocked s hub) * 2 ^ 6 + b2n (bit v 7) * 2 ^ 7 + b2n x.debugOpen * 2 ^ 8 +
    b2n (sealedDrop s hub) * 2 ^ 9 + b2n x.unsealAuth.isSome * 2 ^ 10 + b2n x.debugAuth.isSome * 2 ^ 11

/-- The entropy source has failed (R481). -/
def trngFail (s : State) (hub : Nat) : Bool := bit (rd s hub R.VT_STATUS 0) 7

/-- Bytes of the entropy source. -/
def entropy (s : State) (n : Nat) : State × List Byte :=
  ({ s with free := s.free + n }, (List.range n).map (fun i => Config.freeByte (s.free + i)))

/-- LOADED slots of a vault. -/
def loadedSlots (s : State) (hub : Nat) : Nat := ((List.range 1024).filter (slotLoaded s hub)).length

/-- Show the count of LOADED slots (R506). -/
def countSlots (s : State) (hub : Nat) : State := wr s hub R.VT_LOADED 0 (loadedSlots s hub)

/-- The owner of a slot (R484). -/
def slotOwner (s : State) (hub slot : Nat) : Option Nat :=
  let k := rd s hub R.KS_STATE slot
  if bit k 24 then some (fld k 23 16) else none

/-- Key slots charged to a VI, in both vaults (R333, R486). -/
def keysUsed (s : State) (v : Nat) : Nat :=
  ((hubs s).map (fun h => ((List.range 1024).filter (fun k => slotLoaded s h k && slotOwner s h k == some v)).length)).sum

/-- A slot becomes EMPTY; its owner stays (R486, R490). -/
def emptySlot (hub : Nat) (s : State) (slot : Nat) : State :=
  let s1 := wrAll s hub slot [(R.KS_STATE, rd s hub R.KS_STATE slot / 65536 * 65536), (R.KS_KEY_ID, 0), (R.KS_NOT_BEFORE, 0),
    (R.KS_NOT_AFTER, 0), (R.KS_NEXT, 0), (R.KS_PARENT, 0), (R.KS_USES, 0)]
  { s1 with keys := mdel (hub * 1024 + slot) s1.keys }

/-- The key cache is zeroised (R479). -/
def zeroise (s : State) (hub : Nat) : State := countSlots ((List.range 1024).foldl (emptySlot hub) s) hub

/-- A reset that holds KEY: the cache and every descriptor go (R480). -/
def zeroiseAll (s : State) (hub : Nat) : State :=
  { clearInsts s hub 0 1024 [R.KS_STATE, R.KS_KEY_ID, R.KS_NOT_BEFORE, R.KS_NOT_AFTER, R.KS_NEXT, R.KS_PARENT, R.KS_USES] with
    keys := mkeep (fun k => k / 1024 != hub) s.keys }

/-! ### Arguments of a vault command -/

/-- What a vault command names (R504, R506). -/
structure KeyArgs where
  hub : Nat
  sel : Nat
  root : Option Nat
  target : Nat
  attr : Nat
  kalg : Nat
  keyId : Nat
  notBefore : Nat
  notAfter : Nat
  len : Nat
  buf : List Byte
  sub : Nat
  argument : Nat

/-- A banked register of the vault page or the view (R508). -/
def rdV (s : State) (loc : Nat) (b : Block) (ini : Nat) (r : Reg) : Nat := rdB s loc { r with blk := b } ini

/-- Set it. -/
def wrV (s : State) (loc : Nat) (b : Block) (ini : Nat) (r : Reg) (v : Nat) : State := wrB s loc { r with blk := b } ini v

/-- VT_BUF of an initiator, 768 bytes. -/
def vtBuf (s : State) (loc : Nat) (b : Block) (ini : Nat) : List Byte :=
  (List.range 192).flatMap (fun k => bytesLE 4 (rdV s loc b ini (R.VT_BUF.nth k)))

/-- Write bytes to the front of VT_BUF. -/
def putBuf (s : State) (loc : Nat) (b : Block) (ini : Nat) (bs : List Byte) : State :=
  let all := bs ++ (vtBuf s loc b ini).drop bs.length
  (List.range (ceilDiv bs.length 4)).foldl (fun t k => wrV t loc b ini (R.VT_BUF.nth k) (ofBytesLE ((all.drop (4 * k)).take 4))) s

/-- The hub whose vault a page of KEY_VAULT or KEY_VIEW serves (R508). -/
def vaultHub (s : State) (loc : Nat) (b : Block) (ini : Nat) : Nat := if b = .keyView then kvHub s loc ini else locDie loc

/-- The arguments of a command. -/
def keyArgs (s : State) (loc : Nat) (b : Block) (ini sub argument : Nat) : KeyArgs :=
  let r := rdV s loc b ini
  let ks := r R.VT_KEYSEL
  let tg := r R.VT_TARGET
  ⟨vaultHub s loc b ini, ks % 1024, if bit ks 10 then some (fld ks 12 11) else none, tg % 1024, fld tg 12 10,
    if fld tg 12 10 = 4 ∨ fld tg 12 10 = 5 then fld tg 13 13 else 0, r R.VT_KEY_ID, r R.VT_NOT_BEFORE, r R.VT_NOT_AFTER,
    r R.VT_IN_LEN, vtBuf s loc b ini, sub, argument⟩

/-! ### Checks (R482 to R490, R498, R503 to R505) -/

/-- Ranges of slot, root and length arguments (R504): BAD_ARG outside them. -/
def keyRange (s : State) (a : KeyArgs) (op : Nat) : Bool :=
  match op with
  | 0x11 => a.len == 192 || (a.len == 0 && (vaultOf s a.hub).unsealAuth.isNone)
  | 0x15 | 0x16 => decide (1 ≤ a.argument ∧ a.argument ≤ 3)
  | 0x17 => decide (a.sub ≤ 1)
  | 0x20 => decide (1 ≤ a.len ∧ a.len ≤ 64 ∧ a.attr ≤ 5)
  | 0x21 => decide (a.len = 40 ∧ a.attr ≤ 5)
  | 0x22 => decide (a.attr ≤ 5)
  | 0x24 => !(bit a.sub 0 && a.sel == a.target)
  | 0x28 => decide (13 ≤ a.len ∧ a.len ≤ 476)
  | 0x29 => decide (29 ≤ a.len ∧ a.len ≤ 492)
  | 0x2A => decide (1 ≤ a.len ∧ a.len ≤ 512)
  | 0x2B => decide (17 ≤ a.len ∧ a.len ≤ 544)
  | 0x30 => a.len == 64
  | _ => true

/-- A slot is LOADED with an attribute (R485). -/
def slotIs (s : State) (a : KeyArgs) (attr : Nat) : Bool := slotLoaded s a.hub a.sel && slotAttr s a.hub a.sel == attr

/-- DEPTH of a slot. -/
def slotDepth (s : State) (hub slot : Nat) : Nat := fld (rd s hub R.KS_STATE slot) 8 5

/-- Lengths that depend on the key's algorithm (R504): GMAC takes a 12-byte IV first. -/
def macRange (s : State) (a : KeyArgs) (tag : Bool) : Bool :=
  if slotAlg s a.hub a.sel = 0 then decide (13 + b2n tag * 16 ≤ a.len ∧ a.len ≤ 512 + b2n tag * 16)
  else decide (1 + b2n tag * 32 ≤ a.len ∧ a.len ≤ 500 + b2n tag * 32)

/-- What an OPEN vault's slots say of a command (R485, R487, R489, R504): BAD_ARG where false. -/
def keyContent (s : State) (a : KeyArgs) (op : Nat) : Bool :=
  match op with
  | 0x20 => match a.root with
    | some n => (rootOf s a.hub n).isSome
    | none => slotIs s a 3 && decide (slotDepth s a.hub a.sel < 8)
  | 0x21 => slotIs s a 2
  | 0x24 => !(bit a.sub 0 && (slotNext s a.hub a.sel).isSome)
  | 0x28 => slotIs s a 0
  | 0x29 => slotIs s a 1
  | 0x2A => slotIs s a 4 && macRange s a false
  | 0x2B => slotIs s a 5 && macRange s a true
  | _ => true

/-- Commands that load a slot. -/
def loadsSlot (op : Nat) : Bool := decide (0x20 ≤ op ∧ op ≤ 0x22)

/-- The command is one that R505 answers with TAMPER in SEALED and ALARM. -/
def keyUse (op : Nat) : Bool := decide (0x15 ≤ op ∧ op ≤ 0x2B)

/-- The opcode is legal in the vault's state (R505, R481, R482, R490). -/
def keyLegal (s : State) (a : KeyArgs) (op : Nat) : Bool :=
  let st := vaultState s a.hub
  op == 0x30 || op == 0x31 ||
  (if st = 0 then ((op == 0x10 && !(trngFail s a.hub)) || op == 0x11 || keyUse op)
   else if st = 3 then keyUse op
   else if st = 2 then op == 0x12 || op == 0x14
   else
     op != 0x10 && op != 0x11 && !(loadsSlot op && slotLoaded s a.hub a.target) &&
     !((op == 0x22 || op == 0x15) && trngFail s a.hub) &&
     !((op == 0x15 || op == 0x16) && (rootOf s a.hub a.argument).isSome) &&
     !(op == 0x17 && (if a.sub = 0 then (vaultOf s a.hub).unsealAuth else (vaultOf s a.hub).debugAuth).isSome))

/-- A slot is the guest's. -/
def ownsSlot (s : State) (a : KeyArgs) (v slot : Nat) : Bool := slotOwner s a.hub slot == some v

/-- The slots a command names all belong to a VI (R504). -/
def guestOwns (s : State) (a : KeyArgs) (op v : Nat) : Bool :=
  match op with
  | 0x20 => a.root.isNone && ownsSlot s a v a.sel && ownsSlot s a v a.target
  | 0x21 => ownsSlot s a v a.sel && ownsSlot s a v a.target
  | 0x22 | 0x23 => ownsSlot s a v a.target
  | 0x24 => !(bit a.sub 3) && ownsSlot s a v a.target && (!(bit a.sub 0) || ownsSlot s a v a.sel)
  | 0x28 | 0x29 | 0x2A | 0x2B => ownsSlot s a v a.sel
  | 0x30 | 0x31 => true
  | _ => false

/-- Authority of R504, and the limit of failed unseals (R498). -/
def keyAuth (s : State) (a : KeyArgs) (op : Nat) (w : Who) (view : Bool) : Bool :=
  (op != 0x11 || decide (rd s a.hub R.UNSEAL_FAIL 0 < 8)) &&
  (op == 0x30 || op == 0x31 || fromMech w ||
   (match w.vi with
    | none => hostHart w && decide (op = 0x13 ∨ op = 0x14 ∨ (0x20 ≤ op ∧ op ≤ 0x2B))
    | some v => view && guestOwns s a op v))

/-- The 512 slots of the vault take a load (R484). -/
def slotsRoom (s : State) (a : KeyArgs) (op : Nat) : Bool := !(loadsSlot op) || decide (loadedSlots s a.hub < 512)

/-- The owner's share takes a load (R333, R486). -/
def ownerRoom (s : State) (a : KeyArgs) (op : Nat) : Bool :=
  match loadsSlot op, slotOwner s a.hub a.target with
  | true, some v => decide (keysUsed s v < rd s (viHome s v) R.SHF_KEYS v)
  | _, _ => true

/-- A derivation from a blocked root (R483). -/
def blockedRoot (s : State) (a : KeyArgs) (op : Nat) : Bool := op == 0x20 && a.root.isSome && rootsBlocked s a.hub

/-- The vault's state answers TAMPER (R505). -/
def sealedUse (s : State) (a : KeyArgs) (op : Nat) : Bool := keyUse op && (vaultState s a.hub == 0 || vaultState s a.hub == 3)

/-- The command's initiator belongs to the management plane (R503). -/
def mgmtPlane (w : Who) : Bool := decide (classOf w.ini ≠ .c)

/-- A refusal that the owner's share caused is counted (R333). -/
def ownerRefuse (s : State) (a : KeyArgs) : State :=
  match slotOwner s a.hub a.target with
  | some v => shareRefuse s v
  | none => s

/-- What a vault command does at its grant (R503, R505): it waits for the engine, or is answered with TAMPER. -/
def keyGrant (x : Ctx) (op : Nat) (t : State) : Effect :=
  let a := keyArgs t x.loc x.blk x.who.ini x.sub x.argument
  if sealedUse t a op then ⟨incr t a.hub R.VT_TAMPER_REFUSE 0 1, .tamper, 0⟩
  else if blockedRoot t a op then ⟨t, .tamper, 0⟩
  else if vaultState t a.hub = 1 && !(slotsRoom t a op) then ⟨t, .noResource, 0⟩
  else if vaultState t a.hub = 1 && !(ownerRoom t a op) then
    ⟨ownerRefuse t a, .noResource, 0⟩
  else
    let v := vaultOf t a.hub
    let job : VaultJob := ⟨x.loc, decide (x.blk = .keyView), ticketOf x, mgmtPlane x.who, x.who.vi, t.now⟩
    .accepted (wrV (putVault t a.hub { v with jobs := v.jobs ++ [job] }) x.loc x.blk x.who.ini R.VT_OUT_LEN 0)

/-- The checks of a vault command at its grant (R503, R504); `view` says that it comes through KEY_VIEW. -/
def checksKey (view : Bool) (op : Nat) (t : State) (x : Ctx) : Checks :=
  let a := keyArgs t x.loc x.blk x.who.ini x.sub x.argument
  let open_ := vaultState t a.hub == 1
  { argOk := keyRange t a op && (!open_ || keyContent t a op)
    auth := keyAuth t a op x.who view
    idle := !((vaultOf t a.hub).jobs.any (fun j => j.mgmt == mgmtPlane x.who))
    legal := keyLegal t a op
    room := true }

/-- A vault command (R503, R504). -/
def keyCommand (c : Cmd) (op : Nat) (s : State) : Out :=
  command s c (viewOr c .keyView .keyVault) op (checksKey c.view.isSome op) (fun x t => keyGrant x op t)

/-! ### What a command does when the engine runs it (R503) -/

/-- What a command that runs to its end brings: the state, its code, its NOTE and its output. -/
structure KeyEnd where
  state : State
  code : Code
  note : Nat
  out : List Byte

/-- Cut or pad to n bytes. -/
def fitBytes (n : Nat) (l : List Byte) : List Byte := (l ++ List.replicate n 0).take n

/-- A key is loaded into the target slot (R487 to R489). -/
def loadKey (s : State) (a : KeyArgs) (key : List Byte) (depth origin parent : Nat) : State :=
  let s1 := wrAll s a.hub a.target [(R.KS_STATE, rd s a.hub R.KS_STATE a.target / 65536 * 65536 + 1 + a.attr * 2 + a.kalg * 16 + depth * 32 + origin * 512),
    (R.KS_KEY_ID, a.keyId), (R.KS_NOT_BEFORE, a.notBefore), (R.KS_NOT_AFTER, a.notAfter), (R.KS_NEXT, 0), (R.KS_PARENT, parent), (R.KS_USES, 0)]
  countSlots { s1 with keys := mput (a.hub * 1024 + a.target) (fitBytes 32 key) s1.keys } a.hub

/-- The derivation of R487: SP 800-108 in counter mode. -/
def deriveKey (parent label : List Byte) (keyId : Nat) : List Byte :=
  let k := fun (i : Nat) => fitBytes 16 (Config.cmac parent (bytesBE 4 i ++ label ++ [0] ++ bytesBE 4 keyId ++ bytesBE 4 0x100))
  k 1 ++ k 2

/-- The digest that an authority signs (R498): purpose 1 unseal, 2 debug. -/
def authDigest (s : State) (hub purpose : Nat) (challenge : List Byte) : List Byte :=
  let serial := (List.range 4).flatMap (fun k => bytesLE 4 (rd s hub (R.VT_SERIAL.nth k) 0))
  Config.sha384 (challenge ++ serial ++ [BitVec.ofNat 8 purpose, BitVec.ofNat 8 hub])

/-- A signed response passes (R498): the key's hash, then the signature over a challenge that has not expired. -/
def authPasses (s : State) (hub purpose : Nat) (auth : Option (List Byte)) (ch : Option Challenge) (resp : List Byte) : Bool :=
  match auth, ch with
  | some h, some c =>
    decide (Config.sha384 (resp.take 96) = h) && decide (s.now < c.expires) &&
    Config.ecdsaVerify (resp.take 96) (authDigest s hub purpose c.bytes) ((resp.drop 96).take 96)
  | _, _ => false

/-- An unseal is accepted (R483, R498). -/
def unsealed (s : State) (hub : Nat) : State :=
  let t := rd s hub R.VT_TAMPER 0
  enterVault (wr s hub R.VT_TAMPER 0 (setFld t 22 16 (fld t 14 8))) hub 1

/-- UNSEAL's response is checked (R498): whether it was accepted. -/
def tryUnseal (s : State) (hub : Nat) (len : Nat) (buf : List Byte) : State × Bool :=
  let v := vaultOf s hub
  let s1 := putVault s hub { v with challenge := none }
  if (v.unsealAuth.isNone && len == 0) || authPasses s hub 1 v.unsealAuth v.challenge (buf.take 192) then (unsealed s1 hub, true)
  else (hwEvent (wr s1 hub R.UNSEAL_FAIL 0 (min 15 (rd s1 hub R.UNSEAL_FAIL 0 + 1))) hub .keyVault 3, false)

/-- A fresh challenge (R498), with the elapsed time of the grant. -/
def newChallenge (s : State) (hub at_ : Nat) : State × List Byte :=
  let r := entropy s 32
  (putVault r.1 hub { vaultOf r.1 hub with challenge := some ⟨r.2, at_ + 10000000000⟩ }, r.2)

/-- The first 256 bytes of an attestation statement (R501). -/
def statement (s : State) (hub ini : Nat) (vi : Option Nat) (buf : List Byte) : List Byte :=
  let t := rd s hub R.VT_TAMPER 0
  let dies := ((diesOf s).map (fun d => 2 ^ d)).sum
  let variant := match s.variant with | .kz8 => 8 | .kz4 => 4 | .kz2 => 2
  let st := vtStatus s hub
  let meas := (List.range 36).flatMap (fun k => bytesLE 4 (rd s hub (R.VT_MEAS0_2.nth k) 0))
  [0x4B, 0x5A, 0x41, 0x54] ++ bytesLE 1 1 ++ bytesLE 1 variant ++ bytesLE 1 dies ++ bytesLE 1 hub ++
    (List.range 4).flatMap (fun k => bytesLE 4 (rd s hub (R.VT_SERIAL.nth k) 0)) ++ bytesLE 2 0x00B0 ++ bytesLE 1 (vaultState s hub) ++
    bytesLE 1 (ini % 128 + b2n vi.isSome * 128) ++ bytesLE 1 (vi.getD 0) ++
    bytesLE 1 (fld st 5 2 + b2n (bit st 6) * 16 + b2n (bit st 8) * 32 + b2n (bit st 9) * 64 + b2n (bit st 7) * 128) ++
    bytesLE 1 (fld t 14 8) ++ bytesLE 1 (fld t 22 16) ++ bytesLE 4 (rd s hub R.MC_ROLLBACK 0 % 256) ++ bytesLE 4 (t % 128) ++
    bytesLE 8 (ctsNow s hub) ++ buf.take 32 ++ meas ++ (buf.drop 32).take 32

/-- A signed statement of 352 bytes (R501). -/
def attestation (s : State) (hub ini : Nat) (vi : Option Nat) (buf : List Byte) : List Byte :=
  let m := statement s hub ini vi buf
  m ++ fitBytes 96 (Config.identitySign hub (Config.sha384 m))

/-- KEY_SET on the target (R504). -/
def keySet (s : State) (a : KeyArgs) : State :=
  let s1 := if bit a.sub 0 then wr s a.hub R.KS_NEXT a.target (a.sel + 2 ^ 15) else s
  let s2 := if bit a.sub 1 then wr s1 a.hub R.KS_NEXT a.target 0 else s1
  let s3 := if bit a.sub 2 then wr s2 a.hub R.KS_NOT_AFTER a.target a.notAfter else s2
  if bit a.sub 3 then wr s3 a.hub R.KS_STATE a.target (rd s3 a.hub R.KS_STATE a.target % 65536 + a.argument % 512 * 65536) else s3

/-- Clear NEXT wherever it names a slot (R504). -/
def dropNext (s : State) (hub slot : Nat) : State :=
  (List.range 1024).foldl (fun t k => if slotNext t hub k == some slot then wr t hub R.KS_NEXT k 0 else t) s

/-- What the engine does for a command (R482 to R489, R498, R501, R504). -/
def keyRun (s : State) (a : KeyArgs) (op ini : Nat) (vi : Option Nat) (at_ : Nat) : KeyEnd :=
  let hub := a.hub
  let input := a.buf.take a.len
  let v := vaultOf s hub
  let ok := fun (t : State) => KeyEnd.mk t .done 0 []
  let key := keyOf s hub a.sel
  match op with
  | 0x10 => let r := newChallenge s hub at_; ⟨r.1, .done, 0, r.2⟩
  | 0x11 => let r := tryUnseal s hub a.len a.buf; if r.2 then ok r.1 else ⟨r.1, .denied, 0, []⟩
  | 0x12 => ok (enterVault (zeroise s hub) hub 0)
  | 0x13 => ok (enterVault s hub 2)
  | 0x14 => ok (enterVault s hub 1)
  | 0x15 => let r := entropy s 32; ok { r.1 with roots := mput (hub * 4 + a.argument) r.2 r.1.roots }
  | 0x16 => ok { s with roots := mput (hub * 4 + a.argument) (a.buf.take 32) s.roots }
  | 0x17 => ok (putVault s hub (if a.sub = 0 then { v with unsealAuth := some (a.buf.take 48) } else { v with debugAuth := some (a.buf.take 48) }))
  | 0x20 => match a.root with
    | some n => ok (loadKey s a (deriveKey ((rootOf s hub n).getD []) input a.keyId) 1 0 (n * 2048 + 2 ^ 15))
    | none => ok (loadKey (useKey s hub a.sel) a (deriveKey key input a.keyId) (slotDepth s hub a.sel + 1) 0 a.sel)
  | 0x21 => match Config.kwUnwrap key input with
    | some k => ok (loadKey (useKey s hub a.sel) a k 0 1 a.sel)
    | none => ⟨useKey s hub a.sel, .badArg, 0, []⟩
  | 0x22 => let r := entropy s 32; ok (loadKey r.1 a r.2 0 2 0)
  | 0x23 => ok (countSlots (dropNext (emptySlot hub s a.target) hub a.target) hub)
  | 0x24 => ok (keySet s a)
  | 0x28 =>
    let iv := input.take 12
    let ct := fitBytes (a.len - 12) (Config.gcmSeal key iv (input.drop 12))
    ⟨useKey s hub a.sel, .done, 0, ct ++ fitBytes 16 (Config.gcmTag key iv ct)⟩
  | 0x29 =>
    let iv := input.take 12
    let ct := (input.drop 12).take (a.len - 28)
    if fitBytes 16 (Config.gcmTag key iv ct) = input.drop (a.len - 16) then
      ⟨useKey s hub a.sel, .done, 0, fitBytes (a.len - 28) (Config.gcmOpen key iv ct)⟩
    else ⟨useKey s hub a.sel, .badArg, 0, []⟩
  | 0x2A =>
    let out := if slotAlg s hub a.sel = 0 then fitBytes 16 (Config.gmac key (input.take 12) (input.drop 12)) else fitBytes 32 (Config.hmac key input)
    ⟨useKey s hub a.sel, .done, 0, out⟩
  | 0x2B =>
    let good := if slotAlg s hub a.sel = 0 then
        fitBytes 16 (Config.gmac key (input.take 12) ((input.drop 12).take (a.len - 28))) == input.drop (a.len - 16)
      else fitBytes 32 (Config.hmac key (input.take (a.len - 32))) == input.drop (a.len - 32)
    ⟨useKey s hub a.sel, .done, b2n good, []⟩
  | 0x30 => ⟨s, .done, 0, attestation s hub ini vi a.buf⟩
  | _ => ok s

/-- What has become wrong with a command since its grant, by what ran before it (R503). -/
def keyLapsed (s : State) (a : KeyArgs) (op : Nat) : Option Code :=
  if sealedUse s a op || blockedRoot s a op then some .tamper
  else if vaultState s a.hub = 1 && !(keyContent s a op) then some .badArg
  else if !(keyLegal s a op) then some .illegalState
  else if !(slotsRoom s a op) || !(ownerRoom s a op) then some .noResource
  else none

/-- The bytes of VT_BUF that are a command's input, and are zeroised after use (R490): of ROOT_LOAD the whole buffer (R482). -/
def inputLen (a : KeyArgs) (op : Nat) : Nat :=
  match op with
  | 0x16 => 768
  | 0x17 => 48
  | 0x11 | 0x20 | 0x21 | 0x28 | 0x29 | 0x2A | 0x2B | 0x30 => a.len
  | _ => 0

/-- VAULT_COMMAND_END, R503: the oldest command of a hub's engine runs to its end; its input is zeroised, then its output
written in one step (R490, R497). -/
def execVaultCommandEnd (hub : Nat) (s : State) : Out :=
  let v := vaultOf s hub
  match v.jobs with
  | [] => .next s
  | j :: rest =>
    if !(domRun s hub 3) then .next s
    else
      let blk : Block := if j.view then .keyView else .keyVault
      let t := j.ticket
      let a := { keyArgs s j.loc blk t.ini t.sub t.argument with hub := hub }
      let s1 := putVault s hub { v with jobs := rest }
      let e : KeyEnd := match keyLapsed s1 a t.op with
        | some code => KeyEnd.mk (if slotsRoom s1 a t.op && code == .noResource then ownerRefuse s1 a else s1) code 0 []
        | none => keyRun s1 a t.op t.ini j.vi j.at_
      let s2 := putBuf e.state j.loc blk t.ini (List.replicate (inputLen a t.op) 0)
      let s3 := wrV (putBuf s2 j.loc blk t.ini e.out) j.loc blk t.ini R.VT_OUT_LEN e.out.length
      let s4 := if e.code = .done then incr s3 hub R.VT_CMDS 0 1 else s3
      .next (finish s4 j.loc blk t e.code e.note)

/-! ### The rows of R504 -/

/-- UNSEAL_CHAL, R498. -/
def execUnsealChal (c : Cmd) (s : State) : Out := keyCommand c 0x10 s

/-- UNSEAL, R498. -/
def execUnseal (c : Cmd) (s : State) : Out := keyCommand c 0x11 s

/-- SEAL, R504. -/
def execSeal (c : Cmd) (s : State) : Out := keyCommand c 0x12 s

/-- DORMANT, R504. -/
def execDormant (c : Cmd) (s : State) : Out := keyCommand c 0x13 s

/-- WAKE, R504. -/
def execWake (c : Cmd) (s : State) : Out := keyCommand c 0x14 s

/-- ROOT_GEN, R482. -/
def execRootGen (c : Cmd) (s : State) : Out := keyCommand c 0x15 s

/-- ROOT_LOAD, R482. -/
def execRootLoad (c : Cmd) (s : State) : Out := keyCommand c 0x16 s

/-- AUTH_LOAD of KEY_VAULT, R498. -/
def execVaultAuthLoad (c : Cmd) (s : State) : Out := keyCommand c 0x17 s

/-- KEY_DERIVE, R487. -/
def execKeyDerive (c : Cmd) (s : State) : Out := keyCommand c 0x20 s

/-- KEY_UNWRAP, R489. -/
def execKeyUnwrap (c : Cmd) (s : State) : Out := keyCommand c 0x21 s

/-- KEY_GEN, R488. -/
def execKeyGen (c : Cmd) (s : State) : Out := keyCommand c 0x22 s

/-- KEY_CLEAR, R504. -/
def execKeyClear (c : Cmd) (s : State) : Out := keyCommand c 0x23 s

/-- KEY_SET, R504. -/
def execKeySet (c : Cmd) (s : State) : Out := keyCommand c 0x24 s

/-- ENCRYPT, R504. -/
def execEncrypt (c : Cmd) (s : State) : Out := keyCommand c 0x28 s

/-- DECRYPT, R504. -/
def execDecrypt (c : Cmd) (s : State) : Out := keyCommand c 0x29 s

/-- MAC_GEN, R504. -/
def execMacGen (c : Cmd) (s : State) : Out := keyCommand c 0x2A s

/-- MAC_VER, R504. -/
def execMacVer (c : Cmd) (s : State) : Out := keyCommand c 0x2B s

/-- ATTEST, R501. -/
def execAttest (c : Cmd) (s : State) : Out := keyCommand c 0x30 s

/-- The checks of VaultClearCounters. -/
def checksVaultClearCounters (_ : State) (_ : Ctx) : Checks :=
  .pass

/-- The effect of VaultClearCounters. -/
def effectVaultClearCounters (c : Cmd) (x : Ctx) (t : State) : Effect :=
  .done (if c.view.isSome then t else clearRegs t x.loc 0 [R.VT_CMDS, R.VT_TAMPER_REFUSE])

/-- CLEAR_COUNTERS of KEY_VAULT, R504; in the view it changes nothing (R508). -/
def execVaultClearCounters (c : Cmd) (s : State) : Out :=
  command s c (viewOr c .keyView .keyVault) 0x31 checksVaultClearCounters (effectVaultClearCounters c)

/-! ### Events of a vault -/

/-- UNSEAL_CHALLENGE_EXPIRY, R498. -/
def execUnsealChallengeExpiry (hub : Nat) (s : State) : Out :=
  let v := vaultOf s hub
  match v.challenge with
  | some c => .next (if c.expires ≤ s.now then putVault s hub { v with challenge := none } else s)
  | none => .next s

/-- A slot's successor moves into it (R493). -/
def promote (s : State) (hub slot n : Nat) : State :=
  let s1 := wrAll s hub slot [(R.KS_STATE, rd s hub R.KS_STATE n), (R.KS_KEY_ID, rd s hub R.KS_KEY_ID n), (R.KS_NOT_BEFORE, rd s hub R.KS_NOT_BEFORE n),
    (R.KS_NOT_AFTER, rd s hub R.KS_NOT_AFTER n), (R.KS_NEXT, 0), (R.KS_PARENT, rd s hub R.KS_PARENT n), (R.KS_USES, rd s hub R.KS_USES n)]
  let s2 := { s1 with keys := mput (hub * 1024 + slot) (keyOf s hub n) s1.keys }
  let s3 := emptySlot hub s2 n
  let st := stampOf s3 hub 296 0
  eventRec (tickSrc (countSlots s3 hub) hub 296) hub hub .keyVault st (pagePlane .keyVault) 2 slot [slot, n]

/-- KEY_PROMOTION, R493. -/
def execKeyPromotion (hub slot : Nat) (s : State) : Out :=
  match slotNext s hub slot with
  | none => .next s
  | some n =>
    let na := rd s hub R.KS_NOT_AFTER slot
    if domRun s hub 3 && pipelineOpen s hub && slotLoaded s hub slot && decide (na ≠ 0) && (ctr s hub).valid &&
        decide (ctsNs (ctr s hub).sec na + faGrace s hub < taiNs s hub) then
      .next (promote s hub slot n)
    else .next s

/-- TRNG_HEALTH_FAIL, R481. -/
def execTrngHealthFail (hub : Nat) (s : State) : Out :=
  if domRun s hub 3 then .next (hwEvent (wr s hub R.VT_STATUS 0 (setBit (rd s hub R.VT_STATUS 0) 7 true)) hub .keyVault 4) else .next s

/-- A vault's commands other than ATTEST end with TAMPER at an alarm (R497). -/
def tamperJobs (s : State) (hub : Nat) : State :=
  let v := vaultOf s hub
  let gone := v.jobs.filter (fun j => j.ticket.op != 0x30)
  gone.foldl (fun t j => finish t j.loc (if j.view then .keyView else .keyVault) j.ticket .tamper 0)
    (putVault s hub { v with jobs := v.jobs.filter (fun j => j.ticket.op == 0x30) })

/-- A sensor alarms a vault (R483, R497). -/
def alarmVault (sensor : Nat) (s : State) (hub : Nat) : State :=
  let t := rd s hub R.VT_TAMPER 0
  let v := vaultOf s hub
  let s1 := wr s hub R.VT_TAMPER 0 (setBit t sensor true)
  if v.alarmed then s1
  else
    let st := stampOf s1 hub 296 0
    let s2 := wrAll s1 hub 0 [(R.VT_TAMPER, setFld (setBit t sensor true) 14 8 (min 64 (fld t 14 8 + 1))), (R.VT_TAMPER_CTS, st.cts)]
    let s3 := tamperJobs (putVault s2 hub { v with alarmed := true, zeroising := true }) hub
    let s4 := eventRec (tickSrc s3 hub 296) hub hub .keyVault st (pagePlane .keyVault) 1 0 [sensor]
    let s5 := fireTrigger (pushLog s4 hub 4 3 [sensor]) hub 7 st.cts
    if domRun s5 hub 3 then enterVault s5 hub 3 else s5

/-- A sensor of a die can raise an alarm (R496). -/
def sensorActs (s : State) (die sensor : Nat) : Bool :=
  domRun s die 0 && (if sensor = 0 then !(bit ((rstOf s die).holds[1]?.getD 0) 1)
    else if sensor = 5 then isHub die else if sensor = 6 then isHub die && bit (optByte s die 5) 2 else decide (sensor < 5))

/-- TAMPER_ALARM, R496, R497: a hub's sensors alarm its own vault, a compute die's both. -/
def execTamperAlarm (die sensor : Nat) (s : State) : Out :=
  if sensorActs s die sensor then
    let hs := if isHub die then [die] else (hubs s).filter (fun h => domRun s h 0)
    .next (hs.foldl (alarmVault sensor) s)
  else .next s

/-- CACHE_ZEROISE_DONE, R497. -/
def execCacheZeroiseDone (hub : Nat) (s : State) : Out :=
  let v := vaultOf s hub
  if v.zeroising then .next (putVault (zeroise s hub) hub { v with zeroising := false }) else .next s

/-- The hub whose vault checks a debug response (R499): hub A, or hub B while hub A is absent or lost. -/
def debugHub (s : State) : Nat := if !(domRun s 0 3) && domRun s 1 3 then 1 else 0

/-- DEBUG_CHALLENGE_READ, R499. -/
def execDebugChallengeRead (s : State) : Out :=
  let hub := debugHub s
  if domRun s hub 3 && !(trngFail s hub) then
    let r := entropy s 32
    .next (respond (putVault r.1 hub { vaultOf r.1 hub with debugChallenge := some ⟨r.2, s.now + 10000000000⟩ }) (ofBytesLE r.2))
  else .next s

/-- DEBUG_UNLOCK_RESPONSE, R499: the public key and the signature of a response. -/
def execDebugUnlockResponse (response : List Byte) (s : State) : Out :=
  let hub := debugHub s
  let v := vaultOf s hub
  if domRun s hub 3 && decide (v.debugFails < 8) then
    if authPasses s hub 2 v.debugAuth v.debugChallenge response then
      .next (putVault s hub { v with debugChallenge := none, debugOpen := true })
    else .next (putVault s hub { v with debugChallenge := none, debugFails := v.debugFails + 1 })
  else .next s

end Sys2Proof.Machine
end

