-- ==== Sys2Proof/Machine/Vi.lean ====
section
/-!
DEFINITION. Sys2Proof/Machine/Vi.lean: virtual instances, their shares and their migration (R324 to R344), the hart
clusters, the interrupt files and the stores of harts (R307 to R309, R337, R345).
-/
namespace Sys2Proof.Machine

/-! ### States (R324, R328) -/

/-- Set a field of VI_STATE at the home die. -/
def viField (s : State) (v hi lo x : Nat) : State :=
  let d := viHome s v
  wr s d R.VI_STATE v (setFld (rd s d R.VI_STATE v) hi lo x)

/-- Enter a state with STATE_CHANGE (R328). -/
def enterVi (s : State) (v st : Nat) : State := viEvent (viField s v 2 0 st) v 0

/-- The VI is MIGRATING in or out. -/
def viInward (s : State) (v : Nat) : Bool := bit (rd s (viHome s v) R.VI_STATE v) 3

/-- The command's page lies on the VI's home die (R325). -/
def viHere (s : State) (x : Ctx) : Bool := viState s x.inst != 0 && viHome s x.inst == x.loc

/-- A hart with V = 0, or a Mechanic (R327). -/
def viAuth (x : Ctx) : Bool := hostHart x.who || fromMech x.who

/-- Checks of a VI_CTRL command on a VI that is not ABSENT. -/
def viChecks (t : State) (x : Ctx) (states : List Nat) : Checks :=
  { Checks.pass with auth := viAuth x, idle := pageIdle t x, legal := viHere t x && states.contains (viState t x.inst) }

/-- The nanoseconds of CUT_AT. -/
def cutNs (s : State) (v : Nat) : Nat :=
  let d := viHome s v
  ctsNs (ctr s d).sec (rd s d R.VI_CUT_AT v)

/-- CUT_AT has passed at the home die. -/
def cutPassed (s : State) (v : Nat) : Bool := ctsDue s (viHome s v) (rd s (viHome s v) R.VI_CUT_AT v)

/-! ### Shares (R333 to R336) -/

/-- The staged shares and the shares in force, in the order of R336. -/
def stagedShares : List Reg := [R.SH_QUOTA, R.SH_SLOTS, R.SH_EG_RATE, R.SH_EG_BURST, R.SH_CAPTURE, R.SH_KEYS, R.SH_TRIG, R.SH_CNT]
def forceShares : List Reg := [R.SHF_QUOTA, R.SHF_SLOTS, R.SHF_EG_RATE, R.SHF_EG_BURST, R.SHF_CAPTURE, R.SHF_KEYS, R.SHF_TRIG, R.SHF_CNT]

/-- A VI's shares in force, at its home die. -/
def sharesOf (s : State) (v : Nat) : List Nat := forceShares.map (fun r => rd s (viHome s v) r v)

/-- Set a VI's shares in force on every die (R334). -/
def putShares (s : State) (v : Nat) (xs : List Nat) : State :=
  (computeDies s).foldl (fun t d => (forceShares.zip xs).foldl (fun u e => wr u d e.1 v e.2) t) s

/-- A VI's triggers of one hub follow its mask (R115, R333). -/
def putTriggers (s : State) (v hub mask : Nat) : State :=
  (List.range 16).foldl (fun t n =>
    let o := rd t hub R.TRG_OWNER n
    if bit mask n then wr t hub R.TRG_OWNER n (256 + v)
    else if o % 512 = 256 + v then wr t hub R.TRG_OWNER n 0 else t) s

/-- The token buckets at a new burst (R335): filled at the first SHARE_APPLY, else clipped. -/
def putBuckets (s : State) (v burst : Nat) (first : Bool) : State :=
  (hubs s).foldl (fun t h =>
    let w := swOf t h
    let n := if first then burst * 65536 else min (mget 0 w.tokens v) (burst * 65536)
    let from_ := if first then mput v (s.now / 1000) w.tokenAt else w.tokenAt
    setSw t h { w with tokens := mput v n w.tokens, tokenAt := from_ }) s

/-- New shares come into force (R334, R335). -/
def applyShares (s : State) (v : Nat) (xs : List Nat) : State :=
  let s1 := putShares s v xs
  let trig := xs[6]?.getD 0
  let s2 := (hubs s1).foldl (fun t h => putTriggers t v h (trig / 2 ^ (16 * h) % 65536)) s1
  let s3 := putBuckets s2 v (xs[3]?.getD 0) (!(viOf s2 v).applied)
  setVi s3 v { viOf s3 v with applied := true }

/-- Ranges of the shares, and triggers that another VI holds (R333, R334). -/
def sharesOk (s : State) (v : Nat) (xs : List Nat) : Bool :=
  let limits := [2097151, 8192, 25000000, 1048575, 128, 1024, 2 ^ 32 - 1, 8]
  (xs.zip limits).all (fun e => decide (e.1 ≤ e.2)) &&
  (List.range 256).all (fun o => o == v || rd s (viHome s o) R.SHF_TRIG o &&& (xs[6]?.getD 0) == 0)

/-- The checks of SHARE_APPLY. -/
def checksShareApply (t : State) (x : Ctx) : Checks :=
  { swChecks (sharesOk t x.inst (stagedShares.map (fun r => rd t x.loc r x.inst))) t x with legal := viHere t x }

/-- The effect of SHARE_APPLY. -/
def effectShareApply (x : Ctx) (t : State) : Effect :=
  .accepted (setVi t x.inst { viOf t x.inst with shares := stagedShares.map (fun r => rd t x.loc r x.inst) })

/-- SHARE_APPLY, R334, R336. -/
def execShareApply (c : Cmd) (s : State) : Out :=
  command s c .derailleur 0x10 checksShareApply effectShareApply

/-- SHARE_APPLY_DONE, R334: every die holds the new shares. -/
def execShareApplyDone (die : Nat) (s : State) : Out :=
  match runningOp s die .derailleur 0x10 with
  | none => .next s
  | some t =>
    if domRun s die 10 then .next (finish (applyShares s t.inst (viOf s t.inst).shares) die .derailleur t .done 0) else .next s

/-- The checks of ShareClearCounters. -/
def checksShareClearCounters (t : State) (x : Ctx) : Checks :=
  swChecks (decide (x.argument < 256 ∨ x.argument = 0xFFFF)) t x

/-- The effect of ShareClearCounters. -/
def effectShareClearCounters (x : Ctx) (t : State) : Effect :=
  let rs := [R.SHARE_REFUSE, R.EG_OVERSIZE, R.EG_RESET_DROP]
  .done (if x.argument = 0xFFFF then clearInsts t x.loc 0 256 rs else clearRegs t x.loc x.argument rs)

/-- CLEAR_COUNTERS of DERAILLEUR, R336. -/
def execShareClearCounters (c : Cmd) (s : State) : Out :=
  command s c .derailleur 0x11 checksShareClearCounters effectShareClearCounters

/-! ### Quiesce (R329 to R331) -/

/-- The parts that count as reported from the start: the hub of a KZ2 that is absent (R331). -/
def absentParts (s : State) : Nat := (if present s 0 then 0 else 2) + (if present s 1 then 0 else 4)

/-- Enter QUIESCING (R329, R419): parts start afresh unless a DRAIN turns into an ABORT. QTIMEOUT counts from an elapsed
time. -/
def startQuiesce (s : State) (v : Nat) (abort killed : Bool) (since : Nat) : State :=
  let d := viHome s v
  let st := viState s v
  let x := viOf s v
  let out := if st = 3 then x.out else st == 6 && !(viInward s v)
  let s0 := (hubs s).foldl (quiesceReads v) s
  let s1 := setVi s0 v { x with out := out, killed := killed, since := since, timedOut := false }
  let s2 := if st = 3 then s1 else wr s1 d R.VI_QPARTS v (absentParts s1)
  let s3 := viField (viField s2 v 4 4 (b2n abort)) v 3 3 0
  let s4 := if st = 3 then s3 else enterVi s3 v 3
  if abort then pelAbort s4 d v else dispatch s4 d

/-- The checks of QUIESCE. -/
def checksQuiesce (t : State) (x : Ctx) : Checks :=
  let abort := bit x.sub 0
  let drain := viState t x.inst == 3 && !(bit (rd t x.loc R.VI_STATE x.inst) 4)
  { viChecks t x [1, 2, 3, 6] with legal := viHere t x && ([1, 2, 6].contains (viState t x.inst) || (drain && abort)) }

/-- The effect of QUIESCE. -/
def effectQuiesce (x : Ctx) (t : State) : Effect :=
  .done (startQuiesce t x.inst (bit x.sub 0) false t.now)

/-- QUIESCE, R327, R329. -/
def execQuiesce (c : Cmd) (s : State) : Out :=
  command s c .viCtrl 0x12 checksQuiesce effectQuiesce

/-- The checks of KILL. -/
def checksKill (t : State) (x : Ctx) : Checks :=
  { viChecks t x [1, 2, 3, 6] with auth := viAuth x && x.argument == rd t x.loc R.VI_KILL_KEY 0 }

/-- The effect of KILL. -/
def effectKill (x : Ctx) (t : State) : Effect :=
  let t1 := startQuiesce t x.inst true true t.now
  let y := xlOf t1 x.loc
  .done (setXl t1 x.loc { y with walks := y.walks.filter (fun w => w.vi != x.inst) })

/-- A write is cut (R331): what comes before its first page that is not translated has been written. A page's end is a 64-byte
boundary. -/
def cutJob (die : Nat) (s : State) (j : Job) : State :=
  let x := xlOf s die
  let bytes := j.writes.flatMap (fun w => w.2.zipIdx.map (fun b => (w.1 + b.2, b.1)))
  let done := bytes.takeWhile (fun b => serves s die j.vi (b.1 / 4096) true)
  let s1 := ((done.map (fun b => b.1 / 4096)).eraseDups).foldl (fun t p => logPage t j.vi p) s
  let s2 := done.foldl (fun t b => putGuest t x j.vi b.1 [b.2]) s1
  let s3 := if j.src.engine = 5 then onRead s2 j.src.die (fun r => { r with copied := r.copied + done.length }) else s2
  rewindHead s3 j

/-- The first job of each source: those behind it have written nothing. -/
def firstJobs (js : List Job) : List Job :=
  js.foldl (fun acc j => if acc.any (fun k => decide (k.src = j.src)) then acc else acc ++ [j]) []

/-- KILL, R327, R331: ABORT; the VI's walks are abandoned without a fault. -/
def execKill (c : Cmd) (s : State) : Out :=
  command s c .viCtrl 0x13 checksKill effectKill

/-- KILL_WRITE_CUT, R331: 40 µs after a KILL, writes still unfinished are cut. -/
def execKillWriteCut (vi : Nat) (s : State) : Out :=
  let x := viOf s vi
  if viState s vi == 3 && x.killed && decide (x.since + 40000 ≤ s.now) then
    let d := viHome s vi
    let y := xlOf s d
    let cut := y.jobs.filter (fun j => j.vi == vi)
    let s1 := (firstJobs cut).foldl (cutJob d) s
    let z := xlOf s1 d
    .next (incr (setXl s1 d { z with jobs := z.jobs.filter (fun j => j.vi != vi) }) d R.KILL_CUT vi cut.length)
  else .next s

/-- A part of VI_QPARTS has nothing left to do for a VI (R292, R293, R329, R331). -/
def partQuiet (s : State) (v part : Nat) : Bool :=
  let d := viHome s v
  let abort := bit (rd s d R.VI_STATE v) 4
  match part with
  | 0 => pelQuiet s d v abort
  | 1 => (jobsOf s v [0, 1, 5]).all (fun j => j.src.die != 0)
  | 2 => (jobsOf s v [0, 1, 5]).all (fun j => j.src.die != 1)
  | 3 => (jobsOf s v [4]).isEmpty && s.sendReqs.all (fun q => q.vi != v)
  | _ => (xlOf s d).walks.all (fun w => w.vi != v)

/-- QUIESCED is reached (R331). -/
def reachQuiesced (s : State) (v : Nat) : State :=
  let d := viHome s v
  let s1 := viEvent (enterVi (wr s d R.VI_QSTAMP v (ctsNow s d)) v 4) v 1
  if (viOf s1 v).killed then viEvent (viField s1 v 5 5 1) v 3 else s1

/-- VI_PART_QUIESCED, R331: a part reports once it has nothing left to do. -/
def execViPartQuiesced (vi part : Nat) (s : State) : Out :=
  if viState s vi == 3 && part < 5 && partQuiet s vi part then
    let d := viHome s vi
    let n := setBit (rd s d R.VI_QPARTS vi) part true
    let s1 := wr s d R.VI_QPARTS vi n
    let s2 := if part = 0 then recordsOff s1 d vi else s1
    .next (if n % 32 = 31 then reachQuiesced s2 vi else s2)
  else .next s

/-- QTIMEOUT_EXPIRY, R331. -/
def execQtimeoutExpiry (vi : Nat) (s : State) : Out :=
  let d := viHome s vi
  let x := viOf s vi
  if viState s vi == 3 && !x.timedOut && decide (x.since + rd s d R.VI_CFG vi % 2 ^ 20 * 1000 ≤ s.now) then
    let s1 := setVi s vi { x with timedOut := true }
    let st := pageStamp s1 d d .viCtrl 0
    let s2 := viEvent (tickPage s1 d .viCtrl) vi 2
    .next (record s2 d d .viCtrl st (pagePlane .viCtrl) 2 true vi [vi, rd s2 d R.VI_QPARTS vi])
  else .next s

/-! ### Reset and destroy (R332) -/

/-- Sends of a VI that wait at P13 are dropped (R332). -/
def dropWaiting (s : State) (v : Nat) : State :=
  (hubs s).foldl (fun t h =>
    let w := swOf t h
    let gone := (w.waiting.filter (fun x => x.vi == v)).length
    incr (setSw t h { w with waiting := w.waiting.filter (fun x => x.vi != v) }) (viHome t v) R.EG_RESET_DROP v gone) s

/-- The destinations and entries that name a VI (R332). -/
def destsOf (s : State) (v : Nat) : List Source :=
  s.streams.flatMap (fun e => (e.2.dests.zipIdx.filter (fun d => d.1.valid && d.1.vi == v)).map
    (fun d => Source.mk 0 (e.1 / 1024) (e.1 % 1024) d.2)) ++
  (s.dets.filter (fun e => e.2.dest.valid && e.2.dest.vi == v)).map (fun e => Source.mk 1 (e.1 / 1024) (e.1 % 1024) 0) ++
  (computeDies s).flatMap (fun d => ((xlOf s d).rx.filter (fun e => e.2.cfg % 256 == v)).map (fun e => Source.mk 4 d e.1 0))

/-- What VI_RESET and VI_DESTROY clear (R332, R295). -/
def clearVi (s : State) (v : Nat) : State :=
  let d := viHome s v
  let owned := (ownedFlows s d v).map (fun e => e.1)
  let s0 := owned.foldl (fun t f => flowEvent t d f 3) s
  let x := sliceOf s0 d
  let s1 := setSlice s0 d { x with
    flows := x.flows.filter (fun e => !(owned.contains e.1)), items := x.items.filter (fun e => !(owned.contains e.2.flow)) }
  let s2 := clearRegs s1 d v [R.VI_ADMITTED, R.VI_SHARE_REFUSE, R.VI_OTHER_REFUSE, R.VI_LATE_TAKE, R.VI_ABORTED]
  let y := xlOf s2 d
  let s3 := setXl s2 d { y with cache := y.cache.filter (fun e => e.vi != v) }
  let s4 := dropWaiting (setLog s3 v DirtyLog.off) v
  let z := viOf s4 v
  let s5 := setVi s4 v { z with held := (destsOf s4 v ++ z.held).eraseDups, killed := false, out := false, cutSeen := false, restored := 0 }
  dispatch (viField s5 v 6 3 0) d

/-- The checks of VI_RESET. -/
def checksViReset (t : State) (x : Ctx) : Checks :=
  viChecks t x [4]

/-- The effect of VI_RESET. -/
def effectViReset (x : Ctx) (t : State) : Effect :=
  .done (enterVi t x.inst 5)

/-- VI_RESET, R327, R332. -/
def execViReset (c : Cmd) (s : State) : Out :=
  command s c .viCtrl 0x14 checksViReset effectViReset

/-- VI_RESET_DONE, R324: a RESETTING VI is cleared and enters READY. -/
def execViResetDone (vi : Nat) (s : State) : Out :=
  if viState s vi == 5 && domRun s (viHome s vi) 10 then .next (enterVi (clearVi s vi) vi 1) else .next s

/-- The keys of a VI in one vault are zeroised and freed (R486). -/
def freeKeys (v : Nat) (s : State) (hub : Nat) : State :=
  let mine := (List.range 1024).filter (fun k => slotOwner s hub k == some v)
  countSlots (mine.foldl (fun t k => wr (dropNext (emptySlot hub t k) hub k) hub R.KS_STATE k 0) s) hub

/-- The capture records of a VI lose their owner (R419). -/
def freeRecords (v : Nat) (s : State) (hub : Nat) : State :=
  (List.range 64).foldl (fun t i =>
    let n := rd t hub R.REC_CFG i
    let t1 := if n % 512 = 256 + v then wr t hub R.REC_CFG i (setBit n 8 false) else t
    match recOf t1 hub i with
    | some r => if r.cfg % 512 = 256 + v then putRec t1 hub i { r with cfg := setBit r.cfg 8 false } else t1
    | none => t1) s

/-- The registers of a VI in VI_CTRL but for its state. -/
def viRegs : List Reg :=
  [R.VI_CFG, R.VI_HGATP, R.VI_CUT_AT, R.VI_CUT_GRACE, R.VI_CUT_COUNT, R.VI_STATE_BASE, R.VI_QSTAMP, R.VI_QPARTS, R.KILL_CUT]

/-- The registers of a VI move from one die to another (R325). -/
def moveVi (s : State) (v old new : Nat) : State := viRegs.foldl (fun t r => wr t new r v (rd s old r v)) s

/-- The checks of VI_DESTROY. -/
def checksViDestroy (t : State) (x : Ctx) : Checks :=
  viChecks t x [4]

/-- The effect of VI_DESTROY. -/
def effectViDestroy (x : Ctx) (t : State) : Effect :=
  let v := x.inst
  let t1 := clearVi t v
  let y := xlOf t1 x.loc
  let t2 := setXl t1 x.loc { y with seqs := y.seqs.filter (fun e => e.2.1 != v) }
  let t3 := (hubs t2).foldl (fun u h => freeRecords v (freeKeys v u h) h) t2
  let t4 := (hubs t3).foldl (fun u h => putTriggers u v h 0) (putShares t3 v (List.replicate 8 0))
  let t5 := putBuckets t4 v 0 false
  let t6 := setVi t5 v { ViSt.empty with held := (viOf t5 v).held }
  let t7a := wr t6 x.loc R.VI_STATE v 0
  let t7 := moveVi t7a v x.loc (viHome t7a v)
  .done (hwEvent (wr t7 x.loc R.VI_EVENT_VI 0 v) x.loc .viCtrl 0)

/-- VI_DESTROY, R327, R332, R320, R486, R419. -/
def execViDestroy (c : Cmd) (s : State) : Out :=
  command s c .viCtrl 0x15 checksViDestroy effectViDestroy

/-! ### Create and run -/

/-- The checks of VI_CREATE. -/
def checksViCreate (t : State) (x : Ctx) : Checks :=
  { Checks.pass with auth := viAuth x, idle := pageIdle t x, legal := viState t x.inst == 0 }

/-- The effect of VI_CREATE. -/
def effectViCreate (x : Ctx) (t0 : State) : Effect :=
  let v := x.inst
  let t := moveVi t0 v (viHome t0 v) x.loc
  let t1 := putShares (setVi t v { viOf t v with applied := false, killed := false, out := false }) v (List.replicate 8 0)
  let t2 := wr (putBuckets t1 v 0 false) x.loc R.VI_STATE v (1 + x.loc * 256)
  .done (viEvent t2 v 0)

/-- VI_CREATE, R325, R327: claim the VI with this die as its home. -/
def execViCreate (c : Cmd) (s : State) : Out :=
  command s c .viCtrl 0x10 checksViCreate effectViCreate

/-- A held destination of a stream resumes with GAP_BEFORE on its first record and item (R332). -/
def resumeStreams (v : Nat) (s : State) : State :=
  let back := fun (k : Nat) (d : Dest × Nat) => d.1.valid && d.1.vi == v && heldDest s v ⟨0, k / 1024, k % 1024, d.2⟩
  let mine := s.streams.filter (fun e => e.2.dests.zipIdx.any (back e.1))
  mine.foldl (fun t e =>
    let ds := e.2.dests.zipIdx.map (fun d => if back e.1 d then { d.1 with gap := true } else d.1)
    let new := (e.2.dests.zipIdx.filter (back e.1)).map (fun d => Source.mk 0 (e.1 / 1024) (e.1 % 1024) d.2)
    { t with streams := mput e.1 { e.2 with dests := ds } t.streams, marks := new ++ t.marks }) s

/-- A held detector destination resumes (R332). -/
def resumeDets (v : Nat) (s : State) : State :=
  (s.dets.filter (fun e => e.2.dest.valid && e.2.dest.vi == v && heldDest s v ⟨1, e.1 / 1024, e.1 % 1024, 0⟩)).foldl (fun t e =>
    let d := { e.2 with dest := { e.2.dest with gap := true } }
    { t with dets := mput e.1 d t.dets, marks := ⟨1, e.1 / 1024, e.1 % 1024, 0⟩ :: t.marks }) s

/-- A held receive entry resumes (R332). -/
def resumeRx (v : Nat) (s : State) : State :=
  (computeDies s).foldl (fun t d =>
    ((xlOf t d).rx.filter (fun e => e.2.cfg % 256 == v && heldDest s v ⟨4, d, e.1, 0⟩)).foldl (fun u e => { u with marks := ⟨4, d, e.1, 0⟩ :: u.marks }) t) s

/-- The checks of VI_RUN. -/
def checksViRun (t : State) (x : Ctx) : Checks :=
  let st := viState t x.inst
  let restored := bit (rd t x.loc R.VI_STATE x.inst) 6
  { viChecks t x [1, 6] with legal := viHere t x && (st == 1 || (st == 6 && viInward t x.inst && restored && cutPassed t x.inst)) }

/-- The effect of VI_RUN. -/
def effectViRun (x : Ctx) (t : State) : Effect :=
  let v := x.inst
  let mig := viState t v == 6
  let y := viOf t v
  let t1 := resumeRx v (resumeDets v (resumeStreams v t))
  let t2 := setVi t1 v { y with held := [] }
  let t3 := if mig then hwEvent (viField (viField t2 v 31 16 (y.restored + 1)) v 3 3 0) (viewLoc v) .viIndex 0 else t2
  .done (dispatch (enterVi t3 v 2) x.loc)

/-- VI_RUN, R327, R332, R341 to R343. -/
def execViRun (c : Cmd) (s : State) : Out :=
  command s c .viCtrl 0x11 checksViRun effectViRun

/-! ### Migration (R341 to R344) -/

/-- The checks of MIGRATE. -/
def checksMigrate (t : State) (x : Ctx) : Checks :=
  let ahead := ctsAhead t x.loc (rd t x.loc R.VI_CUT_AT x.inst)
  { viChecks t x [if bit x.sub 0 then 1 else 2] with
    argOk := (ctr t x.loc).valid && decide (100000 ≤ ahead ∧ ahead ≤ 10000000000) }

/-- The effect of MIGRATE. -/
def effectMigrate (x : Ctx) (t : State) : Effect :=
  let t1 := setVi t x.inst { viOf t x.inst with cutSeen := false }
  .done (enterVi (viField t1 x.inst 3 3 (x.sub % 2)) x.inst 6)

/-- MIGRATE, R327. -/
def execMigrate (c : Cmd) (s : State) : Out :=
  command s c .viCtrl 0x16 checksMigrate effectMigrate

/-- MIGRATION_CUT_AT, R341: both modules set CUT_PASSED. -/
def execMigrationCutAt (vi : Nat) (s : State) : Out :=
  let x := viOf s vi
  if viState s vi == 6 && !x.cutSeen && cutPassed s vi then .next (viEvent (setVi s vi { x with cutSeen := true }) vi 4) else .next s

/-- The instant CUT_AT + VI_CUT_GRACE (R324). -/
def graceNs (s : State) (v : Nat) : Nat := cutNs s v + rd s (viHome s v) R.VI_CUT_GRACE v % 65536 * 1000

/-- MIGRATION_GRACE_END, R324: the source enters QUIESCING in DRAIN. QTIMEOUT counts from CUT_AT + VI_CUT_GRACE (R331). -/
def execMigrationGraceEnd (vi : Nat) (s : State) : Out :=
  let d := viHome s vi
  if viState s vi == 6 && !(viInward s vi) && (ctr s d).valid && decide (graceNs s vi ≤ taiNs s d) then
    .next (startQuiesce s vi false false (s.now - (taiNs s d - graceNs s vi)))
  else .next s

/-- The sequence entries of a VI. -/
def viSeqs (s : State) (v : Nat) : List (Nat × Nat) :=
  ((xlOf s (viHome s v)).seqs.filter (fun e => e.2.1 == v)).map (fun e => (e.1, e.2.2))

/-- The block of VI_STATE_BASE may be read and written (R328). -/
def blockOk (s : State) (x : Ctx) : Bool :=
  let b := rd s x.loc R.VI_STATE_BASE x.inst
  decide (b % 256 = 0) && inAnyDram s b 256

/-- The checks of VI_SAVE. -/
def checksViSave (t : State) (x : Ctx) : Checks :=
  { viChecks t x [4] with
    argOk := blockOk t x, legal := viHere t x && viState t x.inst == 4 && (viOf t x.inst).out
    room := decide ((viSeqs t x.inst).length ≤ 16) }

/-- The effect of VI_SAVE. -/
def effectViSave (_ : Ctx) (t : State) : Effect :=
  .accepted t

/-- VI_SAVE, R327, R342. -/
def execViSave (c : Cmd) (s : State) : Out :=
  command s c .viCtrl 0x17 checksViSave effectViSave

/-- The state block (R342). -/
def stateBlock (s : State) (v : Nat) : List Byte :=
  let d := viHome s v
  let seqs := viSeqs s v
  let body := bytesLE 2 v ++ [1] ++ bytesLE 1 d ++ bytesLE 4 (rd s d R.VI_STATE v / 65536) ++ bytesLE 8 (rd s d R.VI_CUT_AT v) ++
    bytesLE 8 (rd s d R.VI_QSTAMP v) ++ List.replicate 8 0 ++
    (List.range 16).flatMap (fun k => match seqs[k]? with | some e => bytesLE 6 e.1 ++ bytesLE 2 e.2 | none => List.replicate 8 0) ++
    (sharesOf s v).flatMap (bytesLE 4) ++ List.replicate 60 0
  body ++ bytesLE 4 (crc32 body)

/-- VI_SAVE_DONE, R342. -/
def execViSaveDone (die : Nat) (s : State) : Out :=
  match runningOp s die .viCtrl 0x17 with
  | none => .next s
  | some t =>
    if domRun s die 10 then
      .next (finish (writeBytes s (rd s die R.VI_STATE_BASE t.inst) (stateBlock s t.inst)) die .viCtrl t .done 0)
    else .next s

/-- The checks of VI_RESTORE. -/
def checksViRestore (t : State) (x : Ctx) : Checks :=
  { viChecks t x [6] with argOk := blockOk t x, legal := viHere t x && viState t x.inst == 6 && viInward t x.inst }

/-- The effect of VI_RESTORE. -/
def effectViRestore (_ : Ctx) (t : State) : Effect :=
  .accepted t

/-- VI_RESTORE, R327, R342. -/
def execViRestore (c : Cmd) (s : State) : Out :=
  command s c .viCtrl 0x18 checksViRestore effectViRestore

/-- The sequence entries of a state block. -/
def blockSeqs (b : List Byte) : List (Nat × Nat) :=
  ((List.range 16).map (fun k => (ofBytesLE ((b.drop (32 + 8 * k)).take 6), ofBytesLE ((b.drop (38 + 8 * k)).take 2)))).filter
    (fun e => e.1 != 0 || e.2 != 0)

/-- The state block is restored (R342): the code of the command's end, and the state. Shares that SHARE_APPLY would refuse are
BAD_ARG, and entries for which the table has no room NO_RESOURCE (DESIGN CHOICE, log entry 106). -/
def restoreBlock (s : State) (v : Nat) (applies : Bool) (b : List Byte) : State × Code :=
  let d := viHome s v
  let x := xlOf s d
  let seqs := blockSeqs b
  let shares := (List.range 8).map (fun k => ofBytesLE ((b.drop (160 + 4 * k)).take 4))
  if crc32 (b.take 252) ≠ ofBytesLE (b.drop 252) ∨ ofBytesLE (b.take 2) ≠ v then (s, .badArg)
  else if applies && !(sharesOk s v shares) then (s, .badArg)
  else if seqs.any (fun e => match x.seqs.lookup e.1 with | some o => o.1 != v | none => false) ||
      decide (256 < (seqs.foldl (fun m e => mput e.1 (v, e.2) m) x.seqs).length) then (s, .noResource)
  else
    let s1 := setXl s d { x with seqs := seqs.foldl (fun m e => mput e.1 (v, e.2) m) x.seqs }
    let s2 := if applies then applyShares s1 v shares else s1
    let s3 := setVi s2 v { viOf s2 v with restored := ofBytesLE ((b.drop 4).take 4) }
    (viEvent (viField s3 v 6 6 1) v 5, .done)

/-- VI_RESTORE_DONE, R342. -/
def execViRestoreDone (die : Nat) (s : State) : Out :=
  match runningOp s die .viCtrl 0x18 with
  | none => .next s
  | some t =>
    if domRun s die 10 then
      let r := restoreBlock s t.inst (bit t.sub 0) (readBytes s (rd s die R.VI_STATE_BASE t.inst) 256)
      .next (finish r.1 die .viCtrl t r.2 0)
    else .next s

/-! ### Hart clusters (R345) -/

/-- The identity of a hart (R57). -/
def hartId (die cluster h : Nat) : Nat := (die - 2) * 16 + cluster * 4 + h

/-- Where a hart's HART_CLUSTER page lies. -/
def hartLoc (hart : Nat) : Nat := dieLoc (hartDie hart) (hart % 16 / 4)

/-- The checks of HART_START. -/
def checksHartStart (t : State) (x : Ctx) : Checks :=
  { swChecks true t x with auth := viAuth x, legal := rd t x.loc R.HC_STATE x.inst % 4 == 0 }

/-- Start a hart at its HC_RESET_VEC (R345). -/
def startHart (s : State) (loc h : Nat) : State :=
  wr { s with starts := mput (hartId (locDie loc) (loc / 8) h) (rd s loc R.HC_RESET_VEC h) s.starts } loc R.HC_STATE h 1

/-- The effect of HART_START. -/
def effectHartStart (x : Ctx) (t : State) : Effect :=
  .done (startHart t x.loc x.inst)

/-- HART_START, R345. -/
def execHartStart (c : Cmd) (s : State) : Out :=
  command s c .hartCluster 0x10 checksHartStart effectHartStart

/-- The checks of HART_STOP. -/
def checksHartStop (t : State) (x : Ctx) : Checks :=
  { swChecks true t x with auth := viAuth x, legal := rd t x.loc R.HC_STATE x.inst % 4 == 1 || rd t x.loc R.HC_STATE x.inst % 4 == 2 }

/-- The effect of HART_STOP. -/
def effectHartStop (x : Ctx) (t : State) : Effect :=
  let id := hartId (locDie x.loc) (x.loc / 8) x.inst
  let d := locDie x.loc
  let y := sliceOf t d
  .done (wr (setSlice t d { y with waiters := y.waiters.filter (fun w => w.ini != id) }) x.loc R.HC_STATE x.inst 0)

/-- HART_STOP, R345: the hart alone is reset and halted; its stores already performed stay. -/
def execHartStop (c : Cmd) (s : State) : Out :=
  command s c .hartCluster 0x11 checksHartStop effectHartStop

/-! ### Interrupts of harts (R76, R83, R308, R309) -/

/-- The interrupt file at an address, by its page: a file of a present hart (R308). -/
def fileAt (s : State) (addr : Nat) : Option Nat :=
  if 0x0E00000000 ≤ addr ∧ addr < 0x0E00000000 + 96 * 65536 then
    let id := (addr - 0x0E00000000) / 65536
    if present s (hartDie id) && decide (addr % 65536 / 4096 ≤ 8) then some (addr / 4096) else none
  else none

/-- MSI_RECEIVE, R309: the oldest MSI under way reaches its file. -/
def execMsiReceive (s : State) : Out :=
  match s.msis with
  | [] => .next s
  | m :: rest =>
    let s1 := { s with msis := rest }
    match fileAt s m.addr with
    | none => .next s1
    | some f =>
      let on := mget [] s.files f
      if 1 ≤ m.data ∧ m.data ≤ 255 ∧ !(on.contains m.data) then .next { s1 with files := mput f (on ++ [m.data]) s.files }
      else .next s1

/-- HART_TIMER_INTERRUPT, R309: a hart's timer interrupt is pending while the time CSR has reached its compare value; a
compare value that lies ahead withdraws it. -/
def execHartTimerInterrupt (hart compare : Nat) (s : State) : Out :=
  let d := hartDie hart
  if hart < 96 && domRun s d 12 then
    let others := s.timers.filter (fun h => h != hart)
    .next { s with
      compares := mput hart compare s.compares
      timers := if timeCsr s d < compare then others else if s.timers.contains hart then s.timers else s.timers ++ [hart] }
  else .next s

/-! ### Stores of harts (R50, R307, R308, R337) -/

/-- A scalar store that crosses a 64-byte block boundary (R307). -/
def crossesBlock (gpa len : Nat) : Bool := decide (len ≤ 8 ∧ 64 < gpa % 64 + len)

/-- Memory takes a store of a VI's hart at a physical address: fitted DRAM or a sample store, over a path that is there (R20). -/
def overMem (s : State) (v a : Nat) : Bool :=
  match mapPlace s a with
  | .dram d | .store d => diesReach s (viHome s v) d
  | _ => false

/-- A byte of a store reaches a physical address: memory takes it, an interrupt file none (files take writes of 32 bits, which are
MSI_RECEIVE's), the rest of hart-local space and an absent die answer with an access fault (R50, R308), and the SRAM windows that
belong to a block ignore it (DESIGN CHOICE, log entry 123). -/
def putHart (s : State) (v a : Nat) (b : Byte) : State :=
  match mapPlace s a with
  | .absent _ => { s with resp := .accessFault }
  | .hartLocal => if (fileAt s a).isSome then s else { s with resp := .accessFault }
  | _ => if overMem s v a then putVi s a b else s

/-- The bytes of a store in order, up to the first that faults; the first byte in a page sets the page's bit (R307, R337). -/
def storeFrom (v : Nat) : Bool → Nat → List Byte → State → State
  | _, _, [], s => s
  | first, gpa, b :: rest, s =>
    match walkLeaf s v (gpa / 4096) with
    | some l =>
      if l.write then
        let a := l.phys * 4096 + gpa % 4096
        let s0 := if (first || gpa % 4096 == 0) && overMem s v a then logPage s v (gpa / 4096) else s
        let s1 := putHart s0 v a b
        if s1.resp = .accessFault then s1 else storeFrom v false (gpa + 1) rest s1
      else { s with resp := .pageFault }
    | none => { s with resp := .pageFault }

/-- HART_STORE, R307, R337: a store of a hart with V = 1 into its VI's memory, through the VI's G-stage table. A page with A or D
clear, or that the table does not give for writing, raises a page fault, and a scalar store across a 64-byte block an
address-misaligned exception. A store over a path that is down (R20) writes nothing (DESIGN CHOICE, log entry 106). Every store
sets its page's bit, as the first through each translation of an epoch must. -/
def execHartStore (vi gpa : Nat) (bytes : List Byte) (s : State) : Out :=
  if viState s vi = 0 then .next s
  else if crossesBlock gpa bytes.length then .next { s with resp := .misaligned }
  else .next (storeFrom vi true gpa bytes { s with resp := .value 0 })

end Sys2Proof.Machine
end

