-- ==== Sys2Proof/Machine/Reset.lean ====
section
/-!
DEFINITION. Sys2Proof/Machine/Reset.lean: reset sources, the walk, option bytes and fuses (R42, R43, R511 to R536).
-/
namespace Sys2Proof.Machine

/-! ### The RESET_KS page (R533, R534) -/

/-- Domains 1 to 12. -/
def allDomains : Nat := 8190

/-- The domains of a mask. -/
def maskDoms (m : Nat) : List Nat := (List.range 13).filter (fun d => d != 0 && bit m d)

/-- The domain is in RUN, by the reset controller alone (R512). -/
def domUp (r : ResetSt) (dom : Nat) : Bool := bit r.released dom && !(bit (heldMask r) dom)

/-- The walk's position (R515); 13 when every domain is in RUN. -/
def walkPos (die : Nat) (r : ResetSt) : Nat :=
  ((List.range 13).find? (fun d => d != 0 && !(domEmpty die d) && !(domUp r d))).getD 13

/-- The islands that a domain waits on, bits of RK_LOCKS (R511, R533). -/
def domIslands (die dom : Nat) : Nat :=
  if dom = 5 then 1 else if dom = 6 then 2 else if dom = 7 && isHub die then 28 else 0

/-- Every island of the domain is lock-stable. -/
def domStable (die : Nat) (r : ResetSt) (dom : Nat) : Bool := r.locks &&& domIslands die dom == domIslands die dom

/-- The domains that a source covers, by all that it has asserted. -/
def srcMask (r : ResetSt) (src : Nat) : Nat :=
  (r.pulses.filter (fun p => p.src == src)).foldl (fun m p => m ||| p.mask) (r.holds[src]?.getD 0)

/-- What RK_WALK shows (R533). -/
def walkWord (die : Nat) (r : ResetSt) : Nat :=
  let p := walkPos die r
  p + (if p = 13 then 0 else if bit (heldMask r) p then 2 else if r.gapDone then 3 else 1) * 16 + b2n (r.loading != 0) * 64

/-- What DM_STATE shows of a domain (R534). AON always reads RUN. -/
def domWord (die : Nat) (r : ResetSt) (d : Nat) : Nat :=
  if d = 0 then 16
  else
    let by_ := ((List.range 8).map (fun k => b2n (bit (srcMask r k) d) * 2 ^ k)).sum
    (if domUp r d || (domEmpty die d && by_ == 0) then 0 else if by_ = 0 then 2 else 1) + b2n (bit r.notReady d) * 4 + b2n (bit r.forced d) * 8 +
      b2n (domStable die r d) * 16 + b2n (domEmpty die d) * 32 + by_ * 256

/-- The sources asserted now (R533). -/
def activeMask (r : ResetSt) : Nat :=
  ((List.range 8).map (fun k => b2n (srcMask r k != 0) * 2 ^ k)).sum

/-- The domain at the walk's position may count its gap: it is WAITING, and every release before it has ended (R515,
R516, R529). -/
def mayGap (die : Nat) (r : ResetSt) : Bool :=
  let p := walkPos die r
  decide (p ≤ 12) && r.fuseSensed && !(bit (heldMask r) p) && !(bit (heldMask r) 0) && (p == 1 || r.optDone) &&
    (r.loading == 0 || decide (p < r.loading))

/-- The elapsed time from which a gap, or a wait for lock, of the walk's position is counted (R516, R519). -/
def markGap (now : Nat) (die : Nat) (old new : ResetSt) : ResetSt :=
  let goes := fun (r : ResetSt) => mayGap die r && !r.gapDone
  if (goes new && !(goes old && walkPos die old == walkPos die new)) || (new.gapDone && !old.gapDone) then { new with gapAt := now }
  else new

/-- The registers of RESET_KS show the controller. -/
def showReset (s : State) (die : Nat) : State :=
  let r := rstOf s die
  let s1 := wrAll s die 0 [(R.RK_WALK, walkWord die r), (R.RK_ACTIVE, activeMask r),
    (R.RK_LOCKS, rd s die R.RK_LOCKS 0 / 256 * 256 + r.locks % 32)]
  (List.range 13).foldl (fun t d => wr t die R.DM_STATE d (domWord die r d)) s1

/-- Set the reset controller, and show it. -/
def putRst (s : State) (die : Nat) (r : ResetSt) : State := showReset (setRst s die (markGap s.now die (rstOf s die) r)) die

/-- A source's assertion in RESET_CAUSE, its count and its RC_CTS (R533). -/
def countCause (s : State) (die src cts : Nat) : State :=
  let s1 := wr s die R.RESET_CAUSE 0 (setBit (rd s die R.RESET_CAUSE 0) src true)
  let s2 := wr s1 die (R.RC_CTS.nth src) 0 cts
  let r := if src ≤ 4 then R.RC_COUNT0 else R.RC_COUNT1
  let k := if src ≤ 4 then src - 1 else src - 5
  if src = 0 then s2
  else wr s2 die r 0 (setFld (rd s2 die r 0) (8 * k + 7) (8 * k) (satAdd 8 (fld (rd s2 die r 0) (8 * k + 7) (8 * k)) 1))

/-! ### What a held domain loses (R60, R514, R616) -/

/-- The place, block code, bank and offset of a register's number. -/
def keyLoc (k : Nat) : Nat := k / 268435456 / 128 / 8192
def keyCode (k : Nat) : Nat := k % 268435456 / 4096
def keyOff (k : Nat) : Nat := k % 4096

/-- Every view of R73. -/
def viewAll : List Block :=
  [.viIndex, .pelotonView, .flowView, .sampleView, .egressView, .captureView, .keyView, .crankView, .timerView, .counterView]

/-- The block of a type code. -/
def blockOf (code : Nat) : Option Block := (blockAll ++ viewAll).find? (fun b => blockCode b == code)

/-- A page lies in a domain of a die: a view page where it is served. -/
def pageIn (s : State) (die dom loc code : Nat) : Bool :=
  match blockOf code with
  | some b => blockDomain b == dom && serveDie s loc b == die
  | none => false

/-- An initiator's banked part of a page lies in a domain of a die; KEY_VIEW serves each the vault that its KV_HUB chooses
(R508). -/
def bankIn (s : State) (die dom loc code ini : Nat) : Bool :=
  if blockOf code = some .keyView then dom == 3 && kvHub s loc ini == die else pageIn s die dom loc code

/-- A register keeps its value while its domain is held: it is held in the AON domain (R60), in OTP (R482, R557), or is
the option block in force, which a release of OPT replaces (R527). -/
def regKept (code off : Nat) : Bool :=
  match blockOf code with
  | none => false
  | some b => (blockRegs b ++ [R.OPT_BYTES, R.PM_FUSES, R.UNSEAL_FAIL, R.VT_MEAS0_2, R.TD_EPOCH, R.TD_EXPIRY, R.TD_HOLDER,
      R.TANDEM_LANE_TX_FRAMES, R.TANDEM_LANE_RX_FRAMES, R.RX_MISS, R.RX_BAD, R.TX_OMIT, R.GATE_DROP, R.SPLIT_SEEN, R.BEACON_RX,
      R.TD_TAKE_CTS, R.MC_ROLLBACK, R.MC_AUTH].map (fun (r : Reg) => { r with aon := true })).any (fun r =>
        r.blk == b && r.aon && decide (r.off ≤ off ∧ off < r.off + r.cnt * r.stride))

/-- A page's header after a reset of its domain (R60, R618). KEY_VIEW serves two vaults (R508): while commands of the other
hub's vault run on under it, its counter goes on, so that no later command takes the number of one of them. -/
def resetHdr (code : Nat) (h : Hdr) : Hdr :=
  if blockOf code = some .keyView ∧ h.running ≠ [] then { Hdr.empty with lock := h.lock, seq := h.seq, running := h.running }
  else { Hdr.empty with lock := h.lock }

/-- The pages of a domain return to their reset values, but for PAGE_LOCK (R60, R586, R618). -/
def clearPages (s : State) (die dom : Nat) : State :=
  let hit := fun (p : Nat) => pageIn s die dom (p / 65536) (p % 65536)
  { s with
    regs := mkeep (fun k => !(bankIn s die dom (keyLoc k) (keyCode k) (k / 268435456 % 128)) ||
      regKept (keyCode k) (keyOff k)) s.regs
    hdrs := s.hdrs.map (fun e => (e.1, if hit e.1 then resetHdr (e.1 % 65536) e.2 else e.2))
    banks := mkeep (fun k => !(bankIn s die dom (k / 128 / 65536) (k / 128 % 65536) (k % 128))) s.banks
    cycSel := mkeep (fun k => !(hit (k / 8))) s.cycSel
    cycVal := mkeep (fun k => !(hit (k / 8))) s.cycVal
    cycSeen := mkeep (fun k => !(hit (k / 8))) s.cycSeen
    cycWas := mkeep (fun k => !(hit (k / 8))) s.cycWas }

/-- The die of a hart's interrupt file (R308). -/
def fileDie (f : Nat) : Nat := hartDie ((f * 4096 - 0x0E00000000) / 65536)

/-- A vault's commands at a reset of KEY of a die (R63, R618): those of pages that the reset takes end with it, in
whichever vault they wait; those that came to this die's vault through a view that the other hub's KEY holds end with
ABORTED. -/
def endVaultJobs (die : Nat) (s : State) (hub : Nat) : State :=
  let v := vaultOf s hub
  let blk := fun (j : VaultJob) => if j.view then Block.keyView else .keyVault
  let page := fun (j : VaultJob) => if j.view then kvHub s j.loc j.ticket.ini else hub
  let gone := v.jobs.filter (fun j => page j == die || hub == die)
  let s1 := putVault s hub { v with jobs := v.jobs.filter (fun j => !(page j == die || hub == die)) }
  gone.foldl (fun t j =>
    if page j = die then setHdr t j.loc (blk j) { hdr t j.loc (blk j) with running := (hdr t j.loc (blk j)).running.erase j.ticket }
    else finish t j.loc (blk j) j.ticket .aborted 0) s1

/-- The time-sync pairs of a die stop with its TIME domain, and both ends of each link show it (R23, R85). -/
def stopPairs (s : State) (die : Nat) : State :=
  if isHub die then
    (computeDies s).foldl (fun t d => showPair t d die false) (if present s 1 then showPair s die (otherHub die) false else s)
  else (hubs s).foldl (fun t h => showPair t die h false) s

/-- What the engines of a domain lose besides their registers. -/
def clearEngines (s : State) (die dom : Nat) : State :=
  match dom with
  | 3 =>
    let s1 := (hubs s).foldl (endVaultJobs die) s
    putVault (zeroiseAll s1 die) die { vaultOf s1 die with challenge := none, debugChallenge := none, zeroising := false }
  | 4 =>
    let s1 := setMech s die { mechOf s die with runs := false, trialFw := false, from_ := none, candAt := none, missed := 0, sessions := [] }
    let s2 := setCad s1 die { cadOf s1 die with measured := false }
    if isHub die then
      let s3 := setRt s2 die { rtOf s2 die with written := 0, active := false, waits := [] }
      { s3 with
        cys := mdel die s3.cys, mgmtLogs := mdel die s3.mgmtLogs, upds := mdel die s3.upds
        rails := mkeep (fun k => k / 16 != die) s3.rails }
    else s2
  | 5 => { stopPairs (if isHub die then dropGates (setCtr (putCyRun s die false) die Ctr.empty) die else setCtr s die Ctr.empty) die with
      tbs := mdel die s.tbs, steps := s.steps.filter (fun p => p.hub != die), trigs := mkeep (fun k => k / 16 != die) s.trigs
      firings := s.firings.filter (fun f => f.hub != die) }
  | 7 =>
    if isHub die then
      let s1 := setTd s die { Tandem.empty with token := (tdOf s die).token }
      let hand := match (tdOf s1 (1 - die)).hand with | some h => h.hub == die | none => false
      { (if hand then putTd s1 (1 - die) { tdOf s1 (1 - die) with hand := none } else s1) with
        switches := mdel die s.switches, lanes := mdel die s.lanes }
    else s
  | 8 => { s with
      streams := mkeep (fun k => k / 1024 != die) s.streams, batches := s.batches.filter (fun b => b.hub != die)
      marks := s.marks.filter (fun m => m.die != die), profiles := mkeep (fun k => k / 64 != die) s.profiles
      filters := mkeep (fun k => k / 1024 != die) s.filters, dets := mkeep (fun k => k / 1024 != die) s.dets
      presents := s.presents.filter (fun p => p.hub != die), taps := s.taps.filter (fun t => t.hub != die)
      capIns := s.capIns.filter (fun c => c.dest != die), captures := mdel die s.captures
      xlates := s.xlates.map (fun e => (e.1, { e.2 with jobs := e.2.jobs.filter (fun j => !(j.src.engine == 5 && j.src.die == die)) })) }
  | 9 => { setCo s die { coOf s die with shown := [] } with
      lines := s.lines.map (fun e => (e.1, if e.1 / 8 = die then { e.2 with
        demand := false, sense := false, seen := false, tcsFail := false, noCurrent := false, driveFault := false } else e.2))
      bins := mkeep (fun k => k / 16 != die) s.bins }
  | 10 =>
    let here := fun (v : Nat) => viHome s v == die
    { s with
      offers := s.offers.filter (fun o => !(here o.vi)), sendReqs := s.sendReqs.filter (fun q => q.die != die)
      xlates := mdel die s.xlates, slices := mdel die s.slices, vis := mkeep (fun v => !(here v)) s.vis
      logs := mkeep (fun v => !(here v)) s.logs }
  | 11 => { s with cranks := mdel die s.cranks }
  | 12 => { s with
      files := mkeep (fun f => fileDie f != die) s.files, timers := s.timers.filter (fun h => hartDie h != die)
      compares := mkeep (fun h => hartDie h != die) s.compares, starts := mkeep (fun h => hartDie h != die) s.starts
      slices := s.slices.map (fun e => (e.1, if e.1 = die then { e.2 with waiters := [] } else e.2)) }
  | _ => s

/-- A domain of a die is held. -/
def loseDomain (die : Nat) (s : State) (dom : Nat) : State := clearPages (clearEngines s die dom) die dom

/-- PAGE_LOCK of every page of a die clears (R72, R514). -/
def unlockPages (s : State) (die : Nat) : State :=
  { s with hdrs := s.hdrs.map (fun e => (e.1, match blockOf (e.1 % 65536) with
      | some b => if serveDie s (e.1 / 65536) b = die then { e.2 with lock := false } else e.2
      | none => e.2)) }

/-- A reset of die reach (R436, R514, R556), once its domains are held. -/
def dieReach (s : State) (die : Nat) : State :=
  let s2 := setMech s die { mechOf s die with fresh := true }
  if isHub die then { setRst s2 die { rstOf s2 die with coasterFresh := true } with coasters := mdel die s2.coasters } else s2

/-! ### Assertion and release of sources (R35, R513) -/

/-- The domains of a die that are in RUN, as a mask. -/
def runMask (die : Nat) (r : ResetSt) : Nat :=
  ((maskDoms allDomains).map (fun d => b2n (domUp r d && !(domEmpty die d)) * 2 ^ d)).sum

/-- A source covers a mask too. CKF, WDT, LCK and a pulse of SWR (8) stand by themselves, each for its own time (R513). -/
def addHold (die : Nat) (r : ResetSt) (src mask now : Nat) : ResetSt :=
  if src = 3 ∨ src = 4 ∨ src = 5 ∨ src = 8 then { r with pulses := r.pulses ++ [⟨min 7 src, mask, now, runMask die r⟩] }
  else { r with holds := r.holds.set src ((r.holds[src]?.getD 0) ||| mask) }

/-- The controller with a source asserted on a mask (R35, R515, R516, R522). -/
def holdRst (die : Nat) (r : ResetSt) (src mask now : Nat) : ResetSt :=
  let keep := fun (m : Nat) => m &&& (8191 - mask &&& 8191)
  let r1 := { addHold die r src mask now with
    released := keep r.released, forced := keep r.forced, notReady := keep r.notReady
    optDone := r.optDone && !(bit mask 1)
    loading := if bit mask r.loading then 0 else r.loading
    coasterFresh := r.coasterFresh || (r.loading == 9 && bit mask 9) }
  { r1 with gapDone := r.gapDone && walkPos die r1 == walkPos die r && !(bit mask (walkPos die r)) }

/-- A source asserts on domains of a die (R513, R514, R523). -/
def assertSource (s : State) (die src mask : Nat) : State :=
  if !(present s die) then s
  else
    let n := min 7 src
    let cts := rcCts s die
    let r := rstOf s die
    let down := (maskDoms mask).filter (fun d => domUp r d && !(domEmpty die d))
    let s1 := countCause (tickSrc (if isHub die then keepBalls s die else s) die (rkSrc die)) die n cts
    let s2 := down.foldl (fun t d => wr t die R.DM_HOLD_CTS d cts) s1
    let full := (maskDoms allDomains).all (fun d => domEmpty die d || bit mask d)
    let s3 := (maskDoms mask).foldl (loseDomain die) (if full then unlockPages s2 die else s2)
    let s4 := putRst s3 die (holdRst die r src mask s.now)
    let s5 := if full then dieReach s4 die else s4
    let s6 := hwEvent (showReset s5 die) die .resetKs 0
    linesJudge ((hubs s6).foldl (fun t h => fireTrigger t h 5 cts) s6)

/-- A source that asserts while AON is held (R513): its domains are held, and the registers of the controller, held too,
take no note of it (R616). -/
def coverSource (s : State) (die src mask : Nat) : State :=
  if domRun s die 0 then assertSource s die src mask
  else if present s die then setRst s die (holdRst die (rstOf s die) src mask s.now) else s

/-- A source releases what it holds. -/
def releaseSource (s : State) (die src : Nat) : State :=
  let r := rstOf s die
  if (r.holds[src]?.getD 0) = 0 then s else putRst s die { r with holds := r.holds.set src 0 }

/-- The oldest assertion of a source that stands for a time ends, once that time has passed (R513). -/
def endPulse (s : State) (die src time : Nat) : State :=
  let r := rstOf s die
  match r.pulses.find? (fun p => p.src == src && decide (p.at_ + time ≤ s.now)) with
  | some p => putRst s die { r with pulses := r.pulses.erase p }
  | none => s

/-! ### The walk (R515 to R521) -/

/-- The fuse defaults of R526. -/
def optDefaults : List Byte :=
  [0x4B, 0x5A, 0x4F, 0x42, 1, 0] ++ bytesLE 2 10 ++ bytesLE 2 100 ++ [0, 0] ++ bytesLE 2 25 ++ bytesLE 2 25 ++
    (List.replicate 10 (bytesLE 2 250)).flatten ++ List.replicate 220 0

/-- A field of the block. -/
def optField (bs : List Byte) (off n : Nat) : Nat := ofBytesLE ((bs.drop off).take n)

/-- The gap in force before a domain, in REFCLK cycles (R516, R534). -/
def domGap (s : State) (die dom : Nat) : Nat :=
  if dom = 0 then 0
  else if dom = 1 ∨ optByte s die 0 = 0 then optField optDefaults (12 + 2 * (dom - 1)) 2
  else optHalf s die (12 + 2 * (dom - 1))


/-- Every zone of a hub that is not OFF restarts (R436). -/
def restartZones (s : State) (hub : Nat) : State :=
  (coOf s hub).zones.foldl (fun t e =>
    let z := (zoneOf t hub e.1)
    if z.state = 0 then t
    else
      let n := { Zone.fresh (z.waits.getD z.regs) with state := z.state }
      putZone t hub e.1 { n with state := restState t hub n }) s

/-- P14 or P15 enters UP: the ports of the hub's own logic have no link, so they are UP from the release of NET, without HOLD
(R162, R167; DESIGN CHOICE, assumption 120). -/
def coreUp (s : State) (hub p : Nat) : State :=
  putPortState (wr s hub R.UP_STAMP p (ctsNow s hub)) hub p 2 false

/-- What the release of a domain brings besides the domain itself. -/
def released (s : State) (die dom : Nat) : State :=
  match dom with
  | 3 => if (vaultOf s die).alarmed then enterVault s die 3 else s
  | 4 =>
    let s1 := setMech s die { mechOf s die with kickAt := s.now, released := s.now, sweptAt := s.now }
    let period := optHalf s1 die 66
    let s2 := wr s1 die R.SN_PERIOD 0 (if period = 0 then 10 else period)
    let s3 := if isHub die then
        let on := wr s2 die R.AVS_CFG 0 (setBit (rd s2 die R.AVS_CFG 0) 0 (maFlag s2 die 0))
        let mg := wr on die R.MG_CFG 0 (setBit (rd on die R.MG_CFG 0) 0 (maFlag on die 1))
        wr mg die R.MG_STATE 0 (b2n (!(bit (rstOf mg die).locks 3)) * 4)
      else s2
    refreshLease s3
  | 5 => let s1 := timeReleased s die
    { s1 with timeZero := mput die s1.now s1.timeZero }
  | 7 =>
    let s1 := linksReleased s die
    if isHub die then
      let s2 := tandemReleased s1 die
      let s3 := coreUp (coreUp s2 die 14) die 15
      laneReleased s3 die
    else s1
  | 9 => restartZones s die
  | 12 => if die = 2 then startHart s (dieLoc 2 0) 0 else s
  | _ => s

/-- The release of a domain starts a start-up load (R522). -/
def loads (die dom : Nat) (r : ResetSt) : Bool :=
  isHub die && (dom == 5 || dom == 7 || dom == 8 || (dom == 9 && r.coasterFresh))

/-- The walk releases the domain at its position (R515, R521). -/
def releaseDomain (s : State) (die dom : Nat) : State :=
  let r := rstOf s die
  let cts := rcCts s die
  let stable := domStable die r dom
  let load := loads die dom r
  let r1 := { r with
    released := setBit r.released dom true, gapDone := false, forceReq := setBit r.forceReq dom false
    forced := setBit r.forced dom (!stable), notReady := setBit r.notReady dom (!stable)
    loading := if load then dom else r.loading, coasterFresh := r.coasterFresh && !(load && dom == 9)
    optDone := r.optDone && dom != 1, optAt := if dom = 1 then s.now else r.optAt }
  let s1 := putRst (tickSrc s die (rkSrc die)) die r1
  let s2 := incr (wr s1 die R.DM_RELEASE_CTS dom cts) die R.DM_RELEASES dom 1
  let s3 := released (if stable then s2 else hwEvent s2 die .resetKs 4) die dom
  let s4 := if walkPos die r1 = 13 then hwEvent (wr s3 die R.RK_WALK_CTS 0 cts) die .resetKs 1 else s3
  linesJudge s4

/-- The walk releases the domain whose gap has ended, if its islands are lock-stable or it is forced (R518, R521). -/
def tryRelease (s : State) (die : Nat) : State :=
  let r := rstOf s die
  let p := walkPos die r
  if r.gapDone && mayGap die r && (domStable die r p || bit r.forceReq p) then releaseDomain s die p else s

/-- The gap of the walk's position has passed (R516): a REFCLK cycle is 40 ns, and one of the fastest ring oscillator in
its place 32 ns. -/
def gapPassed (s : State) (die : Nat) (r : ResetSt) : Bool :=
  decide (r.gapAt + domGap s die (walkPos die r) * (if r.refclk then 40 else 32) ≤ s.now)

/-- WALK_GAP_EXPIRY, R516: the gap of the domain at the walk's position ends. -/
def execWalkGapExpiry (die : Nat) (s : State) : Out :=
  let r := rstOf s die
  if present s die && mayGap die r && !r.gapDone && gapPassed s die r then .next (tryRelease (putRst s die { r with gapDone := true }) die)
  else .next s

/-- The domain of an island (R511). -/
def islandDom (island : Nat) : Nat := if island = 0 then 5 else if island = 1 then 6 else 7

/-- An island that the die has. -/
def hasIsland (s : State) (die island : Nat) : Bool := present s die && decide (island < 5) && (isHub die || decide (island < 2))

/-- ISLAND_LOCK_STABLE, R518, R521: NOT_READY and FORCED of its domain end with the last of its islands. -/
def execIslandLockStable (die island : Nat) (s : State) : Out :=
  if hasIsland s die island then
    let r := rstOf s die
    let d := islandDom island
    let r1 := { r with locks := setBit r.locks island true }
    let r2 := if domStable die r1 d then { r1 with notReady := setBit r1.notReady d false, forced := setBit r1.forced d false } else r1
    let s1 := putRst s die r2
    let s2 := if island = 3 && domRun s1 die 4 then wr s1 die R.MG_STATE 0 (setBit (rd s1 die R.MG_STATE 0) 2 false) else s1
    .next (tryRelease (if isHub die then islandPorts s2 die else s2) die)
  else .next s

/-- ISLAND_LOCK_LOSS, R519: a domain in RUN holds its interface in NOT_READY. -/
def execIslandLockLoss (die island : Nat) (s : State) : Out :=
  if hasIsland s die island then
    let r := rstOf s die
    let d := islandDom island
    let r1 := { r with
      locks := setBit r.locks island false, notReady := if domUp r d then setBit r.notReady d true else r.notReady
      lostAt := if bit r.locks island then r.lostAt.set island s.now else r.lostAt }
    let s1 := putRst s die r1
    .next (if island = 3 && domRun s1 die 4 then wr s1 die R.MG_STATE 0 (setBit (rd s1 die R.MG_STATE 0) 2 true) else s1)
  else .next s

/-- LOCK_WAIT_EXPIRY, R519: the account of a wait for an island's lock reaches 2 ms, which takes 2 ms or, on the ring
oscillator, more; no CKF follows a forced release. -/
def execLockWaitExpiry (die island : Nat) (s : State) : Out :=
  let r := rstOf s die
  let d := islandDom island
  let waits := walkPos die r == d && r.gapDone && mayGap die r && decide (r.gapAt + 2000000 ≤ s.now)
  let lost := domUp r d && bit r.notReady d && !(bit r.forced d) && decide ((r.lostAt[island]?.getD 0) + 2000000 ≤ s.now)
  if hasIsland s die island && !(bit r.locks island) && (waits || lost) then
    let s1 := wr s die R.RK_LOCKS 0 (setFld (rd s die R.RK_LOCKS 0) 12 8 (2 ^ island))
    .next (assertSource (hwEvent s1 die .resetKs 2) die 3 allDomains)
  else .next s

/-! ### Rows of the sources (R513) -/

/-- POR_ASSERT, R513, R514: every die returns to its state at reset. OTP, fuses and flash are never cleared; rails and
pins, DRAM contents and what has left the package are outside the device's own reset. -/
def execPorAssert (s : State) : Out :=
  let otp := fun (k : Nat) => keyCode k == blockCode .option && decide (0xA00 ≤ keyOff k ∧ keyOff k < 0xA20) ||
    keyCode k == blockCode .mechanic && (keyOff k == 0x828 || keyOff k == 0x82C)
  let tamper := fun (h : Nat) => if s.regs.any (fun e => e.1 == regKey h 0 127 (blockCode .keyVault) 0x804) then
    [(regKey h 0 127 (blockCode .keyVault) 0x804, BitVec.ofNat 64 (rd s h R.VT_TAMPER 0 / 256 * 256))] else []
  let s1 : State := { State.reset with
    pending := s.pending, variant := s.variant, now := s.now, resp := s.resp, free := s.free, sent := s.sent
    mem := s.mem.filter (fun c => decide (dramBase 0 ≤ c.1))
    roots := s.roots, flashes := s.flashes
    regs := (tamper 0 ++ tamper 1).foldl (fun m e => mput e.1 e.2 m) (mkeep otp s.regs)
    retains := s.retains.map (fun e => (e.1, { Retain.empty with cells := e.2.cells }))
    vaults := s.vaults.map (fun e => (e.1, { Vault.empty with unsealAuth := e.2.unsealAuth, debugAuth := e.2.debugAuth })) }
  let s2 := (diesOf s).foldl (fun t d =>
    let r := rstOf s d
    setRst t d { ResetSt.por with
      holds := [8191, r.holds[1]?.getD 0, r.holds[2]?.getD 0, 0, 0, 0, 0, 0], lostAt := r.lostAt, locks := r.locks, refclk := r.refclk
      poweredOff := r.poweredOff }) s1
  .next (refreshAll ((diesOf s2).foldl showReset s2))

/-- POR_RELEASE, R513: fuse sensing starts. -/
def execPorRelease (s : State) : Out := .next ((diesOf s).foldl (fun t d => releaseSource t d 0) s)

/-- FUSE_SENSE_DONE, R516, R529: the balls take their codes and the walk begins. -/
def execFuseSenseDone (s : State) : Out :=
  .next (refreshAll ((diesOf s).foldl (fun t d =>
    if domRun t d 0 then putRst t d { rstOf t d with fuseSensed := true } else t) s))

/-- SRAM contents of a die are undefined after BOR (R514). -/
def loseSram (s : State) (die : Nat) : State :=
  { s with mem := s.mem.filter (fun c => decide (c.1 < ctrlBase die ∨ ctrlBase die + 0x04000000 ≤ c.1)) }

/-- BOR_ASSERT, R513. -/
def execBorAssert (die : Nat) (s : State) : Out :=
  .next (coverSource (if present s die then loseSram s die else s) die 1 allDomains)

/-- BOR_RELEASE, R513: the rails have recovered, and no Mechanic has powered the die down. -/
def execBorRelease (die : Nat) (s : State) : Out :=
  .next (if (rstOf s die).poweredOff then s else releaseSource s die 1)

/-- PIN_RESET_ASSERT, R513. -/
def execPinResetAssert (s : State) : Out :=
  .next ((diesOf s).foldl (fun t d => coverSource t d 2 allDomains) s)

/-- PIN_RESET_RELEASE, R513. -/
def execPinResetRelease (s : State) : Out := .next ((diesOf s).foldl (fun t d => releaseSource t d 2) s)

/-- CKF_RELEASE, R513: the oldest CKF of a die that has stood for 10 µs is released. -/
def execCkfRelease (die : Nat) (s : State) : Out := .next (endPulse s die 3 10000)

/-- WDT_MS of a die in ns (R526): 0 for no watchdog. -/
def wdtNs (s : State) (die : Nat) : Nat := optHalf s die 8 * 1000000

/-- WDT_EXPIRY, R513: WDT_MS have passed with no write to WDT_KICK. -/
def execWdtExpiry (die : Nat) (s : State) : Out :=
  if domRun s die 4 && wdtNs s die != 0 && decide ((mechOf s die).kickAt + wdtNs s die ≤ s.now) then
    let s1 := setMech s die { mechOf s die with kickAt := s.now }
    .next (assertSource s1 die 4 16)
  else .next s

/-- WDT releases 10 µs after its assertion (R513). -/
def wdtEnds (s : State) (die : Nat) : State := endPulse s die 4 10000

/-- What a tick of an idle block brings: the counters, the flits of the links, the cells of frames that come in, and the end of a watchdog reset. -/
def tick (s : State) : State :=
  let s1 := idleTick s
  let s2 := (allLinks s1).foldl linkTraffic s1
  let s3 := (hubs s2).foldl cellsArrive s2
  levelWatch ((diesOf s3).foldl wdtEnds s3)

/-- A write of WDT_KICK: by class M it restarts WDT_MS (R533). -/
def wdtKick (w : Who) (t : Target) (_ : Nat) (s : State) : State :=
  let die := locDie t.loc
  if classOf w.ini = .m && domRun s die 4 then setMech s die { mechOf s die with kickAt := s.now } else s

/-- WDT_KICK_WRITE, R533: a class M write restarts WDT_MS; other writes are ignored. -/
def execWdtKickWrite (a : Access) (s : State) : Out := writeReg (accAt R.WDT_KICK a) (wdtKick a.who) s

/-- An end of a handshake still stands (R43): its domain runs, or no source has taken it but an LCK of this instant, which
is that of a monitor that fires together with this one. -/
def endStands (s : State) (die dom : Nat) : Bool :=
  let r := rstOf s die
  domRun s die dom ||
    (present s die && (r.pulses.any (fun p => p.src == 5 && p.at_ == s.now && bit p.mask dom && bit p.was dom)) &&
      !(bit (heldMask { r with pulses := r.pulses.filter (fun p => !(p.src == 5 && p.at_ == s.now)) }) dom))

/-- HANDSHAKE_TIMEOUT, R43: LCK on the two domains that hold the ends of the channel, and its record. A reset from another
source that holds either end has ended the handshake. -/
def execHandshakeTimeout (die channel domA domB : Nat) (s : State) : Out :=
  if present s die && decide (1 ≤ domA ∧ 1 ≤ domB) && endStands s die domA && endStands s die domB then
    let mask := 2 ^ domA ||| 2 ^ domB
    let src := if isHub die then 318 else 278
    let st := stampOf s die src 0
    let s1 := record (tickSrc s die src) die die .resetKs st 0 0x21 false 0 [channel % 65536, st.cts]
    .next (causedBy st.cts (fun u => assertSource (wr u die R.LCK_INFO 0 (channel % 65536 + mask / 2 % 4096 * 65536)) die 5 mask) s1)
  else .next s

/-- LCK_RELEASE, R513: the oldest LCK of a die that has stood for 1 µs is released. -/
def execLckRelease (die : Nat) (s : State) : Out := .next (endPulse s die 5 1000)

/-- DBG_RESET_ASSERT, R513: ndmreset is 1. -/
def execDbgResetAssert (s : State) : Out :=
  .next ((diesOf s).foldl (fun t d =>
    if domRun t d 0 then assertSource t d 6 (rd t d R.RK_DBG_MASK 0 % 8192 / 2 * 2) else t) s)

/-- DBG_RESET_RELEASE, R513. -/
def execDbgResetRelease (s : State) : Out := .next ((diesOf s).foldl (fun t d => releaseSource t d 6) s)

/-! ### Commands of RESET_KS (R520, R521, R535) -/

/-- The domain mask of a command. -/
def swrMask (x : Ctx) : Nat := x.cmdArg % 8192 / 2 * 2

/-- Authority and key of R535, and the lock that R520 asks for. -/
def swrChecks (locked : Bool) (t : State) (x : Ctx) : Checks :=
  let m := swrMask x
  let keyed := bit m 3 || bit m 4 || bit m 9
  { Checks.pass with
    auth := (hostHart x.who || isMech x.who.ini) && (!keyed || x.argument == rd t x.loc R.RK_SWR_KEY 0 % 65536)
    idle := pageIdle t x
    legal := !locked || (maskDoms m).all (domStable (locDie x.loc) (rstOf t (locDie x.loc))) }

/-- The effect of SWR_ASSERT. -/
def effectSwrAssert (x : Ctx) (t : State) : Effect :=
  .done (assertSource t (locDie x.loc) 7 (swrMask x))

/-- SWR_ASSERT, R535. -/
def execSwrAssert (c : Cmd) (s : State) : Out :=
  command s c .resetKs 0x10 (swrChecks false) effectSwrAssert

/-- SWR lets go of a mask, pulses too; a pulse keeps its place until it ends. -/
def dropSwr (s : State) (die mask : Nat) : State :=
  let r := rstOf s die
  let cut := fun (h : Nat) => h - (h &&& mask)
  putRst s die { r with
    holds := r.holds.set 7 (cut (r.holds[7]?.getD 0))
    pulses := r.pulses.map (fun p => if p.src = 7 then { p with mask := cut p.mask } else p) }

/-- The effect of SWR_RELEASE. -/
def effectSwrRelease (x : Ctx) (t : State) : Effect :=
  .done (dropSwr t (locDie x.loc) (swrMask x))

/-- SWR_RELEASE, R520, R535. -/
def execSwrRelease (c : Cmd) (s : State) : Out :=
  command s c .resetKs 0x11 (swrChecks true) effectSwrRelease

/-- The effect of SWR_PULSE. -/
def effectSwrPulse (x : Ctx) (t : State) : Effect :=
  .done (assertSource t (locDie x.loc) 8 (swrMask x))

/-- SWR_PULSE, R520, R535. -/
def execSwrPulse (c : Cmd) (s : State) : Out :=
  command s c .resetKs 0x12 (swrChecks true) effectSwrPulse

/-- SWR_PULSE_END, R513: the oldest pulse of a die that has stood for 1 µs ends. -/
def execSwrPulseEnd (die : Nat) (s : State) : Out := .next (endPulse s die 7 1000)

/-- The checks of FORCE_RELEASE. -/
def checksForceRelease (t : State) (x : Ctx) : Checks :=
  { Checks.pass with auth := x.who.ini == 112, idle := pageIdle t x }

/-- The effect of FORCE_RELEASE. -/
def effectForceRelease (x : Ctx) (t : State) : Effect :=
  let die := locDie x.loc
  .done (tryRelease (setRst t die { rstOf t die with forceReq := (rstOf t die).forceReq ||| swrMask x }) die)

/-- FORCE_RELEASE, R521. -/
def execForceRelease (c : Cmd) (s : State) : Out :=
  command s c .resetKs 0x13 checksForceRelease effectForceRelease

/-- RESET_CAUSE_WRITE, R533: writing 0 to a bit clears it, its RC_CTS and its count; writing 1 has no effect. -/
def clearCauses (t : Target) (v : Nat) (s : State) : State :=
  let die := locDie t.loc
  (List.range 8).foldl (fun u k =>
    if bit v k then u
    else
      let u1 := wr (wr u die R.RESET_CAUSE 0 (setBit (rd u die R.RESET_CAUSE 0) k false)) die (R.RC_CTS.nth k) 0 0
      if k = 0 then u1
      else if k ≤ 4 then wr u1 die R.RC_COUNT0 0 (setFld (rd u1 die R.RC_COUNT0 0) (8 * k - 1) (8 * k - 8) 0)
      else wr u1 die R.RC_COUNT1 0 (setFld (rd u1 die R.RC_COUNT1 0) (8 * k - 33) (8 * k - 40) 0)) s

/-- RESET_CAUSE_WRITE, R533. -/
def execResetCauseWrite (a : Access) (s : State) : Out := writeReg (accAt R.RESET_CAUSE a) clearCauses s

/-! ### Option bytes (R524 to R527) -/

/-- A copy of the block checks (R524). -/
def optValid (bs : List Byte) : Bool :=
  bs.take 5 == [0x4B, 0x5A, 0x4F, 0x42, 1] && ofBytesLE ((bs.drop 252).take 4) == crc32 (bs.take 252)

/-- The fields with a range: offset, bytes, whether a value lies in it, and the default (R526, R563). -/
def optRanges : List (Nat × Nat × (Nat → Bool) × Nat) :=
  [(6, 2, fun v => decide (4 ≤ v ∧ v ≤ 10000), 10), (8, 2, fun v => decide (v = 0 ∨ 10 ≤ v ∧ v ≤ 60000), 100),
   (65, 1, fun v => decide (v ≤ 4), 0), (66, 2, fun v => decide (v ≤ 1000), 0), (72, 1, fun v => decide (v ≤ 32), 0),
   (80, 2, fun v => decide (v ≤ 1022), 0)]

/-- The block with every field outside its range taken at its default, and whether any was. -/
def optCheck (bs : List Byte) : List Byte × Bool :=
  optRanges.foldl (fun r e => if e.2.2.1 (optField bs e.1 e.2.1) then r
    else (patch r.1 e.1 (bytesLE e.2.1 e.2.2.2), true)) (bs, false)

/-- A block comes into force on a die (R524, R525, R536): the bytes, the status bits beyond what this die defaults, and
the CRC that the block carries. -/
def takeOptions (s : State) (die : Nat) (bs : List Byte) (status crc : Nat) : State :=
  let k := optCheck bs
  let s1 := (List.range 64).foldl (fun t i => wr t die (R.OPT_BYTES.nth i) 0 (ofBytesLE ((k.1.drop (4 * i)).take 4))) s
  let s2 := wrAll s1 die 0 [(R.OPT_STATUS, status + b2n k.2 * 16), (R.OPT_CRC, crc)]
  optCompare (hwEvent (putRst s2 die { rstOf s2 die with optDone := true }) die .option 0)

/-- OPTION_LOAD, R524: a hub takes copy A, copy B or the fuse defaults. -/
def execOptionLoad (hub : Nat) (s : State) : Out :=
  if isHub hub && domRun s hub 1 && !(rstOf s hub).optDone then
    let a := flashRead (flashOf s hub) 0 256
    let b := flashRead (flashOf s hub) 0x1000 256
    .next (if optValid a then takeOptions s hub a 1 (crc32 (a.take 252))
      else if optValid b then takeOptions s hub b (2 + 4) (crc32 (b.take 252))
      else takeOptions s hub optDefaults (4 + 8) (crc32 (optDefaults.take 252)))
  else .next s

/-- The block in force on a die. -/
def optBlock (s : State) (die : Nat) : List Byte := (List.range 64).flatMap (fun i => bytesLE 4 (rd s die (R.OPT_BYTES.nth i) 0))

/-- OPTION_RECEIVE, R525: a compute die takes the block of the hub that delivers it, hub A's, hub B's where
hub A is absent or has not delivered within 2 ms, or the fuse defaults where neither has after 5 ms. A field that the hub took at its default is one that this die takes at its default. -/
def execOptionReceive (die : Nat) (hub : Option Nat) (s : State) : Out :=
  if !(isHub die) && domRun s die 1 && !(rstOf s die).optDone then
    match hub with
    | some h =>
      if isHub h && present s h && domRun s h 1 && (rstOf s h).optDone &&
          (h == 0 || !(present s 0) || decide ((rstOf s die).optAt + 2000000 ≤ s.now)) then
        .next (takeOptions s die (optBlock s h) (3 + h * 32 + b2n (bit (rd s h R.OPT_STATUS 0) 4) * 16) (rd s h R.OPT_CRC 0))
      else .next s
    | none => .next (if (rstOf s die).optAt + 5000000 ≤ s.now then
        takeOptions s die optDefaults 0 (crc32 (optDefaults.take 252)) else s)
  else .next s

/-! ### The fuse pin map (R528, R530) -/

/-- The nibble of a ball. -/
def fuseNibble (s : State) (hub ball : Nat) : Nat :=
  fld (rd s hub (R.PM_FUSES.nth (ball / 8)) 0) (4 * (ball % 8) + 3) (4 * (ball % 8))

/-- The checks of PIN_FUSE. -/
def checksPinFuse (t : State) (x : Ctx) : Checks :=
  let v := rd t x.loc R.PM_STAGE 0
  { Checks.pass with
    argOk := isHub (locDie x.loc) && decide (v % 64 ≤ 23 ∧ fld v 10 8 ≤ 5)
    auth := isMech x.who.ini && vaultState t x.loc == 1, idle := pageIdle t x
    legal := !(bit (fuseNibble t x.loc (v % 64)) 3) }

/-- The effect of PIN_FUSE. -/
def effectPinFuse (x : Ctx) (t : State) : Effect :=
  .accepted (setRst t x.loc { rstOf t x.loc with pinFuse := rd t x.loc R.PM_STAGE 0 })

/-- PIN_FUSE, R530. -/
def execPinFuse (c : Cmd) (s : State) : Out :=
  command s c .option 0x10 checksPinFuse effectPinFuse

/-- PIN_FUSE_DONE, R530: the new code is in force. -/
def execPinFuseDone (hub : Nat) (s : State) : Out :=
  match runningOp s hub .option 0x10 with
  | none => .next s
  | some t =>
    let v := (rstOf s hub).pinFuse
    let r := R.PM_FUSES.nth (v % 64 / 8)
    let k := 4 * (v % 8)
    let s1 := wr s hub r 0 (setFld (rd s hub r 0) (k + 3) k (fld v 10 8 + 8))
    .next (finish (refreshAll s1) hub .option t .done 0)

end Sys2Proof.Machine
end

