-- ==== Sys2Proof/Machine/Mechanic.lean ====
section
/-!
DEFINITION. Sys2Proof/Machine/Mechanic.lean: boot flash, boot, the lead lease, die power and the update commands
(R537 to R546, R553 to R562, R565, R566).
-/
namespace Sys2Proof.Machine

/-! ### XSPI_BOOT (R537) -/

/-- Size of the boot flash by XB_CFG. -/
def xbSize (s : State) (hub : Nat) : Nat := 2 ^ within 20 28 (fld (rd s hub R.XB_CFG 0) 12 8)

/-- The range that a command names lies in the device and in the buffer. -/
def xbRange (s : State) (hub : Nat) : Bool :=
  let n := rd s hub R.XB_LEN 0 % 2048
  decide (1 ≤ n ∧ n ≤ 1024 ∧ rd s hub R.XB_ADDR 0 % 2 ^ 28 + n ≤ xbSize s hub)

/-- The flash serves the page: no command runs, and neither loader uses it. -/
def xbIdle (s : State) (x : Ctx) : Bool := pageIdle s x && (rstOf s x.loc).loading == 0 && (rstOf s x.loc).optDone

/-- A range touches the booted slot or a selector copy (R553). -/
def xbGuarded (s : State) (hub a n : Nat) : Bool :=
  decide (a < 0x6000 ∧ 0x4000 < a + n) || (bootVerified s hub && touchesSlot (bootedSlot s hub) a n)

/-- An operation begins with its range and the bytes of XB_BUF. -/
def xbBegin (hub : Nat) (s : State) : State :=
  let f := flashOf s hub
  let n := rd s hub R.XB_LEN 0 % 2048
  let buf := (List.range 256).flatMap (fun k => bytesLE 4 (rd s hub (R.XB_BUF.nth k) 0))
  let s1 := setFlash s hub { f with addr := rd s hub R.XB_ADDR 0 % 2 ^ 28, len := n, data := buf.take n, begunAt := s.now }
  wr s1 hub R.XB_STATUS 0 (setFld (rd s1 hub R.XB_STATUS 0) 1 0 2)

/-- The checks of XB_READ. -/
def checksXbRead (t : State) (x : Ctx) : Checks :=
  { Checks.pass with argOk := xbRange t x.loc, idle := xbIdle t x }

/-- The effect of XB_READ. -/
def effectXbRead (x : Ctx) (t : State) : Effect :=
  .accepted (xbBegin x.loc t)

/-- XB_READ, R537. -/
def execXbRead (c : Cmd) (s : State) : Out :=
  command s c .xspiBoot 0x10 checksXbRead effectXbRead

/-- The checks of XB_PROGRAM. -/
def checksXbProgram (t : State) (x : Ctx) : Checks :=
  { Checks.pass with
    argOk := xbRange t x.loc
    auth := !(xbGuarded t x.loc (rd t x.loc R.XB_ADDR 0 % 2 ^ 28) (rd t x.loc R.XB_LEN 0 % 2048)), idle := xbIdle t x }

/-- The effect of XB_PROGRAM. -/
def effectXbProgram (x : Ctx) (t : State) : Effect :=
  .accepted (xbBegin x.loc t)

/-- XB_PROGRAM, R537, R553. -/
def execXbProgram (c : Cmd) (s : State) : Out :=
  command s c .xspiBoot 0x11 checksXbProgram effectXbProgram

/-- The checks of XB_ERASE. -/
def checksXbErase (t : State) (x : Ctx) : Checks :=
  let a := rd t x.loc R.XB_ADDR 0 % 2 ^ 28
  let n := rd t x.loc R.XB_LEN 0 % 2048
  { Checks.pass with
    argOk := decide (n ≤ 1024 ∧ a < xbSize t x.loc ∧ a + n ≤ xbSize t x.loc)
    auth := !(xbGuarded t x.loc (a / 4096 * 4096) 4096), idle := xbIdle t x }

/-- The effect of XB_ERASE. -/
def effectXbErase (x : Ctx) (t : State) : Effect :=
  .accepted (xbBegin x.loc t)

/-- XB_ERASE, R537, R553: the 4 KiB sector that holds XB_ADDR. -/
def execXbErase (c : Cmd) (s : State) : Out :=
  command s c .xspiBoot 0x12 checksXbErase effectXbErase

/-- A program or erase has run out: 50 ms or 2 s (R537). -/
def xbLate (s : State) (hub : Nat) (t : Ticket) : Bool :=
  t.op != 0x10 && decide ((flashOf s hub).begunAt + (if t.op = 0x11 then 50000000 else 2000000000) < s.now)

/-- What a program or erase that failed leaves in its range. -/
def xbSpoil (s : State) (hub : Nat) (t : Ticket) : State :=
  let f := flashOf s hub
  if t.op = 0x11 then setFlash { s with free := s.free + f.len } hub (flashUnknown f.addr f.len s.free f)
  else setFlash { s with free := s.free + 4096 } hub (flashUnknown (f.addr / 4096 * 4096) 4096 s.free f)

/-- XB_OPERATION_DONE, R537: a read, program or erase ends; a program or erase that failed, or has run out, ends with
TIMEOUT and a record. -/
def execXbOperationDone (hub : Nat) (ok : Bool) (s : State) : Out :=
  match (hdr s hub .xspiBoot).running with
  | [] => .next s
  | t :: _ =>
    let f := flashOf s hub
    let good := (ok && !(xbLate s hub t)) || t.op == 0x10
    let s1 := wr (if good then s else xbSpoil s hub t) hub R.XB_STATUS 0 (1 + b2n (!good) * 4)
    if !good then
      let st := pageStamp s1 hub hub .xspiBoot 0
      let s2 := record (incr (tickPage s1 hub .xspiBoot) hub R.XB_ERRORS 0 1) hub hub .xspiBoot st (pagePlane .xspiBoot) 0x23 false 0
        [f.addr]
      .next (finish s2 hub .xspiBoot t .timeout 0)
    else
      let s2 := match t.op with
        | 0x10 =>
          let bs := flashRead f f.addr f.len
          let old := (List.range 256).flatMap (fun k => bytesLE 4 (rd s1 hub (R.XB_BUF.nth k) 0))
          let all := bs ++ old.drop bs.length
          (List.range 256).foldl (fun u k => wr u hub (R.XB_BUF.nth k) 0 (ofBytesLE ((all.drop (4 * k)).take 4))) s1
        | 0x11 => updTouched (setFlash s1 hub (flashProgram f.addr f.data f)) hub f.addr f.len
        | _ => updTouched (setFlash s1 hub (flashErase f.addr f)) hub (f.addr / 4096 * 4096) 4096
      .next (finish s2 hub .xspiBoot t .done 0)

/-! ### Images (R553 to R556) -/

/-- A component of a slot's header (R554). -/
structure Component where
  type : Nat
  off : Nat
  len : Nat
  version : Nat
  hash : List Byte
  deriving DecidableEq, Repr

/-- A little-endian field of a slot's header. -/
def imgField (f : BootFlash) (slot off n : Nat) : Nat := ofBytesLE (flashRead f (slotBase slot + off) n)

/-- The components of a slot. -/
def components (f : BootFlash) (slot : Nat) : List Component :=
  (List.range (imgField f slot 6 2)).map (fun i =>
    let o := 32 + 64 * i
    ⟨imgField f slot o 1, imgField f slot (o + 4) 4, imgField f slot (o + 8) 4, imgField f slot (o + 12) 4,
      flashRead f (slotBase slot + o + 16) 48⟩)

/-- The bytes of a component. -/
def compBytes (f : BootFlash) (slot : Nat) (c : Component) : List Byte := flashRead f (slotBase slot + c.off) c.len

/-- The component of a type. -/
def compOf (f : BootFlash) (slot type : Nat) : Option Component := (components f slot).find? (fun c => c.type == type)

/-- The bit of the device's variant in byte 5 of a header. -/
def variantBit (s : State) : Nat :=
  match s.variant with
  | .kz8 => 0
  | .kz4 => 1
  | .kz2 => 2

/-- The trailer of a firmware component checks (R554, R555). -/
def trailerOk (bs : List Byte) : Bool :=
  let n := bs.length - 192
  let key := (bs.drop n).take 96
  decide (192 ≤ bs.length) && decide (Config.sha384 key = Config.vendorAuth) &&
    Config.ecdsaVerify key (Config.sha384 (bs.take n)) ((bs.drop (n + 96)).take 96)

/-- Why a slot is not valid (R555), by the codes of MC_UPD_STATE [6:4]; 0 for a valid slot. -/
def slotFailure (s : State) (hub slot : Nat) : Nat :=
  let f := flashOf s hub
  let b := slotBase slot
  let n := imgField f slot 6 2
  let svn := imgField f slot 12 4
  if !(decide (flashRead f b 5 = [0x4B, 0x5A, 0x49, 0x4D, 1]) && bit (imgField f slot 5 1) (variantBit s) && decide (1 ≤ n ∧ n ≤ 8)) then 1
  else if svn < rd s hub R.MC_ROLLBACK 0 % 256 ∨ 255 < svn then 2
  else if !((components f slot).all (fun c => decide (c.off + c.len ≤ 0x400000) && decide (Config.sha384 (compBytes f slot c) = c.hash))) then 3
  else if !((components f slot).all (fun c => decide (c.type < 1 ∨ 3 < c.type) || trailerOk (compBytes f slot c))) then 4
  else match f.updateAuth with
    | none => 0
    | some h =>
      let key := flashRead f (b + 1024) 96
      if decide (Config.sha384 key = h) && Config.ecdsaVerify key (Config.sha384 (flashRead f b 1024)) (flashRead f (b + 1120) 96) then 0 else 5

/-- A boot selector: sequence, active slot, trial slot (0 none, 1 A, 2 B), and trial boots left (R556). -/
structure Selector where
  seq : Nat
  active : Nat
  trial : Nat
  left : Nat
  deriving DecidableEq, Repr

/-- A selector copy, where it is valid. -/
def selectorAt (f : BootFlash) (a : Nat) : Option Selector :=
  let bs := flashRead f a 16
  if bs.take 4 == [0x4B, 0x5A, 0x42, 0x53] && ofBytesLE (bs.drop 12) == crc32 (bs.take 12) then
    some ⟨optField bs 4 4, optField bs 8 1 % 2, optField bs 9 1 % 4, optField bs 10 1 % 4⟩
  else none

/-- The selector in force: the valid copy with the higher sequence, or slot A as active (R556). -/
def selectorOf (f : BootFlash) : Selector :=
  match selectorAt f 0x4000, selectorAt f 0x5000 with
  | some a, some b => if a.seq < b.seq then b else a
  | some a, none => a
  | none, some b => b
  | none, none => ⟨0, 0, 0, 0⟩

/-- A selector write replaces the copy with the lower sequence (R556). -/
def putSelector (s : State) (hub active trial left : Nat) : State :=
  let f := flashOf s hub
  let at_ := match selectorAt f 0x4000, selectorAt f 0x5000 with
    | some a, some b => if a.seq < b.seq then 0x4000 else 0x5000
    | some _, none => 0x5000
    | none, _ => 0x4000
  let body := [0x4B, 0x5A, 0x42, 0x53] ++ bytesLE 4 ((selectorOf f).seq + 1) ++ bytesLE 1 active ++ bytesLE 1 trial ++ bytesLE 1 left ++ [0]
  setFlash s hub (flashProgram at_ (body ++ bytesLE 4 (crc32 body)) (flashErase at_ f))

/-! ### The management log in flash (R562) -/

/-- The ring of the log (R553). -/
def logFirst : Nat := 0x900000
def logEnd : Nat := 0x1000000

/-- The entry after an address of the ring. -/
def logNext (a : Nat) : Nat := if a + 64 < logEnd then a + 64 else logFirst

/-- The valid entries in flash: address and sequence. -/
def logEntries (f : BootFlash) : List (Nat × Nat) :=
  let places := ((f.cells.filter (fun c => decide (logFirst ≤ c.1 ∧ c.1 < logEnd))).map (fun c => c.1 / 64)).eraseDups
  (places.map (fun p => (p * 64, flashRead f (p * 64) 64))).filterMap (fun e =>
    if ofBytesLE (e.2.drop 60) == crc32 (e.2.take 60) then some (e.1, optField e.2 12 4) else none)

/-- At boot the core finds the head from the highest sequence whose CRC checks (R562). -/
def findLog (s : State) (hub : Nat) : State :=
  let top := (logEntries (flashOf s hub)).foldl (fun (m : Option (Nat × Nat)) e => match m with
    | some x => if x.2 < e.2 then some e else m
    | none => some e) none
  match top with
  | some e => wrAll s hub 0 [(R.MC_LOG_HEAD, logNext e.1), (R.MC_LOG_SEQ, e.2)]
  | none => wrAll s hub 0 [(R.MC_LOG_HEAD, logFirst), (R.MC_LOG_SEQ, 0)]

/-- LOG_ENTRY_PROGRAM, R562: the oldest entry at or above LOG_MIN goes into the ring, with one erased sector kept ahead of
the head. -/
def execLogEntryProgram (hub : Nat) (s : State) : Out :=
  if isHub hub && domRun s hub 4 && (mechOf s hub).runs then
    match (logOfHub s hub).dropWhile (fun e => decide (e.severity < optByte s hub 65)) with
    | [] => .next { s with mgmtLogs := mput hub [] s.mgmtLogs }
    | e :: rest =>
      let seq := (rd s hub R.MC_LOG_SEQ 0 + 1) % 2 ^ 32
      let head := rd s hub R.MC_LOG_HEAD 0
      let body := bytesLE 8 e.cts ++ bytesLE 4 e.order ++ bytesLE 4 seq ++ bytesLE 1 e.severity ++ bytesLE 1 e.die ++ bytesLE 2 e.code ++ e.payload
      let next := logNext head
      let f1 := flashProgram head (body ++ bytesLE 4 (crc32 body)) (flashOf s hub)
      let ahead := if next / 4096 * 4096 + 4096 < logEnd then next / 4096 * 4096 + 4096 else logFirst
      let f2 := if next % 4096 = 0 then flashErase ahead f1 else f1
      let s1 := setFlash { s with mgmtLogs := mput hub rest s.mgmtLogs } hub f2
      .next (wrAll s1 hub 0 [(R.MC_LOG_HEAD, next), (R.MC_LOG_SEQ, seq)])
  else .next s

/-! ### Boot (R540, R556, R558) -/

/-- MC_BOOT (R565). -/
def bootWord (slot : Nat) (trial verified fell : Bool) (cause version : Nat) : Nat :=
  slot + b2n trial * 2 + b2n verified * 4 + b2n fell * 8 + cause * 16 + version % 65536 * 65536

/-- A measurement register is written and locked, unless it has been since POR (R502, R558). -/
def measure (hub : Nat) (s : State) (e : Nat × List Byte) : State :=
  let v := vaultOf s hub
  if v.measLocked.contains e.1 || !(domRun s hub 3) then s
  else
    let d := fitBytes 48 (Config.sha384 e.2)
    let s1 := (List.range 12).foldl (fun t k => wr t hub (R.VT_MEAS0_2.nth (12 * e.1 + k)) 0 (ofBytesLE ((d.drop (4 * k)).take 4))) s
    putVault s1 hub { v with measLocked := e.1 :: v.measLocked }

/-- The measurements of a hub's boot (R558). -/
def measureBoot (s : State) (hub slot : Nat) : State :=
  let f := flashOf s hub
  [(0, flashRead f (slotBase slot) 1216), (1, optBlock s hub), (2, flashRead f 0x2000 0x2000)].foldl (measure hub) s

/-- A core with no valid component halts (R540). -/
def haltCore (s : State) (die cause : Nat) : State := wr s die R.MC_BOOT 0 (bootWord 0 false false false cause 0)

/-- A core starts on its component (R540). -/
def startCore (s : State) (die : Nat) (trial : Bool) (word : Nat) : State :=
  pushLog (setMech (wr s die R.MC_BOOT 0 word) die
    { mechOf s die with runs := true, fresh := false, trialFw := trial, from_ := none }) die 1 5 [rd s die R.RESET_CAUSE 0]

/-- The boot ROM of a hub (R540, R556, R558). -/
def bootHub (s : State) (hub : Nat) : State :=
  let f := flashOf s hub
  match (mechOf s hub).from_ with
  | some slot =>
    let old := rd s hub R.MC_BOOT 0
    match compOf f slot 1 with
    | some c => startCore s hub (slot != old % 2) (bootWord (old % 2) (slot != old % 2 || bit old 1) true (bit old 3) 0 c.version)
    | none => haltCore s hub 2
  | none =>
    let sel := selectorOf f
    let trial := (mechOf s hub).fresh && sel.trial != 0 && sel.left != 0
    let want := if trial then (sel.trial - 1) % 2 else sel.active
    let s1 := if trial then putSelector s hub sel.active sel.trial (sel.left - 1) else s
    let good := slotFailure s hub want = 0
    let slot := if good then want else 1 - want
    if !good && slotFailure s hub slot != 0 then haltCore s1 hub 1
    else
      let s2 := findLog (measureBoot s1 hub slot) hub
      let s3 := if sel.trial = 0 then s2 else setUpd (putUpdState s2 hub 4) hub { updOf s2 hub with slot := (sel.trial - 1) % 2 }
      match compOf f slot 1 with
      | some c => startCore s3 hub (trial && good) (bootWord slot (trial && good) true (!good) 0 c.version)
      | none => wr s3 hub R.MC_BOOT 0 (bootWord slot (trial && good) true (!good) 2 0)

/-- The hub from whose slot an agent takes its component: hub A, or hub B where hub A gives no answer (R540). -/
def agentHub (s : State) (die : Nat) : Option Nat := (hubs s).find? (fun h => bootVerified s h && lineReach s die h)

/-- A compute die's agent starts on its component, checked against the verified header (R540). It waits 2 ms for the answer
of hub A. -/
def bootAgent (s : State) (die : Nat) : State :=
  let waited := decide ((mechOf s die).released + 2000000 ≤ s.now)
  match agentHub s die with
  | none => if waited then haltCore s die 1 else s
  | some h =>
    if h = 1 ∧ present s 0 ∧ !waited then s else
    let f := flashOf s h
    let slot := (mechOf s die).from_.getD (bootedSlot s h)
    match compOf f slot 2 with
    | none => haltCore s die 1
    | some c =>
      let trial := slot != bootedSlot s h || bit (rd s h R.MC_BOOT 0) 1
      if Config.sha384 (compBytes f slot c) = c.hash then
        startCore s die (slot != bootedSlot s h) (bootWord slot trial true false 0 c.version)
      else wr s die R.MC_BOOT 0 (bootWord slot trial false false 2 0)

/-- MECHANIC_BOOT, R540, R556, R558: a core that does not run, and has not halted, starts. -/
def execMechanicBoot (die : Nat) (s : State) : Out :=
  if domRun s die 4 && !(mechOf s die).runs && fld (rd s die R.MC_BOOT 0) 7 4 == 0 then
    .next (if isHub die then bootHub s die else bootAgent s die)
  else .next s

/-! ### Restarts of cores (R560, R566) -/

/-- A core stops and starts again from a slot; sensors, the voltage loop and the port keep running (R566). -/
def restartCore (s : State) (die slot : Nat) : State :=
  let s1 := wr s die R.MC_BOOT 0 (setFld (rd s die R.MC_BOOT 0) 7 4 0)
  refreshLease (setMech s1 die { mechOf s1 die with runs := false, candAt := none, from_ := some slot })

/-- The slot from which a core restarts in an update: the trial slot while its hub's update names one. -/
def updSlot (s : State) (die : Nat) : Nat :=
  let h := if isHub die then die else (agentHub s die).getD 0
  if updState s h = 3 ∨ (updState s h = 4 ∧ !(updOf s h).aborting) then (updOf s h).slot else bootedSlot s h

/-- The next core of an update restarts; before the lead does, the first restarted candidate takes the lease (R560). -/
def restartNext (s : State) (hub : Nat) : State :=
  match (updOf s hub).restarts with
  | [] => s
  | d :: _ =>
    let s1 := match deciderOf s d with
      | some h =>
        if (leaseOf s h).lead == some d then
          match ([7, 6, 5, 4, 3, 2, 1, 0].takeWhile (fun e => e != d)).find? (fun e => leaseReach s h e && candidate s e) with
          | some e => grantLease s h (some e)
          | none => s
        else s
      | none => s
    restartCore s1 d (updSlot s1 d)

/-- A restarted core is a candidate again: the update goes on to its next core (R560). -/
def restartStep (die : Nat) (s : State) (hub : Nat) : State :=
  let u := updOf s hub
  match u.restarts with
  | d :: rest => if d = die then restartNext (setUpd s hub { u with restarts := rest }) hub else s
  | [] => s

/-- The cores that an update restarts, in the order of R560. -/
def restartOrder (s : State) (p : Nat → Bool) : List Nat := [7, 6, 5, 4, 3, 2, 1, 0].filter (fun d => domRun s d 4 && p d)

/-! ### The lead lease (R543 to R545) -/

/-- A write of MC_RENEW (R544). -/
def renewLease (w : Who) (t : Target) (_ : Nat) (s : State) : State :=
  let die := locDie t.loc
  if isLead s t.loc w then
    match deciderOf s die with
    | some h =>
      let l := leaseOf s h
      if l.lead == some (w.ini - 96) then
        let s1 := setLease s h { l with expiry := leaseEnd s h, at_ := s.now }
        let s2 := (hubs s1).foldl (fun u g => setLease u g { leaseOf u g with wdo := !(leaseOf u g).wdo }) s1
        sendLease s2 h
      else incr s die R.MC_RENEW_DENIED 0 1
    | none => s
  else incr s die R.MC_RENEW_DENIED 0 1

/-- MC_RENEW_WRITE, R544. -/
def execMcRenewWrite (a : Access) (s : State) : Out := writeReg (accAt R.MC_RENEW a) (renewLease a.who) s

/-- A write of MC_CAND (R543): a lease without a lead goes to the first core that becomes a candidate (R545). -/
def refreshCand (w : Who) (t : Target) (_ : Nat) (s : State) : State :=
  let die := locDie t.loc
  if w.ini == 96 + die then
    let s1 := refreshLease (setMech s die { mechOf s die with candAt := some s.now })
    let s2 := match deciderOf s1 die with
      | some h => if (leaseOf s1 h).granted && (leaseOf s1 h).lead.isNone && candidate s1 die then grantLease s1 h (some die) else s1
      | none => s1
    (hubs s2).foldl (restartStep die) s2
  else s

/-- MC_CAND_WRITE, R543. -/
def execMcCandWrite (a : Access) (s : State) : Out := writeReg (accAt R.MC_CAND a) (refreshCand a.who) s

/-- CANDIDACY_LAPSE, R543: no MC_CAND write for 2 ms. -/
def execCandidacyLapse (die : Nat) (s : State) : Out :=
  match (mechOf s die).candAt with
  | some t => .next (if t + 2000000 < s.now then refreshLease (setMech s die { mechOf s die with candAt := none }) else s)
  | none => .next s

/-- The deciding hub grants now (R545): 2 ms after its MECH release for the first grant since POR, at expiry otherwise. -/
def grantDue (s : State) (hub : Nat) : Bool :=
  let l := leaseOf s hub
  decides s hub &&
    (if l.granted then l.lead.isSome && decide (l.at_ + 10000000 ≤ s.now)
     else domRun s hub 4 && decide ((mechOf s hub).released + 2000000 ≤ s.now))

/-- LEAD_LEASE_EXPIRY, R545. -/
def execLeadLeaseExpiry (hub : Nat) (s : State) : Out :=
  .next (if isHub hub && grantDue s hub then grantLease s hub (candidates s hub).head? else s)

/-- A command that only the lead may give. -/
def leadChecks (arg legal : Bool) (t : State) (x : Ctx) : Checks :=
  { Checks.pass with argOk := arg, auth := isLead t x.loc x.who, idle := pageIdle t x, legal := legal }

/-- The checks of MC_YIELD. -/
def checksMcYield (t : State) (x : Ctx) : Checks :=
  leadChecks (present t (x.argument % 8)) (candidate t (x.argument % 8)) t x

/-- The effect of MC_YIELD. -/
def effectMcYield (x : Ctx) (t : State) : Effect :=
  .done (match deciderOf t (locDie x.loc) with
    | some h => grantLease t h (some (x.argument % 8))
    | none => t)

/-- MC_YIELD, R545, R566. -/
def execMcYield (c : Cmd) (s : State) : Out :=
  command s c .mechanic 0x10 checksMcYield effectMcYield

/-- The checks of MC_RESTART. -/
def checksMcRestart (t : State) (x : Ctx) : Checks :=
  let d := x.argument % 8
  { leadChecks (present t d) true t x with auth := isLead t x.loc x.who || x.who.ini == 96 + d }

/-- The effect of MC_RESTART. -/
def effectMcRestart (x : Ctx) (t : State) : Effect :=
  let d := x.argument % 8
  .done (if domRun t d 4 then restartCore t d (bootedSlot t (if isHub d then d else (agentHub t d).getD 0)) else t)

/-- MC_RESTART, R566. -/
def execMcRestart (c : Cmd) (s : State) : Out :=
  command s c .mechanic 0x11 checksMcRestart effectMcRestart

/-- The checks of AUTH_LOAD. -/
def checksMcAuthLoad (t : State) (x : Ctx) : Checks :=
  leadChecks (isHub (locDie x.loc)) (flashOf t x.loc).updateAuth.isNone t x

/-- The effect of AUTH_LOAD. -/
def effectMcAuthLoad (x : Ctx) (t : State) : Effect :=
  let h := (List.range 12).flatMap (fun k => bytesLE 4 (rd t x.loc (R.MC_BUF.nth k) 0))
  .done (setFlash t x.loc { flashOf t x.loc with updateAuth := some h })

/-- AUTH_LOAD, R555, R566: UPDATE_AUTH is written once, on a hub. -/
def execMcAuthLoad (c : Cmd) (s : State) : Out :=
  command s c .mechanic 0x12 checksMcAuthLoad effectMcAuthLoad

/-! ### Die power (R566) -/

/-- A compute die may be powered off: no VI homed there is other than ABSENT, its Crank is EMPTY, and it is not the last
compute die in service. -/
def mayPowerOff (s : State) (hub die : Nat) : Bool :=
  (List.range 256).all (fun v => rd s die R.VI_STATE v % 8 == 0) && (crOf s die).state == 0 &&
  !((computeDies s).filter (inService s hub) == [die])

/-- The checks of DIE_POWER. -/
def checksDiePower (t : State) (x : Ctx) : Checks :=
  let d := x.argument
  let hub := if isHub (locDie x.loc) then locDie x.loc else (deciderOf t (locDie x.loc)).getD 0
  leadChecks (decide (2 ≤ d) && present t d) (bit x.sub 0 || mayPowerOff t hub d) t x

/-- The effect of DIE_POWER. -/
def effectDiePower (x : Ctx) (t : State) : Effect :=
  let d := x.argument
  let s1 := setRst t d { rstOf t d with poweredOff := !(bit x.sub 0) }
  .accepted (if bit x.sub 0 then s1 else assertSource (loseSram s1 d) d 1 allDomains)

/-- DIE_POWER, R566: off asserts BOR on the die, on lets BOR release. -/
def execDiePower (c : Cmd) (s : State) : Out :=
  command s c .mechanic 0x13 checksDiePower effectDiePower

/-- DIE_POWER_DONE, R566: the command of a die's page ends; a power-on has ended once BOR has released. -/
def execDiePowerDone (die : Nat) (s : State) : Out :=
  match runningOp s die .mechanic 0x13 with
  | none => .next s
  | some t =>
    if bit t.sub 0 && decide ((rstOf s t.argument).holds[1]?.getD 0 ≠ 0) then .next s
    else .next (hwEvent (finish s die .mechanic t .done 0) die .mechanic 3)

/-! ### Update commands (R559 to R561) -/

/-- Authority, page and state of an UPD opcode (R566). -/
def updChecks (states : List Nat) (t : State) (x : Ctx) : Checks :=
  leadChecks (isHub (locDie x.loc)) (states.contains (updState t x.loc)) t x

/-- The effect of UPD_VERIFY. -/
def effectUpdVerify (x : Ctx) (t : State) : Effect :=
  .accepted (putUpdState t x.loc 1)

/-- UPD_VERIFY, R559. -/
def execUpdVerify (c : Cmd) (s : State) : Out :=
  command s c .mechanic 0x20 (updChecks [0, 2]) effectUpdVerify

/-- The effect of UPD_ACTIVATE. -/
def effectUpdActivate (x : Ctx) (t : State) : Effect :=
  let hub := x.loc
  let s1 := putSelector (putUpdState t hub 3) hub (selectorOf (flashOf t hub)).active ((updOf t hub).slot + 1) 1
  let order := if bit x.sub 0 then restartOrder s1 (fun _ => true) else []
  .accepted (restartNext (setUpd s1 hub { updOf s1 hub with restarts := order, aborting := false }) hub)

/-- UPD_ACTIVATE, R559, R560: the selector takes the verified slot as trial; the cores restart one at a time. -/
def execUpdActivate (c : Cmd) (s : State) : Out :=
  command s c .mechanic 0x21 (updChecks [2]) effectUpdActivate

/-- The effect of UPD_COMMIT. -/
def effectUpdCommit (_ : Ctx) (t : State) : Effect :=
  .accepted t

/-- UPD_COMMIT, R557, R559. -/
def execUpdCommit (c : Cmd) (s : State) : Out :=
  command s c .mechanic 0x22 (updChecks [4]) effectUpdCommit

/-- The effect of UPD_ABORT. -/
def effectUpdAbort (x : Ctx) (t : State) : Effect :=
  let hub := x.loc
  let s1 := putSelector t hub (selectorOf (flashOf t hub)).active 0 0
  let order := restartOrder s1 (fun d => (mechOf s1 d).trialFw)
  .accepted (restartNext (setUpd s1 hub { updOf s1 hub with restarts := order, aborting := true }) hub)

/-- UPD_ABORT, R560: the trial is cleared, and every core that runs trial firmware restarts. -/
def execUpdAbort (c : Cmd) (s : State) : Out :=
  command s c .mechanic 0x23 (updChecks [4]) effectUpdAbort

/-- The checks of McClearCounters. -/
def checksMcClearCounters (t : State) (x : Ctx) : Checks :=
  { Checks.pass with auth := fromMech x.who, idle := pageIdle t x }

/-- The effect of McClearCounters. -/
def effectMcClearCounters (x : Ctx) (t : State) : Effect :=
  .done (clearRegs t x.loc 0 [R.MC_RENEW_DENIED, R.MC_LOG_LOST])

/-- The counters of MECHANIC (R565). -/
def execMcClearCounters (c : Cmd) (s : State) : Out :=
  command s c .mechanic 0x30 checksMcClearCounters effectMcClearCounters

end Sys2Proof.Machine
end

