-- ==== Sys2Proof/Machine/Live.lean ====
section
/-!
DEFINITION. Sys2Proof/Machine/Live.lean: what a register reads, where it shows the state of an engine and not a value of
its own (R51, R60, R74, R94, R120, R155, R218 to R222, R253 to R257, R297 to R305, R328, R336, R345, R392, R435, R506,
R533 to R537, R549, R565, R586, R595).
-/
namespace Sys2Proof.Machine

/-! ### Time -/

/-- TIME_BASE and TIME_COUNTER (R94, R113). -/
def liveTime (s : State) (t : Target) : Option Nat :=
  if t.reg = R.TIME_BASE_CTS_NOW ∨ t.reg = R.TIME_COUNTER_CTS_NOW then some (ctsNow s t.loc)
  else if t.reg = R.HOLD_TIME then
    some (if (tb s t.loc).state = .holdover then min ((s.now - (tb s t.loc).holdSince) / 1000000000) (2 ^ 32 - 1) else 0)
  else if t.reg = R.SV_STATE then
    some (setFld (readT s t) 1 0 (b2n (inputValid s t.loc t.inst) + 2 * b2n ((tb s t.loc).selected == some t.inst)))
  else none

/-- TIME_AGENT (R103): whether the agent runs, and whether it is grandmaster. -/
def liveAgent (s : State) (t : Target) : Option Nat :=
  if t.reg = R.AG_STATUS then
    some (setBit (setBit (readT s t) 0 (bit (rd s t.loc R.AG_CTRL 0) 0)) 7 (tb s t.loc).gm)
  else none

/-- TIMER_VIEW (R120). -/
def liveTimerView (s : State) (ch : Option (Nat × Nat)) (t : Target) : Option Nat :=
  if t.reg = R.TV_CTS_NOW then some (match masterHub s with | some h => ctsNow s h | none => 0)
  else if t.reg = R.TV_TIME then
    some (match masterHub s with
      | some h => (tb s h).state.code + b2n (ctr s h).valid * 8 + b2n (decide ((tb s h).state = .locked)) * 16 + h * 256
      | none => 0)
  else if t.reg = R.TV_UTC_OFFSET then some (match masterHub s with | some h => rd s h R.UTC_OFFSET 0 | none => 37)
  else if t.reg = R.TV_CHOSEN then some (match ch with | some c => c.2 + c.1 * 16 | none => 0)
  else none

/-! ### Egress -/

/-- Tokens of a VI's bucket at a hub in whole bytes (R335). -/
def tokensAt (s : State) (hub v : Nat) : Nat := if domRun s hub 7 then mget 0 (swOf s hub).tokens v / 65536 else 0

/-- Sends of a VI that wait at P13 of a hub (R153). -/
def waitingAt (s : State) (hub v : Nat) : Nat := ((swOf s hub).waiting.filter (fun x => x.vi == v)).length

/-- EGRESS_VIEW (R155). -/
def liveEgress (s : State) (v : Nat) (ch : Option (Nat × Nat)) (t : Target) : Option Nat :=
  let e := match ch with | some c => tblGet (swOf s c.1) 9 c.2 | none => ⟨0, 0, 0, 0⟩
  if t.reg = R.EGV_ENTRY then some (match ch with | some c => c.2 | none => 0)
  else if t.reg = R.EGV_CFG then
    some (match ch with
      | some c => fld e.d0 10 8 + b2n (bit e.d0 11) * 8 + b2n (bit e.d0 12) * 16 + b2n (!(gateOpen s c.1)) * 32
      | none => 0)
  else if t.reg = R.EGV_RELEASED then some e.d1
  else if t.reg = R.EGV_DENIED then some e.d2
  else if t.reg = R.EGV_MISS then some e.d3
  else if t.reg = R.EG_RATE then some (egRate s v)
  else if t.reg = R.EG_BURST then some (egBurst s v)
  else if t.reg = R.EGRESS_VIEW_EG_TOKENS_A then some (tokensAt s 0 v)
  else if t.reg = R.EGRESS_VIEW_EG_TOKENS_B then some (tokensAt s 1 v)
  else if t.reg = R.EG_WAITING then some (min 65535 (waitingAt s 0 v) + min 65535 (waitingAt s 1 v) * 65536)
  else none

/-! ### Ingest, filters and detectors -/

/-- ST_STATE of a stream at a hub (R219). -/
def stState (s : State) (hub i : Nat) : Nat :=
  match streamOf s hub i with
  | some e => rd s hub R.ST_STATE i % 4 + b2n (decide (e.home = hub)) * 4 + b2n (warmHere s hub i) * 8 +
      ((e.dests.zipIdx.map (fun d => b2n d.1.faulted * 2 ^ (4 + d.2))).sum)
  | none => rd s hub R.ST_STATE i % 4

/-- A destination of a stream names a VI (R222). -/
def destOfVi (s : State) (hub i n v : Nat) : Option Dest :=
  match streamOf s hub i with
  | some e => match e.dests[n]? with
    | some d => if bit d.cfg 0 && fld d.cfg 15 8 == v then some d else none
    | none => none
  | none => none

/-- SV_INGEST and SAMPLE_VIEW (R218, R219, R222). -/
def liveIngest (s : State) (view : Option Nat) (t : Target) : Option Nat :=
  if t.reg = R.IN_SLOTS_USED then some (slotsUsed s t.loc none)
  else if t.reg = R.IN_STREAMS_ON then some (s.streams.filter (fun e => e.1 / 1024 == t.loc)).length
  else if t.reg = R.IN_AUTH_MODE then some (b2n (vaultState s t.loc == 0) + b2n (sealedDrop s t.loc) * 2)
  else if t.reg = R.ST_STATE then some (stState s t.loc t.inst)
  else match view with
    | none => none
    | some v =>
      if 0x170 ≤ t.reg.off ∧ t.reg.off < 0x1B0 then
        some (match destOfVi s t.loc t.inst ((t.reg.off - 0x170) / 16) v with
          | some d => if (t.reg.off - 0x170) % 16 = 0 then d.cfg else d.base
          | none => 0)
      else none

/-- Streams of a hub whose filter uses a profile. -/
def profileUsers (s : State) (hub n : Nat) : Nat :=
  (s.streams.filter (fun e => e.1 / 1024 == hub &&
    (let f := filterOf s hub (e.1 % 1024)
     (if f.fallback then 0 else f.assigned) == n))).length

/-- FILTER (R253, R254). -/
def liveFilter (s : State) (t : Target) : Option Nat :=
  if t.inst < 64 then
    let p := profileOf s t.loc t.inst
    if t.reg = R.PF_STATE then some (effSettle p % 4096 + profileUsers s t.loc t.inst % 2048 * 65536)
    else if t.reg = R.PF_GD then some (groupDelay2 p % 65536)
    else none
  else
    let i := t.inst - 64
    let f := filterOf s t.loc i
    let p := profileNow s t.loc i
    let n := match streamOf s t.loc i with | some e => e.rate | none => 0
    if t.reg = R.FS_STATE then
      let top := f.chans.foldl (fun m c => max m c.settle) 0
      some ((if f.fallback then 0 else f.assigned % 64) + b2n f.fallback * 64 + b2n (decide (top ≠ 0)) * 256 +
        b2n (f.chans.any (fun c => decide (taiNs s t.loc < c.trans))) * 512 + top % 4096 * 65536)
    else if t.reg = R.FS_RATE then some (n / max 1 p.r)
    else if t.reg = R.FS_GD_NS then some (groupDelay2 p * 1000000000 / max 1 (2 * n))
    else if t.reg = R.FS_TRANS_US then some (effTrans p n % 2 ^ 17)
    else none

/-- A detector's stream runs here as home and delivers its channel (R251). -/
def detActive (s : State) (hub i : Nat) : Bool :=
  match s.dets.lookup (hub * 1024 + i) with
  | some d => match streamOf s hub d.stream with
    | some e => decide (e.home = hub) && rd s hub R.ST_STATE d.stream % 4 == 2 && decide (d.chan < (delivered e).length)
    | none => false
  | none => false

/-- DETECTOR (R256, R257). -/
def liveDetector (s : State) (t : Target) : Option Nat :=
  if t.reg = R.DET_ON then some (s.dets.filter (fun e => e.1 / 1024 == t.loc)).length
  else if t.reg = R.DET_STATE then some (setBit (rd s t.loc R.DET_STATE t.inst) 5 (detActive s t.loc t.inst))
  else none

/-! ### Peloton, flows and the Pannier -/

/-- VI_QSTATE (R299). -/
def viQstate (s : State) (die v : Nat) : Nat :=
  let w := rd s die R.VI_STATE v
  match w % 8 with
  | 3 => if bit w 4 then 2 else 1
  | 4 | 5 => 3
  | _ => 0

/-- PEL_WAITERS (R297): the harts of the die that wait in a take, hart k at bit k. -/
def waiterMask (x : Slice) : Nat :=
  (List.range 16).foldl (fun m k => if x.waiters.any (fun w => w.ini % 16 == k) then m + 2 ^ k else m) 0

/-- PELOTON and PELOTON_VIEW (R297, R299). -/
def livePeloton (s : State) (t : Target) : Option Nat :=
  let l := itemsOf s t.loc
  if t.reg = R.PEL_ONDIE then
    some ((l.filter (fun i => i.slot.isSome)).length + (l.filter (fun i => i.slot.isSome && decide (i.state = .ready))).length * 65536)
  else if t.reg = R.PEL_DELAYED then some (l.filter (fun i => decide (i.state = .delayed))).length
  else if t.reg = R.PEL_SPILLED then some (l.filter (fun i => decide (i.state = .spilled))).length
  else if t.reg = R.PEL_WAITERS then some (waiterMask (sliceOf s t.loc))
  else if t.reg = R.VI_QUOTA then some (rd s t.loc R.SHF_QUOTA t.inst)
  else if t.reg = R.VI_OCC then some (occupancy s t.loc t.inst)
  else if t.reg = R.VI_QSTATE then some (viQstate s t.loc t.inst)
  else none

/-- FLOW_DONE_MAP (R301). -/
def doneMap (s : State) (die f : Nat) (w : Flow) : Nat :=
  (List.range 64).foldl (fun m i =>
    if (itemsOf s die).any (fun x => x.flow == f && x.seq == (w.next + i) % 2 ^ 20 && (decide (x.state = .done) || decide (x.state = .placeholder))) then m + 2 ^ i else m) 0

/-- PELOTON_FLOW and FLOW_VIEW (R301). -/
def liveFlow (s : State) (t : Target) : Option Nat :=
  let w := flowOf s t.loc t.inst
  if t.reg = R.FLOW_STATE then
    some (match w with
      | some w => 1 + b2n (blockingItem s t.loc t.inst).isSome * 2 + b2n w.recordsOff * 4 + b2n w.faulted * 8
      | none => 0)
  else if t.reg = R.FLOW_NEXT then some (match w with | some w => w.next | none => 0)
  else if t.reg = R.FLOW_ADMIT then some (match w with | some w => w.admitNo | none => 0)
  else if t.reg = R.FLOW_ITEMS then some (flowItems s t.loc t.inst)
  else if t.reg = R.FLOW_DONE_MAP then some (match w with | some w => doneMap s t.loc t.inst w | none => 0)
  else none

/-- PANNIER (R305). -/
def livePannier (s : State) (t : Target) : Option Nat :=
  let l := panItems s t.loc
  if t.reg = R.PAN_OCC then some (panOcc s t.loc)
  else if t.reg = R.PAN_FIRST then some (if l.isEmpty then 0 else ctsOfNs (sliceOf s t.loc).panFirst)
  else if t.reg = R.PAN_FAR then some (l.filter (fun i => i.bucket.isNone)).length
  else if t.reg = R.PAN_WALK_LEFT then some (if (sliceOf s t.loc).walkVis.isEmpty then 0 else l.length)
  else none

/-! ### VIs -/

/-- VI_CTRL (R325, R328): every die shows every VI. -/
def liveVi (s : State) (loc : Nat) (t : Target) : Option Nat :=
  if t.reg = R.VI_HOMED then some ((List.range 256).filter (fun v => rd s t.loc R.VI_STATE v % 8 != 0)).length
  else if t.reg = R.VI_KILL_KEY then some 0
  else if t.reg = R.VI_STATE then
    let h := viHome s t.inst
    let w := rd s h R.VI_STATE t.inst
    some (if w % 8 = 0 then w else setBit w 11 (decide (h = loc)))
  else none

/-- DERAILLEUR (R336). -/
def liveShares (s : State) (t : Target) : Option Nat :=
  let v := t.inst
  if t.reg = R.USE_SLOTS then some ((hubs s).map (fun h => slotsUsed s h (some v))).sum
  else if t.reg = R.USE_CAPTURE then
    some ((hubs s).map (fun h => ((enabledRecs s h).filter (fun e => e.2.cfg % 512 == 256 + v)).length)).sum
  else if t.reg = R.USE_KEYS then some (keysUsed s v)
  else if t.reg = R.DERAILLEUR_EG_TOKENS_A then some (tokensAt s 0 v)
  else if t.reg = R.DERAILLEUR_EG_TOKENS_B then some (tokensAt s 1 v)
  else none

/-- RX_STATE (R323): [2] the entry is held by the quiesce of its VI (R329) or until the next VI_RUN (R332). -/
def rxState (s : State) (die i : Nat) : Nat :=
  match (xlOf s die).rx.lookup i with
  | some e => setBit (rd s die R.RX_STATE i) 2 ([3, 4, 5].contains (viState s (e.cfg % 256)) || heldDest s (e.cfg % 256) ⟨4, die, i, 0⟩)
  | none => rd s die R.RX_STATE i

/-- HC_STATE of a hart (R345): whether it waits in a take. V and VMID of a hart that is not HALTED are its own (log entry
42): they read a free value. -/
def hcState (s : State) (loc h : Nat) : Nat :=
  let die := locDie loc
  let w := rd s loc R.HC_STATE h
  let w1 := if w % 4 = 0 then w else setFld w 16 2 (Config.hartMode (hartId die (loc / 8) h) s.now % 2 ^ 15)
  setBit w1 17 ((sliceOf s die).waiters.any (fun w => w.ini == hartId die (loc / 8) h))

/-- CAPTURE (R424): staging blocks in use, and the analogue entries of enabled records. -/
def liveCapture (s : State) (t : Target) : Option Nat :=
  if t.reg = R.CAP_STAGE then some (stageUsed (capOf s t.loc))
  else if t.reg = R.CAP_CH_USED then some (chansUsed s t.loc) else none

/-- CRANK (R389): a force entry's ACTIVE. -/
def liveCrank (s : State) (t : Target) : Option Nat :=
  if t.reg = R.FC_VAR then some (setBit (readT s t) 16 ((crOf s t.loc).forces.lookup t.inst).isSome) else none

/-- CRANK_VIEW (R392). -/
def liveCrankView (s : State) (die : Nat) (t : Target) : Option Nat :=
  if t.reg = R.CV_STATE then some (rd s die R.CR_STATE 0)
  else if t.reg = R.CV_CYCLE then some (rd s die R.CR_CYCLE_COUNT 0)
  else if t.reg = R.CV_OUT_VALID then some (b2n (rd s die R.CR_STATE 0 % 8 == 2))
  else none

/-- COUNTER_VIEW (R595). -/
def liveCounters (s : State) (v : Nat) (t : Target) : Option Nat :=
  if t.reg = R.CV_SLOTS then some (cvSlots s v)
  else if 0x800 ≤ t.reg.off ∧ t.reg.off < 0x840 then some (slotValue s v ((t.reg.off - 0x800) / 8)).1
  else none

/-! ### Reset, options and management -/

/-- RESET_KS (R435, R533, R534): of the level registers, a compute die shows DL_LEVEL and DL_CHANGE_CTS. -/
def liveReset (s : State) (t : Target) : Option Nat :=
  if t.reg = R.DL_KEY ∨ t.reg = R.RK_SWR_KEY then some 0
  else if t.reg = R.DM_GAP then some (domGap s t.loc t.inst)
  else if !(isHub t.loc) && decide (0x900 ≤ t.reg.off ∧ t.reg.off < 0x930) && !(decide (t.reg = R.DL_LEVEL)) &&
      !(decide (t.reg = R.DL_CHANGE_CTS)) then some 0
  else none

/-- OPTION (R536): the bytes read 0 until a block is in force; pins are a hub's. -/
def liveOption (s : State) (t : Target) : Option Nat :=
  if 0x900 ≤ t.reg.off ∧ t.reg.off < 0xA00 then if (rstOf s t.loc).optDone then none else some 0
  else if (0xA00 ≤ t.reg.off ∨ t.reg = R.PM_STAGE) ∧ !(isHub t.loc) then some 0
  else none

/-- XB_STATUS (R537). -/
def liveBootFlash (s : State) (t : Target) : Option Nat :=
  if t.reg = R.XB_STATUS then
    let busy := !((hdr s t.loc .xspiBoot).running.isEmpty)
    let ready := !busy && (rstOf s t.loc).loading == 0 && (rstOf s t.loc).optDone
    some (b2n ready + b2n busy * 2 + b2n (bit (rd s t.loc R.XB_STATUS 0) 2) * 4)
  else none

/-- MECHANIC (R565). -/
def liveMechanic (s : State) (t : Target) : Option Nat :=
  if !(isHub t.loc) && decide (0x828 ≤ t.reg.off ∧ t.reg.off ≤ 0x840) then some 0
  else if t.reg = R.MC_AUTH then some (1 + b2n (flashOf s t.loc).updateAuth.isSome * 2)
  else none

/-- The INDEX entry of a page index of a die (R51): the OPT domain fills the table. An entry whose page is unpopulated has
TYPE 0 and its index alone. -/
def indexEntry (s : State) (die p : Nat) : Nat :=
  if bit (rstOf s die).released 1 then
    match pageAt s die p with
    | some q =>
      let pl := blockPlane q.2
      blockCode q.2 * 65536 + blockDomain q.2 * 4096 + b2n pl.control * 1024 + b2n pl.management * 2048 + p % 256
    | none => p % 256
  else 0

/-! ### Every register -/

/-- SPOKE and AXLE (R23): the failed retrains of the present window. -/
def liveLink (s : State) (t : Target) : Option Nat :=
  if t.reg.off = R.SPOKE_LK_STATE.off then
    let e := linkEnds (locDie t.loc) t.inst (t.reg.blk == .axle)
    some (setFld (readT s t) 7 4 (min 15 (failsNow s (linkOf s e)).length))
  else none

/-- SWITCH (R163). -/
def liveSwitch (s : State) (t : Target) : Option Nat := if t.reg = R.SW_STATUS then some (switchStatus s) else none

/-- LANE (R190): the port's lane, and the flaps in the present window. -/
def liveLane (s : State) (t : Target) : Option Nat :=
  if t.reg = R.LP_STATE then
    some (setFld (setBit (readT s t) 3 (portLane s t.loc t.inst == 1)) 11 8 (min 15 (flapsNow s t.loc t.inst).length))
  else none

/-- SERDES (R193): whether the port's island is locked. -/
def liveSerdes (s : State) (t : Target) : Option Nat :=
  if t.reg = R.SD_STATUS then some (setBit (readT s t) 5 (portIsland s t.loc t.inst)) else none

/-- What a register shows of an engine's state; none where it holds a value of its own. -/
def liveOf (s : State) (b : Block) (loc ini : Nat) (view : Option Nat) (t : Target) : Option Nat :=
  match t.reg.blk with
  | .spoke | .axle => liveLink s t
  | .switch => liveSwitch s t
  | .lane => liveLane s t
  | .serdes => liveSerdes s t
  | .timeBase | .timeCounter => liveTime s t
  | .timeAgent => liveAgent s t
  | .timerView => liveTimerView s (chosen s loc b ini) t
  | .egressView => liveEgress s (loc / 8) (chosen s loc b ini) t
  | .svIngest => liveIngest s (if b = .sampleView then some (view.getD 0) else none) t
  | .filter => liveFilter s t
  | .detector => liveDetector s t
  | .peloton => livePeloton s t
  | .pelotonFlow => liveFlow s t
  | .pannier => livePannier s t
  | .viCtrl => liveVi s loc t
  | .viIndex =>
    let w := rd s (viHome s (loc / 8)) R.VI_STATE (loc / 8)
    if t.reg = R.VIX_STATE then some (if w % 8 = 0 then w else setBit w 11 true) else some (w / 65536)
  | .derailleur => liveShares s t
  | .devXlate => if t.reg = R.RX_STATE then some (rxState s t.loc t.inst) else none
  | .hartCluster =>
    if t.reg = R.HC_STATE then some (hcState s t.loc t.inst)
    else if t.reg = R.HC_HARTID then some (hartId (locDie t.loc) (t.loc / 8) t.inst) else none
  | .capture => liveCapture s t
  | .crank => liveCrank s t
  | .crankView => liveCrankView s (serveDie s t.loc .crankView) t
  | .xspiRetain => if t.reg = R.RT_STATUS then some (rtStatus s t.loc) else none
  | .counterView => liveCounters s (loc / 8) t
  | .resetKs => liveReset s t
  | .option => liveOption s t
  | .xspiBoot => liveBootFlash s t
  | .mechanic => liveMechanic s t
  | .keyVault => if t.reg = R.VT_STATUS then some (vtStatus s t.loc) else none
  | .tandemLane => if t.reg = R.TD_STOP_KEY then some 0 else none
  | .index => some (indexEntry s t.loc ((t.reg.off - 0x800) / 4))
  | _ => none

/-- What a target reads. A write-only register reads 0 (R10); reserved bits read 0 (R11). -/
def plainValue (s : State) (b : Block) (loc ini : Nat) (view : Option Nat) (t : Target) : Nat :=
  if t.reg.acc = .wo then 0 else (liveOf s b loc ini view t).getD (readT s t)

/-- The page and instance that SN_MIRROR_SEL names, with the first offset of its window (R549). -/
def mirrorOf (s : State) (hub : Nat) : Option (Block × Nat × Nat) :=
  let n := rd s hub R.SN_MIRROR_SEL 0
  if n < 10 then some (.serdes, n, 0x100)
  else if n < 12 then some (.phyCopper, n - 10, 0x100)
  else if n < 24 then some (.lane, n - 12, 0x100)
  else if n = 24 then some (.tandemLane, 0, 0x800)
  else none

/-- A word of the mirror (R549): the mirrored register's word, its reset value while its page's domain is held. -/
def mirrorWord (s : State) (hub k : Nat) : Nat :=
  if !(isHub hub) then 0
  else match mirrorOf s hub with
    | none => 0
    | some (b, inst, first) =>
      let off := first + 4 * k
      if b = .tandemLane ∧ 0x8A0 ≤ off then 0
      else match findReg (blockRegs b) off inst with
        | none => 0
        | some (r, high) =>
          let t : Target := ⟨hub, standInst r inst, r, high, 127⟩
          let v := if r.banked ∨ r.acc = .wo then 0 else if pageRun s hub b then plainValue s b hub 127 none t else resetVal r hub inst
          part false high v

/-- What a target reads, the mirror of SENSOR among them. -/
def valueOf (s : State) (b : Block) (loc ini : Nat) (view : Option Nat) (t : Target) : Nat :=
  if t.reg.blk = .sensor ∧ 0x900 ≤ t.reg.off then mirrorWord s t.loc ((t.reg.off - 0x900) / 4)
  else plainValue s b loc ini view t

/-- PAGE_CAP.INSTANCES (R61): the instances behind SEL. A view may have none, and C0 of the KZ2 shows no Spoke endpoint to
the absent hub (R19). -/
def pageInstances (s : State) (loc : Nat) (b : Block) (ini : Nat) : Nat :=
  match b with
  | .flowView | .timerView | .sampleView | .captureView | .keyView | .egressView => (viewInsts s loc b ini).length % 65536
  | .spoke => if s.variant = .kz2 ∧ locDie loc = 2 then 1 else selLimit s loc b ini + 1
  | _ => (selLimit s loc b ini + 1) % 65536

/-- A header register of a page (R60, R61) as an initiator reads it: value, whether it has 64 bits, and its offset. -/
def headerOf (s : State) (loc : Nat) (b : Block) (ini off : Nat) : Nat × Bool :=
  let h := hdr s loc b
  let k := bank s loc b ini
  let lim := selLimit s loc b ini
  let page := if blockIsView b then viewPage b else pageIndex loc b
  match off / 4 * 4 with
  | 0x000 => (blockCode b * 65536 + serveFor s loc b ini * 256 + page, false)
  | 0x004 => (Config.pageVersion (blockCode b) % 65536 * 65536 + 0x00B0, false)
  | 0x008 => (Config.pageOptions (blockCode b) % 65536 * 65536 + pageInstances s loc b ini, false)
  | 0x00C => (b2n h.lock, false)
  | 0x014 => (k.cmdArg, false)
  | 0x018 => (k.cmdResult, false)
  | 0x01C => (h.cmdLast, false)
  | 0x020 | 0x024 => (k.cmdStamp, true)
  | 0x028 => (h.status, false)
  | 0x02C => (h.event, false)
  | 0x030 => (h.eventEn, false)
  | 0x034 => (h.setAgain, false)
  | 0x038 => (h.irqTarget, false)
  | 0x03C => (h.refuseLog, false)
  | 0x040 | 0x044 => (h.irqStamp, true)
  | 0x048 | 0x04C => (h.lastWriteStamp, true)
  | 0x050 => (k.sel, false)
  | 0x054 => (lim, false)
  | 0x058 => (k.cmdOrder, false)
  | 0x05C => (h.irqOrder, false)
  | 0x060 => (h.writeOrder, false)
  | 0x064 => (h.denyInfo, false)
  | 0x068 => (h.lastWriter, false)
  | _ => (0, false)

/-- The header register's value while the page's domain is held (R616): the fixed fields, and the reset values, of
which TIME_BASE.STATUS alone is not 0 (R95). -/
def headerHeld (s : State) (loc : Nat) (b : Block) (ini off : Nat) : Nat :=
  if off < 0x00C ∨ off / 4 * 4 = 0x054 then (headerOf s loc b ini off).1
  else if b = .timeBase ∧ off / 4 * 4 = 0x028 then 0x700
  else 0

/-- A register of a page as a reader sees it: its value, whether it has 64 bits, and whether the offset names its high
word. A view of a Crank reads 0 for any VI but its owner (R392). -/
def readAt (s : State) (loc : Nat) (b : Block) (ini : Nat) (view : Option Nat) (off : Nat) : Nat × Bool × Bool :=
  if b = .crankView ∧ !(crOwner s (serveDie s loc b) (loc / 8)) then (0, false, false)
  else if off < 0x080 then
    let h := headerOf s loc b ini off
    (h.1, h.2, h.2 && decide (off % 8 = 4))
  else if 0xF00 ≤ off then
    let n := off % 64 / 8
    if blockIsView b then (0, true, decide (off % 8 = 4))
    else if off < 0xF40 then (mget 0 s.cycSel (cycKey loc b n), true, decide (off % 8 = 4))
    else if 0xF80 ≤ off ∧ off < 0xFC0 then (counterOf s loc b n, true, decide (off % 8 = 4))
    else (0, false, false)
  else if b = .crankView ∧ 0xA00 ≤ off then
    match findReg (blockRegs .crank) off 0 with
    | some (r, high) => (valueOf s .crank (serveDie s loc b) ini none ⟨serveDie s loc b, 0, r, high, 127⟩, r.wide, high)
    | none => (0, false, false)
  else match target s loc b ini off with
    | some t => (valueOf s b loc ini view t, t.reg.wide, t.high)
    | none => (0, false, false)

end Sys2Proof.Machine
end

