-- ==== Sys2Proof/Machine/CycLevel.lean ====
section
/-!
DEFINITION. Sys2Proof/Machine/CycLevel.lean: the counters that count conditions (R587, R588).
-/
namespace Sys2Proof.Machine

/-- The instances that a select filters for: one with INST_EN, each of the page otherwise (R586). -/
def levelInsts (s : State) (loc : Nat) (b : Block) (sel : Nat) : List Nat :=
  if bit sel 9 then [fld sel 23 12] else
    match b with
    | .detector => (s.dets.filter (fun e => e.1 / 1024 == loc)).map (fun e => e.1 % 1024)
    | .pelotonFlow => (sliceOf s loc).flows.map (fun e => e.1)
    | .coaster => (coOf s loc).zones.map (fun e => e.1)
    | .switchPort => List.range 16
    | .qos => List.range 128
    | .hartCluster => List.range 4
    | .spoke | .axle => List.range 6
    | _ => [0]

/-- The VI of a select, where VI_EN filters (R586). -/
def levelVi (sel : Nat) : Option Nat := if bit sel 10 then some (fld sel 31 24) else none

/-- A hart of a compute die waits in a take for a VI, or for any. -/
def takeWaits (s : State) (die : Nat) (v : Option Nat) : Bool :=
  (sliceOf s die).waiters.any (fun w => match v with | some v => w.vi == v && !w.any | none => true)

/-- The condition of a code of the level kind on one instance (R588). Nothing waits at an arbiter between two steps. -/
def levelHolds (s : State) (loc : Nat) (b : Block) (code : Nat) (vi : Option Nat) (inst : Nat) : Bool :=
  match b with
  | .switchPort => code == 0x16 && rd s loc R.PORT_STATE inst % 4 == 2
  | .qos => code == 0x12 && decide (rd s loc R.Q_RSV inst < rd s loc R.Q_DEPTH inst)
  | .detector =>
    (code == 0x11 && bit (rd s loc R.DET_STATE inst) 0) || (code == 0x12 && bit (rd s loc R.DET_STATE inst) 1)
  | .peloton => code == 0x15 && takeWaits s loc vi
  | .pelotonFlow => code == 0x12 && (blockingItem s loc inst).isSome
  | .crank => code == 0x13 && (crOf s loc).state == 2
  | .coaster => code == 0x12 && (rd s loc R.ZN_STATE inst % 8 == 3 || rd s loc R.ZN_STATE inst % 8 == 4)
  | .hartCluster =>
    let h := hcState s loc inst
    code == 0x14 && bit h 17 && (match vi with | some v => bit h 2 && fld h 16 3 == v | none => true)
  | .spoke => code == 0x12 && rd s loc R.SPOKE_LK_STATE inst % 8 == 4
  | .axle => code == 0x12 && rd s loc R.AXLE_LK_STATE inst % 8 == 4
  | .cadence =>
    let i := rd s loc R.CAD_INDEX 0
    let f := rd s loc R.CAD_FLOOR 0
    (cadOf s loc).measured &&
      ((code == 0x10 && decide (i < f + rd s loc R.CAD_MARGIN 0)) || (code == 0x11 && decide (i < f)))
  | _ => false

/-- A code of the level kind (R588). -/
def levelCode (b : Block) (code : Nat) : Bool :=
  code == 0x07 ||
  (match b with
   | .switchPort => code == 0x16
   | .qos | .pelotonFlow | .coaster | .spoke | .axle => code == 0x12
   | .detector => code == 0x11 || code == 0x12
   | .peloton => code == 0x15
   | .crank => code == 0x13
   | .hartCluster => code == 0x14
   | .cadence => code == 0x10 || code == 0x11
   | _ => false)

/-- The block type of a code (R53, R73). -/
def blockCoded (code : Nat) : Option Block := blockOf code

/-- One counter at an AON tick (R587): LEVEL adds 1 while its condition holds, or where an event came since the last
tick; EDGE of a level code counts the times the condition begins. -/
def tickCounter (s : State) (e : Nat × Nat) : State :=
  let page := e.1 / 8
  let loc := page / 65536
  let sel := e.2
  let code := sel % 256
  match blockCoded (page % 65536) with
  | none => s
  | some b =>
    if !(pageRun s loc b) then s
    else if levelCode b code then
      let holds := (levelInsts s loc b sel).any (levelHolds s loc b code (if viCode b code then levelVi sel else none))
      let s1 := if bit sel 8 then (if holds then { s with cycVal := mmod 0 e.1 (fun v => wrapAdd 48 v 1) s.cycVal } else s)
        else if holds && !(mget false s.cycWas e.1) then { s with cycVal := mmod 0 e.1 (fun v => wrapAdd 48 v 1) s.cycVal } else s
      { s1 with cycWas := mput e.1 holds s1.cycWas }
    else if bit sel 8 && mget false s.cycSeen e.1 then { s with cycVal := mmod 0 e.1 (fun v => wrapAdd 48 v 1) s.cycVal }
    else s

/-- COUNTER_LEVEL_TICK, R587: one tick of the 25 MHz AON clock, 40 ns after the last. -/
def execCounterLevelTick (s : State) : Out :=
  if mget 0 s.upAt 3 + 40 ≤ s.now then
    .next { s.cycSel.foldl tickCounter s with cycSeen := [], upAt := mput 3 s.now s.upAt }
  else .next s

end Sys2Proof.Machine
end

