-- ==== Sys2Proof/Machine/Dram.lean ====
section
/-!
DEFINITION. Sys2Proof/Machine/Dram.lean: the DRAM channels (R610 to R613).
-/
namespace Sys2Proof.Machine

/-- The capacity in GiB of a supported fitting (R610): organisation, density and ranks. -/
def fitting (x16 density ranks : Nat) : Option Nat :=
  match x16, density, ranks with
  | 1, 0, 1 => some 8
  | 0, 0, 1 => some 16
  | 0, 0, 2 => some 32
  | 0, 1, 1 => some 32
  | 0, 1, 2 => some 64
  | _, _, _ => none

/-- DRAM_TRAINING_DONE, R611: the channel enters READY with a supported fitting, FAULT otherwise. -/
def execDramTrainingDone (die state ranks x16 density cause size us : Nat) (s : State) : Out :=
  if domRun s die 6 && rd s die R.DR_STATE 0 % 4 == 0 then
    let found := ranks % 4 * 4 + x16 % 2 * 16 + density % 4 * 256
    let w := match fitting x16 density ranks with
      | some g => if state = 1 then (1 + found, g) else (2 + found + (if cause % 16 = 0 then 3 else cause % 16) * 4096, size % 128)
      | none => (2 + found + (if state = 1 ∨ cause % 16 = 0 then 2 else cause % 16) * 4096, size % 128)
    .next (drainBlocks (hwEvent (wrAll s die 0 [(R.DR_STATE, w.1), (R.DR_SIZE, w.2), (R.DR_TRAIN_US, min us 65535)]) die .dram 2) die)
  else .next s

/-- An engine's read of VI memory that ends in an error completion is a translation fault of R319 (R612). -/
def readFails (s : State) (r : EngineRead) : State :=
  if r.engine = 3 then
    match s.sendReqs.find? (fun q => q.die == r.die && q.vi == r.vi && (pagesOf q.addr q.len).contains r.page) with
    | none => s
    | some q => sendFault s q r.page
  else engineFault (xlFault s r.vi r.engine (r.page * 4096) false) ⟨r.engine, r.die, r.index, r.dest⟩ 0

/-- DRAM_ECC_ERROR, R612. -/
def execDramEccError (die : Nat) (corrected : Bool) (addr : Nat) (reader : Option EngineRead) (s : State) : Out :=
  if dramRun s die && inDram s die addr 1 then
    let s1 := wrAll (incrSat s die (if corrected then R.DR_CE else R.DR_UE) 0 1) die 0
      [(R.DR_ERR_ADDR, addr), (R.DR_ERR_CTS, ctsNow s die)]
    if corrected then .next (hwEvent s1 die .dram 0)
    else
      let st := pageStamp s1 die die .dram 0
      let s2 := eventRec (tickPage s1 die .dram) die die .dram st (pagePlane .dram) 1 0 [addr]
      .next (match reader with
        | some r => readFails s2 r
        | none => s2)
  else .next s

/-- DRAM_SCRUB_PASS, R612: a pass reads the channel and leaves it as it is; the errors it finds are DRAM_ECC_ERROR. -/
def execDramScrubPass (_ : Nat) (s : State) : Out := .next s

/-- A refresh-rate code that calls for twice the rate. The manual leaves the codes to the devices: PRESUMED from JEDEC
DDR5. -/
def doubles (code : Nat) : Bool := decide (3 ≤ code % 8)

/-- DRAM_REFRESH_CHANGE, R612, R613: the highest code of the channel's devices, and the device that reported it. -/
def execDramRefreshChange (die code device : Nat) (s : State) : Out :=
  if dramRun s die then
    let old := rd s die R.DR_MR4 0
    let s1 := wr s die R.DR_MR4 0 (code % 8 + device % 16 * 256)
    .next (if doubles code && !(doubles old) then hwEvent s1 die .dram 3 else s1)
  else .next s

/-- The checks of DRAM_CLEAR_COUNTERS. -/
def checksDramClearCounters (t : State) (x : Ctx) : Checks :=
  { Checks.pass with idle := pageIdle t x }

/-- The effect of DRAM_CLEAR_COUNTERS. -/
def effectDramClearCounters (x : Ctx) (t : State) : Effect :=
  .done (clearRegs t x.loc 0 [R.DR_CE, R.DR_UE])

/-- DRAM_CLEAR_COUNTERS, R613. -/
def execDramClearCounters (c : Cmd) (s : State) : Out :=
  command s c .dram 0x10 checksDramClearCounters effectDramClearCounters

end Sys2Proof.Machine
end

