-- ==== Sys2Proof/Machine/Sensor.lean ====
section
/-!
DEFINITION. Sys2Proof/Machine/Sensor.lean: sensors and their limits, PMBus rails and the voltage loop (R547 to R552,
R567, R568).
-/
namespace Sys2Proof.Machine

/-! ### Sensors (R547, R548) -/

/-- Bits 1 (WARN) and 2 (ALARM) of SN_STATE against their pairs of limits. -/
def limitBit (s : State) (die n : Nat) (lo hi : Reg) (was : Bool) (v : Int) : Bool :=
  let l := sgn 32 (rd s die lo n)
  let h := sgn 32 (rd s die hi n)
  let hyst : Int := rd s die R.SN_HYST n
  if v < l ∨ h < v then true
  else was && !decide (l + hyst ≤ v ∧ v ≤ h - hyst)

/-- A check against one pair of limits (R548): bit `k` of SN_STATE, with its EVENT bit, record and log entry where it is
set, and CLEAR where it clears. -/
def checkLimit (die n k : Nat) (lo hi : Reg) (v : Int) (s : State) : State :=
  let st := rd s die R.SN_STATE n
  let on := limitBit s die n lo hi (bit st k) v
  let s1 := wr s die R.SN_STATE n (setBit st k on)
  if on && !(bit st k) then
    let s2 := wr s1 die R.SN_EVENT_IDX 0 n
    let p := pageStamp s2 die die .sensor 0
    let s3 := eventRec (tickPage s2 die .sensor) die die .sensor p (pagePlane .sensor) (k - 1) n [uns 32 v]
    pushLog s3 die (k + 1) 6 [n, uns 32 v]
  else if !on && bit st k then hwEvent s1 die .sensor 2
  else s1

/-- One sample (R547). -/
def takeSample (die n : Nat) (v : Int) (s : State) : State :=
  let lo := min (sgn 32 (rd s die R.SN_MIN n)) v
  let hi := max (sgn 32 (rd s die R.SN_MAX n)) v
  let s1 := wrAll s die n [(R.SN_VALUE, uns 32 v), (R.SN_CTS, ctsNow s die), (R.SN_MIN, uns 32 lo), (R.SN_MAX, uns 32 hi),
    (R.SN_STATE, setBit (setBit (rd s die R.SN_STATE n) 0 true) 3 false)]
  checkLimit die n 2 R.SN_ALARM_LO R.SN_ALARM_HI v (checkLimit die n 1 R.SN_WARN_LO R.SN_WARN_HI v s1)

/-- The sensors that a die has (R547). -/
def hasSensor (die n : Nat) : Bool :=
  decide (n ≤ 3 ∨ (8 ≤ n ∧ n ≤ 19)) || (isHub die && decide ((4 ≤ n ∧ n ≤ 7) ∨ (20 ≤ n ∧ n ≤ 47)))

/-- A trip line drives its ball asserted. -/
def lineAsserted (s : State) (hub n : Nat) : Bool := (lineOf s hub n).drive == some true

/-- A raw A2h pair of R187, its first byte the more significant (SFF-8472, R5). -/
def ddmPair (v : Nat) : Nat := v % 256 * 256 + v / 256 % 256

/-- The cage of a port is occupied and its readings are held. -/
def cageRead (s : State) (hub p : Nat) : Bool :=
  domRun s hub 7 && !(bit (rd s hub R.SD_STATUS p) 0) && decide (rd s hub R.DDM_CTS p ≠ 0)

/-- What a sweep reads of a sensor (R547): the measured ones from outside, the derived ones from their registers. -/
def sensed (s : State) (die : Nat) (samples : List (Nat × Int)) (n : Nat) : Option Int :=
  if n = 14 then
    (samples.filter (fun e => decide (8 ≤ e.1 ∧ e.1 ≤ 13))).foldl
      (fun (m : Option Int) e => match m with | some x => some (max x e.2) | none => some e.2) none
  else if n = 15 then some (rd s die R.CAD_INDEX 0)
  else if n = 16 then some ((rd s die R.CAD_INDEX 0 : Int) - rd s die R.CAD_FLOOR 0)
  else if n = 17 then if domRun s die 6 then some (rd s die R.DR_MR4 0 % 8 : Nat) else none
  else if n = 18 then if domRun s die 6 then some (min (rd s die R.DR_CE 0) 0x7FFFFFFF : Nat) else none
  else if n = 19 then if domRun s die 6 then some (min (rd s die R.DR_UE 0) 0x7FFFFFFF : Nat) else none
  else if 20 ≤ n ∧ n ≤ 29 then
    if cageRead s die (n - 20) then some (sgn 16 (ddmPair (rd s die R.DDM_TEMP_VCC (n - 20) % 65536))) else none
  else if 30 ≤ n ∧ n ≤ 39 then
    if cageRead s die (n - 30) then some (ddmPair (rd s die R.DDM_RXP (n - 30) % 65536) : Nat) else none
  else if 40 ≤ n ∧ n ≤ 47 ∧ !(lineAsserted s die (n - 40)) then some 0
  else samples.lookup n

/-- One sensor in a sweep: its sample, or STALE where it had none in the sweep before either (R567). -/
def sweepOne (die : Nat) (samples : List (Nat × Int)) (s : State) (n : Nat) : State :=
  let m := mechOf s die
  match sensed s die samples n with
  | some v => takeSample die n v (setMech s die { m with missed := setBit m.missed n false })
  | none =>
    let s1 := setMech s die { m with missed := setBit m.missed n true }
    if bit m.missed n then wr s1 die R.SN_STATE n (setBit (rd s1 die R.SN_STATE n) 3 true) else s1

/-! ### Rails (R550, R568) -/

/-- The loop and the telemetry serve an entry: VALID, and not marked for its VOUT_MODE. -/
def railValid (s : State) (hub n : Nat) : Bool :=
  domRun s hub 4 && bit (rd s hub R.PMB_CFG 0) 0 && bit (rd s hub R.RL_CFG n) 20

/-- RL_VMIN of an entry, in 0.1 mV (R551, R568). -/
def railMin (s : State) (hub n : Nat) : Nat := within 7000 8800 (rd s hub R.RL_VMIN n % 16384)

/-- Telemetry of a rail (R550). The first one after its entry was loaded reads VOUT_MODE, and RL_VSET starts at READ_VOUT. -/
def railTelemetry (hub : Nat) (s : State) (r : RailSample) : State :=
  if r.entry < 16 && railValid s hub r.entry then
    let st := rd s hub R.RL_STATUS r.entry
    let first := rd s hub R.RL_VSET r.entry == 0
    let s1 := if first then
        wr (wr s hub R.RL_VSET r.entry (if r.linear16 then r.vout % 16384 else 0)) hub R.RL_STATUS r.entry (setBit st 17 (!r.linear16))
      else s
    if bit (rd s1 hub R.RL_STATUS r.entry) 17 then s1
    else wrAll s1 hub r.entry [(R.RL_VOUT, r.vout), (R.RL_IOUT, r.iout), (R.RL_TEMP, uns 32 r.temp),
      (R.RL_STATUS, setFld (rd s1 hub R.RL_STATUS r.entry) 15 0 r.status), (R.RL_CTS, ctsNow s1 hub)]
  else s

/-- SENSOR_SWEEP, R547, R548, R550: a sweep every SN_PERIOD ms. -/
def execSensorSweep (die : Nat) (samples : List (Nat × Int)) (rails : List RailSample) (s : State) : Out :=
  if domRun s die 4 && decide ((mechOf s die).sweptAt + within 1 1000 (rd s die R.SN_PERIOD 0) * 1000000 ≤ s.now) then
    let s0 := setMech s die { mechOf s die with sweptAt := s.now }
    let s1 := ((List.range 48).filter (hasSensor die)).foldl (sweepOne die samples) s0
    .next (if isHub die then rails.foldl (railTelemetry die) s1 else s1)
  else .next s

/-- TRIP_CURRENT_MEASURE, R547: 200 µs after an assertion, with the line still asserted. -/
def execTripCurrentMeasure (hub line : Nat) (current : Int) (s : State) : Out :=
  if isHub hub && domRun s hub 4 && line < 8 && lineAsserted s hub line && decide ((lineOf s hub line).assertAt + 200000 ≤ s.now) then
    .next (takeSample hub (40 + line) current s)
  else .next s

/-- The index of a die is below the point at which the loop raises (R550, R551). -/
def indexLow (s : State) (die : Nat) : Bool :=
  decide (rd s die R.CAD_INDEX 0 < rd s die R.CAD_FLOOR 0 + rd s die R.CAD_MARGIN 0)

/-- A die's index report reaches a hub (R550). -/
def indexReports (s : State) (hub die : Nat) : Bool :=
  domRun s die 4 && (cadOf s die).measured &&
  (decide (die = hub) || (if isHub die then axleAlive s else reachesHub s die hub))

/-- The loop serves an entry (R550, R552). -/
def loopServes (s : State) (hub n : Nat) : Bool :=
  railValid s hub n && bit (rd s hub R.AVS_CFG 0) 0 && bit (rd s hub R.RL_CFG n) 19 &&
  !(bit (rd s hub R.RL_STATUS n) 16) && !(bit (rd s hub R.RL_STATUS n) 17) && decide (rd s hub R.RL_VSET n ≠ 0)

/-- An elapsed time lies at least a span in the past, or was never. -/
def longAgo (s : State) (t : Option Nat) (span : Nat) : Bool :=
  match t with
  | some x => decide (x + span ≤ s.now)
  | none => true

/-- AVS_STEP, R550, R551: an index report of the entry's die, or AVS_PERIOD. -/
def execAvsStep (hub rail : Nat) (s : State) : Out :=
  let die := fld (rd s hub R.RL_CFG rail) 18 16
  if isHub hub && rail < 16 && loopServes s hub rail && indexReports s hub die then
    let v := rd s hub R.RL_VSET rail
    let dwell := within 10 10000 (fld (rd s hub R.AVS_CFG 0) 31 16) * 1000000
    let high := decide (rd s die R.CAD_FLOOR 0 + rd s die R.CAD_MARGIN 0 + within 100 2000 (rd s hub R.AVS_BAND 0 % 65536) ≤ rd s die R.CAD_INDEX 0)
    let r0 := railOf s hub rail
    let r := { r0 with highSince := if high then some (r0.highSince.getD s.now) else none }
    if indexLow s die then
      if longAgo s r.raised 200000 then
        let w := min (v + within 10 500 (rd s hub R.AVS_STEP 0 % 65536)) 8800
        let s1 := setRail (wr s hub R.RL_VSET rail w) hub rail { r with raised := some s.now, stepped := some s.now }
        .next (if w = v then s1 else pushLog s1 hub 1 7 [rail, w])
      else .next (setRail s hub rail r)
    else if high && (match r.highSince with | some t => decide (t + dwell ≤ s.now) | none => false) && longAgo s r.stepped dwell then
      let w := max (v - within 10 100 (fld (rd s hub R.AVS_STEP 0) 31 16)) (railMin s hub rail)
      let s1 := setRail (wr s hub R.RL_VSET rail w) hub rail { r with stepped := some s.now }
      .next (if w = v then s1 else pushLog s1 hub 1 7 [rail, w])
    else .next (setRail s hub rail r)
  else .next s

/-- PMBUS_TRANSFER_FAIL, R552: the third failure of a transfer sets AVS_OFF. -/
def execPmbusTransferFail (hub rail : Nat) (s : State) : Out :=
  if isHub hub && rail < 16 && domRun s hub 4 && bit (rd s hub R.PMB_CFG 0) 0 then
    let s1 := incr (wr s hub R.RL_STATUS rail (setBit (rd s hub R.RL_STATUS rail) 16 true)) hub R.PMB_ERRORS 0 1
    let p := pageStamp s1 hub hub .pmbus 0
    .next (pushLog (eventRec (tickPage s1 hub .pmbus) hub hub .pmbus p (pagePlane .pmbus) 1 rail [rd s1 hub R.RL_STATUS rail]) hub 2 8 [rail])
  else .next s

/-- PMB_ALERT, R568. -/
def execPmbAlert (hub : Nat) (s : State) : Out := .next (if isHub hub then hwEvent s hub .pmbus 0 else s)

/-- A write of RL_CFG (R568): the entry is loaded, and its next telemetry reads VOUT_MODE. Only the lead's write acts (R546). -/
def railWrite (w : Who) (t : Target) (v : Nat) (s : State) : State :=
  if isLead s t.loc w || w.ini == 127 then
    let s1 := setRail (writeT s t v) t.loc t.inst ⟨none, none, none⟩
    wr (wr s1 t.loc R.RL_VSET t.inst 0) t.loc R.RL_STATUS t.inst (setBit (rd s1 t.loc R.RL_STATUS t.inst) 17 false)
  else s

/-- The authority of a PMBUS opcode (R546), and the enable that it needs (R568). -/
def railChecks (t : State) (x : Ctx) : Checks :=
  { Checks.pass with auth := isLead t x.loc x.who, idle := pageIdle t x, legal := bit (rd t x.loc R.PMB_CFG 0) 0 }

/-- The checks of RAIL_SET. -/
def checksRailSet (t : State) (x : Ctx) : Checks :=
  let cfg := rd t x.loc R.RL_CFG x.inst
  let k := railChecks t x
  { k with
    argOk := decide (7000 ≤ x.argument ∧ x.argument ≤ 8800 ∧ railMin t x.loc x.inst ≤ x.argument)
    legal := k.legal && !(bit (rd t x.loc R.AVS_CFG 0) 0) && !(bit cfg 19 && indexLow t (fld cfg 18 16)) }

/-- The effect of RAIL_SET. -/
def effectRailSet (x : Ctx) (t : State) : Effect :=
  .done (wr t x.loc R.RL_VSET x.inst x.argument)

/-- RAIL_SET, R551, R568. -/
def execRailSet (c : Cmd) (s : State) : Out :=
  command s c .pmbus 0x10 checksRailSet effectRailSet

/-- The effect of RAIL_CLEAR. -/
def effectRailClear (x : Ctx) (t : State) : Effect :=
  .done (wr t x.loc R.RL_STATUS x.inst (setBit (rd t x.loc R.RL_STATUS x.inst) 16 false))

/-- RAIL_CLEAR, R568: CLEAR_FAULTS goes to the rail, and the loop serves it again. -/
def execRailClear (c : Cmd) (s : State) : Out :=
  command s c .pmbus 0x11 railChecks effectRailClear

end Sys2Proof.Machine
end

