-- ==== Sys2Proof/Machine/CmdTable.lean ====
section
/-!
DEFINITION. Sys2Proof/Machine/CmdTable.lean: which command a write of CMD gives, by page and opcode (R62, R65). It serves
the writes of CMD that do not come as a command row: those of the start-up loader, of updates, of the management port
and plain register writes.
-/
namespace Sys2Proof.Machine

/-- The opcodes of capture. -/
def cmdOfCapture (op : Nat) (c : Cmd) (s : State) : Option Out :=
  match op with
  | 0x10 => some (execCapEnable c s)
  | 0x11 => some (execCapDisable c s)
  | 0x12 => some (execCapTrigger c s)
  | 0x13 => some (execCapReadout c s)
  | 0x14 => some (execCapRelease c s)
  | 0x15 => some (execCapClearCounters c s)
  | _ => none

/-- The opcodes of captureView. -/
def cmdOfCaptureView (op : Nat) (c : Cmd) (s : State) : Option Out :=
  match op with
  | 0x12 => some (execCapTrigger c s)
  | 0x13 => some (execCapReadout c s)
  | 0x14 => some (execCapRelease c s)
  | 0x15 => some (execCapClearCounters c s)
  | _ => none

/-- The opcodes of coaster. -/
def cmdOfCoaster (op : Nat) (c : Cmd) (s : State) : Option Out :=
  match op with
  | 0x10 => some (execZoneLoad c s)
  | 0x11 => some (execFrameLoad c s)
  | 0x12 => some (execZoneOff c s)
  | 0x13 => some (execZoneReset c s)
  | 0x14 => some (execCoasterClearCounters c s)
  | _ => none

/-- The opcodes of crank. -/
def cmdOfCrank (op : Nat) (c : Cmd) (s : State) : Option Out :=
  match op with
  | 0x10 => some (execCrLoad c s)
  | 0x11 => some (execCrStart c s)
  | 0x12 => some (execCrStop c s)
  | 0x13 => some (execCrRun c s)
  | 0x14 => some (execCrStepMode c s)
  | 0x15 => some (execCrStep c s)
  | 0x16 => some (execCrFire c s)
  | 0x17 => some (execOlcCommit c s)
  | 0x18 => some (execForce c s)
  | 0x19 => some (execUnforce c s)
  | 0x1A => some (execCrUnload c s)
  | 0x1B => some (execCrankClearCounters c s)
  | _ => none

/-- The opcodes of crankView. -/
def cmdOfCrankView (op : Nat) (c : Cmd) (s : State) : Option Out :=
  match op with
  | 0x16 => some (execCrFire c s)
  | _ => none

/-- The opcodes of crankTask. -/
def cmdOfCrankTask (op : Nat) (c : Cmd) (s : State) : Option Out :=
  match op with
  | 0x10 => some (execTaskClearCounters c s)
  | _ => none

/-- The opcodes of cyclometer. -/
def cmdOfCyclometer (op : Nat) (c : Cmd) (s : State) : Option Out :=
  match op with
  | 0x10 => some (execCyRun c s)
  | 0x11 => some (execCyStop c s)
  | 0x12 => some (execCyClearCounters c s)
  | _ => none

/-- The opcodes of dram. -/
def cmdOfDram (op : Nat) (c : Cmd) (s : State) : Option Out :=
  match op with
  | 0x10 => some (execDramClearCounters c s)
  | _ => none

/-- The opcodes of filter. -/
def cmdOfFilter (op : Nat) (c : Cmd) (s : State) : Option Out :=
  match op with
  | 0x10 => some (execProfileLoad c s)
  | 0x11 => some (execFsAssign c s)
  | 0x12 => some (execFilterClearCounters c s)
  | _ => none

/-- The opcodes of detector. -/
def cmdOfDetector (op : Nat) (c : Cmd) (s : State) : Option Out :=
  match op with
  | 0x10 => some (execDetEnable c s)
  | 0x11 => some (execDetDisable c s)
  | 0x12 => some (execDetTune c s)
  | 0x13 => some (execDetDestRestart c s)
  | 0x14 => some (execDetClearCounters c s)
  | _ => none

/-- The opcodes of frameAuth. -/
def cmdOfFrameAuth (op : Nat) (c : Cmd) (s : State) : Option Out :=
  match op with
  | 0x10 => some (execFaClearCounters c s)
  | _ => none

/-- The opcodes of svIngest. -/
def cmdOfSvIngest (op : Nat) (c : Cmd) (s : State) : Option Out :=
  match op with
  | 0x10 => some (execStEnable c s)
  | 0x11 => some (execStDisable c s)
  | 0x12 => some (execStTune c s)
  | 0x13 => some (execIngestClearCounters c s)
  | 0x14 => some (execDestRestart c s)
  | _ => none

/-- The opcodes of lane. -/
def cmdOfLane (op : Nat) (c : Cmd) (s : State) : Option Out :=
  match op with
  | 0x10 => some (execNodeRead c s)
  | 0x11 => some (execNodeWrite c s)
  | 0x12 => some (execNodeSearch c s)
  | 0x13 => some (execNodeFlush c s)
  | 0x14 => some (execRehome c s)
  | 0x15 => some (execLinkRestart c s)
  | 0x16 => some (execLaneClearCounters c s)
  | _ => none

/-- The opcodes of phyCopper. -/
def cmdOfPhyCopper (op : Nat) (c : Cmd) (s : State) : Option Out :=
  match op with
  | 0x10 => some (execTdrRun c s)
  | _ => none

/-- The opcodes of resetKs. -/
def cmdOfResetKs (op : Nat) (c : Cmd) (s : State) : Option Out :=
  match op with
  | 0x10 => some (execSwrAssert c s)
  | 0x11 => some (execSwrRelease c s)
  | 0x12 => some (execSwrPulse c s)
  | 0x13 => some (execForceRelease c s)
  | 0x30 => some (execLevelForce c s)
  | _ => none

/-- The opcodes of spoke. -/
def cmdOfSpoke (op : Nat) (c : Cmd) (s : State) : Option Out :=
  match op with
  | 0x10 => some (execLinkRestore false c s)
  | 0x11 => some (execLinkClearCounters false c s)
  | _ => none

/-- The opcodes of axle. -/
def cmdOfAxle (op : Nat) (c : Cmd) (s : State) : Option Out :=
  match op with
  | 0x10 => some (execLinkRestore true c s)
  | 0x11 => some (execLinkClearCounters true c s)
  | _ => none

/-- The opcodes of xspiBoot. -/
def cmdOfXspiBoot (op : Nat) (c : Cmd) (s : State) : Option Out :=
  match op with
  | 0x10 => some (execXbRead c s)
  | 0x11 => some (execXbProgram c s)
  | 0x12 => some (execXbErase c s)
  | _ => none

/-- The opcodes of mechanic. -/
def cmdOfMechanic (op : Nat) (c : Cmd) (s : State) : Option Out :=
  match op with
  | 0x10 => some (execMcYield c s)
  | 0x11 => some (execMcRestart c s)
  | 0x12 => some (execMcAuthLoad c s)
  | 0x13 => some (execDiePower c s)
  | 0x20 => some (execUpdVerify c s)
  | 0x21 => some (execUpdActivate c s)
  | 0x22 => some (execUpdCommit c s)
  | 0x23 => some (execUpdAbort c s)
  | 0x30 => some (execMcClearCounters c s)
  | _ => none

/-- The opcodes of peloton. -/
def cmdOfPeloton (op : Nat) (c : Cmd) (s : State) : Option Out :=
  match op with
  | 0x10 => some (execPelStart c s)
  | 0x11 => some (execPost c s)
  | 0x12 => some (execComplete c s)
  | 0x13 => some (execPelotonClearCounters c s)
  | _ => none

/-- The opcodes of pelotonView. -/
def cmdOfPelotonView (op : Nat) (c : Cmd) (s : State) : Option Out :=
  match op with
  | 0x11 => some (execPost c s)
  | 0x12 => some (execComplete c s)
  | 0x13 => some (execPelotonClearCounters c s)
  | _ => none

/-- The opcodes of pelotonFlow. -/
def cmdOfPelotonFlow (op : Nat) (c : Cmd) (s : State) : Option Out :=
  match op with
  | 0x10 => some (execFlowEnable c s)
  | 0x11 => some (execFlowDisable c s)
  | 0x12 => some (execFlowSkip c s)
  | 0x13 => some (execRingRestart c s)
  | 0x14 => some (execFlowClearCounters c s)
  | _ => none

/-- The opcodes of flowView. -/
def cmdOfFlowView (op : Nat) (c : Cmd) (s : State) : Option Out :=
  match op with
  | 0x13 => some (execRingRestart c s)
  | 0x14 => some (execFlowClearCounters c s)
  | _ => none

/-- The opcodes of option. -/
def cmdOfOption (op : Nat) (c : Cmd) (s : State) : Option Out :=
  match op with
  | 0x10 => some (execPinFuse c s)
  | _ => none

/-- The opcodes of xspiRetain. -/
def cmdOfXspiRetain (op : Nat) (c : Cmd) (s : State) : Option Out :=
  match op with
  | 0x10 => some (execRtClear c s)
  | _ => none

/-- The opcodes of saddlebag. -/
def cmdOfSaddlebag (op : Nat) (c : Cmd) (s : State) : Option Out :=
  match op with
  | 0x10 => some (execSbPost c s)
  | 0x11 => some (execSbFreeze c s)
  | 0x12 => some (execSbUnfreeze c s)
  | 0x13 => some (execSbArm c s)
  | 0x14 => some (execSbDisarm c s)
  | 0x15 => some (execSsEnable c s)
  | 0x16 => some (execSsDisable c s)
  | 0x17 => some (execSbTrigger c s)
  | 0x18 => some (execSbClearCounters c s)
  | _ => none

/-- The opcodes of pmbus. -/
def cmdOfPmbus (op : Nat) (c : Cmd) (s : State) : Option Out :=
  match op with
  | 0x10 => some (execRailSet c s)
  | 0x11 => some (execRailClear c s)
  | _ => none

/-- The opcodes of switchPort. -/
def cmdOfSwitchPort (op : Nat) (c : Cmd) (s : State) : Option Out :=
  match op with
  | 0x10 => some (execQbvCommit c s)
  | _ => none

/-- The opcodes of switch. -/
def cmdOfSwitch (op : Nat) (c : Cmd) (s : State) : Option Out :=
  match op with
  | 0x10 => some (execTblRead c s)
  | 0x11 => some (execTblWrite c s)
  | 0x12 => some (execMacSearch c s)
  | 0x13 => some (execMacFlush c s)
  | 0x14 => some (execSwitchClearCounters c s)
  | 0x15 => some (execSessionStart c s)
  | 0x16 => some (execSessionStop c s)
  | _ => none

/-- The opcodes of tandemLane. -/
def cmdOfTandemLane (op : Nat) (c : Cmd) (s : State) : Option Out :=
  match op with
  | 0x10 => some (execTdStart c s)
  | 0x11 => some (execTdStop c s)
  | 0x12 => some (execHandover c s)
  | 0x13 => some (execTdClearCounters c s)
  | _ => none

/-- The opcodes of timeBase. -/
def cmdOfTimeBase (op : Nat) (c : Cmd) (s : State) : Option Out :=
  match op with
  | 0x10 => some (execSetTime c s)
  | 0x11 => some (execStep c s)
  | 0x12 => some (execSelectRef c s)
  | 0x13 => some (execHold c s)
  | 0x14 => some (execTakeMaster c s)
  | 0x15 => some (execResetServo c s)
  | _ => none

/-- The opcodes of timeTrigger. -/
def cmdOfTimeTrigger (op : Nat) (c : Cmd) (s : State) : Option Out :=
  match op with
  | 0x10 => some (execTrgArm c s)
  | 0x11 => some (execTrgDisarm c s)
  | _ => none

/-- The opcodes of timerView. -/
def cmdOfTimerView (op : Nat) (c : Cmd) (s : State) : Option Out :=
  match op with
  | 0x10 => some (execTrgArm c s)
  | 0x11 => some (execTrgDisarm c s)
  | _ => none

/-- The opcodes of tripIo. -/
def cmdOfTripIo (op : Nat) (c : Cmd) (s : State) : Option Out :=
  match op with
  | 0x10 => some (execTripIoClearCounters c s)
  | _ => none

/-- The opcodes of keyVault. -/
def cmdOfKeyVault (op : Nat) (c : Cmd) (s : State) : Option Out :=
  match op with
  | 0x10 => some (execUnsealChal c s)
  | 0x11 => some (execUnseal c s)
  | 0x12 => some (execSeal c s)
  | 0x13 => some (execDormant c s)
  | 0x14 => some (execWake c s)
  | 0x15 => some (execRootGen c s)
  | 0x16 => some (execRootLoad c s)
  | 0x17 => some (execVaultAuthLoad c s)
  | 0x20 => some (execKeyDerive c s)
  | 0x21 => some (execKeyUnwrap c s)
  | 0x22 => some (execKeyGen c s)
  | 0x23 => some (execKeyClear c s)
  | 0x24 => some (execKeySet c s)
  | 0x28 => some (execEncrypt c s)
  | 0x29 => some (execDecrypt c s)
  | 0x2A => some (execMacGen c s)
  | 0x2B => some (execMacVer c s)
  | 0x30 => some (execAttest c s)
  | 0x31 => some (execVaultClearCounters c s)
  | _ => none

/-- The opcodes of keyView. -/
def cmdOfKeyView (op : Nat) (c : Cmd) (s : State) : Option Out :=
  match op with
  | 0x10 => some (execUnsealChal c s)
  | 0x11 => some (execUnseal c s)
  | 0x12 => some (execSeal c s)
  | 0x13 => some (execDormant c s)
  | 0x14 => some (execWake c s)
  | 0x15 => some (execRootGen c s)
  | 0x16 => some (execRootLoad c s)
  | 0x17 => some (execVaultAuthLoad c s)
  | 0x20 => some (execKeyDerive c s)
  | 0x21 => some (execKeyUnwrap c s)
  | 0x22 => some (execKeyGen c s)
  | 0x23 => some (execKeyClear c s)
  | 0x24 => some (execKeySet c s)
  | 0x28 => some (execEncrypt c s)
  | 0x29 => some (execDecrypt c s)
  | 0x2A => some (execMacGen c s)
  | 0x2B => some (execMacVer c s)
  | 0x30 => some (execAttest c s)
  | 0x31 => some (execVaultClearCounters c s)
  | _ => none

/-- The opcodes of derailleur. -/
def cmdOfDerailleur (op : Nat) (c : Cmd) (s : State) : Option Out :=
  match op with
  | 0x10 => some (execShareApply c s)
  | 0x11 => some (execShareClearCounters c s)
  | _ => none

/-- The opcodes of viCtrl. -/
def cmdOfViCtrl (op : Nat) (c : Cmd) (s : State) : Option Out :=
  match op with
  | 0x10 => some (execViCreate c s)
  | 0x11 => some (execViRun c s)
  | 0x12 => some (execQuiesce c s)
  | 0x13 => some (execKill c s)
  | 0x14 => some (execViReset c s)
  | 0x15 => some (execViDestroy c s)
  | 0x16 => some (execMigrate c s)
  | 0x17 => some (execViSave c s)
  | 0x18 => some (execViRestore c s)
  | _ => none

/-- The opcodes of hartCluster. -/
def cmdOfHartCluster (op : Nat) (c : Cmd) (s : State) : Option Out :=
  match op with
  | 0x10 => some (execHartStart c s)
  | 0x11 => some (execHartStop c s)
  | _ => none

/-- The opcodes of devXlate. -/
def cmdOfDevXlate (op : Nat) (c : Cmd) (s : State) : Option Out :=
  match op with
  | 0x10 => some (execXlateInval c s)
  | 0x11 => some (execRxEnable c s)
  | 0x12 => some (execRxDisable c s)
  | 0x13 => some (execRxRestart c s)
  | _ => none

/-- The opcodes of egressView. -/
def cmdOfEgressView (op : Nat) (c : Cmd) (s : State) : Option Out :=
  match op with
  | 0x10 => some (execEgSend c s)
  | 0x11 => some (execEgressClearCounters c s)
  | _ => none

/-- The opcodes of dirtyLog. -/
def cmdOfDirtyLog (op : Nat) (c : Cmd) (s : State) : Option Out :=
  match op with
  | 0x10 => some (execLogStart c s)
  | 0x11 => some (execLogSwap c s)
  | 0x12 => some (execLogStop c s)
  | _ => none

/-- The block-specific commands. -/
def cmdOfBlock (b : Block) (op : Nat) (c : Cmd) (s : State) : Option Out :=
  match b with
  | .capture => cmdOfCapture op c s
  | .captureView => cmdOfCaptureView op c s
  | .coaster => cmdOfCoaster op c s
  | .crank => cmdOfCrank op c s
  | .crankView => cmdOfCrankView op c s
  | .crankTask => cmdOfCrankTask op c s
  | .cyclometer => cmdOfCyclometer op c s
  | .dram => cmdOfDram op c s
  | .filter => cmdOfFilter op c s
  | .detector => cmdOfDetector op c s
  | .frameAuth => cmdOfFrameAuth op c s
  | .svIngest => cmdOfSvIngest op c s
  | .lane => cmdOfLane op c s
  | .phyCopper => cmdOfPhyCopper op c s
  | .resetKs => cmdOfResetKs op c s
  | .spoke => cmdOfSpoke op c s
  | .axle => cmdOfAxle op c s
  | .xspiBoot => cmdOfXspiBoot op c s
  | .mechanic => cmdOfMechanic op c s
  | .peloton => cmdOfPeloton op c s
  | .pelotonView => cmdOfPelotonView op c s
  | .pelotonFlow => cmdOfPelotonFlow op c s
  | .flowView => cmdOfFlowView op c s
  | .option => cmdOfOption op c s
  | .xspiRetain => cmdOfXspiRetain op c s
  | .saddlebag => cmdOfSaddlebag op c s
  | .pmbus => cmdOfPmbus op c s
  | .switchPort => cmdOfSwitchPort op c s
  | .switch => cmdOfSwitch op c s
  | .tandemLane => cmdOfTandemLane op c s
  | .timeBase => cmdOfTimeBase op c s
  | .timeTrigger => cmdOfTimeTrigger op c s
  | .timerView => cmdOfTimerView op c s
  | .tripIo => cmdOfTripIo op c s
  | .keyVault => cmdOfKeyVault op c s
  | .keyView => cmdOfKeyView op c s
  | .derailleur => cmdOfDerailleur op c s
  | .viCtrl => cmdOfViCtrl op c s
  | .hartCluster => cmdOfHartCluster op c s
  | .devXlate => cmdOfDevXlate op c s
  | .egressView => cmdOfEgressView op c s
  | .dirtyLog => cmdOfDirtyLog op c s
  | _ => none

/-- A command whose opcode the page does not know (R64): refused with BAD_ARG. -/
def execUnknown (b : Block) (op : Nat) (c : Cmd) (s : State) : Out :=
  command s c b op (fun _ _ => { Checks.pass with argOk := false }) (fun _ t => .done t)

/-- The command of a page that an opcode names (R61, R65). -/
def execOp (b : Block) (op : Nat) (c : Cmd) (s : State) : Out :=
  if op = 0 then execNop b c s
  else if op = 1 then execEventTest b c s
  else (cmdOfBlock b op c s).getD (execUnknown b op c s)

/-- A write of CMD with a 32-bit value (R61). -/
def execCmdWord (b : Block) (die cluster : Nat) (view : Option Nat) (w : Who) (v : Nat) (s : State) : Out :=
  execOp b (v % 256) ⟨die, cluster, if blockIsView b then view else none, fld v 15 8, fld v 31 16, w⟩ s

end Sys2Proof.Machine
end

