-- ==== Sys2Proof/Machine/Snapshot.lean ====
section
/-!
DEFINITION. Sys2Proof/Machine/Snapshot.lean: snapshot sets (R577, R578).
-/
namespace Sys2Proof.Machine

/-- The value words of one entry of a set, and whether each could be read (R577, R578): a read fails when its die is
absent or lost, or when its page lies in a held domain. -/
def snapWords (s : State) (hub : Nat) (e : Nat) : List (Nat × Bool) :=
  let n := if bit e 21 then 2 else 1
  let fails := List.replicate n (0, false)
  if !(hubReaches s hub (fld e 2 0)) then fails
  else match pageAt s (fld e 2 0) (fld e 10 3) with
    | none => List.replicate n (0, true)
    | some p =>
      if !(pageRun s p.1 p.2) then fails
      else
        let off := fld e 20 11 * 4
        let v := readAt s p.1 p.2 127 none off
        if bit e 21 then
          let w := if v.2.1 then v.1 else v.1 % 2 ^ 32
          [(w % 2 ^ 32, true), (w / 2 ^ 32, true)]
        else [(part false v.2.2 v.1, true)]

/-- Words of 32 bits joined in pairs, padded with zeros. -/
def joinWords : List Nat → List Nat
  | [] => []
  | [a] => [a]
  | a :: b :: rest => (a + b * 2 ^ 32) :: joinWords rest

/-- The access of a snapshot's read to its page (R578), where the page takes it. -/
def snapAccess (hub : Nat) (s : State) (e : Nat) : State :=
  if hubReaches s hub (fld e 2 0) then
    match pageAt s (fld e 2 0) (fld e 10 3) with
    | some p => if pageRun s p.1 p.2 then cyc s p.1 p.2 0x01 0 1 none else s
    | none => s
  else s

/-- SNAPSHOT_TRIGGER, R578: a set whose trigger is pending is read in entry order and its record queued. -/
def execSnapshotTrigger (hub set : Nat) (s : State) : Out :=
  let k := snapOf (sbagOf s hub) set
  match k.pending with
  | none => .next s
  | some cause =>
    if isHub hub && domRun s hub 0 && set < 8 then
      let ws := k.entries.flatMap (snapWords s hub)
      let failed := (ws.zipIdx.map (fun w => if w.1.2 then 0 else 2 ^ w.2)).sum
      let r := ownRec s hub cause (0xF100 + set) 1 true
        (ctsNow s hub :: failed % 2 ^ 32 :: joinWords (ws.map (fun w => w.1)))
      let s1 := putSnap (tickPageBy (k.entries.foldl (snapAccess hub) s) hub hub .saddlebag cause) hub set { k with pending := none }
      .next (enqueue (incr s1 hub R.SS_TAKEN set 1) hub r)
    else .next s

end Sys2Proof.Machine
end

