-- ==== Sys2Proof/Machine/Pages.lean ====
section
/-!
DEFINITION. Sys2Proof/Machine/Pages.lean: a read and a write at any offset of any page (R10, R58 to R61, R67 to R72,
R616). The rows of register accesses are the cases of these two.
-/
namespace Sys2Proof.Machine

/-! ### Writes of the header -/

/-- Change the header of the page of an access. -/
def onHdr (a : Access) (f : Hdr → Hdr) (s : State) : State :=
  setHdr s (accLoc a) a.blk (f (hdr s (accLoc a) a.blk))

/-- Change the banked header of the initiator of an access. -/
def onBank (a : Access) (f : Bank → Bank) (s : State) : State :=
  setBank s (accLoc a) a.blk a.who.ini (f (bank s (accLoc a) a.blk a.who.ini))

/-- The 32-bit value that an access writes. -/
def wordOf (a : Access) : Nat := a.value % 2 ^ 32

/-- A W1C write of EVENT: the bits that are 1 in the value and in EVENT are cleared (R67). The flow number in EVENT [27:16] of
PELOTON_FLOW and FLOW_VIEW is cleared by no write (R301, R304). -/
def eventClear (a : Access) : State → State :=
  let keep := if a.blk = .pelotonFlow ∨ a.blk = .flowView then 0xFFF * 2 ^ 16 else 0
  onHdr a (fun h => { h with event := h.event ^^^ (h.event &&& (wordOf a &&& (keep ^^^ (2 ^ 32 - 1)))) })

/-- A write of EVENT_EN: where it enables a bit that is already 1, an interrupt is raised (R69). -/
def eventEnable (a : Access) (s : State) : State :=
  let h := hdr s (accLoc a) a.blk
  let s1 := onHdr a (fun h => { h with eventEn := wordOf a }) s
  if h.event &&& (wordOf a &&& (h.eventEn ^^^ (2 ^ 32 - 1))) = 0 then s1 else raiseIrq s1 (accLoc a) a.blk

/-- A write of PAGE_LOCK: 1 sets LOCK, 0 does nothing (R72). -/
def lockPage (a : Access) : State → State :=
  onHdr a (fun h => { h with lock := h.lock || bit a.value 0 })

/-- A write of IRQ_TARGET; in a view it is read only for the guest (R74). -/
def irqTargetWrite (a : Access) (s : State) : State :=
  if blockIsView a.blk && a.who.vi.isSome then s
  else onHdr a (fun h => { h with irqTarget := wordOf a &&& 0x800000FF }) s

/-- A write at an offset of the header but CMD (R60, R61). SEL keeps and reads back the value written; one above SEL_LIMIT is
taken as SEL_LIMIT where an instance is chosen (R59; DESIGN CHOICE, assumption 113). -/
def headerWrite (a : Access) (s : State) : State :=
  match a.off / 4 * 4 with
  | 0x00C => lockPage a s
  | 0x014 => onBank a (fun k => { k with cmdArg := wordOf a }) s
  | 0x02C => eventClear a s
  | 0x030 => eventEnable a s
  | 0x038 => irqTargetWrite a s
  | 0x03C => onHdr a (fun h => { h with refuseLog := wordOf a % 2 }) s
  | 0x050 => onBank a (fun k => { k with sel := wordOf a % 65536 }) s
  | _ => s

/-! ### Writes of the blocks' registers -/

/-- The value that a register takes for a written one, where its table narrows it (R88, R94, R167, R168). -/
def taken (s : State) (t : Target) (v : Nat) : Nat :=
  if t.reg = R.SLEW_LIMIT then max 1 (min 500 v)
  else if t.reg = R.Q_CFG then if fld v 27 16 = 0 then v + 2 ^ 16 else v
  else if t.reg = R.Q_MAX_SDU then min v (portMtu s t.loc (t.inst / 8))
  else if t.reg = R.PORT_HOLD_UP then min v 10000
  else if t.reg = R.CAP_SIZE then min v 49152
  else v

/-- A write that only the lead's Mechanic makes (R546), and the start-up loader. -/
def leadWrite (a : Access) (t : Target) (v : Nat) (s : State) : State :=
  if isLead s t.loc a.who || isLoader a.who then writeT s t v else s

/-- A write of RK_DBG_MASK by initiator 112; other writes are ignored (R533). -/
def dbgMaskWrite (a : Access) (t : Target) (v : Nat) (s : State) : State := if a.who.ini = 112 then writeT s t v else s

/-- What a granted write of a register does: the effect that a rule gives the register, and otherwise the field takes
the value. -/
def regEffect (a : Access) (t : Target) (v : Nat) (s : State) : State :=
  if t.reg = R.OFFSET_IN then offsetWrite t v s
  else if t.reg = R.FREQ_TRIM then refreshAddend (writeT s t v) t.loc
  else if t.reg = R.AG_CTRL then refreshGm (writeT s t v) t.loc
  else if t.reg = R.TRG_PERIOD ∨ t.reg = R.TRG_WIDTH ∨ t.reg = R.TRG_RATE then trgWrite t v s
  else if t.reg = R.Q_RSV then qRsvWrite t v s
  else if t.reg = R.LP_CFG then lpCfgWrite t v s
  else if t.reg = R.SD_CFG then sdCfgWrite t v s
  else if t.reg = R.GW_CFG then gwCfgWrite t v s
  else if t.reg = R.TL_CFG then tlCfgWrite t v s
  else if t.reg = R.TIO_SW_SET then tioDemand (locDie t.loc) a.who true v s
  else if t.reg = R.TIO_SW_CLR then tioDemand (locDie t.loc) a.who false v s
  else if t.reg = R.SW_ALIVE then swAlive a t v s
  else if t.reg = R.TD_PERMIT then tdPermit a.who t v s
  else if t.reg = R.WDT_KICK then wdtKick a.who t v s
  else if t.reg = R.RESET_CAUSE then clearCauses t v s
  else if t.reg = R.RK_DBG_MASK then dbgMaskWrite a t v s
  else if t.reg = R.MC_RENEW then renewLease a.who t v s
  else if t.reg = R.MC_CAND then refreshCand a.who t v s
  else if t.reg = R.SB_SEEK then sbSeek a.who.ini t v s
  else if t.reg = R.RL_CFG then railWrite a.who t v s
  else if t.reg = R.RL_VMIN ∨ t.reg = R.AVS_CFG then leadWrite a t v s
  else writeT s t (taken s t v)

/-- The measurement register and the word of it that an offset of KEY_VAULT names (R502). -/
def measOf (off : Nat) : Option (Nat × Nat) :=
  if 0xA80 ≤ off ∧ off < 0xB10 then some ((off - 0xA80) / 48, (off - 0xA80) % 48 / 4) else none

/-- A word of a measurement register is written; the last word locks the register until POR (R502). A 64-bit access
writes its word alone. -/
def measPut (a : Access) (e w : Nat) (s : State) : State :=
  let hub := accLoc a
  let s1 := wr s hub (R.VT_MEAS0_2.nth (12 * e + w)) 0 (wordOf a)
  let v := vaultOf s1 hub
  if w = 11 then putVault s1 hub { v with measLocked := e :: v.measLocked } else s1

/-- A write of a measurement register: by class M alone, and denied with reason 2 once it is locked (R502). -/
def measWrite (a : Access) (e w : Nat) (s : State) : Out :=
  if classOf a.who.ini = .m then
    match gate s (accLoc a) a.blk a.who a.off a.wide true with
    | .pass =>
      if (vaultOf s (accLoc a)).measLocked.contains e then .next (deny s (accLoc a) a.blk a.who a.off 2 true)
      else writeGate a false (measPut a e w) s
    | _ => writeGate a false (fun t => t) s
  else writeGate a false (fun t => t) s

/-- A write of an input mailbox word through CRANK_VIEW, by the group of the Crank's owner (R392). -/
def mailboxWrite (a : Access) (s : State) : State :=
  let d := serveDie s (accLoc a) a.blk
  if crOwner s d (accLoc a / 8) && decide (0xA00 ≤ a.off ∧ a.off < 0xC00) then
    wr s d (R.CRANK_MBX_IN.nth ((a.off - 0xA00) / 4)) 0 (wordOf a)
  else s

/-- A write at any offset of any page. -/
def writeAny (a : Access) (s : State) : Out :=
  if a.off = 0x010 then execCmdWord a.blk a.die a.cluster a.view a.who (wordOf a) s
  else if a.off < 0x080 then writeGate a false (headerWrite a) s
  else if 0xF00 ≤ a.off then execCounterSelectWrite a s
  else if a.blk = .crankView ∧ 0xA00 ≤ a.off then writeGate a false (mailboxWrite a) s
  else if a.blk = .keyVault then
    match measOf a.off with
    | some (e, w) => measWrite a e w s
    | none => writeReg a (regEffect a) s
  else writeReg a (regEffect a) s

/-! ### Reads -/

/-- What an offset of a page shows while the page's domain is held (R616). -/
def heldAt (s : State) (a : Access) : Nat :=
  let loc := accLoc a
  if a.off < 0x080 then
    let h := headerOf s loc a.blk a.who.ini a.off
    if h.2 then 0 else headerHeld s loc a.blk a.who.ini a.off
  else if 0xF00 ≤ a.off then 0
  else match target s loc a.blk a.who.ini a.off with
    | some t => if t.reg.acc = .wo then 0 else part (a.wide && t.reg.wide) false (heldValue s t)
    | none => 0

/-- The registers that a read clears (R10): SET_AGAIN, DENY_INFO, and each RC register, which returns to its reset
value. -/
def readClears (a : Access) (s : State) : State :=
  let loc := accLoc a
  if a.off < 0x080 then
    match a.off / 4 * 4 with
    | 0x034 => onHdr a (fun h => { h with setAgain := 0 }) s
    | 0x064 => onHdr a (fun h => { h with denyInfo := 0 }) s
    | _ => s
  else if 0xF00 ≤ a.off then s
  else match target s loc a.blk a.who.ini a.off with
    | some t => if t.reg.acc = .rc then writeT s t (resetVal t.reg t.loc t.inst) else s
    | none => s

/-- A read that has no effect of its own: the value, by one access or by words (R70), and what it clears (R10). -/
def readPlain (a : Access) (s : State) : Out :=
  readGate a (heldAt s a) (fun t =>
    let r := readAt t (accLoc a) a.blk a.who.ini a.view a.off
    let t1 := if r.2.1 then readWide a (a.off / 8 * 8) r.2.2 r.1 t else respond t (r.1 % 2 ^ 32)
    readClears a t1) s

/-- A read at any offset of any page. -/
def readAny (a : Access) (s : State) : Out :=
  if (a.blk = .peloton ∨ a.blk = .pelotonView) ∧ a.off = R.TAKE.off then execTakeStart a s
  else if a.blk = .saddlebag ∧ a.off = R.SB_NEXT.off then execSbNextRead a s
  else if a.blk = .timeBase ∧ a.off = R.TIME_SEC.off then execTimeSnapshotRead a s
  else if a.blk = .timeCounter ∧ a.off = R.STAMP.off then execStampRead a s
  else if a.blk = .counterView ∧ 0x800 ≤ a.off ∧ a.off < 0x840 ∧ aligned a.who a.off a.wide then execCvSlotRead a s
  else readPlain a s

/-! ### The rows -/

/-- EVENT_W1C_WRITE, R67. -/
def execEventW1cWrite (a : Access) (s : State) : Out :=
  let a := { a with off := 0x02C }
  writeGate a false (eventClear a) s

/-- EVENT_EN_WRITE, R69. -/
def execEventEnWrite (a : Access) (s : State) : Out :=
  let a := { a with off := 0x030 }
  writeGate a false (eventEnable a) s

/-- READ_CLEAR_READ, R10: a read of a register that the read may clear. -/
def execReadClearRead (a : Access) (s : State) : Out := readAny a s

/-- PAGE_LOCK_WRITE, R72. -/
def execPageLockWrite (a : Access) (s : State) : Out :=
  let a := { a with off := 0x00C }
  writeGate a false (lockPage a) s

/-- LOW_WORD_READ, R70: a 32-bit read of the word whose offset is a multiple of 8. -/
def execLowWordRead (a : Access) (s : State) : Out := readAny { a with off := a.off / 8 * 8, wide := false } s

/-- LOW_WORD_WRITE, R71: a 32-bit write of the word whose offset is a multiple of 8. -/
def execLowWordWrite (a : Access) (s : State) : Out := writeAny { a with off := a.off / 8 * 8, wide := false } s

/-- HIGH_WORD_WRITE, R71: a 32-bit write of the word above it. -/
def execHighWordWrite (a : Access) (s : State) : Out := writeAny { a with off := a.off / 8 * 8 + 4, wide := false } s

/-- REGISTER_WRITE, R60. -/
def execRegisterWrite (a : Access) (s : State) : Out := writeAny a s

end Sys2Proof.Machine
end

