-- ==== Sys2Proof/Machine/Loader.lean ====
section
/-!
DEFINITION. Sys2Proof/Machine/Loader.lean: the table records of an image, and the start-up loader that applies them
(R169, R436, R457, R522, R554).
-/
namespace Sys2Proof.Machine

/-- A table record (R554): block type code, operation (0 write32, 1 write64, 2 command), offset, SEL, and its value; for
a command CMD_ARG in the low word and CMD in the high word. -/
structure TableRec where
  code : Nat
  op : Nat
  off : Nat
  sel : Nat
  value : Nat
  deriving DecidableEq, Repr

/-- The first record of some bytes (R554). A record whose operation the manual does not define, or whose value is cut
short, ends the list. -/
def recHead (bs : List Byte) : Option TableRec :=
  let op := optField bs 2 1
  let n := if op = 0 then 4 else 8
  if op ≤ 2 ∧ 8 + n ≤ bs.length then
    some ⟨optField bs 0 2, op, optField bs 4 2, optField bs 6 2, optField bs 8 n⟩
  else none

/-- The records of a component, in their order; `fuel` bounds their number. -/
def tableRecs : Nat → List Byte → List TableRec
  | 0, _ => []
  | fuel + 1, bs =>
    match recHead bs with
    | some r => r :: tableRecs fuel (bs.drop (if r.op = 0 then 12 else 16))
    | none => []

/-- The records of the component of a type in a slot; none where the slot has no such component. -/
def slotRecs (f : BootFlash) (slot type : Nat) : Option (List TableRec) :=
  (compOf f slot type).map (fun c => tableRecs (c.len / 12 + 1) (compBytes f slot c))

/-- The start-up loader (R57). -/
def loaderWho : Who := ⟨127, none⟩

/-- The page that a record names: a page type of R53. -/
def recBlock (r : TableRec) : Option Block := blockAll.find? (fun b => blockCode b == r.code)

/-- The loader's SEL and CMD_ARG in a page of its hub. -/
def loaderBank (s : State) (hub : Nat) (b : Block) (sel : Nat) (arg : Option Nat) : State :=
  let k := bank s hub b 127
  setBank s hub b 127 { k with sel := sel, cmdArg := arg.getD k.cmdArg }

/-- Apply a record on its hub's page (R522, R554): a write or a command, at its own grant. -/
def applyTableRec (hub : Nat) (s : State) (r : TableRec) : State :=
  match recBlock r with
  | none => s
  | some b =>
    if r.op = 2 then
      let s1 := loaderBank s hub b r.sel (some (r.value % 2 ^ 32))
      outState s1 (execCmdWord b hub 0 none loaderWho (r.value / 2 ^ 32) s1)
    else
      let s1 := loaderBank s hub b r.sel none
      outState s1 (writeAny ⟨hub, b, 0, none, r.off, r.op == 1, r.value, loaderWho⟩ s1)

/-- Apply records in their order. The loader's accesses answer to nobody. -/
def applyTable (s : State) (hub : Nat) (rs : List TableRec) : State :=
  { rs.foldl (applyTableRec hub) s with resp := s.resp }

/-- The component type of a domain's table records (R554). -/
def loadType (dom : Nat) : Nat := if dom = 5 then 4 else if dom = 7 then 5 else if dom = 8 then 6 else 7

/-- The place of a domain in RK_LOADER (R533). -/
def loadBit (dom : Nat) : Nat := loadType dom - 4

/-- The version of a slot's image (R554). -/
def imgVersion (f : BootFlash) (slot : Nat) : Nat := imgField f slot 8 4 % 65536

/-- The hub's boot ROM has chosen a slot, or has found none (R540, R556). -/
def bootEnded (s : State) (hub : Nat) : Bool :=
  (mechOf s hub).runs || bit (rd s hub R.MC_BOOT 0) 2 || fld (rd s hub R.MC_BOOT 0) 7 4 != 0

/-- The records that a load of a domain applies: none where the image is missing or invalid (R522). -/
def loadRecs (s : State) (hub dom : Nat) : Option (List TableRec) :=
  if bootVerified s hub then slotRecs (flashOf s hub) (bootedSlot s hub) (loadType dom) else none

/-- The Coaster has loaded an image: CO_STATUS shows its version, with EVENT IMAGE_LOADED (R443). -/
def coImage (s : State) (hub ver : Nat) : State :=
  hwEvent (wr s hub R.CO_STATUS 0 (2 + ver * 2 ^ 16)) hub .coaster 6

/-- A load ends: RK_LOADER shows it, a load that failed sets EVENT [3], and COASTER's shows in CO_STATUS (R446, R522,
R533). -/
def endLoad (s : State) (hub dom : Nat) (ok : Bool) : State :=
  let v := rd s hub R.RK_LOADER 0
  let ver := if ok then imgVersion (flashOf s hub) (bootedSlot s hub) else fld v 31 16
  let s1 := wr s hub R.RK_LOADER 0
    (setFld (setBit (setBit v (loadBit dom) ok) (4 + loadBit dom) (!ok)) 31 16 ver)
  let s2 := if dom = 9 then (if ok then coImage s1 hub ver else wr s1 hub R.CO_STATUS 0 1) else s1
  let s3 := putRst s2 hub { rstOf s2 hub with loading := 0 }
  tryRelease (if ok then s3 else hwEvent s3 hub .resetKs 3) hub

/-- What both hubs must set alike in the lanes: MODE, REDBOX and SUP_ADDR (R169). -/
def laneSettings (s : State) (hub : Nat) : Nat := rd s hub R.LANE_CFG 0 &&& 0xFF07

/-- A lane of the hub names a second LANE port in HSR mode (R170). -/
def secondLanePort (s : State) (hub : Nat) : Bool :=
  decide (laneSettings s hub % 4 = 2) && [0, 1].any (fun l =>
    decide (1 < ((List.range 12).filter (fun p => portLane s hub p == l && rd s hub R.LP_CFG p % 4 == 1)).length))

/-- A hub's lane logic stays OFF with CFG_MISMATCH (R169, R170). -/
def laneMismatch (s : State) (hub : Nat) : State :=
  setStatus (setLane s hub { laneOf s hub with mismatch := true }) hub .lane (setBit (hdr s hub .lane).status 2 true)

/-- The checks that the lane logic makes at the release of NET, once its configuration is loaded (R169, R170). -/
def laneCompare (s : State) (hub : Nat) : State :=
  let s1 := if secondLanePort s hub then laneMismatch s hub else s
  if present s1 1 && netLoaded s1 0 && netLoaded s1 1 && laneSettings s1 0 != laneSettings s1 1 then
    laneMismatch (laneMismatch s1 0) 1
  else s1

/-- A start-up load of a domain runs (R436, R522). -/
def runLoad (s : State) (hub dom : Nat) : State :=
  let s1 := match loadRecs s hub dom with
    | some rs => endLoad (applyTable s hub rs) hub dom true
    | none => endLoad s hub dom false
  if dom = 7 then tandemCompare (laneCompare s1 hub) else s1

/-- STARTUP_LOAD, R522: the load of TIME, NET, INGEST or COASTER that runs at a hub ends. -/
def execStartupLoad (hub : Nat) (s : State) : Out :=
  let dom := (rstOf s hub).loading
  .next (if isHub hub && dom != 0 && domRun s hub dom && bootEnded s hub then runLoad s hub dom else s)

/-- COASTER_TABLE_LOAD, R436: the load at the first release of COASTER after a reset of die reach. -/
def execCoasterTableLoad (hub : Nat) (s : State) : Out :=
  let dom := (rstOf s hub).loading
  .next (if isHub hub && dom == 9 && domRun s hub dom && bootEnded s hub then runLoad s hub 9 else s)

end Sys2Proof.Machine
end

