-- ==== Sys2Proof/Machine/Update.lean ====
section
/-!
DEFINITION. Sys2Proof/Machine/Update.lean: the ends of the update commands (R446, R556 to R561).
-/
namespace Sys2Proof.Machine

/-! ### Records applied without a stop (R560) -/

/-- The command records that an update applies to a block: PROFILE_LOAD and DET_TUNE of INGEST, ZONE_LOAD and FRAME_LOAD
of COASTER (R560). -/
def hitlessOp (b : Block) (op : Nat) : Bool :=
  match b with
  | .filter => op == 0x10
  | .detector => op == 0x12
  | .coaster => op == 0x10 || op == 0x11
  | _ => false

/-- The records that an update applies: each command of `hitlessOp` with the writes of its page that stand before it since
that page's last command. `held` is the writes not yet claimed, latest first. -/
def hitlessRecs (held : List TableRec) : List TableRec → List TableRec
  | [] => []
  | r :: rest =>
    if r.op = 2 then
      let mine := held.filter (fun h => h.code == r.code)
      let other := held.filter (fun h => h.code != r.code)
      let take := match recBlock r with
        | some b => hitlessOp b (r.value / 2 ^ 32 % 256)
        | none => false
      (if take then mine.reverse ++ [r] else []) ++ hitlessRecs other rest
    else hitlessRecs (r :: held) rest

/-- Apply a record of an update: a ZONE_LOAD of a zone in PICKUP or TRIPPED waits for the zone's next return to IDLE
(R446). -/
def applyHitless (hub : Nat) (s : State) (r : TableRec) : State :=
  let z := zoneOf s hub r.sel
  if r.op = 2 ∧ recBlock r = some .coaster ∧ r.value / 2 ^ 32 % 256 = 0x10 ∧ 3 ≤ z.state ∧ r.sel < 64 then
    let regs := zoneRegs.map (fun g => rd s hub g r.sel)
    if zoneOk s hub regs then putZone s hub r.sel { z with waits := some regs } else applyTableRec hub s r
  else applyTableRec hub s r

/-- The table records of a slot for a domain take effect without a stop (R560). -/
def applySlot (s : State) (hub slot dom : Nat) : State :=
  match slotRecs (flashOf s hub) slot (loadType dom) with
  | some rs =>
    if domRun s hub dom then
      let s1 := { (hitlessRecs [] rs).foldl (applyHitless hub) s with resp := s.resp }
      if dom = 9 then coImage s1 hub (imgVersion (flashOf s1 hub) slot) else s1
    else s
  | none => s

/-- The components of SUB [3:2] take effect from a slot (R560). -/
def applyParts (s : State) (hub slot sub : Nat) : State :=
  let s1 := if bit sub 2 then applySlot s hub slot 8 else s
  if bit sub 3 then applySlot s1 hub slot 9 else s1

/-! ### The commands end (R559, R566) -/

/-- Set the failure and the components applied in MC_UPD_STATE (R565). -/
def putUpdWord (s : State) (hub st fail parts : Nat) : State :=
  wr s hub R.MC_UPD_STATE 0 (setFld (setFld (setFld (rd s hub R.MC_UPD_STATE 0) 2 0 st) 6 4 fail) 11 8 parts)

/-- An update's end: its event, its log entry and the command's result. -/
def endUpd (s : State) (hub : Nat) (t : Ticket) (ok : Bool) (note : Nat) : State :=
  let s1 := hwEvent s hub .mechanic (if ok then 1 else 2)
  finish (pushLog s1 hub 1 9 [t.op, b2n ok]) hub .mechanic t .done note

/-- UPD_VERIFY ends: the slot not booted is valid, or its failure shows (R555, R559). -/
def verifyEnds (s : State) (hub : Nat) (t : Ticket) : State :=
  let slot := 1 - bootedSlot s hub
  let fail := slotFailure s hub slot
  if fail = 0 then
    let s1 := putUpdWord (setUpd s hub { updOf s hub with slot := slot }) hub 2 0 0
    endUpd (wr s1 hub R.MC_UPD_SVN 0 (imgField (flashOf s1 hub) slot 12 4 % 256)) hub t true 1
  else endUpd (putUpdWord s hub 0 fail 0) hub t false 0

/-- UPD_ACTIVATE ends: the components of SUB are applied, and the slot is on trial (R559, R560). -/
def activateEnds (s : State) (hub : Nat) (t : Ticket) : State :=
  endUpd (putUpdWord (applyParts s hub (updOf s hub).slot t.sub) hub 4 0 (t.sub % 16)) hub t true 0

/-- The cores that start from a hub's slots: its own, and the agents that take their component from it (R540). -/
def coresOf (s : State) (hub : Nat) : List Nat :=
  (diesOf s).filter (fun d => d == hub || (!(isHub d) && agentHub s d == some hub))

/-- The core's firmware is no trial any more. -/
def settleFw (s : State) (die : Nat) : State := setMech s die { mechOf s die with trialFw := false }

/-- UPD_COMMIT ends: the trial slot becomes active, and the rollback counter rises to its SVN (R557, R559). -/
def commitEnds (s : State) (hub : Nat) (t : Ticket) : State :=
  let slot := (updOf s hub).slot
  let svn := imgField (flashOf s hub) slot 12 4 % 256
  let s1 := putSelector s hub slot 0 0
  let s2 := wr s1 hub R.MC_ROLLBACK 0 (max (rd s1 hub R.MC_ROLLBACK 0) svn)
  endUpd (putUpdWord ((coresOf s2 hub).foldl settleFw s2) hub 0 0 0) hub t true 0

/-- UPD_ABORT ends: the booted slot's records of SUB [3:2] apply again (R560). -/
def abortEnds (s : State) (hub : Nat) (t : Ticket) : State :=
  let s1 := applyParts s hub (bootedSlot s hub) 12
  endUpd (putUpdWord (setUpd s1 hub { updOf s1 hub with aborting := false }) hub 0 0 0) hub t true 0

/-- The UPD command that runs at a hub. -/
def runningUpd (s : State) (hub : Nat) : Option Ticket :=
  (hdr s hub .mechanic).running.find? (fun t => decide (0x20 ≤ t.op ∧ t.op ≤ 0x23))

/-- UPD_OPERATION_DONE, R559: the UPD command of a hub ends; one that restarts cores has restarted them all (R560). -/
def execUpdOperationDone (hub : Nat) (s : State) : Out :=
  match runningUpd s hub with
  | none => .next s
  | some t =>
    if t.op = 0x20 then .next (verifyEnds s hub t)
    else if t.op = 0x22 then .next (commitEnds s hub t)
    else if (updOf s hub).restarts.isEmpty then
      .next (if t.op = 0x21 then activateEnds s hub t else abortEnds s hub t)
    else .next s

end Sys2Proof.Machine
end

