-- ==== Sys2Proof/Machine/Mgmt.lean ====
section
/-!
DEFINITION. Sys2Proof/Machine/Mgmt.lean: the management port and the command set that the Mechanic's firmware serves on
it (R563, R564, R569).
-/
namespace Sys2Proof.Machine

/-! ### The port (R569) -/

/-- MGMT_LINK_CHANGE, R569: the link of an enabled port passes or fails. -/
def execMgmtLinkChange (hub : Nat) (up gig : Bool) (s : State) : Out :=
  let v := rd s hub R.MG_STATE 0
  let w := setBit (setBit v 0 up) 1 (up && gig)
  if isHub hub && domRun s hub 4 && (bit (rd s hub R.MG_CFG 0) 0 || !up) && w != v then
    .next (hwEvent (wr s hub R.MG_STATE 0 w) hub .mgmtPort 0)
  else .next s

/-- The port receives: enabled, its link passes, and its PHY's island is locked. -/
def mgUp (s : State) (hub : Nat) : Bool :=
  isHub hub && domRun s hub 4 && bit (rd s hub R.MG_CFG 0) 0 && rd s hub R.MG_STATE 0 % 2 == 1 && !(bit (rd s hub R.MG_STATE 0) 2)

/-- A frame is received and stamped (R563), and acted on by what follows (R107). -/
def mgTakes (s : State) (hub : Nat) (f : State → State) : State :=
  causedBy (stampOf s hub 290 0).cts f (incr (tickSrc s hub 290) hub R.MG_RX_FRAMES 0 1)

/-- The port's own MAC address. -/
def mgMac (s : State) (hub : Nat) : Nat := rd s hub R.MG_MAC 0 % 2 ^ 48

/-- A frame leaves the port, stamped (R563). -/
def mgSend (s : State) (hub dst etype len : Nat) (bs : List Byte) : State :=
  let st := stampOf s hub 291 0
  let f : Frame := ⟨dst, mgMac s hub, none, etype, 0, none, max 64 len, bs, false, false, none, .other⟩
  let s1 := incr (tickSrc s hub 291) hub R.MG_TX_FRAMES 0 1
  { s1 with sent := s1.sent ++ [⟨hub, 13, f, st.cts, st.order, false⟩] }

/-! ### Requests and responses (R564) -/

/-- The header and the payload of a message (R564). -/
def mgMessage (code status session seq : Nat) (payload : List Byte) : List Byte :=
  bytesLE 2 code ++ bytesLE 2 status ++ bytesLE 4 session ++ bytesLE 8 seq ++ bytesLE 4 payload.length ++ payload

/-- MG_KEY, the slot k that verifies requests (R563). -/
def mgKey (s : State) (hub : Nat) : Nat := optHalf s hub 80

/-- A slot of the port serves: LOADED, with an ATTR, for HMAC-SHA-256. -/
def mgSlot (s : State) (hub slot attr : Nat) : Bool :=
  vaultState s hub == 1 && slotLoaded s hub slot && slotAttr s hub slot == attr && slotAlg s hub slot == 1

/-- The tag of a message under a slot. -/
def mgTag (s : State) (hub slot : Nat) (msg : List Byte) : List Byte := fitBytes 32 (Config.hmac (keyOf s hub slot) msg)

/-- Answer a request: the code with bit 15, the status, and a tag under slot k + 1 where that slot serves. -/
def mgAnswer (s : State) (hub code : Nat) (m : MgReq) (status : Nat) (payload : List Byte) : State :=
  let msg := mgMessage (code + 0x8000) status m.session m.seq (payload.take 1400)
  let k := mgKey s hub + 1
  if 0x10 ≤ code && mgSlot s hub k 4 then
    mgSend (useKey s hub k) hub m.src 0x0800 (msg.length + 78) (msg ++ mgTag s hub k msg)
  else mgSend s hub m.src 0x0800 (msg.length + 46) msg

/-- The request's tag verifies under slot k (R564). -/
def mgTagOk (s : State) (hub code : Nat) (m : MgReq) : Bool :=
  mgSlot s hub (mgKey s hub) 5 && m.tag == mgTag s hub (mgKey s hub) (mgMessage code 0 m.session m.seq m.payload)

/-- The request's sequence is not higher than its session's last. -/
def mgReplay (s : State) (hub : Nat) (m : MgReq) : Bool :=
  match (mechOf s hub).sessions.find? (fun e => e.1 == m.session) with
  | some e => decide (m.seq ≤ e.2)
  | none => false

/-- The core keeps the last sequence of 16 sessions (R564). -/
def mgKeep (s : State) (hub : Nat) (m : MgReq) : State :=
  let k := mechOf s hub
  setMech s hub { k with sessions := ((m.session, m.seq) :: k.sessions.filter (fun e => e.1 != m.session)).take 16 }

/-- What serving a request brings: the state, the status and the payload. -/
structure MgEnd where
  state : State
  status : Nat
  payload : List Byte

/-- A request is received and served (R564): a malformed one is answered with 0x000F, one of a code from 0x10 up with DENIED
while the vault is not OPEN, and one that fails its tag or repeats a sequence is dropped. -/
def mgServe (hub code : Nat) (m : MgReq) (serve : State → MgEnd) (s : State) : Out :=
  if !(mgUp s hub) then .next s
  else .next (mgTakes s hub (fun s1 =>
    if !(mechOf s1 hub).runs then s1
    else if !m.wellFormed then mgAnswer s1 hub code m 0xF []
    else if 0x10 ≤ code && vaultState s1 hub != 1 then mgAnswer s1 hub code m 5 []
    else if 0x10 ≤ code && !(mgTagOk s1 hub code m) then incr s1 hub R.MG_AUTH_FAIL 0 1
    else if mgReplay s1 hub m then incr s1 hub R.MG_REPLAY 0 1
    else
      let s2 := mgKeep (if 0x10 ≤ code then useKey s1 hub (mgKey s1 hub) else s1) hub m
      let e := serve s2
      { mgAnswer e.state hub code m e.status e.payload with resp := s.resp }))

/-- The hub's core as an initiator (R539). -/
def mgWho (hub : Nat) : Who := ⟨96 + hub, none⟩

/-! ### Vault commands (R498, R501) -/

/-- The engine of a hub ends the commands that wait, the relayed one last. -/
def runVault (hub : Nat) : Nat → State → State
  | 0, s => s
  | n + 1, s => runVault hub n (outState s (execVaultCommandEnd hub s))

/-- A request relayed to the vault: VT_IN_LEN, VT_BUF and the command, and its end. A vault whose KEY domain is held takes
no command, and the request is answered with TIMEOUT. -/
def relayVault (hub op : Nat) (input : List Byte) (s : State) : MgEnd :=
  let ini := 96 + hub
  if domRun s hub 3 then
    let s1 := putBuf (wrV s hub .keyVault ini R.VT_IN_LEN input.length) hub .keyVault ini input
    let s2 := outState s1 (keyCommand ⟨hub, 0, none, 0, 0, mgWho hub⟩ op s1)
    let s3 := if (bank s2 hub .keyVault ini).cmdResult % 16 = 1 then runVault hub (vaultOf s2 hub).jobs.length s2 else s2
    let code := (bank s3 hub .keyVault ini).cmdResult % 16
    ⟨s3, code, if code = 0 then (vtBuf s3 hub .keyVault ini).take (rdV s3 hub .keyVault ini R.VT_OUT_LEN) else []⟩
  else ⟨s, 7, []⟩

/-- The values of IDENTIFY: variant, serial, versions, role and level. -/
def identity (s : State) (hub : Nat) : List Nat :=
  let variant := match s.variant with | .kz8 => 8 | .kz4 => 4 | .kz2 => 2
  variant :: (List.range 4).map (fun k => rd s hub (R.VT_SERIAL.nth k) 0) ++
    [rd s hub R.MC_BOOT 0, rd s hub R.MC_LEASE 0, rd s hub R.TD_STATE 0, rd s hub R.DL_LEVEL 0]

/-- MG_IDENTIFY, R564. -/
def execMgIdentify (hub : Nat) (m : MgReq) (s : State) : Out :=
  mgServe hub 0x01 m (fun t => ⟨t, 0, Config.mgPayload 0x01 (identity t hub)⟩) s

/-- MG_ATTEST, R564: a statement for the nonce of the payload, with the user data that follow it. -/
def execMgAttest (hub : Nat) (m : MgReq) (s : State) : Out :=
  mgServe hub 0x02 m (relayVault hub 0x30 (fitBytes 64 m.payload)) s

/-- MG_UNSEAL_CHAL, R564. -/
def execMgUnsealChal (hub : Nat) (m : MgReq) (s : State) : Out := mgServe hub 0x03 m (relayVault hub 0x10 []) s

/-- MG_UNSEAL, R564. -/
def execMgUnseal (hub : Nat) (m : MgReq) (s : State) : Out :=
  mgServe hub 0x04 m (relayVault hub 0x11 (m.payload.take 768)) s

/-! ### Reads -/

/-- MG_READ_SENSORS, R564. -/
def execMgReadSensors (hub : Nat) (m : MgReq) (s : State) : Out :=
  mgServe hub 0x10 m (fun t => ⟨t, 0, Config.mgPayload 0x10
    ((List.range 64).flatMap (fun n => [rd t hub R.SN_VALUE n, rd t hub R.SN_STATE n]))⟩) s

/-- Entries of the log in flash from a sequence up, oldest first. -/
def logFrom (f : BootFlash) (first : Nat) : List (Nat × Nat) :=
  ((logEntries f).filter (fun e => decide (first ≤ e.2))).mergeSort (fun a b => a.2 ≤ b.2)

/-- MG_READ_LOG, R564: the entries from a sequence on, as many as a payload holds. -/
def execMgReadLog (hub : Nat) (m : MgReq) (first : Nat) (s : State) : Out :=
  mgServe hub 0x11 m (fun t =>
    let f := flashOf t hub
    ⟨t, 0, ((logFrom f first).take 21).flatMap (fun e => flashRead f e.1 64)⟩) s

/-- The status that a register access gives: an access fault has no result code of its own and counts as BAD_ARG. -/
def respStatus (s : State) : Nat := match s.resp with | .accessFault => 4 | _ => 0

/-- The value that a register access returned. -/
def respValue (s : State) : Nat := match s.resp with | .value v => v | _ => 0

/-- MG_READ_PAGE, R564: the core reads the register, in class M (R28, R539). -/
def execMgReadPage (hub : Nat) (m : MgReq) (a : Access) (s : State) : Out :=
  mgServe hub 0x12 m (fun t =>
    let u := outState t (readAny { a with who := mgWho hub } t)
    ⟨u, respStatus u, bytesLE (if a.wide then 8 else 4) (respValue u)⟩) s

/-! ### Writes -/

/-- A management-port command that writes is logged (R562). -/
def mgLogged (hub code : Nat) (e : MgEnd) : MgEnd := { e with state := pushLog e.state hub 1 10 [code, e.status] }

/-- MG_WRITE_PAGE, R564: the core writes the register, in class M (R28, R539). -/
def execMgWritePage (hub : Nat) (m : MgReq) (a : Access) (s : State) : Out :=
  mgServe hub 0x13 m (fun t =>
    let u := outState t (writeAny { a with who := mgWho hub } t)
    mgLogged hub 0x13 ⟨u, respStatus u, []⟩) s

/-- A chunk goes into the slot not booted: the sectors that begin in it are erased first. -/
def writeChunk (s : State) (hub off : Nat) (data : List Byte) : State :=
  let a := slotBase (1 - bootedSlot s hub) + off
  let firstSector := ceilDiv a 4096
  let sectors := (List.range (ceilDiv (a + data.length) 4096 - firstSector)).map (fun k => (firstSector + k) * 4096)
  let f := sectors.foldl (fun g e => flashErase e g) (flashOf s hub)
  updTouched (setFlash s hub (flashProgram a data f)) hub a data.length

/-- MG_UPDATE_WRITE, R564: BAD_ARG outside the slot, and BUSY while the flash serves XSPI_BOOT or a loader. -/
def execMgUpdateWrite (hub : Nat) (m : MgReq) (off : Nat) (data : List Byte) (s : State) : Out :=
  mgServe hub 0x20 m (fun t =>
    let busy := !((hdr t hub .xspiBoot).running.isEmpty && (rstOf t hub).loading == 0 && (rstOf t hub).optDone)
    mgLogged hub 0x20
      (if 0x400000 < off + data.length then ⟨t, 4, []⟩
       else if busy then ⟨t, 2, []⟩
       else ⟨writeChunk t hub off data, 0, []⟩)) s

/-- MG_UPD_COMMAND, R564: codes 0x21 to 0x24 are the UPD opcodes 0x20 to 0x23, given by the core. -/
def execMgUpdCommand (hub : Nat) (m : MgReq) (op sub : Nat) (s : State) : Out :=
  let n := op % 4
  mgServe hub (0x21 + n) m (fun t =>
    let u := outState t (execOp .mechanic (0x20 + n) ⟨hub, 0, none, sub, 0, mgWho hub⟩ t)
    mgLogged hub (0x21 + n) ⟨u, (bank u hub .mechanic (96 + hub)).cmdResult % 16, []⟩) s

/-! ### ARP and ICMP (R564; RFC 826, RFC 792 and RFC 1071: PRESUMED) -/

/-- A big-endian field of a frame. -/
def netField (bs : List Byte) (off n : Nat) : Nat := ofBytesLE ((bs.drop off).take n).reverse

/-- The Internet checksum of bytes whose own checksum field is 0. -/
def netSum : List Byte → Nat
  | [] => 0
  | [a] => a.toNat * 256
  | a :: b :: rest => a.toNat * 256 + b.toNat + netSum rest

/-- One's-complement folding to 16 bits. -/
def netFold (n : Nat) : Nat := 65535 - ((n % 65536 + n / 65536) % 65536 + (n % 65536 + n / 65536) / 65536) % 65536

/-- MG_IPV4 (R563). -/
def mgIp (s : State) (hub : Nat) : Nat := optHalf s hub 68 + optHalf s hub 70 * 65536

/-- The answer to an ARP request for the port's address. -/
def arpReply (s : State) (hub : Nat) (r : List Byte) : Option (List Byte) :=
  if netField r 12 2 = 0x0806 ∧ netField r 20 2 = 1 ∧ netField r 38 4 = mgIp s hub then
    some ((r.drop 6).take 6 ++ bytesBE 6 (mgMac s hub) ++ (r.drop 12).take 8 ++ bytesBE 2 2 ++ bytesBE 6 (mgMac s hub) ++
      bytesBE 4 (mgIp s hub) ++ (r.drop 22).take 10)
  else none

/-- The answer to an ICMP echo request to the port's address: the request's headers with their addresses exchanged. -/
def echoReply (s : State) (hub : Nat) (r : List Byte) : Option (List Byte) :=
  let n := 14 + netField r 14 1 % 16 * 4
  if netField r 12 2 = 0x0800 ∧ netField r 14 1 / 16 = 4 ∧ netField r 23 1 = 1 ∧ netField r 30 4 = mgIp s hub ∧
      netField r n 1 = 8 ∧ r.length ≥ n + 8 then
    let body := r.drop (n + 4)
    some ((r.drop 6).take 6 ++ bytesBE 6 (mgMac s hub) ++ (r.drop 12).take 14 ++ (r.drop 30).take 4 ++ (r.drop 26).take 4 ++
      (r.drop 34).take (n - 34) ++ [0, 0] ++ bytesBE 2 (netFold (netSum body)) ++ body)
  else none

/-- MG_ARP_ICMP, R564. -/
def execMgArpIcmp (hub : Nat) (request : List Byte) (s : State) : Out :=
  if !(mgUp s hub) then .next s
  else .next (mgTakes s hub (fun s1 =>
    if !(mechOf s1 hub).runs then s1
    else match arpReply s1 hub request with
      | some b => mgSend s1 hub (netField request 6 6) 0x0806 (b.length + 4) b
      | none => match echoReply s1 hub request with
        | some b => mgSend s1 hub (netField request 6 6) 0x0800 (b.length + 4) b
        | none => s1))

end Sys2Proof.Machine
end

