-- ==== Sys2Proof/Machine/Dispatch.lean ====
section
/-!
DEFINITION. Sys2Proof/Machine/Dispatch.lean: one arm per command, each a direct call of the command's meaning.
-/
namespace Sys2Proof.Machine

def exec (i : Instr) (s : State) : Host.Outcome State Fault Refusal :=
  match i with
  | .nop b c => Sys2Proof.Machine.execNop b c s
  | .eventTest b c => Sys2Proof.Machine.execEventTest b c s
  | .eventW1cWrite a => Sys2Proof.Machine.execEventW1cWrite a s
  | .eventEnWrite a => Sys2Proof.Machine.execEventEnWrite a s
  | .readClearRead a => Sys2Proof.Machine.execReadClearRead a s
  | .pageLockWrite a => Sys2Proof.Machine.execPageLockWrite a s
  | .lowWordRead a => Sys2Proof.Machine.execLowWordRead a s
  | .lowWordWrite a => Sys2Proof.Machine.execLowWordWrite a s
  | .highWordWrite a => Sys2Proof.Machine.execHighWordWrite a s
  | .registerWrite a => Sys2Proof.Machine.execRegisterWrite a s
  | .msiReceive => Sys2Proof.Machine.execMsiReceive s
  | .flitHandshakeFail die inst axle unackedHere unackedThere => Sys2Proof.Machine.execFlitHandshakeFail die inst axle unackedHere unackedThere s
  | .linkRetrainDone die inst axle up => Sys2Proof.Machine.execLinkRetrainDone die inst axle up s
  | .linkInitialTrain die inst axle => Sys2Proof.Machine.execLinkInitialTrain die inst axle s
  | .linkRestore axle c => Sys2Proof.Machine.execLinkRestore axle c s
  | .linkRestoreDone die inst axle up => Sys2Proof.Machine.execLinkRestoreDone die inst axle up s
  | .linkClearCounters axle c => Sys2Proof.Machine.execLinkClearCounters axle c s
  | .cadenceMeasurement die values => Sys2Proof.Machine.execCadenceMeasurement die values s
  | .outOfGuarantee die => Sys2Proof.Machine.execOutOfGuarantee die s
  | .handshakeTimeout die channel domA domB => Sys2Proof.Machine.execHandshakeTimeout die channel domA domB s
  | .timeSyncExchange die hub rtt => Sys2Proof.Machine.execTimeSyncExchange die hub rtt s
  | .syncExchangeLoss die => Sys2Proof.Machine.execSyncExchangeLoss die s
  | .counterSetFromHub die => Sys2Proof.Machine.execCounterSetFromHub die s
  | .offsetInDelivery a => Sys2Proof.Machine.execOffsetInDelivery a s
  | .slewEnd hub => Sys2Proof.Machine.execSlewEnd hub s
  | .stepTakesEffect => Sys2Proof.Machine.execStepTakesEffect s
  | .ppsInEdge hub => Sys2Proof.Machine.execPpsInEdge hub s
  | .irigBFrame hub frame markError => Sys2Proof.Machine.execIrigBFrame hub frame markError s
  | .leapSecondApply hub => Sys2Proof.Machine.execLeapSecondApply hub s
  | .refTimeoutExpiry hub input => Sys2Proof.Machine.execRefTimeoutExpiry hub input s
  | .setTime c => Sys2Proof.Machine.execSetTime c s
  | .step c => Sys2Proof.Machine.execStep c s
  | .selectRef c => Sys2Proof.Machine.execSelectRef c s
  | .hold c => Sys2Proof.Machine.execHold c s
  | .takeMaster c => Sys2Proof.Machine.execTakeMaster c s
  | .takeMasterDone hub => Sys2Proof.Machine.execTakeMasterDone hub s
  | .resetServo c => Sys2Proof.Machine.execResetServo c s
  | .timeSnapshotRead a => Sys2Proof.Machine.execTimeSnapshotRead a s
  | .stampRead a => Sys2Proof.Machine.execStampRead a s
  | .ptpMessageRx hub port portState delay parent clockClass version offset => Sys2Proof.Machine.execPtpMessageRx hub port portState delay parent clockClass version offset s
  | .trgArm c => Sys2Proof.Machine.execTrgArm c s
  | .trgDisarm c => Sys2Proof.Machine.execTrgDisarm c s
  | .triggerFiring hub t => Sys2Proof.Machine.execTriggerFiring hub t s
  | .triggerPulseEnd hub t => Sys2Proof.Machine.execTriggerPulseEnd hub t s
  | .triggerArmedWrite a => Sys2Proof.Machine.execTriggerArmedWrite a s
  | .frameIngress hub port frame mask cls => Sys2Proof.Machine.execFrameIngress hub port frame mask cls s
  | .crossbarSlot hub => Sys2Proof.Machine.execCrossbarSlot hub s
  | .samplerRecord hub => Sys2Proof.Machine.execSamplerRecord hub s
  | .macAgeOut hub idx => Sys2Proof.Machine.execMacAgeOut hub idx s
  | .gateListAdvance hub port => Sys2Proof.Machine.execGateListAdvance hub port s
  | .qbvConfigChange hub port => Sys2Proof.Machine.execQbvConfigChange hub port s
  | .portDown hub port => Sys2Proof.Machine.execPortDown hub port s
  | .portFlushDone hub port => Sys2Proof.Machine.execPortFlushDone hub port s
  | .portLinkReturn hub port => Sys2Proof.Machine.execPortLinkReturn hub port s
  | .portHoldUpExpiry hub port => Sys2Proof.Machine.execPortHoldUpExpiry hub port s
  | .p13SendCheck hub => Sys2Proof.Machine.execP13SendCheck hub s
  | .tokenBucketRefill hub vi => Sys2Proof.Machine.execTokenBucketRefill hub vi s
  | .tblRead c => Sys2Proof.Machine.execTblRead c s
  | .tblWrite c => Sys2Proof.Machine.execTblWrite c s
  | .macSearch c => Sys2Proof.Machine.execMacSearch c s
  | .macFlush c => Sys2Proof.Machine.execMacFlush c s
  | .switchClearCounters c => Sys2Proof.Machine.execSwitchClearCounters c s
  | .sessionStart c => Sys2Proof.Machine.execSessionStart c s
  | .sessionStop c => Sys2Proof.Machine.execSessionStop c s
  | .qbvCommit c => Sys2Proof.Machine.execQbvCommit c s
  | .qRsvWrite a => Sys2Proof.Machine.execQRsvWrite a s
  | .egSend c => Sys2Proof.Machine.execEgSend c s
  | .egressClearCounters c => Sys2Proof.Machine.execEgressClearCounters c s
  | .egBufferRead die => Sys2Proof.Machine.execEgBufferRead die s
  | .entryForgetExpiry hub idx => Sys2Proof.Machine.execEntryForgetExpiry hub idx s
  | .nodeForgetExpiry hub idx => Sys2Proof.Machine.execNodeForgetExpiry hub idx s
  | .supervisionSend hub => Sys2Proof.Machine.execSupervisionSend hub s
  | .hubLostRehome hub => Sys2Proof.Machine.execHubLostRehome hub s
  | .rehome c => Sys2Proof.Machine.execRehome c s
  | .rehomeWarmStart hub => Sys2Proof.Machine.execRehomeWarmStart hub s
  | .rehomeCut hub => Sys2Proof.Machine.execRehomeCut hub s
  | .linkSignalUp hub port seen => Sys2Proof.Machine.execLinkSignalUp hub port seen s
  | .linkSignalLoss hub gone => Sys2Proof.Machine.execLinkSignalLoss hub gone s
  | .lpCfgWrite a => Sys2Proof.Machine.execLpCfgWrite a s
  | .nodeRead c => Sys2Proof.Machine.execNodeRead c s
  | .nodeWrite c => Sys2Proof.Machine.execNodeWrite c s
  | .nodeSearch c => Sys2Proof.Machine.execNodeSearch c s
  | .nodeFlush c => Sys2Proof.Machine.execNodeFlush c s
  | .linkRestart c => Sys2Proof.Machine.execLinkRestart c s
  | .laneClearCounters c => Sys2Proof.Machine.execLaneClearCounters c s
  | .tdrRun c => Sys2Proof.Machine.execTdrRun c s
  | .tdrDone hub inst pairs => Sys2Proof.Machine.execTdrDone hub inst pairs s
  | .sfpInsertion hub port id => Sys2Proof.Machine.execSfpInsertion hub port id s
  | .ddmPoll hub port diag flags => Sys2Proof.Machine.execDdmPoll hub port diag flags s
  | .sdCfgWrite a => Sys2Proof.Machine.execSdCfgWrite a s
  | .svCopyIngest hub => Sys2Proof.Machine.execSvCopyIngest hub s
  | .streamStale hub idx => Sys2Proof.Machine.execStreamStale hub idx s
  | .stEnable c => Sys2Proof.Machine.execStEnable c s
  | .stDisable c => Sys2Proof.Machine.execStDisable c s
  | .stTune c => Sys2Proof.Machine.execStTune c s
  | .ingestClearCounters c => Sys2Proof.Machine.execIngestClearCounters c s
  | .destRestart c => Sys2Proof.Machine.execDestRestart c s
  | .filterBatchVisit hub stream => Sys2Proof.Machine.execFilterBatchVisit hub stream s
  | .detectorPresentation hub => Sys2Proof.Machine.execDetectorPresentation hub s
  | .profileLoad c => Sys2Proof.Machine.execProfileLoad c s
  | .fsAssign c => Sys2Proof.Machine.execFsAssign c s
  | .filterClearCounters c => Sys2Proof.Machine.execFilterClearCounters c s
  | .detEnable c => Sys2Proof.Machine.execDetEnable c s
  | .detDisable c => Sys2Proof.Machine.execDetDisable c s
  | .detTune c => Sys2Proof.Machine.execDetTune c s
  | .detDestRestart c => Sys2Proof.Machine.execDetDestRestart c s
  | .detClearCounters c => Sys2Proof.Machine.execDetClearCounters c s
  | .pelotonOffer => Sys2Proof.Machine.execPelotonOffer s
  | .pannierSpillWrite die => Sys2Proof.Machine.execPannierSpillWrite die s
  | .pannierRefill die => Sys2Proof.Machine.execPannierRefill die s
  | .pannierWalk die => Sys2Proof.Machine.execPannierWalk die s
  | .pelotonTick die => Sys2Proof.Machine.execPelotonTick die s
  | .pelotonLocalTick die => Sys2Proof.Machine.execPelotonLocalTick die s
  | .takeStart a => Sys2Proof.Machine.execTakeStart a s
  | .takeTimeout die ini => Sys2Proof.Machine.execTakeTimeout die ini s
  | .takeIrqEnd die ini => Sys2Proof.Machine.execTakeIrqEnd die ini s
  | .pelStart c => Sys2Proof.Machine.execPelStart c s
  | .post c => Sys2Proof.Machine.execPost c s
  | .complete c => Sys2Proof.Machine.execComplete c s
  | .pelotonClearCounters c => Sys2Proof.Machine.execPelotonClearCounters c s
  | .flowHoldExpiry die flow => Sys2Proof.Machine.execFlowHoldExpiry die flow s
  | .flowEnable c => Sys2Proof.Machine.execFlowEnable c s
  | .flowDisable c => Sys2Proof.Machine.execFlowDisable c s
  | .flowSkip c => Sys2Proof.Machine.execFlowSkip c s
  | .ringRestart c => Sys2Proof.Machine.execRingRestart c s
  | .flowClearCounters c => Sys2Proof.Machine.execFlowClearCounters c s
  | .hartStart c => Sys2Proof.Machine.execHartStart c s
  | .hartStop c => Sys2Proof.Machine.execHartStop c s
  | .xlateWalkDone die => Sys2Proof.Machine.execXlateWalkDone die s
  | .xlateInval c => Sys2Proof.Machine.execXlateInval c s
  | .xlateInvalDone die => Sys2Proof.Machine.execXlateInvalDone die s
  | .rxEnable c => Sys2Proof.Machine.execRxEnable c s
  | .rxDisable c => Sys2Proof.Machine.execRxDisable c s
  | .rxRestart c => Sys2Proof.Machine.execRxRestart c s
  | .rxFrame hub => Sys2Proof.Machine.execRxFrame hub s
  | .viCreate c => Sys2Proof.Machine.execViCreate c s
  | .viRun c => Sys2Proof.Machine.execViRun c s
  | .quiesce c => Sys2Proof.Machine.execQuiesce c s
  | .kill c => Sys2Proof.Machine.execKill c s
  | .killWriteCut vi => Sys2Proof.Machine.execKillWriteCut vi s
  | .viPartQuiesced vi part => Sys2Proof.Machine.execViPartQuiesced vi part s
  | .qtimeoutExpiry vi => Sys2Proof.Machine.execQtimeoutExpiry vi s
  | .viReset c => Sys2Proof.Machine.execViReset c s
  | .viResetDone vi => Sys2Proof.Machine.execViResetDone vi s
  | .viDestroy c => Sys2Proof.Machine.execViDestroy c s
  | .migrate c => Sys2Proof.Machine.execMigrate c s
  | .migrationCutAt vi => Sys2Proof.Machine.execMigrationCutAt vi s
  | .migrationGraceEnd vi => Sys2Proof.Machine.execMigrationGraceEnd vi s
  | .viSave c => Sys2Proof.Machine.execViSave c s
  | .viSaveDone die => Sys2Proof.Machine.execViSaveDone die s
  | .viRestore c => Sys2Proof.Machine.execViRestore c s
  | .viRestoreDone die => Sys2Proof.Machine.execViRestoreDone die s
  | .shareApply c => Sys2Proof.Machine.execShareApply c s
  | .shareApplyDone die => Sys2Proof.Machine.execShareApplyDone die s
  | .shareClearCounters c => Sys2Proof.Machine.execShareClearCounters c s
  | .logStart c => Sys2Proof.Machine.execLogStart c s
  | .logSwap c => Sys2Proof.Machine.execLogSwap c s
  | .logStop c => Sys2Proof.Machine.execLogStop c s
  | .dirtyLogDone die => Sys2Proof.Machine.execDirtyLogDone die s
  | .crankBoundary die => Sys2Proof.Machine.execCrankBoundary die s
  | .crankLocalBoundary die => Sys2Proof.Machine.execCrankLocalBoundary die s
  | .crankInputChange die entry cts => Sys2Proof.Machine.execCrankInputChange die entry cts s
  | .crankScanEnd die => Sys2Proof.Machine.execCrankScanEnd die s
  | .crankOverrun die task => Sys2Proof.Machine.execCrankOverrun die task s
  | .crankWindowWrite die off bytes w => Sys2Proof.Machine.execCrankWindowWrite die off bytes w s
  | .journalCommit die hub => Sys2Proof.Machine.execJournalCommit die hub s
  | .retainWriteError die hub => Sys2Proof.Machine.execRetainWriteError die hub s
  | .powerFailWarning hub => Sys2Proof.Machine.execPowerFailWarning hub s
  | .powerFailRecovery => Sys2Proof.Machine.execPowerFailRecovery s
  | .crLoad c => Sys2Proof.Machine.execCrLoad c s
  | .crLoadDone die => Sys2Proof.Machine.execCrLoadDone die s
  | .crStart c => Sys2Proof.Machine.execCrStart c s
  | .crankRestartDone die => Sys2Proof.Machine.execCrankRestartDone die s
  | .crStop c => Sys2Proof.Machine.execCrStop c s
  | .crRun c => Sys2Proof.Machine.execCrRun c s
  | .crStepMode c => Sys2Proof.Machine.execCrStepMode c s
  | .crStep c => Sys2Proof.Machine.execCrStep c s
  | .crFire c => Sys2Proof.Machine.execCrFire c s
  | .olcCommit c => Sys2Proof.Machine.execOlcCommit c s
  | .force c => Sys2Proof.Machine.execForce c s
  | .unforce c => Sys2Proof.Machine.execUnforce c s
  | .crUnload c => Sys2Proof.Machine.execCrUnload c s
  | .crankClearCounters c => Sys2Proof.Machine.execCrankClearCounters c s
  | .taskClearCounters c => Sys2Proof.Machine.execTaskClearCounters c s
  | .rtClear c => Sys2Proof.Machine.execRtClear c s
  | .rtClearDone hub => Sys2Proof.Machine.execRtClearDone hub s
  | .captureTapSample hub => Sys2Proof.Machine.execCaptureTapSample hub s
  | .rowLateComplete hub record => Sys2Proof.Machine.execRowLateComplete hub record s
  | .captureTriggerArrival hub => Sys2Proof.Machine.execCaptureTriggerArrival hub s
  | .gooseWatchFrame hub => Sys2Proof.Machine.execGooseWatchFrame hub s
  | .captureClose hub record => Sys2Proof.Machine.execCaptureClose hub record s
  | .captureReduce hub => Sys2Proof.Machine.execCaptureReduce hub s
  | .captureReadoutDone hub => Sys2Proof.Machine.execCaptureReadoutDone hub s
  | .capEnable c => Sys2Proof.Machine.execCapEnable c s
  | .capDisable c => Sys2Proof.Machine.execCapDisable c s
  | .capTrigger c => Sys2Proof.Machine.execCapTrigger c s
  | .capReadout c => Sys2Proof.Machine.execCapReadout c s
  | .capRelease c => Sys2Proof.Machine.execCapRelease c s
  | .capClearCounters c => Sys2Proof.Machine.execCapClearCounters c s
  | .dieStateReport die => Sys2Proof.Machine.execDieStateReport die s
  | .levelConditionChange hub => Sys2Proof.Machine.execLevelConditionChange hub s
  | .levelViewReceive die hub => Sys2Proof.Machine.execLevelViewReceive die hub s
  | .dlHoldExpiry hub => Sys2Proof.Machine.execDlHoldExpiry hub s
  | .swAliveWrite a => Sys2Proof.Machine.execSwAliveWrite a s
  | .swAliveTimeout hub => Sys2Proof.Machine.execSwAliveTimeout hub s
  | .laneLossTimeout hub lane => Sys2Proof.Machine.execLaneLossTimeout hub lane s
  | .timeAlarmTimeout hub => Sys2Proof.Machine.execTimeAlarmTimeout hub s
  | .levelForce c => Sys2Proof.Machine.execLevelForce c s
  | .coasterTableLoad hub => Sys2Proof.Machine.execCoasterTableLoad hub s
  | .bfTimerExpiry hub zone => Sys2Proof.Machine.execBfTimerExpiry hub zone s
  | .gooseRepeat hub frame => Sys2Proof.Machine.execGooseRepeat hub frame s
  | .zoneLoad c => Sys2Proof.Machine.execZoneLoad c s
  | .frameLoad c => Sys2Proof.Machine.execFrameLoad c s
  | .zoneOff c => Sys2Proof.Machine.execZoneOff c s
  | .zoneReset c => Sys2Proof.Machine.execZoneReset c s
  | .coasterClearCounters c => Sys2Proof.Machine.execCoasterClearCounters c s
  | .tioSwSet a => Sys2Proof.Machine.execTioSwSet a s
  | .tioSwClr a => Sys2Proof.Machine.execTioSwClr a s
  | .tripIoClearCounters c => Sys2Proof.Machine.execTripIoClearCounters c s
  | .binAccept hub bin raw age => Sys2Proof.Machine.execBinAccept hub bin raw age s
  | .tripSenseChange hub line level => Sys2Proof.Machine.execTripSenseChange hub line level s
  | .tcsDelayExpiry hub line => Sys2Proof.Machine.execTcsDelayExpiry hub line s
  | .senseWinExpiry hub line => Sys2Proof.Machine.execSenseWinExpiry hub line s
  | .driveFaultExpiry hub line bad => Sys2Proof.Machine.execDriveFaultExpiry hub line bad s
  | .tandemBoundary hub => Sys2Proof.Machine.execTandemBoundary hub s
  | .tandemSegmentRx hub f => Sys2Proof.Machine.execTandemSegmentRx hub f s
  | .beaconRx hub => Sys2Proof.Machine.execBeaconRx hub s
  | .tandemInputExchange => Sys2Proof.Machine.execTandemInputExchange s
  | .leaseGateClose hub => Sys2Proof.Machine.execLeaseGateClose hub s
  | .leaseTakeover hub => Sys2Proof.Machine.execLeaseTakeover hub s
  | .contendListenExpiry hub => Sys2Proof.Machine.execContendListenExpiry hub s
  | .partnerPathLoss hub => Sys2Proof.Machine.execPartnerPathLoss hub s
  | .tdPermitWrite a => Sys2Proof.Machine.execTdPermitWrite a s
  | .tdPermitLapse hub => Sys2Proof.Machine.execTdPermitLapse hub s
  | .handoverAckDeadline hub => Sys2Proof.Machine.execHandoverAckDeadline hub s
  | .handoverCut hub => Sys2Proof.Machine.execHandoverCut hub s
  | .tdStart c => Sys2Proof.Machine.execTdStart c s
  | .tdStop c => Sys2Proof.Machine.execTdStop c s
  | .handover c => Sys2Proof.Machine.execHandover c s
  | .tdClearCounters c => Sys2Proof.Machine.execTdClearCounters c s
  | .unsealChal c => Sys2Proof.Machine.execUnsealChal c s
  | .vaultUnseal c => Sys2Proof.Machine.execUnseal c s
  | .vaultSeal c => Sys2Proof.Machine.execSeal c s
  | .dormant c => Sys2Proof.Machine.execDormant c s
  | .wake c => Sys2Proof.Machine.execWake c s
  | .rootGen c => Sys2Proof.Machine.execRootGen c s
  | .rootLoad c => Sys2Proof.Machine.execRootLoad c s
  | .vaultAuthLoad c => Sys2Proof.Machine.execVaultAuthLoad c s
  | .keyDerive c => Sys2Proof.Machine.execKeyDerive c s
  | .keyUnwrap c => Sys2Proof.Machine.execKeyUnwrap c s
  | .keyGen c => Sys2Proof.Machine.execKeyGen c s
  | .keyClear c => Sys2Proof.Machine.execKeyClear c s
  | .keySet c => Sys2Proof.Machine.execKeySet c s
  | .encrypt c => Sys2Proof.Machine.execEncrypt c s
  | .decrypt c => Sys2Proof.Machine.execDecrypt c s
  | .macGen c => Sys2Proof.Machine.execMacGen c s
  | .macVer c => Sys2Proof.Machine.execMacVer c s
  | .attest c => Sys2Proof.Machine.execAttest c s
  | .vaultClearCounters c => Sys2Proof.Machine.execVaultClearCounters c s
  | .vaultCommandEnd hub => Sys2Proof.Machine.execVaultCommandEnd hub s
  | .unsealChallengeExpiry hub => Sys2Proof.Machine.execUnsealChallengeExpiry hub s
  | .keyPromotion hub slot => Sys2Proof.Machine.execKeyPromotion hub slot s
  | .trngHealthFail hub => Sys2Proof.Machine.execTrngHealthFail hub s
  | .tamperAlarm die sensor => Sys2Proof.Machine.execTamperAlarm die sensor s
  | .cacheZeroiseDone hub => Sys2Proof.Machine.execCacheZeroiseDone hub s
  | .debugChallengeRead => Sys2Proof.Machine.execDebugChallengeRead s
  | .debugUnlockResponse response => Sys2Proof.Machine.execDebugUnlockResponse response s
  | .faClearCounters c => Sys2Proof.Machine.execFaClearCounters c s
  | .porAssert => Sys2Proof.Machine.execPorAssert s
  | .porRelease => Sys2Proof.Machine.execPorRelease s
  | .fuseSenseDone => Sys2Proof.Machine.execFuseSenseDone s
  | .borAssert die => Sys2Proof.Machine.execBorAssert die s
  | .borRelease die => Sys2Proof.Machine.execBorRelease die s
  | .pinResetAssert => Sys2Proof.Machine.execPinResetAssert s
  | .pinResetRelease => Sys2Proof.Machine.execPinResetRelease s
  | .lockWaitExpiry die island => Sys2Proof.Machine.execLockWaitExpiry die island s
  | .ckfRelease die => Sys2Proof.Machine.execCkfRelease die s
  | .wdtExpiry die => Sys2Proof.Machine.execWdtExpiry die s
  | .wdtKickWrite a => Sys2Proof.Machine.execWdtKickWrite a s
  | .lckRelease die => Sys2Proof.Machine.execLckRelease die s
  | .dbgResetAssert => Sys2Proof.Machine.execDbgResetAssert s
  | .dbgResetRelease => Sys2Proof.Machine.execDbgResetRelease s
  | .swrAssert c => Sys2Proof.Machine.execSwrAssert c s
  | .swrRelease c => Sys2Proof.Machine.execSwrRelease c s
  | .swrPulse c => Sys2Proof.Machine.execSwrPulse c s
  | .swrPulseEnd die => Sys2Proof.Machine.execSwrPulseEnd die s
  | .forceRelease c => Sys2Proof.Machine.execForceRelease c s
  | .resetCauseWrite a => Sys2Proof.Machine.execResetCauseWrite a s
  | .walkGapExpiry die => Sys2Proof.Machine.execWalkGapExpiry die s
  | .islandLockStable die island => Sys2Proof.Machine.execIslandLockStable die island s
  | .islandLockLoss die island => Sys2Proof.Machine.execIslandLockLoss die island s
  | .optionLoad hub => Sys2Proof.Machine.execOptionLoad hub s
  | .optionReceive die hub => Sys2Proof.Machine.execOptionReceive die hub s
  | .startupLoad hub => Sys2Proof.Machine.execStartupLoad hub s
  | .pinFuse c => Sys2Proof.Machine.execPinFuse c s
  | .pinFuseDone hub => Sys2Proof.Machine.execPinFuseDone hub s
  | .xbRead c => Sys2Proof.Machine.execXbRead c s
  | .xbProgram c => Sys2Proof.Machine.execXbProgram c s
  | .xbErase c => Sys2Proof.Machine.execXbErase c s
  | .xbOperationDone hub ok => Sys2Proof.Machine.execXbOperationDone hub ok s
  | .mechanicBoot die => Sys2Proof.Machine.execMechanicBoot die s
  | .mcRenewWrite a => Sys2Proof.Machine.execMcRenewWrite a s
  | .mcCandWrite a => Sys2Proof.Machine.execMcCandWrite a s
  | .candidacyLapse die => Sys2Proof.Machine.execCandidacyLapse die s
  | .leadLeaseExpiry hub => Sys2Proof.Machine.execLeadLeaseExpiry hub s
  | .mcYield c => Sys2Proof.Machine.execMcYield c s
  | .mcRestart c => Sys2Proof.Machine.execMcRestart c s
  | .mcAuthLoad c => Sys2Proof.Machine.execMcAuthLoad c s
  | .diePower c => Sys2Proof.Machine.execDiePower c s
  | .diePowerDone die => Sys2Proof.Machine.execDiePowerDone die s
  | .updVerify c => Sys2Proof.Machine.execUpdVerify c s
  | .updActivate c => Sys2Proof.Machine.execUpdActivate c s
  | .updCommit c => Sys2Proof.Machine.execUpdCommit c s
  | .updAbort c => Sys2Proof.Machine.execUpdAbort c s
  | .updOperationDone hub => Sys2Proof.Machine.execUpdOperationDone hub s
  | .mcClearCounters c => Sys2Proof.Machine.execMcClearCounters c s
  | .sensorSweep die samples rails => Sys2Proof.Machine.execSensorSweep die samples rails s
  | .avsStep hub rail => Sys2Proof.Machine.execAvsStep hub rail s
  | .pmbusTransferFail hub rail => Sys2Proof.Machine.execPmbusTransferFail hub rail s
  | .pmbAlert hub => Sys2Proof.Machine.execPmbAlert hub s
  | .railSet c => Sys2Proof.Machine.execRailSet c s
  | .railClear c => Sys2Proof.Machine.execRailClear c s
  | .logEntryProgram hub => Sys2Proof.Machine.execLogEntryProgram hub s
  | .mgIdentify hub m => Sys2Proof.Machine.execMgIdentify hub m s
  | .mgAttest hub m => Sys2Proof.Machine.execMgAttest hub m s
  | .mgUnsealChal hub m => Sys2Proof.Machine.execMgUnsealChal hub m s
  | .mgUnseal hub m => Sys2Proof.Machine.execMgUnseal hub m s
  | .mgReadSensors hub m => Sys2Proof.Machine.execMgReadSensors hub m s
  | .mgReadLog hub m first => Sys2Proof.Machine.execMgReadLog hub m first s
  | .mgReadPage hub m a => Sys2Proof.Machine.execMgReadPage hub m a s
  | .mgWritePage hub m a => Sys2Proof.Machine.execMgWritePage hub m a s
  | .mgUpdateWrite hub m off data => Sys2Proof.Machine.execMgUpdateWrite hub m off data s
  | .mgUpdCommand hub m op sub => Sys2Proof.Machine.execMgUpdCommand hub m op sub s
  | .saddlebagRecordEnqueue hub => Sys2Proof.Machine.execSaddlebagRecordEnqueue hub s
  | .saddlebagRingWrite hub => Sys2Proof.Machine.execSaddlebagRingWrite hub s
  | .sbNextRead a => Sys2Proof.Machine.execSbNextRead a s
  | .sbSeekWrite a => Sys2Proof.Machine.execSbSeekWrite a s
  | .snapshotTrigger hub set => Sys2Proof.Machine.execSnapshotTrigger hub set s
  | .snapshotPeriod hub set => Sys2Proof.Machine.execSnapshotPeriod hub set s
  | .freezeTrigger hub => Sys2Proof.Machine.execFreezeTrigger hub s
  | .sbPost c => Sys2Proof.Machine.execSbPost c s
  | .sbFreeze c => Sys2Proof.Machine.execSbFreeze c s
  | .sbUnfreeze c => Sys2Proof.Machine.execSbUnfreeze c s
  | .sbArm c => Sys2Proof.Machine.execSbArm c s
  | .sbDisarm c => Sys2Proof.Machine.execSbDisarm c s
  | .ssEnable c => Sys2Proof.Machine.execSsEnable c s
  | .ssDisable c => Sys2Proof.Machine.execSsDisable c s
  | .sbTrigger c => Sys2Proof.Machine.execSbTrigger c s
  | .sbClearCounters c => Sys2Proof.Machine.execSbClearCounters c s
  | .counterSelectWrite a => Sys2Proof.Machine.execCounterSelectWrite a s
  | .cyclometerSweep hub => Sys2Proof.Machine.execCyclometerSweep hub s
  | .cyRun c => Sys2Proof.Machine.execCyRun c s
  | .cyStop c => Sys2Proof.Machine.execCyStop c s
  | .cyClearCounters c => Sys2Proof.Machine.execCyClearCounters c s
  | .cvSlotRead a => Sys2Proof.Machine.execCvSlotRead a s
  | .dramTrainingDone die state ranks x16 density cause size us => Sys2Proof.Machine.execDramTrainingDone die state ranks x16 density cause size us s
  | .dramEccError die corrected addr reader => Sys2Proof.Machine.execDramEccError die corrected addr reader s
  | .dramScrubPass die => Sys2Proof.Machine.execDramScrubPass die s
  | .dramRefreshChange die code device => Sys2Proof.Machine.execDramRefreshChange die code device s
  | .dramClearCounters c => Sys2Proof.Machine.execDramClearCounters c s
  | .negativeStepEnd => Sys2Proof.Machine.execNegativeStepEnd s
  | .refclkLoss die => Sys2Proof.Machine.execRefclkLoss die s
  | .refclkReturn die => Sys2Proof.Machine.execRefclkReturn die s
  | .counterLevelTick => Sys2Proof.Machine.execCounterLevelTick s
  | .hartTimerInterrupt hart compare => Sys2Proof.Machine.execHartTimerInterrupt hart compare s
  | .hartStore vi gpa bytes => Sys2Proof.Machine.execHartStore vi gpa bytes s
  | .mgmtLinkChange hub up gig => Sys2Proof.Machine.execMgmtLinkChange hub up gig s
  | .sfpModuleRemoval hub port => Sys2Proof.Machine.execSfpModuleRemoval hub port s
  | .mgArpIcmp hub request => Sys2Proof.Machine.execMgArpIcmp hub request s
  | .tripCurrentMeasure hub line current => Sys2Proof.Machine.execTripCurrentMeasure hub line current s
  | .announceReceiptTimeout hub => Sys2Proof.Machine.execAnnounceReceiptTimeout hub s

end Sys2Proof.Machine
end

