-- ==== Sys2Proof/Safety.lean ====
section
/-!
DEFINITION. Sys2Proof/Safety.lean: what the statements say of a run. What every command keeps, when a write of CMD is
granted, and what it means that a command completes.
-/
namespace Sys2Proof.Machine

/-- The invariant of every step: memory stands in its canonical form. -/
def Canonical (s : State) : Prop := Memory.wf s.mem

/-- What every command keeps of a state: the queue behind it, the variant, and the canonical form of memory. -/
structure Keeps (s t : State) : Prop where
  pending : t.pending = s.pending
  variant : t.variant = s.variant
  mem : Memory.wf s.mem → Memory.wf t.mem

/-- An outcome is a next state that keeps what `Keeps` names. -/
def KeepsOut (s : State) (o : Out) : Prop := ∃ t, o = .next t ∧ Keeps s t

/-- A write of CMD is granted: its page takes it (R50, R54, R616), and no check of R64 fails on the state. -/
abbrev Grants (s : State) (c : Cmd) (b : Block) (op : Nat) (checks : State → Ctx → Checks) : Prop :=
  gate s (cmdLoc c b) b c.who 0x010 false true = .pass ∧ ((checks s (ctxOf s c b op)).for c.who).fails = none

/-- The state in which a granted command acts: its write has counted (R60), and its page has taken the next sequence
number and the command's stamp (R62). -/
def acting (s : State) (c : Cmd) (b : Block) (op : Nat) : State :=
  granted (counted s (cmdLoc c b) b c.who) (ctxOf s c b op)

/-- A command completes on a state: if its write is granted and `pre` holds, it answers the state after its own effect,
whose code is one of `ends` (R62, R63), and CMD_RESULT of its issuer holds that code under the page's new sequence
number. -/
def CompletesAt (pre : State → Ctx → Prop) (i : Instr) (c : Cmd) (s : State) (b : Block) (op : Nat)
    (checks : State → Ctx → Checks) (eff : Ctx → State → Effect) (ends : List Code) : Prop :=
  Grants s c b op checks →
    let x := ctxOf s c b op
    pre (acting s c b op) x →
    let e := eff x (acting s c b op)
    e.code ∈ ends ∧ exec i s = .next (settled s (answered x e)) ∧
    (bank (answered x e) x.loc b c.who.ini).cmdResult = resultWord x.seq e.code e.note

/-- A command completes wherever its write is granted and `pre` holds. -/
def CompletesWhen (pre : State → Ctx → Prop) (i : Cmd → Instr) (b : Cmd → Block) (op : Nat)
    (checks : State → Ctx → Checks) (eff : Ctx → State → Effect) (ends : List Code) : Prop :=
  ∀ (c : Cmd) (s : State), CompletesAt pre (i c) c s (b c) op checks eff ends

/-- A command completes wherever its write is granted. -/
def Completes (i : Cmd → Instr) (b : Cmd → Block) (op : Nat) (checks : State → Ctx → Checks)
    (eff : Ctx → State → Effect) (ends : List Code) : Prop :=
  CompletesWhen (fun _ _ => True) i b op checks eff ends

/-- The stream that ST_ENABLE enables fits: at its home hub the filter slots and the shares take it (R216). -/
def streamFits (t : State) (x : Ctx) : Prop :=
  (stagedStream t x.loc x.inst).home = x.loc →
    slotsTake t x.loc (stagedStream t x.loc x.inst) = true ∧ shareTakes t (stagedStream t x.loc x.inst) = true

/-- The record that CAP_ENABLE enables fits its owner's share of records (R333). -/
def recordFits (t : State) (x : Ctx) : Prop := ownerShare t (stagedRec t x.loc x.inst) = true

/-- The item of a POST is one that the slice admits (R268). -/
def postFits (t : State) (x : Ctx) : Prop :=
  let d := fun k => rdB t x.loc (pelReg x (R.POST_D0_D3.nth k)) x.who.ini
  let hi := d 0 / 2 ^ 32
  let vi := x.view.getD (hi % 256)
  admitFails t (pelDie t x) (fld hi 11 8) (d 0 % 4096) vi (bit hi 12) true (fld hi 31 16) (d 2) (d 1) = none

/-- The handle of a COMPLETE names an item that a hart has taken (R287). -/
def itemTaken (t : State) (x : Ctx) : Prop := (handleItem t (pelDie t x) x.cmdArg).isSome = true

/-- A vault command waits for the engine: the vault's state does not answer TAMPER, and an OPEN vault has room for the
slot that the command loads (R483, R484, R486, R505). -/
def vaultTakes (op : Nat) (t : State) (x : Ctx) : Prop :=
  let a := keyArgs t x.loc x.blk x.who.ini x.sub x.argument
  sealedUse t a op = false ∧ blockedRoot t a op = false ∧
  (vaultState t a.hub = 1 → slotsRoom t a op = true ∧ ownerRoom t a op = true)

/-- A command of the vault's engine is accepted wherever its write is granted and the engine takes it (R503). -/
def VaultAccepts (i : Cmd → Instr) (op : Nat) : Prop :=
  ∀ (c : Cmd) (s : State), CompletesAt (vaultTakes op) (i c) c s (viewOr c .keyView .keyVault) op
    (checksKey c.view.isSome op) (fun x t => keyGrant x op t) [.accepted]

/-- A command answers exactly the state `t`. -/
def Goes (i : Instr) (s t : State) : Prop := exec i s = .next t

/-- A command answers a next state of which `P` holds. -/
def After (i : Instr) (s : State) (P : State → Prop) : Prop := ∃ t, exec i s = .next t ∧ P t

/-- A write of a register is granted: its page takes it, the offset names the register for the writer, software may
write it, and PAGE_LOCK does not freeze it (R10, R54, R72). -/
abbrev WriteGranted (s : State) (a : Access) (t : Target) : Prop :=
  gate s (accLoc a) a.blk a.who a.off a.wide true = .pass ∧ target s (accLoc a) a.blk a.who.ini a.off = some t ∧
  writable a.blk a.who t.reg = true ∧
  ((decide (t.reg.acc = .rwl) && (hdr s (accLoc a) a.blk).lock && !(isLoader a.who)) = false)

/-- The state in which a granted write has its effect: it has counted (R60) and completed. -/
def written (s : State) (a : Access) : State := { countWrite s (accLoc a) a.blk a.who with resp := .value 0 }

/-- A granted write of the register that a row names has the register's effect. -/
def WriteCompletes (row : Access → Instr) (place : Access → Access) (eff : Access → Target → Nat → State → State) : Prop :=
  ∀ (a : Access) (s : State) (t : Target), WriteGranted s (place a) t →
    Goes (row a) s (applyWrite (place a) t (eff a) (written s (place a)))

/-- A granted read answers the state after its effect; the page counts it (R586). -/
def ReadCompletes (row : Access → Instr) (place : Access → Access) (eff : Access → State → State) : Prop :=
  ∀ (a : Access) (s : State), gate s (accLoc (place a)) (place a).blk (place a).who (place a).off (place a).wide false = .pass →
    Goes (row a) s (cyc (eff (place a) s) (accLoc (place a)) (place a).blk 0x01 0 1 none)

/-- All of a state but the page headers, the stamps' sequences and instants, the Cyclometer's counts, the records and MSIs
on their way, the cause of the stamps and the answer to the access stands as it was. -/
def OnlyPages (s t : State) : Prop :=
  t = { s with hdrs := t.hdrs, banks := t.banks, cause := t.cause, seqs := t.seqs, lastCts := t.lastCts, cycVal := t.cycVal
               cycSeen := t.cycSeen, recs := t.recs, msis := t.msis, resp := t.resp }

/-- All of a state but what `OnlyPages` leaves open and the registers stands as it was. -/
def OnlyRegs (s t : State) : Prop := OnlyPages { s with regs := t.regs } t

/-- Whatever they answer, these commands change, beside pages, only what `p` takes over from the state after. -/
def PagesFrame (p : State → State → State) (is : List (Cmd → Instr)) : Prop :=
  ∀ i ∈ is, ∀ c s, After (i c) s fun t => OnlyPages (p s t) t ∧ t.cause = s.cause

/-- Whatever they answer, these commands change, beside pages and registers, only what `p` takes over from the state
after. -/
def RegsFrame (p : State → State → State) (is : List (Cmd → Instr)) : Prop :=
  ∀ i ∈ is, ∀ c s, After (i c) s fun t => OnlyRegs (p s t) t ∧ t.cause = s.cause

/-- The counters `rs` of the instances `lo` to `lo + n - 1` of a place read 0, every other register reads as before, and
nothing else changes but pages. -/
def Cleared (s t : State) (loc lo n : Nat) (rs : List Reg) : Prop :=
  OnlyRegs s t ∧ (∀ r ∈ rs, ∀ k < n, rd t loc r (lo + k) = 0) ∧
  ∀ loc' r' inst', (∀ r ∈ rs, ∀ k < n,
      regKey loc' inst' 127 (blockCode r'.blk) r'.off ≠ regKey loc (lo + k) 127 (blockCode r.blk) r.off) →
    rd t loc' r' inst' = rd s loc' r' inst'

end Sys2Proof.Machine
end

