-- ==== Sys2Proof/Certificates/Slice0/Obligations.lean ====
section
/-!
DEFINITION. Sys2Proof/Certificates/Slice0/Obligations.lean: the statements for the provers. A name that ends in Complete
or Completes says that each command it lists answers a next state, and which; the others say what those states hold.
-/
open Sys2Proof Sys2Proof.Machine

/-- A step takes the command at the front of the queue: it is that command's effect on the state with the queue's
rest. -/
def Obligations.StepRunsFrontCommand : Prop :=
  ∀ (c : Instr) (rest : List Instr) (s : State), s.pending = c :: rest → step s = exec c { s with pending := rest }

/-- NOP and EVENT_TEST complete. The commands of the link and DRAM pages complete. The commands of the time pages
complete. -/
def Obligations.PageLinkAndTimeCommandsComplete : Prop :=
  (∀ b, Completes (Instr.nop b) (fun _ => b) 0x00 checksNop effectNop [.done]) ∧
  (∀ b, Completes (Instr.eventTest b) (fun _ => b) 0x01 checksEventTest effectEventTest [.done]) ∧
  (∀ axle, Completes (Instr.linkRestore axle) (fun _ => linkBlk axle) 0x10 (checksLinkRestore axle) (effectLinkRestore axle) [.accepted]) ∧
  (∀ axle, Completes (Instr.linkClearCounters axle) (fun _ => linkBlk axle) 0x11 (checksLinkClearCounters axle) (effectLinkClearCounters axle) [.done]) ∧
  Completes Instr.dramClearCounters (fun _ => .dram) 0x10 checksDramClearCounters effectDramClearCounters [.done] ∧
  Completes Instr.setTime (fun _ => .timeBase) 0x10 checksSetTime effectSetTime [.done] ∧
  Completes Instr.step (fun _ => .timeBase) 0x11 checksStep effectStep [.accepted] ∧
  Completes Instr.selectRef (fun _ => .timeBase) 0x12 (tbChecks servoStates) effectSelectRef [.done] ∧
  Completes Instr.hold (fun _ => .timeBase) 0x13 (tbChecks [.acquire, .locked]) effectHold [.done] ∧
  Completes Instr.takeMaster (fun _ => .timeBase) 0x14 checksTakeMaster effectTakeMaster [.accepted] ∧
  Completes Instr.resetServo (fun _ => .timeBase) 0x15 (tbChecks servoStates) effectResetServo [.done] ∧
  Completes Instr.trgArm (fun c => trgBlk c) 0x10 checksTrgArm effectTrgArm [.done] ∧
  Completes Instr.trgDisarm (fun c => trgBlk c) 0x11 checksTrgDisarm effectTrgDisarm [.done]

/-- The commands of the switch pages complete. The commands of the lane pages complete. -/
def Obligations.SwitchAndLaneCommandsComplete : Prop :=
  Completes Instr.tblRead (fun _ => .switch) 0x10 checksTblRead effectTblRead [.done] ∧
  Completes Instr.tblWrite (fun _ => .switch) 0x11 checksTblWrite effectTblWrite [.done] ∧
  Completes Instr.macSearch (fun _ => .switch) 0x12 checksMacSearch effectMacSearch [.done] ∧
  Completes Instr.macFlush (fun _ => .switch) 0x13 checksMacFlush effectMacFlush [.done] ∧
  Completes Instr.switchClearCounters (fun _ => .switch) 0x14 checksSwitchClearCounters effectSwitchClearCounters [.done] ∧
  Completes Instr.sessionStart (fun _ => .switch) 0x15 checksSessionStart effectSessionStart [.done] ∧
  Completes Instr.sessionStop (fun _ => .switch) 0x16 checksSessionStop effectSessionStop [.done] ∧
  Completes Instr.qbvCommit (fun _ => .switchPort) 0x10 checksQbvCommit effectQbvCommit [.done] ∧
  Completes Instr.egSend (fun _ => .egressView) 0x10 checksEgSend effectEgSend [.done] ∧
  Completes Instr.egressClearCounters (fun _ => .egressView) 0x11 checksEgressClearCounters effectEgressClearCounters [.done] ∧
  Completes Instr.rehome (fun _ => .lane) 0x14 checksRehome effectRehome [.accepted] ∧
  Completes Instr.nodeRead (fun _ => .lane) 0x10 checksNodeRead effectNodeRead [.done] ∧
  Completes Instr.nodeWrite (fun _ => .lane) 0x11 checksNodeWrite effectNodeWrite [.done] ∧
  Completes Instr.nodeSearch (fun _ => .lane) 0x12 checksNodeSearch effectNodeSearch [.done] ∧
  Completes Instr.nodeFlush (fun _ => .lane) 0x13 checksNodeFlush effectNodeFlush [.done] ∧
  Completes Instr.linkRestart (fun _ => .lane) 0x15 checksLinkRestart effectLinkRestart [.done] ∧
  Completes Instr.laneClearCounters (fun _ => .lane) 0x16 checksLaneClearCounters effectLaneClearCounters [.done] ∧
  Completes Instr.tdrRun (fun _ => .phyCopper) 0x10 checksTdrRun effectTdrRun [.accepted]

/-- The commands of ingest, filter and detectors complete. The commands of the Peloton complete. -/
def Obligations.StreamAndPelotonCommandsComplete : Prop :=
  CompletesWhen streamFits Instr.stEnable (fun _ => .svIngest) 0x10 checksStEnable effectStEnable [.done] ∧
  Completes Instr.stDisable (fun _ => .svIngest) 0x11 checksStDisable effectStDisable [.done] ∧
  Completes Instr.stTune (fun _ => .svIngest) 0x12 checksStTune effectStTune [.done] ∧
  Completes Instr.ingestClearCounters (fun _ => .svIngest) 0x13 checksIngestClearCounters effectIngestClearCounters [.done] ∧
  Completes Instr.destRestart (fun _ => .svIngest) 0x14 checksDestRestart effectDestRestart [.done] ∧
  Completes Instr.profileLoad (fun _ => .filter) 0x10 checksProfileLoad effectProfileLoad [.done] ∧
  Completes Instr.fsAssign (fun _ => .filter) 0x11 checksFsAssign effectFsAssign [.done] ∧
  Completes Instr.filterClearCounters (fun _ => .filter) 0x12 checksFilterClearCounters effectFilterClearCounters [.done] ∧
  Completes Instr.detEnable (fun _ => .detector) 0x10 checksDetEnable effectDetEnable [.done] ∧
  Completes Instr.detDisable (fun _ => .detector) 0x11 checksDetDisable effectDetDisable [.done] ∧
  Completes Instr.detTune (fun _ => .detector) 0x12 checksDetTune effectDetTune [.done] ∧
  Completes Instr.detDestRestart (fun _ => .detector) 0x13 checksDetDestRestart effectDetDestRestart [.done] ∧
  Completes Instr.detClearCounters (fun _ => .detector) 0x14 checksDetClearCounters effectDetClearCounters [.done] ∧
  Completes Instr.pelStart (fun _ => .peloton) 0x10 checksPelStart effectPelStart [.done] ∧
  CompletesWhen postFits Instr.post (fun c => viewOr c .pelotonView .peloton) 0x11 checksPost effectPost [.done] ∧
  CompletesWhen itemTaken Instr.complete (fun c => viewOr c .pelotonView .peloton) 0x12 checksComplete effectComplete [.done] ∧
  Completes Instr.pelotonClearCounters (fun c => viewOr c .pelotonView .peloton) 0x13 checksPelotonClearCounters effectPelotonClearCounters [.done] ∧
  Completes Instr.flowEnable (fun _ => .pelotonFlow) 0x10 checksFlowEnable effectFlowEnable [.done] ∧
  Completes Instr.flowDisable (fun _ => .pelotonFlow) 0x11 checksFlowDisable effectFlowDisable [.done] ∧
  Completes Instr.flowSkip (fun _ => .pelotonFlow) 0x12 checksFlowSkip effectFlowSkip [.done] ∧
  Completes Instr.ringRestart (fun c => viewOr c .flowView .pelotonFlow) 0x13 checksRingRestart effectRingRestart [.done] ∧
  Completes Instr.flowClearCounters (fun c => viewOr c .flowView .pelotonFlow) 0x14 checksFlowClearCounters effectFlowClearCounters [.done]

/-- The commands of the compute dies complete. -/
def Obligations.ViCommandsComplete : Prop :=
  Completes Instr.hartStart (fun _ => .hartCluster) 0x10 checksHartStart effectHartStart [.done] ∧
  Completes Instr.hartStop (fun _ => .hartCluster) 0x11 checksHartStop effectHartStop [.done] ∧
  Completes Instr.xlateInval (fun _ => .devXlate) 0x10 checksXlateInval effectXlateInval [.accepted] ∧
  Completes Instr.rxEnable (fun _ => .devXlate) 0x11 checksRxEnable effectRxEnable [.done] ∧
  Completes Instr.rxDisable (fun _ => .devXlate) 0x12 checksRxDisable effectRxDisable [.done] ∧
  Completes Instr.rxRestart (fun _ => .devXlate) 0x13 checksRxRestart effectRxRestart [.done] ∧
  Completes Instr.viCreate (fun _ => .viCtrl) 0x10 checksViCreate effectViCreate [.done] ∧
  Completes Instr.viRun (fun _ => .viCtrl) 0x11 checksViRun effectViRun [.done] ∧
  Completes Instr.quiesce (fun _ => .viCtrl) 0x12 checksQuiesce effectQuiesce [.done] ∧
  Completes Instr.kill (fun _ => .viCtrl) 0x13 checksKill effectKill [.done] ∧
  Completes Instr.viReset (fun _ => .viCtrl) 0x14 checksViReset effectViReset [.done] ∧
  Completes Instr.viDestroy (fun _ => .viCtrl) 0x15 checksViDestroy effectViDestroy [.done] ∧
  Completes Instr.migrate (fun _ => .viCtrl) 0x16 checksMigrate effectMigrate [.done] ∧
  Completes Instr.viSave (fun _ => .viCtrl) 0x17 checksViSave effectViSave [.accepted] ∧
  Completes Instr.viRestore (fun _ => .viCtrl) 0x18 checksViRestore effectViRestore [.accepted] ∧
  Completes Instr.shareApply (fun _ => .derailleur) 0x10 checksShareApply effectShareApply [.accepted] ∧
  Completes Instr.shareClearCounters (fun _ => .derailleur) 0x11 checksShareClearCounters effectShareClearCounters [.done] ∧
  Completes Instr.logStart (fun _ => .dirtyLog) 0x10 checksLogStart effectLogStart [.accepted] ∧
  Completes Instr.logSwap (fun _ => .dirtyLog) 0x11 checksLogSwap effectLogSwap [.accepted] ∧
  Completes Instr.logStop (fun _ => .dirtyLog) 0x12 checksLogStop effectLogStop [.accepted]

/-- The commands of the Crank and the retain memory complete. The commands of the capture engine complete. -/
def Obligations.CrankAndCaptureCommandsComplete : Prop :=
  Completes Instr.crLoad (fun _ => .crank) 0x10 checksCrLoad effectCrLoad [.accepted] ∧
  Completes Instr.crStart (fun _ => .crank) 0x11 checksCrStart effectCrStart [.done] ∧
  Completes Instr.crStop (fun _ => .crank) 0x12 checksCrStop effectCrStop [.done] ∧
  Completes Instr.crRun (fun _ => .crank) 0x13 checksCrRun effectCrRun [.done] ∧
  Completes Instr.crStepMode (fun _ => .crank) 0x14 checksCrStepMode effectCrStepMode [.done] ∧
  Completes Instr.crStep (fun _ => .crank) 0x15 checksCrStep effectCrStep [.done] ∧
  Completes Instr.crFire (fun c => crBlk c) 0x16 checksCrFire effectCrFire [.done] ∧
  Completes Instr.olcCommit (fun _ => .crank) 0x17 checksOlcCommit effectOlcCommit [.done] ∧
  Completes Instr.force (fun _ => .crank) 0x18 checksForce effectForce [.done] ∧
  Completes Instr.unforce (fun _ => .crank) 0x19 checksUnforce effectUnforce [.done] ∧
  Completes Instr.crUnload (fun _ => .crank) 0x1A checksCrUnload effectCrUnload [.done] ∧
  Completes Instr.crankClearCounters (fun _ => .crank) 0x1B checksCrankClearCounters effectCrankClearCounters [.done] ∧
  Completes Instr.taskClearCounters (fun _ => .crankTask) 0x10 checksTaskClearCounters effectTaskClearCounters [.done] ∧
  Completes Instr.rtClear (fun _ => .xspiRetain) 0x10 checksRtClear effectRtClear [.accepted] ∧
  CompletesWhen recordFits Instr.capEnable (fun _ => .capture) 0x10 checksCapEnable effectCapEnable [.done] ∧
  Completes Instr.capDisable (fun _ => .capture) 0x11 checksCapDisable effectCapDisable [.done] ∧
  Completes Instr.capTrigger (fun c => capBlk c) 0x12 checksCapTrigger effectCapTrigger [.done] ∧
  Completes Instr.capReadout (fun c => capBlk c) 0x13 checksCapReadout effectCapReadout [.done] ∧
  Completes Instr.capRelease (fun c => capBlk c) 0x14 checksCapRelease effectCapRelease [.done] ∧
  Completes Instr.capClearCounters (fun c => capBlk c) 0x15 checksCapClearCounters effectCapClearCounters [.done]

/-- The commands of the key vault are accepted. -/
def Obligations.VaultCommandsComplete : Prop :=
  VaultAccepts Instr.unsealChal 0x10 ∧
  VaultAccepts Instr.vaultUnseal 0x11 ∧
  VaultAccepts Instr.vaultSeal 0x12 ∧
  VaultAccepts Instr.dormant 0x13 ∧
  VaultAccepts Instr.wake 0x14 ∧
  VaultAccepts Instr.rootGen 0x15 ∧
  VaultAccepts Instr.rootLoad 0x16 ∧
  VaultAccepts Instr.vaultAuthLoad 0x17 ∧
  VaultAccepts Instr.keyDerive 0x20 ∧
  VaultAccepts Instr.keyUnwrap 0x21 ∧
  VaultAccepts Instr.keyGen 0x22 ∧
  VaultAccepts Instr.keyClear 0x23 ∧
  VaultAccepts Instr.keySet 0x24 ∧
  VaultAccepts Instr.encrypt 0x28 ∧
  VaultAccepts Instr.decrypt 0x29 ∧
  VaultAccepts Instr.macGen 0x2A ∧
  VaultAccepts Instr.macVer 0x2B ∧
  VaultAccepts Instr.attest 0x30 ∧
  Completes Instr.faClearCounters (fun _ => .frameAuth) 0x10 checksFaClearCounters effectFaClearCounters [.done] ∧
  (∀ c s, CompletesAt (fun _ _ => True) (.vaultClearCounters c) c s (viewOr c .keyView .keyVault) 0x31 checksVaultClearCounters (effectVaultClearCounters c) [.done])

/-- The commands of reset, options and boot flash complete. The commands of the Mechanic and of PMBus complete. -/
def Obligations.ResetAndMechanicCommandsComplete : Prop :=
  Completes Instr.swrAssert (fun _ => .resetKs) 0x10 (swrChecks false) effectSwrAssert [.done] ∧
  Completes Instr.swrRelease (fun _ => .resetKs) 0x11 (swrChecks true) effectSwrRelease [.done] ∧
  Completes Instr.swrPulse (fun _ => .resetKs) 0x12 (swrChecks true) effectSwrPulse [.done] ∧
  Completes Instr.forceRelease (fun _ => .resetKs) 0x13 checksForceRelease effectForceRelease [.done] ∧
  Completes Instr.pinFuse (fun _ => .option) 0x10 checksPinFuse effectPinFuse [.accepted] ∧
  Completes Instr.xbRead (fun _ => .xspiBoot) 0x10 checksXbRead effectXbRead [.accepted] ∧
  Completes Instr.xbProgram (fun _ => .xspiBoot) 0x11 checksXbProgram effectXbProgram [.accepted] ∧
  Completes Instr.xbErase (fun _ => .xspiBoot) 0x12 checksXbErase effectXbErase [.accepted] ∧
  Completes Instr.mcYield (fun _ => .mechanic) 0x10 checksMcYield effectMcYield [.done] ∧
  Completes Instr.mcRestart (fun _ => .mechanic) 0x11 checksMcRestart effectMcRestart [.done] ∧
  Completes Instr.mcAuthLoad (fun _ => .mechanic) 0x12 checksMcAuthLoad effectMcAuthLoad [.done] ∧
  Completes Instr.diePower (fun _ => .mechanic) 0x13 checksDiePower effectDiePower [.accepted] ∧
  Completes Instr.updVerify (fun _ => .mechanic) 0x20 (updChecks [0, 2]) effectUpdVerify [.accepted] ∧
  Completes Instr.updActivate (fun _ => .mechanic) 0x21 (updChecks [2]) effectUpdActivate [.accepted] ∧
  Completes Instr.updCommit (fun _ => .mechanic) 0x22 (updChecks [4]) effectUpdCommit [.accepted] ∧
  Completes Instr.updAbort (fun _ => .mechanic) 0x23 (updChecks [4]) effectUpdAbort [.accepted] ∧
  Completes Instr.mcClearCounters (fun _ => .mechanic) 0x30 checksMcClearCounters effectMcClearCounters [.done] ∧
  Completes Instr.railSet (fun _ => .pmbus) 0x10 checksRailSet effectRailSet [.done] ∧
  Completes Instr.railClear (fun _ => .pmbus) 0x11 railChecks effectRailClear [.done]

/-- The commands of the Saddlebag and the Cyclometer complete. The commands of the Coaster and of the degraded level
complete. The commands of the Tandem lane complete. -/
def Obligations.RecorderCoasterAndTandemCommandsComplete : Prop :=
  Completes Instr.sbPost (fun _ => .saddlebag) 0x10 checksSbPost effectSbPost [.done] ∧
  Completes Instr.sbFreeze (fun _ => .saddlebag) 0x11 sbChecks effectSbFreeze [.done] ∧
  Completes Instr.sbUnfreeze (fun _ => .saddlebag) 0x12 sbChecks effectSbUnfreeze [.done] ∧
  Completes Instr.sbArm (fun _ => .saddlebag) 0x13 checksSbArm effectSbArm [.done] ∧
  Completes Instr.sbDisarm (fun _ => .saddlebag) 0x14 sbChecks effectSbDisarm [.done] ∧
  Completes Instr.ssDisable (fun _ => .saddlebag) 0x16 sbChecks effectSsDisable [.done] ∧
  Completes Instr.sbTrigger (fun _ => .saddlebag) 0x17 sbChecks effectSbTrigger [.done] ∧
  Completes Instr.sbClearCounters (fun _ => .saddlebag) 0x18 sbChecks effectSbClearCounters [.done] ∧
  Completes Instr.cyRun (fun _ => .cyclometer) 0x10 checksCyRun effectCyRun [.done] ∧
  Completes Instr.cyStop (fun _ => .cyclometer) 0x11 checksCyStop effectCyStop [.done] ∧
  Completes Instr.cyClearCounters (fun _ => .cyclometer) 0x12 checksCyClearCounters effectCyClearCounters [.done] ∧
  Completes Instr.ssEnable (fun _ => .saddlebag) 0x15 checksSsEnable effectSsEnable [.done] ∧
  Completes Instr.levelForce (fun _ => .resetKs) 0x30 checksLevelForce effectLevelForce [.done] ∧
  Completes Instr.zoneLoad (fun _ => .coaster) 0x10 checksZoneLoad effectZoneLoad [.done] ∧
  Completes Instr.frameLoad (fun _ => .coaster) 0x11 checksFrameLoad effectFrameLoad [.done] ∧
  Completes Instr.zoneOff (fun _ => .coaster) 0x12 checksZoneOff effectZoneOff [.done] ∧
  Completes Instr.zoneReset (fun _ => .coaster) 0x13 checksZoneReset effectZoneReset [.done] ∧
  Completes Instr.coasterClearCounters (fun _ => .coaster) 0x14 checksCoasterClearCounters effectCoasterClearCounters [.done] ∧
  Completes Instr.tripIoClearCounters (fun _ => .tripIo) 0x10 checksTripIoClearCounters effectTripIoClearCounters [.done] ∧
  Completes Instr.tdStart (fun _ => .tandemLane) 0x10 checksTdStart effectTdStart [.done] ∧
  Completes Instr.tdStop (fun _ => .tandemLane) 0x11 checksTdStop effectTdStop [.done] ∧
  Completes Instr.handover (fun _ => .tandemLane) 0x12 checksHandover effectHandover [.accepted] ∧
  Completes Instr.tdClearCounters (fun _ => .tandemLane) 0x13 checksTdClearCounters effectTdClearCounters [.done]

/-- The writes of the page header complete: a write of EVENT clears the bits that are 1 in both, a write of EVENT_EN
takes the value and raises an interrupt for a standing bit that it enables, a write of PAGE_LOCK sets the lock for 1
and leaves it for 0. Each row that writes one register completes: a granted write has the effect of that register's
rule. A register write completes at every offset but CMD: it sets a field of the header, a select of the counter area,
a word of the Crank's mailbox, or a register of the block's own map; and the rows that write one word of a 64-bit
register are such writes. -/
def Obligations.RegisterWritesComplete : Prop :=
  (∀ (a : Access) (s : State), gate s (accLoc a) a.blk a.who 0x02C a.wide true = .pass →
    Goes (.eventW1cWrite a) s (eventClear a (written s { a with off := 0x02C }))) ∧
  (∀ (a : Access) (s : State), gate s (accLoc a) a.blk a.who 0x030 a.wide true = .pass →
    Goes (.eventEnWrite a) s (eventEnable a (written s { a with off := 0x030 }))) ∧
  (∀ (a : Access) (s : State), gate s (accLoc a) a.blk a.who 0x00C a.wide true = .pass →
    Goes (.pageLockWrite a) s (lockPage a (written s { a with off := 0x00C }))) ∧
  WriteCompletes .offsetInDelivery (fun a => { a with blk := .timeBase, off := R.OFFSET_IN.off + 4 * b2n (!a.wide) })
    (fun _ => offsetWrite) ∧
  WriteCompletes .triggerArmedWrite (fun a => { a with
      blk := if a.view.isSome then .timerView else .timeTrigger
      off := if a.off = R.TRG_WIDTH.off ∨ a.off = R.TRG_RATE.off then a.off else R.TRG_PERIOD.off }) (fun _ => trgWrite) ∧
  WriteCompletes .qRsvWrite (accAt R.Q_RSV) (fun _ => qRsvWrite) ∧
  WriteCompletes .lpCfgWrite (accAt R.LP_CFG) (fun _ => lpCfgWrite) ∧
  WriteCompletes .sdCfgWrite (accAt R.SD_CFG) (fun _ => sdCfgWrite) ∧
  WriteCompletes .swAliveWrite (accAt R.SW_ALIVE) (fun a => swAlive a) ∧
  WriteCompletes .tioSwSet (accAt R.TIO_SW_SET) (fun a t v u => tioDemand (locDie t.loc) a.who true v u) ∧
  WriteCompletes .tioSwClr (accAt R.TIO_SW_CLR) (fun a t v u => tioDemand (locDie t.loc) a.who false v u) ∧
  WriteCompletes .tdPermitWrite (accAt R.TD_PERMIT) (fun a => tdPermit a.who) ∧
  WriteCompletes .wdtKickWrite (accAt R.WDT_KICK) (fun a => wdtKick a.who) ∧
  WriteCompletes .resetCauseWrite (accAt R.RESET_CAUSE) (fun _ => clearCauses) ∧
  WriteCompletes .mcRenewWrite (accAt R.MC_RENEW) (fun a => renewLease a.who) ∧
  WriteCompletes .mcCandWrite (accAt R.MC_CAND) (fun a => refreshCand a.who) ∧
  WriteCompletes .sbSeekWrite (accAt R.SB_SEEK) (fun a => sbSeek a.who.ini) ∧
  (∀ (a : Access) (s : State), gate s (accLoc a) a.blk a.who a.off a.wide true = .pass → a.off < 0x080 → a.off ≠ 0x010 →
    Goes (.registerWrite a) s (headerWrite a (written s a))) ∧
  (∀ (a : Access) (s : State), gate s (accLoc a) a.blk a.who a.off a.wide true = .pass → 0xF00 ≤ a.off →
    Goes (.registerWrite a) s (areaWrite a (written s a)) ∧ Goes (.counterSelectWrite a) s (areaWrite a (written s a))) ∧
  (∀ (a : Access) (s : State), gate s (accLoc a) a.blk a.who a.off a.wide true = .pass → a.blk = .crankView →
    0xA00 ≤ a.off → a.off < 0xF00 → Goes (.registerWrite a) s (mailboxWrite a (written s a))) ∧
  (∀ (a : Access) (s : State) (t : Target), WriteGranted s a t → 0x080 ≤ a.off → a.off < 0xF00 →
    (a.blk = .crankView → a.off < 0xA00) → (a.blk = .keyVault → measOf a.off = none) →
    Goes (.registerWrite a) s (applyWrite a t (regEffect a) (written s a))) ∧
  (∀ (a : Access) (s : State) (t : Target), t.reg.wide = true → 0x080 ≤ a.off → a.off < 0x800 → a.off % 8 = 0 →
    WriteGranted s { a with wide := false } t → t.high = false →
    Goes (.lowWordWrite a) s
      (setLatch (written s { a with wide := false }) (accLoc a) a.blk a.who.ini (some ⟨t.reg.off, a.value % 2 ^ 32, true⟩))) ∧
  (∀ (a : Access) (s : State) (t : Target), t.reg.wide = true → 0x080 ≤ a.off → a.off < 0x800 → a.off % 8 = 4 →
    WriteGranted s { a with wide := false } t → t.high = true →
    let s1 := written s { a with wide := false }
    Goes (.highWordWrite a) s (regEffect { a with wide := false } t
      (highWrite s1 (accLoc a) a.blk a.who.ini t a.value &&& t.reg.mask) (spendLatch s1 (accLoc a) a.blk a.who.ini t)))

/-- The reads with an effect of their own complete: the time snapshot, the stamp, the start of a take, the next record
of the ring, a slot of COUNTER_VIEW. -/
def Obligations.EffectReadsComplete : Prop :=
  ReadCompletes .timeSnapshotRead (accAt R.TIME_SEC) (fun a t =>
    let c := ctr t a.die
    readWide a R.TIME_SEC.off false c.sec
      (wrB (wrB (wrB t a.die R.TIME_NS a.who.ini c.ns) a.die R.TIME_FRAC a.who.ini (timeFrac c)) a.die R.TIME_SEC a.who.ini c.sec)) ∧
  ReadCompletes .stampRead (accAt R.STAMP) (fun a t =>
    if isHart a.who.ini && hartDie a.who.ini == a.die then
      let st := stampOf t a.die (260 + a.who.ini % 16) 0
      readWide a R.STAMP.off false st.cts (wrB (tickSrc t a.die (260 + a.who.ini % 16)) a.die R.STAMP_ORDER a.who.ini st.order)
    else readWide a R.STAMP.off false (ctsNow t a.die) (wrB t a.die R.STAMP_ORDER a.who.ini 0)) ∧
  ReadCompletes .takeStart (fun a => { a with blk := if a.view.isSome then .pelotonView else .peloton, off := R.TAKE.off }) (fun a t =>
    let die := match a.view with | some v => viHome t v | none => accLoc a
    let ctl := rdB t (accLoc a) (takeReg a.view.isSome R.TAKE_CTL) a.who.ini
    let w : Waiter := ⟨a.who.ini, a.view.isNone && bit ctl 28, a.view.getD (fld ctl 27 20), accLoc a, a.view.isSome, t.now,
      ctl % 2 ^ 20, a.wide⟩
    let x := sliceOf t die
    let t1 := setSlice { t with resp := .none } die { x with waiters := x.waiters ++ [w] }
    if !(mayStartTake t die a.who.ini) then takeReturns t w (rdB t (accLoc a) (takeReg a.view.isSome R.TAKE) a.who.ini)
    else if !x.run then endTake t1 die w 4
    else if (sliceOf (dispatch t1 die) die).waiters.contains w && ctl % 2 ^ 20 == 0 then endTake (dispatch t1 die) die w 1
    else dispatch t1 die) ∧
  ReadCompletes .sbNextRead (accAt R.SB_NEXT) (fun a t =>
    let r := sbNext t a.die a.who.ini
    let t1 := if bit r.1 27 then t else wrB t a.die R.SB_NEXT_POS a.who.ini r.2.1
    respond (setSbag t1 a.die { sbagOf t a.die with cursors := mput a.who.ini r.2.2 (sbagOf t a.die).cursors }) r.1) ∧
  (∀ (a : Access) (s : State),
    let i := (a.off - 0x800) / 8 % 8
    let acc : Access := { a with blk := .counterView, view := some (a.view.getD 0), off := 0x800 + 8 * i + a.off % 8 / 4 * 4 }
    gate s (accLoc acc) .counterView a.who acc.off a.wide false = .pass →
    let r := slotValue s (a.view.getD 0) i
    Goes (.cvSlotRead a) s (cyc (readWide acc (0x800 + 8 * i) (decide (acc.off % 8 = 4)) r.1
      (if r.2 then incr s 0 R.CY_MAP_DENY 0 1 else s)) (accLoc acc) .counterView 0x01 0 1 none))

/-- A read of a register that a read clears answers its value and leaves its reset value; so do SET_AGAIN and
DENY_INFO in every page. A low-word read of a 64-bit register of the header answers the low word and latches the high
word for its initiator; the high-word read that follows answers the latch. -/
def Obligations.ReadsClearAndLatch : Prop :=
  (∀ (a : Access) (s : State), gate s (accLoc a) a.blk a.who 0x034 a.wide false = .pass →
    After (.readClearRead { a with off := 0x034 }) s fun t =>
      t.resp = .value ((hdr s (accLoc a) a.blk).setAgain % 2 ^ 32) ∧
      hdr t (accLoc a) a.blk = { hdr s (accLoc a) a.blk with setAgain := 0 }) ∧
  (∀ (a : Access) (s : State), gate s (accLoc a) a.blk a.who 0x064 a.wide false = .pass →
    After (.readClearRead { a with off := 0x064 }) s fun t =>
      t.resp = .value ((hdr s (accLoc a) a.blk).denyInfo % 2 ^ 32) ∧
      hdr t (accLoc a) a.blk = { hdr s (accLoc a) a.blk with denyInfo := 0 }) ∧
  (∀ r ∈ [R.CAD_LOW, R.Q_PEAK, R.FIL_SCAN_MAX, R.FIL_PHASE_MAX, R.FIL_BATCH_MAX, R.PAN_PEAK, R.CT_MAX_US, R.CAP_STAGE_PEAK,
      R.CO_EVAL_MAX, R.TIO_BIN_CHG, R.SN_MIN, R.SN_MAX],
    ∀ (a : Access) (s : State) (g : Target), gate s (accLoc (accAt r a)) r.blk a.who r.off a.wide false = .pass →
      target s (accLoc (accAt r a)) r.blk a.who.ini r.off = some g → g.reg.acc = .rc → g.reg.wide = false →
      After (.readClearRead (accAt r a)) s fun t =>
        t.resp = .value (valueOf s r.blk (accLoc (accAt r a)) a.who.ini a.view g % 2 ^ 32) ∧
        readT t g = resetVal g.reg g.loc g.inst % 2 ^ 32) ∧
  (
    ∀ (a : Access) (s : State), a.off ∈ [0x020, 0x040, 0x048] → gate s (accLoc a) a.blk a.who a.off false false = .pass →
      let v := (headerOf s (accLoc a) a.blk a.who.ini a.off).1
      After (.lowWordRead a) s fun t =>
        t.resp = .value (v % 2 ^ 32) ∧ latchOf t (accLoc a) a.blk a.who.ini = some ⟨a.off, v / 2 ^ 32, false⟩ ∧
        After (.readClearRead { a with off := a.off + 4, wide := false }) t fun u => u.resp = .value (v / 2 ^ 32))

/-- The events of the links complete: an UP link retrains, and its unacknowledged flits are kept in order; a retrain
that succeeds returns to UP and resends them, the third that fails within 1 ms takes the link down, and an earlier one
trains again; a link trains at the release of its domain; LINK_RESTORE ends with DONE, or with TIMEOUT and the link
down. The events of the Cadence monitors and handshakes complete: a measurement shows the eight values, the index that
is the lowest of them, and the lowest index so far; a die goes out of guarantee when the condition has stood for 1 ms
and VDD_CORE is high; a handshake that stops holds the domains of both its ends by LCK and names its channel. -/
def Obligations.LinkAndCadenceEventsComplete : Prop :=
  (
    ∀ (die inst : Nat) (axle : Bool) (s : State),
      let e := linkEnds die inst axle
      let l := linkOf s e
      (∀ here there, endsIn s e 2 = true →
        Goes (.flitHandshakeFail die inst axle here there) s (atEnds e beginRetrain (setLink s e { l with
          unackedA := lastFlits l.sentA (if e.1.die = die then here else there)
          unackedB := lastFlits l.sentB (if e.1.die = die then there else here), fails := failsNow s l }))) ∧
      (endsIn s e 1 = true → restoreRuns s e = false → linkRuns s e = true →
        let s1 := atEnds e enterUp (setLink s e { l with
          unackedA := [], unackedB := [], resentA := l.unackedA, resentB := l.unackedB, fails := failsNow s l })
        let s2 := receiveFlits l.unackedB.length e.1 (resend l.unackedA.length e.1 s1)
        Goes (.linkRetrainDone die inst axle true) s
          (linesJudge (receiveFlits l.unackedA.length e.2 (resend l.unackedB.length e.2 s2)))) ∧
      (endsIn s e 1 = true → restoreRuns s e = false →
        let fs := s.now :: failsNow s l
        Goes (.linkRetrainDone die inst axle false) s
          (if 3 ≤ fs.length then linesJudge (atEnds e declareDown (setLink s e { l with fails := fs, declared := true }))
           else atEnds e beginRetrain (setLink s e { l with fails := fs }))) ∧
      (linkRuns s e = true → linkState s e.1 = 0 ∨ linkState s e.2 = 0 → l.declared = false →
        Goes (.linkInitialTrain die inst axle) s (linesJudge (atEnds e enterUp (setLink s e LinkSt.empty)))) ∧
      (∀ up, restoreRuns s e = true →
        let s2 := if up && linkRuns s e then linesJudge (atEnds e enterUp (setLink (atEnds e (putRestore false) s) e LinkSt.empty))
          else atEnds e (fun d t => linkEvent (putLinkState t d 0) d 3)
            (setLink (atEnds e (putRestore false) s) e { LinkSt.empty with declared := (linkOf (atEnds e (putRestore false) s) e).declared })
        let code := if up && linkRuns s e then Code.done else .timeout
        let ended := fun (d : LinkEnd) (t : State) => match runningAt t d.die d.blk 0x10 d.inst with
          | some k => finish t d.die d.blk k code 0
          | none => t
        Goes (.linkRestoreDone die inst axle up) s (ended e.2 (ended e.1 s2)))) ∧
  (∀ (die : Nat) (values : List Nat) (s : State), domRun s die 4 = true → (∀ v ∈ values, v < 65536) → values.length = 8 →
    let idx := values.foldl min 65535
    After (.cadenceMeasurement die values) s fun t =>
      rd t die R.CAD_INDEX 0 = idx ∧ rd t die R.CAD_LOW 0 = min (rd s die R.CAD_LOW 0) idx ∧
      (∀ i, ∀ v ∈ values[i]?, rd t die R.CAD_MON_INDEX i = v) ∧ (cadOf t die).measured = true ∧
      (cadOf t die).since = (if idx < rd s die R.CAD_FLOOR 0 then some ((cadOf s die).since.getD s.now) else none) ∧
      t.mem = s.mem ∧ t.ctrs = s.ctrs ∧ t.rst = s.rst) ∧
  (∀ (die : Nat) (s : State), domRun s die 4 = true → belowLong s die = true → vddCoreHigh s die = true →
    Goes (.outOfGuarantee die) s (setCad s die { cadOf s die with out := true })) ∧
  (∀ (die channel domA domB : Nat) (s : State), present s die = true → 1 ≤ domA → 1 ≤ domB →
    endStands s die domA = true → endStands s die domB = true →
    let mask := 2 ^ domA ||| 2 ^ domB
    let src := if isHub die then 318 else 278
    let st := stampOf s die src 0
    Goes (.handshakeTimeout die channel domA domB) s
      (causedBy st.cts (fun u => assertSource (wr u die R.LCK_INFO 0 (channel % 65536 + mask / 2 % 4096 * 65536)) die 5 mask)
        (record (tickSrc s die src) die die .resetKs st 0 0x21 false 0 [channel % 65536, st.cts])))

/-- The events of the Saddlebag's input complete: the oldest record under way to a hub reaches the queue of its plane
(R33, R34), and the next queued record goes into the ring. The events of the Cyclometer and of DRAM complete: a sweep
that is due is made, or skipped while the hub's DRAM does not take it; the AON tick counts the level codes; training
ends in READY for a fitting that is supported and in FAULT otherwise, and what waited for the channel is written; an
ECC error counts and is reported; a scrub pass leaves the channel as it is; a refresh change is shown. -/
def Obligations.RecorderAndDramEventsComplete : Prop :=
  (∀ (hub : Nat) (s : State) (r : RecInFlight), s.recs.find? (fun r => r.hub == hub) = some r → domRun s hub 0 = true →
    Goes (.saddlebagRecordEnqueue hub) s (enqueue { s with recs := s.recs.erase r } hub r.record)) ∧
  (∀ (hub p : Nat) (s : State) (r : Rec) (rest : List Rec), nextPlane (sbagOf s hub) = some p →
    sbQueue (sbagOf s hub) p = r :: rest → domRun s hub 0 = true → sbState s hub ≠ 3 →
    let g := sbagOf s hub
    let s1 := setSbag s hub { g with queues := g.queues.set p rest, turn := (p + 1) % 3 }
    Goes (.saddlebagRingWrite hub) s (countPost (fireCode (ringWrite s1 hub r) hub r) hub (codeFires s hub r))) ∧
  (∀ (hub set cause : Nat) (s : State), isHub hub = true → domRun s hub 0 = true → set < 8 →
    let k := snapOf (sbagOf s hub) set
    k.pending = some cause →
    let ws := k.entries.flatMap (snapWords s hub)
    let r := ownRec s hub cause (0xF100 + set) 1 true
      (ctsNow s hub :: (ws.zipIdx.map (fun w => if w.1.2 then 0 else 2 ^ w.2)).sum % 2 ^ 32 :: joinWords (ws.map (fun w => w.1)))
    Goes (.snapshotTrigger hub set) s (enqueue (incr (putSnap (tickPageBy (k.entries.foldl (snapAccess hub) s) hub hub .saddlebag
      cause) hub set { k with pending := none }) hub R.SS_TAKEN set 1) hub r)) ∧
  (∀ (hub set : Nat) (s : State),
    let k := snapOf (sbagOf s hub) set
    domRun s hub 0 = true → set < 8 → k.enabled = true → k.trigger = 2 → k.due ≤ s.now →
    Goes (.snapshotPeriod hub set) s
      (snapFire hub (ctsPast s hub k.due) (putSnap s hub set { k with due := k.due + k.periodNs }) set)) ∧
  (∀ (hub cause : Nat) (s : State), (sbagOf s hub).frzPending = some cause → sbState s hub = 1 →
    let post := fld (rd s hub R.SB_FRZ_CFG 0) 27 16
    let s1 := causedBy (sbagOf s hub).frzCause (fun t =>
      hwEvent (putSbState (setSbag t hub { sbagOf s hub with frzPending := none }) hub 2 post) hub .saddlebag 1) s
    Goes (.freezeTrigger hub) s
      (if post = 0 then enterFrozen s1 hub (sbagOf s hub).frzCode (sbagOf s hub).frzCause else s1)) ∧
  (∀ (hub : Nat) (s : State), (cyOf s hub).running = true → domRun s hub 4 = true → (ctr s hub).valid = true →
    (cyOf s hub).next ≤ taiNs s hub →
    Goes (.cyclometerSweep hub) s (if dramRun s hub then makeSweep s hub else skipSweep s hub)) ∧
  (∀ (s : State), mget 0 s.upAt 3 + 40 ≤ s.now →
    Goes .counterLevelTick s { s.cycSel.foldl tickCounter s with cycSeen := [], upAt := mput 3 s.now s.upAt }) ∧
  (∀ (die state ranks x16 density cause size us : Nat) (s : State), domRun s die 6 = true → rd s die R.DR_STATE 0 % 4 = 0 →
    let found := ranks % 4 * 4 + x16 % 2 * 16 + density % 4 * 256
    let ends := fun (w n : Nat) => drainBlocks
      (hwEvent (wrAll s die 0 [(R.DR_STATE, w), (R.DR_SIZE, n), (R.DR_TRAIN_US, min us 65535)]) die .dram 2) die
    let fails := fun (k : Nat) => ends (2 + found + k * 4096) (size % 128)
    (∀ g, fitting x16 density ranks = some g →
      Goes (.dramTrainingDone die 1 ranks x16 density cause size us) s (ends (1 + found) g) ∧
      (state ≠ 1 → Goes (.dramTrainingDone die state ranks x16 density cause size us) s
        (fails (if cause % 16 = 0 then 3 else cause % 16)))) ∧
    (fitting x16 density ranks = none → Goes (.dramTrainingDone die state ranks x16 density cause size us) s
      (fails (if state = 1 ∨ cause % 16 = 0 then 2 else cause % 16)))) ∧
  (∀ (die addr : Nat) (s : State), dramRun s die = true → inDram s die addr 1 = true →
    Goes (.dramEccError die true addr none) s
      (hwEvent (wrAll (incrSat s die R.DR_CE 0 1) die 0 [(R.DR_ERR_ADDR, addr), (R.DR_ERR_CTS, ctsNow s die)]) die .dram 0)) ∧
  (∀ (die addr : Nat) (reader : Option EngineRead) (s : State), dramRun s die = true → inDram s die addr 1 = true →
    let s1 := wrAll (incrSat s die R.DR_UE 0 1) die 0 [(R.DR_ERR_ADDR, addr), (R.DR_ERR_CTS, ctsNow s die)]
    let s2 := eventRec (tickPage s1 die .dram) die die .dram (pageStamp s1 die die .dram 0) (pagePlane .dram) 1 0 [addr]
    Goes (.dramEccError die false addr reader) s (match reader with | some r => readFails s2 r | none => s2)) ∧
  (∀ (die : Nat) (s : State), Goes (.dramScrubPass die) s s) ∧
  (∀ (die code device : Nat) (s : State), dramRun s die = true →
    let s1 := wr s die R.DR_MR4 0 (code % 8 + device % 16 * 256)
    Goes (.dramRefreshChange die code device) s
      (if doubles code && !(doubles (rd s die R.DR_MR4 0)) then hwEvent s1 die .dram 3 else s1))

/-- The events that discipline the counters complete: an exchange with the other hub, or with the hub that disciplines
a compute die, shows the round trip and moves the counter; a loss of three exchanges in a row is counted, and leaves
FOLLOW for HOLDOVER or makes an unset hub B the master; a compute die's counter is set from its hub; the slew ends; a
step that is due acts on every counter, and a negative one ends after its half-rate run. The events of the time inputs
complete: a PPS edge with valid IRIG-B gives an offset, a frame labels the second, a leap second changes UTC_OFFSET by
one in the announced direction, an input that stays silent becomes invalid, a PTP message reaches the agent, and an
agent without a parent makes PTP_LOCAL invalid. The events of the handover of the time base and of the triggers
complete: TAKE_MASTER ends with DONE, or with ABORTED when the other hub is no longer valid; an armed trigger fires at
its instant, and its pulse ends. -/
def Obligations.TimeEventsComplete : Prop :=
  (
    let set := fun (u : State) (die hub : Nat) =>
      let m := discTo u hub
      let u1 := setCtr (drew u) die (disciplined (ctr u die) (ctr u m) (freeDeviation u 1500))
      setStatus (wr u1 die R.DISC_OFFSET 0 (uns 32 (leadPs (ctr u1 die) (ctr u1 m)))) die .timeCounter (1 + 2 * hub)
    (∀ (die hub rtt : Nat) (s : State), isHub die = false → present s die = true → present s hub = true →
      domRun s die 5 = true → domRun s hub 5 = true → pairDown s die hub = false →
      let s1 := showPair (showRtt s die hub rtt) die hub true
      let s2 := noteSync s1 die s1.now
      Goes (.timeSyncExchange die hub rtt) s
        (if discHub s1 die = hub then
          if (ctr s2 (discTo s2 hub)).valid then set s2 die hub
          else setStatus s2 die .timeCounter (setBit (hdr s2 die .timeCounter).status 2 false)
         else s1)) ∧
    (∀ (die hub rtt : Nat) (s : State), isHub die = true → present s die = true → present s hub = true →
      domRun s die 5 = true → domRun s hub 5 = true → pairDown s die hub = false →
      let s0 := showPair (showRtt s die hub rtt) die hub true
      let s1 := (hubs s0).foldl (fun u h => noteSync (incrSat u h R.SYNC_MISS 0 (missed u h)) h u.now) s0
      (masterHub s1 = none → Goes (.timeSyncExchange die hub rtt) s s1) ∧
      (∀ m, masterHub s1 = some m →
        let f := otherHub m
        let s2 := setCtr (drew s1) f (disciplined (ctr s1 f) (ctr s1 m) (freeDeviation s1 2000))
        let d := leadPs (ctr s2 f) (ctr s2 m)
        let s3 := wr (wr s2 f R.PARTNER_OFFSET 0 (uns 32 d)) m R.PARTNER_OFFSET 0 (uns 32 (-d))
        Goes (.timeSyncExchange die hub rtt) s
          (if (ctr s1 m).valid then
            if (tb s3 f).state = .follow then putTb s3 f (tb s3 f) else enterTb s3 f .follow
           else s1))) ∧
    (∀ (die : Nat) (s : State), isHub die = false → domRun s die 5 = true → lastSync s die + 3000 ≤ s.now →
      let st := (hdr s die .timeCounter).status
      let s1 := showPair (noteSync s die (lastSync s die + 3000)) die (discHub s die) false
      Goes (.syncExchangeLoss die) s
        (if present s (otherHub (discHub s die)) then
          setStatus (incrSat s1 die R.DISC_SWITCH 0 1) die .timeCounter (setFld (setBit st 2 true) 1 1 (otherHub (discHub s die)))
         else setStatus s1 die .timeCounter (setBit st 2 true))) ∧
    (∀ (hub : Nat) (s : State), isHub hub = true → domRun s hub 5 = true → lastSync s hub + 3000 ≤ s.now →
      let s1 := noteSync (incrSat s hub R.SYNC_MISS 0 3) hub (lastSync s hub + 3000)
      let s2 := showPair s1 hub (otherHub hub) false
      Goes (.syncExchangeLoss hub) s
        (if (tb s2 hub).state = .follow then hwEvent (makeMaster (enterTb s2 hub .holdover) hub) hub .timeBase 5
         else if hub = 1 ∧ (tb s2 hub).state = .unset ∧ !(tb s2 hub).master then hwEvent (makeMaster s2 hub) hub .timeBase 5
         else s2)) ∧
    (∀ (die : Nat) (s : State), isHub die = false → domRun s die 5 = true → (ctr s die).valid = false →
      (ctr s (discTo s (discHub s die))).valid = true → domRun s (discHub s die) 5 = true →
      Goes (.counterSetFromHub die) s (set s die (discHub s die))) ∧
    (∀ (hub : Nat) (s : State), (tb s hub).slew.isSome = true → (tb s hub).slewEnd ≤ s.now → domRun s hub 5 = true →
      Goes (.slewEnd hub) s (refreshAddend (putTb s hub { tb s hub with slew := none }) hub)) ∧
    (∀ (s : State) (p : PendingStep), s.steps.find? (fun p => !p.running && decide (p.due ≤ s.now)) = some p →
      Goes .stepTakesEffect s
        (if 0 ≤ p.amount then
          let s1 := moveAllCtrs s (p.amount.toNat * 2 ^ 32)
          stepEnds ((hubs s1).foldl stepHub s1) p
         else { s with steps := s.steps.map (fun q =>
          if q = p then { q with running := true, due := s.now + 2 * p.amount.natAbs / 65536 } else q) })) ∧
    (∀ (s : State) (p : PendingStep), s.steps.find? (fun p => p.running && decide (p.due ≤ s.now)) = some p →
      Goes .negativeStepEnd s (stepEnds s p))) ∧
  (∀ (hub : Nat) (f : Irig) (s : State), domRun s hub 5 = true → (tb (tickSrc s hub 297) hub).irig = some f →
    irigValid (tb (tickSrc s hub 297) hub) = true →
    let s1 := tickSrc s hub 297
    let edge : Int := (ctrTotal (ctr s1 hub) / 2 ^ 32 : Nat)
    let delay := divFree (sgn 32 (rd s1 hub R.PPS_DELAY 0) * 65536) 1000
    let sec : Int := ((f.utcSec + rd s1 hub R.UTC_OFFSET 0) * 1000000000 * 65536 : Nat)
    Goes (.ppsInEdge hub) s (refreshGm (offsetIn s1 hub 1 (edge - delay - sec)) hub)) ∧
  (∀ (hub : Nat) (s : State), domRun s hub 5 = true → (tb (tickSrc s hub 297) hub).irig = none ∨ irigValid (tb (tickSrc s hub 297) hub) = false →
    Goes (.ppsInEdge hub) s (tickSrc s hub 297)) ∧
  (∀ (hub : Nat) (markError : Bool) (s : State), domRun s hub 5 = true →
    Goes (.irigBFrame hub none markError) s
      (hwEvent (putTb s hub { tb s hub with irig := none, irigRun := 0, gm := false }) hub .timeBase 6)) ∧
  (∀ (hub : Nat) (f : Irig) (markError : Bool) (s : State), domRun s hub 5 = true →
    let run := match (tb s hub).irig with
      | some g => if g.utcSec + 1 = f.utcSec then min 2 ((tb s hub).irigRun + 1) else 1
      | none => 1
    let s1 := putTb s hub { tb s hub with
      irig := some f, irigRun := run, leap := if f.leap then some (f.dayEnd, f.leapDelete) else (tb s hub).leap }
    let s2 := refreshGm s1 hub
    let s3 := if markError then hwEvent s2 hub .timeBase 6 else s2
    Goes (.irigBFrame hub (some f) markError) s (if f.leap then hwEvent s3 hub .timeBase 4 else s3)) ∧
  (∀ (hub dayEnd : Nat) (delete : Bool) (s : State), (tb s hub).leap = some (dayEnd, delete) → domRun s hub 5 = true →
    (ctr s hub).valid = true →
    let v := rd s hub R.UTC_OFFSET 0
    let w := if delete then (v + 65535) % 65536 else (v + 1) % 65536
    dayEnd + w ≤ (ctr s hub).sec →
    After (.leapSecondApply hub) s fun t => rd t hub R.UTC_OFFSET 0 = w ∧ (tb t hub).leap = none ∧ t.ctrs = s.ctrs) ∧
  (∀ (hub input : Nat) (s : State), domRun s hub 5 = true → (tb s hub).valid[input]? = some true →
    inputStale s hub input = true → Goes (.refTimeoutExpiry hub input) s
      (refreshGm (reselect (putTb s hub { tb s hub with valid := (tb s hub).valid.set input false }) hub) hub)) ∧
  (∀ (hub port portState delay : Nat) (parent : Option Nat) (clockClass version : Nat) (s : State),
    domRun s hub 5 = true → bit (rd s hub R.AG_CTRL 0) 0 = true →
    let s0 := setSw s hub { swOf s hub with toP15 := (swOf s hub).toP15.eraseP (fun f => f.frame.etype == 0x88F7) }
    let ps := roleState (agentRole s hub port) (portState % 16)
    let s1 := wr (wr s0 hub R.AGP_STATE port ps) hub R.AGP_DELAY port delay
    let st := rd s1 hub R.AG_STATUS 0
    let s2 := wr s1 hub R.AG_STATUS 0
      (setFld (setFld (slaveField s1 hub port st) 15 8 clockClass) 31 16 version)
    let s3 := setParent (wr s2 hub R.AG_PARENT 0 (parent.getD 0)) hub parent.isSome
    (∀ o, o = none ∨ ps ≠ 9 → Goes (.ptpMessageRx hub port portState delay parent clockClass version o) s s3) ∧
    ∀ x : Int, ps = 9 → Goes (.ptpMessageRx hub port portState delay parent clockClass version (some x)) s
      (offsetIn (countWrite (wr (wr s3 hub R.OFFSET_IN 0 (uns 64 x)) hub R.OFFSET_IN_CTS 0 (ctsNow s3 hub)) hub .timeBase
        ⟨104 + hub, none⟩) hub 0 x)) ∧
  (∀ (hub : Nat) (s : State), domRun s hub 5 = true →
    Goes (.announceReceiptTimeout hub) s (setParent (wr s hub R.AG_PARENT 0 0) hub false)) ∧
  (∀ (hub : Nat) (k : Ticket) (s : State), runningOp s hub .timeBase 0x14 = some k →
    Goes (.takeMasterDone hub) s
      (if present s (otherHub hub) && domRun s (otherHub hub) 5 && (ctr s (otherHub hub)).valid then
        finish (takeMaster s hub) hub .timeBase k .done 0
       else finish s hub .timeBase k .aborted 0)) ∧
  (∀ (hub n : Nat) (s : State), domRun s hub 5 = true → n < 16 → (trigOf s hub n).armed = true → (ctr s hub).valid = true →
    (trigOf s hub n).next ≤ taiNs s hub →
    Goes (.triggerFiring hub n) s (fireTrig s hub n (trigOf s hub n).next)) ∧
  (∀ (hub n e : Nat) (s : State), (trigOf s hub n).pulse = some e → domRun s hub 5 = true → e ≤ taiNs s hub →
    Goes (.triggerPulseEnd hub n) s (putTrig s hub n { trigOf s hub n with pulse := none }))

/-- The events of frames in the switch complete: a frame at an UP port, over the Axle or injected at P15 is taken in;
a slot of the crossbar matches and moves cells; a sampler record goes into the ring or is dropped when the ring is
full; a send is checked at P13; a send's buffer is read once its pages are translated. The events of tables, gates and
ports of the switch complete: ageing removes a dynamic entry; a gate list moves to its next entry and starts again at
the cycle's end; a pending list becomes operational at its time and sets its event; a port without link goes down,
ends its flush, returns with its link, and is UP when PORT_HOLD_UP has passed. -/
def Obligations.SwitchEventsComplete : Prop :=
  (∀ (hub port mask cls : Nat) (frame : Frame) (s : State), domRun s hub 7 = true → port < 12 → portState s hub port = 2 →
    let st := stampOf s hub (256 + port) 0
    Goes (.frameIngress hub port frame mask cls) s
      (receive (tickSrc s hub (256 + port)) hub {
        frame := frame, hub := hub, port := port, lane := portLane s hub port, cts := st.cts, order := st.order
        own := false, pass := false, frac := fracNow s hub })) ∧
  (∀ (hub mask cls : Nat) (frame : Frame) (f : FrameIn) (rest : List FrameIn) (s : State), domRun s hub 7 = true →
    (swOf s hub).fromAxle = f :: rest →
    Goes (.frameIngress hub 12 frame mask cls) s
      (receiveAcross (setSw s hub { swOf s hub with fromAxle := rest }) hub f)) ∧
  (∀ (hub mask cls : Nat) (frame : Frame) (s : State), domRun s hub 7 = true →
    laneMode s hub = 0 ∨ frame.etype = 0x88F7 ∨ isLinkLocal frame.dst = true →
    Goes (.frameIngress hub 15 frame mask cls) s (injectP15 s hub { frame with red := none } (maskPorts (mask % 65536)) (cls % 8))) ∧
  (∀ (hub mask cls : Nat) (frame : Frame) (s : State), domRun s hub 7 = true → laneMode s hub ≠ 0 →
    frame.etype ≠ 0x88F7 → isLinkLocal frame.dst = false →
    let q := takeSeq s hub frame.src
    Goes (.frameIngress hub 15 frame mask cls) s
      (injectP15 q.1 hub { frame with red := some (ownTag s hub hub q.2) } (maskPorts (mask % 65536)) (cls % 8))) ∧
  (∀ (hub : Nat) (s : State), domRun s hub 7 = true →
    let m := iterate false hub (iterate false hub (iterate true hub (s, readyPins s hub)))
    Goes (.crossbarSlot hub) s (m.2.foldl (moveCell hub) m.1)) ∧
  (∀ (hub : Nat) (bs : List Byte) (rest : List (List Byte)) (s : State), (swOf s hub).samples = bs :: rest →
    let s1 := setSw s hub { swOf s hub with samples := rest }
    let n := 2 ^ (rd s hub R.SMP_RING_SIZE 0)
    let head := rd s hub R.SMP_HEAD 0
    Goes (.samplerRecord hub) s
      (if (head + 1) % n = rd s hub R.SMP_TAIL 0 % n then hwEvent (incr s1 hub R.SMP_DROP 0 1) hub .switch 1
       else wr (writeBytes s1 (rd s hub R.SMP_RING_BASE 0 + head % n * 160) bs) hub R.SMP_HEAD 0 ((head + 1) % n))) ∧
  (∀ (hub : Nat) (x : Send) (rest : List Send) (s : State), (swOf s hub).sends = x :: rest → domRun s hub 7 = true →
    Goes (.p13SendCheck hub) s (sendCheck (setSw s hub { swOf s hub with sends := rest }) hub x (laneAdjust hub))) ∧
  (∀ (die : Nat) (q : SendReq) (s : State), s.sendReqs.find? (fun q => q.die == die) = some q → domRun s die 10 = true →
    let x := xlOf s die
    let missing := (pagesOf q.addr q.len).filter (fun p => !(serves s die q.vi p false))
    let f := parseFrame (getGuest s x q.vi q.addr q.len)
    let s0 := { s with sendReqs := s.sendReqs.erase q }
    let s1 := match q.direct with
      | some (ini, seq) =>
        if pageRun s0 (viewLoc q.vi) .egressView then
          hwEvent (wrB s0 (viewLoc q.vi) R.EG_READ_SEQ ini seq) (viewLoc q.vi) .egressView 0
        else s0
      | none => s0
    let plain := decide (f.etype = 0x88F7) || isLinkLocal f.dst
    (missing ≠ [] → Goes (.egBufferRead die) s (missing.foldl (fun t p => startWalk t q.vi p false) s)) ∧
    (missing = [] → Goes (.egBufferRead die) s (match egressSeq (xlOf s1 die) q.vi f.src (!plain) with
      | none => incr s1 die R.EG_NO_SEQ 0 1
      | some r => (hubs s1).foldl (sendCopy die q { f with red := if plain then none else some ⟨r.2, 0, false⟩ }) (setXl s1 die r.1)))) ∧
  (∀ (hub idx : Nat) (s : State),
    let w := swOf s hub
    let age := fld (rd s hub R.SW_CFG 0) 31 16
    domRun s hub 7 = true → age ≠ 0 → idx < 65536 → bit (tblGet w 0 idx).d2 17 = true → bit (tblGet w 0 idx).d2 16 = false →
    mget 0 w.macSeen idx + age * 1000000000 ≤ s.now →
    Goes (.macAgeOut hub idx) s (setSw s hub { tblPut w 0 idx ⟨0, 0, 0, 0⟩ with macSeen := mdel idx w.macSeen })) ∧
  (∀ (hub port : Nat) (g : Gates) (s : State), gatesOf s hub port = some g → domRun s hub 7 = true → (ctr s hub).valid = true →
    g.oper ≠ [] → g.entryStart + entryLen g g.entry ≤ taiNs s hub →
    Goes (.gateListAdvance hub port) s (putGates s hub port
      (if g.oper.length ≤ g.entry + 1 ∨ g.cycle ≤ entryOff g (g.entry + 1) then
        { g with cycleStart := g.cycleStart + g.cycle, entryStart := g.cycleStart + g.cycle, entry := 0 }
       else { g with entryStart := g.cycleStart + entryOff g (g.entry + 1), entry := g.entry + 1 }))) ∧
  (∀ (hub port : Nat) (g : Gates) (p : GatePending) (s : State), gatesOf s hub port = some g → g.pending = some p →
    domRun s hub 7 = true → (ctr s hub).valid = true → p.at_ ≤ taiNs s hub →
    let s1 := putGates s hub port ⟨p.entries, p.cycle, p.at_, p.at_, 0, none⟩
    Goes (.qbvConfigChange hub port) s (hwEvent (wrAll s1 hub port [(R.QBV_OPER_CYCLE, p.cycle), (R.QBV_CHANGE, ctsOfNs p.at_),
      (R.PORT_STATE, setBit (setBit (rd s1 hub R.PORT_STATE port) 3 true) 4 false)]) hub .switchPort 16)) ∧
  (∀ (hub port : Nat) (s : State), domRun s hub 7 = true → port < 16 →
    (portLinked s hub port = false → Goes (.portDown hub port) s (portDown s hub port)) ∧
    (portLinked s hub port = true → Goes (.portLinkReturn hub port) s (portReturn s hub port)) ∧
    (bit (rd s hub R.PORT_STATE port) 2 = true →
      Goes (.portFlushDone hub port) s (wr s hub R.PORT_STATE port (setBit (rd s hub R.PORT_STATE port) 2 false))) ∧
    (portState s hub port = 1 → portLinked s hub port = true → holdOver s hub port = true →
      Goes (.portHoldUpExpiry hub port) s (laneReturned
        (putPortState (wr s hub R.UP_STAMP port (ctsNow s hub)) hub port 2 (bit (rd s hub R.PORT_STATE port) 2)) hub port)))

/-- The events of the node table and of redundancy complete: a window that stayed silent is cleared, a dynamic entry
that stayed silent is removed, a supervision frame is sent, and the rehoming of streams starts, cuts and ends. The
events of the ports' links and modules complete: a port in SEARCH whose signal has stood for LP_LOS_FILTER, with
autonegotiation complete where it is on, enters UP and returns to its switch port; a port in UP that loses its signal
for LP_LOS_FILTER, or that its partner reports a fault to, goes back to SEARCH, or to FAULT at the flap limit; the
Tandem lane's link follows; TDR results are loaded; a module's insertion, polling and removal are shown. -/
def Obligations.LaneEventsComplete : Prop :=
  (∀ (hub idx : Nat) (n : Node) (s : State), (laneOf s hub).nodes.lookup idx = some n → domRun s hub 7 = true →
    n.accepted + within 10 10000 (rd s hub R.ENTRY_FORGET 0) * 1000000 ≤ s.now →
    Goes (.entryForgetExpiry hub idx) s (setLane s hub { laneOf s hub with
      nodes := mput idx { n with win := Win.empty, passA := Win.empty, passB := Win.empty } (laneOf s hub).nodes })) ∧
  (∀ (hub idx : Nat) (n : Node) (s : State), (laneOf s hub).nodes.lookup idx = some n → domRun s hub 7 = true →
    n.static_ = false → n.lastSeen + nodeForget s hub ≤ s.now →
    Goes (.nodeForgetExpiry hub idx) s (keepNodes s hub (fun i _ => i != idx))) ∧
  (∀ (hub : Nat) (s : State), domRun s hub 7 = true → laneMode s hub ≠ 0 → supDue s hub = true →
    let s0 := setLane s hub { laneOf s hub with supAt := some s.now }
    let own := rd s hub R.MG_MAC 0 % 2 ^ 48
    let q := takeSeq s0 hub own
    Goes (.supervisionSend hub) s
      (if (supDevs s hub).isEmpty && (supSans s hub).isEmpty then s0
       else injectP15 q.1 hub (supFrame q.1 hub own (supDevs s hub) (supSans s hub) (ownTag s hub hub q.2))
        (lanePorts q.1 hub ++ [12]) 7)) ∧
  (∀ (hub : Nat) (s : State), domRun s hub 7 = true → otherLost s hub = true → (laneOf s hub).state ≠ 2 →
    let moved := otherHomed s hub
    let s1 := putLaneState s hub 2
    let s2 := setLane s1 hub { laneOf s1 hub with nodes := (laneOf s1 hub).nodes.map (fun e => (e.1, { e.2 with home := hub })) }
    let s3 := moved.foldl (forceHome hub) s2
    let st := pageStamp s3 hub hub .lane 0
    let s4 := eventRec (tickPage s3 hub .lane) hub hub .lane st (pagePlane .lane) 1 0 [moved.length]
    let s5 := wr s4 hub R.REHOME_LAST 0 st.cts
    Goes (.hubLostRehome hub) s (if domRun s hub 8 then moved.foldl (replay hub) s5 else s5)) ∧
  (∀ (hub : Nat) (p : RehomePlan) (s : State), (laneOf s hub).plan = some p → domRun s hub 7 = true → p.warm = false →
    rehomeNs s hub p.at_ ≤ taiNs s hub + rd s hub R.REHOME_WARM 0 * 1000 →
    Goes (.rehomeWarmStart hub) s (p.streams.foldl (fun t i => match streamOf t hub i with
      | none => t
      | some e => detRestart (putStream t hub i { e with newest := none, seen := 0, failed := 0, fresh := true }) hub i)
      (setLane s hub { laneOf s hub with plan := some { p with warm := true } }))) ∧
  (∀ (hub : Nat) (p : RehomePlan) (s : State), (laneOf s hub).plan = some p → domRun s hub 7 = true →
    p.warm = true → rehomeNs s hub p.at_ ≤ taiNs s hub →
    let s1 := p.streams.foldl (cutStream hub (rehomeNs s hub p.at_)) (setLane s hub { laneOf s hub with plan := none })
    Goes (.rehomeCut hub) s
      (finishOp (hwEvent (wr s1 hub R.REHOME_LAST 0 p.at_) hub .lane 2) hub .lane 0x14 .done 0)) ∧
  (∀ (hub port : Nat) (seen : LinkSeen) (s : State), domRun s hub 7 = true → port < 12 →
    portLink s hub port = 1 → rd s hub R.LP_LOS_FILTER port ≤ seen.held → anOn s hub port = false ∨ seen.ability.isSome = true →
    let s1 := putPortLink s hub port 2
    let s2 := match (if anOn s hub port then seen.ability else none) with
      | some w => wrAll s1 hub port [(R.PT_AN_LPA, w), (R.PT_AN_CTS, ctsNow s1 hub)]
      | none => s1
    Goes (.linkSignalUp hub port seen) s
      (portReturn (lineUp s2 hub port (anOn s hub port) seen.gigabit seen.mdix) hub port)) ∧
  (∀ (hub : Nat) (seen : LinkSeen) (s : State), domRun s hub 7 = true →
    bit (rstOf s hub).locks 4 = true → fld (rd s hub R.TD_STATE 0) 13 12 ≠ 2 →
    Goes (.linkSignalUp hub 12 seen) s (putTandemLink s hub 2)) ∧
  (∀ (hub port lost : Nat) (remote : Bool) (s : State), domRun s hub 7 = true → port < 12 → portLink s hub port = 2 →
    remote = true ∨ rd s hub R.LP_LOS_FILTER port ≤ lost →
    let recent := flapsNow s hub port ++ [s.now]
    let s1 := setLane s hub { laneOf s hub with flaps := mput port recent (laneOf s hub).flaps }
    let s2 := if port < 10 && !remote then wr s1 hub R.SD_STATUS port (setBit (rd s1 hub R.SD_STATUS port) 1 true) else s1
    Goes (.linkSignalLoss hub ⟨port, lost, remote⟩) s
      (if max 1 (fld (rd s hub R.LP_CFG port) 11 8) ≤ recent.length then hwEvent (leaveUp s2 hub port 3) hub .lane (4 + port)
       else leaveUp s2 hub port 1)) ∧
  (∀ (hub lost : Nat) (remote : Bool) (s : State), domRun s hub 7 = true → fld (rd s hub R.TD_STATE 0) 13 12 = 2 →
    Goes (.linkSignalLoss hub ⟨12, lost, remote⟩) s (putTandemLink s hub 1)) ∧
  (∀ (hub inst : Nat) (pairs : List (Nat × Nat)) (k : Ticket) (s : State), domRun s hub 7 = true →
    runningAt s hub .phyCopper 0x10 inst = some k →
    let s1 := (List.range 4).foldl (fun u k =>
      let r := tdrWord u hub inst pairs[k]?
      wr r.1 hub (R.TDR_PAIR0_3.nth k) inst r.2) s
    let s2 := wr s1 hub R.TDR_CTS inst (ctsNow s1 hub)
    Goes (.tdrDone hub inst pairs) s (finish
      (if bit (rd s2 hub R.LP_CFG (10 + inst)) 2 && portLink s2 hub (10 + inst) != 2 then putPortLink s2 hub (10 + inst) 1 else s2)
      hub .phyCopper k .done 0)) ∧
  (∀ (hub port pins : Nat) (id diag flags : List Byte) (s : State), domRun s hub 7 = true → port < 10 →
    let s0 := cagePins (setLane s hub { laneOf s hub with ddmAt := mput port s.now (laneOf s hub).ddmAt }) hub port pins
    let s1 := wr s0 hub R.SD_STATUS port (setBit (rd s0 hub R.SD_STATUS port) 0 false)
    let w := fun (l : List Byte) k => ofBytesLE ((l.drop k).take 2)
    Goes (.sfpInsertion hub port ⟨id, pins⟩) s
      (hwEvent ((List.range 24).foldl (fun u k => wr u hub (R.SFP_ID.nth k) port (ofBytesLE ((id.drop (4 * k)).take 4))) s1)
        hub .serdes (1 + port)) ∧
    (bit (rd s hub R.SD_STATUS port) 0 = false → ddmDue s hub port = true →
      Goes (.ddmPoll hub port ⟨diag, pins⟩ flags) s (wrAll s0 hub port
        [(R.DDM_TEMP_VCC, w diag 0 + w diag 2 * 65536), (R.DDM_BIAS_TXP, w diag 4 + w diag 6 * 65536), (R.DDM_RXP, w diag 8),
         (R.DDM_FLAGS, w flags 0 + w flags 4 * 65536), (R.DDM_CTS, ctsNow s hub)])) ∧
    Goes (.sfpModuleRemoval hub port) s
      (hwEvent (wr s hub R.SD_STATUS port (setBit (rd s hub R.SD_STATUS port) 0 true)) hub .serdes (1 + port)))

/-- The events of the sample path complete: a copy reaches SV ingest, a stream goes stale, a batch visits the filter,
a presentation reaches its capture engine and its Coaster, a tap sample reaches the capture engine. The events of the
capture engine complete: a row is late enough, an edge or a trigger arrives, a watched GOOSE frame arrives, a capture
closes, staging is reduced, and a read-out ends. -/
def Obligations.SampleAndCaptureEventsComplete : Prop :=
  (∀ (hub : Nat) (f : FrameIn) (rest : List FrameIn) (s : State), (swOf s hub).toP14 = f :: rest →
    let s1 := setSw s hub { swOf s hub with toP14 := rest }
    Goes (.svCopyIngest hub) s (if domRun s hub 8 then svCopy s1 hub f else s1)) ∧
  (∀ (hub i : Nat) (e : Stream) (s : State), streamOf s hub i = some e → domRun s hub 8 = true →
    rd s hub R.ST_STATE i % 4 = 2 → e.heardAt + e.stale % 2 ^ 20 * 1000 ≤ s.now →
    Goes (.streamStale hub i) s
      (inEvent (incr (putSt (putStream s hub i { e with fresh := true }) hub i 3) hub R.STALE_COUNT i 1) hub i 0)) ∧
  (∀ (hub stream : Nat) (b : Batch) (s : State), s.batches.find? (fun b => b.hub == hub && b.stream == stream) = some b →
    let s1 := { s with batches := s.batches.erase b }
    Goes (.filterBatchVisit hub stream) s (if domRun s hub 8 then visitBatch s1 b else s1)) ∧
  (∀ (hub : Nat) (p : Present) (s : State), s.presents.find? (fun p => p.hub == hub) = some p →
    let s1 := { s with presents := s.presents.erase p }
    let c := capOf s1 hub
    let edge := fun (k : Nat) (on : Bool) (at_ : Nat) => if mget false c.known (binKey (k + 8) 0 p.det) = on then [] else [CapIn.mk hub k 0 p.det on at_]
    let s2 := setCap s1 hub { c with
      known := [(4, p.fast), (5, p.slow), (9, p.blocked)].foldl (fun m e => mput (binKey (e.1 + 8) 0 p.det) e.2 m) c.known }
    Goes (.detectorPresentation hub) s (coPresent
      (if domRun s hub 8 then { s2 with
        capIns := s2.capIns ++ edge 4 p.fast p.fastAt ++ edge 5 p.slow p.slowAt ++ edge 9 p.blocked p.blockedAt } else s1) p)) ∧
  (∀ (hub : Nat) (x : TapOut) (s : State), s.taps.find? (fun x => x.hub == hub) = some x →
    let s1 := { s with taps := s.taps.erase x }
    Goes (.captureTapSample hub) s (if domRun s hub 8 then causedBy x.cts (fun u => (capOf u hub).recs.foldl (recTap hub x) (hearTap u hub x)) s1 else s1)) ∧
  (∀ (hub record : Nat) (r : CapRec) (s : State), recOf s hub record = some r → domRun s hub 8 = true →
    r.state = 1 ∨ r.state = 2 → rowNs r.f r.next + (if r.chans.isEmpty then 0 else lateWait s hub) < taiNs s hub →
    Goes (.rowLateComplete hub record) s (completeRows hub record r.pend.length (completeRow s hub record))) ∧
  (∀ (hub : Nat) (c : CapIn) (s : State), s.capIns.find? (fun c => c.dest == hub) = some c →
    let s1 := { s with capIns := s.capIns.erase c }
    Goes (.captureTriggerArrival hub) s (if domRun s hub 8 then causedBy c.cts (fun t => takeIn t c) s1 else s1)) ∧
  (∀ (hub : Nat) (f : Firing) (s : State), s.capIns.find? (fun c => c.dest == hub) = none →
    s.firings.find? (fun f => f.code == 3 && f.hub == hub) = some f →
    let s1 := { s with firings := s.firings.erase f }
    Goes (.captureTriggerArrival hub) s
      (if domRun s hub 8 then
        causedBy f.cts (fun t => trigRec t hub (f.index % 64) ⟨7, 255, f.order / 2 ^ 20 % 512 - 298 + hub * 16, f.cts⟩) s1 else s1)) ∧
  (∀ (hub : Nat) (f : FrameIn) (rest : List FrameIn) (s : State), (swOf s hub).watch = f :: rest →
    let s1 := setSw s hub { swOf s hub with watch := rest }
    Goes (.gooseWatchFrame hub) s (if domRun s hub 8 then (List.range 64).foldl (watchFrame hub f) s1 else s1)) ∧
  (∀ (hub record : Nat) (r : CapRec) (k : OpenCap) (s : State), recOf s hub record = some r → r.cap = some k → domRun s hub 8 = true →
    k.e < r.next → rowNs r.f k.e + lateWait s hub < taiNs s hub →
    Goes (.captureClose hub record) s (wakeTrigs (closeRec s hub record false) hub record)) ∧
  (∀ (hub i : Nat) (r : CapRec) (s : State), reduceDue s hub = true →
    reduceOne (capOf s hub) = some i → recOf s hub i = some r →
    let s1 := checkTrunc (setCap s hub { capOf s hub with reducedAt := some s.now }) hub i
      (r.entriesOpen (r.chans.filter CapChan.canRise).length)
    Goes (.captureReduce hub) s (match recOf s1 hub i with
      | none => s1
      | some q => if q.state = 1 ∨ q.state = 2 then reduceRec s1 hub i q else s1)) ∧
  (∀ (hub : Nat) (q : CapRead) (rest : List CapRead) (r : CapRec) (s : State), (capOf s hub).reads = q :: rest →
    domRun s hub 8 = true → (capOf s hub).recs.lookup q.record = some r →
    (q.vi.isSome && (copyWrites s hub || (!q.stopped && decide (q.copied < q.len)))) = false →
    let bad := q.vi.isNone && meetsAbsent s q.addr q.len
    let s1 := if q.vi.isNone && !bad then writeBytes s q.addr (copyBytes s r q.slot q.len) else s
    let n := if bad then 0 else if q.vi.isNone then q.len else q.copied
    let s2 := putSlot (setCap s1 hub { capOf s hub with reads := rest }) hub q.record q.slot 2
    let s3 := capEvent (wr s2 hub R.REC_RD_COPIED q.record n) hub q.record 6
    Goes (.captureReadoutDone hub) s (beginRead (if q.stopped || bad then capEvent s3 hub q.record 7 else s3) hub))

/-- The events of the Peloton complete: an offer reaches its slice; a spill is written; spilled items return; a walk
of the Pannier ends; a tick acts, from a firing or of the slice's own; a waiting take ends by its time or by an
interrupt; a flow that was held too long skips its item. -/
def Obligations.PelotonEventsComplete : Prop :=
  (∀ (o : Offer) (rest : List Offer) (s : State), s.offers = o :: rest →
    Goes .pelotonOffer s (offerAt { s with offers := rest } o)) ∧
  (∀ (die : Nat) (s : State), domRun s die 10 = true →
    Goes (.pannierSpillWrite die) s (setSlice s die { sliceOf s die with spillQ := (sliceOf s die).spillQ.drop 1 })) ∧
  (∀ (die : Nat) (s : State), domRun s die 10 = true → (sliceOf s die).run = true →
    Goes (.pannierRefill die) s (dispatch (releaseEnded (refillSlots die 16 s) die) die)) ∧
  (∀ (die : Nat) (s : State), domRun s die 10 = true → (sliceOf s die).walkVis ≠ [] →
    let s1 := (panItems s die).foldl (walkEntry die) s
    let s2 := setSlice s1 die { sliceOf s1 die with walkVis := [] }
    let s3 := setStatus (movePanFirst s2 die) die .peloton (setBit (hdr s2 die .peloton).status 3 false)
    Goes (.pannierWalk die) s (hwEvent (dispatch (releaseEnded s3 die) die) die .pannier 2)) ∧
  (∀ (die : Nat) (f : Firing) (s : State), s.firings.find? (fun f => f.code == 2 && f.index == die) = some f →
    domRun s die 10 = true → (sliceOf s die).run = true → lineReach s die f.hub = true →
    let s0 := { s with firings := s.firings.erase f }
    Goes (.pelotonTick die) s (causedBy f.cts (fun u => tickSlice u die f.cts)
      (setStatus (setSlice s0 die { sliceOf s0 die with local_ := false, tickAt := s.now }) die .peloton
        (setBit (hdr s0 die .peloton).status 1 false)))) ∧
  (∀ (die : Nat) (s0 : State), localTickAt s0 die ≤ s0.now →
    let s := setSlice s0 die { sliceOf s0 die with tickAt := localTickAt s0 die }
    domRun s die 10 = true → (sliceOf s die).run = true →
    let s1 := if (sliceOf s die).local_ then s
      else hwEvent (setStatus (setSlice s die { sliceOf s die with local_ := true }) die .peloton
        (setBit (hdr s die .peloton).status 1 true)) die .peloton 0
    Goes (.pelotonLocalTick die) s0 (tickSlice s1 die (ctsNow s1 die))) ∧
  (∀ (die ini : Nat) (w : Waiter) (s : State), waiterOf s die ini = some w → domRun s die 10 = true →
    (w.timeout ≠ 2 ^ 20 - 1 → w.at_ + w.timeout * 1000 ≤ s.now → Goes (.takeTimeout die ini) s (endTake s die w 1)) ∧
    Goes (.takeIrqEnd die ini) s (endTake s die w 2)) ∧
  (∀ (die flow : Nat) (i : Item) (s : State), blockingItem s die flow = some i → domRun s die 10 = true →
    rd s die R.FLOW_HOLD flow ≠ 0 → i.deadline ≠ 0 →
    ctsNs (ctr s die).sec i.deadline + rd s die R.FLOW_HOLD flow * 1000 < taiNs s die →
    Goes (.flowHoldExpiry die flow) s (skipItem s die i))

/-- The events of translation, frames and interrupts at the compute dies complete: an MSI for identities 1 to 255
becomes pending in its file and any other is discarded; a token bucket fills; a walk ends with a cached translation or
a fault; XLATE_INVAL ends; a delivered frame reaches every compute die; the timer interrupt of a hart becomes pending,
or is withdrawn, by its compare value; a hart's store goes through its VI's table, or raises its exception. The events
of a VI's life complete: KILL cuts what is unfinished; a part that is quiet reports, and the last report quiesces the
VI; QTIMEOUT is reported once; a reset VI enters READY; the cut of a migration is seen and its grace ends in
QUIESCING; VI_SAVE, VI_RESTORE, SHARE_APPLY and the commands of the dirty log end. -/
def Obligations.ComputeAndViEventsComplete : Prop :=
  (∀ (m : Msi) (rest : List Msi) (s : State), s.msis = m :: rest →
    (∀ f, fileAt s m.addr = some f → 1 ≤ m.data → m.data ≤ 255 → m.data ∉ mget [] s.files f →
      Goes .msiReceive s { s with msis := rest, files := mput f (mget [] s.files f ++ [m.data]) s.files }) ∧
    (fileAt s m.addr = none ∨ m.data = 0 ∨ 255 < m.data ∨ (∃ f, fileAt s m.addr = some f ∧ m.data ∈ mget [] s.files f) →
      Goes .msiReceive s { s with msis := rest })) ∧
  (∀ (hub vi : Nat) (s : State), domRun s hub 7 = true → 
    Goes (.tokenBucketRefill hub vi) s (refill (laneAdjust hub) s hub vi)) ∧
  (∀ (die : Nat) (w : Walk) (rest : List Walk) (s : State), (xlOf s die).walks = w :: rest → domRun s die 10 = true →
    let s1 := setXl s die { xlOf s die with walks := rest }
    (walk s w.vi w.page = none → Goes (.xlateWalkDone die) s (walkFaults s1 die w)) ∧
    (∀ l, walk s w.vi w.page = some l →
      let y := xlOf s1 die
      let s2 := setXl s1 die { y with
        cache := trimCache s1 die (⟨w.vi, w.page, l.phys, l.read, l.write⟩ :: y.cache.filter (fun e => !(e.vi == w.vi && e.page == w.page))) }
      Goes (.xlateWalkDone die) s
        (if w.write && !l.write then walkFaults s1 die w else runJobs die (xlOf s2 die).jobs [] s2))) ∧
  (∀ (die : Nat) (s : State), domRun s die 10 = true → Goes (.xlateInvalDone die) s (finishOp s die .devXlate 0x10 .done 0)) ∧
  (∀ (hub : Nat) (f : FrameIn) (rest : List FrameIn) (s : State), (swOf s hub).toP13 = f :: rest →
    Goes (.rxFrame hub) s ((computeDies s).foldl (rxOne hub f) (setSw s hub { swOf s hub with toP13 := rest }))) ∧
  (∀ (hart compare : Nat) (s : State), hart < 96 → domRun s (hartDie hart) 12 = true →
    let s1 := { s with compares := mput hart compare s.compares }
    (timeCsr s (hartDie hart) < compare →
      Goes (.hartTimerInterrupt hart compare) s { s1 with timers := s.timers.filter (fun h => h != hart) }) ∧
    (compare ≤ timeCsr s (hartDie hart) → Goes (.hartTimerInterrupt hart compare) s
      { s1 with timers := if s.timers.contains hart then s.timers else s.timers ++ [hart] })) ∧
  (∀ (vi gpa : Nat) (bytes : List Byte) (s : State), viState s vi ≠ 0 →
    (crossesBlock gpa bytes.length = false →
      Goes (.hartStore vi gpa bytes) s (storeFrom vi true gpa bytes { s with resp := .value 0 })) ∧
    (crossesBlock gpa bytes.length = true → Goes (.hartStore vi gpa bytes) s { s with resp := .misaligned })) ∧
  (∀ (vi : Nat) (s : State), viState s vi = 3 →
    let d := viHome s vi
    let x := viOf s vi
    (x.killed = true → x.since + 40000 ≤ s.now →
      let cut := (xlOf s d).jobs.filter (fun j => j.vi == vi)
      let s1 := (firstJobs cut).foldl (cutJob d) s
      let y := xlOf s1 d
      Goes (.killWriteCut vi) s (incr (setXl s1 d { y with jobs := y.jobs.filter (fun j => j.vi != vi) }) d R.KILL_CUT vi cut.length)) ∧
    (∀ part, part < 5 → partQuiet s vi part = true →
      let n := setBit (rd s d R.VI_QPARTS vi) part true
      let s1 := wr s d R.VI_QPARTS vi n
      let s2 := if part = 0 then recordsOff s1 d vi else s1
      Goes (.viPartQuiesced vi part) s (if n % 32 = 31 then reachQuiesced s2 vi else s2)) ∧
    (x.timedOut = false → x.since + rd s d R.VI_CFG vi % 2 ^ 20 * 1000 ≤ s.now →
      let s1 := setVi s vi { x with timedOut := true }
      let s2 := viEvent (tickPage s1 d .viCtrl) vi 2
      Goes (.qtimeoutExpiry vi) s
        (record s2 d d .viCtrl (pageStamp s1 d d .viCtrl 0) (pagePlane .viCtrl) 2 true vi [vi, rd s2 d R.VI_QPARTS vi]))) ∧
  (∀ (vi : Nat) (s : State), viState s vi = 5 → domRun s (viHome s vi) 10 = true →
    Goes (.viResetDone vi) s (enterVi (clearVi s vi) vi 1)) ∧
  (∀ (vi : Nat) (s : State), viState s vi = 6 →
    ((viOf s vi).cutSeen = false → cutPassed s vi = true →
      Goes (.migrationCutAt vi) s (viEvent (setVi s vi { viOf s vi with cutSeen := true }) vi 4)) ∧
    (viInward s vi = false → (ctr s (viHome s vi)).valid = true →
      graceNs s vi ≤ taiNs s (viHome s vi) →
      Goes (.migrationGraceEnd vi) s (startQuiesce s vi false false (s.now - (taiNs s (viHome s vi) - graceNs s vi))))) ∧
  (∀ (die : Nat) (k : Ticket) (s : State), domRun s die 10 = true →
    (runningOp s die .viCtrl 0x17 = some k →
      Goes (.viSaveDone die) s (finish (writeBytes s (rd s die R.VI_STATE_BASE k.inst) (stateBlock s k.inst)) die .viCtrl k .done 0)) ∧
    (runningOp s die .viCtrl 0x18 = some k →
      let r := restoreBlock s k.inst (bit k.sub 0) (readBytes s (rd s die R.VI_STATE_BASE k.inst) 256)
      Goes (.viRestoreDone die) s (finish r.1 die .viCtrl k r.2 0)) ∧
    (runningOp s die .derailleur 0x10 = some k →
      Goes (.shareApplyDone die) s (finish (applyShares s k.inst (viOf s k.inst).shares) die .derailleur k .done 0)) ∧
    ((hdr s die .dirtyLog).running.find? (fun k => decide (0x10 ≤ k.op ∧ k.op ≤ 0x12)) = some k →
      let v := k.inst
      let l := logOf s v
      (k.op = 0x10 → Goes (.dirtyLogDone die) s (finish (setLog s v { l with on := decide (l.pages ≠ 0) }) die .dirtyLog k .done 0)) ∧
      (k.op = 0x11 → Goes (.dirtyLogDone die) s (finish
        (hwEvent (wr (incr (putSwapping (setLog s v { l with active := 1 - l.active }) die v false) die R.LOG_SWAPS v 1)
          die R.LOG_SWAP_CTS v (ctsNow s die)) die .dirtyLog 1) die .dirtyLog k .done 0)) ∧
      (k.op = 0x12 → Goes (.dirtyLogDone die) s (finish (setLog s v DirtyLog.off) die .dirtyLog k .done 0))))

/-- The events of the Crank's scans complete: a boundary comes from a firing or from the die's own counter; an input's
change releases its event tasks; a scan ends; a scan that takes too long is an overrun; a load and a restart end; a
write of the window reaches the image while the engine is quiet, and counts as ignored otherwise. The events of the
retain memory and of power failure complete: a journal record is committed; a record that failed twice is counted and
reported by a hub that takes it, is dropped, and the next one is a checkpoint; a power failure stops every Crank and
flushes what waits; its recovery lets them go on; RT_CLEAR ends. -/
def Obligations.CrankAndRetainEventsComplete : Prop :=
  (∀ (die : Nat) (f : Firing) (s : State), s.firings.find? (fun f => f.code == 1 && f.index == die) = some f →
    let s1 := { s with firings := s.firings.erase f }
    domRun s1 die 11 = true → lineReach s1 die f.hub = true →
    Goes (.crankBoundary die) s (showCrank
      (boundary (setCr s1 die { crOf s1 die with lastFire := timeCsr s1 die, localCycle := false }) die f.cts) die)) ∧
  (∀ (die : Nat) (s : State),
    let c := crOf s die
    let cycle := within 250000 100000000 (rd s die R.CR_CYCLE 0)
    domRun s die 11 = true → makesBoundary c = true →
    (if c.localCycle then c.lastBoundary + cycle else c.lastFire + 2 * cycle) ≤ timeCsr s die →
    let s1 := setCr s die { c with localCycle := true }
    let s2 := if c.localCycle then s1 else hwEvent s1 die .crank 8
    Goes (.crankLocalBoundary die) s (showCrank (boundary s2 die (ctsNow s2 die)) die)) ∧
  (∀ (die entry cts : Nat) (s : State), domRun s die 11 = true → (crOf s die).active = true →
    let ts := (List.range 16).filter (fun n => (crTask (crOf s die) n).event % 4 == 2 && fld (crTask (crOf s die) n).event 31 16 == entry)
    Goes (.crankInputChange die entry cts) s (showCrank
      (schedule (ts.foldl (fun u n => taskEvent u die n cts) (checkFull (advance s die) die)) die) die)) ∧
  (∀ (die : Nat) (x : CrScan) (s : State), (crOf s die).scans.head? = some x → domRun s die 11 = true →
    ((crOf s die).state == 4 && x.image.isSome) = false →
    Goes (.crankScanEnd die) s (showCrank (toEnd s die) die)) ∧
  (∀ (die task : Nat) (r : CrRelease) (s : State),
    let c := crOf s die
    (c.released ++ c.scans.map (fun x => x.rel)).find? (fun r => r.task == task) = some r → domRun s die 11 = true →
    lateScan s die r = true →
    let mark := fun (q : CrRelease) => if q.task = task then { q with overrun := true } else q
    let s1 := setCr s die { c with released := c.released.map mark, scans := c.scans.map (fun x => { x with rel := mark x.rel }) }
    Goes (.crankOverrun die task) s (showCrank (overrunCr (advance s1 die) die r) die)) ∧
  (∀ (die : Nat) (s : State), domRun s die 11 = true → (crOf s die).state = 6 →
    Goes (.crLoadDone die) s (showCrank
      (if progOk s die ((crOf s die).p.cells / 1024) (crOf s die).p then finishOp (enterCr s die 1) die .crank 0x10 .done 0
       else finishOp (enterCr (setCr s die { crOf s die with prog := none }) die 0) die .crank 0x10 .badArg 0) die)) ∧
  (∀ (die n kind : Nat) (s : State), (crOf s die).start = some (n, kind) → domRun s die 11 = true → (crOf s die).ready = false →
    let s1 := restartVars s die kind
    let q := crOf s1 die
    Goes (.crankRestartDone die) s (showCrank (setCr s1 die { q with
      ready := true, lastFire := timeCsr s die, localCycle := false, changed := List.range (retainBlocks q.p)
      needCk := q.needCk || decide (kind ≠ 2) }) die)) ∧
  (∀ (die off : Nat) (bytes : List Byte) (w : Who) (s : State), present s die = true → isHub die = false → w.vi = none →
    bytes.length = 4 ∨ bytes.length = 8 → off % bytes.length = 0 → off + bytes.length ≤ 0x100000 → domRun s die 11 = true →
    w.ini < 112 ∨ (w.ini = 112 ∧ debugUnlocked s = true) →
    (rtQuiet s die = false → Goes (.crankWindowWrite die off bytes w) s
      (hwEvent (incr { s with resp := .value 0 } die R.WIN_IGNORED 0 1) die .crank 7)) ∧
    (rtQuiet s die = true → After (.crankWindowWrite die off bytes w) s fun t =>
      t.mem = (writeBytes s (crWindow die + off) bytes).mem ∧ t.resp = .value 0 ∧ t.ctrs = s.ctrs ∧ t.keys = s.keys)) ∧
  (∀ (die hub : Nat) (r : JrnlRec) (s : State), frontRec (crOf s die) hub = some r →
    (rtTakes s hub die = true → lineReach s die hub = true →
      let s0 := incr (drew s) hub R.RT_ERRORS 0 (freeNat s % 2)
      let s1 := leaveRec (rtStore s0 die hub r) die hub r.seq false
      Goes (.journalCommit die hub) s (showRt (if r.powerFail then pfDone s1 hub else s1) hub)) ∧
    (let s1 := incr (tickPage s hub .xspiRetain) hub R.RT_ERRORS 0 2
     let s2 := eventRec s1 hub hub .xspiRetain (pageStamp s hub hub .xspiRetain 0) (pagePlane .xspiRetain) 0 0 []
     let s3 := leaveRec (if rtTakes s hub die then s2 else s) die hub r.seq true
     let s4 := replaceQueued (setCr s3 die { crOf s3 die with needCk := true }) die hub
     Goes (.retainWriteError die hub) s (if domRun s4 hub 4 then showRt s4 hub else s4))) ∧
  (∀ (hub : Nat) (s : State), isHub hub = true → domRun s hub 4 = true → (rtOf s hub).active = false →
    let s1 := (computeDies s).foldl powerStop s
    Goes (.powerFailWarning hub) s ((hubs s1).foldl (fun t h =>
      if domRun t h 4 then
        let t1 := setRt (wr t h R.RT_PF_CTS 0 (ctsNow t h)) h { rtOf t h with active := true, at_ := t.now, waits := pfWaits t h }
        let t2 := showRt (pfDone t1 h) h
        { t2 with mgmtLogs := mput h ((logOfHub t2 h).take 16) t2.mgmtLogs }
      else t) s1)) ∧
  (∀ (hub : Nat) (s : State), hub ∈ hubs s → (rtOf s hub).active = true → (rtOf s hub).at_ + 10000000 ≤ s.now →
    let s1 := (hubs s).foldl (fun t h => showRt (setRt t h { rtOf t h with active := false }) h) s
    Goes .powerFailRecovery s ((computeDies s1).foldl powerResume s1)) ∧
  (∀ (hub : Nat) (k : Ticket) (s : State), runningOp s hub .xspiRetain 0x10 = some k → domRun s hub 4 = true →
    let die := k.argument % 8 + 2
    let m := rtOf s hub
    let base := rtBase s hub die
    let size := rtSize s hub die
    let heads := headersOf m base size
    Goes (.rtClearDone hub) s (showRt (finish (setRt s hub { m with
      cells := heads.foldl (fun cs a => memPuts a (List.replicate 20 0) cs) m.cells
      written := m.written + 20 * heads.length }) hub .xspiRetain k .done 0) hub))

/-- The events of the degraded level complete: a die's report, a condition, a view, the end of DL_HOLD, and the
silences of software, of a lane and of the time master each lead to the level that the conditions then give. The
events of the Coaster complete: its table loads; a breaker-failure timer that has run trips again while the zone is
tripped and the current or the breaker still shows it, and ends; a GOOSE repeat is sent with the next sqNum and a
doubled interval, or held while every user of the frame is gated. The events of the trip lines complete: a debounced
binary input is stamped with the sample at which it changed, a TRIP_SENSE change is pushed at once, and the
supervision of the line sets and clears its flags. -/
def Obligations.TripEventsComplete : Prop :=
  (∀ (die : Nat) (s : State), isHub die = false → present s die = true →
    Goes (.dieStateReport die) s ((hubs s).foldl (fun t h =>
      if domRun t h 0 && lineReach t die h then
        let others := (levelOf t h).serving.filter (fun d => d != die)
        evalLevel (putLevel t h { levelOf t h with serving := if dieServes t die then die :: others else others }) h
      else t) s)) ∧
  (∀ (die hub : Nat) (s : State), present s die = true → domRun s die 0 = true → domRun s hub 0 = true → isHub hub = true →
    present s hub = true → die ≠ hub → (if isHub die then axleAlive s else spokeAlive s die hub) = true →
    let v := if isHub die then (levelOf s hub).own else (levelOf s hub).level
    Goes (.levelViewReceive die hub) s
      (applyLevel (putLevel s die { levelOf s die with views := (levelOf s die).views.set hub (some v) }) die)) ∧
  (∀ (hub : Nat) (s : State), isHub hub = true → present s hub = true → domRun s hub 0 = true →
    let l := levelOf s hub
    Goes (.levelConditionChange hub) s (evalLevel s hub) ∧
    (let s1 := evalLevel s hub
     let l1 := levelOf s1 hub
     (∀ q, l1.quiet = some q → q + within 0 60000 (rd s1 hub R.DL_HOLD 0) * 1000000 ≤ s.now →
       Goes (.dlHoldExpiry hub) s (applyLevel
         (putLevel s1 hub { l1 with own := standingLevel (rd s1 hub R.DL_COND 0) l1.force, quiet := none }) hub))) ∧
    (∀ q, l.alive = some q → q + within 1 10000 (rd s hub R.SW_TIMEOUT 0) * 1000000 ≤ s.now →
      Goes (.swAliveTimeout hub) s (evalLevel (putLevel s hub { l with expired := true }) hub)) ∧
    (∀ lane, lane < 2 → laneMode s hub ≠ 0 → laneUp s lane = false →
      upAtOf s lane + within 0 10000 (rd s hub R.DL_LANE_LOSS 0) * 1000000 ≤ s.now →
      Goes (.laneLossTimeout hub lane) s
        (evalLevel (putLevel s hub { l with lossA := l.lossA || lane == 0, lossB := l.lossB || lane == 1 }) hub)) ∧
    (masterLocked s = false → upAtOf s 2 + within 100 60000 (rd s hub R.DL_TIME_ALARM 0) * 1000000 ≤ s.now →
      Goes (.timeAlarmTimeout hub) s (evalLevel (putLevel s hub { l with alarm := true }) hub))) ∧
  (∀ (hub : Nat) (s : State), isHub hub = true → (rstOf s hub).loading = 9 → domRun s hub 9 = true → bootEnded s hub = true →
    Goes (.coasterTableLoad hub) s (runLoad s hub 9)) ∧
  (∀ (hub zone start : Nat) (s : State), (zoneOf s hub zone).bf = some start → domRun s hub 9 = true →
    (zoneOf s hub zone).bfDone = false → start + (zoneOf s hub zone).bfNs ≤ taiNs s hub →
    let z := zoneOf s hub zone
    let s1 := putZone s hub zone { z with bfDone := true }
    let s2 := if 2 ≤ z.state ∧ (currentOn s hub z = true ∨ (z.bfBreaker = true ∧ binOn s hub z.breakerBin = true))
      then retripZone s1 hub zone else s1
    Goes (.bfTimerExpiry hub zone) s
      (if z.bfi then endBfi s2 hub zone else putZone s2 hub zone { zoneOf s2 hub zone with bf := none, bfDone := false })) ∧
  (∀ (hub frame : Nat) (f : CoFrame) (s : State), (coOf s hub).frames.lookup frame = some f → domRun s hub 9 = true →
    bit f.cfg 8 = true → frameUsed s hub frame = true → f.next ≤ s.now →
    let gated := (coOf s hub).zones.all (fun z => z.2.state == 0 || !(z.2.frames.contains frame) || zoneGated s hub z.2)
    let g := min (2 * f.gap) f.repMax
    let f1 := { f with sq := (f.sq + 1) % 2 ^ 32, next := s.now + g, gap := g }
    Goes (.gooseRepeat hub frame) s
      (if gated then putFrame s hub frame { f with next := s.now + f.gap } else emitFrame (putFrame s hub frame f1) hub f1)) ∧
  (∀ (hub bin age : Nat) (raw : Bool) (s : State), domRun s hub 9 = true → bin < 16 →
    let level := raw != bit (rd s hub R.TB_CFG (8 + bin)) 16
    (binOf s hub bin).level ≠ level → rd s hub R.TB_CFG (8 + bin) % 65536 * 1000 ≤ age →
    let at_ := taiNs s hub - age
    let cts := if (ctr s hub).valid then ctsOfNs at_ else 0
    let s1 := { s with bins := mput (hub * 16 + bin) ⟨level, raw, s.now⟩ s.bins }
    let s2 := wrAll s1 hub (8 + bin) [(R.TB_STATE, b2n level + b2n raw * 2), (R.TB_CHANGE_CTS, cts)]
    let s3 := wr s2 hub R.TIO_BIN_CHG 0 (setBit (rd s2 hub R.TIO_BIN_CHG 0) bin true)
    let s4 := showLines (pushEdge (hwEvent s3 hub .tripIo 17) hub 1 bin level cts) hub
    Goes (.binAccept hub bin raw age) s ((coOf s4 hub).zones.foldl (fun t e => bfiEdge hub bin at_ level t e.1) s4)) ∧
  (∀ (hub line : Nat) (level : Bool) (s : State), domRun s hub 9 = true → line < 8 → (lineOf s hub line).sense ≠ level →
    let l := lineOf s hub line
    Goes (.tripSenseChange hub line level) s (showLines
      (pushEdge (putLine s hub line { l with
        sense := level, senseAt := s.now, seen := l.seen || (level && decide (s.now ≤ l.assertAt + senseWin s hub line)) }) hub 3 line level (ctsNow s hub))
      hub)) ∧
  (∀ (hub line : Nat) (s : State), domRun s hub 9 = true → line < 8 →
    let l := lineOf s hub line
    let delay := within 1 60000 (fld (tlCfg s hub line) 31 16) * 1000000
    (bit (tlCfg s hub line) 8 = true → l.tcsFail = true → l.sense = true → l.senseAt + delay ≤ s.now →
      Goes (.tcsDelayExpiry hub line) s (flagClear s hub line { l with tcsFail := false })) ∧
    (bit (tlCfg s hub line) 8 = true → l.tcsFail = false → l.drive ≠ some true → l.sense = false →
      (tcsUnblocked s hub line).1 = true →
      max (max l.senseAt l.enabledAt) (max l.assertAt (tcsUnblocked s hub line).2) + delay ≤ s.now →
      Goes (.tcsDelayExpiry hub line) s (flagSet s hub line { l with tcsFail := true })) ∧
    (bit (tlCfg s hub line) 8 = true → l.drive = some true → l.seen = false → l.noCurrent = false →
      l.assertAt + senseWin s hub line ≤ s.now →
      Goes (.senseWinExpiry hub line) s (flagSet s hub line { l with noCurrent := true })) ∧
    (l.changed + 10000 ≤ s.now → l.drive.isSome = true → l.driveFault = false →
      Goes (.driveFaultExpiry hub line true) s (flagSet s hub line { l with driveFault := true })) ∧
    (∀ bad, l.changed + 10000 ≤ s.now → l.driveFault = true → bad = false ∨ l.drive = none →
      Goes (.driveFaultExpiry hub line bad) s (flagClear s hub line { l with driveFault := false })))

/-- The events of the Tandem lane's role machine complete: a boundary renews, sends and judges; inputs are exchanged;
a holder that stops renewing closes its gate, and loses the lease at expiry; a partner takes an expired lease;
listening, the loss of every partner path, the lapse of the permit, the deadline of a handover and its cut each act on
every hub of the lockstep group. The frames of the Tandem lane complete: a good segment is checked, joined and acted
on, any other counts as bad; a beacon of the partner is sunk and heard, any other is discarded. -/
def Obligations.TandemEventsComplete : Prop :=
  (∀ (hub : Nat) (s : State),
    let b := lastBoundaryNs s hub
    Goes (.tandemBoundary hub) s
      (putGroup s ((tdGroup s hub).filter (fun h => (ctr s h).valid && (tdOf s h).role != 0 && decide ((tdOf s h).boundary < b)))
        (fun u h => showTd (sendTd b (renew b (judgeTd (missFrame (setTd u h { tdOf u h with boundary := b }) h) h) h) h) h))) ∧
  (∀ (s : State), Goes .tandemInputExchange s
    (if tdGroup s 0 = [0, 1] then
      putGroup (setTd (setTd s 0 (mergeTd (tdOf s 0) (tdOf s 1))) 1 (mergeTd (tdOf s 1) (tdOf s 0))) (tdGroup s 0) judgeTd
     else putGroup s ((hubs s).filter (fun h => domRun s h 7)) judgeTd)) ∧
  (∀ (hub : Nat) (s : State), Goes (.leaseGateClose hub) s (putGroup s (tdGroup s hub) (fun u h =>
    if (tdOf u h).role ≠ 1 then u
    else
      let u1 := if (tdOf u h).gate && holderDue u h (skewNs u h) then
        hwEvent (putTd u h { tdOf u h with gate := false }) h .tandemLane 2 else u
      if holderDue u1 h 0 then loseLease u1 h else u1))) ∧
  (∀ (hub : Nat) (s : State), Goes (.leaseTakeover hub) s (putGroup s (tdGroup s hub) (fun u h =>
    if (tdOf u h).role = 2 ∧ (ctr u h).valid ∧ mayTake u h ∧ mayHold u h then takeLease u h else u))) ∧
  (∀ (hub : Nat) (s : State), Goes (.contendListenExpiry hub) s (putGroup s (tdGroup s hub) (fun u h =>
    if (tdOf u h).role = 3 ∧ (tdOf u h).contendAt + listenNs u h ≤ u.now ∧ (ctr u h).valid ∧ !(partnerHolds u h) ∧
        mayHold u h ∧ !(defers u h) then takeLease u h
    else u))) ∧
  (∀ (hub : Nat) (s : State), Goes (.partnerPathLoss hub) s (putGroup s (tdGroup s hub) (fun u h =>
    let u1 := judgeTd u h
    match (tdOf u1 h).aloneAt with
    | some a => if ((tdOf u1 h).role = 2 ∨ (tdOf u1 h).role = 3) ∧ a + leaseNs u1 h ≤ u1.now then enterRole 4 false u1 h else u1
    | none => u1))) ∧
  (∀ (hub : Nat) (s : State), Goes (.tdPermitLapse hub) s (putGroup s (tdGroup s hub) showTd)) ∧
  (∀ (hub : Nat) (s : State), Goes (.handoverAckDeadline hub) s (putGroup s (tdGroup s hub) (fun u h =>
    match (tdOf u h).hand with
    | some x => if !x.acked && decide (x.at_ < taiNs u h + tdCycle u h) then endHandover u h .aborted else u
    | none => u))) ∧
  (∀ (hub : Nat) (s : State), Goes (.handoverCut hub) s (putGroup s (tdGroup s hub) (fun u h =>
    match (tdOf u h).hand with
    | some x =>
      if x.acked && decide (x.at_ ≤ taiNs u h + skewNs u h) then
        hwEvent (endHandover (enterRole 2 false u h) h .done) h .tandemLane 6
      else u
    | none => u))) ∧
  (∀ (hub : Nat) (f : Frame) (s : State), domRun s hub 7 = true → tdLinkUp s hub = true → (tdOf s hub).role ≠ 0 →
    let st := stampOf s hub 288 0
    let s1 := tickSrc s hub 288
    let p := f.bytes.drop 14
    let good := !f.fcsBad && !f.symbolErr && f.etype == 0x88B5 && rxFld p 0 2 == tdPair s hub && rxFld p 2 1 % 2 != tdModule s hub &&
      rxFld p 3 1 == 1 && decide (rxFld p 8 2 < rxFld p 10 2 ∧ rxFld p 12 4 = rxFld p 8 2 * 8192 ∧ (p.drop 16).length ≤ 8192)
    (good = false → Goes (.tandemSegmentRx hub f) s (causedBy st.cts (fun u => rxBad u hub) s1)) ∧
    (good = true → Goes (.tandemSegmentRx hub f) s (causedBy st.cts (fun u =>
      let c := checkSegment u hub st.cts f
      if c.2 then joinSegment c.1 hub (rxFld p 4 4) (rxFld p 8 2) (rxFld p 10 2) (p.drop 16) else rxBad c.1 hub) s1))) ∧
  (∀ (hub : Nat) (x : FrameIn) (s : State), (swOf s hub).toP15.find? (fun f => f.frame.etype == 0x88B5) = some x →
    domRun s hub 7 = true →
    let s0 := setSw s hub { swOf s hub with toP15 := (swOf s hub).toP15.erase x }
    let p := x.frame.bytes.drop (if x.frame.tag.isSome then 18 else 14)
    let heard := !x.frame.fcsBad && decide (rxFld p 0 2 = tdPair s hub) && rxFld p 2 1 % 2 != tdModule s hub && rxFld p 3 1 == 1 &&
      crc32 (p.take 60) == rxFld p 60 4 && (tdOf s hub).role != 0
    Goes (.beaconRx hub) s (if heard then causedBy x.cts (fun u => (tdGroup u hub).foldl (hearHeader p) (incr u hub R.BEACON_RX 0 1)) s0 else s0))

/-- The events of the key vault complete: the oldest command of the engine runs, its input is zeroised before its
output is written, and it ends; challenges expire; a key is promoted; a failing entropy source and a tamper alarm are
shown; the cache is zeroised; a debug challenge is drawn, and a response opens the port, or counts as failed. -/
def Obligations.VaultEventsComplete : Prop :=
  (∀ (hub : Nat) (j : VaultJob) (rest : List VaultJob) (s : State), (vaultOf s hub).jobs = j :: rest → domRun s hub 3 = true →
    let blk : Block := if j.view then .keyView else .keyVault
    let a := { keyArgs s j.loc blk j.ticket.ini j.ticket.sub j.ticket.argument with hub := hub }
    let s1 := putVault s hub { vaultOf s hub with jobs := rest }
    let e : KeyEnd := match keyLapsed s1 a j.ticket.op with
      | some code => KeyEnd.mk (if slotsRoom s1 a j.ticket.op && code == .noResource then ownerRefuse s1 a else s1) code 0 []
      | none => keyRun s1 a j.ticket.op j.ticket.ini j.vi j.at_
    let s2 := putBuf e.state j.loc blk j.ticket.ini (List.replicate (inputLen a j.ticket.op) 0)
    let s3 := wrV (putBuf s2 j.loc blk j.ticket.ini e.out) j.loc blk j.ticket.ini R.VT_OUT_LEN e.out.length
    Goes (.vaultCommandEnd hub) s
      (finish (if e.code = .done then incr s3 hub R.VT_CMDS 0 1 else s3) j.loc blk j.ticket e.code e.note)) ∧
  (∀ (hub : Nat) (c : Challenge) (s : State), (vaultOf s hub).challenge = some c → c.expires ≤ s.now →
    Goes (.unsealChallengeExpiry hub) s (putVault s hub { vaultOf s hub with challenge := none })) ∧
  (∀ (hub slot n : Nat) (s : State), slotNext s hub slot = some n → domRun s hub 3 = true → pipelineOpen s hub = true →
    slotLoaded s hub slot = true → rd s hub R.KS_NOT_AFTER slot ≠ 0 → (ctr s hub).valid = true →
    ctsNs (ctr s hub).sec (rd s hub R.KS_NOT_AFTER slot) + faGrace s hub < taiNs s hub →
    Goes (.keyPromotion hub slot) s (promote s hub slot n)) ∧
  (∀ (hub : Nat) (s : State), domRun s hub 3 = true →
    Goes (.trngHealthFail hub) s (hwEvent (wr s hub R.VT_STATUS 0 (setBit (rd s hub R.VT_STATUS 0) 7 true)) hub .keyVault 4)) ∧
  (∀ (die sensor : Nat) (s : State), sensorActs s die sensor = true →
    Goes (.tamperAlarm die sensor) s
      ((if isHub die then [die] else (hubs s).filter (fun h => domRun s h 0)).foldl (alarmVault sensor) s)) ∧
  (∀ (hub : Nat) (s : State), (vaultOf s hub).zeroising = true →
    Goes (.cacheZeroiseDone hub) s (putVault (zeroise s hub) hub { vaultOf s hub with zeroising := false })) ∧
  (∀ (s : State), domRun s (debugHub s) 3 = true → trngFail s (debugHub s) = false →
    let hub := debugHub s
    let r := entropy s 32
    Goes .debugChallengeRead s (respond
      (putVault r.1 hub { vaultOf r.1 hub with debugChallenge := some ⟨r.2, s.now + 10000000000⟩ }) (ofBytesLE r.2))) ∧
  (∀ (response : List Byte) (s : State), domRun s (debugHub s) 3 = true → (vaultOf s (debugHub s)).debugFails < 8 →
    let hub := debugHub s
    let v := vaultOf s hub
    Goes (.debugUnlockResponse response) s (putVault s hub
      (if authPasses s hub 2 v.debugAuth v.debugChallenge response then { v with debugChallenge := none, debugOpen := true }
       else { v with debugChallenge := none, debugFails := v.debugFails + 1 })))

/-- The resets that are asserted complete: each source covers its domains on the dies it reaches, and what it holds
and records is as R513 says. The releases and the walk complete: a source that is released covers its domains no
longer; a pulse ends; the gap at the walk's position ends; an island's lock and its loss are shown; fuse sensing ends;
REFCLK stops and returns. The events of start-up complete: a hub takes the first valid copy of the option block, or
the defaults; a compute die takes the block of a hub that delivers it, or the defaults; a start-up load runs; a pin
fuse and a flash operation end. -/
def Obligations.ResetEventsComplete : Prop :=
  (∀ (s : State), After .porAssert s fun t =>
    t.pending = s.pending ∧ t.variant = s.variant ∧ t.roots = s.roots ∧ t.flashes = s.flashes ∧ t.keys = [] ∧ t.ctrs = [] ∧
    t.hdrs = [] ∧ t.banks = [] ∧ t.mem = s.mem.filter (fun c => decide (dramBase 0 ≤ c.1)) ∧
    ∀ d ∈ diesOf s, (rstOf t d).holds = [8191, (rstOf s d).holds[1]?.getD 0, (rstOf s d).holds[2]?.getD 0, 0, 0, 0, 0, 0] ∧
      ∀ dom, domRun t d dom = false) ∧
  (∀ (die : Nat) (s : State), present s die = true →
    Goes (.borAssert die) s (let s1 := loseSram s die
      if domRun s1 die 0 then assertSource s1 die 1 allDomains else setRst s1 die (holdRst die (rstOf s1 die) 1 allDomains s1.now))) ∧
  (∀ (s : State), Goes .pinResetAssert s
    ((diesOf s).foldl (fun t d =>
      if domRun t d 0 then assertSource t d 2 allDomains
      else if present t d then setRst t d (holdRst d (rstOf t d) 2 allDomains t.now) else t) s)) ∧
  (∀ (die island : Nat) (s : State), hasIsland s die island = true → bit (rstOf s die).locks island = false →
    let r := rstOf s die
    let d := islandDom island
    (walkPos die r = d ∧ r.gapDone = true ∧ mayGap die r = true ∧ r.gapAt + 2000000 ≤ s.now) ∨
      (domUp r d = true ∧ bit r.notReady d = true ∧ bit r.forced d = false ∧ (r.lostAt[island]?.getD 0) + 2000000 ≤ s.now) →
    let s1 := wr s die R.RK_LOCKS 0 (setFld (rd s die R.RK_LOCKS 0) 12 8 (2 ^ island))
    Goes (.lockWaitExpiry die island) s (assertSource (hwEvent s1 die .resetKs 2) die 3 allDomains)) ∧
  (∀ (die : Nat) (s : State), domRun s die 4 = true → wdtNs s die ≠ 0 → (mechOf s die).kickAt + wdtNs s die ≤ s.now →
    Goes (.wdtExpiry die) s (assertSource (setMech s die { mechOf s die with kickAt := s.now }) die 4 16)) ∧
  (∀ (s : State), Goes .dbgResetAssert s ((diesOf s).foldl (fun t d =>
    if domRun t d 0 then assertSource t d 6 (rd t d R.RK_DBG_MASK 0 % 8192 / 2 * 2) else t) s)) ∧
  (∀ (s : State), Goes .porRelease s ((diesOf s).foldl (fun t d => releaseSource t d 0) s) ∧
    Goes .pinResetRelease s ((diesOf s).foldl (fun t d => releaseSource t d 2) s) ∧
    Goes .dbgResetRelease s ((diesOf s).foldl (fun t d => releaseSource t d 6) s) ∧
    Goes .fuseSenseDone s (refreshAll ((diesOf s).foldl (fun t d =>
      if domRun t d 0 then putRst t d { rstOf t d with fuseSensed := true } else t) s))) ∧
  (∀ (die : Nat) (s : State),
    ((rstOf s die).poweredOff = false → Goes (.borRelease die) s (releaseSource s die 1)) ∧
    (∀ src time, (src = 3 ∧ time = 10000) ∨ (src = 5 ∧ time = 1000) ∨ (src = 7 ∧ time = 1000) →
      let ends := fun t => (src = 3 → Goes (.ckfRelease die) s t) ∧ (src = 5 → Goes (.lckRelease die) s t) ∧
        (src = 7 → Goes (.swrPulseEnd die) s t)
      (∀ p, (rstOf s die).pulses.find? (fun p => p.src == src && decide (p.at_ + time ≤ s.now)) = some p →
        ends (putRst s die { rstOf s die with pulses := (rstOf s die).pulses.erase p })) ∧
      ((∀ p ∈ (rstOf s die).pulses, p.src = src → s.now < p.at_ + time) → ends s)) ∧
    (present s die = true → mayGap die (rstOf s die) = true → (rstOf s die).gapDone = false → gapPassed s die (rstOf s die) = true →
      Goes (.walkGapExpiry die) s (tryRelease (putRst s die { rstOf s die with gapDone := true }) die)) ∧
    (present s die = true →
      let r := rstOf s die
      (r.refclk = true → Goes (.refclkLoss die) s (setRst s die { r with
        refclk := false, gapAt := if r.gapDone then r.gapAt else r.gapAt + (s.now - r.gapAt) / 5 })) ∧
      (r.refclk = false → Goes (.refclkReturn die) s (setRst s die { r with
        refclk := true, gapAt := if r.gapDone then r.gapAt else r.gapAt - (s.now - r.gapAt) / 4 })))) ∧
  (∀ (die island : Nat) (s : State), hasIsland s die island = true →
    let r := rstOf s die
    let d := islandDom island
    let r1 := { r with locks := setBit r.locks island true }
    let r2 := if domStable die r1 d then { r1 with notReady := setBit r1.notReady d false, forced := setBit r1.forced d false } else r1
    let s1 := putRst s die r2
    let s2 := putRst s die { r with
      locks := setBit r.locks island false, notReady := if domUp r d then setBit r.notReady d true else r.notReady
      lostAt := if bit r.locks island then r.lostAt.set island s.now else r.lostAt }
    let s3 := if island = 3 && domRun s1 die 4 then wr s1 die R.MG_STATE 0 (setBit (rd s1 die R.MG_STATE 0) 2 false) else s1
    Goes (.islandLockStable die island) s (tryRelease (if isHub die then islandPorts s3 die else s3) die) ∧
    Goes (.islandLockLoss die island) s
      (if island = 3 && domRun s2 die 4 then wr s2 die R.MG_STATE 0 (setBit (rd s2 die R.MG_STATE 0) 2 true) else s2)) ∧
  (∀ (hub : Nat) (s : State), isHub hub = true → domRun s hub 1 = true → (rstOf s hub).optDone = false →
    let a := flashRead (flashOf s hub) 0 256
    let b := flashRead (flashOf s hub) 0x1000 256
    Goes (.optionLoad hub) s
      (if optValid a then takeOptions s hub a 1 (crc32 (a.take 252))
       else if optValid b then takeOptions s hub b 6 (crc32 (b.take 252))
       else takeOptions s hub optDefaults 12 (crc32 (optDefaults.take 252)))) ∧
  (∀ (die : Nat) (s : State), isHub die = false → domRun s die 1 = true → (rstOf s die).optDone = false →
    ((rstOf s die).optAt + 5000000 ≤ s.now →
      Goes (.optionReceive die none) s (takeOptions s die optDefaults 0 (crc32 (optDefaults.take 252)))) ∧
    ∀ h, isHub h = true → present s h = true → domRun s h 1 = true → (rstOf s h).optDone = true →
      h = 0 ∨ present s 0 = false ∨ (rstOf s die).optAt + 2000000 ≤ s.now →
      Goes (.optionReceive die (some h)) s
        (takeOptions s die (optBlock s h) (3 + h * 32 + b2n (bit (rd s h R.OPT_STATUS 0) 4) * 16) (rd s h R.OPT_CRC 0))) ∧
  (∀ (hub : Nat) (s : State), isHub hub = true → (rstOf s hub).loading ≠ 0 → domRun s hub (rstOf s hub).loading = true →
    bootEnded s hub = true → Goes (.startupLoad hub) s (runLoad s hub (rstOf s hub).loading)) ∧
  (∀ (hub : Nat) (k : Ticket) (s : State), runningOp s hub .option 0x10 = some k →
    let v := (rstOf s hub).pinFuse
    let r := R.PM_FUSES.nth (v % 64 / 8)
    Goes (.pinFuseDone hub) s (finish
      (refreshAll (wr s hub r 0 (setFld (rd s hub r 0) (4 * (v % 8) + 3) (4 * (v % 8)) (fld v 10 8 + 8)))) hub .option k .done 0)) ∧
  (∀ (hub : Nat) (k : Ticket) (rest : List Ticket) (s : State), (hdr s hub .xspiBoot).running = k :: rest →
    let f := flashOf s hub
    let s1 := wr s hub R.XB_STATUS 0 1
    (k.op = 0x11 → xbLate s hub k = false → Goes (.xbOperationDone hub true) s
      (finish (updTouched (setFlash s1 hub (flashProgram f.addr f.data f)) hub f.addr f.len) hub .xspiBoot k .done 0)) ∧
    (k.op = 0x12 → xbLate s hub k = false → Goes (.xbOperationDone hub true) s
      (finish (updTouched (setFlash s1 hub (flashErase f.addr f)) hub (f.addr / 4096 * 4096) 4096) hub .xspiBoot k .done 0)) ∧
    (k.op = 0x10 → ∀ ok, Goes (.xbOperationDone hub ok) s
      (let all := flashRead f f.addr f.len ++
         ((List.range 256).flatMap (fun n => bytesLE 4 (rd s1 hub (R.XB_BUF.nth n) 0))).drop (flashRead f f.addr f.len).length
       finish ((List.range 256).foldl (fun u n => wr u hub (R.XB_BUF.nth n) 0 (ofBytesLE ((all.drop (4 * n)).take 4))) s1)
         hub .xspiBoot k .done 0)) ∧
    (∀ ok, k.op ≠ 0x10 → ok = false ∨ xbLate s hub k = true →
      let s2 := wr (xbSpoil s hub k) hub R.XB_STATUS 0 5
      Goes (.xbOperationDone hub ok) s (finish
        (record (incr (tickPage s2 hub .xspiBoot) hub R.XB_ERRORS 0 1) hub hub .xspiBoot (pageStamp s2 hub hub .xspiBoot 0)
          (pagePlane .xspiBoot) 0x23 false 0 [f.addr]) hub .xspiBoot k .timeout 0)))

/-- The events of the Mechanic complete: a core boots; a candidacy and a lease lapse; a die's power command and an
update command end; the sensors are swept; the rail loop steps; a PMBus transfer fails; an alert is shown; a log entry
is programmed; a trip current is measured; the management link changes. The rail loop and the event log complete: a
low index raises the set point by one step and no further than 8800, a high one that has stood for the dwell lowers it
and no further than the rail's least; the oldest entry at or above LOG_MIN goes into the ring under the next sequence.
-/
def Obligations.MechanicEventsComplete : Prop :=
  (∀ (die : Nat) (s : State), domRun s die 4 = true → (mechOf s die).runs = false → fld (rd s die R.MC_BOOT 0) 7 4 = 0 →
    Goes (.mechanicBoot die) s (if isHub die then bootHub s die else bootAgent s die)) ∧
  (∀ (die at_ : Nat) (s : State), (mechOf s die).candAt = some at_ → at_ + 2000000 < s.now →
    Goes (.candidacyLapse die) s (refreshLease (setMech s die { mechOf s die with candAt := none }))) ∧
  (∀ (hub : Nat) (s : State), isHub hub = true → grantDue s hub = true →
    Goes (.leadLeaseExpiry hub) s (grantLease s hub (candidates s hub).head?)) ∧
  (∀ (die : Nat) (k : Ticket) (s : State), runningOp s die .mechanic 0x13 = some k →
    bit k.sub 0 = false ∨ (rstOf s k.argument).holds[1]?.getD 0 = 0 →
    Goes (.diePowerDone die) s (hwEvent (finish s die .mechanic k .done 0) die .mechanic 3)) ∧
  (∀ (hub : Nat) (k : Ticket) (s : State), runningUpd s hub = some k →
    (k.op = 0x20 → Goes (.updOperationDone hub) s (verifyEnds s hub k)) ∧
    (k.op = 0x22 → Goes (.updOperationDone hub) s (commitEnds s hub k)) ∧
    ((updOf s hub).restarts = [] → k.op = 0x21 → Goes (.updOperationDone hub) s (activateEnds s hub k)) ∧
    ((updOf s hub).restarts = [] → k.op = 0x23 → Goes (.updOperationDone hub) s (abortEnds s hub k))) ∧
  (∀ (die : Nat) (samples : List (Nat × Int)) (rails : List RailSample) (s : State), domRun s die 4 = true →
    (mechOf s die).sweptAt + within 1 1000 (rd s die R.SN_PERIOD 0) * 1000000 ≤ s.now →
    let s1 := ((List.range 48).filter (hasSensor die)).foldl (sweepOne die samples) (setMech s die { mechOf s die with sweptAt := s.now })
    Goes (.sensorSweep die samples rails) s (if isHub die then rails.foldl (railTelemetry die) s1 else s1)) ∧
  (∀ (hub rail : Nat) (s : State), isHub hub = true → rail < 16 → domRun s hub 4 = true → bit (rd s hub R.PMB_CFG 0) 0 = true →
    let s1 := incr (wr s hub R.RL_STATUS rail (setBit (rd s hub R.RL_STATUS rail) 16 true)) hub R.PMB_ERRORS 0 1
    Goes (.pmbusTransferFail hub rail) s (pushLog
      (eventRec (tickPage s1 hub .pmbus) hub hub .pmbus (pageStamp s1 hub hub .pmbus 0) (pagePlane .pmbus) 1 rail
        [rd s1 hub R.RL_STATUS rail]) hub 2 8 [rail])) ∧
  (∀ (hub : Nat) (s : State), isHub hub = true → Goes (.pmbAlert hub) s (hwEvent s hub .pmbus 0)) ∧
  (∀ (hub line : Nat) (current : Int) (s : State), isHub hub = true → domRun s hub 4 = true → line < 8 →
    lineAsserted s hub line = true → (lineOf s hub line).assertAt + 200000 ≤ s.now →
    Goes (.tripCurrentMeasure hub line current) s (takeSample hub (40 + line) current s)) ∧
  (∀ (hub : Nat) (up gig : Bool) (s : State), isHub hub = true → domRun s hub 4 = true →
    bit (rd s hub R.MG_CFG 0) 0 = true ∨ up = false →
    let w := setBit (setBit (rd s hub R.MG_STATE 0) 0 up) 1 (up && gig)
    w ≠ rd s hub R.MG_STATE 0 →
    Goes (.mgmtLinkChange hub up gig) s (hwEvent (wr s hub R.MG_STATE 0 w) hub .mgmtPort 0)) ∧
  (∀ (hub rail : Nat) (s : State), isHub hub = true → rail < 16 → loopServes s hub rail = true →
    let die := fld (rd s hub R.RL_CFG rail) 18 16
    let v := rd s hub R.RL_VSET rail
    let dwell := within 10 10000 (fld (rd s hub R.AVS_CFG 0) 31 16) * 1000000
    let high := decide (rd s die R.CAD_FLOOR 0 + rd s die R.CAD_MARGIN 0 + within 100 2000 (rd s hub R.AVS_BAND 0 % 65536) ≤ rd s die R.CAD_INDEX 0)
    let r := { railOf s hub rail with highSince := if high then some ((railOf s hub rail).highSince.getD s.now) else none }
    indexReports s hub die = true →
    (indexLow s die = true → longAgo s r.raised 200000 = true →
      let w := min (v + within 10 500 (rd s hub R.AVS_STEP 0 % 65536)) 8800
      let s1 := setRail (wr s hub R.RL_VSET rail w) hub rail { r with raised := some s.now, stepped := some s.now }
      Goes (.avsStep hub rail) s (if w = v then s1 else pushLog s1 hub 1 7 [rail, w])) ∧
    (indexLow s die = false → high = true → ∀ q, r.highSince = some q → q + dwell ≤ s.now → longAgo s r.stepped dwell = true →
      let w := max (v - within 10 100 (fld (rd s hub R.AVS_STEP 0) 31 16)) (railMin s hub rail)
      let s1 := setRail (wr s hub R.RL_VSET rail w) hub rail { r with stepped := some s.now }
      Goes (.avsStep hub rail) s (if w = v then s1 else pushLog s1 hub 1 7 [rail, w]))) ∧
  (∀ (hub : Nat) (e : LogEntry) (rest : List LogEntry) (s : State), isHub hub = true → domRun s hub 4 = true →
    (mechOf s hub).runs = true →
    (logOfHub s hub).dropWhile (fun e => decide (e.severity < optByte s hub 65)) = e :: rest →
    let seq := (rd s hub R.MC_LOG_SEQ 0 + 1) % 2 ^ 32
    let head := rd s hub R.MC_LOG_HEAD 0
    let body := bytesLE 8 e.cts ++ bytesLE 4 e.order ++ bytesLE 4 seq ++ bytesLE 1 e.severity ++ bytesLE 1 e.die ++ bytesLE 2 e.code ++ e.payload
    let next := logNext head
    let f1 := flashProgram head (body ++ bytesLE 4 (crc32 body)) (flashOf s hub)
    let ahead := if next / 4096 * 4096 + 4096 < logEnd then next / 4096 * 4096 + 4096 else logFirst
    Goes (.logEntryProgram hub) s (wrAll
      (setFlash { s with mgmtLogs := mput hub rest s.mgmtLogs } hub (if next % 4096 = 0 then flashErase ahead f1 else f1))
      hub 0 [(R.MC_LOG_HEAD, next), (R.MC_LOG_SEQ, seq)]))

/-- The commands of the management port complete: a request that is well formed, fresh and, from code 0x10 up, tagged
while the vault is OPEN is served by the hub's core, which acts as R564 says for its code and answers with the status
and the payload; a malformed one is answered with 0x000F, one that needs an OPEN vault with DENIED, and one with a
wrong tag or an old sequence is counted and dropped; ARP and echo requests are answered too. -/
def Obligations.ManagementPortCompletes : Prop :=
  let answers := fun (hub code : Nat) (m : MgReq) (i : Instr) (serve : State → MgEnd) => ∀ (s : State),
    mgUp s hub = true →
    let s0 := incr (tickSrc s hub 290) hub R.MG_RX_FRAMES 0 1
    let s1 := { s0 with cause := max s0.cause (stampOf s hub 290 0).cts }
    (mechOf s1 hub).runs = true →
    let ends := fun (t : State) => Goes i s { t with cause := s0.cause }
    (m.wellFormed = false → ends (mgAnswer s1 hub code m 0xF [])) ∧
    (m.wellFormed = true → 0x10 ≤ code → vaultState s1 hub ≠ 1 → ends (mgAnswer s1 hub code m 5 [])) ∧
    (m.wellFormed = true → 0x10 ≤ code → vaultState s1 hub = 1 → mgTagOk s1 hub code m = false → ends (incr s1 hub R.MG_AUTH_FAIL 0 1)) ∧
    (m.wellFormed = true → (0x10 ≤ code → vaultState s1 hub = 1 ∧ mgTagOk s1 hub code m = true) →
      (mgReplay s1 hub m = true → ends (incr s1 hub R.MG_REPLAY 0 1)) ∧
      (mgReplay s1 hub m = false →
        let e := serve (mgKeep (if 0x10 ≤ code then useKey s1 hub (mgKey s1 hub) else s1) hub m)
        ends { mgAnswer e.state hub code m e.status e.payload with resp := s.resp }))
  (∀ hub m, answers hub 0x01 m (.mgIdentify hub m) (fun t => ⟨t, 0, Config.mgPayload 0x01 (identity t hub)⟩)) ∧
  (∀ hub m, answers hub 0x02 m (.mgAttest hub m) (relayVault hub 0x30 (fitBytes 64 m.payload))) ∧
  (∀ hub m, answers hub 0x03 m (.mgUnsealChal hub m) (relayVault hub 0x10 [])) ∧
  (∀ hub m, answers hub 0x04 m (.mgUnseal hub m) (relayVault hub 0x11 (m.payload.take 768))) ∧
  (∀ hub m, answers hub 0x10 m (.mgReadSensors hub m) (fun t => ⟨t, 0, Config.mgPayload 0x10
    ((List.range 64).flatMap (fun n => [rd t hub R.SN_VALUE n, rd t hub R.SN_STATE n]))⟩)) ∧
  (∀ hub m first, answers hub 0x11 m (.mgReadLog hub m first) (fun t =>
    ⟨t, 0, ((logFrom (flashOf t hub) first).take 21).flatMap (fun e => flashRead (flashOf t hub) e.1 64)⟩)) ∧
  (∀ hub m a, answers hub 0x12 m (.mgReadPage hub m a) (fun t =>
    let u := outState t (readAny { a with who := mgWho hub } t)
    ⟨u, respStatus u, bytesLE (if a.wide then 8 else 4) (respValue u)⟩)) ∧
  (∀ hub m a, answers hub 0x13 m (.mgWritePage hub m a) (fun t =>
    let u := outState t (writeAny { a with who := mgWho hub } t)
    mgLogged hub 0x13 ⟨u, respStatus u, []⟩)) ∧
  (∀ hub m off data, answers hub 0x20 m (.mgUpdateWrite hub m off data) (fun t =>
    mgLogged hub 0x20
      (if 0x400000 < off + data.length then ⟨t, 4, []⟩
       else if !((hdr t hub .xspiBoot).running.isEmpty && (rstOf t hub).loading == 0 && (rstOf t hub).optDone) then ⟨t, 2, []⟩
       else ⟨writeChunk t hub off data, 0, []⟩))) ∧
  (∀ hub m op sub, answers hub (0x21 + op % 4) m (.mgUpdCommand hub m op sub) (fun t =>
    let u := outState t (execOp .mechanic (0x20 + op % 4) ⟨hub, 0, none, sub, 0, mgWho hub⟩ t)
    mgLogged hub (0x21 + op % 4) ⟨u, (bank u hub .mechanic (96 + hub)).cmdResult % 16, []⟩)) ∧
  (∀ (hub : Nat) (request : List Byte) (s : State), mgUp s hub = true →
    let s0 := incr (tickSrc s hub 290) hub R.MG_RX_FRAMES 0 1
    let s1 := { s0 with cause := max s0.cause (stampOf s hub 290 0).cts }
    (mechOf s1 hub).runs = true →
    let ends := fun (t : State) => Goes (.mgArpIcmp hub request) s { t with cause := s0.cause }
    (∀ b, arpReply s1 hub request = some b → ends (mgSend s1 hub (netField request 6 6) 0x0806 (b.length + 4) b)) ∧
    (∀ b, arpReply s1 hub request = none → echoReply s1 hub request = some b →
      ends (mgSend s1 hub (netField request 6 6) 0x0800 (b.length + 4) b)))

/-- The model's choice (assumption 9): a step with no command waiting is one tick of 1 GHz. The counter of every die
whose TIME domain runs and whose REFCLK is present advances by its rate; time advances by 1 ns; the queue stays empty,
and the variant, memory, keys, pages, records and interrupts stay as they were, and so do the registers where no link
is up (whose flits count), no frame is stored in a Switch (whose cells still arrive) and no watchdog reset has stood
for 10 µs. -/
def Obligations.IdleStepIsATick : Prop :=
  ∀ (s : State), s.pending = [] → ∃ t, step s = .next t ∧ t.now = s.now + 1 ∧
    (∀ d ∈ timeDies s, (rstOf s d).refclk = true →
      ctr t d = ctrAt (ctr s d).valid (ctrTotal (ctr s d) + rateFor s d)) ∧
    t.pending = [] ∧ t.variant = s.variant ∧ t.mem = s.mem ∧ t.keys = s.keys ∧ t.hdrs = s.hdrs ∧ t.banks = s.banks ∧
    t.recs = s.recs ∧ t.msis = s.msis ∧
    ((∀ e ∈ allLinks s, linkState s e.1 ≠ 2) → (∀ h ∈ hubs s, (swOf s h).stored = []) →
      (∀ d ∈ diesOf s, ∀ p ∈ (rstOf s d).pulses, p.src = 4 → s.now + 1 < p.at_ + 10000) → t.regs = s.regs)

/-- What reset leaves: no domain of any die runs, no counter is valid, every register that is not fused reads its
reset value, every page header is clear, no key, no record and no interrupt is under way, and no command waits. -/
def Obligations.ResetHoldsEveryDomain : Prop :=
  (∀ die dom, domRun State.reset die dom = false) ∧
  (∀ die, (ctr State.reset die).valid = false ∧ ctsNow State.reset die = 0) ∧
  (∀ loc r inst, rd State.reset loc r inst = resetVal r loc inst % 2 ^ 64) ∧
  (∀ loc b, hdr State.reset loc b = Hdr.empty) ∧
  (∀ loc b ini, (bank State.reset loc b ini).cmdResult = 0) ∧
  (∀ a, readByte State.reset a = unwritten) ∧
  State.reset.keys = [] ∧ State.reset.recs = [] ∧ State.reset.msis = [] ∧ State.reset.pending = []

/-- Memory stands in its canonical form at reset. -/
def Obligations.ResetMemoryIsCanonical : Prop :=
  Canonical State.reset

/-- Every step keeps memory in its canonical form, whatever command it takes. -/
def Obligations.StepKeepsMemoryCanonical : Prop :=
  ∀ (s t : State), Canonical s → step s = .next t → Canonical t

/-- No command stops the model: every one of the 371 commands answers a next state on every state and operands, and
leaves the queue behind it and the variant as they were. -/
def Obligations.EveryCommandAnswers : Prop :=
  ∀ (i : Instr) (s : State), ∃ t, exec i s = .next t ∧ t.pending = s.pending ∧ t.variant = s.variant

/-- Bytes written to memory read back, one at each address from the first upward, where the map puts memory; an
address where it puts none reads 0; every other address reads as before; a value's bytes stand least significant
first. -/
def Obligations.MemoryHoldsWhatIsWritten : Prop :=
  ∀ (s : State) (a : Nat) (bytes : List Byte) (b : Nat),
    (∀ i (h : i < bytes.length), memHolds s (a + i) = true → readByte (writeBytes s a bytes) (a + i) = bytes[i]) ∧
    (memHolds s b = false → readByte (writeBytes s a bytes) b = 0) ∧
    (b < a ∨ a + bytes.length ≤ b → readByte (writeBytes s a bytes) b = readByte s b) ∧
    (∀ n v i, i < n → memHolds s (a + i) = true → readByte (writeBytes s a (bytesLE n v)) (a + i) = BitVec.ofNat 8 (v / 2 ^ (8 * i)))

/-- A command that a check refuses has no side effect (R64): the checks stand in their order; the command's code is in
CMD_RESULT under the page's next sequence number; CMD_STAMP, CMD_ORDER and CMD_LAST are updated; and nothing else
changes but the write's own stamps (R60), the page's counts and, under REFUSE_LOG or for the loader, one record (R66):
no EVENT bit, no interrupt, no other page, no other initiator's registers, no register and no engine. -/
def Obligations.RefusedCommandHasNoSideEffect : Prop :=
  (∀ k : Checks,
    (k.fails = some .badArg ↔ k.argOk = false) ∧
    (k.fails = some .denied ↔ k.argOk = true ∧ k.auth = false) ∧
    (k.fails = some .busy ↔ k.argOk = true ∧ k.auth = true ∧ k.idle = false) ∧
    (k.fails = some .illegalState ↔ k.argOk = true ∧ k.auth = true ∧ k.idle = true ∧ k.legal = false) ∧
    (k.fails = some .noResource ↔ k.argOk = true ∧ k.auth = true ∧ k.idle = true ∧ k.legal = true ∧ k.room = false) ∧
    (k.fails = none ↔ k = Checks.pass)) ∧
  (∀ (s : State) (c : Cmd) (b : Block) (op : Nat) (checks : State → Ctx → Checks) (eff : Ctx → State → Effect) (code : Code),
    let loc := cmdLoc c b
    let x := ctxOf s c b op
    gate s loc b c.who 0x010 false true = .pass → ((checks s x).for c.who).fails = some code →
    ∃ t, command s c b op checks eff = .next t ∧ OnlyPages s t ∧
      bank t loc b c.who.ini = { bank s loc b c.who.ini with cmdResult := resultWord x.seq code 0, cmdStamp := x.cts, cmdOrder := x.order } ∧
      (hdr t loc b).seq = ((hdr s loc b).seq + 1) % 65536 ∧ (hdr t loc b).cmdLast = x.seq * 65536 + c.who.ini ∧
      (hdr t loc b).event = (hdr s loc b).event ∧ (hdr t loc b).setAgain = (hdr s loc b).setAgain ∧
      (hdr t loc b).status = (hdr s loc b).status ∧ (hdr t loc b).running = (hdr s loc b).running ∧
      (hdr t loc b).irqStamp = (hdr s loc b).irqStamp ∧ t.msis = s.msis ∧
      (∀ loc' b', pageKey loc' b' ≠ pageKey loc b → hdr t loc' b' = hdr s loc' b') ∧
      (∀ loc' b' ini, pageKey loc' b' * 128 + ini ≠ pageKey loc b * 128 + c.who.ini → bank t loc' b' ini = bank s loc' b' ini) ∧
      ((hdr s loc b).refuseLog % 2 = 0 → c.who.ini ≠ 127 → t.recs = s.recs))

/-- A denied access has no effect (R28, R54): a read and a write of a register and a command from an initiator that
the page does not take, or at a page outside a guest's own group, answer 0; the page sets EVENT.DENIED_ACCESS and
loads DENY_INFO, and no other state changes: every register, every banked register and every engine stands, and a
command takes no sequence number. -/
def Obligations.DeniedAccessHasNoEffect : Prop :=
  let noEffect := fun (s t : State) (loc : Nat) (b : Block) (info : Nat) =>
    OnlyPages s t ∧ t.resp = .value 0 ∧ t.banks = s.banks ∧ t.recs = s.recs ∧
    (hdr t loc b).denyInfo = info ∧ bit (hdr t loc b).event 31 = true ∧ (b ≠ .msiRoute → (hdr t loc b).event = (hdr s loc b).event ||| 2 ^ 31) ∧
    (hdr t loc b).seq = (hdr s loc b).seq ∧ (hdr t loc b).cmdLast = (hdr s loc b).cmdLast ∧
    (hdr t loc b).status = (hdr s loc b).status ∧ (hdr t loc b).lock = (hdr s loc b).lock ∧
    (hdr t loc b).lastWriteStamp = (hdr s loc b).lastWriteStamp ∧ (hdr t loc b).lastWriter = (hdr s loc b).lastWriter
  (∀ (a : Access) (s : State) (r : Nat), a.off < 0x080 → gate s (accLoc a) a.blk a.who a.off a.wide false = .denied r →
    After (.readClearRead a) s fun t => noEffect s t (accLoc a) a.blk (r % 4 * 2 ^ 30 + a.who.ini % 128 * 2 ^ 22 + a.off % 4096)) ∧
  (∀ (a : Access) (s : State) (r : Nat), a.off ≠ 0x010 → a.off < 0x080 → gate s (accLoc a) a.blk a.who a.off a.wide true = .denied r →
    After (.registerWrite a) s fun t =>
      noEffect s t (accLoc a) a.blk (r % 4 * 2 ^ 30 + 2 ^ 29 + a.who.ini % 128 * 2 ^ 22 + a.off % 4096)) ∧
  (∀ (b : Block) (c : Cmd) (s : State) (r : Nat), gate s (cmdLoc c b) b c.who 0x010 false true = .denied r →
    After (.nop b c) s fun t => noEffect s t (cmdLoc c b) b (r % 4 * 2 ^ 30 + 2 ^ 29 + c.who.ini % 128 * 2 ^ 22 + 0x010))

/-- A guest reaches only its own page group, and only while its VI is RUNNING, MIGRATING, QUIESCING or QUIESCED: any
other access of a hart that runs a guest VI to a page that runs is denied with reason 1. -/
def Obligations.GuestReachesOnlyItsGroup : Prop :=
  ∀ (s : State) (loc : Nat) (b : Block) (w : Who) (off : Nat) (wide write : Bool) (v : Nat), w.vi = some v → w.ini ≠ 112 →
    aligned w off wide = true → present s (serveFor s loc b w.ini) = true → populated loc b = true → pageRunFor s loc b w.ini = true →
    (blockIsView b = false ∨ loc ≠ viewLoc v ∨ viState s v ∉ [2, 3, 4, 6] → gate s loc b w off wide write = .denied 1) ∧
    (blockIsView b = true → loc = viewLoc v → viState s v ∈ [2, 3, 4, 6] → w.ini < 96 →
      gate s loc b w off wide write = .pass)

/-- A page whose domain is held takes no access (R616), and a die that the variant lacks takes none either (R50): a
write and a command have no effect and take no sequence number; on an absent die they end in an access fault. A hart's
access that is not naturally aligned raises an access fault, and the page sees nothing (R310). -/
def Obligations.HeldPageTakesNoAccess : Prop :=
  (∀ (a : Access) (s : State), a.wide = false → present s (serveFor s (accLoc a) a.blk a.who.ini) = true →
    pageRunFor s (accLoc a) a.blk a.who.ini = false →
    Goes (.eventW1cWrite a) s { s with resp := .value 0 } ∧ Goes (.eventEnWrite a) s { s with resp := .value 0 } ∧
    Goes (.pageLockWrite a) s { s with resp := .value 0 }) ∧
  (∀ (b : Block) (c : Cmd) (s : State), present s (serveFor s (cmdLoc c b) b c.who.ini) = true →
    pageRunFor s (cmdLoc c b) b c.who.ini = false →
    Goes (.nop b c) s { s with resp := .value 0 } ∧ Goes (.eventTest b c) s { s with resp := .value 0 }) ∧
  (∀ (b : Block) (c : Cmd) (s : State), present s (serveFor s (cmdLoc c b) b c.who.ini) = false →
    Goes (.nop b c) s { s with resp := .accessFault } ∧ Goes (.eventTest b c) s { s with resp := .accessFault }) ∧
  (∀ (a : Access) (s : State), a.who.ini < 96 → (a.off % 4 ≠ 0 ∨ (a.wide = true ∧ a.off % 8 ≠ 0)) →
    Goes (.registerWrite a) s { s with resp := .accessFault } ∧ Goes (.readClearRead a) s { s with resp := .accessFault })

/-- NOP takes the page's next sequence number, which follows 0xFFFF with 0, and answers DONE with it in CMD_RESULT, in
every state and while another command runs; nothing outside the page's header, its counts and its issuer's banked
registers changes. EVENT_TEST does the same and sets the EVENT bit it names as hardware does, but for the bits of a
flow page that show the flow's number (R301). -/
def Obligations.NopTakesTheNextSequenceNumber : Prop :=
  ∀ (b : Block) (c : Cmd) (s : State), gate s (cmdLoc c b) b c.who 0x010 false true = .pass →
    let n := ((hdr s (cmdLoc c b) b).seq + 1) % 65536
    (After (.nop b c) s fun t => OnlyPages s t ∧ (hdr t (cmdLoc c b) b).seq = n ∧ (hdr t (cmdLoc c b) b).cmdLast = n * 65536 + c.who.ini ∧
      (hdr t (cmdLoc c b) b).event = (hdr s (cmdLoc c b) b).event ∧ (hdr t (cmdLoc c b) b).running = (hdr s (cmdLoc c b) b).running ∧
      (bank t (cmdLoc c b) b c.who.ini).cmdResult = n * 65536 ∧ t.recs = s.recs ∧ t.msis = s.msis) ∧
    (After (.eventTest b c) s fun t => OnlyPages s t ∧ (hdr t (cmdLoc c b) b).seq = n ∧
      (bank t (cmdLoc c b) b c.who.ini).cmdResult = n * 65536 ∧
      (flowNumber b (c.sub % 256 % 32) = false → bit (hdr t (cmdLoc c b) b).event (c.sub % 256 % 32) = true) ∧
      (flowNumber b (c.sub % 256 % 32) = true → (hdr t (cmdLoc c b) b).event = (hdr s (cmdLoc c b) b).event))

/-- EVENT (R67): a W1C write clears the bits that are 1 in the value and in EVENT, and no other, but for the flow's
number that the flow pages show in [27:16] (R301); a hardware set sets its bit; one that finds the bit at 1 is counted
in SET_AGAIN and raises no interrupt, and one that finds it at 0 is not counted and, where the bit is enabled and
IRQ_TARGET.EN is 1, sends the MSI of its route. -/
def Obligations.EventBitsFollowHardwareAndW1c : Prop :=
  (∀ (a : Access) (s : State), gate s (accLoc a) a.blk a.who 0x02C a.wide true = .pass →
    After (.eventW1cWrite a) s fun t => OnlyPages s t ∧ t.msis = s.msis ∧
      (∀ n, bit (hdr t (accLoc a) a.blk).event n =
        (bit (hdr s (accLoc a) a.blk).event n && (!(bit (wordOf { a with off := 0x02C }) n) || flowNumber a.blk n))) ∧
      (hdr t (accLoc a) a.blk).setAgain = (hdr s (accLoc a) a.blk).setAgain) ∧
  (∀ (s : State) (loc : Nat) (b : Block) (n : Nat), pageRun s loc b = true → n < 32 →
    let h := hdr s loc b
    let t := hwSet s loc b n
    (bit h.event n = true → hdr t loc b = { h with setAgain := n * 2 ^ 16 + min (2 ^ 16 - 1) (h.setAgain % 2 ^ 16 + 1) } ∧ t.msis = s.msis) ∧
    (bit h.event n = false → (hdr t loc b).event = h.event + 2 ^ n ∧ (hdr t loc b).setAgain = h.setAgain ∧
      t.msis = s.msis ++ (if bit h.eventEn n && bit h.irqTarget 31 then
        (routeMsi s (serveDie s loc b) (h.irqTarget % 256) (msiPlane b)).toList else [])))

/-- A granted write of EVENT_EN that enables a bit which is already 1 raises an interrupt: its MSI goes out where
IRQ_TARGET.EN is 1 and the route is valid. A write that disables bits leaves EVENT and every MSI already sent as they
are. -/
def Obligations.EnablingAStandingBitRaises : Prop :=
  ∀ (a : Access) (s : State), gate s (accLoc a) a.blk a.who 0x030 a.wide true = .pass →
    let h := hdr s (accLoc a) a.blk
    let v := wordOf { a with off := 0x030 }
    let fresh := h.event &&& (v &&& (h.eventEn ^^^ (2 ^ 32 - 1)))
    let sent := (routeMsi s (serveDie s (accLoc a) a.blk) (h.irqTarget % 256) (msiPlane a.blk)).toList
    After (.eventEnWrite a) s fun t => OnlyPages s t ∧ (hdr t (accLoc a) a.blk).eventEn = v ∧
      (a.blk ≠ .msiRoute → (hdr t (accLoc a) a.blk).event = h.event) ∧
      (fresh ≠ 0 → bit h.irqTarget 31 = true → sent ≠ [] → t.msis = s.msis ++ sent) ∧
      (fresh = 0 → t.msis = s.msis)

/-- A write of an RWL register of a page that PAGE_LOCK has locked is denied with reason 2 and leaves the register as
it was, but for the start-up loader. -/
def Obligations.LockedRegisterRefusesWrites : Prop :=
  ∀ (a : Access) (s : State) (t : Target), gate s (accLoc a) a.blk a.who a.off a.wide true = .pass →
    target s (accLoc a) a.blk a.who.ini a.off = some t → t.reg.acc = .rwl → writable a.blk a.who t.reg = true →
    (hdr s (accLoc a) a.blk).lock = true → a.who.ini ≠ 127 → 0x080 ≤ a.off → a.off < 0xA00 → a.blk ≠ .keyVault →
    Goes (.registerWrite a) s (deny s (accLoc a) a.blk a.who a.off 2 true) ∧
    (∀ loc r inst, rd (deny s (accLoc a) a.blk a.who a.off 2 true) loc r inst = rd s loc r inst)

/-- The CTS of a counter (R81): bits 63 to 30 hold the low 34 bits of the seconds and bits 29 to 0 the nanoseconds,
truncated whatever the fraction; a counter that would give 0 gives 1, and one that is not valid gives 0. -/
def Obligations.CtsHoldsSecondsAndNanoseconds : Prop :=
  ∀ (sec ns frac : Nat), ns < 1000000000 →
    ctsOf ⟨false, sec, ns, frac⟩ = 0 ∧
    (let v := ctsOf ⟨true, sec, ns, frac⟩
     v < 2 ^ 64 ∧ v ≠ 0 ∧ (sec % 2 ^ 34 = 0 ∧ ns = 0 → v = 1) ∧
     (¬(sec % 2 ^ 34 = 0 ∧ ns = 0) → v / 2 ^ 30 = sec % 2 ^ 34 ∧ v % 2 ^ 30 = ns))

/-- A granted SET_TIME (R93, R619) sets the counter of every die whose TIME domain runs to SET_SEC and SET_NS, and
makes it valid; the master is hub A where its TIME domain runs and the issuing hub otherwise, and enters FREE; the
other hub enters FOLLOW; no counter of a held domain changes. -/
def Obligations.SetTimeSetsEveryCounter : Prop :=
  ∀ (c : Cmd) (s : State), Grants s c .timeBase 0x10 checksSetTime →
    let h := (ctxOf s c .timeBase 0x10).die
    let m := if domRun s 0 5 then 0 else h
    After (.setTime c) s fun t =>
      (∀ d ∈ timeDies s, ctr t d = ⟨true, rd s h R.SET_SEC 0, rd s h R.SET_NS 0, 0⟩) ∧
      (∀ d, d ∉ timeDies s → ctr t d = ctr s d) ∧
      (tb t m).state = .free ∧ (tb t m).master = true ∧
      (present s (otherHub m) = true → domRun s (otherHub m) 5 = true →
        (tb t (otherHub m)).state = .follow ∧ (tb t (otherHub m)).master = false) ∧
      (bank t (cmdLoc c .timeBase) .timeBase c.who.ini).cmdResult = resultWord (ctxOf s c .timeBase 0x10).seq .done 0

/-- A granted TBL_WRITE of a VLAN, group, WRED, admin gate or Ethertype entry (R165, R166) sets that entry to
TBL_DATA0 to 3 with the table's reserved bits cleared, and leaves every other entry of every table; a granted TBL_READ
of such a table loads the entry into the issuer's TBL_DATA. -/
def Obligations.TableEntriesAreWrittenAndRead : Prop :=
  ∀ (c : Cmd) (s : State), c.sub ∈ [1, 2, 5, 6, 8] →
    let hub := cmdLoc c .switch
    let idx := (bank s hub .switch c.who.ini).cmdArg
    (Grants s c .switch 0x11 checksTblWrite →
      After (.tblWrite c) s fun t => tblGet (swOf t hub) c.sub idx = tblMask c.sub (tblData s hub c.who.ini) ∧
        (∀ table i, table * 65536 + i ≠ c.sub * 65536 + idx → tblGet (swOf t hub) table i = tblGet (swOf s hub) table i) ∧
        (∀ other, other ≠ hub → swOf t other = swOf s other) ∧ OnlyPages { s with switches := t.switches } t) ∧
    (Grants s c .switch 0x10 checksTblRead → (∀ e : TblEntry, e = tblGet (swOf s hub) c.sub idx → e.d0 < 2 ^ 32 ∧ e.d1 < 2 ^ 32 ∧
        e.d2 < 2 ^ 32 ∧ e.d3 < 2 ^ 32) →
      After (.tblRead c) s fun t => tblData t hub c.who.ini = tblGet (swOf s hub) c.sub idx ∧ OnlyRegs s t)

/-- An output of a detector (R246) asserts when its measure is at or above PICKUP, de-asserts when it is below DROP,
and keeps its state between them. -/
def Obligations.DetectorOutputHasHysteresis : Prop :=
  ∀ (pickup drop measure : Nat) (was : Bool), drop ≤ pickup →
    (pickup ≤ measure → threshold pickup drop measure was = true) ∧
    (measure < drop → threshold pickup drop measure was = false) ∧
    (drop ≤ measure → measure < pickup → threshold pickup drop measure was = was)

/-- The FIR (R232): with no coefficient it passes the newest output; otherwise it is the sum of each coefficient with
the output as many places back, rounded at bit 18 and limited to 32 bits, and one coefficient is a gain. -/
def Obligations.FirRoundsAndLimits : Prop :=
  ∀ (p : Profile) (outs : List Int),
    (p.t = 0 → (fir p outs).1 = outs.headD 0) ∧
    (p.t ≠ 0 →
      let acc := ((List.range p.t).map (fun i => p.coef[i]?.getD 0 * outs[i]?.getD 0)).sum
      let y := (acc + 131072) / 262144
      (fir p outs).1 = max (-2147483648) (min 2147483647 y) ∧
      ((fir p outs).2 = true ↔ y < -2147483648 ∨ 2147483647 < y)) ∧
    (p.t = 1 → ∀ h, p.coef = [h] → -2147483648 ≤ (h * outs.headD 0 + 131072) / 262144 →
      (h * outs.headD 0 + 131072) / 262144 ≤ 2147483647 → (fir p outs).1 = (h * outs.headD 0 + 131072) / 262144)

/-- The order of deadlines (R274): unsigned, with the low 4 bits ignored; 0 is later than every other; between equal
ones the earlier admission comes first. The order is total on items with different admissions. -/
def Obligations.DeadlineOrder : Prop :=
  ∀ (a b : Item), a.deadline < 2 ^ 64 → b.deadline < 2 ^ 64 →
    (a.deadline ≠ 0 → b.deadline = 0 → earlier a b = true ∧ earlier b a = false) ∧
    (a.deadline ≠ 0 → b.deadline ≠ 0 → a.deadline / 16 < b.deadline / 16 → earlier a b = true ∧ earlier b a = false) ∧
    (a.deadline ≠ 0 → b.deadline ≠ 0 → a.deadline / 16 = b.deadline / 16 → a.adm < b.adm → earlier a b = true ∧ earlier b a = false) ∧
    (a.deadline = 0 → b.deadline = 0 → a.adm < b.adm → earlier a b = true ∧ earlier b a = false)

/-- A module that takes the Tandem lease (R462) sets an epoch above the one it knew and not below the seconds of its
counter in the high half, and holds the token until now plus the lease's length. -/
def Obligations.LeaseEpochRises : Prop :=
  ∀ (s : State) (hub : Nat),
    let old := (tdOf s hub).token.epoch
    let sec := (ctr s hub).sec % 2 ^ 32 * 2 ^ 32
    old + 1 < 2 ^ 64 →
    let k := (tdOf (takeLease s hub) hub).token
    k.epoch = max (old + 1) sec ∧ old < k.epoch ∧ k.expiry = taiNs s hub + leaseNs s hub ∧ k.holder = tdModule s hub ∧ k.valid = true

/-- A write of MC_RENEW (R544) by the lead sets EXPIRY to the present plus 10 ms and toggles WDO_N on every hub; one
by any other initiator only counts in MC_RENEW_DENIED. -/
def Obligations.OnlyTheLeadRenews : Prop :=
  ∀ (w : Who) (t : Target) (v : Nat) (s : State),
    (isLead s t.loc w = false → renewLease w t v s = incr s (locDie t.loc) R.MC_RENEW_DENIED 0 1) ∧
    (∀ h, isLead s t.loc w = true → deciderOf s (locDie t.loc) = some h → (leaseOf s h).lead = some (w.ini - 96) → h < 2 →
      ∃ s2, renewLease w t v s = sendLease s2 h ∧ (leaseOf s2 h).expiry = leaseEnd s h ∧ (leaseOf s2 h).at_ = s.now ∧
        ∀ g ∈ hubs s, (leaseOf s2 g).wdo = !(leaseOf s g).wdo)

/-- What a TRIP_OUT is driven at (R36, R448), once the fuses are sensed: a Coaster demand asserts it whatever stands
beside it; with no Coaster demand the fused code of its ball stands while a domain is held or the Kickstand is active,
and otherwise the gated software demand does. -/
def Obligations.TripOutFollowsTheCoaster : Prop :=
  ∀ (s : State) (hub n : Nat), (rstOf s hub).fuseSensed = true →
    (bit (coDemand s hub) n = true → lineDrive s hub n = some true) ∧
    (bit (coDemand s hub) n = false → lineSafe s hub n = false → lineDrive s hub n = some (swDemand s hub n)) ∧
    (bit (coDemand s hub) n = false → lineSafe s hub n = true →
      (pinCode s hub n = 4 → lineDrive s hub n = some true) ∧ (pinCode s hub n = 3 → lineDrive s hub n = some false) ∧
      (pinCode s hub n = 5 → lineDrive s hub n = some ((lineOf s hub n).accepted && (lineOf s hub n).used)) ∧
      (pinCode s hub n < 3 → lineDrive s hub n = none)) ∧
    (4 ≤ (levelOf s hub).level → lineSafe s hub n = true) ∧ (lineGated s hub n = true → swDemand s hub n = false)

/-- SWR_RELEASE and SWR_PULSE of a mask with a domain whose island is not lock-stable (R520) are refused with
ILLEGAL_STATE and have no side effect: their sequence number is taken and their result posted, and nothing outside the
page's header, stamps and records changes. -/
def Obligations.UnlockedDomainIsNotReleased : Prop :=
  ∀ (c : Cmd) (s : State) (d : Nat), gate s (cmdLoc c .resetKs) .resetKs c.who 0x010 false true = .pass →
    (∀ op, (swrChecks true s (ctxOf s c .resetKs op)).auth = true ∨ c.who.ini = 127) →
    (hdr s (cmdLoc c .resetKs) .resetKs).running = [] →
    d ∈ maskDoms ((bank s (cmdLoc c .resetKs) .resetKs c.who.ini).cmdArg % 8192 / 2 * 2) →
    domStable (locDie (cmdLoc c .resetKs)) (rstOf s (locDie (cmdLoc c .resetKs))) d = false →
    let n := ((hdr s (cmdLoc c .resetKs) .resetKs).seq + 1) % 65536
    let refused := fun (t : State) => OnlyPages s t ∧ t.rst = s.rst ∧
      (bank t (cmdLoc c .resetKs) .resetKs c.who.ini).cmdResult = resultWord n .illegalState 0
    After (.swrRelease c) s refused ∧ After (.swrPulse c) s refused

/-- A granted SWR_ASSERT (R513, R535) holds every domain of its mask by SWR, and none of them runs; what other sources
hold stands, so no source cancels another (R35). -/
def Obligations.SoftwareResetHoldsItsDomains : Prop :=
  ∀ (c : Cmd) (s : State), Grants s c .resetKs 0x10 (swrChecks false) → present s (locDie (cmdLoc c .resetKs)) = true →
    8 ≤ (rstOf s (locDie (cmdLoc c .resetKs))).holds.length →
    let die := locDie (cmdLoc c .resetKs)
    let mask := (bank s (cmdLoc c .resetKs) .resetKs c.who.ini).cmdArg % 8192 / 2 * 2
    After (.swrAssert c) s fun t =>
      (∀ d ∈ maskDoms mask, domRun t die d = false) ∧
      (∀ d, bit (heldMask (rstOf s die)) d = true → bit (heldMask (rstOf t die)) d = true)

/-- In SEALED and ALARM the vault answers TAMPER to opcodes 0x15 to 0x2B (R505): the use is counted in
VT_TAMPER_REFUSE, no job waits for the engine, and keys, roots and every vault stand. -/
def Obligations.SealedVaultAnswersTamper : Prop :=
  ∀ (i : Cmd → Instr) (op : Nat), (i, op) ∈ [(Instr.rootGen, 0x15), (Instr.rootLoad, 0x16), (Instr.vaultAuthLoad, 0x17),
      (Instr.keyDerive, 0x20), (Instr.keyUnwrap, 0x21), (Instr.keyGen, 0x22), (Instr.keyClear, 0x23), (Instr.keySet, 0x24),
      (Instr.encrypt, 0x28), (Instr.decrypt, 0x29), (Instr.macGen, 0x2A), (Instr.macVer, 0x2B)] →
    ∀ (c : Cmd) (s : State),
      let b := viewOr c .keyView .keyVault
      let x := ctxOf s c b op
      let hub := (keyArgs (acting s c b op) x.loc b c.who.ini x.sub x.argument).hub
      Grants s c b op (checksKey c.view.isSome op) → vaultState (acting s c b op) hub = 0 ∨ vaultState (acting s c b op) hub = 3 →
      After (i c) s fun t => (bank t (cmdLoc c b) b c.who.ini).cmdResult = resultWord x.seq .tamper 0 ∧
        OnlyRegs s t ∧ t.keys = s.keys ∧ t.roots = s.roots ∧ t.vaults = s.vaults ∧
        rd t hub R.VT_TAMPER_REFUSE 0 = (rd s hub R.VT_TAMPER_REFUSE 0 + 1) % 2 ^ regBits R.VT_TAMPER_REFUSE

/-- A plain write of a register (R10, R60): one that no rule gives an effect of its own takes the value with its
reserved bits cleared, limited as its rule says, and no other register, no engine and no memory changes. -/
def Obligations.PlainWriteChangesOneRegister : Prop :=
  ∀ (a : Access) (s : State) (g : Target), WriteGranted s a g → g.reg.wide = false → 0x080 ≤ a.off → a.off < 0xA00 →
    a.blk ≠ .keyVault →
    g.reg ∉ [R.TRG_PERIOD, R.TRG_WIDTH, R.TRG_RATE, R.Q_RSV, R.LP_CFG, R.SD_CFG, R.GW_CFG, R.TL_CFG, R.TIO_SW_SET,
      R.TIO_SW_CLR, R.SW_ALIVE, R.TD_PERMIT, R.WDT_KICK, R.RESET_CAUSE, R.RK_DBG_MASK, R.MC_RENEW, R.MC_CAND, R.SB_SEEK,
      R.RL_CFG, R.RL_VMIN, R.AVS_CFG, R.OFFSET_IN, R.FREQ_TRIM, R.AG_CTRL] →
    After (.registerWrite a) s fun t =>
      readT t g = taken (written s a) g (a.value % 2 ^ 32 &&& g.reg.mask) % 2 ^ regBits g.reg ∧
      (∀ loc r inst, regKey loc inst 127 (blockCode r.blk) r.off ≠ regKey g.loc g.inst g.bank (blockCode g.reg.blk) g.reg.off →
        rd t loc r inst = rd s loc r inst) ∧ OnlyRegs s t

/-- CLEAR_COUNTERS, granted, returns the counters it names to 0 and leaves every other register, every engine and
memory as they were. -/
def Obligations.ClearCountersClearsOnlyCounters : Prop :=
  (∀ c s, Grants s c .dram 0x10 checksDramClearCounters → After (.dramClearCounters c) s fun t =>
    Cleared s t (cmdLoc c .dram) 0 1 [R.DR_CE, R.DR_UE]) ∧
  (∀ c s, Grants s c .cyclometer 0x12 checksCyClearCounters → After (.cyClearCounters c) s fun t =>
    Cleared s t (cmdLoc c .cyclometer) 0 1 [R.CY_SWEEPS, R.CY_SKIPPED, R.CY_MAP_DENY]) ∧
  (∀ c s, Grants s c .mechanic 0x30 checksMcClearCounters → After (.mcClearCounters c) s fun t =>
    Cleared s t (cmdLoc c .mechanic) 0 1 [R.MC_RENEW_DENIED, R.MC_LOG_LOST]) ∧
  (∀ c s, Grants s c .detector 0x14 checksDetClearCounters → After (.detClearCounters c) s fun t =>
    let n := c.argument % 65536
    if n = 0xFFFF then Cleared s t (cmdLoc c .detector) 0 1024 [R.DET_PICKUPS]
    else Cleared s t (cmdLoc c .detector) n 1 [R.DET_PICKUPS]) ∧
  (∀ c s, Grants s c .coaster 0x14 checksCoasterClearCounters → After (.coasterClearCounters c) s fun t =>
    let n := c.argument % 65536
    if n = 0xFFFF then Cleared s t (cmdLoc c .coaster) 0 64 [R.ZN_TRIPS]
    else Cleared s t (cmdLoc c .coaster) n 1 [R.ZN_TRIPS]) ∧
  (∀ c s, Grants s c .svIngest 0x13 checksIngestClearCounters → After (.ingestClearCounters c) s fun t =>
    let n := c.argument % 65536
    if n = 0xFFFF then Cleared s t (cmdLoc c .svIngest) 0 1024 ingestCounters
    else Cleared s t (cmdLoc c .svIngest) n 1 ingestCounters) ∧
  (∀ c s, Grants s c .lane 0x16 checksLaneClearCounters → After (.laneClearCounters c) s fun t =>
    let n := c.argument % 65536
    if n = 0xFFFF then Cleared s t (cmdLoc c .lane) 0 12 laneCounters
    else Cleared s t (cmdLoc c .lane) n 1 laneCounters) ∧
  (∀ c s, Grants s c .crankTask 0x10 checksTaskClearCounters → After (.taskClearCounters c) s fun t =>
    let n := c.argument % 65536
    if n = 0xFFFF then Cleared s t (cmdLoc c .crankTask) 0 16 taskCounters
    else Cleared s t (cmdLoc c .crankTask) n 1 taskCounters)

/-- Whatever its answer, each of these commands leaves every engine, key, counter and memory as it was: the first
changes only pages (headers, stamps, counts, records, interrupts), the others registers besides. -/
def Obligations.PageCommandFrames : Prop :=
  PagesFrame (fun s _ => s) [.takeMaster, .viSave, .viRestore, .logStop, .rtClear, .updCommit] ∧
  (∀ b, PagesFrame (fun s _ => s) [.nop b]) ∧
  (∀ b, PagesFrame (fun s _ => s) [.eventTest b]) ∧
  RegsFrame (fun s _ => s) [.dramClearCounters, .resetServo, .tblRead, .macSearch, .egressClearCounters, .nodeRead,
    .nodeSearch, .laneClearCounters, .ingestClearCounters, .filterClearCounters, .detClearCounters,
    .pelotonClearCounters, .flowClearCounters, .viReset, .shareClearCounters, .logSwap,
    .crankClearCounters, .taskClearCounters, .capClearCounters, .coasterClearCounters, .tripIoClearCounters,
    .tdClearCounters, .faClearCounters, .vaultClearCounters, .updVerify, .mcClearCounters, .railSet, .railClear,
    .sbClearCounters, .cyClearCounters] ∧
  (∀ axle, RegsFrame (fun s _ => s) [.linkClearCounters axle])

/-- Whatever its answer, each of these commands changes, beside pages and registers, only the engine it acts on. -/
def Obligations.EngineCommandFrames : Prop :=
  (∀ axle, RegsFrame (fun s t => { s with links := t.links }) [.linkRestore axle]) ∧
  RegsFrame (fun s t => { s with ctrs := t.ctrs, levels := t.levels, tbs := t.tbs }) [.setTime] ∧
  PagesFrame (fun s t => { s with steps := t.steps }) [.step] ∧
  RegsFrame (fun s t => { s with levels := t.levels, tbs := t.tbs }) [.selectRef, .hold] ∧
  RegsFrame (fun s t => { s with trigs := t.trigs }) [.trgArm, .trgDisarm] ∧
  PagesFrame (fun s t => { s with switches := t.switches }) [.tblWrite, .macFlush] ∧
  RegsFrame (fun s t => { s with switches := t.switches }) [.switchClearCounters, .sessionStop, .qbvCommit] ∧
  RegsFrame (fun s t => { s with lanes := t.lanes, switches := t.switches }) [.tdrRun] ∧
  RegsFrame (fun s t => { s with free := t.free, switches := t.switches }) [.sessionStart] ∧
  RegsFrame (fun s t => { s with sendReqs := t.sendReqs }) [.egSend] ∧
  PagesFrame (fun s t => { s with lanes := t.lanes }) [.rehome] ∧
  RegsFrame (fun s t => { s with lanes := t.lanes }) [.nodeWrite, .nodeFlush, .linkRestart] ∧
  PagesFrame (fun s t => { s with streams := t.streams }) [.stTune] ∧
  RegsFrame (fun s t => { s with streams := t.streams }) [.destRestart] ∧
  RegsFrame (fun s t => { s with filters := t.filters, profiles := t.profiles }) [.profileLoad] ∧
  RegsFrame (fun s t => { s with filters := t.filters }) [.fsAssign] ∧
  RegsFrame (fun s t => { s with dets := t.dets }) [.detDisable, .detDestRestart] ∧
  PagesFrame (fun s t => { s with dets := t.dets }) [.detTune] ∧
  PagesFrame (fun s t => { s with slices := t.slices }) [.pelStart, .flowDisable, .ringRestart] ∧
  RegsFrame (fun s t => { s with slices := t.slices }) [.hartStop] ∧
  RegsFrame (fun s t => { s with starts := t.starts }) [.hartStart] ∧
  RegsFrame (fun s t => { s with
    captures := t.captures, dets := t.dets, mem := t.mem, offers := t.offers, sendReqs := t.sendReqs
    slices := t.slices, streams := t.streams, xlates := t.xlates }) [.post] ∧
  RegsFrame (fun s t => { s with slices := t.slices, xlates := t.xlates }) [.flowEnable] ∧
  RegsFrame (fun s t => { s with xlates := t.xlates }) [.xlateInval, .rxDisable] ∧
  RegsFrame (fun s t => { s with vis := t.vis, xlates := t.xlates }) [.rxEnable] ∧
  RegsFrame (fun s t => { s with marks := t.marks, xlates := t.xlates }) [.rxRestart] ∧
  RegsFrame (fun s t => { s with switches := t.switches, vis := t.vis }) [.viCreate] ∧
  RegsFrame (fun s t => { s with vis := t.vis }) [.migrate] ∧
  RegsFrame (fun s t => { s with logs := t.logs }) [.logStart] ∧
  PagesFrame (fun s t => { s with vis := t.vis }) [.shareApply] ∧
  RegsFrame (fun s t => { s with cranks := t.cranks }) [.crStart, .crRun] ∧
  RegsFrame (fun s t => { s with cranks := t.cranks, mem := t.mem }) [.olcCommit] ∧
  RegsFrame (fun s t => { s with captures := t.captures }) [.capEnable, .capRelease] ∧
  RegsFrame (fun s t => { s with captures := t.captures, free := t.free, mem := t.mem, offers := t.offers })
    [.capDisable] ∧
  RegsFrame (fun s t => { s with coasters := t.coasters }) [.frameLoad] ∧
  RegsFrame (fun s t => { s with vaults := t.vaults }) [.unsealChal, .vaultUnseal, .vaultSeal, .dormant, .wake,
    .rootGen, .rootLoad, .vaultAuthLoad, .keyDerive, .keyUnwrap, .keyGen, .keyClear, .keySet, .encrypt, .decrypt,
    .macGen, .macVer, .attest] ∧
  RegsFrame (fun s t => { s with rst := t.rst }) [.swrRelease] ∧
  PagesFrame (fun s t => { s with rst := t.rst }) [.pinFuse] ∧
  RegsFrame (fun s t => { s with flashes := t.flashes }) [.xbRead, .xbProgram, .xbErase] ∧
  RegsFrame (fun s t => { s with leases := t.leases, mgmtLogs := t.mgmtLogs, sbags := t.sbags }) [.mcYield] ∧
  RegsFrame (fun s t => { s with leases := t.leases, mechs := t.mechs }) [.mcRestart] ∧
  PagesFrame (fun s t => { s with flashes := t.flashes }) [.mcAuthLoad] ∧
  RegsFrame (fun s t => { s with sbags := t.sbags }) [.sbPost, .sbArm, .sbDisarm, .ssDisable, .sbTrigger, .ssEnable] ∧
  RegsFrame (fun s t => { s with mem := t.mem, sbags := t.sbags }) [.sbFreeze, .sbUnfreeze] ∧
  RegsFrame (fun s t => { s with cys := t.cys, mem := t.mem }) [.cyRun] ∧
  RegsFrame (fun s t => { s with cys := t.cys }) [.cyStop]
end

