-- ==== Sys2Proof/Laws/Map.lean ====
section
/-!
SUPPORT. Sys2Proof/Laws/Map.lean: reading sparse data after changing it, and the rising keys.
-/
namespace Sys2Proof.Machine

/-- A key reads as what was put under it. -/
@[simp] theorem mget_mput_same {β : Type} (d : β) (k : Nat) (v : β) : ∀ m : Map β, mget d (mput k v m) k = v
  | [] => by simp [mput, mget]
  | (k', v') :: m => by
    unfold mput
    split
    · simp [mget]
    · split
      · simp [mget]
      · rename_i ne
        simp [mget, ne, mget_mput_same d k v m]

/-- Putting under one key leaves every other key as it was. -/
theorem mget_mput_ne {β : Type} (d : β) {k j : Nat} (v : β) (h : j ≠ k) : ∀ m : Map β, mget d (mput k v m) j = mget d m j
  | [] => by simp [mput, mget, h]
  | (k', v') :: m => by
    unfold mput
    split
    · simp [mget, h]
    · split
      · rename_i eq
        subst eq
        simp [mget, h]
      · simp only [mget, mget_mput_ne d v h m]

/-- Taking a key out leaves every other key as it was. -/
theorem mget_mdel_ne {β : Type} (d : β) {k j : Nat} (h : j ≠ k) : ∀ m : Map β, mget d (mdel k m) j = mget d m j
  | [] => rfl
  | (k', v') :: m => by
    have ih := mget_mdel_ne d h m
    simp only [mdel, ne_eq, decide_not] at ih ⊢
    by_cases e : k' = k
    · subst e
      simp [mget, h, ih]
    · simp [mget, e, ih]

/-- A key taken out reads as an unlisted one. -/
@[simp] theorem mget_mdel_same {β : Type} (d : β) (k : Nat) : ∀ m : Map β, mget d (mdel k m) k = d
  | [] => rfl
  | (k', v') :: m => by
    have ih := mget_mdel_same d k m
    simp only [mdel, ne_eq, decide_not] at ih ⊢
    by_cases e : k' = k
    · simp [e, ih]
    · simp [mget, e, Ne.symm e, ih]

/-- A pair of the changed list is the new pair or was in the list. -/
theorem mem_mput {β : Type} {k : Nat} {v : β} {c : Nat × β} : ∀ {m : Map β}, c ∈ mput k v m → c = (k, v) ∨ c ∈ m
  | [], h => by simpa [mput] using h
  | (k', v') :: m, h => by
    unfold mput at h
    split at h
    · simpa using h
    · split at h
      · rcases List.mem_cons.1 h with h | h
        · exact .inl h
        · exact .inr (List.mem_cons_of_mem _ h)
      · rcases List.mem_cons.1 h with h | h
        · exact .inr (h ▸ List.mem_cons_self)
        · exact (mem_mput h).imp_right (List.mem_cons_of_mem _)

/-- Putting a value keeps the keys rising. -/
theorem mput_sorted {β : Type} (k : Nat) (v : β) : ∀ {m : Map β}, Map.sorted m → Map.sorted (mput k v m)
  | [], _ => by simp [mput]
  | (k', v') :: m, h => by
    have h1 := List.pairwise_cons.1 h
    unfold mput
    split
    · rename_i lt
      refine List.pairwise_cons.2 ⟨fun c hc => ?_, h⟩
      rcases List.mem_cons.1 hc with rfl | hc
      · exact lt
      · exact Nat.lt_trans lt (h1.1 c hc)
    · split
      · rename_i _ eq
        exact List.pairwise_cons.2 ⟨fun c hc => eq ▸ h1.1 c hc, h1.2⟩
      · rename_i nlt ne
        refine List.pairwise_cons.2 ⟨fun c hc => ?_, mput_sorted k v h1.2⟩
        rcases mem_mput hc with rfl | hc
        · show k' < k
          omega
        · exact h1.1 c hc

end Sys2Proof.Machine
end

