-- ==== Sys2Proof/Laws/State.lean ====
section
/-!
SUPPORT. Sys2Proof/Laws/State.lean: each named update leaves every field but its own as it was.
-/
namespace Sys2Proof.Machine

/-! ### wr -/

@[simp] theorem wr_pending (s : State) (loc : Nat) (r : Reg) (inst v : Nat) :
    (wr s loc r inst v).pending = s.pending := rfl
@[simp] theorem wr_variant (s : State) (loc : Nat) (r : Reg) (inst v : Nat) :
    (wr s loc r inst v).variant = s.variant := rfl
@[simp] theorem wr_now (s : State) (loc : Nat) (r : Reg) (inst v : Nat) : (wr s loc r inst v).now = s.now := rfl
@[simp] theorem wr_resp (s : State) (loc : Nat) (r : Reg) (inst v : Nat) : (wr s loc r inst v).resp = s.resp := rfl
@[simp] theorem wr_free (s : State) (loc : Nat) (r : Reg) (inst v : Nat) : (wr s loc r inst v).free = s.free := rfl
@[simp] theorem wr_cause (s : State) (loc : Nat) (r : Reg) (inst v : Nat) : (wr s loc r inst v).cause = s.cause := rfl
@[simp] theorem wr_ctrs (s : State) (loc : Nat) (r : Reg) (inst v : Nat) : (wr s loc r inst v).ctrs = s.ctrs := rfl
@[simp] theorem wr_seqs (s : State) (loc : Nat) (r : Reg) (inst v : Nat) : (wr s loc r inst v).seqs = s.seqs := rfl
@[simp] theorem wr_lastCts (s : State) (loc : Nat) (r : Reg) (inst v : Nat) :
    (wr s loc r inst v).lastCts = s.lastCts := rfl
@[simp] theorem wr_hdrs (s : State) (loc : Nat) (r : Reg) (inst v : Nat) : (wr s loc r inst v).hdrs = s.hdrs := rfl
@[simp] theorem wr_banks (s : State) (loc : Nat) (r : Reg) (inst v : Nat) : (wr s loc r inst v).banks = s.banks := rfl
@[simp] theorem wr_cycSel (s : State) (loc : Nat) (r : Reg) (inst v : Nat) :
    (wr s loc r inst v).cycSel = s.cycSel := rfl
@[simp] theorem wr_cycVal (s : State) (loc : Nat) (r : Reg) (inst v : Nat) :
    (wr s loc r inst v).cycVal = s.cycVal := rfl
@[simp] theorem wr_cycSeen (s : State) (loc : Nat) (r : Reg) (inst v : Nat) :
    (wr s loc r inst v).cycSeen = s.cycSeen := rfl
@[simp] theorem wr_mem (s : State) (loc : Nat) (r : Reg) (inst v : Nat) : (wr s loc r inst v).mem = s.mem := rfl
@[simp] theorem wr_msis (s : State) (loc : Nat) (r : Reg) (inst v : Nat) : (wr s loc r inst v).msis = s.msis := rfl
@[simp] theorem wr_files (s : State) (loc : Nat) (r : Reg) (inst v : Nat) : (wr s loc r inst v).files = s.files := rfl
@[simp] theorem wr_timers (s : State) (loc : Nat) (r : Reg) (inst v : Nat) :
    (wr s loc r inst v).timers = s.timers := rfl
@[simp] theorem wr_compares (s : State) (loc : Nat) (r : Reg) (inst v : Nat) :
    (wr s loc r inst v).compares = s.compares := rfl
@[simp] theorem wr_starts (s : State) (loc : Nat) (r : Reg) (inst v : Nat) :
    (wr s loc r inst v).starts = s.starts := rfl
@[simp] theorem wr_rst (s : State) (loc : Nat) (r : Reg) (inst v : Nat) : (wr s loc r inst v).rst = s.rst := rfl
@[simp] theorem wr_links (s : State) (loc : Nat) (r : Reg) (inst v : Nat) : (wr s loc r inst v).links = s.links := rfl
@[simp] theorem wr_recs (s : State) (loc : Nat) (r : Reg) (inst v : Nat) : (wr s loc r inst v).recs = s.recs := rfl
@[simp] theorem wr_upAt (s : State) (loc : Nat) (r : Reg) (inst v : Nat) : (wr s loc r inst v).upAt = s.upAt := rfl
@[simp] theorem wr_kept (s : State) (loc : Nat) (r : Reg) (inst v : Nat) : (wr s loc r inst v).kept = s.kept := rfl

/-! ### wrB -/

@[simp] theorem wrB_pending (s : State) (loc : Nat) (r : Reg) (ini v : Nat) :
    (wrB s loc r ini v).pending = s.pending := rfl
@[simp] theorem wrB_variant (s : State) (loc : Nat) (r : Reg) (ini v : Nat) :
    (wrB s loc r ini v).variant = s.variant := rfl
@[simp] theorem wrB_now (s : State) (loc : Nat) (r : Reg) (ini v : Nat) : (wrB s loc r ini v).now = s.now := rfl
@[simp] theorem wrB_resp (s : State) (loc : Nat) (r : Reg) (ini v : Nat) : (wrB s loc r ini v).resp = s.resp := rfl
@[simp] theorem wrB_free (s : State) (loc : Nat) (r : Reg) (ini v : Nat) : (wrB s loc r ini v).free = s.free := rfl
@[simp] theorem wrB_cause (s : State) (loc : Nat) (r : Reg) (ini v : Nat) : (wrB s loc r ini v).cause = s.cause := rfl
@[simp] theorem wrB_ctrs (s : State) (loc : Nat) (r : Reg) (ini v : Nat) : (wrB s loc r ini v).ctrs = s.ctrs := rfl
@[simp] theorem wrB_seqs (s : State) (loc : Nat) (r : Reg) (ini v : Nat) : (wrB s loc r ini v).seqs = s.seqs := rfl
@[simp] theorem wrB_lastCts (s : State) (loc : Nat) (r : Reg) (ini v : Nat) :
    (wrB s loc r ini v).lastCts = s.lastCts := rfl
@[simp] theorem wrB_hdrs (s : State) (loc : Nat) (r : Reg) (ini v : Nat) : (wrB s loc r ini v).hdrs = s.hdrs := rfl
@[simp] theorem wrB_banks (s : State) (loc : Nat) (r : Reg) (ini v : Nat) : (wrB s loc r ini v).banks = s.banks := rfl
@[simp] theorem wrB_cycSel (s : State) (loc : Nat) (r : Reg) (ini v : Nat) :
    (wrB s loc r ini v).cycSel = s.cycSel := rfl
@[simp] theorem wrB_cycVal (s : State) (loc : Nat) (r : Reg) (ini v : Nat) :
    (wrB s loc r ini v).cycVal = s.cycVal := rfl
@[simp] theorem wrB_cycSeen (s : State) (loc : Nat) (r : Reg) (ini v : Nat) :
    (wrB s loc r ini v).cycSeen = s.cycSeen := rfl
@[simp] theorem wrB_mem (s : State) (loc : Nat) (r : Reg) (ini v : Nat) : (wrB s loc r ini v).mem = s.mem := rfl
@[simp] theorem wrB_msis (s : State) (loc : Nat) (r : Reg) (ini v : Nat) : (wrB s loc r ini v).msis = s.msis := rfl
@[simp] theorem wrB_files (s : State) (loc : Nat) (r : Reg) (ini v : Nat) : (wrB s loc r ini v).files = s.files := rfl
@[simp] theorem wrB_timers (s : State) (loc : Nat) (r : Reg) (ini v : Nat) :
    (wrB s loc r ini v).timers = s.timers := rfl
@[simp] theorem wrB_compares (s : State) (loc : Nat) (r : Reg) (ini v : Nat) :
    (wrB s loc r ini v).compares = s.compares := rfl
@[simp] theorem wrB_starts (s : State) (loc : Nat) (r : Reg) (ini v : Nat) :
    (wrB s loc r ini v).starts = s.starts := rfl
@[simp] theorem wrB_rst (s : State) (loc : Nat) (r : Reg) (ini v : Nat) : (wrB s loc r ini v).rst = s.rst := rfl
@[simp] theorem wrB_links (s : State) (loc : Nat) (r : Reg) (ini v : Nat) : (wrB s loc r ini v).links = s.links := rfl
@[simp] theorem wrB_recs (s : State) (loc : Nat) (r : Reg) (ini v : Nat) : (wrB s loc r ini v).recs = s.recs := rfl
@[simp] theorem wrB_upAt (s : State) (loc : Nat) (r : Reg) (ini v : Nat) : (wrB s loc r ini v).upAt = s.upAt := rfl
@[simp] theorem wrB_kept (s : State) (loc : Nat) (r : Reg) (ini v : Nat) : (wrB s loc r ini v).kept = s.kept := rfl

/-! ### incr -/

@[simp] theorem incr_pending (s : State) (loc : Nat) (r : Reg) (inst k : Nat) :
    (incr s loc r inst k).pending = s.pending := rfl
@[simp] theorem incr_variant (s : State) (loc : Nat) (r : Reg) (inst k : Nat) :
    (incr s loc r inst k).variant = s.variant := rfl
@[simp] theorem incr_now (s : State) (loc : Nat) (r : Reg) (inst k : Nat) : (incr s loc r inst k).now = s.now := rfl
@[simp] theorem incr_resp (s : State) (loc : Nat) (r : Reg) (inst k : Nat) :
    (incr s loc r inst k).resp = s.resp := rfl
@[simp] theorem incr_free (s : State) (loc : Nat) (r : Reg) (inst k : Nat) :
    (incr s loc r inst k).free = s.free := rfl
@[simp] theorem incr_cause (s : State) (loc : Nat) (r : Reg) (inst k : Nat) :
    (incr s loc r inst k).cause = s.cause := rfl
@[simp] theorem incr_ctrs (s : State) (loc : Nat) (r : Reg) (inst k : Nat) :
    (incr s loc r inst k).ctrs = s.ctrs := rfl
@[simp] theorem incr_seqs (s : State) (loc : Nat) (r : Reg) (inst k : Nat) :
    (incr s loc r inst k).seqs = s.seqs := rfl
@[simp] theorem incr_lastCts (s : State) (loc : Nat) (r : Reg) (inst k : Nat) :
    (incr s loc r inst k).lastCts = s.lastCts := rfl
@[simp] theorem incr_hdrs (s : State) (loc : Nat) (r : Reg) (inst k : Nat) :
    (incr s loc r inst k).hdrs = s.hdrs := rfl
@[simp] theorem incr_banks (s : State) (loc : Nat) (r : Reg) (inst k : Nat) :
    (incr s loc r inst k).banks = s.banks := rfl
@[simp] theorem incr_cycSel (s : State) (loc : Nat) (r : Reg) (inst k : Nat) :
    (incr s loc r inst k).cycSel = s.cycSel := rfl
@[simp] theorem incr_cycVal (s : State) (loc : Nat) (r : Reg) (inst k : Nat) :
    (incr s loc r inst k).cycVal = s.cycVal := rfl
@[simp] theorem incr_cycSeen (s : State) (loc : Nat) (r : Reg) (inst k : Nat) :
    (incr s loc r inst k).cycSeen = s.cycSeen := rfl
@[simp] theorem incr_mem (s : State) (loc : Nat) (r : Reg) (inst k : Nat) : (incr s loc r inst k).mem = s.mem := rfl
@[simp] theorem incr_msis (s : State) (loc : Nat) (r : Reg) (inst k : Nat) :
    (incr s loc r inst k).msis = s.msis := rfl
@[simp] theorem incr_files (s : State) (loc : Nat) (r : Reg) (inst k : Nat) :
    (incr s loc r inst k).files = s.files := rfl
@[simp] theorem incr_timers (s : State) (loc : Nat) (r : Reg) (inst k : Nat) :
    (incr s loc r inst k).timers = s.timers := rfl
@[simp] theorem incr_compares (s : State) (loc : Nat) (r : Reg) (inst k : Nat) :
    (incr s loc r inst k).compares = s.compares := rfl
@[simp] theorem incr_starts (s : State) (loc : Nat) (r : Reg) (inst k : Nat) :
    (incr s loc r inst k).starts = s.starts := rfl
@[simp] theorem incr_rst (s : State) (loc : Nat) (r : Reg) (inst k : Nat) : (incr s loc r inst k).rst = s.rst := rfl
@[simp] theorem incr_links (s : State) (loc : Nat) (r : Reg) (inst k : Nat) :
    (incr s loc r inst k).links = s.links := rfl
@[simp] theorem incr_recs (s : State) (loc : Nat) (r : Reg) (inst k : Nat) :
    (incr s loc r inst k).recs = s.recs := rfl
@[simp] theorem incr_upAt (s : State) (loc : Nat) (r : Reg) (inst k : Nat) :
    (incr s loc r inst k).upAt = s.upAt := rfl
@[simp] theorem incr_kept (s : State) (loc : Nat) (r : Reg) (inst k : Nat) :
    (incr s loc r inst k).kept = s.kept := rfl

/-! ### setHdr -/

@[simp] theorem setHdr_pending (s : State) (loc : Nat) (b : Block) (h : Hdr) :
    (setHdr s loc b h).pending = s.pending := rfl
@[simp] theorem setHdr_variant (s : State) (loc : Nat) (b : Block) (h : Hdr) :
    (setHdr s loc b h).variant = s.variant := rfl
@[simp] theorem setHdr_now (s : State) (loc : Nat) (b : Block) (h : Hdr) : (setHdr s loc b h).now = s.now := rfl
@[simp] theorem setHdr_resp (s : State) (loc : Nat) (b : Block) (h : Hdr) : (setHdr s loc b h).resp = s.resp := rfl
@[simp] theorem setHdr_free (s : State) (loc : Nat) (b : Block) (h : Hdr) : (setHdr s loc b h).free = s.free := rfl
@[simp] theorem setHdr_cause (s : State) (loc : Nat) (b : Block) (h : Hdr) : (setHdr s loc b h).cause = s.cause := rfl
@[simp] theorem setHdr_ctrs (s : State) (loc : Nat) (b : Block) (h : Hdr) : (setHdr s loc b h).ctrs = s.ctrs := rfl
@[simp] theorem setHdr_seqs (s : State) (loc : Nat) (b : Block) (h : Hdr) : (setHdr s loc b h).seqs = s.seqs := rfl
@[simp] theorem setHdr_lastCts (s : State) (loc : Nat) (b : Block) (h : Hdr) :
    (setHdr s loc b h).lastCts = s.lastCts := rfl
@[simp] theorem setHdr_regs (s : State) (loc : Nat) (b : Block) (h : Hdr) : (setHdr s loc b h).regs = s.regs := rfl
@[simp] theorem setHdr_banks (s : State) (loc : Nat) (b : Block) (h : Hdr) : (setHdr s loc b h).banks = s.banks := rfl
@[simp] theorem setHdr_cycSel (s : State) (loc : Nat) (b : Block) (h : Hdr) :
    (setHdr s loc b h).cycSel = s.cycSel := rfl
@[simp] theorem setHdr_cycVal (s : State) (loc : Nat) (b : Block) (h : Hdr) :
    (setHdr s loc b h).cycVal = s.cycVal := rfl
@[simp] theorem setHdr_cycSeen (s : State) (loc : Nat) (b : Block) (h : Hdr) :
    (setHdr s loc b h).cycSeen = s.cycSeen := rfl
@[simp] theorem setHdr_mem (s : State) (loc : Nat) (b : Block) (h : Hdr) : (setHdr s loc b h).mem = s.mem := rfl
@[simp] theorem setHdr_msis (s : State) (loc : Nat) (b : Block) (h : Hdr) : (setHdr s loc b h).msis = s.msis := rfl
@[simp] theorem setHdr_files (s : State) (loc : Nat) (b : Block) (h : Hdr) : (setHdr s loc b h).files = s.files := rfl
@[simp] theorem setHdr_timers (s : State) (loc : Nat) (b : Block) (h : Hdr) :
    (setHdr s loc b h).timers = s.timers := rfl
@[simp] theorem setHdr_compares (s : State) (loc : Nat) (b : Block) (h : Hdr) :
    (setHdr s loc b h).compares = s.compares := rfl
@[simp] theorem setHdr_starts (s : State) (loc : Nat) (b : Block) (h : Hdr) :
    (setHdr s loc b h).starts = s.starts := rfl
@[simp] theorem setHdr_rst (s : State) (loc : Nat) (b : Block) (h : Hdr) : (setHdr s loc b h).rst = s.rst := rfl
@[simp] theorem setHdr_links (s : State) (loc : Nat) (b : Block) (h : Hdr) : (setHdr s loc b h).links = s.links := rfl
@[simp] theorem setHdr_recs (s : State) (loc : Nat) (b : Block) (h : Hdr) : (setHdr s loc b h).recs = s.recs := rfl
@[simp] theorem setHdr_upAt (s : State) (loc : Nat) (b : Block) (h : Hdr) : (setHdr s loc b h).upAt = s.upAt := rfl
@[simp] theorem setHdr_kept (s : State) (loc : Nat) (b : Block) (h : Hdr) : (setHdr s loc b h).kept = s.kept := rfl

/-! ### setStatus -/

@[simp] theorem setStatus_pending (s : State) (loc : Nat) (b : Block) (v : Nat) :
    (setStatus s loc b v).pending = s.pending := rfl
@[simp] theorem setStatus_variant (s : State) (loc : Nat) (b : Block) (v : Nat) :
    (setStatus s loc b v).variant = s.variant := rfl
@[simp] theorem setStatus_now (s : State) (loc : Nat) (b : Block) (v : Nat) : (setStatus s loc b v).now = s.now := rfl
@[simp] theorem setStatus_resp (s : State) (loc : Nat) (b : Block) (v : Nat) :
    (setStatus s loc b v).resp = s.resp := rfl
@[simp] theorem setStatus_free (s : State) (loc : Nat) (b : Block) (v : Nat) :
    (setStatus s loc b v).free = s.free := rfl
@[simp] theorem setStatus_cause (s : State) (loc : Nat) (b : Block) (v : Nat) :
    (setStatus s loc b v).cause = s.cause := rfl
@[simp] theorem setStatus_ctrs (s : State) (loc : Nat) (b : Block) (v : Nat) :
    (setStatus s loc b v).ctrs = s.ctrs := rfl
@[simp] theorem setStatus_seqs (s : State) (loc : Nat) (b : Block) (v : Nat) :
    (setStatus s loc b v).seqs = s.seqs := rfl
@[simp] theorem setStatus_lastCts (s : State) (loc : Nat) (b : Block) (v : Nat) :
    (setStatus s loc b v).lastCts = s.lastCts := rfl
@[simp] theorem setStatus_regs (s : State) (loc : Nat) (b : Block) (v : Nat) :
    (setStatus s loc b v).regs = s.regs := rfl
@[simp] theorem setStatus_banks (s : State) (loc : Nat) (b : Block) (v : Nat) :
    (setStatus s loc b v).banks = s.banks := rfl
@[simp] theorem setStatus_cycSel (s : State) (loc : Nat) (b : Block) (v : Nat) :
    (setStatus s loc b v).cycSel = s.cycSel := rfl
@[simp] theorem setStatus_cycVal (s : State) (loc : Nat) (b : Block) (v : Nat) :
    (setStatus s loc b v).cycVal = s.cycVal := rfl
@[simp] theorem setStatus_cycSeen (s : State) (loc : Nat) (b : Block) (v : Nat) :
    (setStatus s loc b v).cycSeen = s.cycSeen := rfl
@[simp] theorem setStatus_mem (s : State) (loc : Nat) (b : Block) (v : Nat) : (setStatus s loc b v).mem = s.mem := rfl
@[simp] theorem setStatus_msis (s : State) (loc : Nat) (b : Block) (v : Nat) :
    (setStatus s loc b v).msis = s.msis := rfl
@[simp] theorem setStatus_files (s : State) (loc : Nat) (b : Block) (v : Nat) :
    (setStatus s loc b v).files = s.files := rfl
@[simp] theorem setStatus_timers (s : State) (loc : Nat) (b : Block) (v : Nat) :
    (setStatus s loc b v).timers = s.timers := rfl
@[simp] theorem setStatus_compares (s : State) (loc : Nat) (b : Block) (v : Nat) :
    (setStatus s loc b v).compares = s.compares := rfl
@[simp] theorem setStatus_starts (s : State) (loc : Nat) (b : Block) (v : Nat) :
    (setStatus s loc b v).starts = s.starts := rfl
@[simp] theorem setStatus_rst (s : State) (loc : Nat) (b : Block) (v : Nat) : (setStatus s loc b v).rst = s.rst := rfl
@[simp] theorem setStatus_links (s : State) (loc : Nat) (b : Block) (v : Nat) :
    (setStatus s loc b v).links = s.links := rfl
@[simp] theorem setStatus_recs (s : State) (loc : Nat) (b : Block) (v : Nat) :
    (setStatus s loc b v).recs = s.recs := rfl
@[simp] theorem setStatus_upAt (s : State) (loc : Nat) (b : Block) (v : Nat) :
    (setStatus s loc b v).upAt = s.upAt := rfl
@[simp] theorem setStatus_kept (s : State) (loc : Nat) (b : Block) (v : Nat) :
    (setStatus s loc b v).kept = s.kept := rfl

/-! ### setBank -/

@[simp] theorem setBank_pending (s : State) (loc : Nat) (b : Block) (ini : Nat) (k : Bank) :
    (setBank s loc b ini k).pending = s.pending := rfl
@[simp] theorem setBank_variant (s : State) (loc : Nat) (b : Block) (ini : Nat) (k : Bank) :
    (setBank s loc b ini k).variant = s.variant := rfl
@[simp] theorem setBank_now (s : State) (loc : Nat) (b : Block) (ini : Nat) (k : Bank) :
    (setBank s loc b ini k).now = s.now := rfl
@[simp] theorem setBank_resp (s : State) (loc : Nat) (b : Block) (ini : Nat) (k : Bank) :
    (setBank s loc b ini k).resp = s.resp := rfl
@[simp] theorem setBank_free (s : State) (loc : Nat) (b : Block) (ini : Nat) (k : Bank) :
    (setBank s loc b ini k).free = s.free := rfl
@[simp] theorem setBank_cause (s : State) (loc : Nat) (b : Block) (ini : Nat) (k : Bank) :
    (setBank s loc b ini k).cause = s.cause := rfl
@[simp] theorem setBank_ctrs (s : State) (loc : Nat) (b : Block) (ini : Nat) (k : Bank) :
    (setBank s loc b ini k).ctrs = s.ctrs := rfl
@[simp] theorem setBank_seqs (s : State) (loc : Nat) (b : Block) (ini : Nat) (k : Bank) :
    (setBank s loc b ini k).seqs = s.seqs := rfl
@[simp] theorem setBank_lastCts (s : State) (loc : Nat) (b : Block) (ini : Nat) (k : Bank) :
    (setBank s loc b ini k).lastCts = s.lastCts := rfl
@[simp] theorem setBank_regs (s : State) (loc : Nat) (b : Block) (ini : Nat) (k : Bank) :
    (setBank s loc b ini k).regs = s.regs := rfl
@[simp] theorem setBank_hdrs (s : State) (loc : Nat) (b : Block) (ini : Nat) (k : Bank) :
    (setBank s loc b ini k).hdrs = s.hdrs := rfl
@[simp] theorem setBank_cycSel (s : State) (loc : Nat) (b : Block) (ini : Nat) (k : Bank) :
    (setBank s loc b ini k).cycSel = s.cycSel := rfl
@[simp] theorem setBank_cycVal (s : State) (loc : Nat) (b : Block) (ini : Nat) (k : Bank) :
    (setBank s loc b ini k).cycVal = s.cycVal := rfl
@[simp] theorem setBank_cycSeen (s : State) (loc : Nat) (b : Block) (ini : Nat) (k : Bank) :
    (setBank s loc b ini k).cycSeen = s.cycSeen := rfl
@[simp] theorem setBank_mem (s : State) (loc : Nat) (b : Block) (ini : Nat) (k : Bank) :
    (setBank s loc b ini k).mem = s.mem := rfl
@[simp] theorem setBank_msis (s : State) (loc : Nat) (b : Block) (ini : Nat) (k : Bank) :
    (setBank s loc b ini k).msis = s.msis := rfl
@[simp] theorem setBank_files (s : State) (loc : Nat) (b : Block) (ini : Nat) (k : Bank) :
    (setBank s loc b ini k).files = s.files := rfl
@[simp] theorem setBank_timers (s : State) (loc : Nat) (b : Block) (ini : Nat) (k : Bank) :
    (setBank s loc b ini k).timers = s.timers := rfl
@[simp] theorem setBank_compares (s : State) (loc : Nat) (b : Block) (ini : Nat) (k : Bank) :
    (setBank s loc b ini k).compares = s.compares := rfl
@[simp] theorem setBank_starts (s : State) (loc : Nat) (b : Block) (ini : Nat) (k : Bank) :
    (setBank s loc b ini k).starts = s.starts := rfl
@[simp] theorem setBank_rst (s : State) (loc : Nat) (b : Block) (ini : Nat) (k : Bank) :
    (setBank s loc b ini k).rst = s.rst := rfl
@[simp] theorem setBank_links (s : State) (loc : Nat) (b : Block) (ini : Nat) (k : Bank) :
    (setBank s loc b ini k).links = s.links := rfl
@[simp] theorem setBank_recs (s : State) (loc : Nat) (b : Block) (ini : Nat) (k : Bank) :
    (setBank s loc b ini k).recs = s.recs := rfl
@[simp] theorem setBank_upAt (s : State) (loc : Nat) (b : Block) (ini : Nat) (k : Bank) :
    (setBank s loc b ini k).upAt = s.upAt := rfl
@[simp] theorem setBank_kept (s : State) (loc : Nat) (b : Block) (ini : Nat) (k : Bank) :
    (setBank s loc b ini k).kept = s.kept := rfl

/-! ### writeBytes -/

@[simp] theorem writeBytes_pending (s : State) (a : Nat) (bs : List Byte) :
    (writeBytes s a bs).pending = s.pending := rfl
@[simp] theorem writeBytes_variant (s : State) (a : Nat) (bs : List Byte) :
    (writeBytes s a bs).variant = s.variant := rfl
@[simp] theorem writeBytes_now (s : State) (a : Nat) (bs : List Byte) : (writeBytes s a bs).now = s.now := rfl
@[simp] theorem writeBytes_resp (s : State) (a : Nat) (bs : List Byte) : (writeBytes s a bs).resp = s.resp := rfl
@[simp] theorem writeBytes_free (s : State) (a : Nat) (bs : List Byte) : (writeBytes s a bs).free = s.free := rfl
@[simp] theorem writeBytes_cause (s : State) (a : Nat) (bs : List Byte) : (writeBytes s a bs).cause = s.cause := rfl
@[simp] theorem writeBytes_ctrs (s : State) (a : Nat) (bs : List Byte) : (writeBytes s a bs).ctrs = s.ctrs := rfl
@[simp] theorem writeBytes_seqs (s : State) (a : Nat) (bs : List Byte) : (writeBytes s a bs).seqs = s.seqs := rfl
@[simp] theorem writeBytes_lastCts (s : State) (a : Nat) (bs : List Byte) :
    (writeBytes s a bs).lastCts = s.lastCts := rfl
@[simp] theorem writeBytes_regs (s : State) (a : Nat) (bs : List Byte) : (writeBytes s a bs).regs = s.regs := rfl
@[simp] theorem writeBytes_hdrs (s : State) (a : Nat) (bs : List Byte) : (writeBytes s a bs).hdrs = s.hdrs := rfl
@[simp] theorem writeBytes_banks (s : State) (a : Nat) (bs : List Byte) : (writeBytes s a bs).banks = s.banks := rfl
@[simp] theorem writeBytes_cycSel (s : State) (a : Nat) (bs : List Byte) :
    (writeBytes s a bs).cycSel = s.cycSel := rfl
@[simp] theorem writeBytes_cycVal (s : State) (a : Nat) (bs : List Byte) :
    (writeBytes s a bs).cycVal = s.cycVal := rfl
@[simp] theorem writeBytes_cycSeen (s : State) (a : Nat) (bs : List Byte) :
    (writeBytes s a bs).cycSeen = s.cycSeen := rfl
@[simp] theorem writeBytes_msis (s : State) (a : Nat) (bs : List Byte) : (writeBytes s a bs).msis = s.msis := rfl
@[simp] theorem writeBytes_files (s : State) (a : Nat) (bs : List Byte) : (writeBytes s a bs).files = s.files := rfl
@[simp] theorem writeBytes_timers (s : State) (a : Nat) (bs : List Byte) :
    (writeBytes s a bs).timers = s.timers := rfl
@[simp] theorem writeBytes_compares (s : State) (a : Nat) (bs : List Byte) :
    (writeBytes s a bs).compares = s.compares := rfl
@[simp] theorem writeBytes_starts (s : State) (a : Nat) (bs : List Byte) :
    (writeBytes s a bs).starts = s.starts := rfl
@[simp] theorem writeBytes_rst (s : State) (a : Nat) (bs : List Byte) : (writeBytes s a bs).rst = s.rst := rfl
@[simp] theorem writeBytes_links (s : State) (a : Nat) (bs : List Byte) : (writeBytes s a bs).links = s.links := rfl
@[simp] theorem writeBytes_recs (s : State) (a : Nat) (bs : List Byte) : (writeBytes s a bs).recs = s.recs := rfl
@[simp] theorem writeBytes_upAt (s : State) (a : Nat) (bs : List Byte) : (writeBytes s a bs).upAt = s.upAt := rfl
@[simp] theorem writeBytes_kept (s : State) (a : Nat) (bs : List Byte) : (writeBytes s a bs).kept = s.kept := rfl

/-! ### tickSrc -/

@[simp] theorem tickSrc_pending (s : State) (die src : Nat) : (tickSrc s die src).pending = s.pending := rfl
@[simp] theorem tickSrc_variant (s : State) (die src : Nat) : (tickSrc s die src).variant = s.variant := rfl
@[simp] theorem tickSrc_now (s : State) (die src : Nat) : (tickSrc s die src).now = s.now := rfl
@[simp] theorem tickSrc_resp (s : State) (die src : Nat) : (tickSrc s die src).resp = s.resp := rfl
@[simp] theorem tickSrc_free (s : State) (die src : Nat) : (tickSrc s die src).free = s.free := rfl
@[simp] theorem tickSrc_cause (s : State) (die src : Nat) : (tickSrc s die src).cause = s.cause := rfl
@[simp] theorem tickSrc_ctrs (s : State) (die src : Nat) : (tickSrc s die src).ctrs = s.ctrs := rfl
@[simp] theorem tickSrc_regs (s : State) (die src : Nat) : (tickSrc s die src).regs = s.regs := rfl
@[simp] theorem tickSrc_hdrs (s : State) (die src : Nat) : (tickSrc s die src).hdrs = s.hdrs := rfl
@[simp] theorem tickSrc_banks (s : State) (die src : Nat) : (tickSrc s die src).banks = s.banks := rfl
@[simp] theorem tickSrc_cycSel (s : State) (die src : Nat) : (tickSrc s die src).cycSel = s.cycSel := rfl
@[simp] theorem tickSrc_cycVal (s : State) (die src : Nat) : (tickSrc s die src).cycVal = s.cycVal := rfl
@[simp] theorem tickSrc_cycSeen (s : State) (die src : Nat) : (tickSrc s die src).cycSeen = s.cycSeen := rfl
@[simp] theorem tickSrc_mem (s : State) (die src : Nat) : (tickSrc s die src).mem = s.mem := rfl
@[simp] theorem tickSrc_msis (s : State) (die src : Nat) : (tickSrc s die src).msis = s.msis := rfl
@[simp] theorem tickSrc_files (s : State) (die src : Nat) : (tickSrc s die src).files = s.files := rfl
@[simp] theorem tickSrc_timers (s : State) (die src : Nat) : (tickSrc s die src).timers = s.timers := rfl
@[simp] theorem tickSrc_compares (s : State) (die src : Nat) : (tickSrc s die src).compares = s.compares := rfl
@[simp] theorem tickSrc_starts (s : State) (die src : Nat) : (tickSrc s die src).starts = s.starts := rfl
@[simp] theorem tickSrc_rst (s : State) (die src : Nat) : (tickSrc s die src).rst = s.rst := rfl
@[simp] theorem tickSrc_links (s : State) (die src : Nat) : (tickSrc s die src).links = s.links := rfl
@[simp] theorem tickSrc_recs (s : State) (die src : Nat) : (tickSrc s die src).recs = s.recs := rfl
@[simp] theorem tickSrc_upAt (s : State) (die src : Nat) : (tickSrc s die src).upAt = s.upAt := rfl
@[simp] theorem tickSrc_kept (s : State) (die src : Nat) : (tickSrc s die src).kept = s.kept := rfl

/-! ### tickPage -/

@[simp] theorem tickPage_pending (s : State) (loc : Nat) (b : Block) : (tickPage s loc b).pending = s.pending := rfl
@[simp] theorem tickPage_variant (s : State) (loc : Nat) (b : Block) : (tickPage s loc b).variant = s.variant := rfl
@[simp] theorem tickPage_now (s : State) (loc : Nat) (b : Block) : (tickPage s loc b).now = s.now := rfl
@[simp] theorem tickPage_resp (s : State) (loc : Nat) (b : Block) : (tickPage s loc b).resp = s.resp := rfl
@[simp] theorem tickPage_free (s : State) (loc : Nat) (b : Block) : (tickPage s loc b).free = s.free := rfl
@[simp] theorem tickPage_cause (s : State) (loc : Nat) (b : Block) : (tickPage s loc b).cause = s.cause := rfl
@[simp] theorem tickPage_ctrs (s : State) (loc : Nat) (b : Block) : (tickPage s loc b).ctrs = s.ctrs := rfl
@[simp] theorem tickPage_regs (s : State) (loc : Nat) (b : Block) : (tickPage s loc b).regs = s.regs := rfl
@[simp] theorem tickPage_hdrs (s : State) (loc : Nat) (b : Block) : (tickPage s loc b).hdrs = s.hdrs := rfl
@[simp] theorem tickPage_banks (s : State) (loc : Nat) (b : Block) : (tickPage s loc b).banks = s.banks := rfl
@[simp] theorem tickPage_cycSel (s : State) (loc : Nat) (b : Block) : (tickPage s loc b).cycSel = s.cycSel := rfl
@[simp] theorem tickPage_cycVal (s : State) (loc : Nat) (b : Block) : (tickPage s loc b).cycVal = s.cycVal := rfl
@[simp] theorem tickPage_cycSeen (s : State) (loc : Nat) (b : Block) : (tickPage s loc b).cycSeen = s.cycSeen := rfl
@[simp] theorem tickPage_mem (s : State) (loc : Nat) (b : Block) : (tickPage s loc b).mem = s.mem := rfl
@[simp] theorem tickPage_msis (s : State) (loc : Nat) (b : Block) : (tickPage s loc b).msis = s.msis := rfl
@[simp] theorem tickPage_files (s : State) (loc : Nat) (b : Block) : (tickPage s loc b).files = s.files := rfl
@[simp] theorem tickPage_timers (s : State) (loc : Nat) (b : Block) : (tickPage s loc b).timers = s.timers := rfl
@[simp] theorem tickPage_compares (s : State) (loc : Nat) (b : Block) :
    (tickPage s loc b).compares = s.compares := rfl
@[simp] theorem tickPage_starts (s : State) (loc : Nat) (b : Block) : (tickPage s loc b).starts = s.starts := rfl
@[simp] theorem tickPage_rst (s : State) (loc : Nat) (b : Block) : (tickPage s loc b).rst = s.rst := rfl
@[simp] theorem tickPage_links (s : State) (loc : Nat) (b : Block) : (tickPage s loc b).links = s.links := rfl
@[simp] theorem tickPage_recs (s : State) (loc : Nat) (b : Block) : (tickPage s loc b).recs = s.recs := rfl
@[simp] theorem tickPage_upAt (s : State) (loc : Nat) (b : Block) : (tickPage s loc b).upAt = s.upAt := rfl
@[simp] theorem tickPage_kept (s : State) (loc : Nat) (b : Block) : (tickPage s loc b).kept = s.kept := rfl

/-! ### tookStamp -/

@[simp] theorem tookStamp_pending (s : State) (die key cause : Nat) :
    (tookStamp s die key cause).pending = s.pending := rfl
@[simp] theorem tookStamp_variant (s : State) (die key cause : Nat) :
    (tookStamp s die key cause).variant = s.variant := rfl
@[simp] theorem tookStamp_now (s : State) (die key cause : Nat) : (tookStamp s die key cause).now = s.now := rfl
@[simp] theorem tookStamp_resp (s : State) (die key cause : Nat) : (tookStamp s die key cause).resp = s.resp := rfl
@[simp] theorem tookStamp_free (s : State) (die key cause : Nat) : (tookStamp s die key cause).free = s.free := rfl
@[simp] theorem tookStamp_cause (s : State) (die key cause : Nat) : (tookStamp s die key cause).cause = s.cause := rfl
@[simp] theorem tookStamp_ctrs (s : State) (die key cause : Nat) : (tookStamp s die key cause).ctrs = s.ctrs := rfl
@[simp] theorem tookStamp_regs (s : State) (die key cause : Nat) : (tookStamp s die key cause).regs = s.regs := rfl
@[simp] theorem tookStamp_hdrs (s : State) (die key cause : Nat) : (tookStamp s die key cause).hdrs = s.hdrs := rfl
@[simp] theorem tookStamp_banks (s : State) (die key cause : Nat) : (tookStamp s die key cause).banks = s.banks := rfl
@[simp] theorem tookStamp_cycSel (s : State) (die key cause : Nat) :
    (tookStamp s die key cause).cycSel = s.cycSel := rfl
@[simp] theorem tookStamp_cycVal (s : State) (die key cause : Nat) :
    (tookStamp s die key cause).cycVal = s.cycVal := rfl
@[simp] theorem tookStamp_cycSeen (s : State) (die key cause : Nat) :
    (tookStamp s die key cause).cycSeen = s.cycSeen := rfl
@[simp] theorem tookStamp_mem (s : State) (die key cause : Nat) : (tookStamp s die key cause).mem = s.mem := rfl
@[simp] theorem tookStamp_msis (s : State) (die key cause : Nat) : (tookStamp s die key cause).msis = s.msis := rfl
@[simp] theorem tookStamp_files (s : State) (die key cause : Nat) : (tookStamp s die key cause).files = s.files := rfl
@[simp] theorem tookStamp_timers (s : State) (die key cause : Nat) :
    (tookStamp s die key cause).timers = s.timers := rfl
@[simp] theorem tookStamp_compares (s : State) (die key cause : Nat) :
    (tookStamp s die key cause).compares = s.compares := rfl
@[simp] theorem tookStamp_starts (s : State) (die key cause : Nat) :
    (tookStamp s die key cause).starts = s.starts := rfl
@[simp] theorem tookStamp_rst (s : State) (die key cause : Nat) : (tookStamp s die key cause).rst = s.rst := rfl
@[simp] theorem tookStamp_links (s : State) (die key cause : Nat) : (tookStamp s die key cause).links = s.links := rfl
@[simp] theorem tookStamp_recs (s : State) (die key cause : Nat) : (tookStamp s die key cause).recs = s.recs := rfl
@[simp] theorem tookStamp_upAt (s : State) (die key cause : Nat) : (tookStamp s die key cause).upAt = s.upAt := rfl
@[simp] theorem tookStamp_kept (s : State) (die key cause : Nat) : (tookStamp s die key cause).kept = s.kept := rfl

/-! ### drew -/

@[simp] theorem drew_pending (s : State) : (drew s).pending = s.pending := rfl
@[simp] theorem drew_variant (s : State) : (drew s).variant = s.variant := rfl
@[simp] theorem drew_now (s : State) : (drew s).now = s.now := rfl
@[simp] theorem drew_resp (s : State) : (drew s).resp = s.resp := rfl
@[simp] theorem drew_cause (s : State) : (drew s).cause = s.cause := rfl
@[simp] theorem drew_ctrs (s : State) : (drew s).ctrs = s.ctrs := rfl
@[simp] theorem drew_seqs (s : State) : (drew s).seqs = s.seqs := rfl
@[simp] theorem drew_lastCts (s : State) : (drew s).lastCts = s.lastCts := rfl
@[simp] theorem drew_regs (s : State) : (drew s).regs = s.regs := rfl
@[simp] theorem drew_hdrs (s : State) : (drew s).hdrs = s.hdrs := rfl
@[simp] theorem drew_banks (s : State) : (drew s).banks = s.banks := rfl
@[simp] theorem drew_cycSel (s : State) : (drew s).cycSel = s.cycSel := rfl
@[simp] theorem drew_cycVal (s : State) : (drew s).cycVal = s.cycVal := rfl
@[simp] theorem drew_cycSeen (s : State) : (drew s).cycSeen = s.cycSeen := rfl
@[simp] theorem drew_mem (s : State) : (drew s).mem = s.mem := rfl
@[simp] theorem drew_msis (s : State) : (drew s).msis = s.msis := rfl
@[simp] theorem drew_files (s : State) : (drew s).files = s.files := rfl
@[simp] theorem drew_timers (s : State) : (drew s).timers = s.timers := rfl
@[simp] theorem drew_compares (s : State) : (drew s).compares = s.compares := rfl
@[simp] theorem drew_starts (s : State) : (drew s).starts = s.starts := rfl
@[simp] theorem drew_rst (s : State) : (drew s).rst = s.rst := rfl
@[simp] theorem drew_links (s : State) : (drew s).links = s.links := rfl
@[simp] theorem drew_recs (s : State) : (drew s).recs = s.recs := rfl
@[simp] theorem drew_upAt (s : State) : (drew s).upAt = s.upAt := rfl
@[simp] theorem drew_kept (s : State) : (drew s).kept = s.kept := rfl

/-! ### setRst -/

@[simp] theorem setRst_pending (s : State) (die : Nat) (r : ResetSt) : (setRst s die r).pending = s.pending := rfl
@[simp] theorem setRst_variant (s : State) (die : Nat) (r : ResetSt) : (setRst s die r).variant = s.variant := rfl
@[simp] theorem setRst_now (s : State) (die : Nat) (r : ResetSt) : (setRst s die r).now = s.now := rfl
@[simp] theorem setRst_resp (s : State) (die : Nat) (r : ResetSt) : (setRst s die r).resp = s.resp := rfl
@[simp] theorem setRst_free (s : State) (die : Nat) (r : ResetSt) : (setRst s die r).free = s.free := rfl
@[simp] theorem setRst_cause (s : State) (die : Nat) (r : ResetSt) : (setRst s die r).cause = s.cause := rfl
@[simp] theorem setRst_ctrs (s : State) (die : Nat) (r : ResetSt) : (setRst s die r).ctrs = s.ctrs := rfl
@[simp] theorem setRst_seqs (s : State) (die : Nat) (r : ResetSt) : (setRst s die r).seqs = s.seqs := rfl
@[simp] theorem setRst_lastCts (s : State) (die : Nat) (r : ResetSt) : (setRst s die r).lastCts = s.lastCts := rfl
@[simp] theorem setRst_regs (s : State) (die : Nat) (r : ResetSt) : (setRst s die r).regs = s.regs := rfl
@[simp] theorem setRst_hdrs (s : State) (die : Nat) (r : ResetSt) : (setRst s die r).hdrs = s.hdrs := rfl
@[simp] theorem setRst_banks (s : State) (die : Nat) (r : ResetSt) : (setRst s die r).banks = s.banks := rfl
@[simp] theorem setRst_cycSel (s : State) (die : Nat) (r : ResetSt) : (setRst s die r).cycSel = s.cycSel := rfl
@[simp] theorem setRst_cycVal (s : State) (die : Nat) (r : ResetSt) : (setRst s die r).cycVal = s.cycVal := rfl
@[simp] theorem setRst_cycSeen (s : State) (die : Nat) (r : ResetSt) : (setRst s die r).cycSeen = s.cycSeen := rfl
@[simp] theorem setRst_mem (s : State) (die : Nat) (r : ResetSt) : (setRst s die r).mem = s.mem := rfl
@[simp] theorem setRst_msis (s : State) (die : Nat) (r : ResetSt) : (setRst s die r).msis = s.msis := rfl
@[simp] theorem setRst_files (s : State) (die : Nat) (r : ResetSt) : (setRst s die r).files = s.files := rfl
@[simp] theorem setRst_timers (s : State) (die : Nat) (r : ResetSt) : (setRst s die r).timers = s.timers := rfl
@[simp] theorem setRst_compares (s : State) (die : Nat) (r : ResetSt) : (setRst s die r).compares = s.compares := rfl
@[simp] theorem setRst_starts (s : State) (die : Nat) (r : ResetSt) : (setRst s die r).starts = s.starts := rfl
@[simp] theorem setRst_links (s : State) (die : Nat) (r : ResetSt) : (setRst s die r).links = s.links := rfl
@[simp] theorem setRst_recs (s : State) (die : Nat) (r : ResetSt) : (setRst s die r).recs = s.recs := rfl
@[simp] theorem setRst_upAt (s : State) (die : Nat) (r : ResetSt) : (setRst s die r).upAt = s.upAt := rfl
@[simp] theorem setRst_kept (s : State) (die : Nat) (r : ResetSt) : (setRst s die r).kept = s.kept := rfl

/-! ### sendRec -/

@[simp] theorem sendRec_pending (s : State) (die : Nat) (r : Rec) : (sendRec s die r).pending = s.pending := rfl
@[simp] theorem sendRec_variant (s : State) (die : Nat) (r : Rec) : (sendRec s die r).variant = s.variant := rfl
@[simp] theorem sendRec_now (s : State) (die : Nat) (r : Rec) : (sendRec s die r).now = s.now := rfl
@[simp] theorem sendRec_resp (s : State) (die : Nat) (r : Rec) : (sendRec s die r).resp = s.resp := rfl
@[simp] theorem sendRec_free (s : State) (die : Nat) (r : Rec) : (sendRec s die r).free = s.free := rfl
@[simp] theorem sendRec_cause (s : State) (die : Nat) (r : Rec) : (sendRec s die r).cause = s.cause := rfl
@[simp] theorem sendRec_ctrs (s : State) (die : Nat) (r : Rec) : (sendRec s die r).ctrs = s.ctrs := rfl
@[simp] theorem sendRec_seqs (s : State) (die : Nat) (r : Rec) : (sendRec s die r).seqs = s.seqs := rfl
@[simp] theorem sendRec_lastCts (s : State) (die : Nat) (r : Rec) : (sendRec s die r).lastCts = s.lastCts := rfl
@[simp] theorem sendRec_regs (s : State) (die : Nat) (r : Rec) : (sendRec s die r).regs = s.regs := rfl
@[simp] theorem sendRec_hdrs (s : State) (die : Nat) (r : Rec) : (sendRec s die r).hdrs = s.hdrs := rfl
@[simp] theorem sendRec_banks (s : State) (die : Nat) (r : Rec) : (sendRec s die r).banks = s.banks := rfl
@[simp] theorem sendRec_cycSel (s : State) (die : Nat) (r : Rec) : (sendRec s die r).cycSel = s.cycSel := rfl
@[simp] theorem sendRec_cycVal (s : State) (die : Nat) (r : Rec) : (sendRec s die r).cycVal = s.cycVal := rfl
@[simp] theorem sendRec_cycSeen (s : State) (die : Nat) (r : Rec) : (sendRec s die r).cycSeen = s.cycSeen := rfl
@[simp] theorem sendRec_mem (s : State) (die : Nat) (r : Rec) : (sendRec s die r).mem = s.mem := rfl
@[simp] theorem sendRec_msis (s : State) (die : Nat) (r : Rec) : (sendRec s die r).msis = s.msis := rfl
@[simp] theorem sendRec_files (s : State) (die : Nat) (r : Rec) : (sendRec s die r).files = s.files := rfl
@[simp] theorem sendRec_timers (s : State) (die : Nat) (r : Rec) : (sendRec s die r).timers = s.timers := rfl
@[simp] theorem sendRec_compares (s : State) (die : Nat) (r : Rec) : (sendRec s die r).compares = s.compares := rfl
@[simp] theorem sendRec_starts (s : State) (die : Nat) (r : Rec) : (sendRec s die r).starts = s.starts := rfl
@[simp] theorem sendRec_rst (s : State) (die : Nat) (r : Rec) : (sendRec s die r).rst = s.rst := rfl
@[simp] theorem sendRec_links (s : State) (die : Nat) (r : Rec) : (sendRec s die r).links = s.links := rfl
@[simp] theorem sendRec_upAt (s : State) (die : Nat) (r : Rec) : (sendRec s die r).upAt = s.upAt := rfl
@[simp] theorem sendRec_kept (s : State) (die : Nat) (r : Rec) : (sendRec s die r).kept = s.kept := rfl

/-! ### respond -/

@[simp] theorem respond_pending (s : State) (v : Nat) : (respond s v).pending = s.pending := rfl
@[simp] theorem respond_variant (s : State) (v : Nat) : (respond s v).variant = s.variant := rfl
@[simp] theorem respond_now (s : State) (v : Nat) : (respond s v).now = s.now := rfl
@[simp] theorem respond_free (s : State) (v : Nat) : (respond s v).free = s.free := rfl
@[simp] theorem respond_cause (s : State) (v : Nat) : (respond s v).cause = s.cause := rfl
@[simp] theorem respond_ctrs (s : State) (v : Nat) : (respond s v).ctrs = s.ctrs := rfl
@[simp] theorem respond_seqs (s : State) (v : Nat) : (respond s v).seqs = s.seqs := rfl
@[simp] theorem respond_lastCts (s : State) (v : Nat) : (respond s v).lastCts = s.lastCts := rfl
@[simp] theorem respond_regs (s : State) (v : Nat) : (respond s v).regs = s.regs := rfl
@[simp] theorem respond_hdrs (s : State) (v : Nat) : (respond s v).hdrs = s.hdrs := rfl
@[simp] theorem respond_banks (s : State) (v : Nat) : (respond s v).banks = s.banks := rfl
@[simp] theorem respond_cycSel (s : State) (v : Nat) : (respond s v).cycSel = s.cycSel := rfl
@[simp] theorem respond_cycVal (s : State) (v : Nat) : (respond s v).cycVal = s.cycVal := rfl
@[simp] theorem respond_cycSeen (s : State) (v : Nat) : (respond s v).cycSeen = s.cycSeen := rfl
@[simp] theorem respond_mem (s : State) (v : Nat) : (respond s v).mem = s.mem := rfl
@[simp] theorem respond_msis (s : State) (v : Nat) : (respond s v).msis = s.msis := rfl
@[simp] theorem respond_files (s : State) (v : Nat) : (respond s v).files = s.files := rfl
@[simp] theorem respond_timers (s : State) (v : Nat) : (respond s v).timers = s.timers := rfl
@[simp] theorem respond_compares (s : State) (v : Nat) : (respond s v).compares = s.compares := rfl
@[simp] theorem respond_starts (s : State) (v : Nat) : (respond s v).starts = s.starts := rfl
@[simp] theorem respond_rst (s : State) (v : Nat) : (respond s v).rst = s.rst := rfl
@[simp] theorem respond_links (s : State) (v : Nat) : (respond s v).links = s.links := rfl
@[simp] theorem respond_recs (s : State) (v : Nat) : (respond s v).recs = s.recs := rfl
@[simp] theorem respond_upAt (s : State) (v : Nat) : (respond s v).upAt = s.upAt := rfl
@[simp] theorem respond_kept (s : State) (v : Nat) : (respond s v).kept = s.kept := rfl

/-! ### cyc -/

@[simp] theorem cyc_pending (s : State) (loc : Nat) (b : Block) (code inst weight : Nat) (vi : Option Nat) :
    (cyc s loc b code inst weight vi).pending = s.pending := rfl
@[simp] theorem cyc_variant (s : State) (loc : Nat) (b : Block) (code inst weight : Nat) (vi : Option Nat) :
    (cyc s loc b code inst weight vi).variant = s.variant := rfl
@[simp] theorem cyc_now (s : State) (loc : Nat) (b : Block) (code inst weight : Nat) (vi : Option Nat) :
    (cyc s loc b code inst weight vi).now = s.now := rfl
@[simp] theorem cyc_resp (s : State) (loc : Nat) (b : Block) (code inst weight : Nat) (vi : Option Nat) :
    (cyc s loc b code inst weight vi).resp = s.resp := rfl
@[simp] theorem cyc_free (s : State) (loc : Nat) (b : Block) (code inst weight : Nat) (vi : Option Nat) :
    (cyc s loc b code inst weight vi).free = s.free := rfl
@[simp] theorem cyc_cause (s : State) (loc : Nat) (b : Block) (code inst weight : Nat) (vi : Option Nat) :
    (cyc s loc b code inst weight vi).cause = s.cause := rfl
@[simp] theorem cyc_ctrs (s : State) (loc : Nat) (b : Block) (code inst weight : Nat) (vi : Option Nat) :
    (cyc s loc b code inst weight vi).ctrs = s.ctrs := rfl
@[simp] theorem cyc_seqs (s : State) (loc : Nat) (b : Block) (code inst weight : Nat) (vi : Option Nat) :
    (cyc s loc b code inst weight vi).seqs = s.seqs := rfl
@[simp] theorem cyc_lastCts (s : State) (loc : Nat) (b : Block) (code inst weight : Nat) (vi : Option Nat) :
    (cyc s loc b code inst weight vi).lastCts = s.lastCts := rfl
@[simp] theorem cyc_regs (s : State) (loc : Nat) (b : Block) (code inst weight : Nat) (vi : Option Nat) :
    (cyc s loc b code inst weight vi).regs = s.regs := rfl
@[simp] theorem cyc_hdrs (s : State) (loc : Nat) (b : Block) (code inst weight : Nat) (vi : Option Nat) :
    (cyc s loc b code inst weight vi).hdrs = s.hdrs := rfl
@[simp] theorem cyc_banks (s : State) (loc : Nat) (b : Block) (code inst weight : Nat) (vi : Option Nat) :
    (cyc s loc b code inst weight vi).banks = s.banks := rfl
@[simp] theorem cyc_cycSel (s : State) (loc : Nat) (b : Block) (code inst weight : Nat) (vi : Option Nat) :
    (cyc s loc b code inst weight vi).cycSel = s.cycSel := rfl
@[simp] theorem cyc_mem (s : State) (loc : Nat) (b : Block) (code inst weight : Nat) (vi : Option Nat) :
    (cyc s loc b code inst weight vi).mem = s.mem := rfl
@[simp] theorem cyc_msis (s : State) (loc : Nat) (b : Block) (code inst weight : Nat) (vi : Option Nat) :
    (cyc s loc b code inst weight vi).msis = s.msis := rfl
@[simp] theorem cyc_files (s : State) (loc : Nat) (b : Block) (code inst weight : Nat) (vi : Option Nat) :
    (cyc s loc b code inst weight vi).files = s.files := rfl
@[simp] theorem cyc_timers (s : State) (loc : Nat) (b : Block) (code inst weight : Nat) (vi : Option Nat) :
    (cyc s loc b code inst weight vi).timers = s.timers := rfl
@[simp] theorem cyc_compares (s : State) (loc : Nat) (b : Block) (code inst weight : Nat) (vi : Option Nat) :
    (cyc s loc b code inst weight vi).compares = s.compares := rfl
@[simp] theorem cyc_starts (s : State) (loc : Nat) (b : Block) (code inst weight : Nat) (vi : Option Nat) :
    (cyc s loc b code inst weight vi).starts = s.starts := rfl
@[simp] theorem cyc_rst (s : State) (loc : Nat) (b : Block) (code inst weight : Nat) (vi : Option Nat) :
    (cyc s loc b code inst weight vi).rst = s.rst := rfl
@[simp] theorem cyc_links (s : State) (loc : Nat) (b : Block) (code inst weight : Nat) (vi : Option Nat) :
    (cyc s loc b code inst weight vi).links = s.links := rfl
@[simp] theorem cyc_recs (s : State) (loc : Nat) (b : Block) (code inst weight : Nat) (vi : Option Nat) :
    (cyc s loc b code inst weight vi).recs = s.recs := rfl
@[simp] theorem cyc_upAt (s : State) (loc : Nat) (b : Block) (code inst weight : Nat) (vi : Option Nat) :
    (cyc s loc b code inst weight vi).upAt = s.upAt := rfl
@[simp] theorem cyc_kept (s : State) (loc : Nat) (b : Block) (code inst weight : Nat) (vi : Option Nat) :
    (cyc s loc b code inst weight vi).kept = s.kept := rfl

end Sys2Proof.Machine
end

