-- ==== Sys2Proof/Laws/Registers.lean ====
section
/-!
SUPPORT. Sys2Proof/Laws/Registers.lean: a register, a header and a banked header read as what was last set, and setting
one leaves every other as it was.
-/
namespace Sys2Proof.Machine

variable {s : State} {loc inst inst' loc' v ini : Nat} {r r' : Reg} {b b' : Block}

/-- Where a register stands within the map, apart from place, instance and bank. -/
def regSlot (r : Reg) : Nat := blockCode r.blk * 4096 + r.off

theorem regKey_mod (loc inst bank : Nat) (r : Reg) :
    regKey loc inst bank (blockCode r.blk) r.off % 268435456 = regSlot r % 268435456 := by
  unfold regKey regSlot
  omega

/-- The value that a register takes is cut to its width. -/
theorem rd_wr_same : rd (wr s loc r inst v) loc r inst = v % 2 ^ regBits r := by
  have : v % 2 ^ regBits r < 2 ^ 64 :=
    Nat.lt_of_lt_of_le (Nat.mod_lt _ (Nat.two_pow_pos _)) (Nat.pow_le_pow_right (by decide) (by unfold regBits; split <;> decide))
  simp [rd, wr, BitVec.toNat_ofNat, Nat.mod_eq_of_lt this] <;> exact this

/-- Setting a register leaves one that stands under another key. -/
theorem rd_wr_key (h : regKey loc' inst' 127 (blockCode r'.blk) r'.off ≠ regKey loc inst 127 (blockCode r.blk) r.off) :
    rd (wr s loc r inst v) loc' r' inst' = rd s loc' r' inst' :=
  congrArg BitVec.toNat (mget_mput_ne _ _ h s.regs)

/-- Setting a register leaves every register of another block or offset. -/
theorem rd_wr_slot (h : regSlot r' % 268435456 ≠ regSlot r % 268435456) :
    rd (wr s loc r inst v) loc' r' inst' = rd s loc' r' inst' :=
  rd_wr_key fun e => h (by rw [← regKey_mod loc' inst' 127 r', e, regKey_mod])

/-- Keys of one block and offset agree only for one place and instance. -/
theorem key_inj {p q m n : Nat} (e : regKey m n 127 p q = regKey loc inst 127 p q) :
    m * 8192 + n = loc * 8192 + inst := by
  have := Nat.eq_of_mul_eq_mul_right (by decide) (Nat.add_right_cancel (Nat.add_right_cancel e))
  omega

/-- Setting a register leaves every other place and instance of it. -/
theorem rd_wr_inst (h : loc' * 8192 + inst' ≠ loc * 8192 + inst) :
    rd (wr s loc r inst v) loc' r inst' = rd s loc' r inst' :=
  rd_wr_key fun e => h (key_inj e)

@[simp] theorem rd_setHdr (h : Hdr) : rd (setHdr s loc b h) loc' r' inst' = rd s loc' r' inst' := rfl
@[simp] theorem rd_setBank (k : Bank) : rd (setBank s loc b ini k) loc' r' inst' = rd s loc' r' inst' := rfl
@[simp] theorem rd_tickPage : rd (tickPage s loc b) loc' r' inst' = rd s loc' r' inst' := rfl
@[simp] theorem rd_tickSrc : rd (tickSrc s loc v) loc' r' inst' = rd s loc' r' inst' := rfl
@[simp] theorem rd_respond : rd (respond s v) loc' r' inst' = rd s loc' r' inst' := rfl
@[simp] theorem rd_setRst (k : ResetSt) : rd (setRst s loc k) loc' r' inst' = rd s loc' r' inst' := rfl
@[simp] theorem rd_writeBytes (bs : List Byte) : rd (writeBytes s v bs) loc' r' inst' = rd s loc' r' inst' := rfl

/-- Registers read alike in states with the same register map. -/
theorem rd_congr {t : State} (h : t.regs = s.regs) : rd t loc r inst = rd s loc r inst := by rw [rd, h, rd]

/-- A header reads as what was set. -/
@[simp] theorem hdr_setHdr_same (h : Hdr) : hdr (setHdr s loc b h) loc b = h := by simp [hdr, setHdr]

/-- Setting a header leaves the header of every other page. -/
theorem hdr_setHdr_ne (h : Hdr) (ne : pageKey loc' b' ≠ pageKey loc b) : hdr (setHdr s loc b h) loc' b' = hdr s loc' b' := by
  simp [hdr, setHdr, mget_mput_ne _ _ ne]

@[simp] theorem hdr_setBank (k : Bank) : hdr (setBank s loc b ini k) loc' b' = hdr s loc' b' := rfl
@[simp] theorem hdr_wr : hdr (wr s loc r inst v) loc' b' = hdr s loc' b' := rfl
@[simp] theorem hdr_tickPage : hdr (tickPage s loc b) loc' b' = hdr s loc' b' := rfl
@[simp] theorem hdr_cyc (code i w : Nat) (vi : Option Nat) : hdr (cyc s loc b code i w vi) loc' b' = hdr s loc' b' := rfl

/-- A banked header reads as what was set. -/
@[simp] theorem bank_setBank_same (k : Bank) : bank (setBank s loc b ini k) loc b ini = k := by simp [bank, setBank]

@[simp] theorem bank_setHdr (h : Hdr) (i : Nat) : bank (setHdr s loc b h) loc' b' i = bank s loc' b' i := rfl
@[simp] theorem bank_wr (i : Nat) : bank (wr s loc r inst v) loc' b' i = bank s loc' b' i := rfl
@[simp] theorem bank_cyc (code i w j : Nat) (vi : Option Nat) : bank (cyc s loc b code i w vi) loc' b' j = bank s loc' b' j := rfl

end Sys2Proof.Machine
end

