-- ==== Sys2Proof/Laws/Command.lean ====
section
/-!
SUPPORT. Sys2Proof/Laws/Command.lean: how a write of CMD ends: refused by the page's gate, refused by a check, or with
its effect and its result.
-/
namespace Sys2Proof.Machine

variable {s : State} {c : Cmd} {b : Block} {op : Nat} {checks : State → Ctx → Checks} {eff : Ctx → State → Effect}

/-- CMD_RESULT of the issuer after its result was posted. -/
@[simp] theorem bank_postResult (x : Ctx) (code : Code) (note : Nat) :
    (bank (postResult s x code note) x.loc x.blk x.who.ini).cmdResult = resultWord x.seq code note := by
  simp [postResult]

/-- NOTE is meaningful with DONE only (R61). -/
theorem resultWord_note {seq : Nat} {code : Code} (note : Nat) (h : code ≠ .done) :
    resultWord seq code note = resultWord seq code 0 := by
  simp [resultWord, h]

/-- The result of a command whose checks passed stands in its issuer's CMD_RESULT. -/
theorem bank_answered (x : Ctx) (e : Effect) :
    (bank (answered x e) x.loc x.blk x.who.ini).cmdResult = resultWord x.seq e.code e.note := by
  unfold answered
  split
  · rename_i h
    rw [bank_postResult, resultWord_note e.note (fun d => by simp [d, Code.refusal] at h)]
  · split <;> simp

/-- Counting a write leaves the cause of the stamps as it was. -/
@[simp] theorem counted_cause (s : State) (loc : Nat) (b : Block) (w : Who) : (counted s loc b w).cause = s.cause := by
  unfold counted countWrite
  dsimp only
  split <;> rfl

/-- A command's end takes the cause back to what it was before. -/
@[simp] theorem settled_counted (s t : State) (loc : Nat) (b : Block) (w : Who) :
    settled (counted s loc b w) t = settled s t := by
  simp [settled]

/-- The result stands in CMD_RESULT however the cause is taken back. -/
@[simp] theorem bank_settled (s t : State) (loc : Nat) (b : Block) (ini : Nat) :
    bank (settled s t) loc b ini = bank t loc b ini := rfl

/-- A granted command whose checks pass answers its effect. -/
theorem command_granted (h : Grants s c b op checks) :
    command s c b op checks eff =
      .next (settled s (answered (ctxOf s c b op) (eff (ctxOf s c b op) (acting s c b op)))) := by
  unfold command
  dsimp only
  rw [h.1]
  have hk : ((checks s (ctxOf s c b op)).for (ctxOf s c b op).who).fails = none := h.2
  simp only [runCmd, hk, acting, settled_counted]

/-- What a command's completion comes to: its row calls `command`, and its effect ends with one of the codes. -/
theorem completesAt_of {pre : State → Ctx → Prop} {i : Instr} {ends : List Code}
    (he : exec i s = command s c b op checks eff) (hc : ∀ x t, pre t x → (eff x t).code ∈ ends) :
    CompletesAt pre i c s b op checks eff ends :=
  fun h p => ⟨hc _ _ p, by rw [he, command_granted h], bank_answered (ctxOf s c b op) _⟩

/-- A command that a check refuses leaves CMD_RESULT with the check's code, and the rest of the state as the grant left
it but for the record of REFUSE_LOG (R64, R66). -/
theorem command_refused {code : Code} (hg : gate s (cmdLoc c b) b c.who 0x010 false true = .pass)
    (hk : ((checks s (ctxOf s c b op)).for c.who).fails = some code) :
    command s c b op checks eff =
      .next (settled s (postResult (refuseRec (acting s c b op) (ctxOf s c b op) code) (ctxOf s c b op) code 0)) := by
  unfold command
  dsimp only
  rw [hg]
  have hk' : ((checks s (ctxOf s c b op)).for (ctxOf s c b op).who).fails = some code := hk
  simp only [runCmd, hk', acting, settled_counted]

end Sys2Proof.Machine
end

