-- ==== Sys2Proof/Laws/Frame.lean ====
section
/-!
SUPPORT. Sys2Proof/Laws/Frame.lean: what every page does for a command or an event (its header, its stamps, its counts,
its records and interrupts) leaves the rest of the state as it was.
-/
namespace Sys2Proof.Machine

variable {s t u : State} {loc inst ini n : Nat} {b : Block}

theorem OnlyPages.refl : OnlyPages s s := rfl

/-- What the definition says, with the open parts named. -/
theorem onlyPages_iff : OnlyPages s t ↔ ∃ h k z q l v c r m p,
    t = { s with hdrs := h, banks := k, cause := z, seqs := q, lastCts := l, cycVal := v, cycSeen := c, recs := r, msis := m, resp := p } :=
  ⟨fun e => ⟨_, _, _, _, _, _, _, _, _, _, e⟩, fun ⟨_, _, _, _, _, _, _, _, _, _, e⟩ => by subst e; rfl⟩

theorem OnlyPages.trans (h : OnlyPages s t) (k : OnlyPages t u) : OnlyPages s u := by
  obtain ⟨_, _, _, _, _, _, _, _, _, _, rfl⟩ := onlyPages_iff.1 h
  obtain ⟨_, _, _, _, _, _, _, _, _, _, rfl⟩ := onlyPages_iff.1 k
  rfl

theorem OnlyPages.regs (h : OnlyPages s t) : t.regs = s.regs := by
  obtain ⟨_, _, _, _, _, _, _, _, _, _, rfl⟩ := onlyPages_iff.1 h
  rfl

theorem OnlyPages.mem (h : OnlyPages s t) : t.mem = s.mem := by
  obtain ⟨_, _, _, _, _, _, _, _, _, _, rfl⟩ := onlyPages_iff.1 h
  rfl

theorem OnlyPages.ctrs (h : OnlyPages s t) : t.ctrs = s.ctrs := by
  obtain ⟨_, _, _, _, _, _, _, _, _, _, rfl⟩ := onlyPages_iff.1 h
  rfl

theorem OnlyPages.rst (h : OnlyPages s t) : t.rst = s.rst := by
  obtain ⟨_, _, _, _, _, _, _, _, _, _, rfl⟩ := onlyPages_iff.1 h
  rfl

theorem OnlyPages.pending (h : OnlyPages s t) : t.pending = s.pending := by
  obtain ⟨_, _, _, _, _, _, _, _, _, _, rfl⟩ := onlyPages_iff.1 h
  rfl

theorem OnlyPages.variant (h : OnlyPages s t) : t.variant = s.variant := by
  obtain ⟨_, _, _, _, _, _, _, _, _, _, rfl⟩ := onlyPages_iff.1 h
  rfl

theorem OnlyPages.now (h : OnlyPages s t) : t.now = s.now := by
  obtain ⟨_, _, _, _, _, _, _, _, _, _, rfl⟩ := onlyPages_iff.1 h
  rfl

theorem onlyPages_setHdr (h : Hdr) : OnlyPages s (setHdr s loc b h) := rfl
theorem onlyPages_setBank (k : Bank) : OnlyPages s (setBank s loc b ini k) := rfl
theorem onlyPages_tickPage : OnlyPages s (tickPage s loc b) := rfl
theorem onlyPages_tickSrc : OnlyPages s (tickSrc s loc n) := rfl
theorem onlyPages_respond : OnlyPages s (respond s n) := rfl
theorem onlyPages_resp (r : Resp) : OnlyPages s { s with resp := r } := rfl
theorem onlyPages_sendRec (r : Rec) : OnlyPages s (sendRec s loc r) := rfl
theorem onlyPages_cyc (code w : Nat) (vi : Option Nat) : OnlyPages s (cyc s loc b code inst w vi) := rfl

theorem onlyPages_cause (c : Nat) : OnlyPages s { s with cause := c } := rfl
theorem onlyPages_tookStamp (die key c : Nat) : OnlyPages s (tookStamp s die key c) := rfl

/-- What acts on a hand-off changes the pages alone where what it does changes them alone. -/
theorem onlyPages_causedBy (c : Nat) {f : State → State} (h : ∀ u, OnlyPages u (f u)) : OnlyPages s (causedBy c f s) :=
  ((onlyPages_cause _).trans (h _)).trans (onlyPages_cause _)

theorem onlyPages_settled (h : OnlyPages s t) : OnlyPages s (settled u t) := h.trans (onlyPages_cause _)

theorem onlyPages_raiseMsi : OnlyPages s (raiseMsi s loc b) := by
  unfold raiseMsi
  repeat' first | split | exact rfl

theorem onlyPages_hwSet : OnlyPages s (hwSet s loc b n) := by
  unfold hwSet
  dsimp only
  split
  · have h1 := (onlyPages_setHdr (s := s) (loc := loc) (b := b) (hdrSet (hdr s loc b) n)).trans
      (onlyPages_cyc (inst := 0) (loc := loc) (b := b) (if bit (hdr s loc b).event n = true then 0x05 else 0x04) 1 none)
    generalize cyc (setHdr s loc b (hdrSet (hdr s loc b) n)) loc b
      (if bit (hdr s loc b).event n = true then 0x05 else 0x04) 0 1 none = s1 at h1 ⊢
    have h2 : OnlyPages s (if bit (hdr s loc b).event n = true then cyc s1 loc b 0x04 0 1 none else s1) := by
      split
      · exact h1.trans (onlyPages_cyc _ _ _)
      · exact h1
    generalize (if bit (hdr s loc b).event n = true then cyc s1 loc b 0x04 0 1 none else s1) = s2 at h2 ⊢
    split
    · exact h2.trans onlyPages_raiseMsi
    · exact h2
  · exact .refl

theorem onlyPages_routeFails : OnlyPages s (routeFails s loc) := by
  unfold routeFails
  dsimp only
  split
  · exact onlyPages_hwSet.trans onlyPages_hwSet
  · exact onlyPages_hwSet

theorem onlyPages_hwEvent : OnlyPages s (hwEvent s loc b n) := by
  unfold hwEvent
  dsimp only
  split
  · exact onlyPages_hwSet.trans onlyPages_routeFails
  · exact onlyPages_hwSet

theorem onlyPages_record (st : Stamp) (plane low : Nat) (ev : Bool) (words : List Nat) :
    OnlyPages s (record s n loc b st plane low ev inst words) := onlyPages_sendRec _

theorem onlyPages_eventRec (die : Nat) (st : Stamp) (plane : Nat) (words : List Nat) :
    OnlyPages s (eventRec s die loc b st plane n inst words) := onlyPages_hwEvent.trans (onlyPages_record ..)

theorem onlyPages_countWrite (w : Who) : OnlyPages s (countWrite s loc b w) := by
  unfold countWrite
  dsimp only
  split
  · exact onlyPages_tookStamp ..
  · exact (onlyPages_tookStamp ..).trans ((onlyPages_setHdr _).trans (onlyPages_cyc _ _ _))

theorem onlyPages_counted (w : Who) : OnlyPages s (counted s loc b w) := (onlyPages_countWrite w).trans (onlyPages_resp _)

theorem onlyPages_grantCmd (x : Ctx) : OnlyPages s (grantCmd s x) := (onlyPages_setHdr _).trans (onlyPages_setBank _)

theorem onlyPages_granted (x : Ctx) : OnlyPages s (granted s x) := ((onlyPages_grantCmd x).trans (onlyPages_cause _)).trans (onlyPages_cyc _ _ _)

theorem onlyPages_acting (c : Cmd) (op : Nat) : OnlyPages s (acting s c b op) :=
  (onlyPages_counted c.who).trans (onlyPages_granted _)

theorem onlyPages_postResult (x : Ctx) (code : Code) (note : Nat) : OnlyPages s (postResult s x code note) := by
  unfold postResult
  exact onlyPages_setBank _

theorem onlyPages_refuseRec (x : Ctx) (code : Code) : OnlyPages s (refuseRec s x code) := by
  unfold refuseRec
  repeat' first | split | exact .refl | exact onlyPages_record .. | exact onlyPages_tickPage.trans (onlyPages_record ..)

theorem onlyPages_finish (k : Ticket) (code : Code) (note : Nat) : OnlyPages s (finish s loc b k code note) := by
  unfold finish
  dsimp only
  refine OnlyPages.trans ?_ (onlyPages_causedBy _ fun _ => onlyPages_hwEvent)
  split
  · exact (onlyPages_setHdr _).trans (onlyPages_setBank _)
  · exact onlyPages_setHdr _

/-- The answer to a command changes the pages alone: what else its state holds is the effect's. -/
theorem onlyPages_answered (x : Ctx) (e : Effect) : OnlyPages e.state (answered x e) := by
  unfold answered
  dsimp only
  split
  · exact (onlyPages_refuseRec x e.code).trans (onlyPages_postResult ..)
  · split
    · exact (onlyPages_postResult ..).trans (onlyPages_setHdr _)
    · exact onlyPages_postResult ..

theorem onlyPages_deny (w : Who) (off reason : Nat) (write : Bool) : OnlyPages s (deny s loc b w off reason write) :=
  onlyPages_hwEvent.trans ((onlyPages_setHdr _).trans ((onlyPages_resp _).trans (onlyPages_cyc _ _ _)))

/-- A command either changes the pages alone, or answers what its effect brings on a state that differs from the first in
the pages alone. -/
theorem command_frame (s : State) (c : Cmd) (b : Block) (op : Nat) (checks : State → Ctx → Checks)
    (eff : Ctx → State → Effect) :
    (∃ t, command s c b op checks eff = .next t ∧ OnlyPages s t) ∨
    (∃ u t, OnlyPages s u ∧ command s c b op checks eff = .next t ∧ OnlyPages (eff (ctxOf s c b op) u).state t) := by
  unfold command
  dsimp only
  cases gate s (cmdLoc c b) b c.who 0x010 false true with
  | fault => exact .inl ⟨_, rfl, onlyPages_resp _⟩
  | held => exact .inl ⟨_, rfl, onlyPages_resp _⟩
  | denied r => exact .inl ⟨_, rfl, onlyPages_deny ..⟩
  | pass =>
    dsimp only
    unfold runCmd
    have hg := (onlyPages_counted (s := s) (loc := cmdLoc c b) (b := b) c.who).trans (onlyPages_granted (ctxOf s c b op))
    split
    · exact .inl ⟨_, rfl, onlyPages_settled (hg.trans ((onlyPages_refuseRec ..).trans (onlyPages_postResult ..)))⟩
    · exact .inr ⟨_, _, hg, rfl, onlyPages_settled (onlyPages_answered ..)⟩

/-- Raising an interrupt leaves the cause of the stamps as it was. -/
@[simp] theorem raiseMsi_cause : (raiseMsi s loc b).cause = s.cause := by
  unfold raiseMsi
  rfl

@[simp] theorem hwSet_cause : (hwSet s loc b n).cause = s.cause := by
  unfold hwSet
  dsimp only
  split
  · simp only [apply_ite State.cause, raiseMsi_cause, cyc_cause, setHdr_cause, ite_self]
  · rfl

@[simp] theorem routeFails_cause : (routeFails s loc).cause = s.cause := by
  unfold routeFails
  dsimp only
  split <;> simp

@[simp] theorem hwEvent_cause : (hwEvent s loc b n).cause = s.cause := by
  unfold hwEvent
  dsimp only
  split <;> simp

@[simp] theorem causedBy_cause (c : Nat) (f : State → State) : (causedBy c f s).cause = s.cause := rfl

@[simp] theorem deny_cause (w : Who) (off reason : Nat) (write : Bool) :
    (deny s loc b w off reason write).cause = s.cause := hwEvent_cause

/-- Whatever it answers, a command leaves the cause of the stamps as it was. -/
theorem command_cause (s : State) (c : Cmd) (b : Block) (op : Nat) (checks : State → Ctx → Checks)
    (eff : Ctx → State → Effect) {t : State} (h : command s c b op checks eff = .next t) : t.cause = s.cause := by
  revert h
  unfold command
  dsimp only
  cases gate s (cmdLoc c b) b c.who 0x010 false true with
  | fault => rintro ⟨⟩; rfl
  | held => rintro ⟨⟩; rfl
  | denied r => rintro ⟨⟩; exact deny_cause ..
  | pass => rintro ⟨⟩; exact counted_cause ..

/-- What the definition of `OnlyRegs` says, with the open parts named. -/
theorem onlyRegs_iff : OnlyRegs s t ↔ ∃ g h k z q l v c r m p,
    t = { s with regs := g, hdrs := h, banks := k, cause := z, seqs := q, lastCts := l, cycVal := v, cycSeen := c, recs := r
                 msis := m, resp := p } :=
  ⟨fun e => ⟨_, _, _, _, _, _, _, _, _, _, _, e⟩, fun ⟨_, _, _, _, _, _, _, _, _, _, _, e⟩ => by subst e; rfl⟩

theorem OnlyRegs.refl : OnlyRegs s s := rfl

theorem OnlyPages.onlyRegs (h : OnlyPages s t) : OnlyRegs s t := by
  obtain ⟨_, _, _, _, _, _, _, _, _, _, rfl⟩ := onlyPages_iff.1 h
  rfl

theorem OnlyRegs.trans (h : OnlyRegs s t) (k : OnlyRegs t u) : OnlyRegs s u := by
  obtain ⟨_, _, _, _, _, _, _, _, _, _, _, rfl⟩ := onlyRegs_iff.1 h
  obtain ⟨_, _, _, _, _, _, _, _, _, _, _, rfl⟩ := onlyRegs_iff.1 k
  rfl

theorem onlyRegs_wr (r : Reg) (v : Nat) : OnlyRegs s (wr s loc r inst v) := rfl
theorem onlyRegs_wrB (r : Reg) (v : Nat) : OnlyRegs s (wrB s loc r ini v) := rfl
theorem onlyRegs_incr (r : Reg) (k : Nat) : OnlyRegs s (incr s loc r inst k) := rfl
theorem onlyRegs_incrSat (r : Reg) (k : Nat) : OnlyRegs s (incrSat s loc r inst k) := rfl
theorem onlyRegs_clearInsts (lo m : Nat) (rs : List Reg) : OnlyRegs s (clearInsts s loc lo m rs) := rfl

/-- A fold of register writes changes registers alone. -/
theorem onlyRegs_foldl {α : Type} (f : State → α → State) (hf : ∀ u a, OnlyRegs u (f u a)) :
    ∀ (l : List α) (u : State), OnlyRegs u (l.foldl f u)
  | [], _ => .refl
  | a :: l, u => (hf u a).trans (onlyRegs_foldl f hf l (f u a))

theorem onlyRegs_clearRegs (rs : List Reg) : OnlyRegs s (clearRegs s loc inst rs) :=
  onlyRegs_foldl _ (fun _ _ => onlyRegs_wr ..) rs s

theorem onlyRegs_wrAll (rs : List (Reg × Nat)) : OnlyRegs s (wrAll s loc inst rs) :=
  onlyRegs_foldl _ (fun _ _ => onlyRegs_wr ..) rs s

end Sys2Proof.Machine
end

