-- ==== Sys2Proof/Laws/Memory.lean ====
section
/-!
SUPPORT. Sys2Proof/Laws/Memory.lean: every operation on memory keeps its canonical form, a byte reads as what was
written, and every other byte as before.
-/
namespace Sys2Proof.Machine

/-- Writing one byte keeps the canonical form of memory. -/
theorem memPut_wf (a : Nat) (v : Byte) {m : List Host.Cell} (h : Memory.wf m) : Memory.wf (memPut a v m) := by
  unfold memPut
  split
  · exact ⟨h.1.filter _, fun c hc => h.2 c (List.mem_filter.1 hc).1⟩
  · rename_i ne
    refine ⟨mput_sorted a v h.1, fun c hc => ?_⟩
    rcases mem_mput hc with rfl | hc
    · exact ne
    · exact h.2 c hc

/-- Writing bytes keeps the canonical form of memory. -/
theorem memPuts_wf : ∀ (bs : List Byte) (a : Nat) {m : List Host.Cell}, Memory.wf m → Memory.wf (memPuts a bs m)
  | [], _, _, h => h
  | b :: bs, a, _, h => memPuts_wf bs (a + 1) (memPut_wf a b h)

/-- Dropping bytes keeps the canonical form of memory. -/
theorem filter_wf (p : Host.Cell → Bool) {m : List Host.Cell} (h : Memory.wf m) : Memory.wf (m.filter p) :=
  ⟨h.1.filter _, fun c hc => h.2 c (List.mem_filter.1 hc).1⟩

/-- A byte of memory reads as what was written to it. -/
theorem mget_memPut_same (a : Nat) (v : Byte) (m : List Host.Cell) : mget unwritten (memPut a v m) a = v := by
  unfold memPut
  split
  · rename_i eq
    simp [eq]
  · simp

/-- Writing one byte leaves every other as it was. -/
theorem mget_memPut_ne {a b : Nat} (v : Byte) (m : List Host.Cell) (h : b ≠ a) :
    mget unwritten (memPut a v m) b = mget unwritten m b := by
  unfold memPut
  split
  · exact mget_mdel_ne _ h m
  · exact mget_mput_ne _ v h m

/-- Writing bytes leaves every byte below them as it was. -/
theorem mget_memPuts_below {b : Nat} : ∀ (bs : List Byte) (a : Nat) (m : List Host.Cell), b < a →
    mget unwritten (memPuts a bs m) b = mget unwritten m b
  | [], _, _, _ => rfl
  | v :: bs, a, m, h => by
    rw [memPuts, mget_memPuts_below bs (a + 1) _ (by omega), mget_memPut_ne _ _ (by omega)]

/-- Writing the bytes that memory holds keeps its canonical form. -/
theorem memPutsIn_wf (ok : Nat → Bool) : ∀ (bs : List Byte) (a : Nat) {m : List Host.Cell}, Memory.wf m →
    Memory.wf (memPutsIn ok a bs m)
  | [], _, _, h => h
  | b :: bs, a, _, h => memPutsIn_wf ok bs (a + 1) (by
    split
    · exact memPut_wf a b h
    · exact h)

/-- A byte that lies outside the written ones, or where memory holds nothing, stays as it was. -/
theorem mget_memPutsIn_outside (ok : Nat → Bool) {b : Nat} : ∀ (bs : List Byte) (a : Nat) (m : List Host.Cell),
    b < a ∨ a + bs.length ≤ b → mget unwritten (memPutsIn ok a bs m) b = mget unwritten m b
  | [], _, _, _ => rfl
  | v :: bs, a, m, h => by
    simp only [List.length_cons] at h
    rw [memPutsIn, mget_memPutsIn_outside ok bs (a + 1) _ (by omega)]
    split
    · exact mget_memPut_ne _ _ (by omega)
    · rfl

/-- A written byte that memory holds reads as what was written to it. -/
theorem mget_memPutsIn_inside (ok : Nat → Bool) : ∀ (bs : List Byte) (a i : Nat) (m : List Host.Cell) (h : i < bs.length),
    ok (a + i) = true → mget unwritten (memPutsIn ok a bs m) (a + i) = bs[i]
  | [], _, _, _, h, _ => by simp at h
  | v :: bs, a, 0, m, _, k => by
    rw [memPutsIn, mget_memPutsIn_outside ok _ _ _ (by omega), if_pos (by simpa using k)]
    exact mget_memPut_same a v m
  | v :: bs, a, i + 1, m, h, k => by
    rw [memPutsIn, show a + (i + 1) = a + 1 + i by omega]
    exact mget_memPutsIn_inside ok bs (a + 1) i _ (by simpa using h) (by rwa [show a + 1 + i = a + (i + 1) by omega])

/-- Writing bytes leaves every byte outside them as it was. -/
theorem readByte_writeBytes_outside (s : State) {a b : Nat} {bs : List Byte} (h : b < a ∨ a + bs.length ≤ b) :
    readByte (writeBytes s a bs) b = readByte s b := by
  show (if memHolds s b then mget unwritten (memPutsIn (memHolds s) a bs s.mem) b else 0) = _
  rw [mget_memPutsIn_outside _ bs a _ h]
  rfl

/-- A byte among those written, at an address that memory holds, reads as what was written to it. -/
theorem readByte_writeBytes_inside (s : State) (a i : Nat) (bs : List Byte) (h : i < bs.length)
    (k : memHolds s (a + i) = true) : readByte (writeBytes s a bs) (a + i) = bs[i] := by
  show (if memHolds s (a + i) then mget unwritten (memPutsIn (memHolds s) a bs s.mem) (a + i) else 0) = _
  rw [if_pos k, mget_memPutsIn_inside _ bs a i _ h k]

/-- An address where memory holds nothing reads 0, whatever is written (R50). -/
theorem readByte_absent (s : State) (a b : Nat) (bs : List Byte) (h : memHolds s b = false) :
    readByte (writeBytes s a bs) b = 0 := by
  show (if memHolds s b then _ else 0) = _
  rw [h]
  rfl

end Sys2Proof.Machine
end

