-- ==== Sys2Proof/Laws/Keeps.lean ====
section
/-!
SUPPORT. Sys2Proof/Laws/Keeps.lean: how the relation `Keeps` goes through the forms in which meanings are written: a
choice, a fold, a changed field, an outcome.
-/
namespace Sys2Proof.Machine

theorem Keeps.same (s : State) : Keeps s s := ⟨rfl, rfl, id⟩

theorem Keeps.trans {s t u : State} (h : Keeps s t) (k : Keeps t u) : Keeps s u :=
  ⟨k.pending.trans h.pending, k.variant.trans h.variant, fun w => k.mem (h.mem w)⟩

theorem keeps_ite {s0 : State} {c : Prop} [Decidable c] {a b : State} (h1 : Keeps s0 a) (h2 : Keeps s0 b) :
    Keeps s0 (if c then a else b) := by split <;> assumption

theorem keeps_ite_fst {α : Type} {s0 : State} {c : Prop} [Decidable c] {a b : State × α} (h1 : Keeps s0 a.1) (h2 :
    Keeps s0 b.1) :
    Keeps s0 (if c then a else b).1 := by split <;> assumption

theorem keeps_ite_eff {s0 : State} {c : Prop} [Decidable c] {a b : Effect} (h1 : Keeps s0 a.state) (h2 : Keeps s0
    b.state) :
    Keeps s0 (if c then a else b).state := by split <;> assumption

theorem keepsOut_ite {s0 : State} {c : Prop} [Decidable c] {a b : Out} (h1 : KeepsOut s0 a) (h2 : KeepsOut s0 b) :
    KeepsOut s0 (if c then a else b) := by split <;> assumption

theorem keepsOut_next {s0 t : State} (h : Keeps s0 t) : KeepsOut s0 (.next t) := ⟨t, rfl, h⟩

theorem keeps_done {s0 t : State} (h : Keeps s0 t) : Keeps s0 (Effect.done t).state := h

theorem keeps_accepted {s0 t : State} (h : Keeps s0 t) : Keeps s0 (Effect.accepted t).state := h

theorem keeps_fold {α : Type} {s0 : State} {f : State → α → State} (hf : ∀ s a, Keeps s0 s → Keeps s0 (f s a)) {l :
    List α}
    {s : State} (h : Keeps s0 s) : Keeps s0 (l.foldl f s) := by
  induction l generalizing s with
  | nil => exact h
  | cons a l ih => exact ih (hf s a h)

theorem keeps_fold_fst {α β : Type} {s0 : State} {f : State × β → α → State × β}
    (hf : ∀ p a, Keeps s0 p.1 → Keeps s0 (f p a).1) {l : List α} {p : State × β} (h : Keeps s0 p.1) :
    Keeps s0 (l.foldl f p).1 := by
  induction l generalizing p with
  | nil => exact h
  | cons a l ih => exact ih (hf p a h)

theorem keeps_fold_visit {α : Type} {s0 : State} {f : Visit → α → Visit}
    (hf : ∀ p a, Keeps s0 p.state → Keeps s0 (f p a).state) {l : List α} {p : Visit} (h : Keeps s0 p.state) :
    Keeps s0 (l.foldl f p).state := by
  induction l generalizing p with
  | nil => exact h
  | cons a l ih => exact ih (hf p a h)

theorem KeepsOut.state {s t : State} (h : KeepsOut s (.next t)) : Keeps s t := by
  obtain ⟨u, hu, k⟩ := h
  cases hu
  exact k

theorem keepsOut_getD {s0 : State} {x : Option Out} {d : Out} (h : ∀ o, x = some o → KeepsOut s0 o) (k : KeepsOut s0
    d) :
    KeepsOut s0 (x.getD d) := by
  cases x with
  | none => exact k
  | some o => exact h o rfl

/-- Keeping looks at the queue, the variant and memory alone: a state with any other fields changed keeps what the state
kept. -/
theorem keeps_mk {s0 s : State}
    {now_ : Nat} {resp_ : Resp} {free_ : Nat} {cause_ : Nat} {ctrs_ : Map Ctr} {seqs_ : Map Nat} {lastCts_ : Map
    Nat} {regs_ : Map Word} {hdrs_ : Map Hdr} {banks_ : Map Bank} {cycSel_ : Map Nat} {cycVal_ : Map Nat}
    {cycSeen_ : Map Bool} {msis_ : List Msi} {files_ : Map (List Nat)} {timers_ : List Nat}
    {compares_ : Map Nat} {starts_ : Map Nat} {timeZero_ : Map Nat}
    {rst_ : Map ResetSt} {links_ : Map LinkSt} {cads_ : Map CadSt} {recs_ : List RecInFlight} {sbags_ : Map Sbag}
    {cys_ : Map CySt} {cycWas_ : Map Bool} {syncAt_ : Map Nat} {tbs_ : Map TimeBase} {steps_ : List PendingStep}
    {trigs_ : Map Trig} {firings_ : List Firing} {keys_ : Map (List Byte)} {roots_ : Map (List Byte)} {vaults_ :
    Map Vault} {switches_ : Map Switch} {lanes_ : Map Lane} {sent_ : List SentFrame} {streams_ : Map Stream}
    {batches_ : List Batch} {marks_ : List Source} {profiles_ : Map Profile} {filters_ : Map FilterSt} {dets_ :
    Map Det} {presents_ : List Present} {taps_ : List TapOut} {offers_ : List Offer} {sendReqs_ : List SendReq}
    {xlates_ : Map Xlate} {slices_ : Map Slice} {vis_ : Map ViSt} {logs_ : Map DirtyLog} {levels_ : Map LevelSt}
    {upAt_ : Map Nat} {lines_ : Map TripLine} {kept_ : Map Bool} {bins_ : Map BinIn} {coasters_ : Map Coaster}
    {capIns_ : List CapIn} {captures_ : Map Capture} {cranks_ : Map Crank} {retains_ : Map Retain} {tandems_ : Map
    Tandem} {flashes_ : Map BootFlash} {leases_ : Map Lease} {mechs_ : Map Mech} {rails_ : Map Rail} {upds_ : Map
    UpdSt} {mgmtLogs_ : Map (List LogEntry)} :
    Keeps s0 (State.mk s.pending s.variant now_ resp_ free_ cause_ ctrs_ seqs_ lastCts_ regs_ hdrs_ banks_ cycSel_
    cycVal_ cycSeen_ s.mem msis_ files_ timers_ compares_ starts_ timeZero_ rst_ links_ cads_ recs_ sbags_ cys_ cycWas_ syncAt_ tbs_
    steps_ trigs_ firings_ keys_ roots_ vaults_ switches_ lanes_ sent_ streams_ batches_ marks_ profiles_ filters_
    dets_ presents_ taps_ offers_ sendReqs_ xlates_ slices_ vis_ logs_ levels_ upAt_ lines_ kept_ bins_ coasters_
    capIns_ captures_ cranks_ retains_ tandems_ flashes_ leases_ mechs_ rails_ upds_ mgmtLogs_) ↔ Keeps s0 s :=
  ⟨fun h => ⟨h.pending, h.variant, h.mem⟩, fun h => ⟨h.pending, h.variant, h.mem⟩⟩

end Sys2Proof.Machine
end

