-- ==== Sys2Proof/Laws/KeepsOps.lean ====
section
/-!
SUPPORT. Sys2Proof/Laws/KeepsOps.lean: every operation of Ops.lean keeps the queue, the variant and the canonical form of
memory.
-/
namespace Sys2Proof.Machine

variable {s0 s : State} {loc inst v ini k lo n a die src plane low code weight : Nat} {r : Reg} {rs : List Reg} {b :
  Block} {h : Hdr} {bs : List Byte} {st : Stamp} {ev : Bool} {words : List Nat} {vi : Option Nat}

theorem wr_keeps (hs : Keeps s0 s) : Keeps s0 (wr s loc r inst v) := by
  unfold wr
  repeat' first
    | with_reducible first | assumption
    | split | simp only [keeps_mk] | dsimp only

theorem wrB_keeps (hs : Keeps s0 s) : Keeps s0 (wrB s loc r ini v) := by
  unfold wrB
  repeat' first
    | with_reducible first | assumption
    | split | simp only [keeps_mk] | dsimp only

theorem incr_keeps (hs : Keeps s0 s) : Keeps s0 (incr s loc r inst k) := by
  unfold incr
  repeat' with_reducible
    first | assumption | apply wr_keeps

theorem incrSat_keeps (hs : Keeps s0 s) : Keeps s0 (incrSat s loc r inst k) := by
  unfold incrSat
  repeat' with_reducible
    first | assumption | apply wr_keeps

theorem wrAll_keeps {rs : List (Reg × Nat)} (hs : Keeps s0 s) : Keeps s0 (wrAll s loc inst rs) := by
  unfold wrAll
  repeat' first
    | intro _
    | with_reducible first | assumption | apply keeps_fold | apply keeps_fold_fst | apply keeps_fold_visit
                           | apply wr_keeps
    | with_reducible first | apply keeps_done | apply keeps_accepted | apply keepsOut_next
                           | apply keeps_ite | apply keepsOut_ite | apply keeps_ite_eff | apply keeps_ite_fst
    | split | simp only [keeps_mk] | dsimp only

theorem clearRegs_keeps (hs : Keeps s0 s) : Keeps s0 (clearRegs s loc inst rs) := by
  unfold clearRegs
  repeat' first
    | intro _
    | with_reducible first | assumption | apply keeps_fold | apply keeps_fold_fst | apply keeps_fold_visit
                           | apply wr_keeps
    | with_reducible first | apply keeps_done | apply keeps_accepted | apply keepsOut_next
                           | apply keeps_ite | apply keepsOut_ite | apply keeps_ite_eff | apply keeps_ite_fst
    | split | simp only [keeps_mk] | dsimp only

theorem clearInsts_keeps (hs : Keeps s0 s) : Keeps s0 (clearInsts s loc lo n rs) := by
  unfold clearInsts
  repeat' first
    | with_reducible first | assumption
    | split | simp only [keeps_mk] | dsimp only

theorem setHdr_keeps (hs : Keeps s0 s) : Keeps s0 (setHdr s loc b h) := by
  unfold setHdr
  repeat' first
    | with_reducible first | assumption
    | split | simp only [keeps_mk] | dsimp only

theorem setBank_keeps {k : Bank} (hs : Keeps s0 s) : Keeps s0 (setBank s loc b ini k) := by
  unfold setBank
  repeat' first
    | with_reducible first | assumption
    | split | simp only [keeps_mk] | dsimp only

theorem setStatus_keeps (hs : Keeps s0 s) : Keeps s0 (setStatus s loc b v) := by
  unfold setStatus
  repeat' with_reducible
    first | assumption | apply setHdr_keeps

theorem writeBytes_keeps (hs : Keeps s0 s) : Keeps s0 (writeBytes s a bs) := by
  exact ⟨hs.pending, hs.variant, fun w => memPutsIn_wf _ _ _ (hs.mem w)⟩

theorem writeLE_keeps (hs : Keeps s0 s) : Keeps s0 (writeLE s a n v) := by
  unfold writeLE
  repeat' with_reducible
    first | assumption | apply writeBytes_keeps

theorem tookStamp_keeps {s : State} {die key cause : Nat} (hs : Keeps s0 s) : Keeps s0 (tookStamp s die key cause)
    := by
  unfold tookStamp
  repeat' first
    | intro _
    | with_reducible first | assumption | apply keeps_fold | apply keeps_fold_fst | apply keeps_fold_visit
    | with_reducible first | apply keeps_done | apply keeps_accepted | apply keepsOut_next | apply keepsOut_getD
                           | apply keeps_ite | apply keepsOut_ite | apply keeps_ite_eff | apply keeps_ite_fst
    | split | simp only [keeps_mk] | dsimp only

theorem tickSrcBy_keeps {s : State} {die src cause : Nat} (hs : Keeps s0 s) : Keeps s0 (tickSrcBy s die src cause)
    := by
  unfold tickSrcBy
  repeat' first
    | intro _
    | with_reducible first | assumption | apply keeps_fold | apply keeps_fold_fst | apply keeps_fold_visit
                           | apply tookStamp_keeps
    | with_reducible first | apply keeps_done | apply keeps_accepted | apply keepsOut_next | apply keepsOut_getD
                           | apply keeps_ite | apply keepsOut_ite | apply keeps_ite_eff | apply keeps_ite_fst
    | split | simp only [keeps_mk] | dsimp only

theorem tickSrc_keeps (hs : Keeps s0 s) : Keeps s0 (tickSrc s die src) := by
  unfold tickSrc
  repeat' first
    | intro _
    | with_reducible first | assumption | apply keeps_fold | apply keeps_fold_fst | apply keeps_fold_visit
                           | apply tickSrcBy_keeps
    | with_reducible first | apply keeps_done | apply keeps_accepted | apply keepsOut_next | apply keepsOut_getD
                           | apply keeps_ite | apply keepsOut_ite | apply keeps_ite_eff | apply keeps_ite_fst
    | split | simp only [keeps_mk] | dsimp only

theorem causedBy_keeps {cts : Nat} {f : State → State} {s : State} (hf : ∀ u, Keeps s0 u → Keeps s0 (f u)) (hs :
    Keeps s0 s) : Keeps s0 (causedBy cts f s) := by
  unfold causedBy
  repeat' first
    | intro _
    | with_reducible first | assumption | apply hf | apply keeps_fold | apply keeps_fold_fst
                           | apply keeps_fold_visit
    | with_reducible first | apply keeps_done | apply keeps_accepted | apply keepsOut_next | apply keepsOut_getD
                           | apply keeps_ite | apply keepsOut_ite | apply keeps_ite_eff | apply keeps_ite_fst
    | split | simp only [keeps_mk] | dsimp only

theorem tickPageBy_keeps {s : State} {die loc : Nat} {b : Block} {cause : Nat} (hs : Keeps s0 s) : Keeps s0
    (tickPageBy s die loc b cause) := by
  unfold tickPageBy
  repeat' first
    | intro _
    | with_reducible first | assumption | apply keeps_fold | apply keeps_fold_fst | apply keeps_fold_visit
                           | apply tookStamp_keeps
    | with_reducible first | apply keeps_done | apply keeps_accepted | apply keepsOut_next | apply keepsOut_getD
                           | apply keeps_ite | apply keepsOut_ite | apply keeps_ite_eff | apply keeps_ite_fst
    | split | simp only [keeps_mk] | dsimp only

theorem tickPage_keeps (hs : Keeps s0 s) : Keeps s0 (tickPage s loc b) := by
  unfold tickPage
  repeat' first
    | intro _
    | with_reducible first | assumption | apply keeps_fold | apply keeps_fold_fst | apply keeps_fold_visit
                           | apply tickPageBy_keeps
    | with_reducible first | apply keeps_done | apply keeps_accepted | apply keepsOut_next | apply keepsOut_getD
                           | apply keeps_ite | apply keepsOut_ite | apply keeps_ite_eff | apply keeps_ite_fst
    | split | simp only [keeps_mk] | dsimp only

theorem drew_keeps (hs : Keeps s0 s) : Keeps s0 (drew s) := by
  unfold drew
  repeat' first
    | with_reducible first | assumption
    | split | simp only [keeps_mk] | dsimp only

theorem setRst_keeps {r : ResetSt} (hs : Keeps s0 s) : Keeps s0 (setRst s die r) := by
  unfold setRst
  repeat' first
    | with_reducible first | assumption
    | split | simp only [keeps_mk] | dsimp only

theorem sendRec_keeps {r : Rec} (hs : Keeps s0 s) : Keeps s0 (sendRec s die r) := by
  unfold sendRec
  repeat' first
    | with_reducible first | assumption
    | split | simp only [keeps_mk] | dsimp only

theorem record_keeps (hs : Keeps s0 s) : Keeps s0 (record s die loc b st plane low ev inst words) := by
  unfold record
  repeat' with_reducible
    first | assumption | apply sendRec_keeps

theorem cyc_keeps (hs : Keeps s0 s) : Keeps s0 (cyc s loc b code inst weight vi) := by
  unfold cyc
  repeat' first
    | with_reducible first | assumption
    | split | simp only [keeps_mk] | dsimp only

theorem respond_keeps (hs : Keeps s0 s) : Keeps s0 (respond s v) := by
  unfold respond
  repeat' first
    | with_reducible first | assumption
    | split | simp only [keeps_mk] | dsimp only

theorem outState_keeps {a : Out} (hs : Keeps s0 s) (ha : KeepsOut s0 a) : Keeps s0 (outState s a) := by
  cases a with
  | next t => exact ha.state
  | fault _ => exact hs
  | refused _ => exact hs

end Sys2Proof.Machine
end

