-- ==== Sys2Proof/Laws/KeepsFlags.lean ====
section
/-!
SUPPORT. Sys2Proof/Laws/KeepsFlags.lean: every operation of Flags.lean keeps the queue, the variant and the canonical form of
memory.
-/
namespace Sys2Proof.Machine

variable {s0 s : State} {loc n die plane inst : Nat} {b : Block} {st : Stamp} {words : List Nat}

theorem raiseMsi_keeps (hs : Keeps s0 s) : Keeps s0 (raiseMsi s loc b) := by
  unfold raiseMsi
  repeat' first
    | intro _
    | with_reducible first | assumption | apply keeps_fold | apply keeps_fold_fst | apply keeps_fold_visit
                           | apply setHdr_keeps | apply tickPageBy_keeps | apply cyc_keeps
    | with_reducible first | apply keeps_done | apply keeps_accepted | apply keepsOut_next | apply keepsOut_getD
                           | apply keeps_ite | apply keepsOut_ite | apply keeps_ite_eff | apply keeps_ite_fst
    | split | simp only [keeps_mk] | dsimp only

theorem hwSet_keeps (hs : Keeps s0 s) : Keeps s0 (hwSet s loc b n) := by
  unfold hwSet
  repeat' first
    | with_reducible first | assumption | apply cyc_keeps | apply setHdr_keeps | apply raiseMsi_keeps
    | split | dsimp only

theorem routeFails_keeps {s : State} {die : Nat} (hs : Keeps s0 s) : Keeps s0 (routeFails s die) := by
  unfold routeFails
  repeat' first
    | intro _
    | with_reducible first | assumption | apply keeps_fold | apply keeps_fold_fst | apply keeps_fold_visit
                           | apply hwSet_keeps
    | with_reducible first | apply keeps_done | apply keeps_accepted | apply keepsOut_next | apply keepsOut_getD
                           | apply keeps_ite | apply keepsOut_ite | apply keeps_ite_eff | apply keeps_ite_fst
    | split | simp only [keeps_mk] | dsimp only

theorem hwEvent_keeps (hs : Keeps s0 s) : Keeps s0 (hwEvent s loc b n) := by
  unfold hwEvent
  repeat' first
    | intro _
    | with_reducible first | assumption | apply keeps_fold | apply keeps_fold_fst | apply keeps_fold_visit
                           | apply hwSet_keeps | apply routeFails_keeps
    | with_reducible first | apply keeps_done | apply keeps_accepted | apply keepsOut_next | apply keepsOut_getD
                           | apply keeps_ite | apply keepsOut_ite | apply keeps_ite_eff | apply keeps_ite_fst
    | split | simp only [keeps_mk] | dsimp only

theorem raiseIrq_keeps (hs : Keeps s0 s) : Keeps s0 (raiseIrq s loc b) := by
  unfold raiseIrq
  repeat' first
    | intro _
    | with_reducible first | assumption | apply keeps_fold | apply keeps_fold_fst | apply keeps_fold_visit
                           | apply raiseMsi_keeps | apply routeFails_keeps
    | with_reducible first | apply keeps_done | apply keeps_accepted | apply keepsOut_next | apply keepsOut_getD
                           | apply keeps_ite | apply keepsOut_ite | apply keeps_ite_eff | apply keeps_ite_fst
    | split | simp only [keeps_mk] | dsimp only

theorem eventRec_keeps (hs : Keeps s0 s) : Keeps s0 (eventRec s die loc b st plane n inst words) := by
  unfold eventRec
  repeat' with_reducible
    first | assumption | apply record_keeps | apply hwEvent_keeps

end Sys2Proof.Machine
end

