-- ==== Sys2Proof/Laws/KeepsOperands.lean ====
section
/-!
SUPPORT. Sys2Proof/Laws/KeepsOperands.lean: every operation of Operands.lean keeps the queue, the variant and the canonical form of
memory.
-/
namespace Sys2Proof.Machine

variable {s0 s : State} {loc off reason hub : Nat} {b : Block} {w : Who} {write : Bool}

theorem setSw_keeps {w : Switch} (hs : Keeps s0 s) : Keeps s0 (setSw s hub w) := by
  unfold setSw
  repeat' first
    | with_reducible first | assumption
    | split | simp only [keeps_mk] | dsimp only

theorem deny_keeps (hs : Keeps s0 s) : Keeps s0 (deny s loc b w off reason write) := by
  unfold deny
  repeat' first
    | with_reducible first | assumption | apply hwEvent_keeps | apply setHdr_keeps | apply cyc_keeps
    | split | simp only [keeps_mk] | dsimp only

theorem countWrite_keeps (hs : Keeps s0 s) : Keeps s0 (countWrite s loc b w) := by
  unfold countWrite
  repeat' first
    | intro _
    | with_reducible first | assumption | apply keeps_fold | apply keeps_fold_fst | apply keeps_fold_visit
                           | apply tickPageBy_keeps | apply cyc_keeps | apply setHdr_keeps
    | with_reducible first | apply keeps_done | apply keeps_accepted | apply keepsOut_next | apply keepsOut_getD
                           | apply keeps_ite | apply keepsOut_ite | apply keeps_ite_eff | apply keeps_ite_fst
    | split | simp only [keeps_mk] | dsimp only

end Sys2Proof.Machine
end

