-- ==== Sys2Proof/Laws/KeepsCommand.lean ====
section
/-!
SUPPORT. Sys2Proof/Laws/KeepsCommand.lean: every operation of Command.lean keeps the queue, the variant and the canonical form of
memory.
-/
namespace Sys2Proof.Machine

variable {s0 s t : State} {note loc op : Nat} {x : Ctx} {code : Code} {e : Effect} {k : Checks} {eff : State → Effect}
  {b : Block} {w : Who} {c : Cmd} {checks : State → Ctx → Checks}

theorem Effect_done_keeps (hs : Keeps s0 s) : Keeps s0 (Effect.done s).state := by
  unfold Effect.done
  repeat' with_reducible
    first | assumption

theorem Effect_accepted_keeps (hs : Keeps s0 s) : Keeps s0 (Effect.accepted s).state := by
  unfold Effect.accepted
  repeat' with_reducible
    first | assumption

theorem grantCmd_keeps (hs : Keeps s0 s) : Keeps s0 (grantCmd s x) := by
  unfold grantCmd
  repeat' with_reducible
    first | assumption | apply setHdr_keeps | apply setBank_keeps

theorem postResult_keeps (hs : Keeps s0 s) : Keeps s0 (postResult s x code note) := by
  unfold postResult
  repeat' with_reducible
    first | assumption | apply setBank_keeps

theorem refuseRec_keeps (hs : Keeps s0 s) : Keeps s0 (refuseRec s x code) := by
  unfold refuseRec
  repeat' first
    | with_reducible first | assumption | apply cyc_keeps | apply record_keeps
    | split | dsimp only

theorem granted_keeps (hs : Keeps s0 s) : Keeps s0 (granted s x) := by
  unfold granted
  repeat' first
    | intro _
    | with_reducible first | assumption | apply keeps_fold | apply keeps_fold_fst | apply keeps_fold_visit
                           | apply cyc_keeps | apply grantCmd_keeps
    | with_reducible first | apply keeps_done | apply keeps_accepted | apply keepsOut_next | apply keepsOut_getD
                           | apply keeps_ite | apply keepsOut_ite | apply keeps_ite_eff | apply keeps_ite_fst
    | split | simp only [keeps_mk] | dsimp only

theorem answered_keeps (he : Keeps s0 e.state) : Keeps s0 (answered x e) := by
  unfold answered
  repeat' first
    | with_reducible first | assumption | apply postResult_keeps | apply refuseRec_keeps | apply setHdr_keeps
    | split | dsimp only

theorem settled_keeps {s t : State} (_hs : Keeps s0 s) (ht : Keeps s0 t) : Keeps s0 (settled s t) := by
  unfold settled
  repeat' first
    | intro _
    | with_reducible first | assumption | apply keeps_fold | apply keeps_fold_fst | apply keeps_fold_visit
    | with_reducible first | apply keeps_done | apply keeps_accepted | apply keepsOut_next | apply keepsOut_getD
                           | apply keeps_ite | apply keepsOut_ite | apply keeps_ite_eff | apply keeps_ite_fst
    | split | simp only [keeps_mk] | dsimp only

theorem runCmd_keeps (hs : Keeps s0 s) (heff : ∀ u0, Keeps s0 u0 → Keeps s0 (eff u0).state) : Keeps s0 (runCmd s x k
    eff) := by
  unfold runCmd
  repeat' first
    | intro _
    | with_reducible first | assumption | apply heff | apply keeps_fold | apply keeps_fold_fst
                           | apply keeps_fold_visit | apply settled_keeps | apply postResult_keeps
                           | apply refuseRec_keeps | apply granted_keeps | apply answered_keeps
    | with_reducible first | apply keeps_done | apply keeps_accepted | apply keepsOut_next | apply keepsOut_getD
                           | apply keeps_ite | apply keepsOut_ite | apply keeps_ite_eff | apply keeps_ite_fst
    | split | simp only [keeps_mk] | dsimp only

theorem counted_keeps (hs : Keeps s0 s) : Keeps s0 (counted s loc b w) := by
  unfold counted
  repeat' first
    | with_reducible first | assumption | apply countWrite_keeps
    | split | simp only [keeps_mk] | dsimp only

theorem command_keeps {eff : Ctx → State → Effect} (hs : Keeps s0 s) (heff : ∀ u0 u1, Keeps s0 u1 → Keeps s0 (eff u0
    u1).state) : KeepsOut s0 (command s c b op checks eff) := by
  unfold command
  repeat' first
    | with_reducible first | assumption | apply keepsOut_next | apply deny_keeps | apply runCmd_keeps
                           | apply counted_keeps | apply heff
    | split | simp only [keeps_mk] | dsimp only

theorem finish_keeps {t : Ticket} (hs : Keeps s0 s) : Keeps s0 (finish s loc b t code note) := by
  unfold finish
  repeat' first
    | intro _
    | with_reducible first | assumption | apply keeps_fold | apply keeps_fold_fst | apply keeps_fold_visit
                           | apply setHdr_keeps | apply setBank_keeps | apply causedBy_keeps | apply hwEvent_keeps
    | with_reducible first | apply keeps_done | apply keeps_accepted | apply keepsOut_next | apply keepsOut_getD
                           | apply keeps_ite | apply keepsOut_ite | apply keeps_ite_eff | apply keeps_ite_fst
    | split | simp only [keeps_mk] | dsimp only

theorem finishOp_keeps (hs : Keeps s0 s) : Keeps s0 (finishOp s loc b op code note) := by
  unfold finishOp
  repeat' first
    | with_reducible first | assumption | apply finish_keeps
    | split | dsimp only

theorem effectNop_keeps (ht : Keeps s0 t) : Keeps s0 (effectNop x t).state := by
  unfold effectNop
  repeat' with_reducible
    first | assumption | apply Effect_done_keeps

theorem execNop_keeps (hs : Keeps s0 s) : KeepsOut s0 (execNop b c s) := by
  unfold execNop
  repeat' first
    | intro _
    | with_reducible first | assumption | apply keeps_fold | apply keeps_fold_fst | apply keeps_fold_visit
                           | apply command_keeps | apply effectNop_keeps
    | with_reducible first | apply keeps_done | apply keeps_accepted | apply keepsOut_next
                           | apply keeps_ite | apply keepsOut_ite | apply keeps_ite_eff | apply keeps_ite_fst
    | split | simp only [keeps_mk] | dsimp only

theorem effectEventTest_keeps {x : Ctx} {t : State} (ht : Keeps s0 t) : Keeps s0 (effectEventTest x t).state := by
  unfold effectEventTest
  repeat' first
    | intro _
    | with_reducible first | assumption | apply keeps_fold | apply keeps_fold_fst | apply keeps_fold_visit
                           | apply hwEvent_keeps | apply Effect_done_keeps
    | with_reducible first | apply keeps_done | apply keeps_accepted | apply keepsOut_next | apply keepsOut_getD
                           | apply keeps_ite | apply keepsOut_ite | apply keeps_ite_eff | apply keeps_ite_fst
    | split | simp only [keeps_mk] | dsimp only

theorem execEventTest_keeps (hs : Keeps s0 s) : KeepsOut s0 (execEventTest b c s) := by
  unfold execEventTest
  repeat' first
    | intro _
    | with_reducible first | assumption | apply keeps_fold | apply keeps_fold_fst | apply keeps_fold_visit
                           | apply command_keeps | apply effectEventTest_keeps
    | with_reducible first | apply keeps_done | apply keeps_accepted | apply keepsOut_next
                           | apply keeps_ite | apply keepsOut_ite | apply keeps_ite_eff | apply keeps_ite_fst
    | split | simp only [keeps_mk] | dsimp only

end Sys2Proof.Machine
end

