-- ==== Sys2Proof/Laws/KeepsAccess.lean ====
section
/-!
SUPPORT. Sys2Proof/Laws/KeepsAccess.lean: every operation of Access.lean keeps the queue, the variant and the canonical form of
memory.
-/
namespace Sys2Proof.Machine

variable {s0 s : State} {v loc ini held off : Nat} {lock high : Bool} {t : Target} {b : Block} {l : Option Latch} {a :
  Access} {eff : Target → Nat → State → State}

theorem writeT_keeps (hs : Keeps s0 s) : Keeps s0 (writeT s t v) := by
  unfold writeT
  repeat' first
    | with_reducible first | assumption | apply wr_keeps | apply wrB_keeps
    | split | dsimp only

theorem setLatch_keeps (hs : Keeps s0 s) : Keeps s0 (setLatch s loc b ini l) := by
  unfold setLatch
  repeat' with_reducible
    first | assumption | apply setBank_keeps

theorem spendLatch_keeps (hs : Keeps s0 s) : Keeps s0 (spendLatch s loc b ini t) := by
  unfold spendLatch
  repeat' first
    | with_reducible first | assumption | apply setLatch_keeps
    | split | dsimp only

theorem applyWrite_keeps (heff : ∀ u0 u1 u2, Keeps s0 u2 → Keeps s0 (eff u0 u1 u2)) (hs : Keeps s0 s) : Keeps s0
    (applyWrite a t eff s) := by
  unfold applyWrite
  repeat' first
    | with_reducible first | assumption | apply spendLatch_keeps | apply setLatch_keeps | apply heff
    | split | dsimp only

theorem writeGate_keeps {eff : State → State} (heff : ∀ u0, Keeps s0 u0 → Keeps s0 (eff u0)) (hs : Keeps s0 s) :
    KeepsOut s0 (writeGate a lock eff s) := by
  unfold writeGate
  repeat' first
    | with_reducible first | assumption | apply keepsOut_next | apply deny_keeps | apply countWrite_keeps | apply heff
    | split | simp only [keeps_mk] | dsimp only

theorem writeReg_keeps (heff : ∀ u0 u1 u2, Keeps s0 u2 → Keeps s0 (eff u0 u1 u2)) (hs : Keeps s0 s) : KeepsOut s0
    (writeReg a eff s) := by
  unfold writeReg
  repeat' first
    | intro _
    | with_reducible first | assumption | apply keeps_fold | apply keeps_fold_fst | apply keeps_fold_visit
                           | apply writeGate_keeps | apply applyWrite_keeps | apply heff
    | with_reducible first | apply keeps_done | apply keeps_accepted | apply keepsOut_next
                           | apply keeps_ite | apply keepsOut_ite | apply keeps_ite_eff | apply keeps_ite_fst
    | split | simp only [keeps_mk] | dsimp only

theorem readGate_keeps {eff : State → State} (heff : ∀ u0, Keeps s0 u0 → Keeps s0 (eff u0)) (hs : Keeps s0 s) :
    KeepsOut s0 (readGate a held eff s) := by
  unfold readGate
  repeat' first
    | with_reducible first | assumption | apply keepsOut_next | apply deny_keeps | apply cyc_keeps | apply heff
    | split | simp only [keeps_mk] | dsimp only

theorem readWide_keeps (hs : Keeps s0 s) : Keeps s0 (readWide a off high v s) := by
  unfold readWide
  repeat' first
    | with_reducible first | assumption | apply respond_keeps | apply setLatch_keeps
    | split | dsimp only

end Sys2Proof.Machine
end

