-- ==== Sys2Proof/Laws/KeepsFrameAuth.lean ====
section
/-!
SUPPORT. Sys2Proof/Laws/KeepsFrameAuth.lean: every operation of FrameAuth.lean keeps the queue, the variant and the canonical form of
memory.
-/
namespace Sys2Proof.Machine

variable {s0 s t : State} {hub slot cls reason idx cts : Nat} {f : Frame} {x : Ctx} {c : Cmd}

theorem useKey_keeps (hs : Keeps s0 s) : Keeps s0 (useKey s hub slot) := by
  unfold useKey
  repeat' with_reducible
    first | assumption | apply incr_keeps

theorem authPass_keeps (hs : Keeps s0 s) : Keeps s0 (authPass s hub slot) := by
  unfold authPass
  repeat' with_reducible
    first | assumption | apply cyc_keeps | apply useKey_keeps

theorem authFail_keeps (hs : Keeps s0 s) : Keeps s0 (authFail s hub cls reason idx cts) := by
  unfold authFail
  repeat' first
    | intro _
    | with_reducible first | assumption | apply keeps_fold | apply keeps_fold_fst | apply keeps_fold_visit
                           | apply wrAll_keeps | apply incr_keeps | apply cyc_keeps | apply hwEvent_keeps
    | with_reducible first | apply keeps_done | apply keeps_accepted | apply keepsOut_next | apply keepsOut_getD
                           | apply keeps_ite | apply keepsOut_ite | apply keeps_ite_eff | apply keeps_ite_fst
    | split | simp only [keeps_mk] | dsimp only

theorem tagFrame_keeps (hs : Keeps s0 s) : Keeps s0 (tagFrame s hub slot f).1 := by
  unfold tagFrame
  repeat' first
    | with_reducible first | assumption | apply incr_keeps | apply useKey_keeps | apply drew_keeps | apply cyc_keeps
                           | apply hwEvent_keeps
    | split | dsimp only

theorem checkGoose_keeps (hs : Keeps s0 s) : Keeps s0 (checkGoose s hub f cts).1 := by
  unfold checkGoose
  repeat' first
    | with_reducible first | assumption | apply incr_keeps | apply authPass_keeps | apply authFail_keeps
    | split | dsimp only

theorem effectFaClearCounters_keeps (ht : Keeps s0 t) : Keeps s0 (effectFaClearCounters x t).state := by
  unfold effectFaClearCounters
  repeat' first
    | with_reducible first | assumption | apply Effect_done_keeps | apply clearInsts_keeps | apply clearRegs_keeps
    | split | dsimp only

theorem execFaClearCounters_keeps (hs : Keeps s0 s) : KeepsOut s0 (execFaClearCounters c s) := by
  unfold execFaClearCounters
  repeat' first
    | intro _
    | with_reducible first | assumption | apply keeps_fold | apply keeps_fold_fst | apply keeps_fold_visit
                           | apply command_keeps | apply effectFaClearCounters_keeps
    | with_reducible first | apply keeps_done | apply keeps_accepted | apply keepsOut_next
                           | apply keeps_ite | apply keepsOut_ite | apply keeps_ite_eff | apply keeps_ite_fst
    | split | simp only [keeps_mk] | dsimp only

end Sys2Proof.Machine
end

