-- ==== Sys2Proof/Laws/KeepsSwitch.lean ====
section
/-!
SUPPORT. Sys2Proof/Laws/KeepsSwitch.lean: every operation of Switch.lean keeps the queue, the variant and the canonical form of
memory.
-/
namespace Sys2Proof.Machine

variable {s0 s t a4 : State} {hub p st port mac fid idx cls len q cells j colour n i bad reason ini table v a3 entry
  cts : Nat} {flushing dei cuts egress dropped stomp first : Bool} {g : Gates} {x : Ctx} {c : Cmd} {mk : Nat → List
  Byte} {k : Copy} {r : Reg} {fin : FrameIn} {ports : List Nat} {adj : Adjust} {f : Stored} {acc : State × List (Nat ×
  Nat × Nat)} {e : TblEntry} {a : Access}

theorem setLane_keeps {s : State} {hub : Nat} {l : Lane} (hs : Keeps s0 s) : Keeps s0 (setLane s hub l) := by
  unfold setLane
  repeat' first
    | intro _
    | with_reducible first | assumption | apply keeps_fold | apply keeps_fold_fst | apply keeps_fold_visit
    | with_reducible first | apply keeps_done | apply keeps_accepted | apply keepsOut_next | apply keepsOut_getD
                           | apply keeps_ite | apply keepsOut_ite | apply keeps_ite_eff | apply keeps_ite_fst
    | split | simp only [keeps_mk] | dsimp only

theorem putPortState_keeps (hs : Keeps s0 s) : Keeps s0 (putPortState s hub p st flushing) := by
  unfold putPortState
  repeat' first
    | with_reducible first | assumption | apply wr_keeps | apply hwEvent_keeps
    | split | dsimp only

theorem putGates_keeps (hs : Keeps s0 s) : Keeps s0 (putGates s hub p g) := by
  unfold putGates
  repeat' with_reducible
    first | assumption | apply setSw_keeps

theorem stepGates_keeps (hs : Keeps s0 s) : Keeps s0 (stepGates s hub) := by
  unfold stepGates
  repeat' with_reducible
    first | assumption | apply setSw_keeps

theorem execGateListAdvance_keeps (hs : Keeps s0 s) : KeepsOut s0 (execGateListAdvance hub port s) := by
  unfold execGateListAdvance
  repeat' first
    | with_reducible first | assumption | apply keepsOut_next | apply putGates_keeps
    | split | dsimp only

theorem execQbvConfigChange_keeps (hs : Keeps s0 s) : KeepsOut s0 (execQbvConfigChange hub port s) := by
  unfold execQbvConfigChange
  repeat' first
    | with_reducible first | assumption | apply keepsOut_next | apply putGates_keeps | apply wrAll_keeps
                           | apply hwEvent_keeps
    | split | dsimp only

theorem dropGates_keeps {s : State} {hub : Nat} (hs : Keeps s0 s) : Keeps s0 (dropGates s hub) := by
  unfold dropGates
  repeat' first
    | intro _
    | with_reducible first | assumption | apply keeps_fold | apply keeps_fold_fst | apply keeps_fold_visit
                           | apply setSw_keeps | apply wrAll_keeps
    | with_reducible first | apply keeps_done | apply keeps_accepted | apply keepsOut_next | apply keepsOut_getD
                           | apply keeps_ite | apply keepsOut_ite | apply keeps_ite_eff | apply keeps_ite_fst
    | split | simp only [keeps_mk] | dsimp only

theorem effectQbvCommit_keeps (ht : Keeps s0 t) : Keeps s0 (effectQbvCommit x t).state := by
  unfold effectQbvCommit
  repeat' with_reducible
    first | assumption | apply putGates_keeps | apply Effect_done_keeps | apply wrAll_keeps

theorem execQbvCommit_keeps (hs : Keeps s0 s) : KeepsOut s0 (execQbvCommit c s) := by
  unfold execQbvCommit
  repeat' first
    | intro _
    | with_reducible first | assumption | apply keeps_fold | apply keeps_fold_fst | apply keeps_fold_visit
                           | apply command_keeps | apply effectQbvCommit_keeps
    | with_reducible first | apply keeps_done | apply keeps_accepted | apply keepsOut_next
                           | apply keeps_ite | apply keepsOut_ite | apply keeps_ite_eff | apply keeps_ite_fst
    | split | simp only [keeps_mk] | dsimp only

theorem learnMac_keeps (hs : Keeps s0 s) : Keeps s0 (learnMac s hub port mac fid) := by
  unfold learnMac
  repeat' first
    | with_reducible first | assumption | apply hwEvent_keeps | apply incr_keeps | apply setSw_keeps
    | split | dsimp only

theorem execMacAgeOut_keeps (hs : Keeps s0 s) : KeepsOut s0 (execMacAgeOut hub idx s) := by
  unfold execMacAgeOut
  repeat' first
    | with_reducible first | assumption | apply keepsOut_next | apply setSw_keeps
    | split | dsimp only

theorem police_keeps {s : State} {hub port cls len doneAt : Nat} {dei cuts : Bool} (hs : Keeps s0 s) : Keeps s0
    (police s hub port cls len doneAt dei cuts).1 := by
  unfold police
  repeat' first
    | intro _
    | with_reducible first | assumption | apply keeps_fold | apply keeps_fold_fst | apply keeps_fold_visit
                           | apply setSw_keeps
    | with_reducible first | apply keeps_done | apply keeps_accepted | apply keepsOut_next | apply keepsOut_getD
                           | apply keeps_ite | apply keepsOut_ite | apply keeps_ite_eff | apply keeps_ite_fst
    | split | simp only [keeps_mk] | dsimp only

theorem showDepth_keeps {hub : Nat} {s : State} {q : Nat} (hs : Keeps s0 s) : Keeps s0 (showDepth hub s q) := by
  unfold showDepth
  repeat' first
    | intro _
    | with_reducible first | assumption | apply keeps_fold | apply keeps_fold_fst | apply keeps_fold_visit
                           | apply wrAll_keeps
    | with_reducible first | apply keeps_done | apply keeps_accepted | apply keepsOut_next | apply keepsOut_getD
                           | apply keeps_ite | apply keepsOut_ite | apply keeps_ite_eff | apply keeps_ite_fst
    | split | simp only [keeps_mk] | dsimp only

theorem cellsArrive_keeps {s : State} {hub : Nat} (hs : Keeps s0 s) : Keeps s0 (cellsArrive s hub) := by
  unfold cellsArrive
  repeat' first
    | intro _
    | with_reducible first | assumption | apply keeps_fold | apply keeps_fold_fst | apply keeps_fold_visit
                           | apply showDepth_keeps
    | with_reducible first | apply keeps_done | apply keeps_accepted | apply keepsOut_next | apply keepsOut_getD
                           | apply keeps_ite | apply keepsOut_ite | apply keeps_ite_eff | apply keeps_ite_fst
    | split | simp only [keeps_mk] | dsimp only

theorem wred_keeps {c : Nat} (hs : Keeps s0 s) : Keeps s0 (wred s hub j c colour).1 := by
  unfold wred
  repeat' first
    | with_reducible first | assumption | apply wr_keeps | apply setSw_keeps | apply drew_keeps
    | split | dsimp only

theorem refreshFree_keeps (hs : Keeps s0 s) : Keeps s0 (refreshFree s hub) := by
  unfold refreshFree
  repeat' first
    | with_reducible first | assumption | apply wr_keeps | apply hwEvent_keeps
    | split | dsimp only

theorem dropRef_keeps (hs : Keeps s0 s) : Keeps s0 (dropRef s hub fid) := by
  unfold dropRef
  repeat' first
    | with_reducible first | assumption | apply refreshFree_keeps | apply setSw_keeps
    | split | dsimp only

theorem pushCopy_keeps {s : State} {hub : Nat} {k : Copy} (hs : Keeps s0 s) : Keeps s0 (pushCopy s hub k) := by
  unfold pushCopy
  repeat' first
    | intro _
    | with_reducible first | assumption | apply keeps_fold | apply keeps_fold_fst | apply keeps_fold_visit
                           | apply setSw_keeps | apply cyc_keeps | apply showDepth_keeps
    | with_reducible first | apply keeps_done | apply keeps_accepted | apply keepsOut_next | apply keepsOut_getD
                           | apply keeps_ite | apply keepsOut_ite | apply keeps_ite_eff | apply keeps_ite_fst
    | split | simp only [keeps_mk] | dsimp only

theorem storeFrame_keeps {s : State} {hub : Nat} {f : Stored} (hs : Keeps s0 s) : Keeps s0 (storeFrame s hub f) := by
  unfold storeFrame
  repeat' first
    | intro _
    | with_reducible first | assumption | apply keeps_fold | apply keeps_fold_fst | apply keeps_fold_visit
                           | apply refreshFree_keeps | apply setSw_keeps
    | with_reducible first | apply keeps_done | apply keeps_accepted | apply keepsOut_next | apply keepsOut_getD
                           | apply keeps_ite | apply keepsOut_ite | apply keeps_ite_eff | apply keeps_ite_fst
    | split | simp only [keeps_mk] | dsimp only

theorem dropCopy_keeps (hs : Keeps s0 s) : Keeps s0 (dropCopy s hub j r) := by
  unfold dropCopy
  repeat' with_reducible
    first | assumption | apply cyc_keeps | apply incr_keeps

theorem dropQueue_keeps {c : Nat} (hs : Keeps s0 s) : Keeps s0 (dropQueue s hub j c r) := by
  unfold dropQueue
  repeat' with_reducible
    first | assumption | apply cyc_keeps | apply dropCopy_keeps

theorem putSession_keeps {s : State} {hub n : Nat} {k : Session} (hs : Keeps s0 s) : Keeps s0 (putSession s hub n k)
    := by
  unfold putSession
  repeat' first
    | intro _
    | with_reducible first | assumption | apply keeps_fold | apply keeps_fold_fst | apply keeps_fold_visit
                           | apply setSw_keeps
    | with_reducible first | apply keeps_done | apply keeps_accepted | apply keepsOut_next | apply keepsOut_getD
                           | apply keeps_ite | apply keepsOut_ite | apply keeps_ite_eff | apply keeps_ite_fst
    | split | simp only [keeps_mk] | dsimp only

theorem samplerGap_keeps (hs : Keeps s0 s) : Keeps s0 (samplerGap s hub n).1 := by
  unfold samplerGap
  repeat' first
    | with_reducible first | assumption | apply drew_keeps
    | split | dsimp only

theorem pushSample_keeps {s : State} {hub port : Nat} {fin : FrameIn} {bs : List Byte} (hs : Keeps s0 s) : Keeps s0
    (pushSample s hub port fin bs) := by
  unfold pushSample
  repeat' first
    | intro _
    | with_reducible first | assumption | apply keeps_fold | apply keeps_fold_fst | apply keeps_fold_visit
                           | apply wred_keeps | apply dropQueue_keeps | apply pushCopy_keeps
                           | apply storeFrame_keeps
    | with_reducible first | apply keeps_done | apply keeps_accepted | apply keepsOut_next | apply keepsOut_getD
                           | apply keeps_ite | apply keepsOut_ite | apply keeps_ite_eff | apply keeps_ite_fst
    | split | simp only [keeps_mk] | dsimp only

theorem sampleTake_keeps {s : State} {hub n : Nat} (hs : Keeps s0 s) : Keeps s0 (sampleTake s hub n).1 := by
  unfold sampleTake
  repeat' first
    | intro _
    | with_reducible first | assumption | apply keeps_fold | apply keeps_fold_fst | apply keeps_fold_visit
                           | apply samplerGap_keeps
    | with_reducible first | apply keeps_done | apply keeps_accepted | apply keepsOut_next | apply keepsOut_getD
                           | apply keeps_ite | apply keepsOut_ite | apply keeps_ite_eff | apply keeps_ite_fst
    | split | simp only [keeps_mk] | dsimp only

theorem sampleOne_keeps {hub port : Nat} {egress dropped : Bool} {fin : FrameIn} {mk : Nat → List Byte} {s : State}
    {n : Nat} (hs : Keeps s0 s) : Keeps s0 (sampleOne hub port egress dropped fin mk s n) := by
  unfold sampleOne
  repeat' first
    | intro _
    | with_reducible first | assumption | apply keeps_fold | apply keeps_fold_fst | apply keeps_fold_visit
                           | apply sampleTake_keeps | apply incr_keeps | apply putSession_keeps
                           | apply pushSample_keeps
    | with_reducible first | apply keeps_done | apply keeps_accepted | apply keepsOut_next | apply keepsOut_getD
                           | apply keeps_ite | apply keepsOut_ite | apply keeps_ite_eff | apply keeps_ite_fst
    | split | simp only [keeps_mk] | dsimp only

theorem samplers_keeps {s : State} {hub port : Nat} {egress dropped : Bool} {fin : FrameIn} {mk : Nat → List Byte}
    (hs : Keeps s0 s) : Keeps s0 (samplers s hub port egress dropped fin mk) := by
  unfold samplers
  repeat' first
    | intro _
    | with_reducible first | assumption | apply keeps_fold | apply keeps_fold_fst | apply keeps_fold_visit
                           | apply sampleOne_keeps
    | with_reducible first | apply keeps_done | apply keeps_accepted | apply keepsOut_next | apply keepsOut_getD
                           | apply keeps_ite | apply keepsOut_ite | apply keeps_ite_eff | apply keeps_ite_fst
    | split | simp only [keeps_mk] | dsimp only

theorem execSamplerRecord_keeps (hs : Keeps s0 s) : KeepsOut s0 (execSamplerRecord hub s) := by
  unfold execSamplerRecord
  repeat' first
    | with_reducible first | assumption | apply keepsOut_next | apply setSw_keeps | apply hwEvent_keeps
                           | apply incr_keeps | apply wr_keeps | apply writeBytes_keeps
    | split | dsimp only

theorem mirrorCopy_keeps {s : State} {hub n i fid colour : Nat} {form : Frame} {stomp : Bool} (hs : Keeps s0 s) :
    Keeps s0 (mirrorCopy s hub n i fid colour form stomp).1 := by
  unfold mirrorCopy
  repeat' first
    | intro _
    | with_reducible first | assumption | apply keeps_fold | apply keeps_fold_fst | apply keeps_fold_visit
                           | apply incr_keeps | apply wred_keeps | apply pushCopy_keeps
    | with_reducible first | apply keeps_done | apply keeps_accepted | apply keepsOut_next | apply keepsOut_getD
                           | apply keeps_ite | apply keepsOut_ite | apply keeps_ite_eff | apply keeps_ite_fst
    | split | simp only [keeps_mk] | dsimp only

theorem mirrorIn_keeps {s : State} {hub i fid colour : Nat} {form : Frame} (hs : Keeps s0 s) : Keeps s0 (mirrorIn s
    hub i fid colour form).1 := by
  unfold mirrorIn
  repeat' first
    | intro _
    | with_reducible first | assumption | apply keeps_fold | apply keeps_fold_fst | apply keeps_fold_visit
                           | apply mirrorCopy_keeps
    | with_reducible first | apply keeps_done | apply keeps_accepted | apply keepsOut_next | apply keepsOut_getD
                           | apply keeps_ite | apply keepsOut_ite | apply keeps_ite_eff | apply keeps_ite_fst
    | split | simp only [keeps_mk] | dsimp only

theorem keepRefs_keeps {s : State} {hub fid refs : Nat} (hs : Keeps s0 s) : Keeps s0 (keepRefs s hub fid refs) := by
  unfold keepRefs
  repeat' first
    | intro _
    | with_reducible first | assumption | apply keeps_fold | apply keeps_fold_fst | apply keeps_fold_visit
                           | apply refreshFree_keeps | apply setSw_keeps
    | with_reducible first | apply keeps_done | apply keeps_accepted | apply keepsOut_next | apply keepsOut_getD
                           | apply keeps_ite | apply keepsOut_ite | apply keeps_ite_eff | apply keeps_ite_fst
    | split | simp only [keeps_mk] | dsimp only

theorem mirrorOnly_keeps {s : State} {hub : Nat} {fin : FrameIn} {colour : Nat} (hs : Keeps s0 s) : Keeps s0
    (mirrorOnly s hub fin colour) := by
  unfold mirrorOnly
  repeat' first
    | intro _
    | with_reducible first | assumption | apply keeps_fold | apply keeps_fold_fst | apply keeps_fold_visit
                           | apply mirrorIn_keeps | apply storeFrame_keeps | apply keepRefs_keeps
    | with_reducible first | apply keeps_done | apply keeps_accepted | apply keepsOut_next | apply keepsOut_getD
                           | apply keeps_ite | apply keepsOut_ite | apply keeps_ite_eff | apply keeps_ite_fst
    | split | simp only [keeps_mk] | dsimp only

theorem badBytes_keeps {s : State} {hub i len bad : Nat} (hs : Keeps s0 s) : Keeps s0 (badBytes s hub i len bad).1
    := by
  unfold badBytes
  repeat' first
    | intro _
    | with_reducible first | assumption | apply keeps_fold | apply keeps_fold_fst | apply keeps_fold_visit
                           | apply drew_keeps
    | with_reducible first | apply keeps_done | apply keeps_accepted | apply keepsOut_next | apply keepsOut_getD
                           | apply keeps_ite | apply keepsOut_ite | apply keeps_ite_eff | apply keeps_ite_fst
    | split | simp only [keeps_mk] | dsimp only

theorem admitCopy_keeps {s : State} {hub i j c colour fid len bad : Nat} (hs : Keeps s0 s) : Keeps s0 (admitCopy s
    hub i j c colour fid len bad).state := by
  unfold admitCopy
  repeat' first
    | intro _
    | with_reducible first | assumption | apply keeps_fold | apply keeps_fold_fst | apply keeps_fold_visit
                           | apply dropCopy_keeps | apply hwEvent_keeps | apply wred_keeps | apply dropQueue_keeps
                           | apply badBytes_keeps | apply incr_keeps | apply pushCopy_keeps
    | with_reducible first | apply keeps_done | apply keeps_accepted | apply keepsOut_next | apply keepsOut_getD
                           | apply keeps_ite | apply keepsOut_ite | apply keeps_ite_eff | apply keeps_ite_fst
    | split | dsimp only

theorem stompRec_keeps {s : State} {hub : Nat} {fin : FrameIn} {stomps : List Nat} {reason : Nat} (hs : Keeps s0 s)
    : Keeps s0 (stompRec s hub fin stomps reason) := by
  unfold stompRec
  repeat' first
    | intro _
    | with_reducible first | assumption | apply keeps_fold | apply keeps_fold_fst | apply keeps_fold_visit
                           | apply eventRec_keeps | apply tickPageBy_keeps
    | with_reducible first | apply keeps_done | apply keeps_accepted | apply keepsOut_next | apply keepsOut_getD
                           | apply keeps_ite | apply keepsOut_ite | apply keeps_ite_eff | apply keeps_ite_fst
    | split | simp only [keeps_mk] | dsimp only

theorem enterCopies_keeps {s : State} {hub : Nat} {fin : FrameIn} {form : Frame} {ports : List Nat} {cls colour bad
    : Nat} (hs : Keeps s0 s) : Keeps s0 (enterCopies s hub fin form ports cls colour bad) := by
  unfold enterCopies
  repeat' first
    | intro _
    | with_reducible first | assumption | apply keeps_fold | apply keeps_fold_fst | apply keeps_fold_visit
                           | apply step_keeps | apply admitCopy_keeps | apply storeFrame_keeps
                           | apply mirrorIn_keeps | apply keepRefs_keeps | apply stompRec_keeps
                           | apply samplers_keeps
    | with_reducible first | apply keeps_done | apply keeps_accepted | apply keepsOut_next | apply keepsOut_getD
                           | apply keeps_ite | apply keepsOut_ite | apply keeps_ite_eff | apply keeps_ite_fst
    | split | simp only [keeps_mk] | dsimp only

theorem sampleDrop_keeps {s : State} {hub : Nat} {fin : FrameIn} {reason : Nat} (hs : Keeps s0 s) : Keeps s0
    (sampleDrop s hub fin reason) := by
  unfold sampleDrop
  repeat' first
    | intro _
    | with_reducible first | assumption | apply keeps_fold | apply keeps_fold_fst | apply keeps_fold_visit
                           | apply samplers_keeps
    | with_reducible first | apply keeps_done | apply keeps_accepted | apply keepsOut_next | apply keepsOut_getD
                           | apply keeps_ite | apply keepsOut_ite | apply keeps_ite_eff | apply keeps_ite_fst
    | split | simp only [keeps_mk] | dsimp only

theorem dropIngress_keeps {s : State} {hub : Nat} {fin : FrameIn} {r : Reg} {reason colour : Nat} (hs : Keeps s0 s)
    : Keeps s0 (dropIngress s hub fin r reason colour) := by
  unfold dropIngress
  repeat' first
    | intro _
    | with_reducible first | assumption | apply keeps_fold | apply keeps_fold_fst | apply keeps_fold_visit
                           | apply sampleDrop_keeps | apply mirrorOnly_keeps | apply incr_keeps
    | with_reducible first | apply keeps_done | apply keeps_accepted | apply keepsOut_next | apply keepsOut_getD
                           | apply keeps_ite | apply keepsOut_ite | apply keeps_ite_eff | apply keeps_ite_fst
    | split | simp only [keeps_mk] | dsimp only

theorem countRx_keeps (hs : Keeps s0 s) : Keeps s0 (countRx s hub fin) := by
  unfold countRx
  repeat' first
    | with_reducible first | assumption | apply incr_keeps | apply cyc_keeps
    | split | dsimp only

theorem classAndEnter_keeps (hs : Keeps s0 s) : Keeps s0 (classAndEnter s hub fin ports cls bad) := by
  unfold classAndEnter
  repeat' first
    | with_reducible first | assumption | apply samplers_keeps | apply police_keeps | apply dropIngress_keeps
                           | apply enterCopies_keeps
    | split | dsimp only

theorem planFrame_keeps {s : State} {hub : Nat} {fin : FrameIn} {always : List Nat} {good : Bool} {adj : Adjust} (hs
    : Keeps s0 s) (hadj : ∀ u l, Keeps s0 u → Keeps s0 (adj u l).state) : Keeps s0 (planFrame s hub fin always good
    adj).state := by
  unfold planFrame
  repeat' first
    | intro _
    | with_reducible first | assumption | apply hadj | apply keeps_fold | apply keeps_fold_fst
                           | apply keeps_fold_visit | apply learnMac_keeps
    | with_reducible first | apply keeps_done | apply keeps_accepted | apply keepsOut_next | apply keepsOut_getD
                           | apply keeps_ite | apply keepsOut_ite | apply keeps_ite_eff | apply keeps_ite_fst
    | split | dsimp only

theorem badFrame_keeps {s : State} {hub : Nat} {fin : FrameIn} {cls : Option Nat} {always : List Nat} {bad : Nat}
    {adj : Adjust} (hs : Keeps s0 s) (_hadj : ∀ u l, Keeps s0 u → Keeps s0 (adj u l).state) : Keeps s0 (badFrame s
    hub fin cls always bad adj) := by
  unfold badFrame
  repeat' first
    | intro _
    | with_reducible first | assumption | apply hadj | apply keeps_fold | apply keeps_fold_fst
                           | apply keeps_fold_visit | apply incr_keeps | apply planFrame_keeps
                           | apply classAndEnter_keeps | apply sampleDrop_keeps
    | with_reducible first | apply keeps_done | apply keeps_accepted | apply keepsOut_next | apply keepsOut_getD
                           | apply keeps_ite | apply keepsOut_ite | apply keeps_ite_eff | apply keeps_ite_fst
    | split | simp only [keeps_mk] | dsimp only

theorem switchIngress_keeps {s : State} {hub : Nat} {fin : FrameIn} {cls : Option Nat} {always : List Nat} {adj :
    Adjust} (hs : Keeps s0 s) (hadj : ∀ u l, Keeps s0 u → Keeps s0 (adj u l).state) : Keeps s0 (switchIngress s hub
    fin cls always adj) := by
  unfold switchIngress
  repeat' first
    | intro _
    | with_reducible first | assumption | apply hadj | apply keeps_fold | apply keeps_fold_fst
                           | apply keeps_fold_visit | apply countRx_keeps | apply sampleDrop_keeps
                           | apply incr_keeps | apply badFrame_keeps | apply planFrame_keeps
                           | apply mirrorOnly_keeps | apply classAndEnter_keeps
    | with_reducible first | apply keeps_done | apply keeps_accepted | apply keepsOut_next | apply keepsOut_getD
                           | apply keeps_ite | apply keepsOut_ite | apply keeps_ite_eff | apply keeps_ite_fst
    | split | dsimp only

theorem directIngress_keeps {s : State} {hub : Nat} {fin : FrameIn} {ports : List Nat} (hs : Keeps s0 s) : Keeps s0
    (directIngress s hub fin ports) := by
  unfold directIngress
  repeat' first
    | intro _
    | with_reducible first | assumption | apply keeps_fold | apply keeps_fold_fst | apply keeps_fold_visit
                           | apply countRx_keeps | apply sampleDrop_keeps | apply incr_keeps
                           | apply classAndEnter_keeps
    | with_reducible first | apply keeps_done | apply keeps_accepted | apply keepsOut_next | apply keepsOut_getD
                           | apply keeps_ite | apply keepsOut_ite | apply keeps_ite_eff | apply keeps_ite_fst
    | split | simp only [keeps_mk] | dsimp only

theorem laneCopies_keeps {s : State} {hub : Nat} {fin : FrameIn} {cls : Nat} (hs : Keeps s0 s) : Keeps s0
    (laneCopies s hub fin cls) := by
  unfold laneCopies
  repeat' first
    | intro _
    | with_reducible first | assumption | apply keeps_fold | apply keeps_fold_fst | apply keeps_fold_visit
                           | apply countRx_keeps | apply sampleDrop_keeps | apply incr_keeps
                           | apply enterCopies_keeps
    | with_reducible first | apply keeps_done | apply keeps_accepted | apply keepsOut_next | apply keepsOut_getD
                           | apply keeps_ite | apply keepsOut_ite | apply keeps_ite_eff | apply keeps_ite_fst
    | split | simp only [keeps_mk] | dsimp only

theorem injectP15_keeps {f : Frame} (hs : Keeps s0 s) : Keeps s0 (injectP15 s hub f ports cls) := by
  unfold injectP15
  repeat' with_reducible
    first | assumption | apply enterCopies_keeps | apply countRx_keeps | apply tickSrc_keeps

theorem iterate_keeps (hacc : Keeps s0 acc.1) : Keeps s0 (iterate first hub acc).1 := by
  unfold iterate
  repeat' first
    | intro _
    | with_reducible first | assumption | apply keeps_fold | apply keeps_fold_fst | apply keeps_fold_visit
                           | apply setSw_keeps
    | with_reducible first | apply keeps_done | apply keeps_accepted | apply keepsOut_next
                           | apply keeps_ite | apply keepsOut_ite | apply keeps_ite_eff | apply keeps_ite_fst
    | split | dsimp only

theorem countTx_keeps {s : State} {hub j : Nat} {k : Copy} {out : Frame} (hs : Keeps s0 s) : Keeps s0 (countTx s hub
    j k out) := by
  unfold countTx
  repeat' first
    | intro _
    | with_reducible first | assumption | apply keeps_fold | apply keeps_fold_fst | apply keeps_fold_visit
                           | apply cyc_keeps | apply incr_keeps
    | with_reducible first | apply keeps_done | apply keeps_accepted | apply keepsOut_next | apply keepsOut_getD
                           | apply keeps_ite | apply keepsOut_ite | apply keeps_ite_eff | apply keeps_ite_fst
    | split | simp only [keeps_mk] | dsimp only

theorem wireOut_keeps {s : State} {hub j : Nat} {k : Copy} {out : Frame} (hs : Keeps s0 s) : Keeps s0 (wireOut s hub
    j k out) := by
  unfold wireOut
  repeat' first
    | intro _
    | with_reducible first | assumption | apply keeps_fold | apply keeps_fold_fst | apply keeps_fold_visit
    | with_reducible first | apply keeps_done | apply keeps_accepted | apply keepsOut_next | apply keepsOut_getD
                           | apply keeps_ite | apply keepsOut_ite | apply keeps_ite_eff | apply keeps_ite_fst
    | split | simp only [keeps_mk] | dsimp only

theorem internalOut_keeps {s : State} {hub j : Nat} {k : Copy} {f : Stored} {out : Frame} (hs : Keeps s0 s) : Keeps
    s0 (internalOut s hub j k f out) := by
  unfold internalOut
  repeat' first
    | intro _
    | with_reducible first | assumption | apply keeps_fold | apply keeps_fold_fst | apply keeps_fold_visit
                           | apply setSw_keeps
    | with_reducible first | apply keeps_done | apply keeps_accepted | apply keepsOut_next | apply keepsOut_getD
                           | apply keeps_ite | apply keepsOut_ite | apply keeps_ite_eff | apply keeps_ite_fst
    | split | simp only [keeps_mk] | dsimp only

theorem frameOut_keeps {s : State} {hub : Nat} {k : Copy} {f : Stored} (hs : Keeps s0 s) : Keeps s0 (frameOut s hub
    k f) := by
  unfold frameOut
  repeat' first
    | intro _
    | with_reducible first | assumption | apply keeps_fold | apply keeps_fold_fst | apply keeps_fold_visit
                           | apply countTx_keeps | apply wireOut_keeps | apply internalOut_keeps
                           | apply samplers_keeps | apply mirrorCopy_keeps | apply setSw_keeps
    | with_reducible first | apply keeps_done | apply keeps_accepted | apply keepsOut_next | apply keepsOut_getD
                           | apply keeps_ite | apply keepsOut_ite | apply keeps_ite_eff | apply keeps_ite_fst
    | split | simp only [keeps_mk] | dsimp only

theorem copyDone_keeps {s : State} {hub : Nat} {k : Copy} (hs : Keeps s0 s) : Keeps s0 (copyDone s hub k) := by
  unfold copyDone
  repeat' first
    | intro _
    | with_reducible first | assumption | apply keeps_fold | apply keeps_fold_fst | apply keeps_fold_visit
                           | apply setSw_keeps | apply showDepth_keeps | apply dropRef_keeps | apply frameOut_keeps
    | with_reducible first | apply keeps_done | apply keeps_accepted | apply keepsOut_next | apply keepsOut_getD
                           | apply keeps_ite | apply keepsOut_ite | apply keeps_ite_eff | apply keeps_ite_fst
    | split | dsimp only

theorem stampCopy_keeps {s : State} {hub : Nat} {k : Copy} {f : Stored} (hs : Keeps s0 s) : Keeps s0 (stampCopy s
    hub k f).1 := by
  unfold stampCopy
  repeat' first
    | intro _
    | with_reducible first | assumption | apply keeps_fold | apply keeps_fold_fst | apply keeps_fold_visit
                           | apply tickSrcBy_keeps
    | with_reducible first | apply keeps_done | apply keeps_accepted | apply keepsOut_next | apply keepsOut_getD
                           | apply keeps_ite | apply keepsOut_ite | apply keeps_ite_eff | apply keeps_ite_fst
    | split | simp only [keeps_mk] | dsimp only

theorem txTake_keeps {s : State} {hub : Nat} {k : Copy} (hs : Keeps s0 s) : Keeps s0 (txTake s hub k) := by
  unfold txTake
  repeat' first
    | intro _
    | with_reducible first | assumption | apply keeps_fold | apply keeps_fold_fst | apply keeps_fold_visit
                           | apply setSw_keeps
    | with_reducible first | apply keeps_done | apply keeps_accepted | apply keepsOut_next | apply keepsOut_getD
                           | apply keeps_ite | apply keepsOut_ite | apply keeps_ite_eff | apply keeps_ite_fst
    | split | simp only [keeps_mk] | dsimp only

theorem moveCell_keeps {hub : Nat} {s : State} {p : Nat × Nat × Nat} (hs : Keeps s0 s) : Keeps s0 (moveCell hub s p)
    := by
  unfold moveCell
  repeat' first
    | intro _
    | with_reducible first | assumption | apply keeps_fold | apply keeps_fold_fst | apply keeps_fold_visit
                           | apply setSw_keeps | apply stampCopy_keeps | apply txTake_keeps | apply copyDone_keeps
    | with_reducible first | apply keeps_done | apply keeps_accepted | apply keepsOut_next | apply keepsOut_getD
                           | apply keeps_ite | apply keepsOut_ite | apply keeps_ite_eff | apply keeps_ite_fst
    | split | dsimp only

theorem execCrossbarSlot_keeps (hs : Keeps s0 s) : KeepsOut s0 (execCrossbarSlot hub s) := by
  unfold execCrossbarSlot
  repeat' first
    | intro _
    | with_reducible first | assumption | apply keeps_fold | apply keeps_fold_fst | apply keeps_fold_visit
                           | apply iterate_keeps | apply moveCell_keeps
    | with_reducible first | apply keeps_done | apply keeps_accepted | apply keepsOut_next
                           | apply keeps_ite | apply keepsOut_ite | apply keeps_ite_eff | apply keeps_ite_fst
    | split | simp only [keeps_mk] | dsimp only

theorem flushPort_keeps (hs : Keeps s0 s) : Keeps s0 (flushPort s hub p) := by
  unfold flushPort
  repeat' first
    | intro _
    | with_reducible first | assumption | apply keeps_fold | apply keeps_fold_fst | apply keeps_fold_visit
                           | apply setSw_keeps | apply wr_keeps | apply dropRef_keeps | apply incr_keeps
    | with_reducible first | apply keeps_done | apply keeps_accepted | apply keepsOut_next
                           | apply keeps_ite | apply keepsOut_ite | apply keeps_ite_eff | apply keeps_ite_fst
    | split | simp only [keeps_mk] | dsimp only

theorem freeWindows_keeps {s : State} {hub : Nat} {fin : FrameIn} (hs : Keeps s0 s) : Keeps s0 (freeWindows s hub
    fin) := by
  unfold freeWindows
  repeat' first
    | intro _
    | with_reducible first | assumption | apply keeps_fold | apply keeps_fold_fst | apply keeps_fold_visit
                           | apply setLane_keeps
    | with_reducible first | apply keeps_done | apply keeps_accepted | apply keepsOut_next | apply keepsOut_getD
                           | apply keeps_ite | apply keepsOut_ite | apply keeps_ite_eff | apply keeps_ite_fst
    | split | simp only [keeps_mk] | dsimp only

theorem endReception_keeps {hub : Nat} {s : State} {fid : Nat} (hs : Keeps s0 s) : Keeps s0 (endReception hub s fid)
    := by
  unfold endReception
  repeat' first
    | intro _
    | with_reducible first | assumption | apply keeps_fold | apply keeps_fold_fst | apply keeps_fold_visit
                           | apply refreshFree_keeps | apply incr_keeps | apply setSw_keeps | apply showDepth_keeps
                           | apply stompRec_keeps | apply freeWindows_keeps
    | with_reducible first | apply keeps_done | apply keeps_accepted | apply keepsOut_next | apply keepsOut_getD
                           | apply keeps_ite | apply keepsOut_ite | apply keeps_ite_eff | apply keeps_ite_fst
    | split | dsimp only

theorem portDown_keeps {s : State} {hub p : Nat} (hs : Keeps s0 s) : Keeps s0 (portDown s hub p) := by
  unfold portDown
  repeat' first
    | intro _
    | with_reducible first | assumption | apply keeps_fold | apply keeps_fold_fst | apply keeps_fold_visit
                           | apply flushPort_keeps | apply putPortState_keeps | apply wr_keeps
                           | apply endReception_keeps
    | with_reducible first | apply keeps_done | apply keeps_accepted | apply keepsOut_next | apply keepsOut_getD
                           | apply keeps_ite | apply keepsOut_ite | apply keeps_ite_eff | apply keeps_ite_fst
    | split | simp only [keeps_mk] | dsimp only

theorem portReturn_keeps {s : State} {hub p : Nat} (hs : Keeps s0 s) : Keeps s0 (portReturn s hub p) := by
  unfold portReturn
  repeat' first
    | intro _
    | with_reducible first | assumption | apply keeps_fold | apply keeps_fold_fst | apply keeps_fold_visit
                           | apply putPortState_keeps | apply setSw_keeps
    | with_reducible first | apply keeps_done | apply keeps_accepted | apply keepsOut_next | apply keepsOut_getD
                           | apply keeps_ite | apply keepsOut_ite | apply keeps_ite_eff | apply keeps_ite_fst
    | split | simp only [keeps_mk] | dsimp only

theorem execPortDown_keeps (hs : Keeps s0 s) : KeepsOut s0 (execPortDown hub port s) := by
  unfold execPortDown
  repeat' first
    | with_reducible first | assumption | apply keepsOut_next | apply portDown_keeps
    | split | dsimp only

theorem execPortFlushDone_keeps (hs : Keeps s0 s) : KeepsOut s0 (execPortFlushDone hub port s) := by
  unfold execPortFlushDone
  repeat' first
    | with_reducible first | assumption | apply keepsOut_next | apply wr_keeps
    | split | dsimp only

theorem execPortLinkReturn_keeps (hs : Keeps s0 s) : KeepsOut s0 (execPortLinkReturn hub port s) := by
  unfold execPortLinkReturn
  repeat' first
    | with_reducible first | assumption | apply keepsOut_next | apply portReturn_keeps
    | split | dsimp only

theorem loadTblData_keeps (hs : Keeps s0 s) : Keeps s0 (loadTblData s hub ini e) := by
  unfold loadTblData
  repeat' with_reducible
    first | assumption | apply wrB_keeps

theorem effectTblRead_keeps (ht : Keeps s0 t) : Keeps s0 (effectTblRead x t).state := by
  unfold effectTblRead
  repeat' with_reducible
    first | assumption | apply Effect_done_keeps | apply loadTblData_keeps

theorem execTblRead_keeps (hs : Keeps s0 s) : KeepsOut s0 (execTblRead c s) := by
  unfold execTblRead
  repeat' first
    | intro _
    | with_reducible first | assumption | apply keeps_fold | apply keeps_fold_fst | apply keeps_fold_visit
                           | apply command_keeps | apply effectTblRead_keeps
    | with_reducible first | apply keeps_done | apply keeps_accepted | apply keepsOut_next
                           | apply keeps_ite | apply keepsOut_ite | apply keeps_ite_eff | apply keeps_ite_fst
    | split | simp only [keeps_mk] | dsimp only

theorem writeTbl_keeps (hs : Keeps s0 s) : Keeps s0 (writeTbl s hub table idx e) := by
  unfold writeTbl
  repeat' first
    | with_reducible first | assumption | apply setSw_keeps
    | split | dsimp only

theorem effectTblWrite_keeps (ht : Keeps s0 t) : Keeps s0 (effectTblWrite x t).state := by
  unfold effectTblWrite
  repeat' with_reducible
    first | assumption | apply Effect_done_keeps | apply writeTbl_keeps

theorem execTblWrite_keeps (hs : Keeps s0 s) : KeepsOut s0 (execTblWrite c s) := by
  unfold execTblWrite
  repeat' first
    | intro _
    | with_reducible first | assumption | apply keeps_fold | apply keeps_fold_fst | apply keeps_fold_visit
                           | apply command_keeps | apply effectTblWrite_keeps
    | with_reducible first | apply keeps_done | apply keeps_accepted | apply keepsOut_next
                           | apply keeps_ite | apply keepsOut_ite | apply keeps_ite_eff | apply keeps_ite_fst
    | split | simp only [keeps_mk] | dsimp only

theorem effectMacSearch_keeps (ht : Keeps s0 t) : Keeps s0 (effectMacSearch x t).state := by
  unfold effectMacSearch
  repeat' first
    | with_reducible first | assumption | apply loadTblData_keeps | apply wrB_keeps | apply Effect_done_keeps
    | split | dsimp only

theorem execMacSearch_keeps (hs : Keeps s0 s) : KeepsOut s0 (execMacSearch c s) := by
  unfold execMacSearch
  repeat' first
    | intro _
    | with_reducible first | assumption | apply keeps_fold | apply keeps_fold_fst | apply keeps_fold_visit
                           | apply command_keeps | apply effectMacSearch_keeps
    | with_reducible first | apply keeps_done | apply keeps_accepted | apply keepsOut_next
                           | apply keeps_ite | apply keepsOut_ite | apply keeps_ite_eff | apply keeps_ite_fst
    | split | simp only [keeps_mk] | dsimp only

theorem effectMacFlush_keeps (ht : Keeps s0 t) : Keeps s0 (effectMacFlush x t).state := by
  unfold effectMacFlush
  repeat' with_reducible
    first | assumption | apply Effect_done_keeps | apply setSw_keeps

theorem execMacFlush_keeps (hs : Keeps s0 s) : KeepsOut s0 (execMacFlush c s) := by
  unfold execMacFlush
  repeat' first
    | intro _
    | with_reducible first | assumption | apply keeps_fold | apply keeps_fold_fst | apply keeps_fold_visit
                           | apply command_keeps | apply effectMacFlush_keeps
    | with_reducible first | apply keeps_done | apply keeps_accepted | apply keepsOut_next
                           | apply keeps_ite | apply keepsOut_ite | apply keeps_ite_eff | apply keeps_ite_fst
    | split | simp only [keeps_mk] | dsimp only

theorem effectSwitchClearCounters_keeps (ht : Keeps s0 t) : Keeps s0 (effectSwitchClearCounters x t).state := by
  unfold effectSwitchClearCounters
  repeat' first
    | with_reducible first | assumption | apply Effect_done_keeps | apply clearInsts_keeps | apply setSw_keeps
                           | apply clearRegs_keeps
    | split | dsimp only

theorem execSwitchClearCounters_keeps (hs : Keeps s0 s) : KeepsOut s0 (execSwitchClearCounters c s) := by
  unfold execSwitchClearCounters
  repeat' first
    | intro _
    | with_reducible first | assumption | apply keeps_fold | apply keeps_fold_fst | apply keeps_fold_visit
                           | apply command_keeps | apply effectSwitchClearCounters_keeps
    | with_reducible first | apply keeps_done | apply keeps_accepted | apply keepsOut_next
                           | apply keeps_ite | apply keepsOut_ite | apply keeps_ite_eff | apply keeps_ite_fst
    | split | simp only [keeps_mk] | dsimp only

theorem effectSessionStart_keeps {x : Ctx} {t : State} (ht : Keeps s0 t) : Keeps s0 (effectSessionStart x t).state
    := by
  unfold effectSessionStart
  repeat' first
    | intro _
    | with_reducible first | assumption | apply keeps_fold | apply keeps_fold_fst | apply keeps_fold_visit
                           | apply samplerGap_keeps | apply wrAll_keeps | apply putSession_keeps
                           | apply Effect_done_keeps
    | with_reducible first | apply keeps_done | apply keeps_accepted | apply keepsOut_next | apply keepsOut_getD
                           | apply keeps_ite | apply keepsOut_ite | apply keeps_ite_eff | apply keeps_ite_fst
    | split | simp only [keeps_mk] | dsimp only

theorem execSessionStart_keeps (hs : Keeps s0 s) : KeepsOut s0 (execSessionStart c s) := by
  unfold execSessionStart
  repeat' first
    | intro _
    | with_reducible first | assumption | apply keeps_fold | apply keeps_fold_fst | apply keeps_fold_visit
                           | apply command_keeps | apply effectSessionStart_keeps
    | with_reducible first | apply keeps_done | apply keeps_accepted | apply keepsOut_next
                           | apply keeps_ite | apply keepsOut_ite | apply keeps_ite_eff | apply keeps_ite_fst
    | split | simp only [keeps_mk] | dsimp only

theorem effectSessionStop_keeps {x : Ctx} {t : State} (ht : Keeps s0 t) : Keeps s0 (effectSessionStop x t).state := by
  unfold effectSessionStop
  repeat' first
    | intro _
    | with_reducible first | assumption | apply keeps_fold | apply keeps_fold_fst | apply keeps_fold_visit
                           | apply wr_keeps | apply putSession_keeps | apply Effect_done_keeps
    | with_reducible first | apply keeps_done | apply keeps_accepted | apply keepsOut_next | apply keepsOut_getD
                           | apply keeps_ite | apply keepsOut_ite | apply keeps_ite_eff | apply keeps_ite_fst
    | split | simp only [keeps_mk] | dsimp only

theorem execSessionStop_keeps (hs : Keeps s0 s) : KeepsOut s0 (execSessionStop c s) := by
  unfold execSessionStop
  repeat' first
    | intro _
    | with_reducible first | assumption | apply keeps_fold | apply keeps_fold_fst | apply keeps_fold_visit
                           | apply command_keeps | apply effectSessionStop_keeps
    | with_reducible first | apply keeps_done | apply keeps_accepted | apply keepsOut_next
                           | apply keeps_ite | apply keepsOut_ite | apply keeps_ite_eff | apply keeps_ite_fst
    | split | simp only [keeps_mk] | dsimp only

theorem qRsvWrite_keeps {t : Target} (hs : Keeps s0 s) : Keeps s0 (qRsvWrite t v s) := by
  unfold qRsvWrite
  repeat' first
    | with_reducible first | assumption | apply writeT_keeps | apply wr_keeps | apply hwEvent_keeps
    | split | dsimp only

theorem execQRsvWrite_keeps (hs : Keeps s0 s) : KeepsOut s0 (execQRsvWrite a s) := by
  unfold execQRsvWrite
  repeat' first
    | intro _
    | with_reducible first | assumption | apply keeps_fold | apply keeps_fold_fst | apply keeps_fold_visit
                           | apply writeReg_keeps | apply qRsvWrite_keeps
    | with_reducible first | apply keeps_done | apply keeps_accepted | apply keepsOut_next
                           | apply keeps_ite | apply keepsOut_ite | apply keeps_ite_eff | apply keeps_ite_fst
    | split | simp only [keeps_mk] | dsimp only

theorem forwardSend_keeps {s : State} {hub : Nat} {x : Send} {adj : Lanes} (hs : Keeps s0 s) (hadj : ∀ f u l, Keeps
    s0 u → Keeps s0 (adj f u l).state) : Keeps s0 (forwardSend s hub x adj) := by
  unfold forwardSend
  repeat' first
    | intro _
    | with_reducible first | assumption | apply hadj | apply keeps_fold | apply keeps_fold_fst
                           | apply keeps_fold_visit | apply incr_keeps | apply tagFrame_keeps | apply setSw_keeps
                           | apply tickSrcBy_keeps | apply switchIngress_keeps
    | with_reducible first | apply keeps_done | apply keeps_accepted | apply keepsOut_next | apply keepsOut_getD
                           | apply keeps_ite | apply keepsOut_ite | apply keeps_ite_eff | apply keeps_ite_fst
    | split | dsimp only

theorem timedStep_keeps {s : State} {hub : Nat} {x : Send} {adj : Lanes} (hs : Keeps s0 s) (hadj : ∀ f u l, Keeps s0
    u → Keeps s0 (adj f u l).state) : Keeps s0 (timedStep s hub x adj) := by
  unfold timedStep
  repeat' first
    | intro _
    | with_reducible first | assumption | apply hadj | apply keeps_fold | apply keeps_fold_fst
                           | apply keeps_fold_visit | apply setSw_keeps | apply forwardSend_keeps
    | with_reducible first | apply keeps_done | apply keeps_accepted | apply keepsOut_next | apply keepsOut_getD
                           | apply keeps_ite | apply keepsOut_ite | apply keeps_ite_eff | apply keeps_ite_fst
    | split | simp only [keeps_mk] | dsimp only

theorem dropOversize_keeps {s : State} {v : Nat} (hs : Keeps s0 s) : Keeps s0 (dropOversize s v) := by
  unfold dropOversize
  repeat' first
    | intro _
    | with_reducible first | assumption | apply keeps_fold | apply keeps_fold_fst | apply keeps_fold_visit
                           | apply incr_keeps
    | with_reducible first | apply keeps_done | apply keeps_accepted | apply keepsOut_next | apply keepsOut_getD
                           | apply keeps_ite | apply keepsOut_ite | apply keeps_ite_eff | apply keeps_ite_fst
    | split | simp only [keeps_mk] | dsimp only

theorem sendCheck_keeps {s : State} {hub : Nat} {x : Send} {adj : Lanes} (hs : Keeps s0 s) (hadj : ∀ f u l, Keeps s0
    u → Keeps s0 (adj f u l).state) : Keeps s0 (sendCheck s hub x adj) := by
  unfold sendCheck
  repeat' first
    | intro _
    | with_reducible first | assumption | apply hadj | apply keeps_fold | apply keeps_fold_fst
                           | apply keeps_fold_visit | apply record_keeps | apply setSw_keeps
                           | apply tickPageBy_keeps | apply dropOversize_keeps | apply incr_keeps
                           | apply timedStep_keeps
    | with_reducible first | apply keeps_done | apply keeps_accepted | apply keepsOut_next | apply keepsOut_getD
                           | apply keeps_ite | apply keepsOut_ite | apply keeps_ite_eff | apply keeps_ite_fst
    | split | simp only [keeps_mk] | dsimp only

theorem releaseTokens_keeps {adj : Lanes} (hadj : ∀ f u l, Keeps s0 u → Keeps s0 (adj f u l).state) (ha4 : Keeps s0 a4) :
    Keeps s0 (releaseTokens adj hub v a3 a4) := by
  induction a3 generalizing a4 with
  | zero =>
    unfold releaseTokens
    repeat' first
      | with_reducible first | assumption
                             | apply dropOversize_keeps | apply setSw_keeps | apply timedStep_keeps | apply hadj
      | split | dsimp only
  | succ n ih =>
    unfold releaseTokens
    repeat' first
      | with_reducible first | assumption
                             | apply dropOversize_keeps | apply setSw_keeps | apply timedStep_keeps | apply hadj | apply ih
      | split | dsimp only

theorem refill_keeps {adj : Lanes} {s : State} {hub v : Nat} (hadj : ∀ f u l, Keeps s0 u → Keeps s0 (adj f u
    l).state) (hs : Keeps s0 s) : Keeps s0 (refill adj s hub v) := by
  unfold refill
  repeat' first
    | intro _
    | with_reducible first | assumption | apply hadj | apply keeps_fold | apply keeps_fold_fst
                           | apply keeps_fold_visit | apply releaseTokens_keeps | apply setSw_keeps
    | with_reducible first | apply keeps_done | apply keeps_accepted | apply keepsOut_next | apply keepsOut_getD
                           | apply keeps_ite | apply keepsOut_ite | apply keeps_ite_eff | apply keeps_ite_fst
    | split | simp only [keeps_mk] | dsimp only

theorem gooseTimedAt_keeps {adj : Lanes} {entry cts : Nat} {s : State} {hub : Nat} (hadj : ∀ f u l, Keeps s0 u →
    Keeps s0 (adj f u l).state) (hs : Keeps s0 s) : Keeps s0 (gooseTimedAt adj entry cts s hub) := by
  unfold gooseTimedAt
  repeat' first
    | intro _
    | with_reducible first | assumption | apply hadj | apply keeps_fold | apply keeps_fold_fst
                           | apply keeps_fold_visit | apply forwardSend_keeps | apply setSw_keeps
    | with_reducible first | apply keeps_done | apply keeps_accepted | apply keepsOut_next | apply keepsOut_getD
                           | apply keeps_ite | apply keepsOut_ite | apply keeps_ite_eff | apply keeps_ite_fst
    | split | dsimp only

end Sys2Proof.Machine
end

