-- ==== Sys2Proof/Laws/KeepsLane.lean ====
section
/-!
SUPPORT. Sys2Proof/Laws/KeepsLane.lean: every operation of Lane.lean keeps the queue, the variant and the canonical form of
memory.
-/
namespace Sys2Proof.Machine

variable {s0 s t a2 st0 : State} {hub i p mac kind home lane port seq idx ini cts mask cls vi entry st code v inst :
  Nat} {ws ports a3 pairs : List Nat} {id diag flags : List Byte} {f frame : Frame} {l : Lane} {n : Node} {wrong :
  Bool} {x : Ctx} {c : Cmd} {fin : FrameIn} {ability : Option Nat} {a : Access}

theorem putNode_keeps (hs : Keeps s0 s) : Keeps s0 (putNode s hub i n) := by
  unfold putNode
  repeat' with_reducible
    first | assumption | apply wr_keeps | apply setLane_keeps

theorem keepNodes_keeps {p : Nat → Node → Bool} (hs : Keeps s0 s) : Keeps s0 (keepNodes s hub p) := by
  unfold keepNodes
  repeat' with_reducible
    first | assumption | apply wr_keeps | apply setLane_keeps

theorem enterNode_keeps (hs : Keeps s0 s) : Keeps s0 (enterNode s hub mac kind home) := by
  unfold enterNode
  repeat' first
    | with_reducible first | assumption | apply putNode_keeps | apply hwEvent_keeps | apply incr_keeps
    | split | dsimp only

theorem sawNode_keeps (hs : Keeps s0 s) : Keeps s0 (sawNode s hub mac lane wrong) := by
  unfold sawNode
  repeat' first
    | with_reducible first | assumption | apply setLane_keeps
    | split | dsimp only

theorem winCheck_keeps {s : State} {hub : Nat} {fin : FrameIn} {seq : Nat} {kind : WinKind} (hs : Keeps s0 s) :
    Keeps s0 (winCheck s hub fin seq kind).1 := by
  unfold winCheck
  repeat' first
    | intro _
    | with_reducible first | assumption | apply keeps_fold | apply keeps_fold_fst | apply keeps_fold_visit
                           | apply setLane_keeps | apply incr_keeps
    | with_reducible first | apply keeps_done | apply keeps_accepted | apply keepsOut_next | apply keepsOut_getD
                           | apply keeps_ite | apply keepsOut_ite | apply keeps_ite_eff | apply keeps_ite_fst
    | split | dsimp only

theorem execEntryForgetExpiry_keeps (hs : Keeps s0 s) : KeepsOut s0 (execEntryForgetExpiry hub idx s) := by
  unfold execEntryForgetExpiry
  repeat' first
    | with_reducible first | assumption | apply keepsOut_next | apply setLane_keeps
    | split | dsimp only

theorem execNodeForgetExpiry_keeps (hs : Keeps s0 s) : KeepsOut s0 (execNodeForgetExpiry hub idx s) := by
  unfold execNodeForgetExpiry
  repeat' first
    | with_reducible first | assumption | apply keepsOut_next | apply keepNodes_keeps
    | split | dsimp only

theorem loadNode_keeps (hs : Keeps s0 s) : Keeps s0 (loadNode s hub ini ws) := by
  unfold loadNode
  repeat' first
    | intro _
    | with_reducible first | assumption | apply keeps_fold | apply keeps_fold_fst | apply keeps_fold_visit
                           | apply wrB_keeps
    | with_reducible first | apply keeps_done | apply keeps_accepted | apply keepsOut_next
                           | apply keeps_ite | apply keepsOut_ite | apply keeps_ite_eff | apply keeps_ite_fst
    | split | simp only [keeps_mk] | dsimp only

theorem effectNodeRead_keeps (ht : Keeps s0 t) : Keeps s0 (effectNodeRead x t).state := by
  unfold effectNodeRead
  repeat' with_reducible
    first | assumption | apply Effect_done_keeps | apply loadNode_keeps

theorem execNodeRead_keeps (hs : Keeps s0 s) : KeepsOut s0 (execNodeRead c s) := by
  unfold execNodeRead
  repeat' first
    | intro _
    | with_reducible first | assumption | apply keeps_fold | apply keeps_fold_fst | apply keeps_fold_visit
                           | apply command_keeps | apply effectNodeRead_keeps
    | with_reducible first | apply keeps_done | apply keeps_accepted | apply keepsOut_next
                           | apply keeps_ite | apply keepsOut_ite | apply keeps_ite_eff | apply keeps_ite_fst
    | split | simp only [keeps_mk] | dsimp only

theorem effectNodeWrite_keeps (ht : Keeps s0 t) : Keeps s0 (effectNodeWrite x t).state := by
  unfold effectNodeWrite
  repeat' first
    | with_reducible first | assumption | apply Effect_done_keeps | apply putNode_keeps | apply keepNodes_keeps
    | split | dsimp only

theorem execNodeWrite_keeps (hs : Keeps s0 s) : KeepsOut s0 (execNodeWrite c s) := by
  unfold execNodeWrite
  repeat' first
    | intro _
    | with_reducible first | assumption | apply keeps_fold | apply keeps_fold_fst | apply keeps_fold_visit
                           | apply command_keeps | apply effectNodeWrite_keeps
    | with_reducible first | apply keeps_done | apply keeps_accepted | apply keepsOut_next
                           | apply keeps_ite | apply keepsOut_ite | apply keeps_ite_eff | apply keeps_ite_fst
    | split | simp only [keeps_mk] | dsimp only

theorem effectNodeSearch_keeps (ht : Keeps s0 t) : Keeps s0 (effectNodeSearch x t).state := by
  unfold effectNodeSearch
  repeat' first
    | with_reducible first | assumption | apply loadNode_keeps | apply Effect_done_keeps
    | split | dsimp only

theorem execNodeSearch_keeps (hs : Keeps s0 s) : KeepsOut s0 (execNodeSearch c s) := by
  unfold execNodeSearch
  repeat' first
    | intro _
    | with_reducible first | assumption | apply keeps_fold | apply keeps_fold_fst | apply keeps_fold_visit
                           | apply command_keeps | apply effectNodeSearch_keeps
    | with_reducible first | apply keeps_done | apply keeps_accepted | apply keepsOut_next
                           | apply keeps_ite | apply keepsOut_ite | apply keeps_ite_eff | apply keeps_ite_fst
    | split | simp only [keeps_mk] | dsimp only

theorem effectNodeFlush_keeps (ht : Keeps s0 t) : Keeps s0 (effectNodeFlush x t).state := by
  unfold effectNodeFlush
  repeat' with_reducible
    first | assumption | apply Effect_done_keeps | apply keepNodes_keeps

theorem execNodeFlush_keeps (hs : Keeps s0 s) : KeepsOut s0 (execNodeFlush c s) := by
  unfold execNodeFlush
  repeat' first
    | intro _
    | with_reducible first | assumption | apply keeps_fold | apply keeps_fold_fst | apply keeps_fold_visit
                           | apply command_keeps | apply effectNodeFlush_keeps
    | with_reducible first | apply keeps_done | apply keeps_accepted | apply keepsOut_next
                           | apply keeps_ite | apply keepsOut_ite | apply keeps_ite_eff | apply keeps_ite_fst
    | split | simp only [keeps_mk] | dsimp only

theorem takeSeq_keeps (hs : Keeps s0 s) : Keeps s0 (takeSeq s hub mac).1 := by
  unfold takeSeq
  repeat' with_reducible
    first | assumption | apply setLane_keeps

theorem captureFrame_keeps (hs : Keeps s0 s) : Keeps s0 (captureFrame s hub p cts f) := by
  unfold captureFrame
  repeat' first
    | intro _
    | with_reducible first | assumption | apply keeps_fold | apply keeps_fold_fst | apply keeps_fold_visit
                           | apply wrAll_keeps | apply wr_keeps
    | with_reducible first | apply keeps_done | apply keeps_accepted | apply keepsOut_next
                           | apply keeps_ite | apply keepsOut_ite | apply keeps_ite_eff | apply keeps_ite_fst
    | split | simp only [keeps_mk] | dsimp only

theorem clearCaptures_keeps (hs : Keeps s0 s) : Keeps s0 (clearCaptures s hub p) := by
  unfold clearCaptures
  repeat' first
    | intro _
    | with_reducible first | assumption | apply keeps_fold | apply keeps_fold_fst | apply keeps_fold_visit
                           | apply clearRegs_keeps | apply wr_keeps
    | with_reducible first | apply keeps_done | apply keeps_accepted | apply keepsOut_next
                           | apply keeps_ite | apply keepsOut_ite | apply keeps_ite_eff | apply keeps_ite_fst
    | split | simp only [keeps_mk] | dsimp only

theorem judgeNode_keeps {s : State} {hub mac : Nat} (hs : Keeps s0 s) : Keeps s0 (judgeNode s hub mac) := by
  unfold judgeNode
  repeat' first
    | intro _
    | with_reducible first | assumption | apply keeps_fold | apply keeps_fold_fst | apply keeps_fold_visit
                           | apply setLane_keeps
    | with_reducible first | apply keeps_done | apply keeps_accepted | apply keepsOut_next | apply keepsOut_getD
                           | apply keeps_ite | apply keepsOut_ite | apply keeps_ite_eff | apply keeps_ite_fst
    | split | dsimp only

theorem seeNode_keeps {s : State} {hub : Nat} {fin : FrameIn} {wrong : Bool} (hs : Keeps s0 s) : Keeps s0 (seeNode s
    hub fin wrong) := by
  unfold seeNode
  repeat' first
    | intro _
    | with_reducible first | assumption | apply keeps_fold | apply keeps_fold_fst | apply keeps_fold_visit
                           | apply sawNode_keeps | apply enterNode_keeps | apply judgeNode_keeps
    | with_reducible first | apply keeps_done | apply keeps_accepted | apply keepsOut_next | apply keepsOut_getD
                           | apply keeps_ite | apply keepsOut_ite | apply keeps_ite_eff | apply keeps_ite_fst
    | split | dsimp only

theorem enterSan_keeps {s : State} {hub : Nat} {fin : FrameIn} (hs : Keeps s0 s) : Keeps s0 (enterSan s hub fin).1
    := by
  unfold enterSan
  repeat' first
    | intro _
    | with_reducible first | assumption | apply keeps_fold | apply keeps_fold_fst | apply keeps_fold_visit
                           | apply sawNode_keeps | apply enterNode_keeps | apply takeSeq_keeps
    | with_reducible first | apply keeps_done | apply keeps_accepted | apply keepsOut_next | apply keepsOut_getD
                           | apply keeps_ite | apply keepsOut_ite | apply keeps_ite_eff | apply keeps_ite_fst
    | split | simp only [keeps_mk] | dsimp only

theorem laneEnter_keeps {s : State} {hub : Nat} {fin : FrameIn} (hs : Keeps s0 s) : Keeps s0 (laneEnter s hub fin).1
    := by
  unfold laneEnter
  repeat' first
    | intro _
    | with_reducible first | assumption | apply keeps_fold | apply keeps_fold_fst | apply keeps_fold_visit
                           | apply seeNode_keeps | apply captureFrame_keeps | apply incr_keeps
                           | apply winCheck_keeps | apply enterSan_keeps
    | with_reducible first | apply keeps_done | apply keeps_accepted | apply keepsOut_next | apply keepsOut_getD
                           | apply keeps_ite | apply keepsOut_ite | apply keeps_ite_eff | apply keeps_ite_fst
    | split | dsimp only

theorem shadowWrite_keeps {s : State} {base size pos : Nat} {bs : List Byte} (hs : Keeps s0 s) : Keeps s0
    (shadowWrite s base size pos bs) := by
  unfold shadowWrite
  repeat' first
    | intro _
    | with_reducible first | assumption | apply keeps_fold | apply keeps_fold_fst | apply keeps_fold_visit
                           | apply writeBytes_keeps
    | with_reducible first | apply keeps_done | apply keeps_accepted | apply keepsOut_next | apply keepsOut_getD
                           | apply keeps_ite | apply keepsOut_ite | apply keeps_ite_eff | apply keeps_ite_fst
    | split | simp only [keeps_mk] | dsimp only

theorem shadowPut_keeps {s : State} {hub : Nat} {fin : FrameIn} (hs : Keeps s0 s) : Keeps s0 (shadowPut s hub fin)
    := by
  unfold shadowPut
  repeat' first
    | intro _
    | with_reducible first | assumption | apply keeps_fold | apply keeps_fold_fst | apply keeps_fold_visit
                           | apply setLane_keeps | apply incr_keeps | apply shadowWrite_keeps
    | with_reducible first | apply keeps_done | apply keeps_accepted | apply keepsOut_next | apply keepsOut_getD
                           | apply keeps_ite | apply keepsOut_ite | apply keeps_ite_eff | apply keeps_ite_fst
    | split | simp only [keeps_mk] | dsimp only

theorem laneSv_keeps {s : State} {hub : Nat} {fin : FrameIn} (hs : Keeps s0 s) : Keeps s0 (laneSv s hub fin).1 := by
  unfold laneSv
  repeat' first
    | intro _
    | with_reducible first | assumption | apply keeps_fold | apply keeps_fold_fst | apply keeps_fold_visit
                           | apply shadowPut_keeps
    | with_reducible first | apply keeps_done | apply keeps_accepted | apply keepsOut_next | apply keepsOut_getD
                           | apply keeps_ite | apply keepsOut_ite | apply keeps_ite_eff | apply keeps_ite_fst
    | split | simp only [keeps_mk] | dsimp only

theorem laneDeliver_keeps {s : State} {hub : Nat} {fin : FrameIn} {ports : List Nat} (hs : Keeps s0 s) : Keeps s0
    (laneDeliver s hub fin ports).1 := by
  unfold laneDeliver
  repeat' first
    | intro _
    | with_reducible first | assumption | apply keeps_fold | apply keeps_fold_fst | apply keeps_fold_visit
                           | apply winCheck_keeps
    | with_reducible first | apply keeps_done | apply keeps_accepted | apply keepsOut_next | apply keepsOut_getD
                           | apply keeps_ite | apply keepsOut_ite | apply keeps_ite_eff | apply keeps_ite_fst
    | split | simp only [keeps_mk] | dsimp only

theorem laneGoose_keeps {s : State} {hub : Nat} {fin : FrameIn} {won : Bool} {ports : List Nat} (hs : Keeps s0 s) :
    Keeps s0 (laneGoose s hub fin won ports).1 := by
  unfold laneGoose
  repeat' first
    | intro _
    | with_reducible first | assumption | apply keeps_fold | apply keeps_fold_fst | apply keeps_fold_visit
                           | apply checkGoose_keeps | apply setSw_keeps
    | with_reducible first | apply keeps_done | apply keeps_accepted | apply keepsOut_next | apply keepsOut_getD
                           | apply keeps_ite | apply keepsOut_ite | apply keeps_ite_eff | apply keeps_ite_fst
    | split | simp only [keeps_mk] | dsimp only

theorem laneAdjust_keeps {hub : Nat} {fin : FrameIn} {s : State} {l : List Nat} (hs : Keeps s0 s) :
    Keeps s0 (laneAdjust hub fin s l).state := by
  unfold laneAdjust
  repeat' first
    | with_reducible first | assumption | apply laneSv_keeps | apply laneDeliver_keeps | apply laneGoose_keeps
    | split | dsimp only

theorem receive_keeps {s : State} {hub : Nat} {fin : FrameIn} (hs : Keeps s0 s) : Keeps s0 (receive s hub fin) := by
  unfold receive
  repeat' first
    | intro _
    | with_reducible first | assumption | apply keeps_fold | apply keeps_fold_fst | apply keeps_fold_visit
                           | apply laneEnter_keeps | apply switchIngress_keeps | apply laneAdjust_keeps
    | with_reducible first | apply keeps_done | apply keeps_accepted | apply keepsOut_next | apply keepsOut_getD
                           | apply keeps_ite | apply keepsOut_ite | apply keeps_ite_eff | apply keeps_ite_fst
    | split | simp only [keeps_mk] | dsimp only

theorem receiveAcross_keeps {s : State} {hub : Nat} {fin : FrameIn} (hs : Keeps s0 s) : Keeps s0 (receiveAcross s
    hub fin) := by
  unfold receiveAcross
  repeat' first
    | intro _
    | with_reducible first | assumption | apply keeps_fold | apply keeps_fold_fst | apply keeps_fold_visit
                           | apply laneCopies_keeps | apply laneEnter_keeps | apply switchIngress_keeps
                           | apply laneAdjust_keeps | apply directIngress_keeps
    | with_reducible first | apply keeps_done | apply keeps_accepted | apply keepsOut_next | apply keepsOut_getD
                           | apply keeps_ite | apply keepsOut_ite | apply keeps_ite_eff | apply keeps_ite_fst
    | split | dsimp only

theorem execFrameIngress_keeps {hub port : Nat} {frame : Frame} {mask cls : Nat} {s : State} (hs : Keeps s0 s) :
    KeepsOut s0 (execFrameIngress hub port frame mask cls s) := by
  unfold execFrameIngress
  repeat' first
    | intro _
    | with_reducible first | assumption | apply keeps_fold | apply keeps_fold_fst | apply keeps_fold_visit
                           | apply receive_keeps | apply tickSrc_keeps | apply receiveAcross_keeps
                           | apply setSw_keeps | apply takeSeq_keeps | apply injectP15_keeps
    | with_reducible first | apply keeps_done | apply keeps_accepted | apply keepsOut_next | apply keepsOut_getD
                           | apply keeps_ite | apply keepsOut_ite | apply keeps_ite_eff | apply keeps_ite_fst
    | split | dsimp only

theorem execP13SendCheck_keeps {hub : Nat} {s : State} (hs : Keeps s0 s) : KeepsOut s0 (execP13SendCheck hub s) := by
  unfold execP13SendCheck
  repeat' first
    | intro _
    | with_reducible first | assumption | apply keeps_fold | apply keeps_fold_fst | apply keeps_fold_visit
                           | apply sendCheck_keeps | apply setSw_keeps | apply laneAdjust_keeps
    | with_reducible first | apply keeps_done | apply keeps_accepted | apply keepsOut_next | apply keepsOut_getD
                           | apply keeps_ite | apply keepsOut_ite | apply keeps_ite_eff | apply keeps_ite_fst
    | split | dsimp only

theorem execTokenBucketRefill_keeps {hub vi : Nat} {s : State} (hs : Keeps s0 s) : KeepsOut s0
    (execTokenBucketRefill hub vi s) := by
  unfold execTokenBucketRefill
  repeat' first
    | intro _
    | with_reducible first | assumption | apply keeps_fold | apply keeps_fold_fst | apply keeps_fold_visit
                           | apply refill_keeps | apply laneAdjust_keeps
    | with_reducible first | apply keeps_done | apply keeps_accepted | apply keepsOut_next | apply keepsOut_getD
                           | apply keeps_ite | apply keepsOut_ite | apply keeps_ite_eff | apply keeps_ite_fst
    | split | simp only [keeps_mk] | dsimp only

theorem gooseTimed_keeps {s : State} {hub entry cts : Nat} (hs : Keeps s0 s) : Keeps s0 (gooseTimed s hub entry cts)
    := by
  unfold gooseTimed
  repeat' first
    | intro _
    | with_reducible first | assumption | apply keeps_fold | apply keeps_fold_fst | apply keeps_fold_visit
                           | apply gooseTimedAt_keeps | apply laneAdjust_keeps
    | with_reducible first | apply keeps_done | apply keeps_accepted | apply keepsOut_next | apply keepsOut_getD
                           | apply keeps_ite | apply keepsOut_ite | apply keeps_ite_eff | apply keeps_ite_fst
    | split | simp only [keeps_mk] | dsimp only

theorem execSupervisionSend_keeps {hub : Nat} {s : State} (hs : Keeps s0 s) : KeepsOut s0 (execSupervisionSend hub
    s) := by
  unfold execSupervisionSend
  repeat' first
    | intro _
    | with_reducible first | assumption | apply keeps_fold | apply keeps_fold_fst | apply keeps_fold_visit
                           | apply setLane_keeps | apply takeSeq_keeps | apply injectP15_keeps
    | with_reducible first | apply keeps_done | apply keeps_accepted | apply keepsOut_next | apply keepsOut_getD
                           | apply keeps_ite | apply keepsOut_ite | apply keeps_ite_eff | apply keeps_ite_fst
    | split | simp only [keeps_mk] | dsimp only

theorem abortPlan_keeps (hs : Keeps s0 s) : Keeps s0 (abortPlan s hub) := by
  unfold abortPlan
  repeat' first
    | with_reducible first | assumption | apply finishOp_keeps | apply setLane_keeps
    | split | dsimp only

theorem putLaneState_keeps (hst0 : Keeps s0 st0) : Keeps s0 (putLaneState st0 hub st) := by
  unfold putLaneState
  repeat' first
    | with_reducible first | assumption | apply abortPlan_keeps | apply setStatus_keeps | apply setLane_keeps
                           | apply hwEvent_keeps
    | split | dsimp only

theorem laneJudge_keeps (hs : Keeps s0 s) : Keeps s0 (laneJudge s) := by
  unfold laneJudge
  repeat' first
    | intro _
    | with_reducible first | assumption | apply keeps_fold | apply keeps_fold_fst | apply keeps_fold_visit
                           | apply putLaneState_keeps | apply setStatus_keeps
    | with_reducible first | apply keeps_done | apply keeps_accepted | apply keepsOut_next
                           | apply keeps_ite | apply keepsOut_ite | apply keeps_ite_eff | apply keeps_ite_fst
    | split | simp only [keeps_mk] | dsimp only

theorem laneReleased_keeps {s : State} {hub : Nat} (hs : Keeps s0 s) : Keeps s0 (laneReleased s hub) := by
  unfold laneReleased
  repeat' first
    | intro _
    | with_reducible first | assumption | apply keeps_fold | apply keeps_fold_fst | apply keeps_fold_visit
                           | apply setStatus_keeps | apply setLane_keeps
    | with_reducible first | apply keeps_done | apply keeps_accepted | apply keepsOut_next | apply keepsOut_getD
                           | apply keeps_ite | apply keepsOut_ite | apply keeps_ite_eff | apply keeps_ite_fst
    | split | simp only [keeps_mk] | dsimp only

theorem putPortLink_keeps (hs : Keeps s0 s) : Keeps s0 (putPortLink s hub p code) := by
  unfold putPortLink
  repeat' with_reducible
    first | assumption | apply wr_keeps

theorem lineDown_keeps {s : State} {hub p : Nat} (hs : Keeps s0 s) : Keeps s0 (lineDown s hub p) := by
  unfold lineDown
  repeat' first
    | intro _
    | with_reducible first | assumption | apply keeps_fold | apply keeps_fold_fst | apply keeps_fold_visit
                           | apply wr_keeps
    | with_reducible first | apply keeps_done | apply keeps_accepted | apply keepsOut_next | apply keepsOut_getD
                           | apply keeps_ite | apply keepsOut_ite | apply keeps_ite_eff | apply keeps_ite_fst
    | split | simp only [keeps_mk] | dsimp only

theorem lineUp_keeps {s : State} {hub p : Nat} {an gigabit mdix : Bool} (hs : Keeps s0 s) : Keeps s0 (lineUp s hub p
    an gigabit mdix) := by
  unfold lineUp
  repeat' first
    | intro _
    | with_reducible first | assumption | apply keeps_fold | apply keeps_fold_fst | apply keeps_fold_visit
                           | apply wr_keeps
    | with_reducible first | apply keeps_done | apply keeps_accepted | apply keepsOut_next | apply keepsOut_getD
                           | apply keeps_ite | apply keepsOut_ite | apply keeps_ite_eff | apply keeps_ite_fst
    | split | simp only [keeps_mk] | dsimp only

theorem leaveUp_keeps {s : State} {hub p code : Nat} (hs : Keeps s0 s) : Keeps s0 (leaveUp s hub p code) := by
  unfold leaveUp
  repeat' first
    | intro _
    | with_reducible first | assumption | apply keeps_fold | apply keeps_fold_fst | apply keeps_fold_visit
                           | apply portDown_keeps | apply lineDown_keeps | apply clearCaptures_keeps
                           | apply putPortLink_keeps
    | with_reducible first | apply keeps_done | apply keeps_accepted | apply keepsOut_next | apply keepsOut_getD
                           | apply keeps_ite | apply keepsOut_ite | apply keeps_ite_eff | apply keeps_ite_fst
    | split | simp only [keeps_mk] | dsimp only

theorem putTandemLink_keeps (hs : Keeps s0 s) : Keeps s0 (putTandemLink s hub code) := by
  unfold putTandemLink
  repeat' with_reducible
    first | assumption | apply hwEvent_keeps | apply wr_keeps

theorem islandPorts_keeps {s : State} {hub : Nat} (hs : Keeps s0 s) : Keeps s0 (islandPorts s hub) := by
  unfold islandPorts
  repeat' first
    | intro _
    | with_reducible first | assumption | apply keeps_fold | apply keeps_fold_fst | apply keeps_fold_visit
                           | apply putPortLink_keeps
    | with_reducible first | apply keeps_done | apply keeps_accepted | apply keepsOut_next | apply keepsOut_getD
                           | apply keeps_ite | apply keepsOut_ite | apply keeps_ite_eff | apply keeps_ite_fst
    | split | simp only [keeps_mk] | dsimp only

theorem execLinkSignalUp_keeps {hub port : Nat} {seen : LinkSeen} {s : State} (hs : Keeps s0 s) :
    KeepsOut s0 (execLinkSignalUp hub port seen s) := by
  unfold execLinkSignalUp
  repeat' first
    | intro _
    | with_reducible first | assumption | apply keeps_fold | apply keeps_fold_fst | apply keeps_fold_visit
                           | apply putPortLink_keeps | apply wrAll_keeps | apply portReturn_keeps
                           | apply lineUp_keeps | apply putTandemLink_keeps
    | with_reducible first | apply keeps_done | apply keeps_accepted | apply keepsOut_next | apply keepsOut_getD
                           | apply keeps_ite | apply keepsOut_ite | apply keeps_ite_eff | apply keeps_ite_fst
    | split | simp only [keeps_mk] | dsimp only

theorem execLinkSignalLoss_keeps {hub : Nat} {gone : LinkGone} {s : State} (hs : Keeps s0 s) :
    KeepsOut s0 (execLinkSignalLoss hub gone s) := by
  unfold execLinkSignalLoss
  repeat' first
    | intro _
    | with_reducible first | assumption | apply keeps_fold | apply keeps_fold_fst | apply keeps_fold_visit
                           | apply setLane_keeps | apply wr_keeps | apply leaveUp_keeps | apply hwEvent_keeps
                           | apply putTandemLink_keeps
    | with_reducible first | apply keeps_done | apply keeps_accepted | apply keepsOut_next | apply keepsOut_getD
                           | apply keeps_ite | apply keepsOut_ite | apply keeps_ite_eff | apply keeps_ite_fst
    | split | simp only [keeps_mk] | dsimp only

theorem lpCfgWrite_keeps {t : Target} (hs : Keeps s0 s) : Keeps s0 (lpCfgWrite t v s) := by
  unfold lpCfgWrite
  repeat' first
    | with_reducible first | assumption | apply writeT_keeps | apply putPortLink_keeps | apply leaveUp_keeps
    | split | dsimp only

theorem execLpCfgWrite_keeps (hs : Keeps s0 s) : KeepsOut s0 (execLpCfgWrite a s) := by
  unfold execLpCfgWrite
  repeat' first
    | intro _
    | with_reducible first | assumption | apply keeps_fold | apply keeps_fold_fst | apply keeps_fold_visit
                           | apply writeReg_keeps | apply lpCfgWrite_keeps
    | with_reducible first | apply keeps_done | apply keeps_accepted | apply keepsOut_next
                           | apply keeps_ite | apply keepsOut_ite | apply keeps_ite_eff | apply keeps_ite_fst
    | split | simp only [keeps_mk] | dsimp only

theorem effectLinkRestart_keeps (ht : Keeps s0 t) : Keeps s0 (effectLinkRestart x t).state := by
  unfold effectLinkRestart
  repeat' with_reducible
    first | assumption | apply Effect_done_keeps | apply wr_keeps | apply setLane_keeps

theorem execLinkRestart_keeps (hs : Keeps s0 s) : KeepsOut s0 (execLinkRestart c s) := by
  unfold execLinkRestart
  repeat' first
    | intro _
    | with_reducible first | assumption | apply keeps_fold | apply keeps_fold_fst | apply keeps_fold_visit
                           | apply command_keeps | apply effectLinkRestart_keeps
    | with_reducible first | apply keeps_done | apply keeps_accepted | apply keepsOut_next
                           | apply keeps_ite | apply keepsOut_ite | apply keeps_ite_eff | apply keeps_ite_fst
    | split | simp only [keeps_mk] | dsimp only

theorem effectLaneClearCounters_keeps (ht : Keeps s0 t) : Keeps s0 (effectLaneClearCounters x t).state := by
  unfold effectLaneClearCounters
  repeat' first
    | with_reducible first | assumption | apply Effect_done_keeps | apply clearInsts_keeps | apply clearRegs_keeps
    | split | dsimp only

theorem execLaneClearCounters_keeps (hs : Keeps s0 s) : KeepsOut s0 (execLaneClearCounters c s) := by
  unfold execLaneClearCounters
  repeat' first
    | intro _
    | with_reducible first | assumption | apply keeps_fold | apply keeps_fold_fst | apply keeps_fold_visit
                           | apply command_keeps | apply effectLaneClearCounters_keeps
    | with_reducible first | apply keeps_done | apply keeps_accepted | apply keepsOut_next
                           | apply keeps_ite | apply keepsOut_ite | apply keeps_ite_eff | apply keeps_ite_fst
    | split | simp only [keeps_mk] | dsimp only

theorem effectTdrRun_keeps (ht : Keeps s0 t) : Keeps s0 (effectTdrRun x t).state := by
  unfold effectTdrRun
  repeat' first
    | with_reducible first | assumption | apply Effect_accepted_keeps | apply leaveUp_keeps
    | split | dsimp only

theorem execTdrRun_keeps (hs : Keeps s0 s) : KeepsOut s0 (execTdrRun c s) := by
  unfold execTdrRun
  repeat' first
    | intro _
    | with_reducible first | assumption | apply keeps_fold | apply keeps_fold_fst | apply keeps_fold_visit
                           | apply command_keeps | apply effectTdrRun_keeps
    | with_reducible first | apply keeps_done | apply keeps_accepted | apply keepsOut_next
                           | apply keeps_ite | apply keepsOut_ite | apply keeps_ite_eff | apply keeps_ite_fst
    | split | simp only [keeps_mk] | dsimp only

theorem tdrPair_keeps {s : State} {hub inst : Nat} {r : Nat × Nat} (hs : Keeps s0 s) : Keeps s0 (tdrPair s hub inst
    r).1 := by
  unfold tdrPair
  repeat' first
    | intro _
    | with_reducible first | assumption | apply keeps_fold | apply keeps_fold_fst | apply keeps_fold_visit
                           | apply drew_keeps
    | with_reducible first | apply keeps_done | apply keeps_accepted | apply keepsOut_next | apply keepsOut_getD
                           | apply keeps_ite | apply keepsOut_ite | apply keeps_ite_eff | apply keeps_ite_fst
    | split | simp only [keeps_mk] | dsimp only

theorem tdrWord_keeps {s : State} {hub inst : Nat} {r : Option (Nat × Nat)} (hs : Keeps s0 s) : Keeps s0 (tdrWord s
    hub inst r).1 := by
  unfold tdrWord
  repeat' first
    | intro _
    | with_reducible first | assumption | apply keeps_fold | apply keeps_fold_fst | apply keeps_fold_visit
                           | apply tdrPair_keeps
    | with_reducible first | apply keeps_done | apply keeps_accepted | apply keepsOut_next | apply keepsOut_getD
                           | apply keeps_ite | apply keepsOut_ite | apply keeps_ite_eff | apply keeps_ite_fst
    | split | simp only [keeps_mk] | dsimp only

theorem execTdrDone_keeps {hub inst : Nat} {pairs : List (Nat × Nat)} {s : State} (hs : Keeps s0 s) : KeepsOut s0
    (execTdrDone hub inst pairs s) := by
  unfold execTdrDone
  repeat' first
    | intro _
    | with_reducible first | assumption | apply keeps_fold | apply keeps_fold_fst | apply keeps_fold_visit
                           | apply tdrWord_keeps | apply wr_keeps | apply putPortLink_keeps | apply finish_keeps
    | with_reducible first | apply keeps_done | apply keeps_accepted | apply keepsOut_next | apply keepsOut_getD
                           | apply keeps_ite | apply keepsOut_ite | apply keeps_ite_eff | apply keeps_ite_fst
    | split | simp only [keeps_mk] | dsimp only

theorem cagePins_keeps {s : State} {hub port pins : Nat} (hs : Keeps s0 s) : Keeps s0 (cagePins s hub port pins) := by
  unfold cagePins
  repeat' first
    | intro _
    | with_reducible first | assumption | apply keeps_fold | apply keeps_fold_fst | apply keeps_fold_visit
                           | apply wr_keeps
    | with_reducible first | apply keeps_done | apply keeps_accepted | apply keepsOut_next | apply keepsOut_getD
                           | apply keeps_ite | apply keepsOut_ite | apply keeps_ite_eff | apply keeps_ite_fst
    | split | simp only [keeps_mk] | dsimp only

theorem execSfpInsertion_keeps {hub port : Nat} {id : CageRead} {s : State} (hs : Keeps s0 s) :
    KeepsOut s0 (execSfpInsertion hub port id s) := by
  unfold execSfpInsertion
  repeat' first
    | intro _
    | with_reducible first | assumption | apply keeps_fold | apply keeps_fold_fst | apply keeps_fold_visit
                           | apply cagePins_keeps | apply setLane_keeps | apply wr_keeps | apply hwEvent_keeps
    | with_reducible first | apply keeps_done | apply keeps_accepted | apply keepsOut_next | apply keepsOut_getD
                           | apply keeps_ite | apply keepsOut_ite | apply keeps_ite_eff | apply keeps_ite_fst
    | split | simp only [keeps_mk] | dsimp only

theorem execSfpModuleRemoval_keeps (hs : Keeps s0 s) : KeepsOut s0 (execSfpModuleRemoval hub port s) := by
  unfold execSfpModuleRemoval
  repeat' first
    | with_reducible first | assumption | apply keepsOut_next | apply hwEvent_keeps | apply wr_keeps
    | split | dsimp only

theorem execDdmPoll_keeps {hub port : Nat} {diag : CageRead} {flags : List Byte} {s : State} (hs : Keeps s0 s) :
    KeepsOut s0 (execDdmPoll hub port diag flags s) := by
  unfold execDdmPoll
  repeat' first
    | intro _
    | with_reducible first | assumption | apply keeps_fold | apply keeps_fold_fst | apply keeps_fold_visit
                           | apply wrAll_keeps | apply cagePins_keeps | apply setLane_keeps
    | with_reducible first | apply keeps_done | apply keeps_accepted | apply keepsOut_next | apply keepsOut_getD
                           | apply keeps_ite | apply keepsOut_ite | apply keeps_ite_eff | apply keeps_ite_fst
    | split | simp only [keeps_mk] | dsimp only

theorem sdCfgWrite_keeps {t : Target} (hs : Keeps s0 s) : Keeps s0 (sdCfgWrite t v s) := by
  unfold sdCfgWrite
  repeat' first
    | with_reducible first | assumption | apply writeT_keeps | apply hwEvent_keeps
    | split | dsimp only

theorem execSdCfgWrite_keeps (hs : Keeps s0 s) : KeepsOut s0 (execSdCfgWrite a s) := by
  unfold execSdCfgWrite
  repeat' first
    | intro _
    | with_reducible first | assumption | apply keeps_fold | apply keeps_fold_fst | apply keeps_fold_visit
                           | apply writeReg_keeps | apply sdCfgWrite_keeps
    | with_reducible first | apply keeps_done | apply keeps_accepted | apply keepsOut_next
                           | apply keeps_ite | apply keepsOut_ite | apply keeps_ite_eff | apply keeps_ite_fst
    | split | simp only [keeps_mk] | dsimp only

end Sys2Proof.Machine
end

