-- ==== Sys2Proof/Laws/KeepsXlate.lean ====
section
/-!
SUPPORT. Sys2Proof/Laws/KeepsXlate.lean: every operation of Xlate.lean keeps the queue, the variant and the canonical form of
memory.
-/
namespace Sys2Proof.Machine

variable {s0 s a3 t : State} {v n die page engine hub i f gpa vi : Nat} {write b : Bool} {bs bytes : List Byte} {x :
  Ctx} {c : Cmd} {l : DirtyLog} {j : Job} {a1 : List Job} {a2 : List Source} {w : Walk} {fin : FrameIn} {q : SendReq}

theorem setVi_keeps {x : ViSt} (hs : Keeps s0 s) : Keeps s0 (setVi s v x) := by
  unfold setVi
  repeat' first
    | with_reducible first | assumption
    | split | simp only [keeps_mk] | dsimp only

theorem viEvent_keeps (hs : Keeps s0 s) : Keeps s0 (viEvent s v n) := by
  unfold viEvent
  repeat' with_reducible
    first | assumption | apply hwEvent_keeps | apply wr_keeps

theorem countCut_keeps {c : Cut} (hs : Keeps s0 s) : Keeps s0 (countCut s v c) := by
  unfold countCut
  repeat' first
    | with_reducible first | assumption | apply wr_keeps
    | split | dsimp only

theorem unhold_keeps {s : State} {src : Source} (hs : Keeps s0 s) : Keeps s0 (unhold s src) := by
  unfold unhold
  repeat' first
    | intro _
    | with_reducible first | assumption | apply keeps_fold | apply keeps_fold_fst | apply keeps_fold_visit
    | with_reducible first | apply keeps_done | apply keeps_accepted | apply keepsOut_next | apply keepsOut_getD
                           | apply keeps_ite | apply keepsOut_ite | apply keeps_ite_eff | apply keeps_ite_fst
    | split | simp only [keeps_mk] | dsimp only

theorem shareRefuse_keeps {s : State} {v : Nat} (hs : Keeps s0 s) : Keeps s0 (shareRefuse s v) := by
  unfold shareRefuse
  repeat' first
    | intro _
    | with_reducible first | assumption | apply keeps_fold | apply keeps_fold_fst | apply keeps_fold_visit
                           | apply incr_keeps
    | with_reducible first | apply keeps_done | apply keeps_accepted | apply keepsOut_next | apply keepsOut_getD
                           | apply keeps_ite | apply keepsOut_ite | apply keeps_ite_eff | apply keeps_ite_fst
    | split | simp only [keeps_mk] | dsimp only

theorem putVi_keeps {s : State} {a : Nat} {b : Byte} (hs : Keeps s0 s) : Keeps s0 (putVi s a b) := by
  unfold putVi
  repeat' first
    | intro _
    | with_reducible first | assumption | apply keeps_fold | apply keeps_fold_fst | apply keeps_fold_visit
                           | apply writeBytes_keeps
    | with_reducible first | apply keeps_done | apply keeps_accepted | apply keepsOut_next | apply keepsOut_getD
                           | apply keeps_ite | apply keepsOut_ite | apply keeps_ite_eff | apply keeps_ite_fst
    | split | simp only [keeps_mk] | dsimp only

theorem setXl_keeps {x : Xlate} (hs : Keeps s0 s) : Keeps s0 (setXl s die x) := by
  unfold setXl
  repeat' first
    | with_reducible first | assumption
    | split | simp only [keeps_mk] | dsimp only

theorem startWalk_keeps (hs : Keeps s0 s) : Keeps s0 (startWalk s v page write) := by
  unfold startWalk
  repeat' first
    | with_reducible first | assumption | apply cyc_keeps | apply incr_keeps | apply setXl_keeps
    | split | dsimp only

theorem setLog_keeps (hs : Keeps s0 s) : Keeps s0 (setLog s v l) := by
  unfold setLog
  repeat' first
    | with_reducible first | assumption | apply wr_keeps
    | split | simp only [keeps_mk] | dsimp only

theorem logPage_keeps (hs : Keeps s0 s) : Keeps s0 (logPage s v page) := by
  unfold logPage
  repeat' first
    | with_reducible first | assumption | apply cyc_keeps | apply writeBytes_keeps | apply hwEvent_keeps
                           | apply incr_keeps
    | split | dsimp only

theorem xlFault_keeps (hs : Keeps s0 s) : Keeps s0 (xlFault s v engine page write) := by
  unfold xlFault
  repeat' with_reducible
    first | assumption | apply wrAll_keeps | apply incr_keeps | apply tickPage_keeps | apply cyc_keeps
          | apply eventRec_keeps

theorem destFault_keeps (hs : Keeps s0 s) : Keeps s0 (destFault s hub i n) := by
  unfold destFault
  repeat' first
    | with_reducible first | assumption | apply incr_keeps | apply wr_keeps | apply eventRec_keeps
                           | apply tickPage_keeps
    | split | simp only [keeps_mk] | dsimp only

theorem detFault_keeps (hs : Keeps s0 s) : Keeps s0 (detFault s hub i) := by
  unfold detFault
  repeat' first
    | with_reducible first | assumption | apply wr_keeps | apply eventRec_keeps | apply tickPage_keeps
    | split | simp only [keeps_mk] | dsimp only

theorem setSlice_keeps {x : Slice} (hs : Keeps s0 s) : Keeps s0 (setSlice s die x) := by
  unfold setSlice
  repeat' first
    | with_reducible first | assumption
    | split | simp only [keeps_mk] | dsimp only

theorem flowEvent_keeps (hs : Keeps s0 s) : Keeps s0 (flowEvent s die f n) := by
  unfold flowEvent
  repeat' first
    | with_reducible first | assumption | apply hwEvent_keeps | apply setHdr_keeps
    | split | dsimp only

theorem ringFault_keeps (hs : Keeps s0 s) : Keeps s0 (ringFault s die f) := by
  unfold ringFault
  repeat' first
    | with_reducible first | assumption | apply flowEvent_keeps | apply setSlice_keeps
    | split | dsimp only

theorem rxFault_keeps {s : State} {die i lost : Nat} (hs : Keeps s0 s) : Keeps s0 (rxFault s die i lost) := by
  unfold rxFault
  repeat' first
    | intro _
    | with_reducible first | assumption | apply keeps_fold | apply keeps_fold_fst | apply keeps_fold_visit
                           | apply setXl_keeps | apply wr_keeps | apply hwEvent_keeps | apply incr_keeps
    | with_reducible first | apply keeps_done | apply keeps_accepted | apply keepsOut_next | apply keepsOut_getD
                           | apply keeps_ite | apply keepsOut_ite | apply keeps_ite_eff | apply keeps_ite_fst
    | split | dsimp only

theorem setCap_keeps {c : Capture} (hs : Keeps s0 s) : Keeps s0 (setCap s hub c) := by
  unfold setCap
  repeat' first
    | with_reducible first | assumption
    | split | simp only [keeps_mk] | dsimp only

theorem drainBlocks_keeps {s : State} {hub : Nat} (hs : Keeps s0 s) : Keeps s0 (drainBlocks s hub) := by
  unfold drainBlocks
  repeat' first
    | intro _
    | with_reducible first | assumption | apply keeps_fold | apply keeps_fold_fst | apply keeps_fold_visit
                           | apply writeBytes_keeps | apply setCap_keeps
    | with_reducible first | apply keeps_done | apply keeps_accepted | apply keepsOut_next | apply keepsOut_getD
                           | apply keeps_ite | apply keepsOut_ite | apply keeps_ite_eff | apply keeps_ite_fst
    | split | simp only [keeps_mk] | dsimp only

theorem onRead_keeps {f : CapRead → CapRead} (hs : Keeps s0 s) : Keeps s0 (onRead s hub f) := by
  unfold onRead
  repeat' first
    | with_reducible first | assumption | apply setCap_keeps
    | split | dsimp only

theorem readoutFault_keeps (hs : Keeps s0 s) : Keeps s0 (readoutFault s hub) := by
  unfold readoutFault
  repeat' with_reducible
    first | assumption | apply onRead_keeps

theorem engineFault_keeps {s : State} {x : Source} {lost : Nat} (hs : Keeps s0 s) : Keeps s0 (engineFault s x lost)
    := by
  unfold engineFault
  repeat' first
    | intro _
    | with_reducible first | assumption | apply keeps_fold | apply keeps_fold_fst | apply keeps_fold_visit
                           | apply destFault_keeps | apply detFault_keeps | apply ringFault_keeps
                           | apply rxFault_keeps | apply readoutFault_keeps
    | with_reducible first | apply keeps_done | apply keeps_accepted | apply keepsOut_next | apply keepsOut_getD
                           | apply keeps_ite | apply keepsOut_ite | apply keeps_ite_eff | apply keeps_ite_fst
    | split | simp only [keeps_mk] | dsimp only

theorem putGuest_keeps {s : State} {x : Xlate} {v gpa : Nat} {bs : List Byte} (hs : Keeps s0 s) : Keeps s0 (putGuest
    s x v gpa bs) := by
  unfold putGuest
  repeat' first
    | intro _
    | with_reducible first | assumption | apply keeps_fold | apply keeps_fold_fst | apply keeps_fold_visit
                           | apply putVi_keeps
    | with_reducible first | apply keeps_done | apply keeps_accepted | apply keepsOut_next | apply keepsOut_getD
                           | apply keeps_ite | apply keepsOut_ite | apply keeps_ite_eff | apply keeps_ite_fst
    | split | dsimp only

theorem doJob_keeps {s : State} {die : Nat} {j : Job} (hs : Keeps s0 s) : Keeps s0 (doJob s die j) := by
  unfold doJob
  repeat' first
    | intro _
    | with_reducible first | assumption | apply keeps_fold | apply keeps_fold_fst | apply keeps_fold_visit
                           | apply logPage_keeps | apply putGuest_keeps | apply onRead_keeps | apply incr_keeps
    | with_reducible first | apply keeps_done | apply keeps_accepted | apply keepsOut_next | apply keepsOut_getD
                           | apply keeps_ite | apply keepsOut_ite | apply keeps_ite_eff | apply keeps_ite_fst
    | split | simp only [keeps_mk] | dsimp only

theorem runJobs_keeps (ha3 : Keeps s0 a3) : Keeps s0 (runJobs die a1 a2 a3) := by
  induction a1 generalizing a2 a3 with
  | nil =>
    unfold runJobs
    repeat' first
      | intro _
      | with_reducible first | assumption | apply keeps_fold | apply keeps_fold_fst | apply keeps_fold_visit
                             | apply startWalk_keeps | apply doJob_keeps | apply setXl_keeps
      | with_reducible first | apply keeps_done | apply keeps_accepted | apply keepsOut_next
                             | apply keeps_ite | apply keepsOut_ite | apply keeps_ite_eff | apply keeps_ite_fst
      | split | simp only [keeps_mk] | dsimp only
  | cons x l ih =>
    unfold runJobs
    repeat' first
      | intro _
      | with_reducible first | assumption | apply keeps_fold | apply keeps_fold_fst | apply keeps_fold_visit
                             | apply startWalk_keeps | apply doJob_keeps | apply setXl_keeps | apply ih
      | with_reducible first | apply keeps_done | apply keeps_accepted | apply keepsOut_next
                             | apply keeps_ite | apply keepsOut_ite | apply keeps_ite_eff | apply keeps_ite_fst
      | split | simp only [keeps_mk] | dsimp only

theorem absentFault_keeps {s : State} {src : Source} {v gpa : Nat} (hs : Keeps s0 s) : Keeps s0 (absentFault s src v
    gpa) := by
  unfold absentFault
  repeat' first
    | intro _
    | with_reducible first | assumption | apply keeps_fold | apply keeps_fold_fst | apply keeps_fold_visit
                           | apply engineFault_keeps | apply xlFault_keeps
    | with_reducible first | apply keeps_done | apply keeps_accepted | apply keepsOut_next | apply keepsOut_getD
                           | apply keeps_ite | apply keepsOut_ite | apply keeps_ite_eff | apply keeps_ite_fst
    | split | simp only [keeps_mk] | dsimp only

theorem viWrite_keeps {s : State} {j : Job} (hs : Keeps s0 s) : Keeps s0 (viWrite s j) := by
  unfold viWrite
  repeat' first
    | intro _
    | with_reducible first | assumption | apply keeps_fold | apply keeps_fold_fst | apply keeps_fold_visit
                           | apply absentFault_keeps | apply setXl_keeps | apply runJobs_keeps
    | with_reducible first | apply keeps_done | apply keeps_accepted | apply keepsOut_next | apply keepsOut_getD
                           | apply keeps_ite | apply keepsOut_ite | apply keeps_ite_eff | apply keeps_ite_fst
    | split | simp only [keeps_mk] | dsimp only

theorem prefetch_keeps {s : State} {src : Source} {v : Nat} {pages : List Nat} (hs : Keeps s0 s) : Keeps s0
    (prefetch s src v pages) := by
  unfold prefetch
  repeat' first
    | intro _
    | with_reducible first | assumption | apply keeps_fold | apply keeps_fold_fst | apply keeps_fold_visit
                           | apply setXl_keeps | apply startWalk_keeps
    | with_reducible first | apply keeps_done | apply keeps_accepted | apply keepsOut_next | apply keepsOut_getD
                           | apply keeps_ite | apply keepsOut_ite | apply keeps_ite_eff | apply keeps_ite_fst
    | split | simp only [keeps_mk] | dsimp only

theorem rewindHead_keeps {s : State} {j : Job} (hs : Keeps s0 s) : Keeps s0 (rewindHead s j) := by
  unfold rewindHead
  repeat' first
    | intro _
    | with_reducible first | assumption | apply keeps_fold | apply keeps_fold_fst | apply keeps_fold_visit
                           | apply setSlice_keeps | apply setXl_keeps
    | with_reducible first | apply keeps_done | apply keeps_accepted | apply keepsOut_next | apply keepsOut_getD
                           | apply keeps_ite | apply keepsOut_ite | apply keeps_ite_eff | apply keeps_ite_fst
    | split | simp only [keeps_mk] | dsimp only

theorem sendFault_keeps {s : State} {q : SendReq} {page : Nat} (hs : Keeps s0 s) : Keeps s0 (sendFault s q page) := by
  unfold sendFault
  repeat' first
    | intro _
    | with_reducible first | assumption | apply keeps_fold | apply keeps_fold_fst | apply keeps_fold_visit
                           | apply xlFault_keeps | apply incr_keeps | apply hwEvent_keeps
    | with_reducible first | apply keeps_done | apply keeps_accepted | apply keepsOut_next | apply keepsOut_getD
                           | apply keeps_ite | apply keepsOut_ite | apply keeps_ite_eff | apply keeps_ite_fst
    | split | simp only [keeps_mk] | dsimp only

theorem walkFaults_keeps {s : State} {die : Nat} {w : Walk} (hs : Keeps s0 s) : Keeps s0 (walkFaults s die w) := by
  unfold walkFaults
  repeat' first
    | intro _
    | with_reducible first | assumption | apply keeps_fold | apply keeps_fold_fst | apply keeps_fold_visit
                           | apply sendFault_keeps | apply setXl_keeps | apply rewindHead_keeps
                           | apply engineFault_keeps | apply xlFault_keeps
    | with_reducible first | apply keeps_done | apply keeps_accepted | apply keepsOut_next | apply keepsOut_getD
                           | apply keeps_ite | apply keepsOut_ite | apply keeps_ite_eff | apply keeps_ite_fst
    | split | dsimp only

theorem execXlateWalkDone_keeps (hs : Keeps s0 s) : KeepsOut s0 (execXlateWalkDone die s) := by
  unfold execXlateWalkDone
  repeat' first
    | with_reducible first | assumption | apply keepsOut_next | apply setXl_keeps | apply walkFaults_keeps
                           | apply runJobs_keeps
    | split | dsimp only

theorem effectXlateInval_keeps (ht : Keeps s0 t) : Keeps s0 (effectXlateInval x t).state := by
  unfold effectXlateInval
  repeat' first
    | intro _
    | with_reducible first | assumption | apply keeps_fold | apply keeps_fold_fst | apply keeps_fold_visit
                           | apply setXl_keeps | apply Effect_accepted_keeps | apply startWalk_keeps
    | with_reducible first | apply keeps_done | apply keeps_accepted | apply keepsOut_next
                           | apply keeps_ite | apply keepsOut_ite | apply keeps_ite_eff | apply keeps_ite_fst
    | split | simp only [keeps_mk] | dsimp only

theorem execXlateInval_keeps (hs : Keeps s0 s) : KeepsOut s0 (execXlateInval c s) := by
  unfold execXlateInval
  repeat' first
    | intro _
    | with_reducible first | assumption | apply keeps_fold | apply keeps_fold_fst | apply keeps_fold_visit
                           | apply command_keeps | apply effectXlateInval_keeps
    | with_reducible first | apply keeps_done | apply keeps_accepted | apply keepsOut_next
                           | apply keeps_ite | apply keepsOut_ite | apply keeps_ite_eff | apply keeps_ite_fst
    | split | simp only [keeps_mk] | dsimp only

theorem execXlateInvalDone_keeps (hs : Keeps s0 s) : KeepsOut s0 (execXlateInvalDone die s) := by
  unfold execXlateInvalDone
  repeat' first
    | with_reducible first | assumption | apply keepsOut_next | apply finishOp_keeps
    | split | dsimp only

theorem effectRxEnable_keeps {x : Ctx} {t : State} (ht : Keeps s0 t) : Keeps s0 (effectRxEnable x t).state := by
  unfold effectRxEnable
  repeat' first
    | intro _
    | with_reducible first | assumption | apply keeps_fold | apply keeps_fold_fst | apply keeps_fold_visit
                           | apply wr_keeps | apply unhold_keeps | apply setXl_keeps | apply prefetch_keeps
                           | apply Effect_done_keeps
    | with_reducible first | apply keeps_done | apply keeps_accepted | apply keepsOut_next | apply keepsOut_getD
                           | apply keeps_ite | apply keepsOut_ite | apply keeps_ite_eff | apply keeps_ite_fst
    | split | simp only [keeps_mk] | dsimp only

theorem execRxEnable_keeps (hs : Keeps s0 s) : KeepsOut s0 (execRxEnable c s) := by
  unfold execRxEnable
  repeat' first
    | intro _
    | with_reducible first | assumption | apply keeps_fold | apply keeps_fold_fst | apply keeps_fold_visit
                           | apply command_keeps | apply effectRxEnable_keeps
    | with_reducible first | apply keeps_done | apply keeps_accepted | apply keepsOut_next
                           | apply keeps_ite | apply keepsOut_ite | apply keeps_ite_eff | apply keeps_ite_fst
    | split | simp only [keeps_mk] | dsimp only

theorem effectRxDisable_keeps (ht : Keeps s0 t) : Keeps s0 (effectRxDisable x t).state := by
  unfold effectRxDisable
  repeat' with_reducible
    first | assumption | apply Effect_done_keeps | apply wr_keeps | apply setXl_keeps

theorem execRxDisable_keeps (hs : Keeps s0 s) : KeepsOut s0 (execRxDisable c s) := by
  unfold execRxDisable
  repeat' first
    | intro _
    | with_reducible first | assumption | apply keeps_fold | apply keeps_fold_fst | apply keeps_fold_visit
                           | apply command_keeps | apply effectRxDisable_keeps
    | with_reducible first | apply keeps_done | apply keeps_accepted | apply keepsOut_next
                           | apply keeps_ite | apply keepsOut_ite | apply keeps_ite_eff | apply keeps_ite_fst
    | split | simp only [keeps_mk] | dsimp only

theorem effectRxRestart_keeps (ht : Keeps s0 t) : Keeps s0 (effectRxRestart x t).state := by
  unfold effectRxRestart
  repeat' first
    | with_reducible first | assumption | apply Effect_done_keeps | apply setXl_keeps | apply wr_keeps
    | split | simp only [keeps_mk] | dsimp only

theorem execRxRestart_keeps (hs : Keeps s0 s) : KeepsOut s0 (execRxRestart c s) := by
  unfold execRxRestart
  repeat' first
    | intro _
    | with_reducible first | assumption | apply keeps_fold | apply keeps_fold_fst | apply keeps_fold_visit
                           | apply command_keeps | apply effectRxRestart_keeps
    | with_reducible first | apply keeps_done | apply keeps_accepted | apply keepsOut_next
                           | apply keeps_ite | apply keepsOut_ite | apply keeps_ite_eff | apply keeps_ite_fst
    | split | simp only [keeps_mk] | dsimp only

theorem rxOne_keeps {hub : Nat} {fin : FrameIn} {s : State} {die : Nat} (hs : Keeps s0 s) : Keeps s0 (rxOne hub fin
    s die) := by
  unfold rxOne
  repeat' first
    | intro _
    | with_reducible first | assumption | apply keeps_fold | apply keeps_fold_fst | apply keeps_fold_visit
                           | apply incr_keeps | apply absentFault_keeps | apply setXl_keeps | apply prefetch_keeps
                           | apply viWrite_keeps | apply countCut_keeps
    | with_reducible first | apply keeps_done | apply keeps_accepted | apply keepsOut_next | apply keepsOut_getD
                           | apply keeps_ite | apply keepsOut_ite | apply keeps_ite_eff | apply keeps_ite_fst
    | split | dsimp only

theorem execRxFrame_keeps (hs : Keeps s0 s) : KeepsOut s0 (execRxFrame hub s) := by
  unfold execRxFrame
  repeat' first
    | intro _
    | with_reducible first | assumption | apply keeps_fold | apply keeps_fold_fst | apply keeps_fold_visit
                           | apply rxOne_keeps | apply setSw_keeps
    | with_reducible first | apply keeps_done | apply keeps_accepted | apply keepsOut_next
                           | apply keeps_ite | apply keepsOut_ite | apply keeps_ite_eff | apply keeps_ite_fst
    | split | dsimp only

theorem sendCopy_keeps {f : Frame} (hs : Keeps s0 s) : Keeps s0 (sendCopy die q f s hub) := by
  unfold sendCopy
  repeat' first
    | with_reducible first | assumption | apply setSw_keeps
    | split | dsimp only

theorem execEgBufferRead_keeps (hs : Keeps s0 s) : KeepsOut s0 (execEgBufferRead die s) := by
  unfold execEgBufferRead
  repeat' first
    | intro _
    | with_reducible first | assumption | apply keeps_fold | apply keeps_fold_fst | apply keeps_fold_visit
                           | apply startWalk_keeps | apply hwEvent_keeps | apply wrB_keeps | apply sendCopy_keeps
                           | apply incr_keeps | apply setXl_keeps
    | with_reducible first | apply keeps_done | apply keeps_accepted | apply keepsOut_next
                           | apply keeps_ite | apply keepsOut_ite | apply keeps_ite_eff | apply keeps_ite_fst
    | split | simp only [keeps_mk] | dsimp only

theorem effectEgSend_keeps (ht : Keeps s0 t) : Keeps s0 (effectEgSend x t).state := by
  unfold effectEgSend
  repeat' first
    | with_reducible first | assumption | apply Effect_done_keeps | apply incr_keeps
    | split | simp only [keeps_mk] | dsimp only

theorem execEgSend_keeps (hs : Keeps s0 s) : KeepsOut s0 (execEgSend c s) := by
  unfold execEgSend
  repeat' first
    | intro _
    | with_reducible first | assumption | apply keeps_fold | apply keeps_fold_fst | apply keeps_fold_visit
                           | apply command_keeps | apply effectEgSend_keeps
    | with_reducible first | apply keeps_done | apply keeps_accepted | apply keepsOut_next
                           | apply keeps_ite | apply keepsOut_ite | apply keeps_ite_eff | apply keeps_ite_fst
    | split | simp only [keeps_mk] | dsimp only

theorem effectEgressClearCounters_keeps (ht : Keeps s0 t) : Keeps s0 (effectEgressClearCounters x t).state := by
  unfold effectEgressClearCounters
  repeat' with_reducible
    first | assumption | apply Effect_done_keeps | apply clearRegs_keeps

theorem execEgressClearCounters_keeps (hs : Keeps s0 s) : KeepsOut s0 (execEgressClearCounters c s) := by
  unfold execEgressClearCounters
  repeat' first
    | intro _
    | with_reducible first | assumption | apply keeps_fold | apply keeps_fold_fst | apply keeps_fold_visit
                           | apply command_keeps | apply effectEgressClearCounters_keeps
    | with_reducible first | apply keeps_done | apply keeps_accepted | apply keepsOut_next
                           | apply keeps_ite | apply keepsOut_ite | apply keeps_ite_eff | apply keeps_ite_fst
    | split | simp only [keeps_mk] | dsimp only

theorem putSwapping_keeps (hs : Keeps s0 s) : Keeps s0 (putSwapping s die v b) := by
  unfold putSwapping
  repeat' with_reducible
    first | assumption | apply wr_keeps

theorem effectLogStart_keeps {x : Ctx} {t : State} (ht : Keeps s0 t) : Keeps s0 (effectLogStart x t).state := by
  unfold effectLogStart
  repeat' first
    | intro _
    | with_reducible first | assumption | apply keeps_fold | apply keeps_fold_fst | apply keeps_fold_visit
                           | apply setLog_keeps | apply Effect_accepted_keeps
    | with_reducible first | apply keeps_done | apply keeps_accepted | apply keepsOut_next | apply keepsOut_getD
                           | apply keeps_ite | apply keepsOut_ite | apply keeps_ite_eff | apply keeps_ite_fst
    | split | simp only [keeps_mk] | dsimp only

theorem execLogStart_keeps (hs : Keeps s0 s) : KeepsOut s0 (execLogStart c s) := by
  unfold execLogStart
  repeat' first
    | intro _
    | with_reducible first | assumption | apply keeps_fold | apply keeps_fold_fst | apply keeps_fold_visit
                           | apply command_keeps | apply effectLogStart_keeps
    | with_reducible first | apply keeps_done | apply keeps_accepted | apply keepsOut_next
                           | apply keeps_ite | apply keepsOut_ite | apply keeps_ite_eff | apply keeps_ite_fst
    | split | simp only [keeps_mk] | dsimp only

theorem effectLogSwap_keeps (ht : Keeps s0 t) : Keeps s0 (effectLogSwap x t).state := by
  unfold effectLogSwap
  repeat' with_reducible
    first | assumption | apply Effect_accepted_keeps | apply putSwapping_keeps

theorem execLogSwap_keeps (hs : Keeps s0 s) : KeepsOut s0 (execLogSwap c s) := by
  unfold execLogSwap
  repeat' first
    | intro _
    | with_reducible first | assumption | apply keeps_fold | apply keeps_fold_fst | apply keeps_fold_visit
                           | apply command_keeps | apply effectLogSwap_keeps
    | with_reducible first | apply keeps_done | apply keeps_accepted | apply keepsOut_next
                           | apply keeps_ite | apply keepsOut_ite | apply keeps_ite_eff | apply keeps_ite_fst
    | split | simp only [keeps_mk] | dsimp only

theorem effectLogStop_keeps (ht : Keeps s0 t) : Keeps s0 (effectLogStop x t).state := by
  unfold effectLogStop
  repeat' with_reducible
    first | assumption | apply Effect_accepted_keeps

theorem execLogStop_keeps (hs : Keeps s0 s) : KeepsOut s0 (execLogStop c s) := by
  unfold execLogStop
  repeat' first
    | intro _
    | with_reducible first | assumption | apply keeps_fold | apply keeps_fold_fst | apply keeps_fold_visit
                           | apply command_keeps | apply effectLogStop_keeps
    | with_reducible first | apply keeps_done | apply keeps_accepted | apply keepsOut_next
                           | apply keeps_ite | apply keepsOut_ite | apply keeps_ite_eff | apply keeps_ite_fst
    | split | simp only [keeps_mk] | dsimp only

theorem execDirtyLogDone_keeps (hs : Keeps s0 s) : KeepsOut s0 (execDirtyLogDone die s) := by
  unfold execDirtyLogDone
  repeat' first
    | with_reducible first | assumption | apply keepsOut_next | apply setLog_keeps | apply hwEvent_keeps
                           | apply wr_keeps | apply incr_keeps | apply putSwapping_keeps | apply finish_keeps
    | split | dsimp only

end Sys2Proof.Machine
end

