-- ==== Sys2Proof/Laws/KeepsPeloton.lean ====
section
/-!
SUPPORT. Sys2Proof/Laws/KeepsPeloton.lean: every operation of Peloton.lean keeps the queue, the variant and the canonical form of
memory.
-/
namespace Sys2Proof.Machine

variable {s0 s a2 a3 t : State} {die adm f n v k a1 code ini vi flow why kind len release deadline payload cause cts :
  Nat} {late offer inline gap : Bool} {i : Item} {w : Waiter} {a : Access} {st : Stamp} {x : Ctx} {o : Offer} {c :
  Cmd}

theorem putItem_keeps (hs : Keeps s0 s) : Keeps s0 (putItem s die i) := by
  unfold putItem
  repeat' with_reducible
    first | assumption | apply setSlice_keeps

theorem dropItem_keeps (hs : Keeps s0 s) : Keeps s0 (dropItem s die adm) := by
  unfold dropItem
  repeat' with_reducible
    first | assumption | apply setSlice_keeps

theorem putFlow_keeps {w : Flow} (hs : Keeps s0 s) : Keeps s0 (putFlow s die f w) := by
  unfold putFlow
  repeat' with_reducible
    first | assumption | apply setSlice_keeps

theorem toSlot_keeps (hs : Keeps s0 s) : Keeps s0 (toSlot s die i n) := by
  unfold toSlot
  repeat' with_reducible
    first | assumption | apply putItem_keeps | apply setSlice_keeps

theorem openFar_keeps {s : State} {die : Nat} (hs : Keeps s0 s) : Keeps s0 (openFar s die) := by
  unfold openFar
  repeat' first
    | intro _
    | with_reducible first | assumption | apply keeps_fold | apply keeps_fold_fst | apply keeps_fold_visit
                           | apply setSlice_keeps
    | with_reducible first | apply keeps_done | apply keeps_accepted | apply keepsOut_next | apply keepsOut_getD
                           | apply keeps_ite | apply keepsOut_ite | apply keeps_ite_eff | apply keeps_ite_fst
    | split | simp only [keeps_mk] | dsimp only

theorem spill_keeps (hs : Keeps s0 s) : Keeps s0 (spill s die i) := by
  unfold spill
  repeat' first
    | with_reducible first | assumption | apply putItem_keeps | apply setSlice_keeps | apply incr_keeps
                           | apply hwEvent_keeps | apply wr_keeps | apply cyc_keeps
    | split | dsimp only

theorem movePanFirst_keeps {s : State} {die : Nat} (hs : Keeps s0 s) : Keeps s0 (movePanFirst s die) := by
  unfold movePanFirst
  repeat' first
    | intro _
    | with_reducible first | assumption | apply keeps_fold | apply keeps_fold_fst | apply keeps_fold_visit
                           | apply setSlice_keeps | apply openFar_keeps
    | with_reducible first | apply keeps_done | apply keeps_accepted | apply keepsOut_next | apply keepsOut_getD
                           | apply keeps_ite | apply keepsOut_ite | apply keeps_ite_eff | apply keeps_ite_fst
    | split | simp only [keeps_mk] | dsimp only

theorem countWindow_keeps (hs : Keeps s0 s) : Keeps s0 (countWindow s die i) := by
  unfold countWindow
  repeat' first
    | with_reducible first | assumption | apply incr_keeps
    | split | dsimp only

theorem countAbort_keeps (hs : Keeps s0 s) : Keeps s0 (countAbort s die v) := by
  unfold countAbort
  repeat' with_reducible
    first | assumption | apply incr_keeps

theorem refillOne_keeps (hs : Keeps s0 s) : Keeps s0 (refillOne s die k i) := by
  unfold refillOne
  repeat' first
    | with_reducible first | assumption | apply toSlot_keeps | apply countAbort_keeps | apply movePanFirst_keeps
                           | apply incr_keeps
    | split | dsimp only

theorem refillSlots_keeps (ha2 : Keeps s0 a2) : Keeps s0 (refillSlots die a1 a2) := by
  induction a1 generalizing a2 with
  | zero =>
    unfold refillSlots
    repeat' first
      | with_reducible first | assumption | apply refillOne_keeps
      | split | dsimp only
  | succ n ih =>
    unfold refillSlots
    repeat' first
      | with_reducible first | assumption | apply refillOne_keeps | apply ih
      | split | dsimp only

theorem refillAll_keeps {s : State} {die : Nat} (hs : Keeps s0 s) : Keeps s0 (refillAll s die) := by
  unfold refillAll
  repeat' first
    | intro _
    | with_reducible first | assumption | apply keeps_fold | apply keeps_fold_fst | apply keeps_fold_visit
                           | apply refillSlots_keeps
    | with_reducible first | apply keeps_done | apply keeps_accepted | apply keepsOut_next | apply keepsOut_getD
                           | apply keeps_ite | apply keepsOut_ite | apply keeps_ite_eff | apply keeps_ite_fst
    | split | simp only [keeps_mk] | dsimp only

theorem enterReady_keeps {s : State} {die : Nat} {i : Item} (hs : Keeps s0 s) : Keeps s0 (enterReady s die i) := by
  unfold enterReady
  repeat' first
    | intro _
    | with_reducible first | assumption | apply keeps_fold | apply keeps_fold_fst | apply keeps_fold_visit
                           | apply refillAll_keeps | apply countWindow_keeps | apply toSlot_keeps
                           | apply spill_keeps
    | with_reducible first | apply keeps_done | apply keeps_accepted | apply keepsOut_next | apply keepsOut_getD
                           | apply keeps_ite | apply keepsOut_ite | apply keeps_ite_eff | apply keeps_ite_fst
    | split | dsimp only

theorem takeReturns_keeps {s : State} {w : Waiter} {v : Nat} (hs : Keeps s0 s) : Keeps s0 (takeReturns s w v) := by
  unfold takeReturns
  repeat' first
    | intro _
    | with_reducible first | assumption | apply keeps_fold | apply keeps_fold_fst | apply keeps_fold_visit
                           | apply respond_keeps | apply setLatch_keeps
    | with_reducible first | apply keeps_done | apply keeps_accepted | apply keepsOut_next | apply keepsOut_getD
                           | apply keeps_ite | apply keepsOut_ite | apply keeps_ite_eff | apply keeps_ite_fst
    | split | simp only [keeps_mk] | dsimp only

theorem endTake_keeps {s : State} {die : Nat} {w : Waiter} {code : Nat} (hs : Keeps s0 s) : Keeps s0 (endTake s die
    w code) := by
  unfold endTake
  repeat' first
    | intro _
    | with_reducible first | assumption | apply keeps_fold | apply keeps_fold_fst | apply keeps_fold_visit
                           | apply setSlice_keeps | apply takeReturns_keeps | apply incr_keeps | apply wrB_keeps
    | with_reducible first | apply keeps_done | apply keeps_accepted | apply keepsOut_next | apply keepsOut_getD
                           | apply keeps_ite | apply keepsOut_ite | apply keeps_ite_eff | apply keeps_ite_fst
    | split | simp only [keeps_mk] | dsimp only

theorem bindTake_keeps {s : State} {die : Nat} {w : Waiter} {i : Item} (hs : Keeps s0 s) : Keeps s0 (bindTake s die
    w i) := by
  unfold bindTake
  repeat' first
    | intro _
    | with_reducible first | assumption | apply keeps_fold | apply keeps_fold_fst | apply keeps_fold_visit
                           | apply setSlice_keeps | apply wrB_keeps | apply cyc_keeps | apply incr_keeps
                           | apply causedBy_keeps | apply hwEvent_keeps | apply takeReturns_keeps
    | with_reducible first | apply keeps_done | apply keeps_accepted | apply keepsOut_next | apply keepsOut_getD
                           | apply keeps_ite | apply keepsOut_ite | apply keeps_ite_eff | apply keeps_ite_fst
    | split | simp only [keeps_mk] | dsimp only

theorem serveTakes_keeps {a1 : List Waiter} (ha2 : Keeps s0 a2) : Keeps s0 (serveTakes die a1 a2) := by
  induction a1 generalizing a2 with
  | nil =>
    unfold serveTakes
    repeat' first
      | with_reducible first | assumption | apply bindTake_keeps | apply endTake_keeps
      | split | dsimp only
  | cons x l ih =>
    unfold serveTakes
    repeat' first
      | with_reducible first | assumption | apply bindTake_keeps | apply endTake_keeps | apply ih
      | split | dsimp only

theorem dispatch_keeps (hs : Keeps s0 s) : Keeps s0 (dispatch s die) := by
  unfold dispatch
  repeat' with_reducible
    first | assumption | apply serveTakes_keeps

theorem execTakeStart_keeps {a : Access} {s : State} (hs : Keeps s0 s) : KeepsOut s0 (execTakeStart a s) := by
  unfold execTakeStart
  repeat' first
    | intro _
    | with_reducible first | assumption | apply keeps_fold | apply keeps_fold_fst | apply keeps_fold_visit
                           | apply readGate_keeps | apply setSlice_keeps | apply takeReturns_keeps
                           | apply endTake_keeps | apply dispatch_keeps
    | with_reducible first | apply keeps_done | apply keeps_accepted | apply keepsOut_next | apply keepsOut_getD
                           | apply keeps_ite | apply keepsOut_ite | apply keeps_ite_eff | apply keeps_ite_fst
    | split | simp only [keeps_mk] | dsimp only

theorem execTakeTimeout_keeps (hs : Keeps s0 s) : KeepsOut s0 (execTakeTimeout die ini s) := by
  unfold execTakeTimeout
  repeat' first
    | with_reducible first | assumption | apply keepsOut_next | apply endTake_keeps
    | split | dsimp only

theorem execTakeIrqEnd_keeps (hs : Keeps s0 s) : KeepsOut s0 (execTakeIrqEnd die ini s) := by
  unfold execTakeIrqEnd
  repeat' first
    | with_reducible first | assumption | apply keepsOut_next | apply endTake_keeps
    | split | dsimp only

theorem writeRelease_keeps (hs : Keeps s0 s) : Keeps s0 (writeRelease s die i st late) := by
  unfold writeRelease
  repeat' first
    | with_reducible first | assumption | apply incr_keeps | apply putFlow_keeps | apply prefetch_keeps
                           | apply viWrite_keeps
    | split | dsimp only

theorem releaseItem_keeps (hs : Keeps s0 s) : Keeps s0 (releaseItem s die i) := by
  unfold releaseItem
  repeat' first
    | with_reducible first | assumption | apply writeRelease_keeps | apply tickSrc_keeps | apply wr_keeps
                           | apply incr_keeps | apply flowEvent_keeps | apply cyc_keeps | apply dropItem_keeps
    | split | simp only [keeps_mk] | dsimp only

theorem releaseFrom_keeps {a2 : Nat} (ha3 : Keeps s0 a3) : Keeps s0 (releaseFrom die f a2 a3) := by
  induction a2 generalizing a3 with
  | zero =>
    unfold releaseFrom
    repeat' first
      | with_reducible first | assumption | apply releaseItem_keeps | apply putFlow_keeps
      | split | dsimp only
  | succ n ih =>
    unfold releaseFrom
    repeat' first
      | with_reducible first | assumption | apply releaseItem_keeps | apply putFlow_keeps | apply ih
      | split | dsimp only

theorem releaseFlow_keeps (hs : Keeps s0 s) : Keeps s0 (releaseFlow s die f) := by
  unfold releaseFlow
  repeat' first
    | intro _
    | with_reducible first | assumption | apply keeps_fold | apply keeps_fold_fst | apply keeps_fold_visit
                           | apply releaseFrom_keeps | apply releaseItem_keeps | apply putFlow_keeps
    | with_reducible first | apply keeps_done | apply keeps_accepted | apply keepsOut_next
                           | apply keeps_ite | apply keepsOut_ite | apply keeps_ite_eff | apply keeps_ite_fst
    | split | dsimp only

theorem releaseEnded_keeps {s : State} {die : Nat} (hs : Keeps s0 s) : Keeps s0 (releaseEnded s die) := by
  unfold releaseEnded
  repeat' first
    | intro _
    | with_reducible first | assumption | apply keeps_fold | apply keeps_fold_fst | apply keeps_fold_visit
                           | apply releaseFlow_keeps
    | with_reducible first | apply keeps_done | apply keeps_accepted | apply keepsOut_next | apply keepsOut_getD
                           | apply keeps_ite | apply keepsOut_ite | apply keeps_ite_eff | apply keeps_ite_fst
    | split | simp only [keeps_mk] | dsimp only

theorem countRefusal_keeps (hs : Keeps s0 s) : Keeps s0 (countRefusal s die vi flow offer why) := by
  unfold countRefusal
  repeat' first
    | with_reducible first | assumption | apply cyc_keeps | apply hwEvent_keeps | apply incr_keeps
                           | apply shareRefuse_keeps
    | split | dsimp only

theorem admitItem_keeps {s : State} {die kind flow vi : Nat} {inline gap : Bool} {len release deadline payload cause
    : Nat} (hs : Keeps s0 s) : Keeps s0 (admitItem s die kind flow vi inline gap len release deadline payload
    cause).1 := by
  unfold admitItem
  repeat' first
    | intro _
    | with_reducible first | assumption | apply keeps_fold | apply keeps_fold_fst | apply keeps_fold_visit
                           | apply setSlice_keeps | apply tickSrc_keeps | apply putFlow_keeps | apply incr_keeps
                           | apply cyc_keeps | apply enterReady_keeps | apply dispatch_keeps
                           | apply releaseEnded_keeps | apply putItem_keeps
    | with_reducible first | apply keeps_done | apply keeps_accepted | apply keepsOut_next | apply keepsOut_getD
                           | apply keeps_ite | apply keepsOut_ite | apply keeps_ite_eff | apply keeps_ite_fst
    | split | simp only [keeps_mk] | dsimp only

theorem markSource_keeps {x : Source} (hs : Keeps s0 s) : Keeps s0 (markSource s x) := by
  unfold markSource
  repeat' first
    | with_reducible first | assumption
    | split | simp only [keeps_mk] | dsimp only

theorem offerAt_keeps (hs : Keeps s0 s) : Keeps s0 (offerAt s o) := by
  unfold offerAt
  repeat' first
    | with_reducible first | assumption | apply markSource_keeps | apply countCut_keeps | apply countRefusal_keeps
                           | apply admitItem_keeps
    | split | simp only [keeps_mk] | dsimp only

theorem execPelotonOffer_keeps (hs : Keeps s0 s) : KeepsOut s0 (execPelotonOffer s) := by
  unfold execPelotonOffer
  repeat' first
    | with_reducible first | assumption | apply keepsOut_next | apply offerAt_keeps
    | split | simp only [keeps_mk] | dsimp only

theorem execPannierSpillWrite_keeps (hs : Keeps s0 s) : KeepsOut s0 (execPannierSpillWrite die s) := by
  unfold execPannierSpillWrite
  repeat' first
    | with_reducible first | assumption | apply keepsOut_next | apply setSlice_keeps
    | split | dsimp only

theorem execPannierRefill_keeps {die : Nat} {s : State} (hs : Keeps s0 s) : KeepsOut s0 (execPannierRefill die s) :=
    by
  unfold execPannierRefill
  repeat' first
    | intro _
    | with_reducible first | assumption | apply keeps_fold | apply keeps_fold_fst | apply keeps_fold_visit
                           | apply dispatch_keeps | apply releaseEnded_keeps | apply refillSlots_keeps
    | with_reducible first | apply keeps_done | apply keeps_accepted | apply keepsOut_next | apply keepsOut_getD
                           | apply keeps_ite | apply keepsOut_ite | apply keeps_ite_eff | apply keeps_ite_fst
    | split | simp only [keeps_mk] | dsimp only

theorem walkEntry_keeps (hs : Keeps s0 s) : Keeps s0 (walkEntry die s i) := by
  unfold walkEntry
  repeat' first
    | with_reducible first | assumption | apply countAbort_keeps | apply putItem_keeps
    | split | dsimp only

theorem execPannierWalk_keeps {die : Nat} {s : State} (hs : Keeps s0 s) : KeepsOut s0 (execPannierWalk die s) := by
  unfold execPannierWalk
  repeat' first
    | intro _
    | with_reducible first | assumption | apply keeps_fold | apply keeps_fold_fst | apply keeps_fold_visit
                           | apply walkEntry_keeps | apply setSlice_keeps | apply setStatus_keeps
                           | apply movePanFirst_keeps | apply hwEvent_keeps | apply dispatch_keeps
                           | apply releaseEnded_keeps
    | with_reducible first | apply keeps_done | apply keeps_accepted | apply keepsOut_next | apply keepsOut_getD
                           | apply keeps_ite | apply keepsOut_ite | apply keeps_ite_eff | apply keeps_ite_fst
    | split | simp only [keeps_mk] | dsimp only

theorem releaseDelayed_keeps {a2 : Nat} (ha3 : Keeps s0 a3) : Keeps s0 (releaseDelayed die cts a2 a3) := by
  induction a2 generalizing a3 with
  | zero =>
    unfold releaseDelayed
    repeat' first
      | with_reducible first | assumption
                             | apply refillAll_keeps
                             | apply refillSlots_keeps | apply enterReady_keeps
      | split | dsimp only
  | succ n ih =>
    unfold releaseDelayed
    repeat' first
      | with_reducible first | assumption
                             | apply refillAll_keeps
                             | apply refillSlots_keeps | apply enterReady_keeps | apply ih
      | split | dsimp only

theorem tickSlice_keeps {s : State} {die cts : Nat} (hs : Keeps s0 s) : Keeps s0 (tickSlice s die cts) := by
  unfold tickSlice
  repeat' first
    | intro _
    | with_reducible first | assumption | apply keeps_fold | apply keeps_fold_fst | apply keeps_fold_visit
                           | apply wr_keeps | apply setSlice_keeps | apply dispatch_keeps | apply releaseEnded_keeps
                           | apply releaseDelayed_keeps
    | with_reducible first | apply keeps_done | apply keeps_accepted | apply keepsOut_next | apply keepsOut_getD
                           | apply keeps_ite | apply keepsOut_ite | apply keeps_ite_eff | apply keeps_ite_fst
    | split | simp only [keeps_mk] | dsimp only

theorem execPelotonTick_keeps {die : Nat} {s : State} (hs : Keeps s0 s) : KeepsOut s0 (execPelotonTick die s) := by
  unfold execPelotonTick
  repeat' first
    | intro _
    | with_reducible first | assumption | apply keeps_fold | apply keeps_fold_fst | apply keeps_fold_visit
                           | apply setStatus_keeps | apply setSlice_keeps | apply causedBy_keeps
                           | apply tickSlice_keeps
    | with_reducible first | apply keeps_done | apply keeps_accepted | apply keepsOut_next | apply keepsOut_getD
                           | apply keeps_ite | apply keepsOut_ite | apply keeps_ite_eff | apply keeps_ite_fst
    | split | simp only [keeps_mk] | dsimp only

theorem execPelotonLocalTick_keeps (hs : Keeps s0 s) : KeepsOut s0 (execPelotonLocalTick die s) := by
  unfold execPelotonLocalTick
  repeat' first
    | with_reducible first | assumption | apply keepsOut_next | apply hwEvent_keeps | apply setStatus_keeps
                           | apply setSlice_keeps | apply tickSlice_keeps
    | split | dsimp only

theorem effectPelStart_keeps (ht : Keeps s0 t) : Keeps s0 (effectPelStart x t).state := by
  unfold effectPelStart
  repeat' with_reducible
    first | assumption | apply setSlice_keeps | apply Effect_done_keeps | apply hwEvent_keeps | apply setStatus_keeps

theorem execPelStart_keeps (hs : Keeps s0 s) : KeepsOut s0 (execPelStart c s) := by
  unfold execPelStart
  repeat' first
    | intro _
    | with_reducible first | assumption | apply keeps_fold | apply keeps_fold_fst | apply keeps_fold_visit
                           | apply command_keeps | apply effectPelStart_keeps
    | with_reducible first | apply keeps_done | apply keeps_accepted | apply keepsOut_next
                           | apply keeps_ite | apply keepsOut_ite | apply keeps_ite_eff | apply keeps_ite_fst
    | split | simp only [keeps_mk] | dsimp only

theorem effectPost_keeps (ht : Keeps s0 t) : Keeps s0 (effectPost x t).state := by
  unfold effectPost
  repeat' first
    | with_reducible first | assumption | apply countRefusal_keeps | apply admitItem_keeps | apply wrB_keeps
    | split | dsimp only

theorem execPost_keeps (hs : Keeps s0 s) : KeepsOut s0 (execPost c s) := by
  unfold execPost
  repeat' first
    | intro _
    | with_reducible first | assumption | apply keeps_fold | apply keeps_fold_fst | apply keeps_fold_visit
                           | apply command_keeps | apply effectPost_keeps
    | with_reducible first | apply keeps_done | apply keeps_accepted | apply keepsOut_next
                           | apply keeps_ite | apply keepsOut_ite | apply keeps_ite_eff | apply keeps_ite_fst
    | split | simp only [keeps_mk] | dsimp only

theorem effectComplete_keeps (ht : Keeps s0 t) : Keeps s0 (effectComplete x t).state := by
  unfold effectComplete
  repeat' first
    | with_reducible first | assumption | apply hwEvent_keeps | apply incr_keeps | apply putItem_keeps
                           | apply releaseFlow_keeps | apply dispatch_keeps
    | split | dsimp only

theorem execComplete_keeps (hs : Keeps s0 s) : KeepsOut s0 (execComplete c s) := by
  unfold execComplete
  repeat' first
    | intro _
    | with_reducible first | assumption | apply keeps_fold | apply keeps_fold_fst | apply keeps_fold_visit
                           | apply command_keeps | apply effectComplete_keeps
    | with_reducible first | apply keeps_done | apply keeps_accepted | apply keepsOut_next
                           | apply keeps_ite | apply keepsOut_ite | apply keeps_ite_eff | apply keeps_ite_fst
    | split | simp only [keeps_mk] | dsimp only

theorem effectPelotonClearCounters_keeps (ht : Keeps s0 t) : Keeps s0 (effectPelotonClearCounters x t).state := by
  unfold effectPelotonClearCounters
  repeat' first
    | with_reducible first | assumption | apply Effect_done_keeps | apply clearRegs_keeps | apply clearInsts_keeps
    | split | dsimp only

theorem execPelotonClearCounters_keeps (hs : Keeps s0 s) : KeepsOut s0 (execPelotonClearCounters c s) := by
  unfold execPelotonClearCounters
  repeat' first
    | intro _
    | with_reducible first | assumption | apply keeps_fold | apply keeps_fold_fst | apply keeps_fold_visit
                           | apply command_keeps | apply effectPelotonClearCounters_keeps
    | with_reducible first | apply keeps_done | apply keeps_accepted | apply keepsOut_next
                           | apply keeps_ite | apply keepsOut_ite | apply keeps_ite_eff | apply keeps_ite_fst
    | split | simp only [keeps_mk] | dsimp only

theorem skipItem_keeps {s : State} {die : Nat} {i : Item} (hs : Keeps s0 s) : Keeps s0 (skipItem s die i) := by
  unfold skipItem
  repeat' first
    | intro _
    | with_reducible first | assumption | apply keeps_fold | apply keeps_fold_fst | apply keeps_fold_visit
                           | apply causedBy_keeps | apply putItem_keeps | apply tickPage_keeps
                           | apply flowEvent_keeps | apply incr_keeps | apply cyc_keeps | apply record_keeps
                           | apply dispatch_keeps | apply releaseFlow_keeps
    | with_reducible first | apply keeps_done | apply keeps_accepted | apply keepsOut_next | apply keepsOut_getD
                           | apply keeps_ite | apply keepsOut_ite | apply keeps_ite_eff | apply keeps_ite_fst
    | split | simp only [keeps_mk] | dsimp only

theorem execFlowHoldExpiry_keeps (hs : Keeps s0 s) : KeepsOut s0 (execFlowHoldExpiry die flow s) := by
  unfold execFlowHoldExpiry
  repeat' first
    | with_reducible first | assumption | apply keepsOut_next | apply skipItem_keeps
    | split | dsimp only

theorem effectFlowEnable_keeps {x : Ctx} {t : State} (ht : Keeps s0 t) : Keeps s0 (effectFlowEnable x t).state := by
  unfold effectFlowEnable
  repeat' first
    | intro _
    | with_reducible first | assumption | apply keeps_fold | apply keeps_fold_fst | apply keeps_fold_visit
                           | apply flowEvent_keeps | apply putFlow_keeps | apply prefetch_keeps
                           | apply Effect_done_keeps
    | with_reducible first | apply keeps_done | apply keeps_accepted | apply keepsOut_next | apply keepsOut_getD
                           | apply keeps_ite | apply keepsOut_ite | apply keeps_ite_eff | apply keeps_ite_fst
    | split | simp only [keeps_mk] | dsimp only

theorem execFlowEnable_keeps (hs : Keeps s0 s) : KeepsOut s0 (execFlowEnable c s) := by
  unfold execFlowEnable
  repeat' first
    | intro _
    | with_reducible first | assumption | apply keeps_fold | apply keeps_fold_fst | apply keeps_fold_visit
                           | apply command_keeps | apply effectFlowEnable_keeps
    | with_reducible first | apply keeps_done | apply keeps_accepted | apply keepsOut_next
                           | apply keeps_ite | apply keepsOut_ite | apply keeps_ite_eff | apply keeps_ite_fst
    | split | simp only [keeps_mk] | dsimp only

theorem effectFlowDisable_keeps {x : Ctx} {t : State} (ht : Keeps s0 t) : Keeps s0 (effectFlowDisable x t).state := by
  unfold effectFlowDisable
  repeat' first
    | intro _
    | with_reducible first | assumption | apply keeps_fold | apply keeps_fold_fst | apply keeps_fold_visit
                           | apply flowEvent_keeps | apply setSlice_keeps | apply Effect_done_keeps
    | with_reducible first | apply keeps_done | apply keeps_accepted | apply keepsOut_next | apply keepsOut_getD
                           | apply keeps_ite | apply keepsOut_ite | apply keeps_ite_eff | apply keeps_ite_fst
    | split | simp only [keeps_mk] | dsimp only

theorem execFlowDisable_keeps (hs : Keeps s0 s) : KeepsOut s0 (execFlowDisable c s) := by
  unfold execFlowDisable
  repeat' first
    | intro _
    | with_reducible first | assumption | apply keeps_fold | apply keeps_fold_fst | apply keeps_fold_visit
                           | apply command_keeps | apply effectFlowDisable_keeps
    | with_reducible first | apply keeps_done | apply keeps_accepted | apply keepsOut_next
                           | apply keeps_ite | apply keepsOut_ite | apply keeps_ite_eff | apply keeps_ite_fst
    | split | simp only [keeps_mk] | dsimp only

theorem effectFlowSkip_keeps (ht : Keeps s0 t) : Keeps s0 (effectFlowSkip x t).state := by
  unfold effectFlowSkip
  repeat' first
    | with_reducible first | assumption | apply Effect_done_keeps | apply skipItem_keeps
    | split | dsimp only

theorem execFlowSkip_keeps (hs : Keeps s0 s) : KeepsOut s0 (execFlowSkip c s) := by
  unfold execFlowSkip
  repeat' first
    | intro _
    | with_reducible first | assumption | apply keeps_fold | apply keeps_fold_fst | apply keeps_fold_visit
                           | apply command_keeps | apply effectFlowSkip_keeps
    | with_reducible first | apply keeps_done | apply keeps_accepted | apply keepsOut_next
                           | apply keeps_ite | apply keepsOut_ite | apply keeps_ite_eff | apply keeps_ite_fst
    | split | simp only [keeps_mk] | dsimp only

theorem effectRingRestart_keeps (ht : Keeps s0 t) : Keeps s0 (effectRingRestart x t).state := by
  unfold effectRingRestart
  repeat' first
    | with_reducible first | assumption | apply Effect_done_keeps | apply putFlow_keeps
    | split | dsimp only

theorem execRingRestart_keeps (hs : Keeps s0 s) : KeepsOut s0 (execRingRestart c s) := by
  unfold execRingRestart
  repeat' first
    | intro _
    | with_reducible first | assumption | apply keeps_fold | apply keeps_fold_fst | apply keeps_fold_visit
                           | apply command_keeps | apply effectRingRestart_keeps
    | with_reducible first | apply keeps_done | apply keeps_accepted | apply keepsOut_next
                           | apply keeps_ite | apply keepsOut_ite | apply keeps_ite_eff | apply keeps_ite_fst
    | split | simp only [keeps_mk] | dsimp only

theorem effectFlowClearCounters_keeps (ht : Keeps s0 t) : Keeps s0 (effectFlowClearCounters x t).state := by
  unfold effectFlowClearCounters
  repeat' first
    | with_reducible first | assumption | apply Effect_done_keeps | apply clearRegs_keeps | apply clearInsts_keeps
    | split | dsimp only

theorem execFlowClearCounters_keeps (hs : Keeps s0 s) : KeepsOut s0 (execFlowClearCounters c s) := by
  unfold execFlowClearCounters
  repeat' first
    | intro _
    | with_reducible first | assumption | apply keeps_fold | apply keeps_fold_fst | apply keeps_fold_visit
                           | apply command_keeps | apply effectFlowClearCounters_keeps
    | with_reducible first | apply keeps_done | apply keeps_accepted | apply keepsOut_next
                           | apply keeps_ite | apply keepsOut_ite | apply keeps_ite_eff | apply keeps_ite_fst
    | split | simp only [keeps_mk] | dsimp only

theorem recordsOff_keeps (hs : Keeps s0 s) : Keeps s0 (recordsOff s die v) := by
  unfold recordsOff
  repeat' first
    | intro _
    | with_reducible first | assumption | apply keeps_fold | apply keeps_fold_fst | apply keeps_fold_visit
                           | apply putFlow_keeps
    | with_reducible first | apply keeps_done | apply keeps_accepted | apply keepsOut_next
                           | apply keeps_ite | apply keepsOut_ite | apply keeps_ite_eff | apply keeps_ite_fst
    | split | simp only [keeps_mk] | dsimp only

theorem pelAbort_keeps (hs : Keeps s0 s) : Keeps s0 (pelAbort s die v) := by
  unfold pelAbort
  repeat' first
    | intro _
    | with_reducible first | assumption | apply keeps_fold | apply keeps_fold_fst | apply keeps_fold_visit
                           | apply endTake_keeps | apply recordsOff_keeps | apply putItem_keeps
                           | apply countAbort_keeps | apply setStatus_keeps | apply setSlice_keeps
                           | apply dispatch_keeps | apply releaseFlow_keeps
    | with_reducible first | apply keeps_done | apply keeps_accepted | apply keepsOut_next
                           | apply keeps_ite | apply keepsOut_ite | apply keeps_ite_eff | apply keeps_ite_fst
    | split | simp only [keeps_mk] | dsimp only

end Sys2Proof.Machine
end

