-- ==== Sys2Proof/Laws/KeepsRings.lean ====
section
/-!
SUPPORT. Sys2Proof/Laws/KeepsRings.lean: every operation of Rings.lean keeps the queue, the variant and the canonical form of
memory.
-/
namespace Sys2Proof.Machine

variable {s0 s : State} {hub die addr idx group : Nat} {bs : List Byte} {src : Source} {d : Dest} {g : Group}

theorem storeDevice_keeps (hs : Keeps s0 s) : Keeps s0 (storeDevice s hub die addr bs) := by
  unfold storeDevice
  repeat' first
    | with_reducible first | assumption | apply writeBytes_keeps
    | split | dsimp only

theorem writeGroup_keeps {s : State} {hub : Nat} {src : Source} {d : Dest} {g : Group} (hs : Keeps s0 s) : Keeps s0
    (writeGroup s hub src d g).1 := by
  unfold writeGroup
  repeat' first
    | intro _
    | with_reducible first | assumption | apply keeps_fold | apply keeps_fold_fst | apply keeps_fold_visit
                           | apply absentFault_keeps | apply prefetch_keeps | apply viWrite_keeps
                           | apply countCut_keeps | apply storeDevice_keeps
    | with_reducible first | apply keeps_done | apply keeps_accepted | apply keepsOut_next | apply keepsOut_getD
                           | apply keeps_ite | apply keepsOut_ite | apply keeps_ite_eff | apply keeps_ite_fst
    | split | simp only [keeps_mk] | dsimp only

theorem initRing_keeps (hs : Keeps s0 s) : Keeps s0 (initRing s hub src d idx group) := by
  unfold initRing
  repeat' first
    | with_reducible first | assumption | apply prefetch_keeps | apply viWrite_keeps | apply storeDevice_keeps
    | split | dsimp only

end Sys2Proof.Machine
end

