-- ==== Sys2Proof/Laws/KeepsFilter.lean ====
section
/-!
SUPPORT. Sys2Proof/Laws/KeepsFilter.lean: every operation of Filter.lean keeps the queue, the variant and the canonical form of
memory.
-/
namespace Sys2Proof.Machine

variable {s0 s t : State} {hub i n cts flags stream chan j at_ : Nat} {fh sh slow warm filtered : Bool} {os outs :
  List OutSample} {f : FilterSt} {d : Det} {value : Int} {p : Profile} {v : Visit} {acc : Accepted} {e : Stream}
  {asdus : List Accepted} {r : State × List OutSample} {b : Batch} {x : Ctx} {c : Cmd}

theorem setFilter_keeps (hs : Keeps s0 s) : Keeps s0 (setFilter s hub i f) := by
  unfold setFilter
  repeat' first
    | with_reducible first | assumption
    | split | simp only [keeps_mk] | dsimp only

theorem putDetState_keeps (hs : Keeps s0 s) : Keeps s0 (putDetState s hub i d fh sh) := by
  unfold putDetState
  repeat' with_reducible
    first | assumption | apply wr_keeps

theorem detEvent_keeps (hs : Keeps s0 s) : Keeps s0 (detEvent s hub i n) := by
  unfold detEvent
  repeat' first
    | with_reducible first | assumption | apply hwEvent_keeps | apply wr_keeps
    | split | dsimp only

theorem detOffer_keeps (hs : Keeps s0 s) : Keeps s0 (detOffer s hub i d slow cts) := by
  unfold detOffer
  repeat' first
    | with_reducible first | assumption
    | split | simp only [keeps_mk] | dsimp only

theorem outputChanged_keeps {s : State} {hub i : Nat} {d : Det} {slow warm : Bool} {cts : Nat} (hs : Keeps s0 s) :
    Keeps s0 (outputChanged s hub i d slow warm cts) := by
  unfold outputChanged
  repeat' first
    | intro _
    | with_reducible first | assumption | apply keeps_fold | apply keeps_fold_fst | apply keeps_fold_visit
                           | apply wr_keeps | apply cyc_keeps | apply detEvent_keeps | apply detOffer_keeps
    | with_reducible first | apply keeps_done | apply keeps_accepted | apply keepsOut_next | apply keepsOut_getD
                           | apply keeps_ite | apply keepsOut_ite | apply keeps_ite_eff | apply keeps_ite_fst
    | split | simp only [keeps_mk] | dsimp only

theorem detSample_keeps (hs : Keeps s0 s) : Keeps s0 (detSample s hub i warm cts value flags) := by
  unfold detSample
  repeat' first
    | with_reducible first | assumption | apply putDetState_keeps | apply wrAll_keeps | apply detEvent_keeps
                           | apply outputChanged_keeps | apply writeGroup_keeps
    | split | simp only [keeps_mk] | dsimp only

theorem tapSample_keeps (hs : Keeps s0 s) : Keeps s0 (tapSample s hub stream chan filtered warm cts value flags) := by
  unfold tapSample
  repeat' first
    | intro _
    | with_reducible first | assumption | apply keeps_fold | apply keeps_fold_fst | apply keeps_fold_visit
                           | apply detSample_keeps
    | with_reducible first | apply keeps_done | apply keeps_accepted | apply keepsOut_next
                           | apply keeps_ite | apply keepsOut_ite | apply keeps_ite_eff | apply keeps_ite_fst
    | split | simp only [keeps_mk] | dsimp only

theorem presentAll_keeps (hs : Keeps s0 s) : Keeps s0 (presentAll s hub stream chan) := by
  unfold presentAll
  repeat' first
    | intro _
    | with_reducible first | assumption | apply keeps_fold | apply keeps_fold_fst | apply keeps_fold_visit
    | with_reducible first | apply keeps_done | apply keeps_accepted | apply keepsOut_next
                           | apply keeps_ite | apply keepsOut_ite | apply keeps_ite_eff | apply keeps_ite_fst
    | split | simp only [keeps_mk] | dsimp only

theorem filEvent_keeps (hs : Keeps s0 s) : Keeps s0 (filEvent s hub i n) := by
  unfold filEvent
  repeat' first
    | with_reducible first | assumption | apply hwEvent_keeps | apply wr_keeps
    | split | dsimp only

theorem visitSample_keeps (hv : Keeps s0 v.state) : Keeps s0 (visitSample hub i j n p v acc).state := by
  unfold visitSample
  repeat' first
    | intro _
    | with_reducible first | assumption | apply keeps_fold | apply keeps_fold_fst | apply keeps_fold_visit
                           | apply filEvent_keeps | apply incr_keeps | apply cyc_keeps | apply tapSample_keeps
    | with_reducible first | apply keeps_done | apply keeps_accepted | apply keepsOut_next
                           | apply keeps_ite | apply keepsOut_ite | apply keeps_ite_eff | apply keeps_ite_fst
    | split | dsimp only

theorem visitChan_keeps (hr : Keeps s0 r.1) : Keeps s0 (visitChan hub i e p asdus r j).1 := by
  unfold visitChan
  repeat' first
    | intro _
    | with_reducible first | assumption | apply keeps_fold | apply keeps_fold_fst | apply keeps_fold_visit
                           | apply visitSample_keeps | apply setFilter_keeps | apply cyc_keeps
                           | apply presentAll_keeps
    | with_reducible first | apply keeps_done | apply keeps_accepted | apply keepsOut_next
                           | apply keeps_ite | apply keepsOut_ite | apply keeps_ite_eff | apply keeps_ite_fst
    | split | simp only [keeps_mk] | dsimp only

theorem writeDest_keeps (hs : Keeps s0 s) : Keeps s0 (writeDest hub i os at_ s n) := by
  unfold writeDest
  repeat' first
    | with_reducible first | assumption | apply writeGroup_keeps
    | split | simp only [keeps_mk] | dsimp only

theorem syncStream_keeps (hs : Keeps s0 s) : Keeps s0 (syncStream s hub i) := by
  unfold syncStream
  repeat' first
    | with_reducible first | assumption
    | split | simp only [keeps_mk] | dsimp only

theorem writeOutputs_keeps (hs : Keeps s0 s) : Keeps s0 (writeOutputs s hub i outs) := by
  unfold writeOutputs
  repeat' first
    | intro _
    | with_reducible first | assumption | apply keeps_fold | apply keeps_fold_fst | apply keeps_fold_visit
                           | apply writeDest_keeps | apply syncStream_keeps
    | with_reducible first | apply keeps_done | apply keeps_accepted | apply keepsOut_next
                           | apply keeps_ite | apply keepsOut_ite | apply keeps_ite_eff | apply keeps_ite_fst
    | split | simp only [keeps_mk] | dsimp only

theorem filterTimes_keeps (hs : Keeps s0 s) : Keeps s0 (filterTimes s hub) := by
  unfold filterTimes
  repeat' with_reducible
    first | assumption | apply wr_keeps | apply drew_keeps

theorem reassignChans_keeps (hs : Keeps s0 s) : Keeps s0 (reassignChans s hub i n p) := by
  unfold reassignChans
  repeat' with_reducible
    first | assumption | apply setFilter_keeps | apply filEvent_keeps | apply incr_keeps

theorem visitBatch_keeps (hs : Keeps s0 s) : Keeps s0 (visitBatch s b) := by
  unfold visitBatch
  repeat' first
    | intro _
    | with_reducible first | assumption | apply keeps_fold | apply keeps_fold_fst | apply keeps_fold_visit
                           | apply reassignChans_keeps | apply visitChan_keeps | apply writeOutputs_keeps
                           | apply filterTimes_keeps
    | with_reducible first | apply keeps_done | apply keeps_accepted | apply keepsOut_next
                           | apply keeps_ite | apply keepsOut_ite | apply keeps_ite_eff | apply keeps_ite_fst
    | split | simp only [keeps_mk] | dsimp only

theorem execFilterBatchVisit_keeps (hs : Keeps s0 s) : KeepsOut s0 (execFilterBatchVisit hub stream s) := by
  unfold execFilterBatchVisit
  repeat' first
    | with_reducible first | assumption | apply keepsOut_next | apply visitBatch_keeps
    | split | simp only [keeps_mk] | dsimp only

theorem checkFallback_keeps (hs : Keeps s0 s) : Keeps s0 (checkFallback s hub i) := by
  unfold checkFallback
  repeat' first
    | with_reducible first | assumption | apply setFilter_keeps | apply filEvent_keeps
    | split | dsimp only

theorem effectProfileLoad_keeps (ht : Keeps s0 t) : Keeps s0 (effectProfileLoad x t).state := by
  unfold effectProfileLoad
  repeat' first
    | intro _
    | with_reducible first | assumption | apply keeps_fold | apply keeps_fold_fst | apply keeps_fold_visit
                           | apply setFilter_keeps | apply checkFallback_keeps | apply Effect_done_keeps
                           | apply hwEvent_keeps
    | with_reducible first | apply keeps_done | apply keeps_accepted | apply keepsOut_next
                           | apply keeps_ite | apply keepsOut_ite | apply keeps_ite_eff | apply keeps_ite_fst
    | split | simp only [keeps_mk] | dsimp only

theorem execProfileLoad_keeps (hs : Keeps s0 s) : KeepsOut s0 (execProfileLoad c s) := by
  unfold execProfileLoad
  repeat' first
    | intro _
    | with_reducible first | assumption | apply keeps_fold | apply keeps_fold_fst | apply keeps_fold_visit
                           | apply command_keeps | apply effectProfileLoad_keeps
    | with_reducible first | apply keeps_done | apply keeps_accepted | apply keepsOut_next
                           | apply keeps_ite | apply keepsOut_ite | apply keeps_ite_eff | apply keeps_ite_fst
    | split | simp only [keeps_mk] | dsimp only

theorem effectFsAssign_keeps (ht : Keeps s0 t) : Keeps s0 (effectFsAssign x t).state := by
  unfold effectFsAssign
  repeat' first
    | with_reducible first | assumption | apply setFilter_keeps | apply Effect_done_keeps | apply checkFallback_keeps
    | split | dsimp only

theorem execFsAssign_keeps (hs : Keeps s0 s) : KeepsOut s0 (execFsAssign c s) := by
  unfold execFsAssign
  repeat' first
    | intro _
    | with_reducible first | assumption | apply keeps_fold | apply keeps_fold_fst | apply keeps_fold_visit
                           | apply command_keeps | apply effectFsAssign_keeps
    | with_reducible first | apply keeps_done | apply keeps_accepted | apply keepsOut_next
                           | apply keeps_ite | apply keepsOut_ite | apply keeps_ite_eff | apply keeps_ite_fst
    | split | simp only [keeps_mk] | dsimp only

theorem effectFilterClearCounters_keeps (ht : Keeps s0 t) : Keeps s0 (effectFilterClearCounters x t).state := by
  unfold effectFilterClearCounters
  repeat' first
    | with_reducible first | assumption | apply Effect_done_keeps | apply clearInsts_keeps | apply clearRegs_keeps
    | split | dsimp only

theorem execFilterClearCounters_keeps (hs : Keeps s0 s) : KeepsOut s0 (execFilterClearCounters c s) := by
  unfold execFilterClearCounters
  repeat' first
    | intro _
    | with_reducible first | assumption | apply keeps_fold | apply keeps_fold_fst | apply keeps_fold_visit
                           | apply command_keeps | apply effectFilterClearCounters_keeps
    | with_reducible first | apply keeps_done | apply keeps_accepted | apply keepsOut_next
                           | apply keeps_ite | apply keepsOut_ite | apply keeps_ite_eff | apply keeps_ite_fst
    | split | simp only [keeps_mk] | dsimp only

theorem effectDetEnable_keeps {x : Ctx} {t : State} (ht : Keeps s0 t) : Keeps s0 (effectDetEnable x t).state := by
  unfold effectDetEnable
  repeat' first
    | intro _
    | with_reducible first | assumption | apply keeps_fold | apply keeps_fold_fst | apply keeps_fold_visit
                           | apply unhold_keeps | apply putDetState_keeps | apply initRing_keeps
                           | apply hwEvent_keeps | apply Effect_done_keeps
    | with_reducible first | apply keeps_done | apply keeps_accepted | apply keepsOut_next | apply keepsOut_getD
                           | apply keeps_ite | apply keepsOut_ite | apply keeps_ite_eff | apply keeps_ite_fst
    | split | simp only [keeps_mk] | dsimp only

theorem execDetEnable_keeps (hs : Keeps s0 s) : KeepsOut s0 (execDetEnable c s) := by
  unfold execDetEnable
  repeat' first
    | intro _
    | with_reducible first | assumption | apply keeps_fold | apply keeps_fold_fst | apply keeps_fold_visit
                           | apply command_keeps | apply effectDetEnable_keeps
    | with_reducible first | apply keeps_done | apply keeps_accepted | apply keepsOut_next
                           | apply keeps_ite | apply keepsOut_ite | apply keeps_ite_eff | apply keeps_ite_fst
    | split | simp only [keeps_mk] | dsimp only

theorem effectDetDisable_keeps (ht : Keeps s0 t) : Keeps s0 (effectDetDisable x t).state := by
  unfold effectDetDisable
  repeat' first
    | with_reducible first | assumption | apply Effect_done_keeps | apply hwEvent_keeps | apply wr_keeps
    | split | simp only [keeps_mk] | dsimp only

theorem execDetDisable_keeps (hs : Keeps s0 s) : KeepsOut s0 (execDetDisable c s) := by
  unfold execDetDisable
  repeat' first
    | intro _
    | with_reducible first | assumption | apply keeps_fold | apply keeps_fold_fst | apply keeps_fold_visit
                           | apply command_keeps | apply effectDetDisable_keeps
    | with_reducible first | apply keeps_done | apply keeps_accepted | apply keepsOut_next
                           | apply keeps_ite | apply keepsOut_ite | apply keeps_ite_eff | apply keeps_ite_fst
    | split | simp only [keeps_mk] | dsimp only

theorem effectDetTune_keeps (ht : Keeps s0 t) : Keeps s0 (effectDetTune x t).state := by
  unfold effectDetTune
  repeat' first
    | with_reducible first | assumption | apply Effect_done_keeps
    | split | simp only [keeps_mk] | dsimp only

theorem execDetTune_keeps (hs : Keeps s0 s) : KeepsOut s0 (execDetTune c s) := by
  unfold execDetTune
  repeat' first
    | intro _
    | with_reducible first | assumption | apply keeps_fold | apply keeps_fold_fst | apply keeps_fold_visit
                           | apply command_keeps | apply effectDetTune_keeps
    | with_reducible first | apply keeps_done | apply keeps_accepted | apply keepsOut_next
                           | apply keeps_ite | apply keepsOut_ite | apply keeps_ite_eff | apply keeps_ite_fst
    | split | simp only [keeps_mk] | dsimp only

theorem effectDetDestRestart_keeps (ht : Keeps s0 t) : Keeps s0 (effectDetDestRestart x t).state := by
  unfold effectDetDestRestart
  repeat' first
    | with_reducible first | assumption | apply Effect_done_keeps | apply wr_keeps
    | split | simp only [keeps_mk] | dsimp only

theorem execDetDestRestart_keeps (hs : Keeps s0 s) : KeepsOut s0 (execDetDestRestart c s) := by
  unfold execDetDestRestart
  repeat' first
    | intro _
    | with_reducible first | assumption | apply keeps_fold | apply keeps_fold_fst | apply keeps_fold_visit
                           | apply command_keeps | apply effectDetDestRestart_keeps
    | with_reducible first | apply keeps_done | apply keeps_accepted | apply keepsOut_next
                           | apply keeps_ite | apply keepsOut_ite | apply keeps_ite_eff | apply keeps_ite_fst
    | split | simp only [keeps_mk] | dsimp only

theorem effectDetClearCounters_keeps (ht : Keeps s0 t) : Keeps s0 (effectDetClearCounters x t).state := by
  unfold effectDetClearCounters
  repeat' first
    | with_reducible first | assumption | apply Effect_done_keeps | apply clearInsts_keeps | apply clearRegs_keeps
    | split | dsimp only

theorem execDetClearCounters_keeps (hs : Keeps s0 s) : KeepsOut s0 (execDetClearCounters c s) := by
  unfold execDetClearCounters
  repeat' first
    | intro _
    | with_reducible first | assumption | apply keeps_fold | apply keeps_fold_fst | apply keeps_fold_visit
                           | apply command_keeps | apply effectDetClearCounters_keeps
    | with_reducible first | apply keeps_done | apply keeps_accepted | apply keepsOut_next
                           | apply keeps_ite | apply keepsOut_ite | apply keeps_ite_eff | apply keeps_ite_fst
    | split | simp only [keeps_mk] | dsimp only

end Sys2Proof.Machine
end

