-- ==== Sys2Proof/Laws/KeepsTime.lean ====
section
/-!
SUPPORT. Sys2Proof/Laws/KeepsTime.lean: every operation of Time.lean keeps the queue, the variant and the canonical form of
memory.
-/
namespace Sys2Proof.Machine

variable {s0 s t : State} {die h i hub rtt input port portState delay clockClass version : Nat} {markError p : Bool}
  {c : Cmd} {st : TbState} {x : Ctx} {frame : Option Irig} {parent : Option Nat} {offset : Option Int}

theorem setCtr_keeps {c : Ctr} (hs : Keeps s0 s) : Keeps s0 (setCtr s die c) := by
  unfold setCtr
  repeat' first
    | with_reducible first | assumption
    | split | simp only [keeps_mk] | dsimp only

theorem showValid_keeps (hs : Keeps s0 s) : Keeps s0 (showValid s die) := by
  unfold showValid
  repeat' first
    | with_reducible first | assumption | apply setStatus_keeps
    | split | dsimp only

theorem setAllCtrs_keeps {t : Nat} (hs : Keeps s0 s) : Keeps s0 (setAllCtrs s t) := by
  unfold setAllCtrs
  repeat' first
    | intro _
    | with_reducible first | assumption | apply keeps_fold | apply keeps_fold_fst | apply keeps_fold_visit
                           | apply showValid_keeps | apply setCtr_keeps
    | with_reducible first | apply keeps_done | apply keeps_accepted | apply keepsOut_next
                           | apply keeps_ite | apply keepsOut_ite | apply keeps_ite_eff | apply keeps_ite_fst
    | split | simp only [keeps_mk] | dsimp only

theorem moveAllCtrs_keeps {t : Nat} (hs : Keeps s0 s) : Keeps s0 (moveAllCtrs s t) := by
  unfold moveAllCtrs
  repeat' first
    | intro _
    | with_reducible first | assumption | apply keeps_fold | apply keeps_fold_fst | apply keeps_fold_visit
                           | apply setCtr_keeps
    | with_reducible first | apply keeps_done | apply keeps_accepted | apply keepsOut_next
                           | apply keeps_ite | apply keepsOut_ite | apply keeps_ite_eff | apply keeps_ite_fst
    | split | simp only [keeps_mk] | dsimp only

theorem putTb_keeps {t : TimeBase} (hs : Keeps s0 s) : Keeps s0 (putTb s h t) := by
  unfold putTb
  repeat' first
    | with_reducible first | assumption | apply setStatus_keeps | apply hwEvent_keeps
    | split | simp only [keeps_mk] | dsimp only

theorem noteRate_keeps {s : State} {h : Nat} (hs : Keeps s0 s) : Keeps s0 (noteRate s h) := by
  unfold noteRate
  repeat' first
    | intro _
    | with_reducible first | assumption | apply keeps_fold | apply keeps_fold_fst | apply keeps_fold_visit
    | with_reducible first | apply keeps_done | apply keeps_accepted | apply keepsOut_next | apply keepsOut_getD
                           | apply keeps_ite | apply keepsOut_ite | apply keeps_ite_eff | apply keeps_ite_fst
    | split | simp only [keeps_mk] | dsimp only

theorem noteRates_keeps {s : State} (hs : Keeps s0 s) : Keeps s0 (noteRates s) := by
  unfold noteRates
  repeat' first
    | intro _
    | with_reducible first | assumption | apply keeps_fold | apply keeps_fold_fst | apply keeps_fold_visit
                           | apply noteRate_keeps
    | with_reducible first | apply keeps_done | apply keeps_accepted | apply keepsOut_next | apply keepsOut_getD
                           | apply keeps_ite | apply keepsOut_ite | apply keeps_ite_eff | apply keeps_ite_fst
    | split | simp only [keeps_mk] | dsimp only

theorem refreshAddend_keeps {s : State} {h : Nat} (hs : Keeps s0 s) : Keeps s0 (refreshAddend s h) := by
  unfold refreshAddend
  repeat' first
    | intro _
    | with_reducible first | assumption | apply keeps_fold | apply keeps_fold_fst | apply keeps_fold_visit
                           | apply wr_keeps | apply noteRates_keeps | apply hwEvent_keeps
    | with_reducible first | apply keeps_done | apply keeps_accepted | apply keepsOut_next | apply keepsOut_getD
                           | apply keeps_ite | apply keepsOut_ite | apply keeps_ite_eff | apply keeps_ite_fst
    | split | simp only [keeps_mk] | dsimp only

theorem refreshInputs_keeps (hs : Keeps s0 s) : Keeps s0 (refreshInputs s h) := by
  unfold refreshInputs
  repeat' first
    | intro _
    | with_reducible first | assumption | apply keeps_fold | apply keeps_fold_fst | apply keeps_fold_visit
                           | apply wr_keeps
    | with_reducible first | apply keeps_done | apply keeps_accepted | apply keepsOut_next
                           | apply keeps_ite | apply keepsOut_ite | apply keeps_ite_eff | apply keeps_ite_fst
    | split | simp only [keeps_mk] | dsimp only

theorem enterTb_keeps (hs : Keeps s0 s) : Keeps s0 (enterTb s h st) := by
  unfold enterTb
  repeat' first
    | with_reducible first | assumption | apply refreshInputs_keeps | apply refreshAddend_keeps | apply putTb_keeps
    | split | simp only [keeps_mk] | dsimp only

theorem reselect_keeps (hs : Keeps s0 s) : Keeps s0 (reselect s h) := by
  unfold reselect
  repeat' first
    | with_reducible first | assumption | apply refreshInputs_keeps | apply putTb_keeps | apply hwEvent_keeps
                           | apply enterTb_keeps
    | split | dsimp only

theorem judgeOffset_keeps {x : Int} (hs : Keeps s0 s) : Keeps s0 (judgeOffset s h x) := by
  unfold judgeOffset
  repeat' first
    | with_reducible first | assumption | apply enterTb_keeps | apply putTb_keeps
    | split | dsimp only

theorem servoUpdate_keeps {x : Int} (hs : Keeps s0 s) : Keeps s0 (servoUpdate s h i x) := by
  unfold servoUpdate
  repeat' first
    | with_reducible first | assumption | apply wr_keeps | apply refreshAddend_keeps
    | split | dsimp only

theorem useOffset_keeps {s : State} {h i : Nat} {x : Int} (hs : Keeps s0 s) : Keeps s0 (useOffset s h i x) := by
  unfold useOffset
  repeat' first
    | intro _
    | with_reducible first | assumption | apply keeps_fold | apply keeps_fold_fst | apply keeps_fold_visit
                           | apply setCtr_keeps | apply wr_keeps | apply enterTb_keeps | apply putTb_keeps
                           | apply hwEvent_keeps | apply judgeOffset_keeps | apply refreshAddend_keeps
                           | apply servoUpdate_keeps
    | with_reducible first | apply keeps_done | apply keeps_accepted | apply keepsOut_next | apply keepsOut_getD
                           | apply keeps_ite | apply keepsOut_ite | apply keeps_ite_eff | apply keeps_ite_fst
    | split | simp only [keeps_mk] | dsimp only

theorem arriveOffset_keeps {x : Int} (hs : Keeps s0 s) : Keeps s0 (arriveOffset s h i x) := by
  unfold arriveOffset
  repeat' first
    | with_reducible first | assumption | apply wr_keeps | apply putTb_keeps | apply reselect_keeps
                           | apply useOffset_keeps
    | split | dsimp only

theorem offsetIn_keeps {x : Int} (hs : Keeps s0 s) : Keeps s0 (offsetIn s h i x) := by
  unfold offsetIn
  repeat' first
    | with_reducible first | assumption | apply arriveOffset_keeps
    | split | dsimp only

theorem makeMaster_keeps {s : State} {h : Nat} (hs : Keeps s0 s) : Keeps s0 (makeMaster s h) := by
  unfold makeMaster
  repeat' first
    | intro _
    | with_reducible first | assumption | apply keeps_fold | apply keeps_fold_fst | apply keeps_fold_visit
                           | apply putTb_keeps | apply noteRates_keeps
    | with_reducible first | apply keeps_done | apply keeps_accepted | apply keepsOut_next | apply keepsOut_getD
                           | apply keeps_ite | apply keepsOut_ite | apply keeps_ite_eff | apply keeps_ite_fst
    | split | simp only [keeps_mk] | dsimp only

theorem idleTick_keeps (hs : Keeps s0 s) : Keeps s0 (idleTick s) := by
  unfold idleTick
  repeat' first
    | intro _
    | with_reducible first | assumption | apply keeps_fold | apply keeps_fold_fst | apply keeps_fold_visit
                           | apply setCtr_keeps | apply setRst_keeps
    | with_reducible first | apply keeps_done | apply keeps_accepted | apply keepsOut_next
                           | apply keeps_ite | apply keepsOut_ite | apply keeps_ite_eff | apply keeps_ite_fst
    | split | simp only [keeps_mk] | dsimp only

theorem noteSync_keeps {s : State} {die at_ : Nat} (hs : Keeps s0 s) : Keeps s0 (noteSync s die at_) := by
  unfold noteSync
  repeat' first
    | intro _
    | with_reducible first | assumption | apply keeps_fold | apply keeps_fold_fst | apply keeps_fold_visit
    | with_reducible first | apply keeps_done | apply keeps_accepted | apply keepsOut_next | apply keepsOut_getD
                           | apply keeps_ite | apply keepsOut_ite | apply keeps_ite_eff | apply keeps_ite_fst
    | split | simp only [keeps_mk] | dsimp only

theorem showPair_keeps {s : State} {die hub : Nat} {on : Bool} (hs : Keeps s0 s) : Keeps s0 (showPair s die hub on)
    := by
  unfold showPair
  repeat' first
    | intro _
    | with_reducible first | assumption | apply keeps_fold | apply keeps_fold_fst | apply keeps_fold_visit
                           | apply wr_keeps
    | with_reducible first | apply keeps_done | apply keeps_accepted | apply keepsOut_next | apply keepsOut_getD
                           | apply keeps_ite | apply keepsOut_ite | apply keeps_ite_eff | apply keeps_ite_fst
    | split | simp only [keeps_mk] | dsimp only

theorem showRtt_keeps {s : State} {die hub rtt : Nat} (hs : Keeps s0 s) : Keeps s0 (showRtt s die hub rtt) := by
  unfold showRtt
  repeat' first
    | intro _
    | with_reducible first | assumption | apply keeps_fold | apply keeps_fold_fst | apply keeps_fold_visit
                           | apply wr_keeps
    | with_reducible first | apply keeps_done | apply keeps_accepted | apply keepsOut_next | apply keepsOut_getD
                           | apply keeps_ite | apply keepsOut_ite | apply keeps_ite_eff | apply keeps_ite_fst
    | split | simp only [keeps_mk] | dsimp only

theorem axleExchange_keeps {s : State} (hs : Keeps s0 s) : Keeps s0 (axleExchange s) := by
  unfold axleExchange
  repeat' first
    | intro _
    | with_reducible first | assumption | apply keeps_fold | apply keeps_fold_fst | apply keeps_fold_visit
                           | apply noteSync_keeps | apply incrSat_keeps | apply setCtr_keeps | apply drew_keeps
                           | apply wr_keeps | apply putTb_keeps | apply enterTb_keeps
    | with_reducible first | apply keeps_done | apply keeps_accepted | apply keepsOut_next | apply keepsOut_getD
                           | apply keeps_ite | apply keepsOut_ite | apply keeps_ite_eff | apply keeps_ite_fst
    | split | dsimp only

theorem discipline_keeps {s : State} {die hub : Nat} (hs : Keeps s0 s) : Keeps s0 (discipline s die hub) := by
  unfold discipline
  repeat' first
    | intro _
    | with_reducible first | assumption | apply keeps_fold | apply keeps_fold_fst | apply keeps_fold_visit
                           | apply setCtr_keeps | apply drew_keeps | apply setStatus_keeps | apply wr_keeps
    | with_reducible first | apply keeps_done | apply keeps_accepted | apply keepsOut_next | apply keepsOut_getD
                           | apply keeps_ite | apply keepsOut_ite | apply keeps_ite_eff | apply keeps_ite_fst
    | split | simp only [keeps_mk] | dsimp only

theorem execTimeSyncExchange_keeps {die hub rtt : Nat} {s : State} (hs : Keeps s0 s) : KeepsOut s0
    (execTimeSyncExchange die hub rtt s) := by
  unfold execTimeSyncExchange
  repeat' first
    | intro _
    | with_reducible first | assumption | apply keeps_fold | apply keeps_fold_fst | apply keeps_fold_visit
                           | apply showPair_keeps | apply showRtt_keeps | apply axleExchange_keeps
                           | apply noteSync_keeps | apply discipline_keeps | apply setStatus_keeps
    | with_reducible first | apply keeps_done | apply keeps_accepted | apply keepsOut_next | apply keepsOut_getD
                           | apply keeps_ite | apply keepsOut_ite | apply keeps_ite_eff | apply keeps_ite_fst
    | split | simp only [keeps_mk] | dsimp only

theorem execSyncExchangeLoss_keeps {die : Nat} {s : State} (hs : Keeps s0 s) : KeepsOut s0 (execSyncExchangeLoss die
    s) := by
  unfold execSyncExchangeLoss
  repeat' first
    | intro _
    | with_reducible first | assumption | apply keeps_fold | apply keeps_fold_fst | apply keeps_fold_visit
                           | apply noteSync_keeps | apply incrSat_keeps | apply showPair_keeps | apply hwEvent_keeps
                           | apply makeMaster_keeps | apply enterTb_keeps | apply setStatus_keeps
    | with_reducible first | apply keeps_done | apply keeps_accepted | apply keepsOut_next | apply keepsOut_getD
                           | apply keeps_ite | apply keepsOut_ite | apply keeps_ite_eff | apply keeps_ite_fst
    | split | simp only [keeps_mk] | dsimp only

theorem execCounterSetFromHub_keeps {die : Nat} {s : State} (hs : Keeps s0 s) : KeepsOut s0 (execCounterSetFromHub
    die s) := by
  unfold execCounterSetFromHub
  repeat' first
    | intro _
    | with_reducible first | assumption | apply keeps_fold | apply keeps_fold_fst | apply keeps_fold_visit
                           | apply discipline_keeps
    | with_reducible first | apply keeps_done | apply keeps_accepted | apply keepsOut_next | apply keepsOut_getD
                           | apply keeps_ite | apply keepsOut_ite | apply keeps_ite_eff | apply keeps_ite_fst
    | split | simp only [keeps_mk] | dsimp only

theorem execSlewEnd_keeps (hs : Keeps s0 s) : KeepsOut s0 (execSlewEnd hub s) := by
  unfold execSlewEnd
  repeat' first
    | with_reducible first | assumption | apply keepsOut_next | apply refreshAddend_keeps | apply putTb_keeps
    | split | dsimp only

theorem refreshGm_keeps {s : State} {h : Nat} (hs : Keeps s0 s) : Keeps s0 (refreshGm s h) := by
  unfold refreshGm
  repeat' first
    | intro _
    | with_reducible first | assumption | apply keeps_fold | apply keeps_fold_fst | apply keeps_fold_visit
                           | apply putTb_keeps
    | with_reducible first | apply keeps_done | apply keeps_accepted | apply keepsOut_next | apply keepsOut_getD
                           | apply keeps_ite | apply keepsOut_ite | apply keeps_ite_eff | apply keeps_ite_fst
    | split | simp only [keeps_mk] | dsimp only

theorem execRefTimeoutExpiry_keeps {hub input : Nat} {s : State} (hs : Keeps s0 s) : KeepsOut s0
    (execRefTimeoutExpiry hub input s) := by
  unfold execRefTimeoutExpiry
  repeat' first
    | intro _
    | with_reducible first | assumption | apply keeps_fold | apply keeps_fold_fst | apply keeps_fold_visit
                           | apply putTb_keeps | apply refreshGm_keeps | apply reselect_keeps
    | with_reducible first | apply keeps_done | apply keeps_accepted | apply keepsOut_next | apply keepsOut_getD
                           | apply keeps_ite | apply keepsOut_ite | apply keeps_ite_eff | apply keeps_ite_fst
    | split | simp only [keeps_mk] | dsimp only

theorem execPpsInEdge_keeps {hub : Nat} {s : State} (hs : Keeps s0 s) : KeepsOut s0 (execPpsInEdge hub s) := by
  unfold execPpsInEdge
  repeat' first
    | intro _
    | with_reducible first | assumption | apply keeps_fold | apply keeps_fold_fst | apply keeps_fold_visit
                           | apply tickSrc_keeps | apply refreshGm_keeps | apply offsetIn_keeps
    | with_reducible first | apply keeps_done | apply keeps_accepted | apply keepsOut_next | apply keepsOut_getD
                           | apply keeps_ite | apply keepsOut_ite | apply keeps_ite_eff | apply keeps_ite_fst
    | split | dsimp only

theorem execIrigBFrame_keeps {hub : Nat} {frame : Option Irig} {markError : Bool} {s : State} (hs : Keeps s0 s) :
    KeepsOut s0 (execIrigBFrame hub frame markError s) := by
  unfold execIrigBFrame
  repeat' first
    | intro _
    | with_reducible first | assumption | apply keeps_fold | apply keeps_fold_fst | apply keeps_fold_visit
                           | apply hwEvent_keeps | apply putTb_keeps | apply refreshGm_keeps
    | with_reducible first | apply keeps_done | apply keeps_accepted | apply keepsOut_next | apply keepsOut_getD
                           | apply keeps_ite | apply keepsOut_ite | apply keeps_ite_eff | apply keeps_ite_fst
    | split | simp only [keeps_mk] | dsimp only

theorem execLeapSecondApply_keeps (hs : Keeps s0 s) : KeepsOut s0 (execLeapSecondApply hub s) := by
  unfold execLeapSecondApply
  repeat' first
    | with_reducible first | assumption | apply keepsOut_next | apply wr_keeps | apply putTb_keeps
    | split | dsimp only

theorem setParent_keeps (hs : Keeps s0 s) : Keeps s0 (setParent s hub p) := by
  unfold setParent
  repeat' first
    | with_reducible first | assumption | apply reselect_keeps | apply putTb_keeps
    | split | dsimp only

theorem execAnnounceReceiptTimeout_keeps (hs : Keeps s0 s) : KeepsOut s0 (execAnnounceReceiptTimeout hub s) := by
  unfold execAnnounceReceiptTimeout
  repeat' first
    | with_reducible first | assumption | apply keepsOut_next | apply setParent_keeps | apply wr_keeps
    | split | dsimp only

theorem execPtpMessageRx_keeps (hs : Keeps s0 s) : KeepsOut s0 (execPtpMessageRx hub port portState delay parent
    clockClass version offset s) := by
  unfold execPtpMessageRx
  repeat' first
    | with_reducible first | assumption | apply keepsOut_next | apply setSw_keeps | apply wr_keeps
                           | apply setParent_keeps | apply countWrite_keeps | apply offsetIn_keeps
    | split | dsimp only

theorem setTime_keeps (hs : Keeps s0 s) : Keeps s0 (setTime h s) := by
  unfold setTime
  repeat' first
    | with_reducible first | assumption | apply setAllCtrs_keeps | apply enterTb_keeps | apply makeMaster_keeps
    | split | dsimp only

theorem effectSetTime_keeps (ht : Keeps s0 t) : Keeps s0 (effectSetTime x t).state := by
  unfold effectSetTime
  repeat' with_reducible
    first | assumption | apply Effect_done_keeps | apply setTime_keeps

theorem execSetTime_keeps (hs : Keeps s0 s) : KeepsOut s0 (execSetTime c s) := by
  unfold execSetTime
  repeat' first
    | intro _
    | with_reducible first | assumption | apply keeps_fold | apply keeps_fold_fst | apply keeps_fold_visit
                           | apply command_keeps | apply effectSetTime_keeps
    | with_reducible first | apply keeps_done | apply keeps_accepted | apply keepsOut_next
                           | apply keeps_ite | apply keepsOut_ite | apply keeps_ite_eff | apply keeps_ite_fst
    | split | simp only [keeps_mk] | dsimp only

theorem effectStep_keeps (ht : Keeps s0 t) : Keeps s0 (effectStep x t).state := by
  unfold effectStep
  repeat' first
    | with_reducible first | assumption | apply Effect_accepted_keeps
    | split | simp only [keeps_mk] | dsimp only

theorem execStep_keeps (hs : Keeps s0 s) : KeepsOut s0 (execStep c s) := by
  unfold execStep
  repeat' first
    | intro _
    | with_reducible first | assumption | apply keeps_fold | apply keeps_fold_fst | apply keeps_fold_visit
                           | apply command_keeps | apply effectStep_keeps
    | with_reducible first | apply keeps_done | apply keeps_accepted | apply keepsOut_next
                           | apply keeps_ite | apply keepsOut_ite | apply keeps_ite_eff | apply keeps_ite_fst
    | split | simp only [keeps_mk] | dsimp only

theorem effectSelectRef_keeps (ht : Keeps s0 t) : Keeps s0 (effectSelectRef x t).state := by
  unfold effectSelectRef
  repeat' with_reducible
    first | assumption | apply Effect_done_keeps | apply reselect_keeps | apply putTb_keeps

theorem execSelectRef_keeps (hs : Keeps s0 s) : KeepsOut s0 (execSelectRef c s) := by
  unfold execSelectRef
  repeat' first
    | intro _
    | with_reducible first | assumption | apply keeps_fold | apply keeps_fold_fst | apply keeps_fold_visit
                           | apply command_keeps | apply effectSelectRef_keeps
    | with_reducible first | apply keeps_done | apply keeps_accepted | apply keepsOut_next
                           | apply keeps_ite | apply keepsOut_ite | apply keeps_ite_eff | apply keeps_ite_fst
    | split | simp only [keeps_mk] | dsimp only

theorem effectHold_keeps (ht : Keeps s0 t) : Keeps s0 (effectHold x t).state := by
  unfold effectHold
  repeat' with_reducible
    first | assumption | apply Effect_done_keeps | apply enterTb_keeps | apply putTb_keeps

theorem execHold_keeps (hs : Keeps s0 s) : KeepsOut s0 (execHold c s) := by
  unfold execHold
  repeat' first
    | intro _
    | with_reducible first | assumption | apply keeps_fold | apply keeps_fold_fst | apply keeps_fold_visit
                           | apply command_keeps | apply effectHold_keeps
    | with_reducible first | apply keeps_done | apply keeps_accepted | apply keepsOut_next
                           | apply keeps_ite | apply keepsOut_ite | apply keeps_ite_eff | apply keeps_ite_fst
    | split | simp only [keeps_mk] | dsimp only

theorem effectTakeMaster_keeps (ht : Keeps s0 t) : Keeps s0 (effectTakeMaster x t).state := by
  unfold effectTakeMaster
  repeat' with_reducible
    first | assumption | apply Effect_accepted_keeps

theorem execTakeMaster_keeps (hs : Keeps s0 s) : KeepsOut s0 (execTakeMaster c s) := by
  unfold execTakeMaster
  repeat' first
    | intro _
    | with_reducible first | assumption | apply keeps_fold | apply keeps_fold_fst | apply keeps_fold_visit
                           | apply command_keeps | apply effectTakeMaster_keeps
    | with_reducible first | apply keeps_done | apply keeps_accepted | apply keepsOut_next
                           | apply keeps_ite | apply keepsOut_ite | apply keeps_ite_eff | apply keeps_ite_fst
    | split | simp only [keeps_mk] | dsimp only

theorem takeMaster_keeps {s : State} {h : Nat} (hs : Keeps s0 s) : Keeps s0 (takeMaster s h) := by
  unfold takeMaster
  repeat' first
    | intro _
    | with_reducible first | assumption | apply keeps_fold | apply keeps_fold_fst | apply keeps_fold_visit
                           | apply wr_keeps | apply putTb_keeps | apply enterTb_keeps | apply makeMaster_keeps
                           | apply refreshInputs_keeps | apply noteRates_keeps
    | with_reducible first | apply keeps_done | apply keeps_accepted | apply keepsOut_next | apply keepsOut_getD
                           | apply keeps_ite | apply keepsOut_ite | apply keeps_ite_eff | apply keeps_ite_fst
    | split | simp only [keeps_mk] | dsimp only

theorem execTakeMasterDone_keeps (hs : Keeps s0 s) : KeepsOut s0 (execTakeMasterDone hub s) := by
  unfold execTakeMasterDone
  repeat' first
    | with_reducible first | assumption | apply keepsOut_next | apply finish_keeps | apply takeMaster_keeps
    | split | dsimp only

theorem effectResetServo_keeps (ht : Keeps s0 t) : Keeps s0 (effectResetServo x t).state := by
  unfold effectResetServo
  repeat' first
    | intro _
    | with_reducible first | assumption | apply keeps_fold | apply keeps_fold_fst | apply keeps_fold_visit
                           | apply Effect_done_keeps | apply wr_keeps
    | with_reducible first | apply keeps_done | apply keeps_accepted | apply keepsOut_next
                           | apply keeps_ite | apply keepsOut_ite | apply keeps_ite_eff | apply keeps_ite_fst
    | split | simp only [keeps_mk] | dsimp only

theorem execResetServo_keeps (hs : Keeps s0 s) : KeepsOut s0 (execResetServo c s) := by
  unfold execResetServo
  repeat' first
    | intro _
    | with_reducible first | assumption | apply keeps_fold | apply keeps_fold_fst | apply keeps_fold_visit
                           | apply command_keeps | apply effectResetServo_keeps
    | with_reducible first | apply keeps_done | apply keeps_accepted | apply keepsOut_next
                           | apply keeps_ite | apply keepsOut_ite | apply keeps_ite_eff | apply keeps_ite_fst
    | split | simp only [keeps_mk] | dsimp only

theorem timeReleased_keeps {s : State} {die : Nat} (hs : Keeps s0 s) : Keeps s0 (timeReleased s die) := by
  unfold timeReleased
  repeat' first
    | intro _
    | with_reducible first | assumption | apply keeps_fold | apply keeps_fold_fst | apply keeps_fold_visit
                           | apply noteSync_keeps | apply setCtr_keeps | apply putTb_keeps | apply makeMaster_keeps
                           | apply setStatus_keeps
    | with_reducible first | apply keeps_done | apply keeps_accepted | apply keepsOut_next | apply keepsOut_getD
                           | apply keeps_ite | apply keepsOut_ite | apply keeps_ite_eff | apply keeps_ite_fst
    | split | simp only [keeps_mk] | dsimp only

theorem execRefclkLoss_keeps (hs : Keeps s0 s) : KeepsOut s0 (execRefclkLoss die s) := by
  unfold execRefclkLoss
  repeat' first
    | with_reducible first | assumption | apply keepsOut_next | apply setRst_keeps
    | split | dsimp only

theorem execRefclkReturn_keeps (hs : Keeps s0 s) : KeepsOut s0 (execRefclkReturn die s) := by
  unfold execRefclkReturn
  repeat' first
    | with_reducible first | assumption | apply keepsOut_next | apply setRst_keeps
    | split | dsimp only

end Sys2Proof.Machine
end

