-- ==== Sys2Proof/Laws/KeepsIngest.lean ====
section
/-!
SUPPORT. Sys2Proof/Laws/KeepsIngest.lean: every operation of Ingest.lean keeps the queue, the variant and the canonical form of
memory.
-/
namespace Sys2Proof.Machine

variable {s0 s t : State} {hub i n st missed lane tIn at_ : Nat} {sim marked : Bool} {e : Stream} {rs : List Reg} {fin
  : FrameIn} {r : State × List Accepted} {a : Asdu} {x : Ctx} {c : Cmd}

theorem putStream_keeps (hs : Keeps s0 s) : Keeps s0 (putStream s hub i e) := by
  unfold putStream
  repeat' first
    | with_reducible first | assumption
    | split | simp only [keeps_mk] | dsimp only

theorem inEvent_keeps (hs : Keeps s0 s) : Keeps s0 (inEvent s hub i n) := by
  unfold inEvent
  repeat' first
    | with_reducible first | assumption | apply hwEvent_keeps | apply wr_keeps
    | split | dsimp only

theorem putSt_keeps (hs : Keeps s0 s) : Keeps s0 (putSt s hub i st) := by
  unfold putSt
  repeat' first
    | with_reducible first | assumption | apply inEvent_keeps | apply wr_keeps
    | split | dsimp only

theorem authCount_keeps (hs : Keeps s0 s) : Keeps s0 (authCount s hub i rs) := by
  unfold authCount
  repeat' first
    | intro _
    | with_reducible first | assumption | apply keeps_fold | apply keeps_fold_fst | apply keeps_fold_visit
                           | apply cyc_keeps | apply inEvent_keeps | apply incr_keeps
    | with_reducible first | apply keeps_done | apply keeps_accepted | apply keepsOut_next
                           | apply keeps_ite | apply keepsOut_ite | apply keeps_ite_eff | apply keeps_ite_fst
    | split | simp only [keeps_mk] | dsimp only

theorem authStage_keeps (hs : Keeps s0 s) : Keeps s0 (authStage s hub i e fin).1 := by
  unfold authStage
  repeat' first
    | with_reducible first | assumption | apply incr_keeps | apply authPass_keeps | apply authFail_keeps
                           | apply authCount_keeps
    | split | dsimp only

theorem countAccepted_keeps (hs : Keeps s0 s) : Keeps s0 (countAccepted s hub i e missed) := by
  unfold countAccepted
  repeat' first
    | with_reducible first | assumption | apply putStream_keeps | apply cyc_keeps | apply inEvent_keeps
                           | apply incr_keeps
    | split | dsimp only

theorem takeAsdu_keeps (hr : Keeps s0 r.1) : Keeps s0 (takeAsdu hub i lane tIn sim marked r a).1 := by
  unfold takeAsdu
  try dsimp only
  repeat' first
    | intro _
    | with_reducible first | assumption | apply keeps_fold | apply keeps_fold_fst | apply keeps_fold_visit
                           | apply incr_keeps | apply cyc_keeps | apply wrAll_keeps | apply putStream_keeps
                           | apply countAccepted_keeps
    | with_reducible first | apply keeps_done | apply keeps_accepted | apply keepsOut_next
                           | apply keeps_ite | apply keepsOut_ite | apply keeps_ite_eff | apply keeps_ite_fst
    | split | simp only [keeps_mk] | dsimp only

theorem heard_keeps (hs : Keeps s0 s) : Keeps s0 (heard s hub i) := by
  unfold heard
  repeat' first
    | with_reducible first | assumption | apply putSt_keeps | apply putStream_keeps
    | split | dsimp only

theorem frameStage_keeps (hs : Keeps s0 s) : Keeps s0 (frameStage s hub i e fin marked) := by
  unfold frameStage
  try dsimp only
  repeat' first
    | intro _
    | with_reducible first | assumption | apply keeps_fold | apply keeps_fold_fst | apply keeps_fold_visit
                           | apply inEvent_keeps | apply incr_keeps | apply takeAsdu_keeps | apply heard_keeps
    | with_reducible first | apply keeps_done | apply keeps_accepted | apply keepsOut_next
                           | apply keeps_ite | apply keepsOut_ite | apply keeps_ite_eff | apply keeps_ite_fst
    | split | simp only [keeps_mk] | dsimp only

theorem pastMatch_keeps (hs : Keeps s0 s) : Keeps s0 (pastMatch s hub i e fin) := by
  unfold pastMatch
  repeat' first
    | with_reducible first | assumption | apply authStage_keeps | apply frameStage_keeps
    | split | dsimp only

theorem svCopy_keeps (hs : Keeps s0 s) : Keeps s0 (svCopy s hub fin) := by
  unfold svCopy
  repeat' first
    | with_reducible first | assumption | apply hwEvent_keeps | apply wr_keeps | apply incr_keeps | apply heard_keeps
                           | apply pastMatch_keeps
    | split | dsimp only

theorem execSvCopyIngest_keeps (hs : Keeps s0 s) : KeepsOut s0 (execSvCopyIngest hub s) := by
  unfold execSvCopyIngest
  repeat' first
    | with_reducible first | assumption | apply keepsOut_next | apply setSw_keeps | apply svCopy_keeps
    | split | dsimp only

theorem execStreamStale_keeps (hs : Keeps s0 s) : KeepsOut s0 (execStreamStale hub i s) := by
  unfold execStreamStale
  repeat' first
    | with_reducible first | assumption | apply keepsOut_next | apply inEvent_keeps | apply incr_keeps
                           | apply putSt_keeps | apply putStream_keeps
    | split | dsimp only

theorem effectStEnable_keeps {x : Ctx} {t : State} (ht : Keeps s0 t) : Keeps s0 (effectStEnable x t).state := by
  unfold effectStEnable
  repeat' first
    | intro _
    | with_reducible first | assumption | apply keeps_fold | apply keeps_fold_fst | apply keeps_fold_visit
                           | apply shareRefuse_keeps | apply unhold_keeps | apply wrAll_keeps
                           | apply putStream_keeps | apply initRing_keeps | apply checkFallback_keeps
                           | apply putSt_keeps | apply setFilter_keeps | apply Effect_done_keeps
    | with_reducible first | apply keeps_done | apply keeps_accepted | apply keepsOut_next | apply keepsOut_getD
                           | apply keeps_ite | apply keepsOut_ite | apply keeps_ite_eff | apply keeps_ite_fst
    | split | simp only [keeps_mk] | dsimp only

theorem execStEnable_keeps (hs : Keeps s0 s) : KeepsOut s0 (execStEnable c s) := by
  unfold execStEnable
  repeat' first
    | intro _
    | with_reducible first | assumption | apply keeps_fold | apply keeps_fold_fst | apply keeps_fold_visit
                           | apply command_keeps | apply effectStEnable_keeps
    | with_reducible first | apply keeps_done | apply keeps_accepted | apply keepsOut_next
                           | apply keeps_ite | apply keepsOut_ite | apply keeps_ite_eff | apply keeps_ite_fst
    | split | simp only [keeps_mk] | dsimp only

theorem completeBatches_keeps (hs : Keeps s0 s) : Keeps s0 (completeBatches s hub i) := by
  unfold completeBatches
  repeat' first
    | intro _
    | with_reducible first | assumption | apply keeps_fold | apply keeps_fold_fst | apply keeps_fold_visit
                           | apply visitBatch_keeps
    | with_reducible first | apply keeps_done | apply keeps_accepted | apply keepsOut_next
                           | apply keeps_ite | apply keepsOut_ite | apply keeps_ite_eff | apply keeps_ite_fst
    | split | simp only [keeps_mk] | dsimp only

theorem dropFromPlan_keeps (hs : Keeps s0 s) : Keeps s0 (dropFromPlan s hub i) := by
  unfold dropFromPlan
  repeat' first
    | with_reducible first | assumption | apply setLane_keeps
    | split | dsimp only

theorem effectStDisable_keeps (ht : Keeps s0 t) : Keeps s0 (effectStDisable x t).state := by
  unfold effectStDisable
  repeat' first
    | intro _
    | with_reducible first | assumption | apply keeps_fold | apply keeps_fold_fst | apply keeps_fold_visit
                           | apply completeBatches_keeps | apply dropFromPlan_keeps | apply putSt_keeps
                           | apply Effect_done_keeps | apply wr_keeps
    | with_reducible first | apply keeps_done | apply keeps_accepted | apply keepsOut_next
                           | apply keeps_ite | apply keepsOut_ite | apply keeps_ite_eff | apply keeps_ite_fst
    | split | simp only [keeps_mk] | dsimp only

theorem execStDisable_keeps (hs : Keeps s0 s) : KeepsOut s0 (execStDisable c s) := by
  unfold execStDisable
  repeat' first
    | intro _
    | with_reducible first | assumption | apply keeps_fold | apply keeps_fold_fst | apply keeps_fold_visit
                           | apply command_keeps | apply effectStDisable_keeps
    | with_reducible first | apply keeps_done | apply keeps_accepted | apply keepsOut_next
                           | apply keeps_ite | apply keepsOut_ite | apply keeps_ite_eff | apply keeps_ite_fst
    | split | simp only [keeps_mk] | dsimp only

theorem effectStTune_keeps (ht : Keeps s0 t) : Keeps s0 (effectStTune x t).state := by
  unfold effectStTune
  repeat' first
    | with_reducible first | assumption | apply Effect_done_keeps | apply putStream_keeps
    | split | dsimp only

theorem execStTune_keeps (hs : Keeps s0 s) : KeepsOut s0 (execStTune c s) := by
  unfold execStTune
  repeat' first
    | intro _
    | with_reducible first | assumption | apply keeps_fold | apply keeps_fold_fst | apply keeps_fold_visit
                           | apply command_keeps | apply effectStTune_keeps
    | with_reducible first | apply keeps_done | apply keeps_accepted | apply keepsOut_next
                           | apply keeps_ite | apply keepsOut_ite | apply keeps_ite_eff | apply keeps_ite_fst
    | split | simp only [keeps_mk] | dsimp only

theorem effectIngestClearCounters_keeps (ht : Keeps s0 t) : Keeps s0 (effectIngestClearCounters x t).state := by
  unfold effectIngestClearCounters
  repeat' first
    | with_reducible first | assumption | apply Effect_done_keeps | apply clearInsts_keeps | apply clearRegs_keeps
    | split | dsimp only

theorem execIngestClearCounters_keeps (hs : Keeps s0 s) : KeepsOut s0 (execIngestClearCounters c s) := by
  unfold execIngestClearCounters
  repeat' first
    | intro _
    | with_reducible first | assumption | apply keeps_fold | apply keeps_fold_fst | apply keeps_fold_visit
                           | apply command_keeps | apply effectIngestClearCounters_keeps
    | with_reducible first | apply keeps_done | apply keeps_accepted | apply keepsOut_next
                           | apply keeps_ite | apply keepsOut_ite | apply keeps_ite_eff | apply keeps_ite_fst
    | split | simp only [keeps_mk] | dsimp only

theorem effectDestRestart_keeps (ht : Keeps s0 t) : Keeps s0 (effectDestRestart x t).state := by
  unfold effectDestRestart
  repeat' first
    | with_reducible first | assumption | apply Effect_done_keeps | apply wr_keeps | apply putStream_keeps
    | split | dsimp only

theorem execDestRestart_keeps (hs : Keeps s0 s) : KeepsOut s0 (execDestRestart c s) := by
  unfold execDestRestart
  repeat' first
    | intro _
    | with_reducible first | assumption | apply keeps_fold | apply keeps_fold_fst | apply keeps_fold_visit
                           | apply command_keeps | apply effectDestRestart_keeps
    | with_reducible first | apply keeps_done | apply keeps_accepted | apply keepsOut_next
                           | apply keeps_ite | apply keepsOut_ite | apply keeps_ite_eff | apply keeps_ite_fst
    | split | simp only [keeps_mk] | dsimp only

theorem detRestart_keeps (hs : Keeps s0 s) : Keeps s0 (detRestart s hub i) := by
  unfold detRestart
  repeat' first
    | intro _
    | with_reducible first | assumption | apply keeps_fold | apply keeps_fold_fst | apply keeps_fold_visit
                           | apply putDetState_keeps
    | with_reducible first | apply keeps_done | apply keeps_accepted | apply keepsOut_next
                           | apply keeps_ite | apply keepsOut_ite | apply keeps_ite_eff | apply keeps_ite_fst
    | split | simp only [keeps_mk] | dsimp only

theorem forceHome_keeps (hs : Keeps s0 s) : Keeps s0 (forceHome hub s i) := by
  unfold forceHome
  repeat' first
    | with_reducible first | assumption | apply detRestart_keeps | apply putStream_keeps
    | split | dsimp only

theorem replay_keeps (hs : Keeps s0 s) : Keeps s0 (replay hub s i) := by
  unfold replay
  repeat' first
    | intro _
    | with_reducible first | assumption | apply keeps_fold | apply keeps_fold_fst | apply keeps_fold_visit
                           | apply pastMatch_keeps
    | with_reducible first | apply keeps_done | apply keeps_accepted | apply keepsOut_next
                           | apply keeps_ite | apply keepsOut_ite | apply keeps_ite_eff | apply keeps_ite_fst
    | split | simp only [keeps_mk] | dsimp only

theorem execHubLostRehome_keeps (hs : Keeps s0 s) : KeepsOut s0 (execHubLostRehome hub s) := by
  unfold execHubLostRehome
  repeat' first
    | intro _
    | with_reducible first | assumption | apply keeps_fold | apply keeps_fold_fst | apply keeps_fold_visit
                           | apply putLaneState_keeps | apply setLane_keeps | apply forceHome_keeps
                           | apply eventRec_keeps | apply tickPage_keeps | apply wr_keeps | apply replay_keeps
    | with_reducible first | apply keeps_done | apply keeps_accepted | apply keepsOut_next
                           | apply keeps_ite | apply keepsOut_ite | apply keeps_ite_eff | apply keeps_ite_fst
    | split | simp only [keeps_mk] | dsimp only

theorem yieldStream_keeps {keeper other : Nat} {s : State} {i : Nat} (hs : Keeps s0 s) : Keeps s0 (yieldStream
    keeper other s i) := by
  unfold yieldStream
  repeat' first
    | intro _
    | with_reducible first | assumption | apply keeps_fold | apply keeps_fold_fst | apply keeps_fold_visit
                           | apply detRestart_keeps | apply putStream_keeps
    | with_reducible first | apply keeps_done | apply keeps_accepted | apply keepsOut_next | apply keepsOut_getD
                           | apply keeps_ite | apply keepsOut_ite | apply keeps_ite_eff | apply keeps_ite_fst
    | split | simp only [keeps_mk] | dsimp only

theorem rejoinHubs_keeps {s : State} (hs : Keeps s0 s) : Keeps s0 (rejoinHubs s) := by
  unfold rejoinHubs
  repeat' first
    | intro _
    | with_reducible first | assumption | apply keeps_fold | apply keeps_fold_fst | apply keeps_fold_visit
                           | apply setLane_keeps | apply yieldStream_keeps
    | with_reducible first | apply keeps_done | apply keeps_accepted | apply keepsOut_next | apply keepsOut_getD
                           | apply keeps_ite | apply keepsOut_ite | apply keeps_ite_eff | apply keeps_ite_fst
    | split | simp only [keeps_mk] | dsimp only

theorem effectRehome_keeps (ht : Keeps s0 t) : Keeps s0 (effectRehome x t).state := by
  unfold effectRehome
  repeat' with_reducible
    first | assumption | apply Effect_accepted_keeps | apply setLane_keeps

theorem execRehome_keeps (hs : Keeps s0 s) : KeepsOut s0 (execRehome c s) := by
  unfold execRehome
  repeat' first
    | intro _
    | with_reducible first | assumption | apply keeps_fold | apply keeps_fold_fst | apply keeps_fold_visit
                           | apply command_keeps | apply effectRehome_keeps
    | with_reducible first | apply keeps_done | apply keeps_accepted | apply keepsOut_next
                           | apply keeps_ite | apply keepsOut_ite | apply keeps_ite_eff | apply keeps_ite_fst
    | split | simp only [keeps_mk] | dsimp only

theorem execRehomeWarmStart_keeps (hs : Keeps s0 s) : KeepsOut s0 (execRehomeWarmStart hub s) := by
  unfold execRehomeWarmStart
  repeat' first
    | intro _
    | with_reducible first | assumption | apply keeps_fold | apply keeps_fold_fst | apply keeps_fold_visit
                           | apply setLane_keeps | apply detRestart_keeps | apply putStream_keeps
    | with_reducible first | apply keeps_done | apply keeps_accepted | apply keepsOut_next
                           | apply keeps_ite | apply keepsOut_ite | apply keeps_ite_eff | apply keeps_ite_fst
    | split | dsimp only

theorem cutStream_keeps (hs : Keeps s0 s) : Keeps s0 (cutStream hub at_ s i) := by
  unfold cutStream
  repeat' first
    | with_reducible first | assumption | apply putStream_keeps | apply detRestart_keeps
    | split | dsimp only

theorem execRehomeCut_keeps (hs : Keeps s0 s) : KeepsOut s0 (execRehomeCut hub s) := by
  unfold execRehomeCut
  repeat' first
    | intro _
    | with_reducible first | assumption | apply keeps_fold | apply keeps_fold_fst | apply keeps_fold_visit
                           | apply cutStream_keeps | apply setLane_keeps | apply finishOp_keeps | apply hwEvent_keeps
                           | apply wr_keeps
    | with_reducible first | apply keeps_done | apply keeps_accepted | apply keepsOut_next
                           | apply keeps_ite | apply keepsOut_ite | apply keeps_ite_eff | apply keeps_ite_fst
    | split | dsimp only

end Sys2Proof.Machine
end

