-- ==== Sys2Proof/Laws/KeepsLog.lean ====
section
/-!
SUPPORT. Sys2Proof/Laws/KeepsLog.lean: every operation of Log.lean keeps the queue, the variant and the canonical form of
memory.
-/
namespace Sys2Proof.Machine

variable {s0 s : State} {hub die severity kind : Nat} {e : LogEntry} {values : List Nat}

theorem takeLog_keeps (hs : Keeps s0 s) : Keeps s0 (takeLog e s hub) := by
  unfold takeLog
  repeat' first
    | with_reducible first | assumption
    | split | simp only [keeps_mk] | dsimp only

theorem pushLog_keeps (hs : Keeps s0 s) : Keeps s0 (pushLog s die severity kind values) := by
  unfold pushLog
  repeat' first
    | intro _
    | with_reducible first | assumption | apply keeps_fold | apply keeps_fold_fst | apply keeps_fold_visit
                           | apply takeLog_keeps | apply tickSrc_keeps
    | with_reducible first | apply keeps_done | apply keeps_accepted | apply keepsOut_next
                           | apply keeps_ite | apply keepsOut_ite | apply keeps_ite_eff | apply keeps_ite_fst
    | split | simp only [keeps_mk] | dsimp only

end Sys2Proof.Machine
end

