-- ==== Sys2Proof/Laws/KeepsSaddlebag.lean ====
section
/-!
SUPPORT. Sys2Proof/Laws/KeepsSaddlebag.lean: every operation of Saddlebag.lean keeps the queue, the variant and the canonical form of
memory.
-/
namespace Sys2Proof.Machine

variable {s0 s t : State} {h st left i cause code p pos hub set ini v grant : Nat} {g : Sbag} {k : SnapSet} {r : Rec}
  {bs : List Byte} {fired : Bool} {a : Access} {x : Ctx} {c : Cmd}

theorem setSbag_keeps (hs : Keeps s0 s) : Keeps s0 (setSbag s h g) := by
  unfold setSbag
  repeat' first
    | with_reducible first | assumption
    | split | simp only [keeps_mk] | dsimp only

theorem putSbState_keeps (hs : Keeps s0 s) : Keeps s0 (putSbState s h st left) := by
  unfold putSbState
  repeat' with_reducible
    first | assumption | apply wr_keeps

theorem putSnap_keeps (hs : Keeps s0 s) : Keeps s0 (putSnap s h i k) := by
  unfold putSnap
  repeat' with_reducible
    first | assumption | apply wr_keeps | apply setSbag_keeps

theorem snapFire_keeps {h : Nat} {cause : Nat} {s : State} {i : Nat} (hs : Keeps s0 s) : Keeps s0 (snapFire h cause
    s i) := by
  unfold snapFire
  repeat' first
    | intro _
    | with_reducible first | assumption | apply keeps_fold | apply keeps_fold_fst | apply keeps_fold_visit
                           | apply causedBy_keeps | apply hwEvent_keeps | apply incr_keeps | apply putSnap_keeps
    | with_reducible first | apply keeps_done | apply keeps_accepted | apply keepsOut_next | apply keepsOut_getD
                           | apply keeps_ite | apply keepsOut_ite | apply keeps_ite_eff | apply keeps_ite_fst
    | split | simp only [keeps_mk] | dsimp only

theorem freezeFire_keeps (hs : Keeps s0 s) : Keeps s0 (freezeFire s h code cause) := by
  unfold freezeFire
  repeat' first
    | with_reducible first | assumption | apply setSbag_keeps
    | split | dsimp only

theorem fireTrigger_keeps (hs : Keeps s0 s) : Keeps s0 (fireTrigger s h code cause) := by
  unfold fireTrigger
  repeat' first
    | intro _
    | with_reducible first | assumption | apply keeps_fold | apply keeps_fold_fst | apply keeps_fold_visit
                           | apply snapFire_keeps | apply freezeFire_keeps
    | with_reducible first | apply keeps_done | apply keeps_accepted | apply keepsOut_next
                           | apply keeps_ite | apply keepsOut_ite | apply keeps_ite_eff | apply keeps_ite_fst
    | split | simp only [keeps_mk] | dsimp only

theorem fireCode_keeps (hs : Keeps s0 s) : Keeps s0 (fireCode s h r) := by
  unfold fireCode
  repeat' first
    | intro _
    | with_reducible first | assumption | apply keeps_fold | apply keeps_fold_fst | apply keeps_fold_visit
                           | apply snapFire_keeps | apply freezeFire_keeps
    | with_reducible first | apply keeps_done | apply keeps_accepted | apply keepsOut_next
                           | apply keeps_ite | apply keepsOut_ite | apply keeps_ite_eff | apply keeps_ite_fst
    | split | simp only [keeps_mk] | dsimp only

theorem frozenLose_keeps (hs : Keeps s0 s) : Keeps s0 (frozenLose s h p) := by
  unfold frozenLose
  repeat' with_reducible
    first | assumption | apply incr_keeps | apply setSbag_keeps

theorem enqueue_keeps (hs : Keeps s0 s) : Keeps s0 (enqueue s h r) := by
  unfold enqueue
  repeat' first
    | with_reducible first | assumption | apply frozenLose_keeps | apply hwEvent_keeps | apply incr_keeps
                           | apply setSbag_keeps
    | split | dsimp only

theorem ringPut_keeps (hs : Keeps s0 s) : Keeps s0 (ringPut s h pos bs) := by
  unfold ringPut
  repeat' with_reducible
    first | assumption | apply writeBytes_keeps

theorem ringWrite_keeps (hs : Keeps s0 s) : Keeps s0 (ringWrite s h r) := by
  unfold ringWrite
  repeat' with_reducible
    first | assumption | apply ringPut_keeps | apply setSbag_keeps | apply incr_keeps | apply wr_keeps

theorem enterFrozen_keeps {s : State} {h code cause : Nat} (hs : Keeps s0 s) : Keeps s0 (enterFrozen s h code cause)
    := by
  unfold enterFrozen
  repeat' first
    | intro _
    | with_reducible first | assumption | apply keeps_fold | apply keeps_fold_fst | apply keeps_fold_visit
                           | apply wr_keeps | apply ringWrite_keeps | apply tickPageBy_keeps | apply causedBy_keeps
                           | apply hwEvent_keeps | apply putSbState_keeps | apply setSbag_keeps
                           | apply frozenLose_keeps
    | with_reducible first | apply keeps_done | apply keeps_accepted | apply keepsOut_next | apply keepsOut_getD
                           | apply keeps_ite | apply keepsOut_ite | apply keeps_ite_eff | apply keeps_ite_fst
    | split | simp only [keeps_mk] | dsimp only

theorem countPost_keeps (hs : Keeps s0 s) : Keeps s0 (countPost s h fired) := by
  unfold countPost
  repeat' first
    | with_reducible first | assumption | apply enterFrozen_keeps | apply putSbState_keeps
    | split | dsimp only

theorem execSaddlebagRecordEnqueue_keeps (hs : Keeps s0 s) : KeepsOut s0 (execSaddlebagRecordEnqueue hub s) := by
  unfold execSaddlebagRecordEnqueue
  repeat' first
    | with_reducible first | assumption | apply keepsOut_next | apply enqueue_keeps
    | split | simp only [keeps_mk] | dsimp only

theorem execSaddlebagRingWrite_keeps (hs : Keeps s0 s) : KeepsOut s0 (execSaddlebagRingWrite hub s) := by
  unfold execSaddlebagRingWrite
  repeat' first
    | with_reducible first | assumption | apply keepsOut_next | apply setSbag_keeps | apply fireCode_keeps
                           | apply ringWrite_keeps | apply countPost_keeps
    | split | dsimp only

theorem execFreezeTrigger_keeps {hub : Nat} {s : State} (hs : Keeps s0 s) : KeepsOut s0 (execFreezeTrigger hub s) :=
    by
  unfold execFreezeTrigger
  repeat' first
    | intro _
    | with_reducible first | assumption | apply keeps_fold | apply keeps_fold_fst | apply keeps_fold_visit
                           | apply causedBy_keeps | apply hwEvent_keeps | apply putSbState_keeps
                           | apply setSbag_keeps | apply enterFrozen_keeps
    | with_reducible first | apply keeps_done | apply keeps_accepted | apply keepsOut_next | apply keepsOut_getD
                           | apply keeps_ite | apply keepsOut_ite | apply keeps_ite_eff | apply keeps_ite_fst
    | split | dsimp only

theorem execSnapshotPeriod_keeps {hub set : Nat} {s : State} (hs : Keeps s0 s) : KeepsOut s0 (execSnapshotPeriod hub
    set s) := by
  unfold execSnapshotPeriod
  repeat' first
    | intro _
    | with_reducible first | assumption | apply keeps_fold | apply keeps_fold_fst | apply keeps_fold_visit
                           | apply snapFire_keeps | apply putSnap_keeps
    | with_reducible first | apply keeps_done | apply keeps_accepted | apply keepsOut_next | apply keepsOut_getD
                           | apply keeps_ite | apply keepsOut_ite | apply keeps_ite_eff | apply keeps_ite_fst
    | split | simp only [keeps_mk] | dsimp only

theorem execSbNextRead_keeps (hs : Keeps s0 s) : KeepsOut s0 (execSbNextRead a s) := by
  unfold execSbNextRead
  repeat' first
    | intro _
    | with_reducible first | assumption | apply keeps_fold | apply keeps_fold_fst | apply keeps_fold_visit
                           | apply readGate_keeps | apply wrB_keeps | apply respond_keeps | apply setSbag_keeps
    | with_reducible first | apply keeps_done | apply keeps_accepted | apply keepsOut_next
                           | apply keeps_ite | apply keepsOut_ite | apply keeps_ite_eff | apply keeps_ite_fst
    | split | simp only [keeps_mk] | dsimp only

theorem sbSeek_keeps {t : Target} (hs : Keeps s0 s) : Keeps s0 (sbSeek ini t v s) := by
  unfold sbSeek
  repeat' with_reducible
    first | assumption | apply setSbag_keeps

theorem execSbSeekWrite_keeps (hs : Keeps s0 s) : KeepsOut s0 (execSbSeekWrite a s) := by
  unfold execSbSeekWrite
  repeat' first
    | intro _
    | with_reducible first | assumption | apply keeps_fold | apply keeps_fold_fst | apply keeps_fold_visit
                           | apply writeReg_keeps | apply sbSeek_keeps
    | with_reducible first | apply keeps_done | apply keeps_accepted | apply keepsOut_next
                           | apply keeps_ite | apply keepsOut_ite | apply keeps_ite_eff | apply keeps_ite_fst
    | split | simp only [keeps_mk] | dsimp only

theorem effectSbPost_keeps {x : Ctx} {t : State} (ht : Keeps s0 t) : Keeps s0 (effectSbPost x t).state := by
  unfold effectSbPost
  repeat' first
    | intro _
    | with_reducible first | assumption | apply keeps_fold | apply keeps_fold_fst | apply keeps_fold_visit
                           | apply enqueue_keeps | apply tickPageBy_keeps | apply Effect_done_keeps
    | with_reducible first | apply keeps_done | apply keeps_accepted | apply keepsOut_next | apply keepsOut_getD
                           | apply keeps_ite | apply keepsOut_ite | apply keeps_ite_eff | apply keeps_ite_fst
    | split | simp only [keeps_mk] | dsimp only

theorem execSbPost_keeps (hs : Keeps s0 s) : KeepsOut s0 (execSbPost c s) := by
  unfold execSbPost
  repeat' first
    | intro _
    | with_reducible first | assumption | apply keeps_fold | apply keeps_fold_fst | apply keeps_fold_visit
                           | apply command_keeps | apply effectSbPost_keeps
    | with_reducible first | apply keeps_done | apply keeps_accepted | apply keepsOut_next
                           | apply keeps_ite | apply keepsOut_ite | apply keeps_ite_eff | apply keeps_ite_fst
    | split | simp only [keeps_mk] | dsimp only

theorem effectSbFreeze_keeps (ht : Keeps s0 t) : Keeps s0 (effectSbFreeze x t).state := by
  unfold effectSbFreeze
  repeat' with_reducible
    first | assumption | apply Effect_done_keeps | apply enterFrozen_keeps

theorem execSbFreeze_keeps (hs : Keeps s0 s) : KeepsOut s0 (execSbFreeze c s) := by
  unfold execSbFreeze
  repeat' first
    | intro _
    | with_reducible first | assumption | apply keeps_fold | apply keeps_fold_fst | apply keeps_fold_visit
                           | apply command_keeps | apply effectSbFreeze_keeps
    | with_reducible first | apply keeps_done | apply keeps_accepted | apply keepsOut_next
                           | apply keeps_ite | apply keepsOut_ite | apply keeps_ite_eff | apply keeps_ite_fst
    | split | simp only [keeps_mk] | dsimp only

theorem unfreeze_keeps {s : State} {h grant : Nat} (hs : Keeps s0 s) : Keeps s0 (unfreeze s h grant) := by
  unfold unfreeze
  repeat' first
    | intro _
    | with_reducible first | assumption | apply keeps_fold | apply keeps_fold_fst | apply keeps_fold_visit
                           | apply putSbState_keeps | apply setSbag_keeps | apply wr_keeps | apply ringWrite_keeps
                           | apply tickPageBy_keeps
    | with_reducible first | apply keeps_done | apply keeps_accepted | apply keepsOut_next | apply keepsOut_getD
                           | apply keeps_ite | apply keepsOut_ite | apply keeps_ite_eff | apply keeps_ite_fst
    | split | simp only [keeps_mk] | dsimp only

theorem effectSbUnfreeze_keeps (ht : Keeps s0 t) : Keeps s0 (effectSbUnfreeze x t).state := by
  unfold effectSbUnfreeze
  repeat' with_reducible
    first | assumption | apply Effect_done_keeps | apply unfreeze_keeps

theorem execSbUnfreeze_keeps (hs : Keeps s0 s) : KeepsOut s0 (execSbUnfreeze c s) := by
  unfold execSbUnfreeze
  repeat' first
    | intro _
    | with_reducible first | assumption | apply keeps_fold | apply keeps_fold_fst | apply keeps_fold_visit
                           | apply command_keeps | apply effectSbUnfreeze_keeps
    | with_reducible first | apply keeps_done | apply keeps_accepted | apply keepsOut_next
                           | apply keeps_ite | apply keepsOut_ite | apply keeps_ite_eff | apply keeps_ite_fst
    | split | simp only [keeps_mk] | dsimp only

theorem effectSbArm_keeps (ht : Keeps s0 t) : Keeps s0 (effectSbArm x t).state := by
  unfold effectSbArm
  repeat' with_reducible
    first | assumption | apply Effect_done_keeps | apply putSbState_keeps | apply setSbag_keeps

theorem execSbArm_keeps (hs : Keeps s0 s) : KeepsOut s0 (execSbArm c s) := by
  unfold execSbArm
  repeat' first
    | intro _
    | with_reducible first | assumption | apply keeps_fold | apply keeps_fold_fst | apply keeps_fold_visit
                           | apply command_keeps | apply effectSbArm_keeps
    | with_reducible first | apply keeps_done | apply keeps_accepted | apply keepsOut_next
                           | apply keeps_ite | apply keepsOut_ite | apply keeps_ite_eff | apply keeps_ite_fst
    | split | simp only [keeps_mk] | dsimp only

theorem effectSbDisarm_keeps (ht : Keeps s0 t) : Keeps s0 (effectSbDisarm x t).state := by
  unfold effectSbDisarm
  repeat' with_reducible
    first | assumption | apply Effect_done_keeps | apply putSbState_keeps | apply setSbag_keeps

theorem execSbDisarm_keeps (hs : Keeps s0 s) : KeepsOut s0 (execSbDisarm c s) := by
  unfold execSbDisarm
  repeat' first
    | intro _
    | with_reducible first | assumption | apply keeps_fold | apply keeps_fold_fst | apply keeps_fold_visit
                           | apply command_keeps | apply effectSbDisarm_keeps
    | with_reducible first | apply keeps_done | apply keeps_accepted | apply keepsOut_next
                           | apply keeps_ite | apply keepsOut_ite | apply keeps_ite_eff | apply keeps_ite_fst
    | split | simp only [keeps_mk] | dsimp only

theorem effectSsEnable_keeps (ht : Keeps s0 t) : Keeps s0 (effectSsEnable x t).state := by
  unfold effectSsEnable
  repeat' with_reducible
    first | assumption | apply Effect_done_keeps | apply putSnap_keeps

theorem execSsEnable_keeps (hs : Keeps s0 s) : KeepsOut s0 (execSsEnable c s) := by
  unfold execSsEnable
  repeat' first
    | intro _
    | with_reducible first | assumption | apply keeps_fold | apply keeps_fold_fst | apply keeps_fold_visit
                           | apply command_keeps | apply effectSsEnable_keeps
    | with_reducible first | apply keeps_done | apply keeps_accepted | apply keepsOut_next
                           | apply keeps_ite | apply keepsOut_ite | apply keeps_ite_eff | apply keeps_ite_fst
    | split | simp only [keeps_mk] | dsimp only

theorem effectSsDisable_keeps (ht : Keeps s0 t) : Keeps s0 (effectSsDisable x t).state := by
  unfold effectSsDisable
  repeat' with_reducible
    first | assumption | apply Effect_done_keeps | apply putSnap_keeps

theorem execSsDisable_keeps (hs : Keeps s0 s) : KeepsOut s0 (execSsDisable c s) := by
  unfold execSsDisable
  repeat' first
    | intro _
    | with_reducible first | assumption | apply keeps_fold | apply keeps_fold_fst | apply keeps_fold_visit
                           | apply command_keeps | apply effectSsDisable_keeps
    | with_reducible first | apply keeps_done | apply keeps_accepted | apply keepsOut_next
                           | apply keeps_ite | apply keepsOut_ite | apply keeps_ite_eff | apply keeps_ite_fst
    | split | simp only [keeps_mk] | dsimp only

theorem effectSbTrigger_keeps (ht : Keeps s0 t) : Keeps s0 (effectSbTrigger x t).state := by
  unfold effectSbTrigger
  repeat' first
    | with_reducible first | assumption | apply Effect_done_keeps | apply freezeFire_keeps | apply snapFire_keeps
    | split | dsimp only

theorem execSbTrigger_keeps (hs : Keeps s0 s) : KeepsOut s0 (execSbTrigger c s) := by
  unfold execSbTrigger
  repeat' first
    | intro _
    | with_reducible first | assumption | apply keeps_fold | apply keeps_fold_fst | apply keeps_fold_visit
                           | apply command_keeps | apply effectSbTrigger_keeps
    | with_reducible first | apply keeps_done | apply keeps_accepted | apply keepsOut_next
                           | apply keeps_ite | apply keepsOut_ite | apply keeps_ite_eff | apply keeps_ite_fst
    | split | simp only [keeps_mk] | dsimp only

theorem effectSbClearCounters_keeps (ht : Keeps s0 t) : Keeps s0 (effectSbClearCounters x t).state := by
  unfold effectSbClearCounters
  repeat' with_reducible
    first | assumption | apply Effect_done_keeps | apply clearInsts_keeps | apply clearRegs_keeps

theorem execSbClearCounters_keeps (hs : Keeps s0 s) : KeepsOut s0 (execSbClearCounters c s) := by
  unfold execSbClearCounters
  repeat' first
    | intro _
    | with_reducible first | assumption | apply keeps_fold | apply keeps_fold_fst | apply keeps_fold_visit
                           | apply command_keeps | apply effectSbClearCounters_keeps
    | with_reducible first | apply keeps_done | apply keeps_accepted | apply keepsOut_next
                           | apply keeps_ite | apply keepsOut_ite | apply keeps_ite_eff | apply keeps_ite_fst
    | split | simp only [keeps_mk] | dsimp only

end Sys2Proof.Machine
end

