-- ==== Sys2Proof/Laws/KeepsTripIo.lean ====
section
/-!
SUPPORT. Sys2Proof/Laws/KeepsTripIo.lean: every operation of TripIo.lean keeps the queue, the variant and the canonical form of
memory.
-/
namespace Sys2Proof.Machine

variable {s0 s : State} {die hub kind idx cts n v line : Nat} {on bad level : Bool} {l : TripLine} {c : Coaster} {w :
  Who} {a : Access} {t : Target} {x : Ctx}

theorem putLevel_keeps {l : LevelSt} (hs : Keeps s0 s) : Keeps s0 (putLevel s die l) := by
  unfold putLevel
  repeat' first
    | with_reducible first | assumption
    | split | simp only [keeps_mk] | dsimp only

theorem pushEdge_keeps (hs : Keeps s0 s) : Keeps s0 (pushEdge s hub kind idx on cts) := by
  unfold pushEdge
  repeat' first
    | with_reducible first | assumption
    | split | simp only [keeps_mk] | dsimp only

theorem setCo_keeps (hs : Keeps s0 s) : Keeps s0 (setCo s hub c) := by
  unfold setCo
  repeat' first
    | with_reducible first | assumption
    | split | simp only [keeps_mk] | dsimp only

theorem putLine_keeps (hs : Keeps s0 s) : Keeps s0 (putLine s hub n l) := by
  unfold putLine
  repeat' first
    | with_reducible first | assumption
    | split | simp only [keeps_mk] | dsimp only

theorem refreshLine_keeps (hs : Keeps s0 s) : Keeps s0 (refreshLine hub s n) := by
  unfold refreshLine
  repeat' first
    | with_reducible first | assumption | apply putLine_keeps | apply drew_keeps | apply fireTrigger_keeps
                           | apply incr_keeps | apply hwEvent_keeps | apply pushEdge_keeps | apply wr_keeps
    | split | dsimp only

theorem showLines_keeps (hs : Keeps s0 s) : Keeps s0 (showLines s hub) := by
  unfold showLines
  repeat' first
    | intro _
    | with_reducible first | assumption | apply keeps_fold | apply keeps_fold_fst | apply keeps_fold_visit
                           | apply wr_keeps
    | with_reducible first | apply keeps_done | apply keeps_accepted | apply keepsOut_next
                           | apply keeps_ite | apply keepsOut_ite | apply keeps_ite_eff | apply keeps_ite_fst
    | split | simp only [keeps_mk] | dsimp only

theorem refreshLines_keeps (hs : Keeps s0 s) : Keeps s0 (refreshLines s hub) := by
  unfold refreshLines
  repeat' first
    | intro _
    | with_reducible first | assumption | apply keeps_fold | apply keeps_fold_fst | apply keeps_fold_visit
                           | apply showLines_keeps | apply refreshLine_keeps
    | with_reducible first | apply keeps_done | apply keeps_accepted | apply keepsOut_next
                           | apply keeps_ite | apply keepsOut_ite | apply keeps_ite_eff | apply keeps_ite_fst
    | split | simp only [keeps_mk] | dsimp only

theorem refreshAll_keeps (hs : Keeps s0 s) : Keeps s0 (refreshAll s) := by
  unfold refreshAll
  repeat' first
    | intro _
    | with_reducible first | assumption | apply keeps_fold | apply keeps_fold_fst | apply keeps_fold_visit
                           | apply refreshLines_keeps
    | with_reducible first | apply keeps_done | apply keeps_accepted | apply keepsOut_next
                           | apply keeps_ite | apply keepsOut_ite | apply keeps_ite_eff | apply keeps_ite_fst
    | split | simp only [keeps_mk] | dsimp only

theorem tioDemand_keeps (hs : Keeps s0 s) : Keeps s0 (tioDemand hub w on v s) := by
  unfold tioDemand
  repeat' first
    | intro _
    | with_reducible first | assumption | apply keeps_fold | apply keeps_fold_fst | apply keeps_fold_visit
                           | apply putLine_keeps | apply hwEvent_keeps | apply incr_keeps | apply refreshLines_keeps
    | with_reducible first | apply keeps_done | apply keeps_accepted | apply keepsOut_next
                           | apply keeps_ite | apply keepsOut_ite | apply keeps_ite_eff | apply keeps_ite_fst
    | split | simp only [keeps_mk] | dsimp only

theorem execTioSwSet_keeps (hs : Keeps s0 s) : KeepsOut s0 (execTioSwSet a s) := by
  unfold execTioSwSet
  repeat' first
    | intro _
    | with_reducible first | assumption | apply keeps_fold | apply keeps_fold_fst | apply keeps_fold_visit
                           | apply writeReg_keeps | apply tioDemand_keeps
    | with_reducible first | apply keeps_done | apply keeps_accepted | apply keepsOut_next
                           | apply keeps_ite | apply keepsOut_ite | apply keeps_ite_eff | apply keeps_ite_fst
    | split | simp only [keeps_mk] | dsimp only

theorem execTioSwClr_keeps (hs : Keeps s0 s) : KeepsOut s0 (execTioSwClr a s) := by
  unfold execTioSwClr
  repeat' first
    | intro _
    | with_reducible first | assumption | apply keeps_fold | apply keeps_fold_fst | apply keeps_fold_visit
                           | apply writeReg_keeps | apply tioDemand_keeps
    | with_reducible first | apply keeps_done | apply keeps_accepted | apply keepsOut_next
                           | apply keeps_ite | apply keepsOut_ite | apply keeps_ite_eff | apply keeps_ite_fst
    | split | simp only [keeps_mk] | dsimp only

theorem tlCfgWrite_keeps (hs : Keeps s0 s) : Keeps s0 (tlCfgWrite t v s) := by
  unfold tlCfgWrite
  repeat' with_reducible
    first | assumption | apply refreshLines_keeps | apply writeT_keeps | apply putLine_keeps

theorem effectTripIoClearCounters_keeps {t : State} (ht : Keeps s0 t) : Keeps s0 (effectTripIoClearCounters x t).state
    := by
  unfold effectTripIoClearCounters
  repeat' first
    | with_reducible first | assumption | apply Effect_done_keeps | apply clearRegs_keeps | apply clearInsts_keeps
    | split | dsimp only

theorem execTripIoClearCounters_keeps {c : Cmd} (hs : Keeps s0 s) : KeepsOut s0 (execTripIoClearCounters c s) := by
  unfold execTripIoClearCounters
  repeat' with_reducible
    first | assumption | apply keepsOut_next | apply command_keeps | apply effectTripIoClearCounters_keeps

theorem flagSet_keeps (hs : Keeps s0 s) : Keeps s0 (flagSet s hub n l) := by
  unfold flagSet
  repeat' with_reducible
    first | assumption | apply showLines_keeps | apply putLine_keeps | apply eventRec_keeps | apply tickPage_keeps

theorem flagClear_keeps (hs : Keeps s0 s) : Keeps s0 (flagClear s hub n l) := by
  unfold flagClear
  repeat' with_reducible
    first | assumption | apply showLines_keeps | apply putLine_keeps

theorem execTcsDelayExpiry_keeps (hs : Keeps s0 s) : KeepsOut s0 (execTcsDelayExpiry hub line s) := by
  unfold execTcsDelayExpiry
  repeat' first
    | with_reducible first | assumption | apply keepsOut_next | apply flagClear_keeps | apply flagSet_keeps
    | split | dsimp only

theorem execSenseWinExpiry_keeps (hs : Keeps s0 s) : KeepsOut s0 (execSenseWinExpiry hub line s) := by
  unfold execSenseWinExpiry
  repeat' first
    | with_reducible first | assumption | apply keepsOut_next | apply flagSet_keeps
    | split | dsimp only

theorem execDriveFaultExpiry_keeps (hs : Keeps s0 s) : KeepsOut s0 (execDriveFaultExpiry hub line bad s) := by
  unfold execDriveFaultExpiry
  repeat' first
    | with_reducible first | assumption | apply keepsOut_next | apply flagSet_keeps | apply flagClear_keeps
    | split | dsimp only

theorem execTripSenseChange_keeps (hs : Keeps s0 s) : KeepsOut s0 (execTripSenseChange hub line level s) := by
  unfold execTripSenseChange
  repeat' first
    | with_reducible first | assumption | apply keepsOut_next | apply putLine_keeps | apply showLines_keeps
                           | apply pushEdge_keeps
    | split | dsimp only

end Sys2Proof.Machine
end

