-- ==== Sys2Proof/Laws/KeepsLinks.lean ====
section
/-!
SUPPORT. Sys2Proof/Laws/KeepsLinks.lean: every operation of Links.lean keeps the queue, the variant and the canonical form of
memory.
-/
namespace Sys2Proof.Machine

variable {s0 s t : State} {st fails n die inst unackedHere unackedThere idx mon : Nat} {axle up on : Bool} {e :
  LinkEnd} {l : LinkSt} {f : Nat → Nat} {x : Ctx} {c : Cmd} {values : List Nat}

theorem setLink_keeps {e : LinkEnd × LinkEnd} (hs : Keeps s0 s) : Keeps s0 (setLink s e l) := by
  unfold setLink
  repeat' first
    | with_reducible first | assumption
    | split | simp only [keeps_mk] | dsimp only

theorem lkState_keeps (hs : Keeps s0 s) : Keeps s0 (lkState s e f) := by
  unfold lkState
  repeat' with_reducible
    first | assumption | apply wr_keeps

theorem putLinkState_keeps {s : State} {e : LinkEnd} {st : Nat} (hs : Keeps s0 s) : Keeps s0 (putLinkState s e st)
    := by
  unfold putLinkState
  repeat' first
    | intro _
    | with_reducible first | assumption | apply keeps_fold | apply keeps_fold_fst | apply keeps_fold_visit
                           | apply lkState_keeps
    | with_reducible first | apply keeps_done | apply keeps_accepted | apply keepsOut_next | apply keepsOut_getD
                           | apply keeps_ite | apply keepsOut_ite | apply keeps_ite_eff | apply keeps_ite_fst
    | split | simp only [keeps_mk] | dsimp only

theorem tickLink_keeps {s : State} {e : LinkEnd} (hs : Keeps s0 s) : Keeps s0 (tickLink s e) := by
  unfold tickLink
  repeat' first
    | intro _
    | with_reducible first | assumption | apply keeps_fold | apply keeps_fold_fst | apply keeps_fold_visit
                           | apply tickSrc_keeps | apply tickPage_keeps
    | with_reducible first | apply keeps_done | apply keeps_accepted | apply keepsOut_next | apply keepsOut_getD
                           | apply keeps_ite | apply keepsOut_ite | apply keeps_ite_eff | apply keeps_ite_fst
    | split | simp only [keeps_mk] | dsimp only

theorem linkEvent_keeps (hs : Keeps s0 s) : Keeps s0 (linkEvent s e n) := by
  unfold linkEvent
  repeat' with_reducible
    first | assumption | apply hwEvent_keeps | apply wr_keeps

theorem atEnds_keeps {e : LinkEnd × LinkEnd} {f : LinkEnd → State → State} (hf : ∀ u0 u1, Keeps s0 u1 → Keeps s0 (f u0
    u1)) (hs : Keeps s0 s) : Keeps s0 (atEnds e f s) := by
  unfold atEnds
  repeat' first
    | with_reducible first | assumption | apply hf
    | split | dsimp only

theorem beginRetrain_keeps {e : LinkEnd} {s : State} (hs : Keeps s0 s) : Keeps s0 (beginRetrain e s) := by
  unfold beginRetrain
  repeat' first
    | intro _
    | with_reducible first | assumption | apply keeps_fold | apply keeps_fold_fst | apply keeps_fold_visit
                           | apply incr_keeps | apply putLinkState_keeps | apply cyc_keeps | apply linkEvent_keeps
    | with_reducible first | apply keeps_done | apply keeps_accepted | apply keepsOut_next | apply keepsOut_getD
                           | apply keeps_ite | apply keepsOut_ite | apply keeps_ite_eff | apply keeps_ite_fst
    | split | simp only [keeps_mk] | dsimp only

theorem enterUp_keeps {e : LinkEnd} {s : State} (hs : Keeps s0 s) : Keeps s0 (enterUp e s) := by
  unfold enterUp
  repeat' first
    | intro _
    | with_reducible first | assumption | apply keeps_fold | apply keeps_fold_fst | apply keeps_fold_visit
                           | apply linkEvent_keeps | apply wr_keeps | apply tickLink_keeps
                           | apply putLinkState_keeps
    | with_reducible first | apply keeps_done | apply keeps_accepted | apply keepsOut_next | apply keepsOut_getD
                           | apply keeps_ite | apply keepsOut_ite | apply keeps_ite_eff | apply keeps_ite_fst
    | split | simp only [keeps_mk] | dsimp only

theorem numberFlits_keeps {n : Nat} {e : LinkEnd} {s : State} (hs : Keeps s0 s) : Keeps s0 (numberFlits n e s) := by
  unfold numberFlits
  repeat' first
    | intro _
    | with_reducible first | assumption | apply keeps_fold | apply keeps_fold_fst | apply keeps_fold_visit
                           | apply setLink_keeps
    | with_reducible first | apply keeps_done | apply keeps_accepted | apply keepsOut_next | apply keepsOut_getD
                           | apply keeps_ite | apply keepsOut_ite | apply keeps_ite_eff | apply keeps_ite_fst
    | split | simp only [keeps_mk] | dsimp only

theorem resend_keeps {n : Nat} {e : LinkEnd} {s : State} (hs : Keeps s0 s) : Keeps s0 (resend n e s) := by
  unfold resend
  repeat' first
    | intro _
    | with_reducible first | assumption | apply keeps_fold | apply keeps_fold_fst | apply keeps_fold_visit
                           | apply numberFlits_keeps | apply incr_keeps | apply cyc_keeps
    | with_reducible first | apply keeps_done | apply keeps_accepted | apply keepsOut_next | apply keepsOut_getD
                           | apply keeps_ite | apply keepsOut_ite | apply keeps_ite_eff | apply keeps_ite_fst
    | split | simp only [keeps_mk] | dsimp only

theorem receiveFlits_keeps (hs : Keeps s0 s) : Keeps s0 (receiveFlits n e s) := by
  unfold receiveFlits
  repeat' with_reducible
    first | assumption | apply incr_keeps

theorem moveFlits_keeps {n : Nat} {from_ to_ : LinkEnd} {s : State} (hs : Keeps s0 s) : Keeps s0 (moveFlits n from_
    to_ s) := by
  unfold moveFlits
  repeat' first
    | intro _
    | with_reducible first | assumption | apply keeps_fold | apply keeps_fold_fst | apply keeps_fold_visit
                           | apply numberFlits_keeps | apply incr_keeps | apply receiveFlits_keeps | apply cyc_keeps
    | with_reducible first | apply keeps_done | apply keeps_accepted | apply keepsOut_next | apply keepsOut_getD
                           | apply keeps_ite | apply keepsOut_ite | apply keeps_ite_eff | apply keeps_ite_fst
    | split | simp only [keeps_mk] | dsimp only

theorem linkTraffic_keeps {s : State} {e : LinkEnd × LinkEnd} (hs : Keeps s0 s) : Keeps s0 (linkTraffic s e) := by
  unfold linkTraffic
  repeat' first
    | intro _
    | with_reducible first | assumption | apply keeps_fold | apply keeps_fold_fst | apply keeps_fold_visit
                           | apply moveFlits_keeps | apply drew_keeps
    | with_reducible first | apply keeps_done | apply keeps_accepted | apply keepsOut_next | apply keepsOut_getD
                           | apply keeps_ite | apply keepsOut_ite | apply keeps_ite_eff | apply keeps_ite_fst
    | split | simp only [keeps_mk] | dsimp only

theorem declareDown_keeps {e : LinkEnd} {s : State} (hs : Keeps s0 s) : Keeps s0 (declareDown e s) := by
  unfold declareDown
  repeat' first
    | intro _
    | with_reducible first | assumption | apply keeps_fold | apply keeps_fold_fst | apply keeps_fold_visit
                           | apply tickLink_keeps | apply lkState_keeps | apply putLinkState_keeps
                           | apply incr_keeps | apply linkEvent_keeps | apply wr_keeps | apply record_keeps
    | with_reducible first | apply keeps_done | apply keeps_accepted | apply keepsOut_next | apply keepsOut_getD
                           | apply keeps_ite | apply keepsOut_ite | apply keeps_ite_eff | apply keeps_ite_fst
    | split | simp only [keeps_mk] | dsimp only

theorem optCompare_keeps (hs : Keeps s0 s) : Keeps s0 (optCompare s) := by
  unfold optCompare
  repeat' first
    | intro _
    | with_reducible first | assumption | apply keeps_fold | apply keeps_fold_fst | apply keeps_fold_visit
                           | apply wr_keeps | apply hwEvent_keeps
    | with_reducible first | apply keeps_done | apply keeps_accepted | apply keepsOut_next
                           | apply keeps_ite | apply keepsOut_ite | apply keeps_ite_eff | apply keeps_ite_fst
    | split | simp only [keeps_mk] | dsimp only

theorem linesJudge_keeps {s : State} (hs : Keeps s0 s) : Keeps s0 (linesJudge s) := by
  unfold linesJudge
  repeat' first
    | intro _
    | with_reducible first | assumption | apply keeps_fold | apply keeps_fold_fst | apply keeps_fold_visit
                           | apply optCompare_keeps | apply refreshAll_keeps | apply laneJudge_keeps
                           | apply rejoinHubs_keeps
    | with_reducible first | apply keeps_done | apply keeps_accepted | apply keepsOut_next | apply keepsOut_getD
                           | apply keeps_ite | apply keepsOut_ite | apply keeps_ite_eff | apply keeps_ite_fst
    | split | simp only [keeps_mk] | dsimp only

theorem execFlitHandshakeFail_keeps (hs : Keeps s0 s) : KeepsOut s0 (execFlitHandshakeFail die inst axle unackedHere
    unackedThere s) := by
  unfold execFlitHandshakeFail
  repeat' first
    | intro _
    | with_reducible first | assumption | apply keeps_fold | apply keeps_fold_fst | apply keeps_fold_visit
                           | apply atEnds_keeps | apply beginRetrain_keeps | apply setLink_keeps
    | with_reducible first | apply keeps_done | apply keeps_accepted | apply keepsOut_next
                           | apply keeps_ite | apply keepsOut_ite | apply keeps_ite_eff | apply keeps_ite_fst
    | split | simp only [keeps_mk] | dsimp only

theorem execLinkRetrainDone_keeps {die inst : Nat} {axle : Bool} {up : Bool} {s : State} (hs : Keeps s0 s) :
    KeepsOut s0 (execLinkRetrainDone die inst axle up s) := by
  unfold execLinkRetrainDone
  repeat' first
    | intro _
    | with_reducible first | assumption | apply keeps_fold | apply keeps_fold_fst | apply keeps_fold_visit
                           | apply atEnds_keeps | apply enterUp_keeps | apply setLink_keeps
                           | apply receiveFlits_keeps | apply resend_keeps | apply linesJudge_keeps
                           | apply declareDown_keeps | apply beginRetrain_keeps
    | with_reducible first | apply keeps_done | apply keeps_accepted | apply keepsOut_next | apply keepsOut_getD
                           | apply keeps_ite | apply keepsOut_ite | apply keeps_ite_eff | apply keeps_ite_fst
    | split | simp only [keeps_mk] | dsimp only

theorem execLinkInitialTrain_keeps (hs : Keeps s0 s) : KeepsOut s0 (execLinkInitialTrain die inst axle s) := by
  unfold execLinkInitialTrain
  repeat' first
    | intro _
    | with_reducible first | assumption | apply keeps_fold | apply keeps_fold_fst | apply keeps_fold_visit
                           | apply linesJudge_keeps | apply atEnds_keeps | apply enterUp_keeps | apply setLink_keeps
    | with_reducible first | apply keeps_done | apply keeps_accepted | apply keepsOut_next
                           | apply keeps_ite | apply keepsOut_ite | apply keeps_ite_eff | apply keeps_ite_fst
    | split | simp only [keeps_mk] | dsimp only

theorem putRestore_keeps (hs : Keeps s0 s) : Keeps s0 (putRestore on e s) := by
  unfold putRestore
  repeat' with_reducible
    first | assumption | apply lkState_keeps

theorem effectLinkRestore_keeps (ht : Keeps s0 t) : Keeps s0 (effectLinkRestore axle x t).state := by
  unfold effectLinkRestore
  repeat' first
    | intro _
    | with_reducible first | assumption | apply keeps_fold | apply keeps_fold_fst | apply keeps_fold_visit
                           | apply Effect_accepted_keeps | apply atEnds_keeps | apply putRestore_keeps
                           | apply beginRetrain_keeps | apply setLink_keeps
    | with_reducible first | apply keeps_done | apply keeps_accepted | apply keepsOut_next
                           | apply keeps_ite | apply keepsOut_ite | apply keeps_ite_eff | apply keeps_ite_fst
    | split | simp only [keeps_mk] | dsimp only

theorem execLinkRestore_keeps (hs : Keeps s0 s) : KeepsOut s0 (execLinkRestore axle c s) := by
  unfold execLinkRestore
  repeat' first
    | intro _
    | with_reducible first | assumption | apply keeps_fold | apply keeps_fold_fst | apply keeps_fold_visit
                           | apply command_keeps | apply effectLinkRestore_keeps
    | with_reducible first | apply keeps_done | apply keeps_accepted | apply keepsOut_next
                           | apply keeps_ite | apply keepsOut_ite | apply keeps_ite_eff | apply keeps_ite_fst
    | split | simp only [keeps_mk] | dsimp only

theorem execLinkRestoreDone_keeps (hs : Keeps s0 s) : KeepsOut s0 (execLinkRestoreDone die inst axle up s) := by
  unfold execLinkRestoreDone
  repeat' first
    | intro _
    | with_reducible first | assumption | apply keeps_fold | apply keeps_fold_fst | apply keeps_fold_visit
                           | apply atEnds_keeps | apply putRestore_keeps | apply linesJudge_keeps
                           | apply enterUp_keeps | apply setLink_keeps | apply linkEvent_keeps
                           | apply putLinkState_keeps | apply finish_keeps
    | with_reducible first | apply keeps_done | apply keeps_accepted | apply keepsOut_next
                           | apply keeps_ite | apply keepsOut_ite | apply keeps_ite_eff | apply keeps_ite_fst
    | split | simp only [keeps_mk] | dsimp only

theorem clearLink_keeps {axle : Bool} {die inst : Nat} {s : State} (hs : Keeps s0 s) : Keeps s0 (clearLink axle die
    inst s) := by
  unfold clearLink
  repeat' first
    | intro _
    | with_reducible first | assumption | apply keeps_fold | apply keeps_fold_fst | apply keeps_fold_visit
                           | apply atEnds_keeps | apply clearRegs_keeps
    | with_reducible first | apply keeps_done | apply keeps_accepted | apply keepsOut_next | apply keepsOut_getD
                           | apply keeps_ite | apply keepsOut_ite | apply keeps_ite_eff | apply keeps_ite_fst
    | split | simp only [keeps_mk] | dsimp only

theorem effectLinkClearCounters_keeps {axle : Bool} {x : Ctx} {t : State} (ht : Keeps s0 t) : Keeps s0
    (effectLinkClearCounters axle x t).state := by
  unfold effectLinkClearCounters
  repeat' first
    | intro _
    | with_reducible first | assumption | apply keeps_fold | apply keeps_fold_fst | apply keeps_fold_visit
                           | apply clearLink_keeps | apply Effect_done_keeps
    | with_reducible first | apply keeps_done | apply keeps_accepted | apply keepsOut_next | apply keepsOut_getD
                           | apply keeps_ite | apply keepsOut_ite | apply keeps_ite_eff | apply keeps_ite_fst
    | split | simp only [keeps_mk] | dsimp only

theorem execLinkClearCounters_keeps (hs : Keeps s0 s) : KeepsOut s0 (execLinkClearCounters axle c s) := by
  unfold execLinkClearCounters
  repeat' first
    | intro _
    | with_reducible first | assumption | apply keeps_fold | apply keeps_fold_fst | apply keeps_fold_visit
                           | apply command_keeps | apply effectLinkClearCounters_keeps
    | with_reducible first | apply keeps_done | apply keeps_accepted | apply keepsOut_next
                           | apply keeps_ite | apply keepsOut_ite | apply keeps_ite_eff | apply keeps_ite_fst
    | split | simp only [keeps_mk] | dsimp only

theorem linksReleased_keeps (hs : Keeps s0 s) : Keeps s0 (linksReleased s die) := by
  unfold linksReleased
  repeat' first
    | intro _
    | with_reducible first | assumption | apply keeps_fold | apply keeps_fold_fst | apply keeps_fold_visit
                           | apply setLink_keeps | apply putLinkState_keeps
    | with_reducible first | apply keeps_done | apply keeps_accepted | apply keepsOut_next
                           | apply keeps_ite | apply keepsOut_ite | apply keeps_ite_eff | apply keeps_ite_fst
    | split | simp only [keeps_mk] | dsimp only

theorem setCad_keeps {c : CadSt} (hs : Keeps s0 s) : Keeps s0 (setCad s die c) := by
  unfold setCad
  repeat' first
    | with_reducible first | assumption
    | split | simp only [keeps_mk] | dsimp only

theorem cadEvent_keeps (hs : Keeps s0 s) : Keeps s0 (cadEvent s die n idx mon) := by
  unfold cadEvent
  repeat' with_reducible
    first | assumption | apply eventRec_keeps | apply tickPage_keeps

theorem execCadenceMeasurement_keeps (hs : Keeps s0 s) : KeepsOut s0 (execCadenceMeasurement die values s) := by
  unfold execCadenceMeasurement
  repeat' first
    | intro _
    | with_reducible first | assumption | apply keeps_fold | apply keeps_fold_fst | apply keeps_fold_visit
                           | apply incrSat_keeps | apply wr_keeps | apply setCad_keeps | apply cadEvent_keeps
    | with_reducible first | apply keeps_done | apply keeps_accepted | apply keepsOut_next
                           | apply keeps_ite | apply keepsOut_ite | apply keeps_ite_eff | apply keeps_ite_fst
    | split | simp only [keeps_mk] | dsimp only

theorem execOutOfGuarantee_keeps (hs : Keeps s0 s) : KeepsOut s0 (execOutOfGuarantee die s) := by
  unfold execOutOfGuarantee
  repeat' first
    | with_reducible first | assumption | apply keepsOut_next | apply setCad_keeps
    | split | dsimp only

end Sys2Proof.Machine
end

