-- ==== Sys2Proof/Laws/KeepsMech.lean ====
section
/-!
SUPPORT. Sys2Proof/Laws/KeepsMech.lean: every operation of Mech.lean keeps the queue, the variant and the canonical form of
memory.
-/
namespace Sys2Proof.Machine

variable {s0 s : State} {hub die n st a : Nat} {f : BootFlash} {m : Mech} {r : Rail} {u : UpdSt} {l : Lease} {lead :
  Option Nat}

theorem setFlash_keeps (hs : Keeps s0 s) : Keeps s0 (setFlash s hub f) := by
  unfold setFlash
  repeat' first
    | with_reducible first | assumption
    | split | simp only [keeps_mk] | dsimp only

theorem setMech_keeps (hs : Keeps s0 s) : Keeps s0 (setMech s die m) := by
  unfold setMech
  repeat' first
    | with_reducible first | assumption
    | split | simp only [keeps_mk] | dsimp only

theorem setRail_keeps (hs : Keeps s0 s) : Keeps s0 (setRail s hub n r) := by
  unfold setRail
  repeat' first
    | with_reducible first | assumption
    | split | simp only [keeps_mk] | dsimp only

theorem setUpd_keeps (hs : Keeps s0 s) : Keeps s0 (setUpd s hub u) := by
  unfold setUpd
  repeat' first
    | with_reducible first | assumption
    | split | simp only [keeps_mk] | dsimp only

theorem putUpdState_keeps (hs : Keeps s0 s) : Keeps s0 (putUpdState s hub st) := by
  unfold putUpdState
  repeat' with_reducible
    first | assumption | apply wr_keeps

theorem updTouched_keeps (hs : Keeps s0 s) : Keeps s0 (updTouched s hub a n) := by
  unfold updTouched
  repeat' first
    | with_reducible first | assumption | apply putUpdState_keeps
    | split | dsimp only

theorem setLease_keeps (hs : Keeps s0 s) : Keeps s0 (setLease s hub l) := by
  unfold setLease
  repeat' first
    | with_reducible first | assumption
    | split | simp only [keeps_mk] | dsimp only

theorem showLease_keeps (hs : Keeps s0 s) : Keeps s0 (showLease hub s die) := by
  unfold showLease
  repeat' first
    | with_reducible first | assumption | apply wrAll_keeps
    | split | dsimp only

theorem sendLease_keeps (hs : Keeps s0 s) : Keeps s0 (sendLease s hub) := by
  unfold sendLease
  repeat' first
    | intro _
    | with_reducible first | assumption | apply keeps_fold | apply keeps_fold_fst | apply keeps_fold_visit
                           | apply setLease_keeps | apply showLease_keeps
    | with_reducible first | apply keeps_done | apply keeps_accepted | apply keepsOut_next
                           | apply keeps_ite | apply keepsOut_ite | apply keeps_ite_eff | apply keeps_ite_fst
    | split | simp only [keeps_mk] | dsimp only

theorem refreshLease_keeps (hs : Keeps s0 s) : Keeps s0 (refreshLease s) := by
  unfold refreshLease
  repeat' first
    | intro _
    | with_reducible first | assumption | apply keeps_fold | apply keeps_fold_fst | apply keeps_fold_visit
                           | apply sendLease_keeps
    | with_reducible first | apply keeps_done | apply keeps_accepted | apply keepsOut_next
                           | apply keeps_ite | apply keepsOut_ite | apply keeps_ite_eff | apply keeps_ite_fst
    | split | simp only [keeps_mk] | dsimp only

theorem grantLease_keeps (hs : Keeps s0 s) : Keeps s0 (grantLease s hub lead) := by
  unfold grantLease
  repeat' first
    | intro _
    | with_reducible first | assumption | apply keeps_fold | apply keeps_fold_fst | apply keeps_fold_visit
                           | apply sendLease_keeps | apply setLease_keeps | apply hwEvent_keeps | apply eventRec_keeps
                           | apply tickSrc_keeps | apply pushLog_keeps | apply fireTrigger_keeps
    | with_reducible first | apply keeps_done | apply keeps_accepted | apply keepsOut_next
                           | apply keeps_ite | apply keepsOut_ite | apply keeps_ite_eff | apply keeps_ite_fst
    | split | simp only [keeps_mk] | dsimp only

end Sys2Proof.Machine
end

