-- ==== Sys2Proof/Laws/KeepsCyclometer.lean ====
section
/-!
SUPPORT. Sys2Proof/Laws/KeepsCyclometer.lean: every operation of Cyclometer.lean keeps the queue, the variant and the canonical form of
memory.
-/
namespace Sys2Proof.Machine

variable {s0 s t : State} {h loc n v hub : Nat} {c : Cmd} {on : Bool} {b : Block} {a : Access} {x : Ctx}

theorem setCy_keeps {c : CySt} (hs : Keeps s0 s) : Keeps s0 (setCy s h c) := by
  unfold setCy
  repeat' first
    | with_reducible first | assumption
    | split | simp only [keeps_mk] | dsimp only

theorem putCyRun_keeps (hs : Keeps s0 s) : Keeps s0 (putCyRun s h on) := by
  unfold putCyRun
  repeat' first
    | with_reducible first | assumption | apply wr_keeps | apply setCy_keeps | apply hwEvent_keeps
    | split | dsimp only

theorem putSelect_keeps (hs : Keeps s0 s) : Keeps s0 (putSelect s loc b n v) := by
  unfold putSelect
  repeat' first
    | with_reducible first | assumption
    | split | simp only [keeps_mk] | dsimp only

theorem areaWrite_keeps (hs : Keeps s0 s) : Keeps s0 (areaWrite a s) := by
  unfold areaWrite
  repeat' first
    | with_reducible first | assumption | apply putSelect_keeps
    | split | dsimp only

theorem execCounterSelectWrite_keeps (hs : Keeps s0 s) : KeepsOut s0 (execCounterSelectWrite a s) := by
  unfold execCounterSelectWrite
  repeat' first
    | intro _
    | with_reducible first | assumption | apply keeps_fold | apply keeps_fold_fst | apply keeps_fold_visit
                           | apply writeGate_keeps | apply areaWrite_keeps
    | with_reducible first | apply keeps_done | apply keeps_accepted | apply keepsOut_next
                           | apply keeps_ite | apply keepsOut_ite | apply keeps_ite_eff | apply keeps_ite_fst
    | split | simp only [keeps_mk] | dsimp only

theorem makeSweep_keeps (hs : Keeps s0 s) : Keeps s0 (makeSweep s h) := by
  unfold makeSweep
  repeat' with_reducible
    first | assumption | apply writeBytes_keeps | apply tickSrc_keeps | apply incr_keeps | apply wr_keeps
          | apply setCy_keeps

theorem skipSweep_keeps (hs : Keeps s0 s) : Keeps s0 (skipSweep s h) := by
  unfold skipSweep
  repeat' with_reducible
    first | assumption | apply hwEvent_keeps | apply incr_keeps | apply setCy_keeps

theorem execCyclometerSweep_keeps (hs : Keeps s0 s) : KeepsOut s0 (execCyclometerSweep hub s) := by
  unfold execCyclometerSweep
  repeat' first
    | with_reducible first | assumption | apply keepsOut_next | apply makeSweep_keeps | apply skipSweep_keeps
    | split | dsimp only

theorem effectCyRun_keeps (ht : Keeps s0 t) : Keeps s0 (effectCyRun x t).state := by
  unfold effectCyRun
  repeat' with_reducible
    first | assumption | apply Effect_done_keeps | apply putCyRun_keeps | apply writeLE_keeps | apply setCy_keeps

theorem execCyRun_keeps (hs : Keeps s0 s) : KeepsOut s0 (execCyRun c s) := by
  unfold execCyRun
  repeat' first
    | intro _
    | with_reducible first | assumption | apply keeps_fold | apply keeps_fold_fst | apply keeps_fold_visit
                           | apply command_keeps | apply effectCyRun_keeps
    | with_reducible first | apply keeps_done | apply keeps_accepted | apply keepsOut_next
                           | apply keeps_ite | apply keepsOut_ite | apply keeps_ite_eff | apply keeps_ite_fst
    | split | simp only [keeps_mk] | dsimp only

theorem effectCyStop_keeps (ht : Keeps s0 t) : Keeps s0 (effectCyStop x t).state := by
  unfold effectCyStop
  repeat' with_reducible
    first | assumption | apply Effect_done_keeps | apply putCyRun_keeps

theorem execCyStop_keeps (hs : Keeps s0 s) : KeepsOut s0 (execCyStop c s) := by
  unfold execCyStop
  repeat' first
    | intro _
    | with_reducible first | assumption | apply keeps_fold | apply keeps_fold_fst | apply keeps_fold_visit
                           | apply command_keeps | apply effectCyStop_keeps
    | with_reducible first | apply keeps_done | apply keeps_accepted | apply keepsOut_next
                           | apply keeps_ite | apply keepsOut_ite | apply keeps_ite_eff | apply keeps_ite_fst
    | split | simp only [keeps_mk] | dsimp only

theorem effectCyClearCounters_keeps (ht : Keeps s0 t) : Keeps s0 (effectCyClearCounters x t).state := by
  unfold effectCyClearCounters
  repeat' with_reducible
    first | assumption | apply Effect_done_keeps | apply clearRegs_keeps

theorem execCyClearCounters_keeps (hs : Keeps s0 s) : KeepsOut s0 (execCyClearCounters c s) := by
  unfold execCyClearCounters
  repeat' first
    | intro _
    | with_reducible first | assumption | apply keeps_fold | apply keeps_fold_fst | apply keeps_fold_visit
                           | apply command_keeps | apply effectCyClearCounters_keeps
    | with_reducible first | apply keeps_done | apply keeps_accepted | apply keepsOut_next
                           | apply keeps_ite | apply keepsOut_ite | apply keeps_ite_eff | apply keeps_ite_fst
    | split | simp only [keeps_mk] | dsimp only

theorem execCvSlotRead_keeps (hs : Keeps s0 s) : KeepsOut s0 (execCvSlotRead a s) := by
  unfold execCvSlotRead
  repeat' first
    | intro _
    | with_reducible first | assumption | apply keeps_fold | apply keeps_fold_fst | apply keeps_fold_visit
                           | apply readGate_keeps | apply incr_keeps | apply readWide_keeps
    | with_reducible first | apply keeps_done | apply keeps_accepted | apply keepsOut_next
                           | apply keeps_ite | apply keepsOut_ite | apply keeps_ite_eff | apply keeps_ite_fst
    | split | simp only [keeps_mk] | dsimp only

end Sys2Proof.Machine
end

