-- ==== Sys2Proof/Laws/KeepsTimeAccess.lean ====
section
/-!
SUPPORT. Sys2Proof/Laws/KeepsTimeAccess.lean: every operation of TimeAccess.lean keeps the queue, the variant and the canonical form of
memory.
-/
namespace Sys2Proof.Machine

variable {s0 s : State} {t : Target} {v : Nat} {a : Access}

theorem offsetWrite_keeps (hs : Keeps s0 s) : Keeps s0 (offsetWrite t v s) := by
  unfold offsetWrite
  repeat' with_reducible
    first | assumption | apply offsetIn_keeps | apply wr_keeps

theorem execOffsetInDelivery_keeps (hs : Keeps s0 s) : KeepsOut s0 (execOffsetInDelivery a s) := by
  unfold execOffsetInDelivery
  repeat' first
    | intro _
    | with_reducible first | assumption | apply keeps_fold | apply keeps_fold_fst | apply keeps_fold_visit
                           | apply writeReg_keeps | apply offsetWrite_keeps
    | with_reducible first | apply keeps_done | apply keeps_accepted | apply keepsOut_next
                           | apply keeps_ite | apply keepsOut_ite | apply keeps_ite_eff | apply keeps_ite_fst
    | split | simp only [keeps_mk] | dsimp only

theorem execTimeSnapshotRead_keeps (hs : Keeps s0 s) : KeepsOut s0 (execTimeSnapshotRead a s) := by
  unfold execTimeSnapshotRead
  repeat' first
    | intro _
    | with_reducible first | assumption | apply keeps_fold | apply keeps_fold_fst | apply keeps_fold_visit
                           | apply readGate_keeps | apply wrB_keeps | apply readWide_keeps
    | with_reducible first | apply keeps_done | apply keeps_accepted | apply keepsOut_next
                           | apply keeps_ite | apply keepsOut_ite | apply keeps_ite_eff | apply keeps_ite_fst
    | split | simp only [keeps_mk] | dsimp only

theorem execStampRead_keeps (hs : Keeps s0 s) : KeepsOut s0 (execStampRead a s) := by
  unfold execStampRead
  repeat' first
    | intro _
    | with_reducible first | assumption | apply keeps_fold | apply keeps_fold_fst | apply keeps_fold_visit
                           | apply readGate_keeps | apply readWide_keeps | apply wrB_keeps | apply tickSrc_keeps
    | with_reducible first | apply keeps_done | apply keeps_accepted | apply keepsOut_next
                           | apply keeps_ite | apply keepsOut_ite | apply keeps_ite_eff | apply keeps_ite_fst
    | split | simp only [keeps_mk] | dsimp only

end Sys2Proof.Machine
end

