-- ==== Sys2Proof/Laws/KeepsTrigger.lean ====
section
/-!
SUPPORT. Sys2Proof/Laws/KeepsTrigger.lean: every operation of Trigger.lean keeps the queue, the variant and the canonical form of
memory.
-/
namespace Sys2Proof.Machine

variable {s0 s u : State} {h t n cts order at_ hub v : Nat} {g : Trig} {x : Ctx} {c : Cmd} {a : Access} {p :
  PendingStep}

theorem putTrig_keeps (hs : Keeps s0 s) : Keeps s0 (putTrig s h t g) := by
  unfold putTrig
  repeat' first
    | with_reducible first | assumption | apply wr_keeps
    | split | simp only [keeps_mk] | dsimp only

theorem viewTrg_keeps (hs : Keeps s0 s) : Keeps s0 (viewTrg s h t n) := by
  unfold viewTrg
  repeat' first
    | with_reducible first | assumption | apply hwEvent_keeps
    | split | dsimp only

theorem armTrig_keeps (hs : Keeps s0 s) : Keeps s0 (armTrig s h t) := by
  unfold armTrig
  repeat' with_reducible
    first | assumption | apply putTrig_keeps | apply wr_keeps

theorem effectTrgArm_keeps (hu : Keeps s0 u) : Keeps s0 (effectTrgArm x u).state := by
  unfold effectTrgArm
  repeat' with_reducible
    first | assumption | apply Effect_done_keeps | apply armTrig_keeps

theorem execTrgArm_keeps (hs : Keeps s0 s) : KeepsOut s0 (execTrgArm c s) := by
  unfold execTrgArm
  repeat' first
    | intro _
    | with_reducible first | assumption | apply keeps_fold | apply keeps_fold_fst | apply keeps_fold_visit
                           | apply command_keeps | apply effectTrgArm_keeps
    | with_reducible first | apply keeps_done | apply keeps_accepted | apply keepsOut_next
                           | apply keeps_ite | apply keepsOut_ite | apply keeps_ite_eff | apply keeps_ite_fst
    | split | simp only [keeps_mk] | dsimp only

theorem effectTrgDisarm_keeps (hu : Keeps s0 u) : Keeps s0 (effectTrgDisarm x u).state := by
  unfold effectTrgDisarm
  repeat' with_reducible
    first | assumption | apply Effect_done_keeps | apply putTrig_keeps

theorem execTrgDisarm_keeps (hs : Keeps s0 s) : KeepsOut s0 (execTrgDisarm c s) := by
  unfold execTrgDisarm
  repeat' first
    | intro _
    | with_reducible first | assumption | apply keeps_fold | apply keeps_fold_fst | apply keeps_fold_visit
                           | apply command_keeps | apply effectTrgDisarm_keeps
    | with_reducible first | apply keeps_done | apply keeps_accepted | apply keepsOut_next
                           | apply keeps_ite | apply keepsOut_ite | apply keeps_ite_eff | apply keeps_ite_fst
    | split | simp only [keeps_mk] | dsimp only

theorem viTimer_keeps {s : State} {h t : Nat} (hs : Keeps s0 s) : Keeps s0 (viTimer s h t) := by
  unfold viTimer
  repeat' first
    | intro _
    | with_reducible first | assumption | apply keeps_fold | apply keeps_fold_fst | apply keeps_fold_visit
                           | apply routeFails_keeps | apply wr_keeps
    | with_reducible first | apply keeps_done | apply keeps_accepted | apply keepsOut_next | apply keepsOut_getD
                           | apply keeps_ite | apply keepsOut_ite | apply keeps_ite_eff | apply keeps_ite_fst
    | split | simp only [keeps_mk] | dsimp only

theorem deliverFiring_keeps (hs : Keeps s0 s) : Keeps s0 (deliverFiring s h t g cts order) := by
  unfold deliverFiring
  repeat' first
    | with_reducible first | assumption | apply gooseTimed_keeps | apply viTimer_keeps
    | split | simp only [keeps_mk] | dsimp only

theorem fireTrig_keeps {s : State} {h t at_ : Nat} (hs : Keeps s0 s) : Keeps s0 (fireTrig s h t at_) := by
  unfold fireTrig
  repeat' first
    | intro _
    | with_reducible first | assumption | apply keeps_fold | apply keeps_fold_fst | apply keeps_fold_visit
                           | apply incrSat_keeps | apply wr_keeps | apply tickSrc_keeps | apply putTrig_keeps
                           | apply causedBy_keeps | apply viewTrg_keeps | apply hwEvent_keeps
                           | apply deliverFiring_keeps
    | with_reducible first | apply keeps_done | apply keeps_accepted | apply keepsOut_next | apply keepsOut_getD
                           | apply keeps_ite | apply keepsOut_ite | apply keeps_ite_eff | apply keeps_ite_fst
    | split | simp only [keeps_mk] | dsimp only

theorem execTriggerFiring_keeps (hs : Keeps s0 s) : KeepsOut s0 (execTriggerFiring hub t s) := by
  unfold execTriggerFiring
  repeat' first
    | with_reducible first | assumption | apply keepsOut_next | apply fireTrig_keeps
    | split | dsimp only

theorem execTriggerPulseEnd_keeps (hs : Keeps s0 s) : KeepsOut s0 (execTriggerPulseEnd hub t s) := by
  unfold execTriggerPulseEnd
  repeat' first
    | with_reducible first | assumption | apply keepsOut_next | apply putTrig_keeps
    | split | dsimp only

theorem trgWrite_keeps {t : Target} (hs : Keeps s0 s) : Keeps s0 (trgWrite t v s) := by
  unfold trgWrite
  repeat' first
    | with_reducible first | assumption | apply writeT_keeps | apply viewTrg_keeps | apply hwEvent_keeps
    | split | dsimp only

theorem execTriggerArmedWrite_keeps (hs : Keeps s0 s) : KeepsOut s0 (execTriggerArmedWrite a s) := by
  unfold execTriggerArmedWrite
  repeat' first
    | intro _
    | with_reducible first | assumption | apply keeps_fold | apply keeps_fold_fst | apply keeps_fold_visit
                           | apply writeReg_keeps | apply trgWrite_keeps
    | with_reducible first | apply keeps_done | apply keeps_accepted | apply keepsOut_next
                           | apply keeps_ite | apply keepsOut_ite | apply keeps_ite_eff | apply keeps_ite_fst
    | split | simp only [keeps_mk] | dsimp only

theorem stepTrig_keeps (hs : Keeps s0 s) : Keeps s0 (stepTrig h s t) := by
  unfold stepTrig
  repeat' first
    | with_reducible first | assumption | apply putTrig_keeps | apply viewTrg_keeps | apply hwEvent_keeps
                           | apply fireTrig_keeps | apply incr_keeps
    | split | dsimp only

theorem stepSweeps_keeps (hs : Keeps s0 s) : Keeps s0 (stepSweeps s h) := by
  unfold stepSweeps
  repeat' first
    | with_reducible first | assumption | apply hwEvent_keeps | apply incr_keeps | apply setCy_keeps
    | split | dsimp only

theorem stepHub_keeps (hs : Keeps s0 s) : Keeps s0 (stepHub s h) := by
  unfold stepHub
  repeat' first
    | intro _
    | with_reducible first | assumption | apply keeps_fold | apply keeps_fold_fst | apply keeps_fold_visit
                           | apply stepGates_keeps | apply stepSweeps_keeps | apply stepTrig_keeps
    | with_reducible first | apply keeps_done | apply keeps_accepted | apply keepsOut_next
                           | apply keeps_ite | apply keepsOut_ite | apply keeps_ite_eff | apply keeps_ite_fst
    | split | simp only [keeps_mk] | dsimp only

theorem stepEnds_keeps (hs : Keeps s0 s) : Keeps s0 (stepEnds s p) := by
  unfold stepEnds
  repeat' first
    | with_reducible first | assumption | apply finishOp_keeps
    | split | simp only [keeps_mk] | dsimp only

theorem execStepTakesEffect_keeps (hs : Keeps s0 s) : KeepsOut s0 (execStepTakesEffect s) := by
  unfold execStepTakesEffect
  repeat' first
    | intro _
    | with_reducible first | assumption | apply keeps_fold | apply keeps_fold_fst | apply keeps_fold_visit
                           | apply moveAllCtrs_keeps | apply stepEnds_keeps | apply stepHub_keeps
    | with_reducible first | apply keeps_done | apply keeps_accepted | apply keepsOut_next
                           | apply keeps_ite | apply keepsOut_ite | apply keeps_ite_eff | apply keeps_ite_fst
    | split | simp only [keeps_mk] | dsimp only

theorem execNegativeStepEnd_keeps (hs : Keeps s0 s) : KeepsOut s0 (execNegativeStepEnd s) := by
  unfold execNegativeStepEnd
  repeat' first
    | with_reducible first | assumption | apply keepsOut_next | apply stepEnds_keeps
    | split | dsimp only

end Sys2Proof.Machine
end

