-- ==== Sys2Proof/Laws/KeepsBalls.lean ====
section
/-!
SUPPORT. Sys2Proof/Laws/KeepsBalls.lean: every operation of Balls.lean keeps the queue, the variant and the canonical form
of memory.
-/
namespace Sys2Proof.Machine

variable {s0 s : State}

theorem keepBalls_keeps {s : State} {hub : Nat} (hs : Keeps s0 s) : Keeps s0 (keepBalls s hub) := by
  unfold keepBalls
  repeat' first
    | intro _
    | with_reducible first | assumption | apply keeps_fold | apply keeps_fold_fst | apply keeps_fold_visit
    | with_reducible first | apply keeps_done | apply keeps_accepted | apply keepsOut_next | apply keepsOut_getD
                           | apply keeps_ite | apply keepsOut_ite | apply keeps_ite_eff | apply keeps_ite_fst
    | split | simp only [keeps_mk] | dsimp only

end Sys2Proof.Machine
end

