-- ==== Sys2Proof/Laws/KeepsCoaster.lean ====
section
/-!
SUPPORT. Sys2Proof/Laws/KeepsCoaster.lean: every operation of Coaster.lean keeps the queue, the variant and the canonical form of
memory.
-/
namespace Sys2Proof.Machine

variable {s0 s t : State} {hub i n st cause e cts frame zone bin at_ age : Nat} {data on opened level raw : Bool} {fs
  regs : List Nat} {z : Zone} {f : CoFrame} {p : Present} {x : Ctx} {c : Cmd}

theorem showZones_keeps (hs : Keeps s0 s) : Keeps s0 (showZones s hub) := by
  unfold showZones
  repeat' first
    | intro _
    | with_reducible first | assumption | apply keeps_fold | apply keeps_fold_fst | apply keeps_fold_visit
                           | apply wr_keeps
    | with_reducible first | apply keeps_done | apply keeps_accepted | apply keepsOut_next
                           | apply keeps_ite | apply keepsOut_ite | apply keeps_ite_eff | apply keeps_ite_fst
    | split | simp only [keeps_mk] | dsimp only

theorem putZone_keeps (hs : Keeps s0 s) : Keeps s0 (putZone s hub i z) := by
  unfold putZone
  repeat' with_reducible
    first | assumption | apply refreshLines_keeps | apply showZones_keeps | apply setCo_keeps

theorem zoneEvent_keeps (hs : Keeps s0 s) : Keeps s0 (zoneEvent s hub i n) := by
  unfold zoneEvent
  repeat' with_reducible
    first | assumption | apply hwEvent_keeps | apply wr_keeps

theorem enterZone_keeps (hs : Keeps s0 s) : Keeps s0 (enterZone s hub i z st) := by
  unfold enterZone
  repeat' first
    | with_reducible first | assumption | apply putZone_keeps | apply hwEvent_keeps
    | split | dsimp only

theorem coStamp_keeps {s : State} {hub cause : Nat} (hs : Keeps s0 s) : Keeps s0 (coStamp s hub cause).1 := by
  unfold coStamp
  repeat' first
    | intro _
    | with_reducible first | assumption | apply keeps_fold | apply keeps_fold_fst | apply keeps_fold_visit
                           | apply tickSrcBy_keeps
    | with_reducible first | apply keeps_done | apply keeps_accepted | apply keepsOut_next | apply keepsOut_getD
                           | apply keeps_ite | apply keepsOut_ite | apply keeps_ite_eff | apply keeps_ite_fst
    | split | simp only [keeps_mk] | dsimp only

theorem emitFrame_keeps (hs : Keeps s0 s) : Keeps s0 (emitFrame s hub f) := by
  unfold emitFrame
  repeat' first
    | with_reducible first | assumption | apply takeSeq_keeps | apply tagFrame_keeps | apply injectP15_keeps
    | split | dsimp only

theorem putFrame_keeps (hs : Keeps s0 s) : Keeps s0 (putFrame s hub e f) := by
  unfold putFrame
  repeat' with_reducible
    first | assumption | apply wr_keeps | apply setCo_keeps

theorem changeFrame_keeps (hs : Keeps s0 s) : Keeps s0 (changeFrame hub data cts s e) := by
  unfold changeFrame
  repeat' first
    | with_reducible first | assumption | apply emitFrame_keeps | apply putFrame_keeps | apply drew_keeps
    | split | dsimp only

theorem zoneFrames_keeps (hs : Keeps s0 s) : Keeps s0 (zoneFrames s hub z fs data cts) := by
  unfold zoneFrames
  repeat' first
    | intro _
    | with_reducible first | assumption | apply keeps_fold | apply keeps_fold_fst | apply keeps_fold_visit
                           | apply changeFrame_keeps
    | with_reducible first | apply keeps_done | apply keeps_accepted | apply keepsOut_next
                           | apply keeps_ite | apply keepsOut_ite | apply keeps_ite_eff | apply keeps_ite_fst
    | split | simp only [keeps_mk] | dsimp only

theorem beginBeat_keeps (hs : Keeps s0 s) : Keeps s0 (beginBeat hub s e) := by
  unfold beginBeat
  repeat' first
    | with_reducible first | assumption | apply putFrame_keeps
    | split | dsimp only

theorem execGooseRepeat_keeps (hs : Keeps s0 s) : KeepsOut s0 (execGooseRepeat hub frame s) := by
  unfold execGooseRepeat
  repeat' first
    | with_reducible first | assumption | apply keepsOut_next | apply putFrame_keeps | apply emitFrame_keeps
    | split | dsimp only

theorem endBfi_keeps (hs : Keeps s0 s) : Keeps s0 (endBfi s hub i) := by
  unfold endBfi
  repeat' first
    | with_reducible first | assumption | apply putZone_keeps
    | split | dsimp only

theorem applyWaiting_keeps (hs : Keeps s0 s) : Keeps s0 (applyWaiting s hub i) := by
  unfold applyWaiting
  repeat' first
    | with_reducible first | assumption | apply putZone_keeps | apply enterZone_keeps
    | split | dsimp only

theorem endTrip_keeps {s : State} {hub i cause : Nat} (hs : Keeps s0 s) : Keeps s0 (endTrip s hub i cause) := by
  unfold endTrip
  repeat' first
    | intro _
    | with_reducible first | assumption | apply keeps_fold | apply keeps_fold_fst | apply keeps_fold_visit
                           | apply coStamp_keeps | apply causedBy_keeps | apply enterZone_keeps
                           | apply zoneFrames_keeps | apply pushEdge_keeps | apply applyWaiting_keeps
                           | apply zoneEvent_keeps
    | with_reducible first | apply keeps_done | apply keeps_accepted | apply keepsOut_next | apply keepsOut_getD
                           | apply keeps_ite | apply keepsOut_ite | apply keeps_ite_eff | apply keeps_ite_fst
    | split | simp only [keeps_mk] | dsimp only

theorem tripZone_keeps {s : State} {hub i cause : Nat} (hs : Keeps s0 s) : Keeps s0 (tripZone s hub i cause) := by
  unfold tripZone
  repeat' first
    | intro _
    | with_reducible first | assumption | apply keeps_fold | apply keeps_fold_fst | apply keeps_fold_visit
                           | apply coStamp_keeps | apply causedBy_keeps | apply enterZone_keeps | apply wr_keeps
                           | apply zoneFrames_keeps | apply zoneEvent_keeps | apply pushEdge_keeps
    | with_reducible first | apply keeps_done | apply keeps_accepted | apply keepsOut_next | apply keepsOut_getD
                           | apply keeps_ite | apply keepsOut_ite | apply keeps_ite_eff | apply keeps_ite_fst
    | split | simp only [keeps_mk] | dsimp only

theorem retripZone_keeps {s : State} {hub i : Nat} (hs : Keeps s0 s) : Keeps s0 (retripZone s hub i) := by
  unfold retripZone
  repeat' first
    | intro _
    | with_reducible first | assumption | apply keeps_fold | apply keeps_fold_fst | apply keeps_fold_visit
                           | apply coStamp_keeps | apply causedBy_keeps | apply putZone_keeps | apply wr_keeps
                           | apply zoneEvent_keeps | apply zoneFrames_keeps
    | with_reducible first | apply keeps_done | apply keeps_accepted | apply keepsOut_next | apply keepsOut_getD
                           | apply keeps_ite | apply keepsOut_ite | apply keeps_ite_eff | apply keeps_ite_fst
    | split | simp only [keeps_mk] | dsimp only

theorem setPick_keeps {s : State} {hub i : Nat} {on : Bool} {cause : Nat} (hs : Keeps s0 s) : Keeps s0 (setPick s
    hub i on cause) := by
  unfold setPick
  repeat' first
    | intro _
    | with_reducible first | assumption | apply keeps_fold | apply keeps_fold_fst | apply keeps_fold_visit
                           | apply coStamp_keeps | apply causedBy_keeps | apply pushEdge_keeps | apply putZone_keeps
                           | apply zoneEvent_keeps | apply wr_keeps
    | with_reducible first | apply keeps_done | apply keeps_accepted | apply keepsOut_next | apply keepsOut_getD
                           | apply keeps_ite | apply keepsOut_ite | apply keeps_ite_eff | apply keeps_ite_fst
    | split | simp only [keeps_mk] | dsimp only

theorem evalZone_keeps (hs : Keeps s0 s) : Keeps s0 (evalZone hub cts s i) := by
  unfold evalZone
  repeat' first
    | with_reducible first | assumption | apply putZone_keeps | apply zoneEvent_keeps | apply setPick_keeps
                           | apply enterZone_keeps | apply tripZone_keeps | apply applyWaiting_keeps
                           | apply endTrip_keeps
    | split | dsimp only

theorem coPresent_keeps {s : State} {p : Present} (hs : Keeps s0 s) : Keeps s0 (coPresent s p) := by
  unfold coPresent
  repeat' first
    | intro _
    | with_reducible first | assumption | apply keeps_fold | apply keeps_fold_fst | apply keeps_fold_visit
                           | apply setCo_keeps | apply wr_keeps | apply drew_keeps | apply endBfi_keeps
                           | apply causedBy_keeps | apply evalZone_keeps
    | with_reducible first | apply keeps_done | apply keeps_accepted | apply keepsOut_next | apply keepsOut_getD
                           | apply keeps_ite | apply keepsOut_ite | apply keeps_ite_eff | apply keeps_ite_fst
    | split | simp only [keeps_mk] | dsimp only

theorem armZones_keeps (hs : Keeps s0 s) : Keeps s0 (armZones s hub) := by
  unfold armZones
  repeat' first
    | intro _
    | with_reducible first | assumption | apply keeps_fold | apply keeps_fold_fst | apply keeps_fold_visit
                           | apply enterZone_keeps | apply setPick_keeps | apply applyWaiting_keeps
                           | apply showZones_keeps
    | with_reducible first | apply keeps_done | apply keeps_accepted | apply keepsOut_next
                           | apply keeps_ite | apply keepsOut_ite | apply keeps_ite_eff | apply keeps_ite_fst
    | split | simp only [keeps_mk] | dsimp only

theorem gateChanged_keeps {s : State} {hub : Nat} {opened : Bool} (hs : Keeps s0 s) : Keeps s0 (gateChanged s hub
    opened) := by
  unfold gateChanged
  repeat' first
    | intro _
    | with_reducible first | assumption | apply keeps_fold | apply keeps_fold_fst | apply keeps_fold_visit
                           | apply refreshLines_keeps | apply showZones_keeps | apply coStamp_keeps
                           | apply causedBy_keeps | apply zoneFrames_keeps
    | with_reducible first | apply keeps_done | apply keeps_accepted | apply keepsOut_next | apply keepsOut_getD
                           | apply keeps_ite | apply keepsOut_ite | apply keeps_ite_eff | apply keeps_ite_fst
    | split | simp only [keeps_mk] | dsimp only

theorem execBfTimerExpiry_keeps (hs : Keeps s0 s) : KeepsOut s0 (execBfTimerExpiry hub zone s) := by
  unfold execBfTimerExpiry
  repeat' first
    | with_reducible first | assumption | apply keepsOut_next | apply putZone_keeps | apply retripZone_keeps
                           | apply endBfi_keeps
    | split | dsimp only

theorem bfiEdge_keeps (hs : Keeps s0 s) : Keeps s0 (bfiEdge hub bin at_ level s i) := by
  unfold bfiEdge
  repeat' first
    | with_reducible first | assumption | apply putZone_keeps | apply endBfi_keeps
    | split | dsimp only

theorem execBinAccept_keeps (hs : Keeps s0 s) : KeepsOut s0 (execBinAccept hub bin raw age s) := by
  unfold execBinAccept
  repeat' first
    | intro _
    | with_reducible first | assumption | apply keeps_fold | apply keeps_fold_fst | apply keeps_fold_visit
                           | apply wrAll_keeps | apply wr_keeps | apply showLines_keeps | apply pushEdge_keeps
                           | apply hwEvent_keeps | apply bfiEdge_keeps
    | with_reducible first | apply keeps_done | apply keeps_accepted | apply keepsOut_next
                           | apply keeps_ite | apply keepsOut_ite | apply keeps_ite_eff | apply keeps_ite_fst
    | split | simp only [keeps_mk] | dsimp only

theorem loadZone_keeps (hs : Keeps s0 s) : Keeps s0 (loadZone hub i regs s) := by
  unfold loadZone
  repeat' first
    | intro _
    | with_reducible first | assumption | apply keeps_fold | apply keeps_fold_fst | apply keeps_fold_visit
                           | apply enterZone_keeps | apply beginBeat_keeps
    | with_reducible first | apply keeps_done | apply keeps_accepted | apply keepsOut_next
                           | apply keeps_ite | apply keepsOut_ite | apply keeps_ite_eff | apply keeps_ite_fst
    | split | simp only [keeps_mk] | dsimp only

theorem effectZoneLoad_keeps (ht : Keeps s0 t) : Keeps s0 (effectZoneLoad x t).state := by
  unfold effectZoneLoad
  repeat' with_reducible
    first | assumption | apply Effect_done_keeps | apply loadZone_keeps

theorem execZoneLoad_keeps (hs : Keeps s0 s) : KeepsOut s0 (execZoneLoad c s) := by
  unfold execZoneLoad
  repeat' first
    | intro _
    | with_reducible first | assumption | apply keeps_fold | apply keeps_fold_fst | apply keeps_fold_visit
                           | apply command_keeps | apply effectZoneLoad_keeps
    | with_reducible first | apply keeps_done | apply keeps_accepted | apply keepsOut_next
                           | apply keeps_ite | apply keepsOut_ite | apply keeps_ite_eff | apply keeps_ite_fst
    | split | simp only [keeps_mk] | dsimp only

theorem loadFrame_keeps {x : List Byte × Nat × Nat × Nat} (hs : Keeps s0 s) : Keeps s0 (loadFrame hub e x s) := by
  unfold loadFrame
  repeat' with_reducible
    first | assumption | apply putFrame_keeps

theorem effectFrameLoad_keeps (ht : Keeps s0 t) : Keeps s0 (effectFrameLoad x t).state := by
  unfold effectFrameLoad
  repeat' with_reducible
    first | assumption | apply Effect_done_keeps | apply loadFrame_keeps

theorem execFrameLoad_keeps (hs : Keeps s0 s) : KeepsOut s0 (execFrameLoad c s) := by
  unfold execFrameLoad
  repeat' first
    | intro _
    | with_reducible first | assumption | apply keeps_fold | apply keeps_fold_fst | apply keeps_fold_visit
                           | apply command_keeps | apply effectFrameLoad_keeps
    | with_reducible first | apply keeps_done | apply keeps_accepted | apply keepsOut_next
                           | apply keeps_ite | apply keepsOut_ite | apply keeps_ite_eff | apply keeps_ite_fst
    | split | simp only [keeps_mk] | dsimp only

theorem effectZoneOff_keeps (ht : Keeps s0 t) : Keeps s0 (effectZoneOff x t).state := by
  unfold effectZoneOff
  repeat' with_reducible
    first | assumption | apply Effect_done_keeps | apply enterZone_keeps

theorem execZoneOff_keeps (hs : Keeps s0 s) : KeepsOut s0 (execZoneOff c s) := by
  unfold execZoneOff
  repeat' first
    | intro _
    | with_reducible first | assumption | apply keeps_fold | apply keeps_fold_fst | apply keeps_fold_visit
                           | apply command_keeps | apply effectZoneOff_keeps
    | with_reducible first | apply keeps_done | apply keeps_accepted | apply keepsOut_next
                           | apply keeps_ite | apply keepsOut_ite | apply keeps_ite_eff | apply keeps_ite_fst
    | split | simp only [keeps_mk] | dsimp only

theorem effectZoneReset_keeps (ht : Keeps s0 t) : Keeps s0 (effectZoneReset x t).state := by
  unfold effectZoneReset
  repeat' with_reducible
    first | assumption | apply Effect_done_keeps | apply endTrip_keeps

theorem execZoneReset_keeps (hs : Keeps s0 s) : KeepsOut s0 (execZoneReset c s) := by
  unfold execZoneReset
  repeat' first
    | intro _
    | with_reducible first | assumption | apply keeps_fold | apply keeps_fold_fst | apply keeps_fold_visit
                           | apply command_keeps | apply effectZoneReset_keeps
    | with_reducible first | apply keeps_done | apply keeps_accepted | apply keepsOut_next
                           | apply keeps_ite | apply keepsOut_ite | apply keeps_ite_eff | apply keeps_ite_fst
    | split | simp only [keeps_mk] | dsimp only

theorem effectCoasterClearCounters_keeps (ht : Keeps s0 t) : Keeps s0 (effectCoasterClearCounters x t).state := by
  unfold effectCoasterClearCounters
  repeat' first
    | with_reducible first | assumption | apply Effect_done_keeps | apply clearInsts_keeps | apply clearRegs_keeps
    | split | dsimp only

theorem execCoasterClearCounters_keeps (hs : Keeps s0 s) : KeepsOut s0 (execCoasterClearCounters c s) := by
  unfold execCoasterClearCounters
  repeat' first
    | intro _
    | with_reducible first | assumption | apply keeps_fold | apply keeps_fold_fst | apply keeps_fold_visit
                           | apply command_keeps | apply effectCoasterClearCounters_keeps
    | with_reducible first | apply keeps_done | apply keeps_accepted | apply keepsOut_next
                           | apply keeps_ite | apply keepsOut_ite | apply keeps_ite_eff | apply keeps_ite_fst
    | split | simp only [keeps_mk] | dsimp only

end Sys2Proof.Machine
end

