-- ==== Sys2Proof/Laws/KeepsLevel.lean ====
section
/-!
SUPPORT. Sys2Proof/Laws/KeepsLevel.lean: every operation of Level.lean keeps the queue, the variant and the canonical form of
memory.
-/
namespace Sys2Proof.Machine

variable {s0 s : State} {die hub x lane p port : Nat} {a : Access} {t : Target} {c : Cmd}

theorem showLevel_keeps (hs : Keeps s0 s) : Keeps s0 (showLevel s die) := by
  unfold showLevel
  repeat' first
    | with_reducible first | assumption | apply wr_keeps
    | split | dsimp only

theorem applyLevel_keeps {s : State} {die : Nat} (hs : Keeps s0 s) : Keeps s0 (applyLevel s die) := by
  unfold applyLevel
  repeat' first
    | intro _
    | with_reducible first | assumption | apply keeps_fold | apply keeps_fold_fst | apply keeps_fold_visit
                           | apply showLevel_keeps | apply putLevel_keeps | apply wr_keeps | apply tickSrc_keeps
                           | apply eventRec_keeps | apply pushLog_keeps | apply causedBy_keeps
                           | apply refreshLines_keeps | apply armZones_keeps | apply fireTrigger_keeps
    | with_reducible first | apply keeps_done | apply keeps_accepted | apply keepsOut_next | apply keepsOut_getD
                           | apply keeps_ite | apply keepsOut_ite | apply keeps_ite_eff | apply keeps_ite_fst
    | split | simp only [keeps_mk] | dsimp only

theorem evalLevel_keeps (hs : Keeps s0 s) : Keeps s0 (evalLevel s hub) := by
  unfold evalLevel
  repeat' with_reducible
    first | assumption | apply putLevel_keeps | apply applyLevel_keeps | apply wr_keeps

theorem execLevelConditionChange_keeps (hs : Keeps s0 s) : KeepsOut s0 (execLevelConditionChange hub s) := by
  unfold execLevelConditionChange
  repeat' first
    | with_reducible first | assumption | apply keepsOut_next | apply evalLevel_keeps
    | split | dsimp only

theorem execDieStateReport_keeps (hs : Keeps s0 s) : KeepsOut s0 (execDieStateReport die s) := by
  unfold execDieStateReport
  repeat' first
    | intro _
    | with_reducible first | assumption | apply keeps_fold | apply keeps_fold_fst | apply keeps_fold_visit
                           | apply evalLevel_keeps | apply putLevel_keeps
    | with_reducible first | apply keeps_done | apply keeps_accepted | apply keepsOut_next
                           | apply keeps_ite | apply keepsOut_ite | apply keeps_ite_eff | apply keeps_ite_fst
    | split | simp only [keeps_mk] | dsimp only

theorem execLevelViewReceive_keeps (hs : Keeps s0 s) : KeepsOut s0 (execLevelViewReceive die hub s) := by
  unfold execLevelViewReceive
  repeat' first
    | with_reducible first | assumption | apply keepsOut_next | apply applyLevel_keeps | apply putLevel_keeps
    | split | dsimp only

theorem execDlHoldExpiry_keeps (hs : Keeps s0 s) : KeepsOut s0 (execDlHoldExpiry hub s) := by
  unfold execDlHoldExpiry
  repeat' first
    | with_reducible first | assumption | apply keepsOut_next | apply evalLevel_keeps | apply applyLevel_keeps
                           | apply putLevel_keeps
    | split | dsimp only

theorem swAlive_keeps (hs : Keeps s0 s) : Keeps s0 (swAlive a t x s) := by
  unfold swAlive
  repeat' first
    | with_reducible first | assumption | apply evalLevel_keeps | apply putLevel_keeps
    | split | dsimp only

theorem execSwAliveWrite_keeps (hs : Keeps s0 s) : KeepsOut s0 (execSwAliveWrite a s) := by
  unfold execSwAliveWrite
  repeat' first
    | intro _
    | with_reducible first | assumption | apply keeps_fold | apply keeps_fold_fst | apply keeps_fold_visit
                           | apply writeReg_keeps | apply swAlive_keeps
    | with_reducible first | apply keeps_done | apply keeps_accepted | apply keepsOut_next
                           | apply keeps_ite | apply keepsOut_ite | apply keeps_ite_eff | apply keeps_ite_fst
    | split | simp only [keeps_mk] | dsimp only

theorem execSwAliveTimeout_keeps (hs : Keeps s0 s) : KeepsOut s0 (execSwAliveTimeout hub s) := by
  unfold execSwAliveTimeout
  repeat' first
    | with_reducible first | assumption | apply keepsOut_next | apply evalLevel_keeps | apply putLevel_keeps
    | split | dsimp only

theorem levelWatch_keeps {s : State} (hs : Keeps s0 s) : Keeps s0 (levelWatch s) := by
  unfold levelWatch
  repeat' first
    | intro _
    | with_reducible first | assumption | apply keeps_fold | apply keeps_fold_fst | apply keeps_fold_visit
    | with_reducible first | apply keeps_done | apply keeps_accepted | apply keepsOut_next | apply keepsOut_getD
                           | apply keeps_ite | apply keepsOut_ite | apply keeps_ite_eff | apply keeps_ite_fst
    | split | simp only [keeps_mk] | dsimp only

theorem execLaneLossTimeout_keeps (hs : Keeps s0 s) : KeepsOut s0 (execLaneLossTimeout hub lane s) := by
  unfold execLaneLossTimeout
  repeat' first
    | with_reducible first | assumption | apply keepsOut_next | apply evalLevel_keeps | apply putLevel_keeps
    | split | dsimp only

theorem execTimeAlarmTimeout_keeps (hs : Keeps s0 s) : KeepsOut s0 (execTimeAlarmTimeout hub s) := by
  unfold execTimeAlarmTimeout
  repeat' first
    | with_reducible first | assumption | apply keepsOut_next | apply evalLevel_keeps | apply putLevel_keeps
    | split | dsimp only

theorem laneReturned_keeps (hs : Keeps s0 s) : Keeps s0 (laneReturned s hub p) := by
  unfold laneReturned
  repeat' first
    | with_reducible first | assumption
    | split | simp only [keeps_mk] | dsimp only

theorem execPortHoldUpExpiry_keeps (hs : Keeps s0 s) : KeepsOut s0 (execPortHoldUpExpiry hub port s) := by
  unfold execPortHoldUpExpiry
  repeat' first
    | with_reducible first | assumption | apply keepsOut_next | apply laneReturned_keeps | apply putPortState_keeps
                           | apply wr_keeps
    | split | dsimp only

theorem effectLevelForce_keeps {x : Ctx} {t : State} (ht : Keeps s0 t) : Keeps s0 (effectLevelForce x t).state := by
  unfold effectLevelForce
  repeat' with_reducible
    first | assumption | apply Effect_done_keeps | apply evalLevel_keeps | apply putLevel_keeps

theorem execLevelForce_keeps (hs : Keeps s0 s) : KeepsOut s0 (execLevelForce c s) := by
  unfold execLevelForce
  repeat' with_reducible
    first | assumption | apply keepsOut_next | apply command_keeps | apply effectLevelForce_keeps

end Sys2Proof.Machine
end

