-- ==== Sys2Proof/Laws/KeepsCapture.lean ====
section
/-!
SUPPORT. Sys2Proof/Laws/KeepsCapture.lean: every operation of Capture.lean keeps the queue, the variant and the canonical form of
memory.
-/
namespace Sys2Proof.Machine

variable {s0 s a3 : State} {hub i n st addr cts type b9 w10 w12 flags closeCts row kind src idx a2 record w v : Nat}
  {cut on : Bool} {r : CapRec} {bs : List Byte} {mark : BlockMark} {a : State × CapRec} {t : Trigger} {k : OpenCap}
  {source : Option Nat} {p : TrigEnt → Bool} {c : Cmd} {e : Nat × CapRec} {fin : FrameIn} {x : Ctx}

theorem showRec_keeps (hs : Keeps s0 s) : Keeps s0 (showRec s hub i r) := by
  unfold showRec
  repeat' with_reducible
    first | assumption | apply wr_keeps | apply wrAll_keeps

theorem putRec_keeps (hs : Keeps s0 s) : Keeps s0 (putRec s hub i r) := by
  unfold putRec
  repeat' with_reducible
    first | assumption | apply showRec_keeps | apply setCap_keeps

theorem capEvent_keeps (hs : Keeps s0 s) : Keeps s0 (capEvent s hub i n) := by
  unfold capEvent
  repeat' first
    | with_reducible first | assumption | apply hwEvent_keeps | apply wr_keeps
    | split | dsimp only

theorem enterRec_keeps (hs : Keeps s0 s) : Keeps s0 (enterRec s hub i r st) := by
  unfold enterRec
  repeat' first
    | with_reducible first | assumption | apply putRec_keeps | apply capEvent_keeps
    | split | dsimp only

theorem writeBlock_keeps {s : State} {hub addr : Nat} {bs : List Byte} (hs : Keeps s0 s) : Keeps s0 (writeBlock s
    hub addr bs) := by
  unfold writeBlock
  repeat' first
    | intro _
    | with_reducible first | assumption | apply keeps_fold | apply keeps_fold_fst | apply keeps_fold_visit
                           | apply drainBlocks_keeps | apply setCap_keeps
    | with_reducible first | apply keeps_done | apply keeps_accepted | apply keepsOut_next | apply keepsOut_getD
                           | apply keeps_ite | apply keepsOut_ite | apply keeps_ite_eff | apply keeps_ite_fst
    | split | simp only [keeps_mk] | dsimp only

theorem slotPut_keeps (hs : Keeps s0 s) : Keeps s0 (slotPut s hub r bs mark).1 := by
  unfold slotPut
  repeat' first
    | with_reducible first | assumption | apply writeBlock_keeps
    | split | dsimp only

theorem closeBlock_keeps (ha : Keeps s0 a.1) : Keeps s0 (closeBlock hub n a).1 := by
  unfold closeBlock
  repeat' first
    | with_reducible first | assumption | apply slotPut_keeps
    | split | dsimp only

theorem closeBlocks_keeps (ha : Keeps s0 a.1) : Keeps s0 (closeBlocks hub a).1 := by
  unfold closeBlocks
  repeat' first
    | intro _
    | with_reducible first | assumption | apply keeps_fold | apply keeps_fold_fst | apply keeps_fold_visit
                           | apply closeBlock_keeps
    | with_reducible first | apply keeps_done | apply keeps_accepted | apply keepsOut_next
                           | apply keeps_ite | apply keepsOut_ite | apply keeps_ite_eff | apply keeps_ite_fst
    | split | simp only [keeps_mk] | dsimp only

theorem closeEvents_keeps (ha : Keeps s0 a.1) : Keeps s0 (closeEvents hub a).1 := by
  unfold closeEvents
  repeat' first
    | with_reducible first | assumption | apply slotPut_keeps
    | split | dsimp only

theorem addEvent_keeps (ha : Keeps s0 a.1) : Keeps s0 (addEvent hub cts type b9 w10 w12 a).1 := by
  unfold addEvent
  repeat' first
    | with_reducible first | assumption | apply closeEvents_keeps
    | split | dsimp only

theorem capOffer_keeps (hs : Keeps s0 s) : Keeps s0 (capOffer s hub i r flags closeCts) := by
  unfold capOffer
  repeat' first
    | with_reducible first | assumption
    | split | simp only [keeps_mk] | dsimp only

theorem loseTrig_keeps (hs : Keeps s0 s) : Keeps s0 (loseTrig s hub i r t) := by
  unfold loseTrig
  repeat' with_reducible
    first | assumption | apply capEvent_keeps | apply incr_keeps | apply putRec_keeps

theorem loseAll_keeps {s : State} {hub i : Nat} {ts : List Trigger} (hs : Keeps s0 s) : Keeps s0 (loseAll s hub i
    ts) := by
  unfold loseAll
  repeat' first
    | intro _
    | with_reducible first | assumption | apply keeps_fold | apply keeps_fold_fst | apply keeps_fold_visit
                           | apply loseTrig_keeps
    | with_reducible first | apply keeps_done | apply keeps_accepted | apply keepsOut_next | apply keepsOut_getD
                           | apply keeps_ite | apply keepsOut_ite | apply keeps_ite_eff | apply keeps_ite_fst
    | split | simp only [keeps_mk] | dsimp only

theorem moveOn_keeps {s : State} {hub i : Nat} {r : CapRec} (hs : Keeps s0 s) : Keeps s0 (moveOn s hub i r) := by
  unfold moveOn
  repeat' first
    | intro _
    | with_reducible first | assumption | apply keeps_fold | apply keeps_fold_fst | apply keeps_fold_visit
                           | apply enterRec_keeps | apply wr_keeps | apply loseAll_keeps | apply capEvent_keeps
    | with_reducible first | apply keeps_done | apply keeps_accepted | apply keepsOut_next | apply keepsOut_getD
                           | apply keeps_ite | apply keepsOut_ite | apply keeps_ite_eff | apply keeps_ite_fst
    | split | simp only [keeps_mk] | dsimp only

theorem endGap_keeps {hub i row : Nat} {a : State × CapRec} (ha : Keeps s0 a.1) : Keeps s0 (endGap hub i row a).1 :=
    by
  unfold endGap
  repeat' first
    | intro _
    | with_reducible first | assumption | apply keeps_fold | apply keeps_fold_fst | apply keeps_fold_visit
                           | apply capEvent_keeps | apply wr_keeps | apply addEvent_keeps
    | with_reducible first | apply keeps_done | apply keeps_accepted | apply keepsOut_next | apply keepsOut_getD
                           | apply keeps_ite | apply keepsOut_ite | apply keeps_ite_eff | apply keeps_ite_fst
    | split | simp only [keeps_mk] | dsimp only

theorem closeRec_keeps {s : State} {hub i : Nat} {cut : Bool} (hs : Keeps s0 s) : Keeps s0 (closeRec s hub i cut) :=
    by
  unfold closeRec
  repeat' first
    | intro _
    | with_reducible first | assumption | apply keeps_fold | apply keeps_fold_fst | apply keeps_fold_visit
                           | apply closeEvents_keeps | apply closeBlocks_keeps | apply endGap_keeps
                           | apply tickSrc_keeps | apply measure_keeps | apply writeBlock_keeps | apply wr_keeps
                           | apply capOffer_keeps | apply capEvent_keeps | apply putRec_keeps | apply enterRec_keeps
                           | apply moveOn_keeps
    | with_reducible first | apply keeps_done | apply keeps_accepted | apply keepsOut_next | apply keepsOut_getD
                           | apply keeps_ite | apply keepsOut_ite | apply keeps_ite_eff | apply keeps_ite_fst
    | split | simp only [keeps_mk] | dsimp only

theorem checkTrunc_keeps {s : State} {hub i more : Nat} (hs : Keeps s0 s) : Keeps s0 (checkTrunc s hub i more) := by
  unfold checkTrunc
  repeat' first
    | intro _
    | with_reducible first | assumption | apply keeps_fold | apply keeps_fold_fst | apply keeps_fold_visit
                           | apply capEvent_keeps | apply closeRec_keeps | apply putRec_keeps
    | with_reducible first | apply keeps_done | apply keeps_accepted | apply keepsOut_next | apply keepsOut_getD
                           | apply keeps_ite | apply keepsOut_ite | apply keeps_ite_eff | apply keeps_ite_fst
    | split | simp only [keeps_mk] | dsimp only

theorem acceptTrig_keeps (hs : Keeps s0 s) : Keeps s0 (acceptTrig s hub i r t type) := by
  unfold acceptTrig
  repeat' with_reducible
    first | assumption | apply addEvent_keeps | apply checkTrunc_keeps | apply incr_keeps | apply wr_keeps
          | apply putRec_keeps

theorem sendCross_keeps (hs : Keeps s0 s) : Keeps s0 (sendCross s hub i t) := by
  unfold sendCross
  repeat' first
    | with_reducible first | assumption
    | split | simp only [keeps_mk] | dsimp only

theorem retrigger_keeps {s : State} {hub i : Nat} {r : CapRec} {k : OpenCap} {t : Trigger} {row : Nat} (hs : Keeps
    s0 s) : Keeps s0 (retrigger s hub i r k t row) := by
  unfold retrigger
  repeat' first
    | intro _
    | with_reducible first | assumption | apply keeps_fold | apply keeps_fold_fst | apply keeps_fold_visit
                           | apply checkTrunc_keeps | apply loseTrig_keeps | apply acceptTrig_keeps
    | with_reducible first | apply keeps_done | apply keeps_accepted | apply keepsOut_next | apply keepsOut_getD
                           | apply keeps_ite | apply keepsOut_ite | apply keeps_ite_eff | apply keeps_ite_fst
    | split | dsimp only

theorem startCapture_keeps {s : State} {hub i : Nat} {r : CapRec} {t : Trigger} {row : Nat} (hs : Keeps s0 s) :
    Keeps s0 (startCapture s hub i r t row) := by
  unfold startCapture
  repeat' first
    | intro _
    | with_reducible first | assumption | apply keeps_fold | apply keeps_fold_fst | apply keeps_fold_visit
                           | apply enterRec_keeps | apply sendCross_keeps | apply capEvent_keeps
                           | apply checkTrunc_keeps | apply acceptTrig_keeps
    | with_reducible first | apply keeps_done | apply keeps_accepted | apply keepsOut_next | apply keepsOut_getD
                           | apply keeps_ite | apply keepsOut_ite | apply keeps_ite_eff | apply keeps_ite_fst
    | split | dsimp only

theorem trigRec_keeps (hs : Keeps s0 s) : Keeps s0 (trigRec s hub i t) := by
  unfold trigRec
  repeat' first
    | with_reducible first | assumption | apply loseTrig_keeps | apply startCapture_keeps | apply retrigger_keeps
                           | apply putRec_keeps
    | split | dsimp only

theorem wakeTrigs_keeps (hs : Keeps s0 s) : Keeps s0 (wakeTrigs s hub i) := by
  unfold wakeTrigs
  repeat' first
    | intro _
    | with_reducible first | assumption | apply keeps_fold | apply keeps_fold_fst | apply keeps_fold_visit
                           | apply trigRec_keeps | apply putRec_keeps
    | with_reducible first | apply keeps_done | apply keeps_accepted | apply keepsOut_next
                           | apply keeps_ite | apply keepsOut_ite | apply keeps_ite_eff | apply keeps_ite_fst
    | split | simp only [keeps_mk] | dsimp only

theorem fireEntries_keeps (hs : Keeps s0 s) : Keeps s0 (fireEntries s hub kind source cts p) := by
  unfold fireEntries
  repeat' first
    | intro _
    | with_reducible first | assumption | apply keeps_fold | apply keeps_fold_fst | apply keeps_fold_visit
                           | apply trigRec_keeps
    | with_reducible first | apply keeps_done | apply keeps_accepted | apply keepsOut_next
                           | apply keeps_ite | apply keepsOut_ite | apply keeps_ite_eff | apply keeps_ite_fst
    | split | simp only [keeps_mk] | dsimp only

theorem storeEdge_keeps {s : State} {hub kind src idx : Nat} {on : Bool} {cts : Nat} (hs : Keeps s0 s) : Keeps s0
    (storeEdge s hub kind src idx on cts) := by
  unfold storeEdge
  repeat' first
    | intro _
    | with_reducible first | assumption | apply keeps_fold | apply keeps_fold_fst | apply keeps_fold_visit
                           | apply setCap_keeps | apply checkTrunc_keeps | apply addEvent_keeps
                           | apply wakeTrigs_keeps | apply putRec_keeps
    | with_reducible first | apply keeps_done | apply keeps_accepted | apply keepsOut_next | apply keepsOut_getD
                           | apply keeps_ite | apply keepsOut_ite | apply keeps_ite_eff | apply keeps_ite_fst
    | split | dsimp only

theorem takeIn_keeps {c : CapIn} (hs : Keeps s0 s) : Keeps s0 (takeIn s c) := by
  unfold takeIn
  repeat' first
    | with_reducible first | assumption | apply storeEdge_keeps | apply fireEntries_keeps
    | split | dsimp only

theorem execCaptureTriggerArrival_keeps {hub : Nat} {s : State} (hs : Keeps s0 s) : KeepsOut s0
    (execCaptureTriggerArrival hub s) := by
  unfold execCaptureTriggerArrival
  repeat' first
    | intro _
    | with_reducible first | assumption | apply keeps_fold | apply keeps_fold_fst | apply keeps_fold_visit
                           | apply causedBy_keeps | apply takeIn_keeps | apply trigRec_keeps
    | with_reducible first | apply keeps_done | apply keeps_accepted | apply keepsOut_next | apply keepsOut_getD
                           | apply keeps_ite | apply keepsOut_ite | apply keeps_ite_eff | apply keeps_ite_fst
    | split | simp only [keeps_mk] | dsimp only

theorem raiseLevel_keeps {hub row : Nat} {a : State × CapRec} {n : Nat} (ha : Keeps s0 a.1) : Keeps s0 (raiseLevel
    hub row a n).1 := by
  unfold raiseLevel
  repeat' first
    | intro _
    | with_reducible first | assumption | apply keeps_fold | apply keeps_fold_fst | apply keeps_fold_visit
                           | apply closeBlock_keeps
    | with_reducible first | apply keeps_done | apply keeps_accepted | apply keepsOut_next | apply keepsOut_getD
                           | apply keeps_ite | apply keepsOut_ite | apply keeps_ite_eff | apply keeps_ite_fst
    | split | simp only [keeps_mk] | dsimp only

theorem storeChan_keeps {hub row : Nat} {a0 : State × CapRec} {n : Nat} (ha0 : Keeps s0 a0.1) : Keeps s0 (storeChan
    hub row a0 n).1 := by
  unfold storeChan
  repeat' first
    | intro _
    | with_reducible first | assumption | apply keeps_fold | apply keeps_fold_fst | apply keeps_fold_visit
                           | apply raiseLevel_keeps | apply closeBlock_keeps
    | with_reducible first | apply keeps_done | apply keeps_accepted | apply keepsOut_next | apply keepsOut_getD
                           | apply keeps_ite | apply keepsOut_ite | apply keeps_ite_eff | apply keeps_ite_fst
    | split | dsimp only

theorem rocTrigs_keeps (hs : Keeps s0 s) : Keeps s0 (rocTrigs s hub i row r) := by
  unfold rocTrigs
  repeat' first
    | intro _
    | with_reducible first | assumption | apply keeps_fold | apply keeps_fold_fst | apply keeps_fold_visit
                           | apply trigRec_keeps
    | with_reducible first | apply keeps_done | apply keeps_accepted | apply keepsOut_next
                           | apply keeps_ite | apply keepsOut_ite | apply keeps_ite_eff | apply keeps_ite_fst
    | split | simp only [keeps_mk] | dsimp only

theorem takeRow_keeps {s : State} {hub i : Nat} (hs : Keeps s0 s) : Keeps s0 (takeRow s hub i) := by
  unfold takeRow
  repeat' first
    | intro _
    | with_reducible first | assumption | apply keeps_fold | apply keeps_fold_fst | apply keeps_fold_visit
                           | apply closeBlocks_keeps | apply wakeTrigs_keeps | apply putRec_keeps
                           | apply storeChan_keeps | apply endGap_keeps | apply rocTrigs_keeps
    | with_reducible first | apply keeps_done | apply keeps_accepted | apply keepsOut_next | apply keepsOut_getD
                           | apply keeps_ite | apply keepsOut_ite | apply keeps_ite_eff | apply keeps_ite_fst
    | split | simp only [keeps_mk] | dsimp only

theorem completeRow_keeps {s : State} {hub i : Nat} (hs : Keeps s0 s) : Keeps s0 (completeRow s hub i) := by
  unfold completeRow
  repeat' first
    | intro _
    | with_reducible first | assumption | apply keeps_fold | apply keeps_fold_fst | apply keeps_fold_visit
                           | apply checkTrunc_keeps | apply takeRow_keeps
    | with_reducible first | apply keeps_done | apply keeps_accepted | apply keepsOut_next | apply keepsOut_getD
                           | apply keeps_ite | apply keepsOut_ite | apply keeps_ite_eff | apply keeps_ite_fst
    | split | dsimp only

theorem completeRows_keeps (ha3 : Keeps s0 a3) : Keeps s0 (completeRows hub i a2 a3) := by
  induction a2 generalizing a3 with
  | zero =>
    unfold completeRows
    repeat' first
      | with_reducible first | assumption | apply completeRow_keeps
      | split | dsimp only
  | succ n ih =>
    unfold completeRows
    repeat' first
      | with_reducible first | assumption | apply completeRow_keeps | apply ih
      | split | dsimp only

theorem recTap_keeps {t : TapOut} (hs : Keeps s0 s) : Keeps s0 (recTap hub t s e) := by
  unfold recTap
  repeat' first
    | with_reducible first | assumption | apply incr_keeps | apply completeRows_keeps | apply putRec_keeps
    | split | dsimp only

theorem hearTap_keeps {s : State} {hub : Nat} {t : TapOut} (hs : Keeps s0 s) : Keeps s0 (hearTap s hub t) := by
  unfold hearTap
  repeat' first
    | intro _
    | with_reducible first | assumption | apply keeps_fold | apply keeps_fold_fst | apply keeps_fold_visit
                           | apply setCap_keeps | apply heard_keeps
    | with_reducible first | apply keeps_done | apply keeps_accepted | apply keepsOut_next | apply keepsOut_getD
                           | apply keeps_ite | apply keepsOut_ite | apply keeps_ite_eff | apply keeps_ite_fst
    | split | simp only [keeps_mk] | dsimp only

theorem execCaptureTapSample_keeps {hub : Nat} {s : State} (hs : Keeps s0 s) : KeepsOut s0 (execCaptureTapSample hub
    s) := by
  unfold execCaptureTapSample
  repeat' first
    | intro _
    | with_reducible first | assumption | apply keeps_fold | apply keeps_fold_fst | apply keeps_fold_visit
                           | apply causedBy_keeps | apply recTap_keeps | apply hearTap_keeps
    | with_reducible first | apply keeps_done | apply keeps_accepted | apply keepsOut_next | apply keepsOut_getD
                           | apply keeps_ite | apply keepsOut_ite | apply keeps_ite_eff | apply keeps_ite_fst
    | split | simp only [keeps_mk] | dsimp only

theorem execRowLateComplete_keeps (hs : Keeps s0 s) : KeepsOut s0 (execRowLateComplete hub record s) := by
  unfold execRowLateComplete
  repeat' first
    | with_reducible first | assumption | apply keepsOut_next | apply completeRows_keeps | apply completeRow_keeps
    | split | dsimp only

theorem execCaptureClose_keeps (hs : Keeps s0 s) : KeepsOut s0 (execCaptureClose hub record s) := by
  unfold execCaptureClose
  repeat' first
    | with_reducible first | assumption | apply keepsOut_next | apply wakeTrigs_keeps | apply closeRec_keeps
    | split | dsimp only

theorem reduceChan_keeps (ha : Keeps s0 a.1) : Keeps s0 (reduceChan hub a n).1 := by
  unfold reduceChan
  repeat' first
    | with_reducible first | assumption | apply closeBlock_keeps | apply addEvent_keeps
    | split | dsimp only

theorem reduceRec_keeps {s : State} {hub i : Nat} {r : CapRec} (hs : Keeps s0 s) : Keeps s0 (reduceRec s hub i r) :=
    by
  unfold reduceRec
  repeat' first
    | intro _
    | with_reducible first | assumption | apply keeps_fold | apply keeps_fold_fst | apply keeps_fold_visit
                           | apply reduceChan_keeps | apply wakeTrigs_keeps | apply capEvent_keeps
                           | apply incr_keeps | apply putRec_keeps
    | with_reducible first | apply keeps_done | apply keeps_accepted | apply keepsOut_next | apply keepsOut_getD
                           | apply keeps_ite | apply keepsOut_ite | apply keeps_ite_eff | apply keeps_ite_fst
    | split | simp only [keeps_mk] | dsimp only

theorem execCaptureReduce_keeps {hub : Nat} {s : State} (hs : Keeps s0 s) : KeepsOut s0 (execCaptureReduce hub s) :=
    by
  unfold execCaptureReduce
  repeat' first
    | intro _
    | with_reducible first | assumption | apply keeps_fold | apply keeps_fold_fst | apply keeps_fold_visit
                           | apply setCap_keeps | apply checkTrunc_keeps | apply reduceRec_keeps
    | with_reducible first | apply keeps_done | apply keeps_accepted | apply keepsOut_next | apply keepsOut_getD
                           | apply keeps_ite | apply keepsOut_ite | apply keeps_ite_eff | apply keeps_ite_fst
    | split | simp only [keeps_mk] | dsimp only

theorem watchFrame_keeps (hs : Keeps s0 s) : Keeps s0 (watchFrame hub fin s w) := by
  unfold watchFrame
  repeat' first
    | with_reducible first | assumption | apply wrAll_keeps | apply incr_keeps
    | split | simp only [keeps_mk] | dsimp only

theorem execGooseWatchFrame_keeps (hs : Keeps s0 s) : KeepsOut s0 (execGooseWatchFrame hub s) := by
  unfold execGooseWatchFrame
  repeat' first
    | intro _
    | with_reducible first | assumption | apply keeps_fold | apply keeps_fold_fst | apply keeps_fold_visit
                           | apply setSw_keeps | apply watchFrame_keeps
    | with_reducible first | apply keeps_done | apply keeps_accepted | apply keepsOut_next
                           | apply keeps_ite | apply keepsOut_ite | apply keeps_ite_eff | apply keeps_ite_fst
    | split | dsimp only

theorem gwCfgWrite_keeps {t : Target} (hs : Keeps s0 s) : Keeps s0 (gwCfgWrite t v s) := by
  unfold gwCfgWrite
  repeat' first
    | with_reducible first | assumption | apply writeT_keeps | apply wr_keeps
    | split | dsimp only

theorem execDetectorPresentation_keeps (hs : Keeps s0 s) : KeepsOut s0 (execDetectorPresentation hub s) := by
  unfold execDetectorPresentation
  repeat' first
    | with_reducible first | assumption | apply keepsOut_next | apply setCap_keeps | apply coPresent_keeps
    | split | simp only [keeps_mk] | dsimp only

theorem putSlot_keeps {k : Nat} (hs : Keeps s0 s) : Keeps s0 (putSlot s hub i k st) := by
  unfold putSlot
  repeat' first
    | with_reducible first | assumption | apply putRec_keeps
    | split | dsimp only

theorem beginRead_keeps {s : State} {hub : Nat} (hs : Keeps s0 s) : Keeps s0 (beginRead s hub) := by
  unfold beginRead
  repeat' first
    | intro _
    | with_reducible first | assumption | apply keeps_fold | apply keeps_fold_fst | apply keeps_fold_visit
                           | apply setCap_keeps | apply record_keeps | apply viWrite_keeps
                           | apply readoutFault_keeps | apply countCut_keeps
    | with_reducible first | apply keeps_done | apply keeps_accepted | apply keepsOut_next | apply keepsOut_getD
                           | apply keeps_ite | apply keepsOut_ite | apply keeps_ite_eff | apply keeps_ite_fst
    | split | dsimp only

theorem execCaptureReadoutDone_keeps (hs : Keeps s0 s) : KeepsOut s0 (execCaptureReadoutDone hub s) := by
  unfold execCaptureReadoutDone
  repeat' first
    | with_reducible first | assumption | apply keepsOut_next | apply beginRead_keeps | apply setCap_keeps
                           | apply writeBytes_keeps | apply putSlot_keeps | apply capEvent_keeps | apply wr_keeps
    | split | dsimp only

theorem quiesceReads_keeps (hs : Keeps s0 s) : Keeps s0 (quiesceReads v s hub) := by
  unfold quiesceReads
  repeat' first
    | intro _
    | with_reducible first | assumption | apply keeps_fold | apply keeps_fold_fst | apply keeps_fold_visit
                           | apply putSlot_keeps | apply setCap_keeps | apply setXl_keeps
    | with_reducible first | apply keeps_done | apply keeps_accepted | apply keepsOut_next
                           | apply keeps_ite | apply keepsOut_ite | apply keeps_ite_eff | apply keeps_ite_fst
    | split | simp only [keeps_mk] | dsimp only

theorem effectCapEnable_keeps {x : Ctx} {t : State} (ht : Keeps s0 t) : Keeps s0 (effectCapEnable x t).state := by
  unfold effectCapEnable
  repeat' first
    | intro _
    | with_reducible first | assumption | apply keeps_fold | apply keeps_fold_fst | apply keeps_fold_visit
                           | apply enterRec_keeps | apply wr_keeps | apply shareRefuse_keeps
                           | apply Effect_done_keeps
    | with_reducible first | apply keeps_done | apply keeps_accepted | apply keepsOut_next | apply keepsOut_getD
                           | apply keeps_ite | apply keepsOut_ite | apply keeps_ite_eff | apply keeps_ite_fst
    | split | simp only [keeps_mk] | dsimp only

theorem execCapEnable_keeps (hs : Keeps s0 s) : KeepsOut s0 (execCapEnable c s) := by
  unfold execCapEnable
  repeat' with_reducible
    first | assumption | apply keepsOut_next | apply command_keeps | apply effectCapEnable_keeps

theorem effectCapDisable_keeps {t : State} (ht : Keeps s0 t) : Keeps s0 (effectCapDisable x t).state := by
  unfold effectCapDisable
  repeat' first
    | with_reducible first | assumption | apply closeRec_keeps | apply enterRec_keeps | apply Effect_done_keeps
                           | apply showUsed_keeps
    | split | dsimp only

theorem execCapDisable_keeps (hs : Keeps s0 s) : KeepsOut s0 (execCapDisable c s) := by
  unfold execCapDisable
  repeat' with_reducible
    first | assumption | apply keepsOut_next | apply command_keeps | apply effectCapDisable_keeps

theorem effectCapTrigger_keeps {t : State} (ht : Keeps s0 t) : Keeps s0 (effectCapTrigger x t).state := by
  unfold effectCapTrigger
  repeat' with_reducible
    first | assumption | apply trigRec_keeps

theorem execCapTrigger_keeps (hs : Keeps s0 s) : KeepsOut s0 (execCapTrigger c s) := by
  unfold execCapTrigger
  repeat' with_reducible
    first | assumption | apply keepsOut_next | apply command_keeps | apply effectCapTrigger_keeps

theorem effectCapReadout_keeps {t : State} (ht : Keeps s0 t) : Keeps s0 (effectCapReadout x t).state := by
  unfold effectCapReadout
  repeat' with_reducible
    first | assumption | apply putSlot_keeps | apply Effect_done_keeps | apply beginRead_keeps | apply setCap_keeps

theorem execCapReadout_keeps (hs : Keeps s0 s) : KeepsOut s0 (execCapReadout c s) := by
  unfold execCapReadout
  repeat' with_reducible
    first | assumption | apply keepsOut_next | apply command_keeps | apply effectCapReadout_keeps

theorem effectCapRelease_keeps {t : State} (ht : Keeps s0 t) : Keeps s0 (effectCapRelease x t).state := by
  unfold effectCapRelease
  repeat' first
    | with_reducible first | assumption | apply Effect_done_keeps | apply enterRec_keeps | apply wr_keeps
                           | apply putRec_keeps
    | split | dsimp only

theorem execCapRelease_keeps (hs : Keeps s0 s) : KeepsOut s0 (execCapRelease c s) := by
  unfold execCapRelease
  repeat' with_reducible
    first | assumption | apply keepsOut_next | apply command_keeps | apply effectCapRelease_keeps

theorem effectCapClearCounters_keeps {t : State} (ht : Keeps s0 t) : Keeps s0 (effectCapClearCounters x t).state := by
  unfold effectCapClearCounters
  repeat' first
    | with_reducible first | assumption | apply Effect_done_keeps | apply clearRegs_keeps | apply clearInsts_keeps
    | split | dsimp only

theorem execCapClearCounters_keeps (hs : Keeps s0 s) : KeepsOut s0 (execCapClearCounters c s) := by
  unfold execCapClearCounters
  repeat' with_reducible
    first | assumption | apply keepsOut_next | apply command_keeps | apply effectCapClearCounters_keeps

end Sys2Proof.Machine
end

