-- ==== Sys2Proof/Laws/KeepsCell.lean ====
section
/-!
SUPPORT. Sys2Proof/Laws/KeepsCell.lean: every operation of Cell.lean keeps the queue, the variant and the canonical form of
memory.
-/
namespace Sys2Proof.Machine

variable {s0 s a1 : State} {die a v t cts a0 a2 : Nat} {c : Crank} {x : CrScan} {ws : List Nat} {i : OpInfo} {w :
  CellWord}

theorem setCr_keeps (hs : Keeps s0 s) : Keeps s0 (setCr s die c) := by
  unfold setCr
  repeat' first
    | with_reducible first | assumption
    | split | simp only [keeps_mk] | dsimp only

theorem sharedWrite_keeps (hs : Keeps s0 s) : Keeps s0 (sharedWrite s die a v) := by
  unfold sharedWrite
  repeat' first
    | with_reducible first | assumption | apply setCr_keeps | apply writeLE_keeps
    | split | dsimp only

theorem varWrite_keeps (hs : Keeps s0 s) : Keeps s0 (varWrite s die a v) := by
  unfold varWrite
  repeat' first
    | with_reducible first | assumption | apply sharedWrite_keeps
    | split | dsimp only

theorem setTop_keeps (hs : Keeps s0 s) : Keeps s0 (setTop s die x) := by
  unfold setTop
  repeat' with_reducible
    first | assumption | apply setCr_keeps

theorem topWrite_keeps (hs : Keeps s0 s) : Keeps s0 (topWrite s die a v) := by
  unfold topWrite
  repeat' first
    | with_reducible first | assumption | apply setTop_keeps | apply sharedWrite_keeps
    | split | dsimp only

theorem topWrites_keeps (hs : Keeps s0 s) : Keeps s0 (topWrites s die a ws) := by
  unfold topWrites
  repeat' first
    | intro _
    | with_reducible first | assumption | apply keeps_fold | apply keeps_fold_fst | apply keeps_fold_visit
                           | apply topWrite_keeps
    | with_reducible first | apply keeps_done | apply keeps_accepted | apply keepsOut_next
                           | apply keeps_ite | apply keepsOut_ite | apply keeps_ite_eff | apply keeps_ite_fst
    | split | simp only [keeps_mk] | dsimp only

theorem taskEvent_keeps (hs : Keeps s0 s) : Keeps s0 (taskEvent s die t cts) := by
  unfold taskEvent
  repeat' first
    | with_reducible first | assumption | apply hwEvent_keeps | apply incr_keeps | apply setCr_keeps
    | split | dsimp only

theorem writeD_keeps (hs : Keeps s0 s) : Keeps s0 (writeD s die i w v) := by
  unfold writeD
  repeat' with_reducible
    first | assumption | apply topWrite_keeps

theorem cellEffect_keeps (hs : Keeps s0 s) : Keeps s0 (cellEffect s die cts i w) := by
  unfold cellEffect
  repeat' first
    | intro _
    | with_reducible first | assumption | apply keeps_fold | apply keeps_fold_fst | apply keeps_fold_visit
                           | apply writeD_keeps | apply topWrite_keeps | apply hwEvent_keeps | apply incr_keeps
                           | apply topWrites_keeps | apply setTop_keeps | apply taskEvent_keeps
    | with_reducible first | apply keeps_done | apply keeps_accepted | apply keepsOut_next
                           | apply keeps_ite | apply keepsOut_ite | apply keeps_ite_eff | apply keeps_ite_fst
    | split | simp only [keeps_mk] | dsimp only

theorem cellActs_keeps {s : State} {die cts : Nat} {w : CellWord} {o : Option OpInfo} (hs : Keeps s0 s) : Keeps s0
    (cellActs s die cts w o) := by
  unfold cellActs
  repeat' first
    | intro _
    | with_reducible first | assumption | apply keeps_fold | apply keeps_fold_fst | apply keeps_fold_visit
                           | apply cellEffect_keeps
    | with_reducible first | apply keeps_done | apply keeps_accepted | apply keepsOut_next | apply keepsOut_getD
                           | apply keeps_ite | apply keepsOut_ite | apply keeps_ite_eff | apply keeps_ite_fst
    | split | simp only [keeps_mk] | dsimp only

theorem toCell_keeps {s : State} {die pc : Nat} (hs : Keeps s0 s) : Keeps s0 (toCell s die pc) := by
  unfold toCell
  split
  · exact setTop_keeps hs
  · exact hs

theorem stepCell_keeps {s : State} {die : Nat} (hs : Keeps s0 s) : Keeps s0 (stepCell s die) := by
  unfold stepCell
  split
  · exact hs
  · exact toCell_keeps (cyc_keeps (cellActs_keeps hs))

theorem runCells_keeps (ha1 : Keeps s0 a1) : Keeps s0 (runCells a0 a1 a2) := by
  induction a0 generalizing a1 a2 with
  | zero =>
    unfold runCells
    repeat' first
      | with_reducible first | assumption | apply stepCell_keeps
      | split | dsimp only
  | succ n ih =>
    unfold runCells
    repeat' first
      | with_reducible first | assumption | apply stepCell_keeps | apply ih
      | split | dsimp only

theorem atomicCells_keeps {n die : Nat} (hs : Keeps s0 s) : Keeps s0 (atomicCells n s die) := by
  induction n generalizing s with
  | zero => exact hs
  | succ n ih => exact keeps_ite (ih (stepCell_keeps hs)) hs

end Sys2Proof.Machine
end

