-- ==== Sys2Proof/Laws/KeepsDram.lean ====
section
/-!
SUPPORT. Sys2Proof/Laws/KeepsDram.lean: every operation of Dram.lean keeps the queue, the variant and the canonical form of
memory.
-/
namespace Sys2Proof.Machine

variable {s0 s t : State} {die state ranks x16 density cause size us addr x code device : Nat} {r : EngineRead}
  {corrected : Bool} {reader : Option EngineRead} {c : Cmd}

theorem execDramTrainingDone_keeps {die state ranks x16 density cause size us : Nat} {s : State} (hs : Keeps s0 s) :
    KeepsOut s0 (execDramTrainingDone die state ranks x16 density cause size us s) := by
  unfold execDramTrainingDone
  repeat' first
    | intro _
    | with_reducible first | assumption | apply keeps_fold | apply keeps_fold_fst | apply keeps_fold_visit
                           | apply drainBlocks_keeps | apply hwEvent_keeps | apply wrAll_keeps
    | with_reducible first | apply keeps_done | apply keeps_accepted | apply keepsOut_next | apply keepsOut_getD
                           | apply keeps_ite | apply keepsOut_ite | apply keeps_ite_eff | apply keeps_ite_fst
    | split | simp only [keeps_mk] | dsimp only

theorem readFails_keeps {s : State} {r : EngineRead} (hs : Keeps s0 s) : Keeps s0 (readFails s r) := by
  unfold readFails
  repeat' first
    | intro _
    | with_reducible first | assumption | apply keeps_fold | apply keeps_fold_fst | apply keeps_fold_visit
                           | apply sendFault_keeps | apply engineFault_keeps | apply xlFault_keeps
    | with_reducible first | apply keeps_done | apply keeps_accepted | apply keepsOut_next | apply keepsOut_getD
                           | apply keeps_ite | apply keepsOut_ite | apply keeps_ite_eff | apply keeps_ite_fst
    | split | simp only [keeps_mk] | dsimp only

theorem execDramEccError_keeps (hs : Keeps s0 s) : KeepsOut s0 (execDramEccError die corrected addr reader s) := by
  unfold execDramEccError
  repeat' first
    | with_reducible first | assumption | apply keepsOut_next | apply wrAll_keeps | apply incrSat_keeps
                           | apply hwEvent_keeps | apply eventRec_keeps | apply tickPage_keeps | apply readFails_keeps
    | split | dsimp only

theorem execDramScrubPass_keeps (hs : Keeps s0 s) : KeepsOut s0 (execDramScrubPass x s) := by
  unfold execDramScrubPass
  repeat' with_reducible
    first | assumption | apply keepsOut_next

theorem execDramRefreshChange_keeps (hs : Keeps s0 s) : KeepsOut s0 (execDramRefreshChange die code device s) := by
  unfold execDramRefreshChange
  repeat' first
    | with_reducible first | assumption | apply keepsOut_next | apply wr_keeps | apply hwEvent_keeps
    | split | dsimp only

theorem effectDramClearCounters_keeps {x : Ctx} (ht : Keeps s0 t) : Keeps s0 (effectDramClearCounters x t).state := by
  unfold effectDramClearCounters
  repeat' with_reducible
    first | assumption | apply Effect_done_keeps | apply clearRegs_keeps

theorem execDramClearCounters_keeps (hs : Keeps s0 s) : KeepsOut s0 (execDramClearCounters c s) := by
  unfold execDramClearCounters
  repeat' first
    | intro _
    | with_reducible first | assumption | apply keeps_fold | apply keeps_fold_fst | apply keeps_fold_visit
                           | apply command_keeps | apply effectDramClearCounters_keeps
    | with_reducible first | apply keeps_done | apply keeps_accepted | apply keepsOut_next
                           | apply keeps_ite | apply keepsOut_ite | apply keeps_ite_eff | apply keeps_ite_fst
    | split | simp only [keeps_mk] | dsimp only

end Sys2Proof.Machine
end

