-- ==== Sys2Proof/Laws/KeepsRetain.lean ====
section
/-!
SUPPORT. Sys2Proof/Laws/KeepsRetain.lean: every operation of Retain.lean keeps the queue, the variant and the canonical form of
memory.
-/
namespace Sys2Proof.Machine

variable {s0 s t : State} {hub die cts flags seq : Nat} {checkpoint power : Bool} {r : Retain} {blocks : List Nat} {e
  : Nat × List Byte} {rs : List StoredRec} {x : Ctx} {c : Cmd}

theorem setRt_keeps (hs : Keeps s0 s) : Keeps s0 (setRt s hub r) := by
  unfold setRt
  repeat' first
    | with_reducible first | assumption
    | split | simp only [keeps_mk] | dsimp only

theorem showRt_keeps (hs : Keeps s0 s) : Keeps s0 (showRt s hub) := by
  unfold showRt
  repeat' with_reducible
    first | assumption | apply wrAll_keeps

theorem pushRec_keeps (hs : Keeps s0 s) : Keeps s0 (pushRec s die cts flags blocks checkpoint) := by
  unfold pushRec
  repeat' with_reducible
    first | assumption | apply setCr_keeps

theorem formRec_keeps (hs : Keeps s0 s) : Keeps s0 (formRec s die cts flags) := by
  unfold formRec
  repeat' first
    | with_reducible first | assumption | apply pushRec_keeps
    | split | dsimp only

theorem boundaryRec_keeps (hs : Keeps s0 s) : Keeps s0 (boundaryRec s die cts) := by
  unfold boundaryRec
  repeat' first
    | with_reducible first | assumption | apply formRec_keeps | apply incr_keeps
    | split | dsimp only

theorem stopRec_keeps (hs : Keeps s0 s) : Keeps s0 (stopRec s die power) := by
  unfold stopRec
  repeat' first
    | with_reducible first | assumption | apply formRec_keeps
    | split | dsimp only

theorem leaveRec_keeps {s : State} {die hub seq : Nat} {lost : Bool} (hs : Keeps s0 s) : Keeps s0 (leaveRec s die
    hub seq lost) := by
  unfold leaveRec
  repeat' first
    | intro _
    | with_reducible first | assumption | apply keeps_fold | apply keeps_fold_fst | apply keeps_fold_visit
                           | apply setCr_keeps | apply wr_keeps
    | with_reducible first | apply keeps_done | apply keeps_accepted | apply keepsOut_next | apply keepsOut_getD
                           | apply keeps_ite | apply keepsOut_ite | apply keeps_ite_eff | apply keeps_ite_fst
    | split | dsimp only

theorem pfDone_keeps (hs : Keeps s0 s) : Keeps s0 (pfDone s hub) := by
  unfold pfDone
  repeat' first
    | with_reducible first | assumption | apply hwEvent_keeps | apply wr_keeps
    | split | dsimp only

theorem rtStore_keeps {r : JrnlRec} (hs : Keeps s0 s) : Keeps s0 (rtStore s die hub r) := by
  unfold rtStore
  repeat' with_reducible
    first | assumption | apply setRt_keeps

theorem execJournalCommit_keeps {die hub : Nat} {s : State} (hs : Keeps s0 s) : KeepsOut s0 (execJournalCommit die
    hub s) := by
  unfold execJournalCommit
  repeat' first
    | intro _
    | with_reducible first | assumption | apply keeps_fold | apply keeps_fold_fst | apply keeps_fold_visit
                           | apply incr_keeps | apply drew_keeps | apply leaveRec_keeps | apply rtStore_keeps
                           | apply showRt_keeps | apply pfDone_keeps
    | with_reducible first | apply keeps_done | apply keeps_accepted | apply keepsOut_next | apply keepsOut_getD
                           | apply keeps_ite | apply keepsOut_ite | apply keeps_ite_eff | apply keeps_ite_fst
    | split | simp only [keeps_mk] | dsimp only

theorem retainFails_keeps {s : State} {hub : Nat} (hs : Keeps s0 s) : Keeps s0 (retainFails s hub) := by
  unfold retainFails
  repeat' first
    | intro _
    | with_reducible first | assumption | apply keeps_fold | apply keeps_fold_fst | apply keeps_fold_visit
                           | apply incr_keeps | apply tickPage_keeps | apply eventRec_keeps
    | with_reducible first | apply keeps_done | apply keeps_accepted | apply keepsOut_next | apply keepsOut_getD
                           | apply keeps_ite | apply keepsOut_ite | apply keeps_ite_eff | apply keeps_ite_fst
    | split | simp only [keeps_mk] | dsimp only

theorem replaceQueued_keeps {s : State} {die hub : Nat} (hs : Keeps s0 s) : Keeps s0 (replaceQueued s die hub) := by
  unfold replaceQueued
  repeat' first
    | intro _
    | with_reducible first | assumption | apply keeps_fold | apply keeps_fold_fst | apply keeps_fold_visit
                           | apply leaveRec_keeps | apply pushRec_keeps
    | with_reducible first | apply keeps_done | apply keeps_accepted | apply keepsOut_next | apply keepsOut_getD
                           | apply keeps_ite | apply keepsOut_ite | apply keeps_ite_eff | apply keeps_ite_fst
    | split | simp only [keeps_mk] | dsimp only

theorem execRetainWriteError_keeps {die hub : Nat} {s : State} (hs : Keeps s0 s) : KeepsOut s0 (execRetainWriteError
    die hub s) := by
  unfold execRetainWriteError
  repeat' first
    | intro _
    | with_reducible first | assumption | apply keeps_fold | apply keeps_fold_fst | apply keeps_fold_visit
                           | apply leaveRec_keeps | apply retainFails_keeps | apply replaceQueued_keeps
                           | apply setCr_keeps | apply showRt_keeps
    | with_reducible first | apply keeps_done | apply keeps_accepted | apply keepsOut_next | apply keepsOut_getD
                           | apply keeps_ite | apply keepsOut_ite | apply keeps_ite_eff | apply keeps_ite_fst
    | split | simp only [keeps_mk] | dsimp only

theorem putBlock_keeps (hs : Keeps s0 s) : Keeps s0 (putBlock s die e) := by
  unfold putBlock
  repeat' first
    | intro _
    | with_reducible first | assumption | apply keeps_fold | apply keeps_fold_fst | apply keeps_fold_visit
                           | apply sharedWrite_keeps
    | with_reducible first | apply keeps_done | apply keeps_accepted | apply keepsOut_next
                           | apply keeps_ite | apply keepsOut_ite | apply keeps_ite_eff | apply keeps_ite_fst
    | split | simp only [keeps_mk] | dsimp only

theorem applyRecs_keeps (hs : Keeps s0 s) : Keeps s0 (applyRecs s die rs) := by
  unfold applyRecs
  repeat' first
    | intro _
    | with_reducible first | assumption | apply keeps_fold | apply keeps_fold_fst | apply keeps_fold_visit
                           | apply putBlock_keeps
    | with_reducible first | apply keeps_done | apply keeps_accepted | apply keepsOut_next
                           | apply keeps_ite | apply keepsOut_ite | apply keeps_ite_eff | apply keeps_ite_fst
    | split | simp only [keeps_mk] | dsimp only

theorem effectRtClear_keeps (ht : Keeps s0 t) : Keeps s0 (effectRtClear x t).state := by
  unfold effectRtClear
  repeat' with_reducible
    first | assumption | apply Effect_accepted_keeps

theorem execRtClear_keeps (hs : Keeps s0 s) : KeepsOut s0 (execRtClear c s) := by
  unfold execRtClear
  repeat' first
    | intro _
    | with_reducible first | assumption | apply keeps_fold | apply keeps_fold_fst | apply keeps_fold_visit
                           | apply command_keeps | apply effectRtClear_keeps
    | with_reducible first | apply keeps_done | apply keeps_accepted | apply keepsOut_next
                           | apply keeps_ite | apply keepsOut_ite | apply keeps_ite_eff | apply keeps_ite_fst
    | split | simp only [keeps_mk] | dsimp only

theorem execRtClearDone_keeps (hs : Keeps s0 s) : KeepsOut s0 (execRtClearDone hub s) := by
  unfold execRtClearDone
  repeat' first
    | with_reducible first | assumption | apply keepsOut_next | apply showRt_keeps | apply finish_keeps
                           | apply setRt_keeps
    | split | dsimp only

end Sys2Proof.Machine
end

