-- ==== Sys2Proof/Laws/KeepsCrank.lean ====
section
/-!
SUPPORT. Sys2Proof/Laws/KeepsCrank.lean: every operation of Crank.lean keeps the queue, the variant and the canonical form of
memory.
-/
namespace Sys2Proof.Machine

variable {s0 s a3 t : State} {die n hub line st cause cts task entry a1 off note kind : Nat} {on power whole : Bool}
  {a2 bs bytes : List Byte} {r : CrRelease} {x : Ctx} {e : OlcEntry} {w : Who} {c : Cmd} {p : Nat → Bool}

theorem showCrank_keeps (hs : Keeps s0 s) : Keeps s0 (showCrank s die) := by
  unfold showCrank
  repeat' first
    | intro _
    | with_reducible first | assumption | apply keeps_fold | apply keeps_fold_fst | apply keeps_fold_visit
                           | apply wrAll_keeps | apply wr_keeps
    | with_reducible first | apply keeps_done | apply keeps_accepted | apply keepsOut_next
                           | apply keeps_ite | apply keepsOut_ite | apply keeps_ite_eff | apply keeps_ite_fst
    | split | simp only [keeps_mk] | dsimp only

theorem crankOut_keeps (hs : Keeps s0 s) : KeepsOut s0 (crankOut die s) := by
  unfold crankOut
  repeat' with_reducible
    first | assumption | apply keepsOut_next | apply showCrank_keeps

theorem crViewEvent_keeps (hs : Keeps s0 s) : Keeps s0 (crViewEvent s die n) := by
  unfold crViewEvent
  repeat' first
    | with_reducible first | assumption | apply hwEvent_keeps
    | split | dsimp only

theorem copyIn_keeps {s : State} {die : Nat} {e : MapEntry} (hs : Keeps s0 s) : Keeps s0 (copyIn s die e) := by
  unfold copyIn
  repeat' first
    | intro _
    | with_reducible first | assumption | apply keeps_fold | apply keeps_fold_fst | apply keeps_fold_visit
                           | apply topWrite_keeps | apply incr_keeps
    | with_reducible first | apply keeps_done | apply keeps_accepted | apply keepsOut_next | apply keepsOut_getD
                           | apply keeps_ite | apply keepsOut_ite | apply keeps_ite_eff | apply keeps_ite_fst
    | split | simp only [keeps_mk] | dsimp only

theorem inputCopy_keeps {die : Nat} {s : State} {n : Nat} (hs : Keeps s0 s) : Keeps s0 (inputCopy die s n) := by
  unfold inputCopy
  repeat' first
    | intro _
    | with_reducible first | assumption | apply keeps_fold | apply keeps_fold_fst | apply keeps_fold_visit
                           | apply copyIn_keeps
    | with_reducible first | apply keeps_done | apply keeps_accepted | apply keepsOut_next | apply keepsOut_getD
                           | apply keeps_ite | apply keepsOut_ite | apply keeps_ite_eff | apply keeps_ite_fst
    | split | simp only [keeps_mk] | dsimp only

theorem crDemand_keeps (hs : Keeps s0 s) : Keeps s0 (crDemand s die hub line on) := by
  unfold crDemand
  repeat' first
    | with_reducible first | assumption | apply setCr_keeps | apply outState_keeps | apply execTioSwSet_keeps
                           | apply execTioSwClr_keeps | apply hwEvent_keeps | apply incr_keeps
    | split | simp only [keeps_mk] | dsimp only

theorem kickDemands_keeps (hs : Keeps s0 s) : Keeps s0 (kickDemands s die) := by
  unfold kickDemands
  repeat' first
    | intro _
    | with_reducible first | assumption | apply keeps_fold | apply keeps_fold_fst | apply keeps_fold_visit
                           | apply crDemand_keeps
    | with_reducible first | apply keeps_done | apply keeps_accepted | apply keepsOut_next
                           | apply keeps_ite | apply keepsOut_ite | apply keeps_ite_eff | apply keeps_ite_fst
    | split | simp only [keeps_mk] | dsimp only

theorem enterCr_keeps (hs : Keeps s0 s) : Keeps s0 (enterCr s die st) := by
  unfold enterCr
  repeat' first
    | with_reducible first | assumption | apply setCr_keeps | apply crViewEvent_keeps | apply hwEvent_keeps
                           | apply kickDemands_keeps
    | split | dsimp only

theorem stopCr_keeps (hs : Keeps s0 s) : Keeps s0 (stopCr s die st power) := by
  unfold stopCr
  repeat' first
    | with_reducible first | assumption | apply setCr_keeps | apply enterCr_keeps | apply stopRec_keeps
                           | apply eventRec_keeps | apply tickPage_keeps | apply record_keeps
    | split | dsimp only

theorem haltCr_keeps (hs : Keeps s0 s) : Keeps s0 (haltCr s die cause) := by
  unfold haltCr
  repeat' with_reducible
    first | assumption | apply stopCr_keeps | apply setCr_keeps

theorem finishAtomic_keeps {s : State} {die : Nat} (hs : Keeps s0 s) : Keeps s0 (finishAtomic s die) := by
  unfold finishAtomic
  repeat' first
    | intro _
    | with_reducible first | assumption | apply keeps_fold | apply keeps_fold_fst | apply keeps_fold_visit
                           | apply atomicCells_keeps
    | with_reducible first | apply keeps_done | apply keeps_accepted | apply keepsOut_next | apply keepsOut_getD
                           | apply keeps_ite | apply keepsOut_ite | apply keeps_ite_eff | apply keeps_ite_fst
    | split | simp only [keeps_mk] | dsimp only

theorem checkFull_keeps (hs : Keeps s0 s) : Keeps s0 (checkFull s die) := by
  unfold checkFull
  repeat' first
    | with_reducible first | assumption | apply incr_keeps | apply setCr_keeps | apply haltCr_keeps
    | split | dsimp only

theorem beginScan_keeps (hs : Keeps s0 s) : Keeps s0 (beginScan s die r) := by
  unfold beginScan
  repeat' first
    | intro _
    | with_reducible first | assumption | apply keeps_fold | apply keeps_fold_fst | apply keeps_fold_visit
                           | apply setCr_keeps | apply wr_keeps | apply inputCopy_keeps
    | with_reducible first | apply keeps_done | apply keeps_accepted | apply keepsOut_next
                           | apply keeps_ite | apply keepsOut_ite | apply keeps_ite_eff | apply keeps_ite_fst
    | split | simp only [keeps_mk] | dsimp only

theorem schedule_keeps (hs : Keeps s0 s) : Keeps s0 (schedule s die) := by
  unfold schedule
  repeat' first
    | with_reducible first | assumption | apply finishAtomic_keeps | apply beginScan_keeps
    | split | dsimp only

theorem advance_keeps {s : State} {die : Nat} (hs : Keeps s0 s) : Keeps s0 (advance s die) := by
  unfold advance
  repeat' first
    | intro _
    | with_reducible first | assumption | apply keeps_fold | apply keeps_fold_fst | apply keeps_fold_visit
                           | apply runCells_keeps | apply drew_keeps | apply schedule_keeps
    | with_reducible first | apply keeps_done | apply keeps_accepted | apply keepsOut_next | apply keepsOut_getD
                           | apply keeps_ite | apply keepsOut_ite | apply keeps_ite_eff | apply keeps_ite_fst
    | split | simp only [keeps_mk] | dsimp only

theorem outputCopy_keeps {die : Nat} {x : CrScan} {s : State} {n : Nat} (hs : Keeps s0 s) : Keeps s0 (outputCopy die
    x s n) := by
  unfold outputCopy
  repeat' first
    | intro _
    | with_reducible first | assumption | apply keeps_fold | apply keeps_fold_fst | apply keeps_fold_visit
                           | apply wr_keeps | apply crDemand_keeps | apply setCr_keeps | apply crViewEvent_keeps
    | with_reducible first | apply keeps_done | apply keeps_accepted | apply keepsOut_next | apply keepsOut_getD
                           | apply keeps_ite | apply keepsOut_ite | apply keeps_ite_eff | apply keeps_ite_fst
    | split | simp only [keeps_mk] | dsimp only

theorem commitImage_keeps {x : CrScan} (hs : Keeps s0 s) : Keeps s0 (commitImage s die x) := by
  unfold commitImage
  repeat' first
    | intro _
    | with_reducible first | assumption | apply keeps_fold | apply keeps_fold_fst | apply keeps_fold_visit
                           | apply varWrite_keeps
    | with_reducible first | apply keeps_done | apply keeps_accepted | apply keepsOut_next
                           | apply keeps_ite | apply keepsOut_ite | apply keeps_ite_eff | apply keeps_ite_fst
    | split | simp only [keeps_mk] | dsimp only

theorem edgeTasks_keeps (hs : Keeps s0 s) : Keeps s0 (edgeTasks s die cts) := by
  unfold edgeTasks
  repeat' first
    | intro _
    | with_reducible first | assumption | apply keeps_fold | apply keeps_fold_fst | apply keeps_fold_visit
                           | apply setCr_keeps | apply taskEvent_keeps
    | with_reducible first | apply keeps_done | apply keeps_accepted | apply keepsOut_next
                           | apply keeps_ite | apply keepsOut_ite | apply keeps_ite_eff | apply keeps_ite_fst
    | split | simp only [keeps_mk] | dsimp only

theorem overrunCr_keeps (hs : Keeps s0 s) : Keeps s0 (overrunCr s die r) := by
  unfold overrunCr
  repeat' first
    | with_reducible first | assumption | apply cyc_keeps | apply incr_keeps | apply eventRec_keeps
                           | apply tickPage_keeps | apply haltCr_keeps
    | split | dsimp only

theorem endScan_keeps (hs : Keeps s0 s) : Keeps s0 (endScan s die) := by
  unfold endScan
  repeat' first
    | intro _
    | with_reducible first | assumption | apply keeps_fold | apply keeps_fold_fst | apply keeps_fold_visit
                           | apply cyc_keeps | apply commitImage_keeps | apply setCr_keeps | apply outputCopy_keeps
                           | apply incr_keeps | apply wrAll_keeps | apply tickSrc_keeps | apply edgeTasks_keeps
                           | apply overrunCr_keeps | apply schedule_keeps
    | with_reducible first | apply keeps_done | apply keeps_accepted | apply keepsOut_next
                           | apply keeps_ite | apply keepsOut_ite | apply keeps_ite_eff | apply keeps_ite_fst
    | split | simp only [keeps_mk] | dsimp only

theorem toEnd_keeps (hs : Keeps s0 s) : Keeps s0 (toEnd s die) := by
  unfold toEnd
  repeat' first
    | with_reducible first | assumption | apply checkFull_keeps | apply runCells_keeps | apply endScan_keeps
                           | apply schedule_keeps
    | split | dsimp only

theorem execCrankScanEnd_keeps (hs : Keeps s0 s) : KeepsOut s0 (execCrankScanEnd die s) := by
  unfold execCrankScanEnd
  repeat' first
    | with_reducible first | assumption | apply keepsOut_next | apply crankOut_keeps | apply toEnd_keeps
    | split | dsimp only

theorem execCrankOverrun_keeps (hs : Keeps s0 s) : KeepsOut s0 (execCrankOverrun die task s) := by
  unfold execCrankOverrun
  repeat' first
    | with_reducible first | assumption | apply keepsOut_next | apply setCr_keeps | apply crankOut_keeps
                           | apply overrunCr_keeps | apply advance_keeps
    | split | dsimp only

theorem execCrankInputChange_keeps (hs : Keeps s0 s) : KeepsOut s0 (execCrankInputChange die entry cts s) := by
  unfold execCrankInputChange
  repeat' first
    | intro _
    | with_reducible first | assumption | apply keeps_fold | apply keeps_fold_fst | apply keeps_fold_visit
                           | apply checkFull_keeps | apply advance_keeps | apply crankOut_keeps | apply schedule_keeps
                           | apply taskEvent_keeps
    | with_reducible first | apply keeps_done | apply keeps_accepted | apply keepsOut_next
                           | apply keeps_ite | apply keepsOut_ite | apply keeps_ite_eff | apply keeps_ite_fst
    | split | simp only [keeps_mk] | dsimp only

theorem importRanges_keeps (ha3 : Keeps s0 a3) : Keeps s0 (importRanges die a1 a2 a3) := by
  induction a1 generalizing a2 a3 with
  | zero =>
    unfold importRanges
    repeat' first
      | intro _
      | with_reducible first | assumption | apply keeps_fold | apply keeps_fold_fst | apply keeps_fold_visit
                             | apply varWrite_keeps
      | with_reducible first | apply keeps_done | apply keeps_accepted | apply keepsOut_next
                             | apply keeps_ite | apply keepsOut_ite | apply keeps_ite_eff | apply keeps_ite_fst
      | split | simp only [keeps_mk] | dsimp only
  | succ n ih =>
    unfold importRanges
    repeat' first
      | intro _
      | with_reducible first | assumption | apply keeps_fold | apply keeps_fold_fst | apply keeps_fold_visit
                             | apply varWrite_keeps | apply ih
      | with_reducible first | apply keeps_done | apply keeps_accepted | apply keepsOut_next
                             | apply keeps_ite | apply keepsOut_ite | apply keeps_ite_eff | apply keeps_ite_fst
      | split | simp only [keeps_mk] | dsimp only

theorem importSection_keeps (hs : Keeps s0 s) : Keeps s0 (importSection s die bs) := by
  unfold importSection
  repeat' first
    | with_reducible first | assumption | apply setCr_keeps | apply incr_keeps | apply eventRec_keeps
                           | apply tickPage_keeps | apply importRanges_keeps
    | split | dsimp only

theorem exchange_keeps (hs : Keeps s0 s) : Keeps s0 (exchange s die cts) := by
  unfold exchange
  repeat' first
    | with_reducible first | assumption | apply setCr_keeps | apply importSection_keeps
    | split | dsimp only

theorem olcApply_keeps (hs : Keeps s0 s) : Keeps s0 (olcApply die s e) := by
  unfold olcApply
  repeat' first
    | with_reducible first | assumption | apply writeLE_keeps | apply sharedWrite_keeps
    | split | dsimp only

theorem olcStep_keeps (hs : Keeps s0 s) : Keeps s0 (olcStep s die) := by
  unfold olcStep
  repeat' first
    | intro _
    | with_reducible first | assumption | apply keeps_fold | apply keeps_fold_fst | apply keeps_fold_visit
                           | apply olcApply_keeps | apply setCr_keeps | apply eventRec_keeps | apply tickPage_keeps
    | with_reducible first | apply keeps_done | apply keeps_accepted | apply keepsOut_next
                           | apply keeps_ite | apply keepsOut_ite | apply keeps_ite_eff | apply keeps_ite_fst
    | split | simp only [keeps_mk] | dsimp only

theorem modeStep_keeps (hs : Keeps s0 s) : Keeps s0 (modeStep s die) := by
  unfold modeStep
  repeat' first
    | with_reducible first | assumption | apply enterCr_keeps | apply setCr_keeps
    | split | dsimp only

theorem cyclicRelease_keeps {t : Nat} (hs : Keeps s0 s) : Keeps s0 (cyclicRelease die cts s t) := by
  unfold cyclicRelease
  repeat' first
    | with_reducible first | assumption | apply hwEvent_keeps | apply incr_keeps | apply haltCr_keeps
                           | apply setCr_keeps
    | split | dsimp only

theorem releaseStep_keeps (hs : Keeps s0 s) : Keeps s0 (releaseStep s die cts) := by
  unfold releaseStep
  repeat' first
    | intro _
    | with_reducible first | assumption | apply keeps_fold | apply keeps_fold_fst | apply keeps_fold_visit
                           | apply schedule_keeps | apply cyclicRelease_keeps
    | with_reducible first | apply keeps_done | apply keeps_accepted | apply keepsOut_next
                           | apply keeps_ite | apply keepsOut_ite | apply keeps_ite_eff | apply keeps_ite_fst
    | split | simp only [keeps_mk] | dsimp only

theorem boundary_keeps (hs : Keeps s0 s) : Keeps s0 (boundary s die cts) := by
  unfold boundary
  repeat' first
    | with_reducible first | assumption | apply checkFull_keeps | apply advance_keeps | apply wr_keeps
                           | apply setCr_keeps | apply exchange_keeps | apply boundaryRec_keeps
                           | apply releaseStep_keeps | apply modeStep_keeps | apply olcStep_keeps
    | split | dsimp only

theorem execCrankBoundary_keeps (hs : Keeps s0 s) : KeepsOut s0 (execCrankBoundary die s) := by
  unfold execCrankBoundary
  repeat' first
    | with_reducible first | assumption | apply keepsOut_next | apply setCr_keeps | apply crankOut_keeps
                           | apply boundary_keeps
    | split | simp only [keeps_mk] | dsimp only

theorem execCrankLocalBoundary_keeps (hs : Keeps s0 s) : KeepsOut s0 (execCrankLocalBoundary die s) := by
  unfold execCrankLocalBoundary
  repeat' first
    | with_reducible first | assumption | apply keepsOut_next | apply setCr_keeps | apply hwEvent_keeps
                           | apply crankOut_keeps | apply boundary_keeps
    | split | dsimp only

theorem execCrankWindowWrite_keeps (hs : Keeps s0 s) : KeepsOut s0 (execCrankWindowWrite die off bytes w s) := by
  unfold execCrankWindowWrite
  repeat' first
    | with_reducible first | assumption | apply keepsOut_next | apply writeBytes_keeps | apply crankOut_keeps
                           | apply setCr_keeps | apply hwEvent_keeps | apply incr_keeps
    | split | simp only [keeps_mk] | dsimp only

theorem crDone_keeps (hs : Keeps s0 s) : Keeps s0 (crDone x s note).state := by
  unfold crDone
  repeat' with_reducible
    first | assumption | apply showCrank_keeps

theorem effectCrLoad_keeps (ht : Keeps s0 t) : Keeps s0 (effectCrLoad x t).state := by
  unfold effectCrLoad
  repeat' with_reducible
    first | assumption | apply setCr_keeps | apply enterCr_keeps | apply Effect_accepted_keeps | apply showCrank_keeps

theorem execCrLoad_keeps (hs : Keeps s0 s) : KeepsOut s0 (execCrLoad c s) := by
  unfold execCrLoad
  repeat' first
    | intro _
    | with_reducible first | assumption | apply keeps_fold | apply keeps_fold_fst | apply keeps_fold_visit
                           | apply command_keeps | apply effectCrLoad_keeps
    | with_reducible first | apply keeps_done | apply keeps_accepted | apply keepsOut_next
                           | apply keeps_ite | apply keepsOut_ite | apply keeps_ite_eff | apply keeps_ite_fst
    | split | simp only [keeps_mk] | dsimp only

theorem execCrLoadDone_keeps (hs : Keeps s0 s) : KeepsOut s0 (execCrLoadDone die s) := by
  unfold execCrLoadDone
  repeat' first
    | with_reducible first | assumption | apply keepsOut_next | apply crankOut_keeps | apply finishOp_keeps
                           | apply enterCr_keeps | apply setCr_keeps
    | split | dsimp only

theorem effectCrStart_keeps (ht : Keeps s0 t) : Keeps s0 (effectCrStart x t).state := by
  unfold effectCrStart
  repeat' with_reducible
    first | assumption | apply crDone_keeps | apply setCr_keeps

theorem execCrStart_keeps (hs : Keeps s0 s) : KeepsOut s0 (execCrStart c s) := by
  unfold execCrStart
  repeat' first
    | intro _
    | with_reducible first | assumption | apply keeps_fold | apply keeps_fold_fst | apply keeps_fold_visit
                           | apply command_keeps | apply effectCrStart_keeps
    | with_reducible first | apply keeps_done | apply keeps_accepted | apply keepsOut_next
                           | apply keeps_ite | apply keepsOut_ite | apply keeps_ite_eff | apply keeps_ite_fst
    | split | simp only [keeps_mk] | dsimp only

theorem copyInit_keeps (hs : Keeps s0 s) : Keeps s0 (copyInit s die p) := by
  unfold copyInit
  repeat' first
    | intro _
    | with_reducible first | assumption | apply keeps_fold | apply keeps_fold_fst | apply keeps_fold_visit
                           | apply sharedWrite_keeps
    | with_reducible first | apply keeps_done | apply keeps_accepted | apply keepsOut_next
                           | apply keeps_ite | apply keepsOut_ite | apply keeps_ite_eff | apply keeps_ite_fst
    | split | simp only [keeps_mk] | dsimp only

theorem restartVars_keeps (hs : Keeps s0 s) : Keeps s0 (restartVars s die kind) := by
  unfold restartVars
  repeat' first
    | with_reducible first | assumption | apply copyInit_keeps | apply applyRecs_keeps | apply setCr_keeps
                           | apply hwEvent_keeps
    | split | dsimp only

theorem execCrankRestartDone_keeps (hs : Keeps s0 s) : KeepsOut s0 (execCrankRestartDone die s) := by
  unfold execCrankRestartDone
  repeat' first
    | with_reducible first | assumption | apply keepsOut_next | apply restartVars_keeps | apply crankOut_keeps
                           | apply setCr_keeps
    | split | dsimp only

theorem effectCrStop_keeps (ht : Keeps s0 t) : Keeps s0 (effectCrStop x t).state := by
  unfold effectCrStop
  repeat' with_reducible
    first | assumption | apply crDone_keeps | apply stopCr_keeps | apply advance_keeps

theorem execCrStop_keeps (hs : Keeps s0 s) : KeepsOut s0 (execCrStop c s) := by
  unfold execCrStop
  repeat' first
    | intro _
    | with_reducible first | assumption | apply keeps_fold | apply keeps_fold_fst | apply keeps_fold_visit
                           | apply command_keeps | apply effectCrStop_keeps
    | with_reducible first | apply keeps_done | apply keeps_accepted | apply keepsOut_next
                           | apply keeps_ite | apply keepsOut_ite | apply keeps_ite_eff | apply keeps_ite_fst
    | split | simp only [keeps_mk] | dsimp only

theorem effectCrRun_keeps (ht : Keeps s0 t) : Keeps s0 (effectCrRun x t).state := by
  unfold effectCrRun
  repeat' with_reducible
    first | assumption | apply crDone_keeps | apply setCr_keeps

theorem execCrRun_keeps (hs : Keeps s0 s) : KeepsOut s0 (execCrRun c s) := by
  unfold execCrRun
  repeat' first
    | intro _
    | with_reducible first | assumption | apply keeps_fold | apply keeps_fold_fst | apply keeps_fold_visit
                           | apply command_keeps | apply effectCrRun_keeps
    | with_reducible first | apply keeps_done | apply keeps_accepted | apply keepsOut_next
                           | apply keeps_ite | apply keepsOut_ite | apply keeps_ite_eff | apply keeps_ite_fst
    | split | simp only [keeps_mk] | dsimp only

theorem effectCrStepMode_keeps (ht : Keeps s0 t) : Keeps s0 (effectCrStepMode x t).state := by
  unfold effectCrStepMode
  repeat' first
    | with_reducible first | assumption | apply crDone_keeps | apply enterCr_keeps | apply setCr_keeps
    | split | dsimp only

theorem execCrStepMode_keeps (hs : Keeps s0 s) : KeepsOut s0 (execCrStepMode c s) := by
  unfold execCrStepMode
  repeat' first
    | intro _
    | with_reducible first | assumption | apply keeps_fold | apply keeps_fold_fst | apply keeps_fold_visit
                           | apply command_keeps | apply effectCrStepMode_keeps
    | with_reducible first | apply keeps_done | apply keeps_accepted | apply keepsOut_next
                           | apply keeps_ite | apply keepsOut_ite | apply keeps_ite_eff | apply keeps_ite_fst
    | split | simp only [keeps_mk] | dsimp only

theorem stepTask_keeps {t : Nat} (hs : Keeps s0 s) : Keeps s0 (stepTask s die t cts whole).1 := by
  unfold stepTask
  repeat' first
    | with_reducible first | assumption | apply beginScan_keeps | apply checkFull_keeps | apply runCells_keeps
                           | apply stepCell_keeps | apply endScan_keeps
    | split | dsimp only

theorem effectCrStep_keeps (ht : Keeps s0 t) : Keeps s0 (effectCrStep x t).state := by
  unfold effectCrStep
  repeat' with_reducible
    first | assumption | apply setCr_keeps | apply stepTask_keeps | apply crDone_keeps

theorem execCrStep_keeps (hs : Keeps s0 s) : KeepsOut s0 (execCrStep c s) := by
  unfold execCrStep
  repeat' first
    | intro _
    | with_reducible first | assumption | apply keeps_fold | apply keeps_fold_fst | apply keeps_fold_visit
                           | apply command_keeps | apply effectCrStep_keeps
    | with_reducible first | apply keeps_done | apply keeps_accepted | apply keepsOut_next
                           | apply keeps_ite | apply keepsOut_ite | apply keeps_ite_eff | apply keeps_ite_fst
    | split | simp only [keeps_mk] | dsimp only

theorem effectCrFire_keeps (ht : Keeps s0 t) : Keeps s0 (effectCrFire x t).state := by
  unfold effectCrFire
  repeat' with_reducible
    first | assumption | apply taskEvent_keeps | apply checkFull_keeps | apply advance_keeps | apply showCrank_keeps
          | apply schedule_keeps

theorem execCrFire_keeps (hs : Keeps s0 s) : KeepsOut s0 (execCrFire c s) := by
  unfold execCrFire
  repeat' first
    | intro _
    | with_reducible first | assumption | apply keeps_fold | apply keeps_fold_fst | apply keeps_fold_visit
                           | apply command_keeps | apply effectCrFire_keeps
    | with_reducible first | apply keeps_done | apply keeps_accepted | apply keepsOut_next
                           | apply keeps_ite | apply keepsOut_ite | apply keeps_ite_eff | apply keeps_ite_fst
    | split | simp only [keeps_mk] | dsimp only

theorem effectOlcCommit_keeps (ht : Keeps s0 t) : Keeps s0 (effectOlcCommit x t).state := by
  unfold effectOlcCommit
  repeat' first
    | with_reducible first | assumption | apply setCr_keeps | apply crDone_keeps | apply olcStep_keeps
    | split | dsimp only

theorem execOlcCommit_keeps (hs : Keeps s0 s) : KeepsOut s0 (execOlcCommit c s) := by
  unfold execOlcCommit
  repeat' first
    | intro _
    | with_reducible first | assumption | apply keeps_fold | apply keeps_fold_fst | apply keeps_fold_visit
                           | apply command_keeps | apply effectOlcCommit_keeps
    | with_reducible first | apply keeps_done | apply keeps_accepted | apply keepsOut_next
                           | apply keeps_ite | apply keepsOut_ite | apply keeps_ite_eff | apply keeps_ite_fst
    | split | simp only [keeps_mk] | dsimp only

theorem effectForce_keeps (ht : Keeps s0 t) : Keeps s0 (effectForce x t).state := by
  unfold effectForce
  repeat' with_reducible
    first | assumption | apply advance_keeps | apply wr_keeps | apply crDone_keeps | apply setCr_keeps

theorem execForce_keeps (hs : Keeps s0 s) : KeepsOut s0 (execForce c s) := by
  unfold execForce
  repeat' first
    | intro _
    | with_reducible first | assumption | apply keeps_fold | apply keeps_fold_fst | apply keeps_fold_visit
                           | apply command_keeps | apply effectForce_keeps
    | with_reducible first | apply keeps_done | apply keeps_accepted | apply keepsOut_next
                           | apply keeps_ite | apply keepsOut_ite | apply keeps_ite_eff | apply keeps_ite_fst
    | split | simp only [keeps_mk] | dsimp only

theorem endForces_keeps (hs : Keeps s0 s) : Keeps s0 (endForces s die p) := by
  unfold endForces
  repeat' first
    | intro _
    | with_reducible first | assumption | apply keeps_fold | apply keeps_fold_fst | apply keeps_fold_visit
                           | apply wr_keeps | apply setCr_keeps
    | with_reducible first | apply keeps_done | apply keeps_accepted | apply keepsOut_next
                           | apply keeps_ite | apply keepsOut_ite | apply keeps_ite_eff | apply keeps_ite_fst
    | split | simp only [keeps_mk] | dsimp only

theorem effectUnforce_keeps (ht : Keeps s0 t) : Keeps s0 (effectUnforce x t).state := by
  unfold effectUnforce
  repeat' with_reducible
    first | assumption | apply crDone_keeps | apply endForces_keeps | apply advance_keeps

theorem execUnforce_keeps (hs : Keeps s0 s) : KeepsOut s0 (execUnforce c s) := by
  unfold execUnforce
  repeat' first
    | intro _
    | with_reducible first | assumption | apply keeps_fold | apply keeps_fold_fst | apply keeps_fold_visit
                           | apply command_keeps | apply effectUnforce_keeps
    | with_reducible first | apply keeps_done | apply keeps_accepted | apply keepsOut_next
                           | apply keeps_ite | apply keepsOut_ite | apply keeps_ite_eff | apply keeps_ite_fst
    | split | simp only [keeps_mk] | dsimp only

theorem effectCrUnload_keeps (ht : Keeps s0 t) : Keeps s0 (effectCrUnload x t).state := by
  unfold effectCrUnload
  repeat' with_reducible
    first | assumption | apply endForces_keeps | apply setCr_keeps | apply enterCr_keeps | apply crDone_keeps

theorem execCrUnload_keeps (hs : Keeps s0 s) : KeepsOut s0 (execCrUnload c s) := by
  unfold execCrUnload
  repeat' first
    | intro _
    | with_reducible first | assumption | apply keeps_fold | apply keeps_fold_fst | apply keeps_fold_visit
                           | apply command_keeps | apply effectCrUnload_keeps
    | with_reducible first | apply keeps_done | apply keeps_accepted | apply keepsOut_next
                           | apply keeps_ite | apply keepsOut_ite | apply keeps_ite_eff | apply keeps_ite_fst
    | split | simp only [keeps_mk] | dsimp only

theorem effectCrankClearCounters_keeps (ht : Keeps s0 t) : Keeps s0 (effectCrankClearCounters x t).state := by
  unfold effectCrankClearCounters
  repeat' with_reducible
    first | assumption | apply Effect_done_keeps | apply clearInsts_keeps | apply clearRegs_keeps

theorem execCrankClearCounters_keeps (hs : Keeps s0 s) : KeepsOut s0 (execCrankClearCounters c s) := by
  unfold execCrankClearCounters
  repeat' first
    | intro _
    | with_reducible first | assumption | apply keeps_fold | apply keeps_fold_fst | apply keeps_fold_visit
                           | apply command_keeps | apply effectCrankClearCounters_keeps
    | with_reducible first | apply keeps_done | apply keeps_accepted | apply keepsOut_next
                           | apply keeps_ite | apply keepsOut_ite | apply keeps_ite_eff | apply keeps_ite_fst
    | split | simp only [keeps_mk] | dsimp only

theorem effectTaskClearCounters_keeps (ht : Keeps s0 t) : Keeps s0 (effectTaskClearCounters x t).state := by
  unfold effectTaskClearCounters
  repeat' first
    | with_reducible first | assumption | apply Effect_done_keeps | apply clearInsts_keeps | apply clearRegs_keeps
    | split | dsimp only

theorem execTaskClearCounters_keeps (hs : Keeps s0 s) : KeepsOut s0 (execTaskClearCounters c s) := by
  unfold execTaskClearCounters
  repeat' first
    | intro _
    | with_reducible first | assumption | apply keeps_fold | apply keeps_fold_fst | apply keeps_fold_visit
                           | apply command_keeps | apply effectTaskClearCounters_keeps
    | with_reducible first | apply keeps_done | apply keeps_accepted | apply keepsOut_next
                           | apply keeps_ite | apply keepsOut_ite | apply keeps_ite_eff | apply keeps_ite_fst
    | split | simp only [keeps_mk] | dsimp only

theorem powerStop_keeps (hs : Keeps s0 s) : Keeps s0 (powerStop s die) := by
  unfold powerStop
  repeat' first
    | with_reducible first | assumption | apply setCr_keeps | apply showCrank_keeps | apply stopCr_keeps
                           | apply advance_keeps | apply stopRec_keeps
    | split | dsimp only

theorem execPowerFailWarning_keeps (hs : Keeps s0 s) : KeepsOut s0 (execPowerFailWarning hub s) := by
  unfold execPowerFailWarning
  repeat' first
    | intro _
    | with_reducible first | assumption | apply keeps_fold | apply keeps_fold_fst | apply keeps_fold_visit
                           | apply powerStop_keeps | apply setRt_keeps | apply wr_keeps | apply showRt_keeps
                           | apply pfDone_keeps
    | with_reducible first | apply keeps_done | apply keeps_accepted | apply keepsOut_next
                           | apply keeps_ite | apply keepsOut_ite | apply keeps_ite_eff | apply keeps_ite_fst
    | split | simp only [keeps_mk] | dsimp only

theorem powerResume_keeps (hs : Keeps s0 s) : Keeps s0 (powerResume s die) := by
  unfold powerResume
  repeat' first
    | with_reducible first | assumption | apply showCrank_keeps | apply setCr_keeps
    | split | dsimp only

theorem execPowerFailRecovery_keeps (hs : Keeps s0 s) : KeepsOut s0 (execPowerFailRecovery s) := by
  unfold execPowerFailRecovery
  repeat' first
    | intro _
    | with_reducible first | assumption | apply keeps_fold | apply keeps_fold_fst | apply keeps_fold_visit
                           | apply showRt_keeps | apply setRt_keeps | apply powerResume_keeps
    | with_reducible first | apply keeps_done | apply keeps_accepted | apply keepsOut_next
                           | apply keeps_ite | apply keepsOut_ite | apply keeps_ite_eff | apply keeps_ite_fst
    | split | simp only [keeps_mk] | dsimp only

end Sys2Proof.Machine
end

