-- ==== Sys2Proof/Laws/KeepsTandem.lean ====
section
/-!
SUPPORT. Sys2Proof/Laws/KeepsTandem.lean: every operation of Tandem.lean keeps the queue, the variant and the canonical form of
memory.
-/
namespace Sys2Proof.Machine

variable {s0 s t a3 : State} {hub role ev boundary a1 seq idx count cts : Nat} {header bs a2 part : List Byte} {g
  group : List Nat} {f : Frame} {gate : Bool} {w : Who} {x : Ctx} {a : Access} {code : Code} {c : Cmd}

theorem setTd_keeps {t : Tandem} (hs : Keeps s0 s) : Keeps s0 (setTd s hub t) := by
  unfold setTd
  repeat' first
    | with_reducible first | assumption
    | split | simp only [keeps_mk] | dsimp only

theorem showTd_keeps (hs : Keeps s0 s) : Keeps s0 (showTd s hub) := by
  unfold showTd
  repeat' first
    | with_reducible first | assumption | apply wrAll_keeps
    | split | dsimp only

theorem putTd_keeps {t : Tandem} (hs : Keeps s0 s) : Keeps s0 (putTd s hub t) := by
  unfold putTd
  repeat' first
    | with_reducible first | assumption | apply showTd_keeps | apply setTd_keeps | apply gateChanged_keeps
    | split | dsimp only

theorem putGroup_keeps {f : State → Nat → State} (hs : Keeps s0 s) (hf : ∀ u0 u1, Keeps s0 u0 → Keeps s0 (f u0 u1)) :
    Keeps s0 (putGroup s g f) := by
  unfold putGroup
  repeat' first
    | intro _
    | with_reducible first | assumption | apply keeps_fold | apply keeps_fold_fst | apply keeps_fold_visit | apply hf
    | with_reducible first | apply keeps_done | apply keeps_accepted | apply keepsOut_next
                           | apply keeps_ite | apply keepsOut_ite | apply keeps_ite_eff | apply keeps_ite_fst
    | split | simp only [keeps_mk] | dsimp only

theorem enterRole_keeps (hs : Keeps s0 s) : Keeps s0 (enterRole role gate s hub) := by
  unfold enterRole
  repeat' first
    | with_reducible first | assumption | apply putTd_keeps | apply fireTrigger_keeps | apply hwEvent_keeps
    | split | dsimp only

theorem tdRecord_keeps (hs : Keeps s0 s) : Keeps s0 (tdRecord s hub ev) := by
  unfold tdRecord
  repeat' with_reducible
    first | assumption | apply eventRec_keeps | apply tickPage_keeps

theorem takeLease_keeps (hs : Keeps s0 s) : Keeps s0 (takeLease s hub) := by
  unfold takeLease
  repeat' with_reducible
    first | assumption | apply enterRole_keeps | apply setTd_keeps | apply tdRecord_keeps | apply wr_keeps

theorem loseLease_keeps (hs : Keeps s0 s) : Keeps s0 (loseLease s hub) := by
  unfold loseLease
  repeat' with_reducible
    first | assumption | apply enterRole_keeps

theorem judgeTd_keeps (hs : Keeps s0 s) : Keeps s0 (judgeTd s hub) := by
  unfold judgeTd
  repeat' first
    | with_reducible first | assumption | apply setTd_keeps | apply hwEvent_keeps | apply enterRole_keeps
                           | apply showTd_keeps
    | split | dsimp only

theorem execLeaseGateClose_keeps (hs : Keeps s0 s) : KeepsOut s0 (execLeaseGateClose hub s) := by
  unfold execLeaseGateClose
  repeat' first
    | intro _
    | with_reducible first | assumption | apply keeps_fold | apply keeps_fold_fst | apply keeps_fold_visit
                           | apply putGroup_keeps | apply hwEvent_keeps | apply putTd_keeps | apply loseLease_keeps
    | with_reducible first | apply keeps_done | apply keeps_accepted | apply keepsOut_next
                           | apply keeps_ite | apply keepsOut_ite | apply keeps_ite_eff | apply keeps_ite_fst
    | split | simp only [keeps_mk] | dsimp only

theorem execLeaseTakeover_keeps (hs : Keeps s0 s) : KeepsOut s0 (execLeaseTakeover hub s) := by
  unfold execLeaseTakeover
  repeat' first
    | intro _
    | with_reducible first | assumption | apply keeps_fold | apply keeps_fold_fst | apply keeps_fold_visit
                           | apply putGroup_keeps | apply takeLease_keeps
    | with_reducible first | apply keeps_done | apply keeps_accepted | apply keepsOut_next
                           | apply keeps_ite | apply keepsOut_ite | apply keeps_ite_eff | apply keeps_ite_fst
    | split | simp only [keeps_mk] | dsimp only

theorem execContendListenExpiry_keeps (hs : Keeps s0 s) : KeepsOut s0 (execContendListenExpiry hub s) := by
  unfold execContendListenExpiry
  repeat' first
    | intro _
    | with_reducible first | assumption | apply keeps_fold | apply keeps_fold_fst | apply keeps_fold_visit
                           | apply putGroup_keeps | apply takeLease_keeps
    | with_reducible first | apply keeps_done | apply keeps_accepted | apply keepsOut_next
                           | apply keeps_ite | apply keepsOut_ite | apply keeps_ite_eff | apply keeps_ite_fst
    | split | simp only [keeps_mk] | dsimp only

theorem execPartnerPathLoss_keeps (hs : Keeps s0 s) : KeepsOut s0 (execPartnerPathLoss hub s) := by
  unfold execPartnerPathLoss
  repeat' first
    | intro _
    | with_reducible first | assumption | apply keeps_fold | apply keeps_fold_fst | apply keeps_fold_visit
                           | apply putGroup_keeps | apply judgeTd_keeps | apply enterRole_keeps
    | with_reducible first | apply keeps_done | apply keeps_accepted | apply keepsOut_next
                           | apply keeps_ite | apply keepsOut_ite | apply keeps_ite_eff | apply keeps_ite_fst
    | split | dsimp only

theorem execTandemInputExchange_keeps (hs : Keeps s0 s) : KeepsOut s0 (execTandemInputExchange s) := by
  unfold execTandemInputExchange
  repeat' first
    | with_reducible first | assumption | apply keepsOut_next | apply putGroup_keeps | apply setTd_keeps
                           | apply judgeTd_keeps
    | split | dsimp only

theorem sendSegment_keeps (hs : Keeps s0 s) : Keeps s0 (sendSegment hub s f) := by
  unfold sendSegment
  repeat' first
    | with_reducible first | assumption | apply tickSrc_keeps | apply tagFrame_keeps
    | split | simp only [keeps_mk] | dsimp only

theorem sendBeacon_keeps (hs : Keeps s0 s) : Keeps s0 (sendBeacon s hub header) := by
  unfold sendBeacon
  repeat' first
    | with_reducible first | assumption | apply injectP15_keeps | apply takeSeq_keeps
    | split | dsimp only

theorem sendTd_keeps (hs : Keeps s0 s) : Keeps s0 (sendTd boundary s hub) := by
  unfold sendTd
  repeat' first
    | intro _
    | with_reducible first | assumption | apply keeps_fold | apply keeps_fold_fst | apply keeps_fold_visit
                           | apply setTd_keeps | apply hwEvent_keeps | apply incr_keeps | apply sendSegment_keeps
                           | apply sendBeacon_keeps
    | with_reducible first | apply keeps_done | apply keeps_accepted | apply keepsOut_next
                           | apply keeps_ite | apply keepsOut_ite | apply keeps_ite_eff | apply keeps_ite_fst
    | split | simp only [keeps_mk] | dsimp only

theorem renew_keeps (hs : Keeps s0 s) : Keeps s0 (renew boundary s hub) := by
  unfold renew
  repeat' first
    | with_reducible first | assumption | apply putTd_keeps
    | split | dsimp only

theorem missFrame_keeps (hs : Keeps s0 s) : Keeps s0 (missFrame s hub) := by
  unfold missFrame
  repeat' first
    | with_reducible first | assumption | apply setTd_keeps | apply incr_keeps
    | split | dsimp only

theorem execTandemBoundary_keeps (hs : Keeps s0 s) : KeepsOut s0 (execTandemBoundary hub s) := by
  unfold execTandemBoundary
  repeat' first
    | intro _
    | with_reducible first | assumption | apply keeps_fold | apply keeps_fold_fst | apply keeps_fold_visit
                           | apply putGroup_keeps | apply missFrame_keeps | apply setTd_keeps | apply showTd_keeps
                           | apply sendTd_keeps | apply renew_keeps | apply judgeTd_keeps
    | with_reducible first | apply keeps_done | apply keeps_accepted | apply keepsOut_next
                           | apply keeps_ite | apply keepsOut_ite | apply keeps_ite_eff | apply keeps_ite_fst
    | split | simp only [keeps_mk] | dsimp only

theorem hearHeader_keeps (hs : Keeps s0 s) : Keeps s0 (hearHeader bs s hub) := by
  unfold hearHeader
  repeat' first
    | with_reducible first | assumption | apply setTd_keeps | apply tdRecord_keeps | apply incr_keeps
                           | apply enterRole_keeps | apply judgeTd_keeps
    | split | dsimp only

theorem hearSoftware_keeps (hs : Keeps s0 s) : Keeps s0 (hearSoftware bs s hub) := by
  unfold hearSoftware
  repeat' first
    | with_reducible first | assumption | apply writeBytes_keeps | apply hwEvent_keeps | apply putTd_keeps
    | split | dsimp only

theorem hearSections_keeps (ha3 : Keeps s0 a3) : Keeps s0 (hearSections group a1 a2 a3) := by
  induction a1 generalizing a2 a3 with
  | zero =>
    unfold hearSections
    repeat' first
      | intro _
      | with_reducible first | assumption | apply keeps_fold | apply keeps_fold_fst | apply keeps_fold_visit
                             | apply setCr_keeps | apply hearSoftware_keeps
      | with_reducible first | apply keeps_done | apply keeps_accepted | apply keepsOut_next
                             | apply keeps_ite | apply keepsOut_ite | apply keeps_ite_eff | apply keeps_ite_fst
      | split | simp only [keeps_mk] | dsimp only
  | succ n ih =>
    unfold hearSections
    repeat' first
      | intro _
      | with_reducible first | assumption | apply keeps_fold | apply keeps_fold_fst | apply keeps_fold_visit
                             | apply setCr_keeps | apply hearSoftware_keeps | apply ih
      | with_reducible first | apply keeps_done | apply keeps_accepted | apply keepsOut_next
                             | apply keeps_ite | apply keepsOut_ite | apply keeps_ite_eff | apply keeps_ite_fst
      | split | simp only [keeps_mk] | dsimp only

theorem rxBad_keeps (hs : Keeps s0 s) : Keeps s0 (rxBad s hub) := by
  unfold rxBad
  repeat' with_reducible
    first | assumption | apply hwEvent_keeps | apply incr_keeps

theorem hearFrame_keeps (hs : Keeps s0 s) : Keeps s0 (hearFrame s hub seq bs) := by
  unfold hearFrame
  repeat' first
    | intro _
    | with_reducible first | assumption | apply keeps_fold | apply keeps_fold_fst | apply keeps_fold_visit
                           | apply incr_keeps | apply wr_keeps | apply hearHeader_keeps | apply setTd_keeps
                           | apply hearSections_keeps | apply rxBad_keeps
    | with_reducible first | apply keeps_done | apply keeps_accepted | apply keepsOut_next
                           | apply keeps_ite | apply keepsOut_ite | apply keeps_ite_eff | apply keeps_ite_fst
    | split | simp only [keeps_mk] | dsimp only

theorem joinSegment_keeps (hs : Keeps s0 s) : Keeps s0 (joinSegment s hub seq idx count part) := by
  unfold joinSegment
  repeat' first
    | intro _
    | with_reducible first | assumption | apply keeps_fold | apply keeps_fold_fst | apply keeps_fold_visit
                           | apply setTd_keeps | apply hearFrame_keeps
    | with_reducible first | apply keeps_done | apply keeps_accepted | apply keepsOut_next
                           | apply keeps_ite | apply keepsOut_ite | apply keeps_ite_eff | apply keeps_ite_fst
    | split | simp only [keeps_mk] | dsimp only

theorem checkSegment_keeps (hs : Keeps s0 s) : Keeps s0 (checkSegment s hub cts f).1 := by
  unfold checkSegment
  repeat' first
    | with_reducible first | assumption | apply authPass_keeps | apply authFail_keeps
    | split | dsimp only

theorem execTandemSegmentRx_keeps {hub : Nat} {f : Frame} {s : State} (hs : Keeps s0 s) : KeepsOut s0
    (execTandemSegmentRx hub f s) := by
  unfold execTandemSegmentRx
  repeat' first
    | intro _
    | with_reducible first | assumption | apply keeps_fold | apply keeps_fold_fst | apply keeps_fold_visit
                           | apply tickSrc_keeps | apply causedBy_keeps | apply checkSegment_keeps
                           | apply joinSegment_keeps | apply rxBad_keeps
    | with_reducible first | apply keeps_done | apply keeps_accepted | apply keepsOut_next | apply keepsOut_getD
                           | apply keeps_ite | apply keepsOut_ite | apply keeps_ite_eff | apply keeps_ite_fst
    | split | simp only [keeps_mk] | dsimp only

theorem execBeaconRx_keeps {hub : Nat} {s : State} (hs : Keeps s0 s) : KeepsOut s0 (execBeaconRx hub s) := by
  unfold execBeaconRx
  repeat' first
    | intro _
    | with_reducible first | assumption | apply keeps_fold | apply keeps_fold_fst | apply keeps_fold_visit
                           | apply setSw_keeps | apply causedBy_keeps | apply hearHeader_keeps | apply incr_keeps
    | with_reducible first | apply keeps_done | apply keeps_accepted | apply keepsOut_next | apply keepsOut_getD
                           | apply keeps_ite | apply keepsOut_ite | apply keeps_ite_eff | apply keeps_ite_fst
    | split | dsimp only

theorem tdPermit_keeps {t : Target} {x : Nat} (hs : Keeps s0 s) : Keeps s0 (tdPermit w t x s) := by
  unfold tdPermit
  repeat' first
    | with_reducible first | assumption | apply judgeTd_keeps | apply setTd_keeps
    | split | dsimp only

theorem execTdPermitWrite_keeps (hs : Keeps s0 s) : KeepsOut s0 (execTdPermitWrite a s) := by
  unfold execTdPermitWrite
  repeat' first
    | intro _
    | with_reducible first | assumption | apply keeps_fold | apply keeps_fold_fst | apply keeps_fold_visit
                           | apply writeReg_keeps | apply tdPermit_keeps
    | with_reducible first | apply keeps_done | apply keeps_accepted | apply keepsOut_next
                           | apply keeps_ite | apply keepsOut_ite | apply keeps_ite_eff | apply keeps_ite_fst
    | split | simp only [keeps_mk] | dsimp only

theorem execTdPermitLapse_keeps (hs : Keeps s0 s) : KeepsOut s0 (execTdPermitLapse hub s) := by
  unfold execTdPermitLapse
  repeat' with_reducible
    first | assumption | apply keepsOut_next | apply putGroup_keeps | apply showTd_keeps

theorem endHandover_keeps (hs : Keeps s0 s) : Keeps s0 (endHandover s hub code) := by
  unfold endHandover
  repeat' first
    | with_reducible first | assumption | apply putTd_keeps | apply finishOp_keeps
    | split | dsimp only

theorem execHandoverAckDeadline_keeps (hs : Keeps s0 s) : KeepsOut s0 (execHandoverAckDeadline hub s) := by
  unfold execHandoverAckDeadline
  repeat' first
    | intro _
    | with_reducible first | assumption | apply keeps_fold | apply keeps_fold_fst | apply keeps_fold_visit
                           | apply putGroup_keeps | apply endHandover_keeps
    | with_reducible first | apply keeps_done | apply keeps_accepted | apply keepsOut_next
                           | apply keeps_ite | apply keepsOut_ite | apply keeps_ite_eff | apply keeps_ite_fst
    | split | simp only [keeps_mk] | dsimp only

theorem execHandoverCut_keeps (hs : Keeps s0 s) : KeepsOut s0 (execHandoverCut hub s) := by
  unfold execHandoverCut
  repeat' first
    | intro _
    | with_reducible first | assumption | apply keeps_fold | apply keeps_fold_fst | apply keeps_fold_visit
                           | apply putGroup_keeps | apply hwEvent_keeps | apply endHandover_keeps
                           | apply enterRole_keeps
    | with_reducible first | apply keeps_done | apply keeps_accepted | apply keepsOut_next
                           | apply keeps_ite | apply keepsOut_ite | apply keeps_ite_eff | apply keeps_ite_fst
    | split | simp only [keeps_mk] | dsimp only

theorem effectTdStart_keeps (ht : Keeps s0 t) : Keeps s0 (effectTdStart x t).state := by
  unfold effectTdStart
  repeat' first
    | intro _
    | with_reducible first | assumption | apply keeps_fold | apply keeps_fold_fst | apply keeps_fold_visit
                           | apply Effect_done_keeps | apply putGroup_keeps | apply enterRole_keeps
    | with_reducible first | apply keeps_done | apply keeps_accepted | apply keepsOut_next
                           | apply keeps_ite | apply keepsOut_ite | apply keeps_ite_eff | apply keeps_ite_fst
    | split | simp only [keeps_mk] | dsimp only

theorem execTdStart_keeps (hs : Keeps s0 s) : KeepsOut s0 (execTdStart c s) := by
  unfold execTdStart
  repeat' first
    | intro _
    | with_reducible first | assumption | apply keeps_fold | apply keeps_fold_fst | apply keeps_fold_visit
                           | apply command_keeps | apply effectTdStart_keeps
    | with_reducible first | apply keeps_done | apply keeps_accepted | apply keepsOut_next
                           | apply keeps_ite | apply keepsOut_ite | apply keeps_ite_eff | apply keeps_ite_fst
    | split | simp only [keeps_mk] | dsimp only

theorem stopTd_keeps (hs : Keeps s0 s) : Keeps s0 (stopTd s hub) := by
  unfold stopTd
  repeat' with_reducible
    first | assumption | apply enterRole_keeps | apply endHandover_keeps

theorem effectTdStop_keeps (ht : Keeps s0 t) : Keeps s0 (effectTdStop x t).state := by
  unfold effectTdStop
  repeat' with_reducible
    first | assumption | apply Effect_done_keeps | apply putGroup_keeps | apply stopTd_keeps

theorem execTdStop_keeps (hs : Keeps s0 s) : KeepsOut s0 (execTdStop c s) := by
  unfold execTdStop
  repeat' first
    | intro _
    | with_reducible first | assumption | apply keeps_fold | apply keeps_fold_fst | apply keeps_fold_visit
                           | apply command_keeps | apply effectTdStop_keeps
    | with_reducible first | apply keeps_done | apply keeps_accepted | apply keepsOut_next
                           | apply keeps_ite | apply keepsOut_ite | apply keeps_ite_eff | apply keeps_ite_fst
    | split | simp only [keeps_mk] | dsimp only

theorem effectHandover_keeps (ht : Keeps s0 t) : Keeps s0 (effectHandover x t).state := by
  unfold effectHandover
  repeat' first
    | intro _
    | with_reducible first | assumption | apply keeps_fold | apply keeps_fold_fst | apply keeps_fold_visit
                           | apply Effect_accepted_keeps | apply putGroup_keeps | apply putTd_keeps
    | with_reducible first | apply keeps_done | apply keeps_accepted | apply keepsOut_next
                           | apply keeps_ite | apply keepsOut_ite | apply keeps_ite_eff | apply keeps_ite_fst
    | split | simp only [keeps_mk] | dsimp only

theorem execHandover_keeps (hs : Keeps s0 s) : KeepsOut s0 (execHandover c s) := by
  unfold execHandover
  repeat' first
    | intro _
    | with_reducible first | assumption | apply keeps_fold | apply keeps_fold_fst | apply keeps_fold_visit
                           | apply command_keeps | apply effectHandover_keeps
    | with_reducible first | apply keeps_done | apply keeps_accepted | apply keepsOut_next
                           | apply keeps_ite | apply keepsOut_ite | apply keeps_ite_eff | apply keeps_ite_fst
    | split | simp only [keeps_mk] | dsimp only

theorem effectTdClearCounters_keeps (ht : Keeps s0 t) : Keeps s0 (effectTdClearCounters x t).state := by
  unfold effectTdClearCounters
  repeat' first
    | intro _
    | with_reducible first | assumption | apply keeps_fold | apply keeps_fold_fst | apply keeps_fold_visit
                           | apply Effect_done_keeps | apply clearRegs_keeps
    | with_reducible first | apply keeps_done | apply keeps_accepted | apply keepsOut_next
                           | apply keeps_ite | apply keepsOut_ite | apply keeps_ite_eff | apply keeps_ite_fst
    | split | simp only [keeps_mk] | dsimp only

theorem execTdClearCounters_keeps (hs : Keeps s0 s) : KeepsOut s0 (execTdClearCounters c s) := by
  unfold execTdClearCounters
  repeat' first
    | intro _
    | with_reducible first | assumption | apply keeps_fold | apply keeps_fold_fst | apply keeps_fold_visit
                           | apply command_keeps | apply effectTdClearCounters_keeps
    | with_reducible first | apply keeps_done | apply keeps_accepted | apply keepsOut_next
                           | apply keeps_ite | apply keepsOut_ite | apply keeps_ite_eff | apply keeps_ite_fst
    | split | simp only [keeps_mk] | dsimp only

theorem tandemReleased_keeps (hs : Keeps s0 s) : Keeps s0 (tandemReleased s hub) := by
  unfold tandemReleased
  repeat' first
    | with_reducible first | assumption | apply putTd_keeps
    | split | dsimp only

theorem tandemCompare_keeps (hs : Keeps s0 s) : Keeps s0 (tandemCompare s) := by
  unfold tandemCompare
  repeat' first
    | intro _
    | with_reducible first | assumption | apply keeps_fold | apply keeps_fold_fst | apply keeps_fold_visit
                           | apply putGroup_keeps | apply putTd_keeps
    | with_reducible first | apply keeps_done | apply keeps_accepted | apply keepsOut_next
                           | apply keeps_ite | apply keepsOut_ite | apply keeps_ite_eff | apply keeps_ite_fst
    | split | simp only [keeps_mk] | dsimp only

end Sys2Proof.Machine
end

