-- ==== Sys2Proof/Laws/KeepsVault.lean ====
section
/-!
SUPPORT. Sys2Proof/Laws/KeepsVault.lean: every operation of Vault.lean keeps the queue, the variant and the canonical form of
memory.
-/
namespace Sys2Proof.Machine

variable {s0 s t : State} {hub st n slot loc ini op depth origin parent len at_ sensor die : Nat} {bs key buf response
  : List Byte} {v : Vault} {b : Block} {r : Reg} {x : Ctx} {c : Cmd} {a : KeyArgs} {vi : Option Nat}

theorem putVault_keeps (hs : Keeps s0 s) : Keeps s0 (putVault s hub v) := by
  unfold putVault
  repeat' first
    | with_reducible first | assumption
    | split | simp only [keeps_mk] | dsimp only

theorem enterVault_keeps (hs : Keeps s0 s) : Keeps s0 (enterVault s hub st) := by
  unfold enterVault
  repeat' first
    | with_reducible first | assumption | apply pushLog_keeps | apply hwEvent_keeps | apply wr_keeps
    | split | dsimp only

theorem entropy_keeps (hs : Keeps s0 s) : Keeps s0 (entropy s n).1 := by
  unfold entropy
  repeat' first
    | with_reducible first | assumption
    | split | simp only [keeps_mk] | dsimp only

theorem countSlots_keeps (hs : Keeps s0 s) : Keeps s0 (countSlots s hub) := by
  unfold countSlots
  repeat' with_reducible
    first | assumption | apply wr_keeps

theorem emptySlot_keeps (hs : Keeps s0 s) : Keeps s0 (emptySlot hub s slot) := by
  unfold emptySlot
  repeat' first
    | with_reducible first | assumption | apply wrAll_keeps
    | split | simp only [keeps_mk] | dsimp only

theorem zeroise_keeps (hs : Keeps s0 s) : Keeps s0 (zeroise s hub) := by
  unfold zeroise
  repeat' first
    | intro _
    | with_reducible first | assumption | apply keeps_fold | apply keeps_fold_fst | apply keeps_fold_visit
                           | apply countSlots_keeps | apply emptySlot_keeps
    | with_reducible first | apply keeps_done | apply keeps_accepted | apply keepsOut_next
                           | apply keeps_ite | apply keepsOut_ite | apply keeps_ite_eff | apply keeps_ite_fst
    | split | simp only [keeps_mk] | dsimp only

theorem zeroiseAll_keeps (hs : Keeps s0 s) : Keeps s0 (zeroiseAll s hub) := by
  unfold zeroiseAll
  repeat' first
    | with_reducible first | assumption | apply clearInsts_keeps
    | split | simp only [keeps_mk] | dsimp only

theorem wrV_keeps {v : Nat} (hs : Keeps s0 s) : Keeps s0 (wrV s loc b ini r v) := by
  unfold wrV
  repeat' with_reducible
    first | assumption | apply wrB_keeps

theorem putBuf_keeps (hs : Keeps s0 s) : Keeps s0 (putBuf s loc b ini bs) := by
  unfold putBuf
  repeat' first
    | intro _
    | with_reducible first | assumption | apply keeps_fold | apply keeps_fold_fst | apply keeps_fold_visit
                           | apply wrV_keeps
    | with_reducible first | apply keeps_done | apply keeps_accepted | apply keepsOut_next
                           | apply keeps_ite | apply keepsOut_ite | apply keeps_ite_eff | apply keeps_ite_fst
    | split | simp only [keeps_mk] | dsimp only

theorem ownerRefuse_keeps {s : State} {a : KeyArgs} (hs : Keeps s0 s) : Keeps s0 (ownerRefuse s a) := by
  unfold ownerRefuse
  repeat' first
    | intro _
    | with_reducible first | assumption | apply keeps_fold | apply keeps_fold_fst | apply keeps_fold_visit
                           | apply shareRefuse_keeps
    | with_reducible first | apply keeps_done | apply keeps_accepted | apply keepsOut_next | apply keepsOut_getD
                           | apply keeps_ite | apply keepsOut_ite | apply keeps_ite_eff | apply keeps_ite_fst
    | split | simp only [keeps_mk] | dsimp only

theorem keyGrant_keeps {x : Ctx} {op : Nat} {t : State} (ht : Keeps s0 t) : Keeps s0 (keyGrant x op t).state := by
  unfold keyGrant
  repeat' first
    | intro _
    | with_reducible first | assumption | apply keeps_fold | apply keeps_fold_fst | apply keeps_fold_visit
                           | apply incr_keeps | apply ownerRefuse_keeps | apply wrV_keeps | apply putVault_keeps
                           | apply Effect_accepted_keeps
    | with_reducible first | apply keeps_done | apply keeps_accepted | apply keepsOut_next | apply keepsOut_getD
                           | apply keeps_ite | apply keepsOut_ite | apply keeps_ite_eff | apply keeps_ite_fst
    | split | simp only [keeps_mk] | dsimp only

theorem keyCommand_keeps (hs : Keeps s0 s) : KeepsOut s0 (keyCommand c op s) := by
  unfold keyCommand
  repeat' first
    | intro _
    | with_reducible first | assumption | apply keeps_fold | apply keeps_fold_fst | apply keeps_fold_visit
                           | apply command_keeps | apply keyGrant_keeps
    | with_reducible first | apply keeps_done | apply keeps_accepted | apply keepsOut_next
                           | apply keeps_ite | apply keepsOut_ite | apply keeps_ite_eff | apply keeps_ite_fst
    | split | simp only [keeps_mk] | dsimp only

theorem loadKey_keeps (hs : Keeps s0 s) : Keeps s0 (loadKey s a key depth origin parent) := by
  unfold loadKey
  repeat' first
    | with_reducible first | assumption | apply wrAll_keeps | apply countSlots_keeps
    | split | simp only [keeps_mk] | dsimp only

theorem unsealed_keeps (hs : Keeps s0 s) : Keeps s0 (unsealed s hub) := by
  unfold unsealed
  repeat' with_reducible
    first | assumption | apply enterVault_keeps | apply wr_keeps

theorem tryUnseal_keeps (hs : Keeps s0 s) : Keeps s0 (tryUnseal s hub len buf).1 := by
  unfold tryUnseal
  repeat' first
    | with_reducible first | assumption | apply putVault_keeps | apply unsealed_keeps | apply hwEvent_keeps
                           | apply wr_keeps
    | split | dsimp only

theorem newChallenge_keeps (hs : Keeps s0 s) : Keeps s0 (newChallenge s hub at_).1 := by
  unfold newChallenge
  repeat' with_reducible
    first | assumption | apply entropy_keeps | apply putVault_keeps

theorem keySet_keeps (hs : Keeps s0 s) : Keeps s0 (keySet s a) := by
  unfold keySet
  repeat' first
    | with_reducible first | assumption | apply wr_keeps
    | split | dsimp only

theorem dropNext_keeps (hs : Keeps s0 s) : Keeps s0 (dropNext s hub slot) := by
  unfold dropNext
  repeat' first
    | intro _
    | with_reducible first | assumption | apply keeps_fold | apply keeps_fold_fst | apply keeps_fold_visit
                           | apply wr_keeps
    | with_reducible first | apply keeps_done | apply keeps_accepted | apply keepsOut_next
                           | apply keeps_ite | apply keepsOut_ite | apply keeps_ite_eff | apply keeps_ite_fst
    | split | simp only [keeps_mk] | dsimp only

theorem keyRun_keeps (hs : Keeps s0 s) : Keeps s0 (keyRun s a op ini vi at_).state := by
  unfold keyRun
  repeat' first
    | with_reducible first | assumption | apply newChallenge_keeps | apply tryUnseal_keeps | apply enterVault_keeps
                           | apply zeroise_keeps | apply entropy_keeps | apply putVault_keeps | apply loadKey_keeps
                           | apply useKey_keeps | apply countSlots_keeps | apply dropNext_keeps
                           | apply emptySlot_keeps | apply keySet_keeps
    | split | simp only [keeps_mk] | dsimp only

theorem execVaultCommandEnd_keeps {hub : Nat} {s : State} (hs : Keeps s0 s) : KeepsOut s0 (execVaultCommandEnd hub
    s) := by
  unfold execVaultCommandEnd
  repeat' first
    | intro _
    | with_reducible first | assumption | apply keeps_fold | apply keeps_fold_fst | apply keeps_fold_visit
                           | apply putVault_keeps | apply ownerRefuse_keeps | apply keyRun_keeps
                           | apply putBuf_keeps | apply wrV_keeps | apply incr_keeps | apply finish_keeps
    | with_reducible first | apply keeps_done | apply keeps_accepted | apply keepsOut_next | apply keepsOut_getD
                           | apply keeps_ite | apply keepsOut_ite | apply keeps_ite_eff | apply keeps_ite_fst
    | split | dsimp only

theorem execUnsealChal_keeps (hs : Keeps s0 s) : KeepsOut s0 (execUnsealChal c s) := by
  unfold execUnsealChal
  repeat' with_reducible
    first | assumption | apply keepsOut_next | apply keyCommand_keeps

theorem execUnseal_keeps (hs : Keeps s0 s) : KeepsOut s0 (execUnseal c s) := by
  unfold execUnseal
  repeat' with_reducible
    first | assumption | apply keepsOut_next | apply keyCommand_keeps

theorem execSeal_keeps (hs : Keeps s0 s) : KeepsOut s0 (execSeal c s) := by
  unfold execSeal
  repeat' with_reducible
    first | assumption | apply keepsOut_next | apply keyCommand_keeps

theorem execDormant_keeps (hs : Keeps s0 s) : KeepsOut s0 (execDormant c s) := by
  unfold execDormant
  repeat' with_reducible
    first | assumption | apply keepsOut_next | apply keyCommand_keeps

theorem execWake_keeps (hs : Keeps s0 s) : KeepsOut s0 (execWake c s) := by
  unfold execWake
  repeat' with_reducible
    first | assumption | apply keepsOut_next | apply keyCommand_keeps

theorem execRootGen_keeps (hs : Keeps s0 s) : KeepsOut s0 (execRootGen c s) := by
  unfold execRootGen
  repeat' with_reducible
    first | assumption | apply keepsOut_next | apply keyCommand_keeps

theorem execRootLoad_keeps (hs : Keeps s0 s) : KeepsOut s0 (execRootLoad c s) := by
  unfold execRootLoad
  repeat' with_reducible
    first | assumption | apply keepsOut_next | apply keyCommand_keeps

theorem execVaultAuthLoad_keeps (hs : Keeps s0 s) : KeepsOut s0 (execVaultAuthLoad c s) := by
  unfold execVaultAuthLoad
  repeat' with_reducible
    first | assumption | apply keepsOut_next | apply keyCommand_keeps

theorem execKeyDerive_keeps (hs : Keeps s0 s) : KeepsOut s0 (execKeyDerive c s) := by
  unfold execKeyDerive
  repeat' with_reducible
    first | assumption | apply keepsOut_next | apply keyCommand_keeps

theorem execKeyUnwrap_keeps (hs : Keeps s0 s) : KeepsOut s0 (execKeyUnwrap c s) := by
  unfold execKeyUnwrap
  repeat' with_reducible
    first | assumption | apply keepsOut_next | apply keyCommand_keeps

theorem execKeyGen_keeps (hs : Keeps s0 s) : KeepsOut s0 (execKeyGen c s) := by
  unfold execKeyGen
  repeat' with_reducible
    first | assumption | apply keepsOut_next | apply keyCommand_keeps

theorem execKeyClear_keeps (hs : Keeps s0 s) : KeepsOut s0 (execKeyClear c s) := by
  unfold execKeyClear
  repeat' with_reducible
    first | assumption | apply keepsOut_next | apply keyCommand_keeps

theorem execKeySet_keeps (hs : Keeps s0 s) : KeepsOut s0 (execKeySet c s) := by
  unfold execKeySet
  repeat' with_reducible
    first | assumption | apply keepsOut_next | apply keyCommand_keeps

theorem execEncrypt_keeps (hs : Keeps s0 s) : KeepsOut s0 (execEncrypt c s) := by
  unfold execEncrypt
  repeat' with_reducible
    first | assumption | apply keepsOut_next | apply keyCommand_keeps

theorem execDecrypt_keeps (hs : Keeps s0 s) : KeepsOut s0 (execDecrypt c s) := by
  unfold execDecrypt
  repeat' with_reducible
    first | assumption | apply keepsOut_next | apply keyCommand_keeps

theorem execMacGen_keeps (hs : Keeps s0 s) : KeepsOut s0 (execMacGen c s) := by
  unfold execMacGen
  repeat' with_reducible
    first | assumption | apply keepsOut_next | apply keyCommand_keeps

theorem execMacVer_keeps (hs : Keeps s0 s) : KeepsOut s0 (execMacVer c s) := by
  unfold execMacVer
  repeat' with_reducible
    first | assumption | apply keepsOut_next | apply keyCommand_keeps

theorem execAttest_keeps (hs : Keeps s0 s) : KeepsOut s0 (execAttest c s) := by
  unfold execAttest
  repeat' with_reducible
    first | assumption | apply keepsOut_next | apply keyCommand_keeps

theorem effectVaultClearCounters_keeps (ht : Keeps s0 t) : Keeps s0 (effectVaultClearCounters c x t).state := by
  unfold effectVaultClearCounters
  repeat' first
    | with_reducible first | assumption | apply Effect_done_keeps | apply clearRegs_keeps
    | split | dsimp only

theorem execVaultClearCounters_keeps (hs : Keeps s0 s) : KeepsOut s0 (execVaultClearCounters c s) := by
  unfold execVaultClearCounters
  repeat' first
    | intro _
    | with_reducible first | assumption | apply keeps_fold | apply keeps_fold_fst | apply keeps_fold_visit
                           | apply command_keeps | apply effectVaultClearCounters_keeps
    | with_reducible first | apply keeps_done | apply keeps_accepted | apply keepsOut_next
                           | apply keeps_ite | apply keepsOut_ite | apply keeps_ite_eff | apply keeps_ite_fst
    | split | simp only [keeps_mk] | dsimp only

theorem execUnsealChallengeExpiry_keeps (hs : Keeps s0 s) : KeepsOut s0 (execUnsealChallengeExpiry hub s) := by
  unfold execUnsealChallengeExpiry
  repeat' first
    | with_reducible first | assumption | apply keepsOut_next | apply putVault_keeps
    | split | dsimp only

theorem promote_keeps (hs : Keeps s0 s) : Keeps s0 (promote s hub slot n) := by
  unfold promote
  repeat' first
    | with_reducible first | assumption | apply wrAll_keeps | apply emptySlot_keeps | apply eventRec_keeps
                           | apply tickSrc_keeps | apply countSlots_keeps
    | split | simp only [keeps_mk] | dsimp only

theorem execKeyPromotion_keeps (hs : Keeps s0 s) : KeepsOut s0 (execKeyPromotion hub slot s) := by
  unfold execKeyPromotion
  repeat' first
    | with_reducible first | assumption | apply keepsOut_next | apply promote_keeps
    | split | dsimp only

theorem execTrngHealthFail_keeps (hs : Keeps s0 s) : KeepsOut s0 (execTrngHealthFail hub s) := by
  unfold execTrngHealthFail
  repeat' first
    | with_reducible first | assumption | apply keepsOut_next | apply hwEvent_keeps | apply wr_keeps
    | split | dsimp only

theorem tamperJobs_keeps (hs : Keeps s0 s) : Keeps s0 (tamperJobs s hub) := by
  unfold tamperJobs
  repeat' first
    | intro _
    | with_reducible first | assumption | apply keeps_fold | apply keeps_fold_fst | apply keeps_fold_visit
                           | apply finish_keeps | apply putVault_keeps
    | with_reducible first | apply keeps_done | apply keeps_accepted | apply keepsOut_next
                           | apply keeps_ite | apply keepsOut_ite | apply keeps_ite_eff | apply keeps_ite_fst
    | split | simp only [keeps_mk] | dsimp only

theorem alarmVault_keeps (hs : Keeps s0 s) : Keeps s0 (alarmVault sensor s hub) := by
  unfold alarmVault
  repeat' first
    | with_reducible first | assumption | apply wr_keeps | apply wrAll_keeps | apply tamperJobs_keeps
                           | apply putVault_keeps | apply eventRec_keeps | apply tickSrc_keeps
                           | apply fireTrigger_keeps | apply pushLog_keeps | apply enterVault_keeps
    | split | dsimp only

theorem execTamperAlarm_keeps (hs : Keeps s0 s) : KeepsOut s0 (execTamperAlarm die sensor s) := by
  unfold execTamperAlarm
  repeat' first
    | intro _
    | with_reducible first | assumption | apply keeps_fold | apply keeps_fold_fst | apply keeps_fold_visit
                           | apply alarmVault_keeps
    | with_reducible first | apply keeps_done | apply keeps_accepted | apply keepsOut_next
                           | apply keeps_ite | apply keepsOut_ite | apply keeps_ite_eff | apply keeps_ite_fst
    | split | simp only [keeps_mk] | dsimp only

theorem execCacheZeroiseDone_keeps (hs : Keeps s0 s) : KeepsOut s0 (execCacheZeroiseDone hub s) := by
  unfold execCacheZeroiseDone
  repeat' first
    | with_reducible first | assumption | apply keepsOut_next | apply putVault_keeps | apply zeroise_keeps
    | split | dsimp only

theorem execDebugChallengeRead_keeps (hs : Keeps s0 s) : KeepsOut s0 (execDebugChallengeRead s) := by
  unfold execDebugChallengeRead
  repeat' first
    | with_reducible first | assumption | apply keepsOut_next | apply entropy_keeps | apply respond_keeps
                           | apply putVault_keeps
    | split | dsimp only

theorem execDebugUnlockResponse_keeps (hs : Keeps s0 s) : KeepsOut s0 (execDebugUnlockResponse response s) := by
  unfold execDebugUnlockResponse
  repeat' first
    | with_reducible first | assumption | apply keepsOut_next | apply putVault_keeps
    | split | dsimp only

end Sys2Proof.Machine
end

