-- ==== Sys2Proof/Laws/KeepsVi.lean ====
section
/-!
SUPPORT. Sys2Proof/Laws/KeepsVi.lean: every operation of Vi.lean keeps the queue, the variant and the canonical form of
memory.
-/
namespace Sys2Proof.Machine

variable {s0 s t : State} {v hi lo st hub mask burst die vi part hart compare : Nat} {first abort killed applies :
  Bool} {x : Ctx} {xs : List Nat} {c : Cmd} {b : List Byte}

theorem viField_keeps {x : Nat} (hs : Keeps s0 s) : Keeps s0 (viField s v hi lo x) := by
  unfold viField
  repeat' with_reducible
    first | assumption | apply wr_keeps

theorem enterVi_keeps (hs : Keeps s0 s) : Keeps s0 (enterVi s v st) := by
  unfold enterVi
  repeat' with_reducible
    first | assumption | apply viEvent_keeps | apply viField_keeps

theorem putShares_keeps (hs : Keeps s0 s) : Keeps s0 (putShares s v xs) := by
  unfold putShares
  repeat' first
    | intro _
    | with_reducible first | assumption | apply keeps_fold | apply keeps_fold_fst | apply keeps_fold_visit
                           | apply wr_keeps
    | with_reducible first | apply keeps_done | apply keeps_accepted | apply keepsOut_next
                           | apply keeps_ite | apply keepsOut_ite | apply keeps_ite_eff | apply keeps_ite_fst
    | split | simp only [keeps_mk] | dsimp only

theorem putTriggers_keeps (hs : Keeps s0 s) : Keeps s0 (putTriggers s v hub mask) := by
  unfold putTriggers
  repeat' first
    | intro _
    | with_reducible first | assumption | apply keeps_fold | apply keeps_fold_fst | apply keeps_fold_visit
                           | apply wr_keeps
    | with_reducible first | apply keeps_done | apply keeps_accepted | apply keepsOut_next
                           | apply keeps_ite | apply keepsOut_ite | apply keeps_ite_eff | apply keeps_ite_fst
    | split | simp only [keeps_mk] | dsimp only

theorem putBuckets_keeps (hs : Keeps s0 s) : Keeps s0 (putBuckets s v burst first) := by
  unfold putBuckets
  repeat' first
    | intro _
    | with_reducible first | assumption | apply keeps_fold | apply keeps_fold_fst | apply keeps_fold_visit
                           | apply setSw_keeps
    | with_reducible first | apply keeps_done | apply keeps_accepted | apply keepsOut_next
                           | apply keeps_ite | apply keepsOut_ite | apply keeps_ite_eff | apply keeps_ite_fst
    | split | simp only [keeps_mk] | dsimp only

theorem applyShares_keeps (hs : Keeps s0 s) : Keeps s0 (applyShares s v xs) := by
  unfold applyShares
  repeat' first
    | intro _
    | with_reducible first | assumption | apply keeps_fold | apply keeps_fold_fst | apply keeps_fold_visit
                           | apply putShares_keeps | apply putTriggers_keeps | apply putBuckets_keeps
                           | apply setVi_keeps
    | with_reducible first | apply keeps_done | apply keeps_accepted | apply keepsOut_next
                           | apply keeps_ite | apply keepsOut_ite | apply keeps_ite_eff | apply keeps_ite_fst
    | split | simp only [keeps_mk] | dsimp only

theorem effectShareApply_keeps (ht : Keeps s0 t) : Keeps s0 (effectShareApply x t).state := by
  unfold effectShareApply
  repeat' with_reducible
    first | assumption | apply Effect_accepted_keeps | apply setVi_keeps

theorem execShareApply_keeps (hs : Keeps s0 s) : KeepsOut s0 (execShareApply c s) := by
  unfold execShareApply
  repeat' first
    | intro _
    | with_reducible first | assumption | apply keeps_fold | apply keeps_fold_fst | apply keeps_fold_visit
                           | apply command_keeps | apply effectShareApply_keeps
    | with_reducible first | apply keeps_done | apply keeps_accepted | apply keepsOut_next
                           | apply keeps_ite | apply keepsOut_ite | apply keeps_ite_eff | apply keeps_ite_fst
    | split | simp only [keeps_mk] | dsimp only

theorem execShareApplyDone_keeps (hs : Keeps s0 s) : KeepsOut s0 (execShareApplyDone die s) := by
  unfold execShareApplyDone
  repeat' first
    | with_reducible first | assumption | apply keepsOut_next | apply finish_keeps | apply applyShares_keeps
    | split | dsimp only

theorem effectShareClearCounters_keeps (ht : Keeps s0 t) : Keeps s0 (effectShareClearCounters x t).state := by
  unfold effectShareClearCounters
  repeat' first
    | with_reducible first | assumption | apply Effect_done_keeps | apply clearInsts_keeps | apply clearRegs_keeps
    | split | dsimp only

theorem execShareClearCounters_keeps (hs : Keeps s0 s) : KeepsOut s0 (execShareClearCounters c s) := by
  unfold execShareClearCounters
  repeat' first
    | intro _
    | with_reducible first | assumption | apply keeps_fold | apply keeps_fold_fst | apply keeps_fold_visit
                           | apply command_keeps | apply effectShareClearCounters_keeps
    | with_reducible first | apply keeps_done | apply keeps_accepted | apply keepsOut_next
                           | apply keeps_ite | apply keepsOut_ite | apply keeps_ite_eff | apply keeps_ite_fst
    | split | simp only [keeps_mk] | dsimp only

theorem startQuiesce_keeps {s : State} {v : Nat} {abort killed : Bool} {since : Nat} (hs : Keeps s0 s) : Keeps s0
    (startQuiesce s v abort killed since) := by
  unfold startQuiesce
  repeat' first
    | intro _
    | with_reducible first | assumption | apply keeps_fold | apply keeps_fold_fst | apply keeps_fold_visit
                           | apply quiesceReads_keeps | apply setVi_keeps | apply wr_keeps | apply viField_keeps
                           | apply enterVi_keeps | apply pelAbort_keeps | apply dispatch_keeps
    | with_reducible first | apply keeps_done | apply keeps_accepted | apply keepsOut_next | apply keepsOut_getD
                           | apply keeps_ite | apply keepsOut_ite | apply keeps_ite_eff | apply keeps_ite_fst
    | split | simp only [keeps_mk] | dsimp only

theorem effectQuiesce_keeps (ht : Keeps s0 t) : Keeps s0 (effectQuiesce x t).state := by
  unfold effectQuiesce
  repeat' with_reducible
    first | assumption | apply Effect_done_keeps | apply startQuiesce_keeps

theorem execQuiesce_keeps (hs : Keeps s0 s) : KeepsOut s0 (execQuiesce c s) := by
  unfold execQuiesce
  repeat' first
    | intro _
    | with_reducible first | assumption | apply keeps_fold | apply keeps_fold_fst | apply keeps_fold_visit
                           | apply command_keeps | apply effectQuiesce_keeps
    | with_reducible first | apply keeps_done | apply keeps_accepted | apply keepsOut_next
                           | apply keeps_ite | apply keepsOut_ite | apply keeps_ite_eff | apply keeps_ite_fst
    | split | simp only [keeps_mk] | dsimp only

theorem effectKill_keeps (ht : Keeps s0 t) : Keeps s0 (effectKill x t).state := by
  unfold effectKill
  repeat' with_reducible
    first | assumption | apply startQuiesce_keeps | apply Effect_done_keeps | apply setXl_keeps

theorem cutJob_keeps {die : Nat} {s : State} {j : Job} (hs : Keeps s0 s) : Keeps s0 (cutJob die s j) := by
  unfold cutJob
  repeat' first
    | intro _
    | with_reducible first | assumption | apply keeps_fold | apply keeps_fold_fst | apply keeps_fold_visit
                           | apply logPage_keeps | apply putGuest_keeps | apply onRead_keeps
                           | apply rewindHead_keeps
    | with_reducible first | apply keeps_done | apply keeps_accepted | apply keepsOut_next | apply keepsOut_getD
                           | apply keeps_ite | apply keepsOut_ite | apply keeps_ite_eff | apply keeps_ite_fst
    | split | simp only [keeps_mk] | dsimp only

theorem execKill_keeps (hs : Keeps s0 s) : KeepsOut s0 (execKill c s) := by
  unfold execKill
  repeat' first
    | intro _
    | with_reducible first | assumption | apply keeps_fold | apply keeps_fold_fst | apply keeps_fold_visit
                           | apply command_keeps | apply effectKill_keeps
    | with_reducible first | apply keeps_done | apply keeps_accepted | apply keepsOut_next
                           | apply keeps_ite | apply keepsOut_ite | apply keeps_ite_eff | apply keeps_ite_fst
    | split | simp only [keeps_mk] | dsimp only

theorem execKillWriteCut_keeps {vi : Nat} {s : State} (hs : Keeps s0 s) : KeepsOut s0 (execKillWriteCut vi s) := by
  unfold execKillWriteCut
  repeat' first
    | intro _
    | with_reducible first | assumption | apply keeps_fold | apply keeps_fold_fst | apply keeps_fold_visit
                           | apply cutJob_keeps | apply incr_keeps | apply setXl_keeps
    | with_reducible first | apply keeps_done | apply keeps_accepted | apply keepsOut_next | apply keepsOut_getD
                           | apply keeps_ite | apply keepsOut_ite | apply keeps_ite_eff | apply keeps_ite_fst
    | split | simp only [keeps_mk] | dsimp only

theorem reachQuiesced_keeps (hs : Keeps s0 s) : Keeps s0 (reachQuiesced s v) := by
  unfold reachQuiesced
  repeat' first
    | with_reducible first | assumption | apply viEvent_keeps | apply enterVi_keeps | apply wr_keeps
                           | apply viField_keeps
    | split | dsimp only

theorem execViPartQuiesced_keeps (hs : Keeps s0 s) : KeepsOut s0 (execViPartQuiesced vi part s) := by
  unfold execViPartQuiesced
  repeat' first
    | with_reducible first | assumption | apply keepsOut_next | apply wr_keeps | apply recordsOff_keeps
                           | apply reachQuiesced_keeps
    | split | dsimp only

theorem execQtimeoutExpiry_keeps (hs : Keeps s0 s) : KeepsOut s0 (execQtimeoutExpiry vi s) := by
  unfold execQtimeoutExpiry
  repeat' first
    | with_reducible first | assumption | apply keepsOut_next | apply setVi_keeps | apply viEvent_keeps
                           | apply tickPage_keeps | apply record_keeps
    | split | dsimp only

theorem dropWaiting_keeps (hs : Keeps s0 s) : Keeps s0 (dropWaiting s v) := by
  unfold dropWaiting
  repeat' first
    | intro _
    | with_reducible first | assumption | apply keeps_fold | apply keeps_fold_fst | apply keeps_fold_visit
                           | apply incr_keeps | apply setSw_keeps
    | with_reducible first | apply keeps_done | apply keeps_accepted | apply keepsOut_next
                           | apply keeps_ite | apply keepsOut_ite | apply keeps_ite_eff | apply keeps_ite_fst
    | split | simp only [keeps_mk] | dsimp only

theorem clearVi_keeps {s : State} {v : Nat} (hs : Keeps s0 s) : Keeps s0 (clearVi s v) := by
  unfold clearVi
  repeat' first
    | intro _
    | with_reducible first | assumption | apply keeps_fold | apply keeps_fold_fst | apply keeps_fold_visit
                           | apply flowEvent_keeps | apply setSlice_keeps | apply clearRegs_keeps
                           | apply setXl_keeps | apply dropWaiting_keeps | apply setLog_keeps | apply setVi_keeps
                           | apply dispatch_keeps | apply viField_keeps
    | with_reducible first | apply keeps_done | apply keeps_accepted | apply keepsOut_next | apply keepsOut_getD
                           | apply keeps_ite | apply keepsOut_ite | apply keeps_ite_eff | apply keeps_ite_fst
    | split | simp only [keeps_mk] | dsimp only

theorem effectViReset_keeps (ht : Keeps s0 t) : Keeps s0 (effectViReset x t).state := by
  unfold effectViReset
  repeat' with_reducible
    first | assumption | apply Effect_done_keeps | apply enterVi_keeps

theorem execViReset_keeps (hs : Keeps s0 s) : KeepsOut s0 (execViReset c s) := by
  unfold execViReset
  repeat' first
    | intro _
    | with_reducible first | assumption | apply keeps_fold | apply keeps_fold_fst | apply keeps_fold_visit
                           | apply command_keeps | apply effectViReset_keeps
    | with_reducible first | apply keeps_done | apply keeps_accepted | apply keepsOut_next
                           | apply keeps_ite | apply keepsOut_ite | apply keeps_ite_eff | apply keeps_ite_fst
    | split | simp only [keeps_mk] | dsimp only

theorem execViResetDone_keeps (hs : Keeps s0 s) : KeepsOut s0 (execViResetDone vi s) := by
  unfold execViResetDone
  repeat' first
    | with_reducible first | assumption | apply keepsOut_next | apply enterVi_keeps | apply clearVi_keeps
    | split | dsimp only

theorem freeKeys_keeps (hs : Keeps s0 s) : Keeps s0 (freeKeys v s hub) := by
  unfold freeKeys
  repeat' first
    | intro _
    | with_reducible first | assumption | apply keeps_fold | apply keeps_fold_fst | apply keeps_fold_visit
                           | apply countSlots_keeps | apply wr_keeps | apply dropNext_keeps | apply emptySlot_keeps
    | with_reducible first | apply keeps_done | apply keeps_accepted | apply keepsOut_next
                           | apply keeps_ite | apply keepsOut_ite | apply keeps_ite_eff | apply keeps_ite_fst
    | split | simp only [keeps_mk] | dsimp only

theorem freeRecords_keeps (hs : Keeps s0 s) : Keeps s0 (freeRecords v s hub) := by
  unfold freeRecords
  repeat' first
    | intro _
    | with_reducible first | assumption | apply keeps_fold | apply keeps_fold_fst | apply keeps_fold_visit
                           | apply wr_keeps | apply putRec_keeps
    | with_reducible first | apply keeps_done | apply keeps_accepted | apply keepsOut_next
                           | apply keeps_ite | apply keepsOut_ite | apply keeps_ite_eff | apply keeps_ite_fst
    | split | dsimp only

theorem moveVi_keeps {s : State} {v old new : Nat} (hs : Keeps s0 s) : Keeps s0 (moveVi s v old new) := by
  unfold moveVi
  repeat' first
    | intro _
    | with_reducible first | assumption | apply keeps_fold | apply keeps_fold_fst | apply keeps_fold_visit
                           | apply wr_keeps
    | with_reducible first | apply keeps_done | apply keeps_accepted | apply keepsOut_next | apply keepsOut_getD
                           | apply keeps_ite | apply keepsOut_ite | apply keeps_ite_eff | apply keeps_ite_fst
    | split | simp only [keeps_mk] | dsimp only

theorem effectViDestroy_keeps {x : Ctx} {t : State} (ht : Keeps s0 t) : Keeps s0 (effectViDestroy x t).state := by
  unfold effectViDestroy
  repeat' first
    | intro _
    | with_reducible first | assumption | apply keeps_fold | apply keeps_fold_fst | apply keeps_fold_visit
                           | apply clearVi_keeps | apply setXl_keeps | apply freeRecords_keeps
                           | apply freeKeys_keeps | apply putTriggers_keeps | apply putShares_keeps
                           | apply putBuckets_keeps | apply setVi_keeps | apply wr_keeps | apply moveVi_keeps
                           | apply hwEvent_keeps | apply Effect_done_keeps
    | with_reducible first | apply keeps_done | apply keeps_accepted | apply keepsOut_next | apply keepsOut_getD
                           | apply keeps_ite | apply keepsOut_ite | apply keeps_ite_eff | apply keeps_ite_fst
    | split | simp only [keeps_mk] | dsimp only

theorem execViDestroy_keeps (hs : Keeps s0 s) : KeepsOut s0 (execViDestroy c s) := by
  unfold execViDestroy
  repeat' first
    | intro _
    | with_reducible first | assumption | apply keeps_fold | apply keeps_fold_fst | apply keeps_fold_visit
                           | apply command_keeps | apply effectViDestroy_keeps
    | with_reducible first | apply keeps_done | apply keeps_accepted | apply keepsOut_next
                           | apply keeps_ite | apply keepsOut_ite | apply keeps_ite_eff | apply keeps_ite_fst
    | split | simp only [keeps_mk] | dsimp only

theorem effectViCreate_keeps {x : Ctx} {t0 : State} (ht0 : Keeps s0 t0) : Keeps s0 (effectViCreate x t0).state := by
  unfold effectViCreate
  repeat' first
    | intro _
    | with_reducible first | assumption | apply keeps_fold | apply keeps_fold_fst | apply keeps_fold_visit
                           | apply moveVi_keeps | apply putShares_keeps | apply setVi_keeps | apply wr_keeps
                           | apply putBuckets_keeps | apply viEvent_keeps | apply Effect_done_keeps
    | with_reducible first | apply keeps_done | apply keeps_accepted | apply keepsOut_next | apply keepsOut_getD
                           | apply keeps_ite | apply keepsOut_ite | apply keeps_ite_eff | apply keeps_ite_fst
    | split | simp only [keeps_mk] | dsimp only

theorem execViCreate_keeps (hs : Keeps s0 s) : KeepsOut s0 (execViCreate c s) := by
  unfold execViCreate
  repeat' first
    | intro _
    | with_reducible first | assumption | apply keeps_fold | apply keeps_fold_fst | apply keeps_fold_visit
                           | apply command_keeps | apply effectViCreate_keeps
    | with_reducible first | apply keeps_done | apply keeps_accepted | apply keepsOut_next
                           | apply keeps_ite | apply keepsOut_ite | apply keeps_ite_eff | apply keeps_ite_fst
    | split | simp only [keeps_mk] | dsimp only

theorem resumeStreams_keeps (hs : Keeps s0 s) : Keeps s0 (resumeStreams v s) := by
  unfold resumeStreams
  repeat' first
    | intro _
    | with_reducible first | assumption | apply keeps_fold | apply keeps_fold_fst | apply keeps_fold_visit
    | with_reducible first | apply keeps_done | apply keeps_accepted | apply keepsOut_next
                           | apply keeps_ite | apply keepsOut_ite | apply keeps_ite_eff | apply keeps_ite_fst
    | split | simp only [keeps_mk] | dsimp only

theorem resumeDets_keeps (hs : Keeps s0 s) : Keeps s0 (resumeDets v s) := by
  unfold resumeDets
  repeat' first
    | intro _
    | with_reducible first | assumption | apply keeps_fold | apply keeps_fold_fst | apply keeps_fold_visit
    | with_reducible first | apply keeps_done | apply keeps_accepted | apply keepsOut_next
                           | apply keeps_ite | apply keepsOut_ite | apply keeps_ite_eff | apply keeps_ite_fst
    | split | simp only [keeps_mk] | dsimp only

theorem resumeRx_keeps (hs : Keeps s0 s) : Keeps s0 (resumeRx v s) := by
  unfold resumeRx
  repeat' first
    | intro _
    | with_reducible first | assumption | apply keeps_fold | apply keeps_fold_fst | apply keeps_fold_visit
    | with_reducible first | apply keeps_done | apply keeps_accepted | apply keepsOut_next
                           | apply keeps_ite | apply keepsOut_ite | apply keeps_ite_eff | apply keeps_ite_fst
    | split | simp only [keeps_mk] | dsimp only

theorem effectViRun_keeps (ht : Keeps s0 t) : Keeps s0 (effectViRun x t).state := by
  unfold effectViRun
  repeat' first
    | with_reducible first | assumption | apply resumeRx_keeps | apply resumeDets_keeps | apply resumeStreams_keeps
                           | apply setVi_keeps | apply hwEvent_keeps | apply viField_keeps | apply Effect_done_keeps
                           | apply dispatch_keeps | apply enterVi_keeps
    | split | dsimp only

theorem execViRun_keeps (hs : Keeps s0 s) : KeepsOut s0 (execViRun c s) := by
  unfold execViRun
  repeat' first
    | intro _
    | with_reducible first | assumption | apply keeps_fold | apply keeps_fold_fst | apply keeps_fold_visit
                           | apply command_keeps | apply effectViRun_keeps
    | with_reducible first | apply keeps_done | apply keeps_accepted | apply keepsOut_next
                           | apply keeps_ite | apply keepsOut_ite | apply keeps_ite_eff | apply keeps_ite_fst
    | split | simp only [keeps_mk] | dsimp only

theorem effectMigrate_keeps (ht : Keeps s0 t) : Keeps s0 (effectMigrate x t).state := by
  unfold effectMigrate
  repeat' with_reducible
    first | assumption | apply setVi_keeps | apply Effect_done_keeps | apply enterVi_keeps | apply viField_keeps

theorem execMigrate_keeps (hs : Keeps s0 s) : KeepsOut s0 (execMigrate c s) := by
  unfold execMigrate
  repeat' first
    | intro _
    | with_reducible first | assumption | apply keeps_fold | apply keeps_fold_fst | apply keeps_fold_visit
                           | apply command_keeps | apply effectMigrate_keeps
    | with_reducible first | apply keeps_done | apply keeps_accepted | apply keepsOut_next
                           | apply keeps_ite | apply keepsOut_ite | apply keeps_ite_eff | apply keeps_ite_fst
    | split | simp only [keeps_mk] | dsimp only

theorem execMigrationCutAt_keeps (hs : Keeps s0 s) : KeepsOut s0 (execMigrationCutAt vi s) := by
  unfold execMigrationCutAt
  repeat' first
    | with_reducible first | assumption | apply keepsOut_next | apply viEvent_keeps | apply setVi_keeps
    | split | dsimp only

theorem execMigrationGraceEnd_keeps (hs : Keeps s0 s) : KeepsOut s0 (execMigrationGraceEnd vi s) := by
  unfold execMigrationGraceEnd
  repeat' first
    | with_reducible first | assumption | apply keepsOut_next | apply startQuiesce_keeps
    | split | dsimp only

theorem effectViSave_keeps (ht : Keeps s0 t) : Keeps s0 (effectViSave x t).state := by
  unfold effectViSave
  repeat' with_reducible
    first | assumption | apply Effect_accepted_keeps

theorem execViSave_keeps (hs : Keeps s0 s) : KeepsOut s0 (execViSave c s) := by
  unfold execViSave
  repeat' first
    | intro _
    | with_reducible first | assumption | apply keeps_fold | apply keeps_fold_fst | apply keeps_fold_visit
                           | apply command_keeps | apply effectViSave_keeps
    | with_reducible first | apply keeps_done | apply keeps_accepted | apply keepsOut_next
                           | apply keeps_ite | apply keepsOut_ite | apply keeps_ite_eff | apply keeps_ite_fst
    | split | simp only [keeps_mk] | dsimp only

theorem execViSaveDone_keeps (hs : Keeps s0 s) : KeepsOut s0 (execViSaveDone die s) := by
  unfold execViSaveDone
  repeat' first
    | with_reducible first | assumption | apply keepsOut_next | apply finish_keeps | apply writeBytes_keeps
    | split | dsimp only

theorem effectViRestore_keeps (ht : Keeps s0 t) : Keeps s0 (effectViRestore x t).state := by
  unfold effectViRestore
  repeat' with_reducible
    first | assumption | apply Effect_accepted_keeps

theorem execViRestore_keeps (hs : Keeps s0 s) : KeepsOut s0 (execViRestore c s) := by
  unfold execViRestore
  repeat' first
    | intro _
    | with_reducible first | assumption | apply keeps_fold | apply keeps_fold_fst | apply keeps_fold_visit
                           | apply command_keeps | apply effectViRestore_keeps
    | with_reducible first | apply keeps_done | apply keeps_accepted | apply keepsOut_next
                           | apply keeps_ite | apply keepsOut_ite | apply keeps_ite_eff | apply keeps_ite_fst
    | split | simp only [keeps_mk] | dsimp only

theorem restoreBlock_keeps (hs : Keeps s0 s) : Keeps s0 (restoreBlock s v applies b).1 := by
  unfold restoreBlock
  repeat' first
    | with_reducible first | assumption | apply setXl_keeps | apply applyShares_keeps | apply setVi_keeps
                           | apply viEvent_keeps | apply viField_keeps
    | split | dsimp only

theorem execViRestoreDone_keeps (hs : Keeps s0 s) : KeepsOut s0 (execViRestoreDone die s) := by
  unfold execViRestoreDone
  repeat' first
    | with_reducible first | assumption | apply keepsOut_next | apply restoreBlock_keeps | apply finish_keeps
    | split | dsimp only

theorem startHart_keeps {s : State} {loc h : Nat} (hs : Keeps s0 s) : Keeps s0 (startHart s loc h) := by
  unfold startHart
  repeat' first
    | intro _
    | with_reducible first | assumption | apply keeps_fold | apply keeps_fold_fst | apply keeps_fold_visit
                           | apply wr_keeps
    | with_reducible first | apply keeps_done | apply keeps_accepted | apply keepsOut_next | apply keepsOut_getD
                           | apply keeps_ite | apply keepsOut_ite | apply keeps_ite_eff | apply keeps_ite_fst
    | split | simp only [keeps_mk] | dsimp only

theorem effectHartStart_keeps {x : Ctx} {t : State} (ht : Keeps s0 t) : Keeps s0 (effectHartStart x t).state := by
  unfold effectHartStart
  repeat' first
    | intro _
    | with_reducible first | assumption | apply keeps_fold | apply keeps_fold_fst | apply keeps_fold_visit
                           | apply startHart_keeps | apply Effect_done_keeps
    | with_reducible first | apply keeps_done | apply keeps_accepted | apply keepsOut_next | apply keepsOut_getD
                           | apply keeps_ite | apply keepsOut_ite | apply keeps_ite_eff | apply keeps_ite_fst
    | split | simp only [keeps_mk] | dsimp only

theorem execHartStart_keeps (hs : Keeps s0 s) : KeepsOut s0 (execHartStart c s) := by
  unfold execHartStart
  repeat' first
    | intro _
    | with_reducible first | assumption | apply keeps_fold | apply keeps_fold_fst | apply keeps_fold_visit
                           | apply command_keeps | apply effectHartStart_keeps
    | with_reducible first | apply keeps_done | apply keeps_accepted | apply keepsOut_next
                           | apply keeps_ite | apply keepsOut_ite | apply keeps_ite_eff | apply keeps_ite_fst
    | split | simp only [keeps_mk] | dsimp only

theorem effectHartStop_keeps (ht : Keeps s0 t) : Keeps s0 (effectHartStop x t).state := by
  unfold effectHartStop
  repeat' with_reducible
    first | assumption | apply Effect_done_keeps | apply wr_keeps | apply setSlice_keeps

theorem execHartStop_keeps (hs : Keeps s0 s) : KeepsOut s0 (execHartStop c s) := by
  unfold execHartStop
  repeat' first
    | intro _
    | with_reducible first | assumption | apply keeps_fold | apply keeps_fold_fst | apply keeps_fold_visit
                           | apply command_keeps | apply effectHartStop_keeps
    | with_reducible first | apply keeps_done | apply keeps_accepted | apply keepsOut_next
                           | apply keeps_ite | apply keepsOut_ite | apply keeps_ite_eff | apply keeps_ite_fst
    | split | simp only [keeps_mk] | dsimp only

theorem execMsiReceive_keeps (hs : Keeps s0 s) : KeepsOut s0 (execMsiReceive s) := by
  unfold execMsiReceive
  repeat' first
    | with_reducible first | assumption | apply keepsOut_next
    | split | simp only [keeps_mk] | dsimp only

theorem execHartTimerInterrupt_keeps (hs : Keeps s0 s) : KeepsOut s0 (execHartTimerInterrupt hart compare s) := by
  unfold execHartTimerInterrupt
  repeat' first
    | with_reducible first | assumption | apply keepsOut_next
    | split | simp only [keeps_mk] | dsimp only

theorem putHart_keeps {s : State} {v a : Nat} {b : Byte} (hs : Keeps s0 s) : Keeps s0 (putHart s v a b) := by
  unfold putHart
  repeat' first
    | intro _
    | with_reducible first | assumption | apply keeps_fold | apply keeps_fold_fst | apply keeps_fold_visit
                           | apply putVi_keeps
    | with_reducible first | apply keeps_done | apply keeps_accepted | apply keepsOut_next | apply keepsOut_getD
                           | apply keeps_ite | apply keepsOut_ite | apply keeps_ite_eff | apply keeps_ite_fst
    | split | simp only [keeps_mk] | dsimp only

theorem storeFrom_keeps {v gpa : Nat} {first : Bool} {bs : List Byte} {s : State} (hs : Keeps s0 s) :
    Keeps s0 (storeFrom v first gpa bs s) := by
  induction bs generalizing first gpa s with
  | nil => exact hs
  | cons b rest ih =>
    unfold storeFrom
    split
    · split
      · exact keeps_ite (putHart_keeps (keeps_ite (logPage_keeps hs) hs))
          (ih (putHart_keeps (keeps_ite (logPage_keeps hs) hs)))
      · exact keeps_mk.2 hs
    · exact keeps_mk.2 hs

theorem execHartStore_keeps {vi gpa : Nat} {bytes : List Byte} {s : State} (hs : Keeps s0 s) : KeepsOut s0
    (execHartStore vi gpa bytes s) := by
  unfold execHartStore
  repeat' first
    | intro _
    | with_reducible first | assumption | apply keeps_fold | apply keeps_fold_fst | apply keeps_fold_visit
                           | apply storeFrom_keeps
    | with_reducible first | apply keeps_done | apply keeps_accepted | apply keepsOut_next | apply keepsOut_getD
                           | apply keeps_ite | apply keepsOut_ite | apply keeps_ite_eff | apply keeps_ite_fst
    | split | simp only [keeps_mk] | dsimp only

end Sys2Proof.Machine
end

