-- ==== Sys2Proof/Laws/KeepsReset.lean ====
section
/-!
SUPPORT. Sys2Proof/Laws/KeepsReset.lean: every operation of Reset.lean keeps the queue, the variant and the canonical form of
memory.
-/
namespace Sys2Proof.Machine

variable {s0 s t : State} {die src cts dom mask hub island channel domA domB v status crc : Nat} {r : ResetSt} {w :
  Who} {x : Ctx} {a : Access} {c : Cmd} {bs : List Byte}

theorem showReset_keeps (hs : Keeps s0 s) : Keeps s0 (showReset s die) := by
  unfold showReset
  repeat' first
    | intro _
    | with_reducible first | assumption | apply keeps_fold | apply keeps_fold_fst | apply keeps_fold_visit
                           | apply wrAll_keeps | apply wr_keeps
    | with_reducible first | apply keeps_done | apply keeps_accepted | apply keepsOut_next
                           | apply keeps_ite | apply keepsOut_ite | apply keeps_ite_eff | apply keeps_ite_fst
    | split | simp only [keeps_mk] | dsimp only

theorem putRst_keeps (hs : Keeps s0 s) : Keeps s0 (putRst s die r) := by
  unfold putRst
  repeat' with_reducible
    first | assumption | apply showReset_keeps | apply setRst_keeps

theorem countCause_keeps (hs : Keeps s0 s) : Keeps s0 (countCause s die src cts) := by
  unfold countCause
  repeat' first
    | with_reducible first | assumption | apply wr_keeps
    | split | dsimp only

theorem clearPages_keeps (hs : Keeps s0 s) : Keeps s0 (clearPages s die dom) := by
  unfold clearPages
  repeat' first
    | with_reducible first | assumption
    | split | simp only [keeps_mk] | dsimp only

theorem endVaultJobs_keeps {die : Nat} {s : State} {hub : Nat} (hs : Keeps s0 s) : Keeps s0 (endVaultJobs die s hub)
    := by
  unfold endVaultJobs
  repeat' first
    | intro _
    | with_reducible first | assumption | apply keeps_fold | apply keeps_fold_fst | apply keeps_fold_visit
                           | apply putVault_keeps | apply setHdr_keeps | apply finish_keeps
    | with_reducible first | apply keeps_done | apply keeps_accepted | apply keepsOut_next | apply keepsOut_getD
                           | apply keeps_ite | apply keepsOut_ite | apply keeps_ite_eff | apply keeps_ite_fst
    | split | simp only [keeps_mk] | dsimp only

theorem stopPairs_keeps {s : State} {die : Nat} (hs : Keeps s0 s) : Keeps s0 (stopPairs s die) := by
  unfold stopPairs
  repeat' first
    | intro _
    | with_reducible first | assumption | apply keeps_fold | apply keeps_fold_fst | apply keeps_fold_visit
                           | apply showPair_keeps
    | with_reducible first | apply keeps_done | apply keeps_accepted | apply keepsOut_next | apply keepsOut_getD
                           | apply keeps_ite | apply keepsOut_ite | apply keeps_ite_eff | apply keeps_ite_fst
    | split | simp only [keeps_mk] | dsimp only

theorem clearEngines_keeps {s : State} {die dom : Nat} (hs : Keeps s0 s) : Keeps s0 (clearEngines s die dom) := by
  unfold clearEngines
  repeat' first
    | intro _
    | with_reducible first | assumption | apply keeps_fold | apply keeps_fold_fst | apply keeps_fold_visit
                           | apply endVaultJobs_keeps | apply putVault_keeps | apply zeroiseAll_keeps
                           | apply setMech_keeps | apply setCad_keeps | apply setRt_keeps | apply stopPairs_keeps
                           | apply dropGates_keeps | apply setCtr_keeps | apply putCyRun_keeps | apply setTd_keeps
                           | apply putTd_keeps | apply setCo_keeps
    | with_reducible first | apply keeps_done | apply keeps_accepted | apply keepsOut_next | apply keepsOut_getD
                           | apply keeps_ite | apply keepsOut_ite | apply keeps_ite_eff | apply keeps_ite_fst
    | split | simp only [keeps_mk] | dsimp only

theorem loseDomain_keeps (hs : Keeps s0 s) : Keeps s0 (loseDomain die s dom) := by
  unfold loseDomain
  repeat' with_reducible
    first | assumption | apply clearPages_keeps | apply clearEngines_keeps

theorem unlockPages_keeps (hs : Keeps s0 s) : Keeps s0 (unlockPages s die) := by
  unfold unlockPages
  repeat' first
    | with_reducible first | assumption
    | split | simp only [keeps_mk] | dsimp only

theorem dieReach_keeps (hs : Keeps s0 s) : Keeps s0 (dieReach s die) := by
  unfold dieReach
  repeat' first
    | with_reducible first | assumption | apply unlockPages_keeps | apply setMech_keeps | apply setRst_keeps
    | split | simp only [keeps_mk] | dsimp only

theorem assertSource_keeps {s : State} {die src mask : Nat} (hs : Keeps s0 s) : Keeps s0 (assertSource s die src
    mask) := by
  unfold assertSource
  repeat' first
    | intro _
    | with_reducible first | assumption | apply keeps_fold | apply keeps_fold_fst | apply keeps_fold_visit
                           | apply countCause_keeps | apply tickSrc_keeps | apply keepBalls_keeps | apply wr_keeps
                           | apply loseDomain_keeps | apply unlockPages_keeps | apply putRst_keeps
                           | apply dieReach_keeps | apply hwEvent_keeps | apply showReset_keeps
                           | apply linesJudge_keeps | apply fireTrigger_keeps
    | with_reducible first | apply keeps_done | apply keeps_accepted | apply keepsOut_next | apply keepsOut_getD
                           | apply keeps_ite | apply keepsOut_ite | apply keeps_ite_eff | apply keeps_ite_fst
    | split | simp only [keeps_mk] | dsimp only

theorem coverSource_keeps {s : State} {die src mask : Nat} (hs : Keeps s0 s) : Keeps s0 (coverSource s die src mask)
    := by
  unfold coverSource
  repeat' first
    | intro _
    | with_reducible first | assumption | apply keeps_fold | apply keeps_fold_fst | apply keeps_fold_visit
                           | apply assertSource_keeps | apply setRst_keeps
    | with_reducible first | apply keeps_done | apply keeps_accepted | apply keepsOut_next | apply keepsOut_getD
                           | apply keeps_ite | apply keepsOut_ite | apply keeps_ite_eff | apply keeps_ite_fst
    | split | simp only [keeps_mk] | dsimp only

theorem releaseSource_keeps (hs : Keeps s0 s) : Keeps s0 (releaseSource s die src) := by
  unfold releaseSource
  repeat' first
    | with_reducible first | assumption | apply putRst_keeps
    | split | dsimp only

theorem endPulse_keeps {s : State} {die src time : Nat} (hs : Keeps s0 s) : Keeps s0 (endPulse s die src time) := by
  unfold endPulse
  repeat' first
    | intro _
    | with_reducible first | assumption | apply keeps_fold | apply keeps_fold_fst | apply keeps_fold_visit
                           | apply putRst_keeps
    | with_reducible first | apply keeps_done | apply keeps_accepted | apply keepsOut_next | apply keepsOut_getD
                           | apply keeps_ite | apply keepsOut_ite | apply keeps_ite_eff | apply keeps_ite_fst
    | split | dsimp only

theorem restartZones_keeps (hs : Keeps s0 s) : Keeps s0 (restartZones s hub) := by
  unfold restartZones
  repeat' first
    | intro _
    | with_reducible first | assumption | apply keeps_fold | apply keeps_fold_fst | apply keeps_fold_visit
                           | apply putZone_keeps
    | with_reducible first | apply keeps_done | apply keeps_accepted | apply keepsOut_next
                           | apply keeps_ite | apply keepsOut_ite | apply keeps_ite_eff | apply keeps_ite_fst
    | split | simp only [keeps_mk] | dsimp only

theorem coreUp_keeps {s : State} {hub p : Nat} (hs : Keeps s0 s) : Keeps s0 (coreUp s hub p) := by
  unfold coreUp
  repeat' first
    | intro _
    | with_reducible first | assumption | apply keeps_fold | apply keeps_fold_fst | apply keeps_fold_visit
                           | apply putPortState_keeps | apply wr_keeps
    | with_reducible first | apply keeps_done | apply keeps_accepted | apply keepsOut_next | apply keepsOut_getD
                           | apply keeps_ite | apply keepsOut_ite | apply keeps_ite_eff | apply keeps_ite_fst
    | split | simp only [keeps_mk] | dsimp only

theorem released_keeps {s : State} {die dom : Nat} (hs : Keeps s0 s) : Keeps s0 (released s die dom) := by
  unfold released
  repeat' first
    | intro _
    | with_reducible first | assumption | apply keeps_fold | apply keeps_fold_fst | apply keeps_fold_visit
                           | apply enterVault_keeps | apply setMech_keeps | apply wr_keeps
                           | apply refreshLease_keeps | apply timeReleased_keeps | apply linksReleased_keeps
                           | apply tandemReleased_keeps | apply coreUp_keeps | apply laneReleased_keeps
                           | apply restartZones_keeps | apply startHart_keeps
    | with_reducible first | apply keeps_done | apply keeps_accepted | apply keepsOut_next | apply keepsOut_getD
                           | apply keeps_ite | apply keepsOut_ite | apply keeps_ite_eff | apply keeps_ite_fst
    | split | simp only [keeps_mk] | dsimp only

theorem releaseDomain_keeps (hs : Keeps s0 s) : Keeps s0 (releaseDomain s die dom) := by
  unfold releaseDomain
  repeat' first
    | with_reducible first | assumption | apply putRst_keeps | apply tickSrc_keeps | apply incr_keeps | apply wr_keeps
                           | apply released_keeps | apply hwEvent_keeps | apply linesJudge_keeps
    | split | dsimp only

theorem tryRelease_keeps (hs : Keeps s0 s) : Keeps s0 (tryRelease s die) := by
  unfold tryRelease
  repeat' first
    | with_reducible first | assumption | apply releaseDomain_keeps
    | split | dsimp only

theorem execWalkGapExpiry_keeps (hs : Keeps s0 s) : KeepsOut s0 (execWalkGapExpiry die s) := by
  unfold execWalkGapExpiry
  repeat' first
    | with_reducible first | assumption | apply keepsOut_next | apply tryRelease_keeps | apply putRst_keeps
    | split | dsimp only

theorem execIslandLockStable_keeps {die island : Nat} {s : State} (hs : Keeps s0 s) : KeepsOut s0
    (execIslandLockStable die island s) := by
  unfold execIslandLockStable
  repeat' first
    | intro _
    | with_reducible first | assumption | apply keeps_fold | apply keeps_fold_fst | apply keeps_fold_visit
                           | apply putRst_keeps | apply wr_keeps | apply tryRelease_keeps | apply islandPorts_keeps
    | with_reducible first | apply keeps_done | apply keeps_accepted | apply keepsOut_next | apply keepsOut_getD
                           | apply keeps_ite | apply keepsOut_ite | apply keeps_ite_eff | apply keeps_ite_fst
    | split | simp only [keeps_mk] | dsimp only

theorem execIslandLockLoss_keeps (hs : Keeps s0 s) : KeepsOut s0 (execIslandLockLoss die island s) := by
  unfold execIslandLockLoss
  repeat' first
    | with_reducible first | assumption | apply keepsOut_next | apply putRst_keeps | apply wr_keeps
    | split | dsimp only

theorem execLockWaitExpiry_keeps (hs : Keeps s0 s) : KeepsOut s0 (execLockWaitExpiry die island s) := by
  unfold execLockWaitExpiry
  repeat' first
    | with_reducible first | assumption | apply keepsOut_next | apply wr_keeps | apply assertSource_keeps
                           | apply hwEvent_keeps
    | split | dsimp only

theorem execPorAssert_keeps (hs : Keeps s0 s) : KeepsOut s0 (execPorAssert s) := by
  unfold execPorAssert
  try dsimp only
  repeat' first
    | intro _
    | with_reducible first | assumption | apply keeps_fold | apply keeps_fold_fst | apply keeps_fold_visit
                           | apply setRst_keeps | apply refreshAll_keeps | apply showReset_keeps
    | with_reducible first | apply keeps_done | apply keeps_accepted | apply keepsOut_next
                           | apply keeps_ite | apply keepsOut_ite | apply keeps_ite_eff | apply keeps_ite_fst
    | split | simp only [keeps_mk] | dsimp only
  all_goals exact ⟨hs.pending, hs.variant, fun w => filter_wf _ (hs.mem w)⟩

theorem execPorRelease_keeps (hs : Keeps s0 s) : KeepsOut s0 (execPorRelease s) := by
  unfold execPorRelease
  repeat' first
    | intro _
    | with_reducible first | assumption | apply keeps_fold | apply keeps_fold_fst | apply keeps_fold_visit
                           | apply releaseSource_keeps
    | with_reducible first | apply keeps_done | apply keeps_accepted | apply keepsOut_next
                           | apply keeps_ite | apply keepsOut_ite | apply keeps_ite_eff | apply keeps_ite_fst
    | split | simp only [keeps_mk] | dsimp only

theorem execFuseSenseDone_keeps {s : State} (hs : Keeps s0 s) : KeepsOut s0 (execFuseSenseDone s) := by
  unfold execFuseSenseDone
  repeat' first
    | intro _
    | with_reducible first | assumption | apply keeps_fold | apply keeps_fold_fst | apply keeps_fold_visit
                           | apply refreshAll_keeps | apply putRst_keeps
    | with_reducible first | apply keeps_done | apply keeps_accepted | apply keepsOut_next | apply keepsOut_getD
                           | apply keeps_ite | apply keepsOut_ite | apply keeps_ite_eff | apply keeps_ite_fst
    | split | simp only [keeps_mk] | dsimp only

theorem loseSram_keeps (hs : Keeps s0 s) : Keeps s0 (loseSram s die) := by
  exact ⟨hs.pending, hs.variant, fun w => filter_wf _ (hs.mem w)⟩

theorem execBorAssert_keeps {die : Nat} {s : State} (hs : Keeps s0 s) : KeepsOut s0 (execBorAssert die s) := by
  unfold execBorAssert
  repeat' first
    | intro _
    | with_reducible first | assumption | apply keeps_fold | apply keeps_fold_fst | apply keeps_fold_visit
                           | apply coverSource_keeps | apply loseSram_keeps
    | with_reducible first | apply keeps_done | apply keeps_accepted | apply keepsOut_next | apply keepsOut_getD
                           | apply keeps_ite | apply keepsOut_ite | apply keeps_ite_eff | apply keeps_ite_fst
    | split | simp only [keeps_mk] | dsimp only

theorem execBorRelease_keeps (hs : Keeps s0 s) : KeepsOut s0 (execBorRelease die s) := by
  unfold execBorRelease
  repeat' first
    | with_reducible first | assumption | apply keepsOut_next | apply releaseSource_keeps
    | split | dsimp only

theorem execPinResetAssert_keeps {s : State} (hs : Keeps s0 s) : KeepsOut s0 (execPinResetAssert s) := by
  unfold execPinResetAssert
  repeat' first
    | intro _
    | with_reducible first | assumption | apply keeps_fold | apply keeps_fold_fst | apply keeps_fold_visit
                           | apply coverSource_keeps
    | with_reducible first | apply keeps_done | apply keeps_accepted | apply keepsOut_next | apply keepsOut_getD
                           | apply keeps_ite | apply keepsOut_ite | apply keeps_ite_eff | apply keeps_ite_fst
    | split | simp only [keeps_mk] | dsimp only

theorem execPinResetRelease_keeps (hs : Keeps s0 s) : KeepsOut s0 (execPinResetRelease s) := by
  unfold execPinResetRelease
  repeat' first
    | intro _
    | with_reducible first | assumption | apply keeps_fold | apply keeps_fold_fst | apply keeps_fold_visit
                           | apply releaseSource_keeps
    | with_reducible first | apply keeps_done | apply keeps_accepted | apply keepsOut_next
                           | apply keeps_ite | apply keepsOut_ite | apply keeps_ite_eff | apply keeps_ite_fst
    | split | simp only [keeps_mk] | dsimp only

theorem execCkfRelease_keeps {die : Nat} {s : State} (hs : Keeps s0 s) : KeepsOut s0 (execCkfRelease die s) := by
  unfold execCkfRelease
  repeat' first
    | intro _
    | with_reducible first | assumption | apply keeps_fold | apply keeps_fold_fst | apply keeps_fold_visit
                           | apply endPulse_keeps
    | with_reducible first | apply keeps_done | apply keeps_accepted | apply keepsOut_next | apply keepsOut_getD
                           | apply keeps_ite | apply keepsOut_ite | apply keeps_ite_eff | apply keeps_ite_fst
    | split | simp only [keeps_mk] | dsimp only

theorem execWdtExpiry_keeps (hs : Keeps s0 s) : KeepsOut s0 (execWdtExpiry die s) := by
  unfold execWdtExpiry
  repeat' first
    | with_reducible first | assumption | apply keepsOut_next | apply setMech_keeps | apply assertSource_keeps
    | split | dsimp only

theorem wdtEnds_keeps {s : State} {die : Nat} (hs : Keeps s0 s) : Keeps s0 (wdtEnds s die) := by
  unfold wdtEnds
  repeat' first
    | intro _
    | with_reducible first | assumption | apply keeps_fold | apply keeps_fold_fst | apply keeps_fold_visit
                           | apply endPulse_keeps
    | with_reducible first | apply keeps_done | apply keeps_accepted | apply keepsOut_next | apply keepsOut_getD
                           | apply keeps_ite | apply keepsOut_ite | apply keeps_ite_eff | apply keeps_ite_fst
    | split | simp only [keeps_mk] | dsimp only

theorem tick_keeps {s : State} (hs : Keeps s0 s) : Keeps s0 (tick s) := by
  unfold tick
  repeat' first
    | intro _
    | with_reducible first | assumption | apply keeps_fold | apply keeps_fold_fst | apply keeps_fold_visit
                           | apply idleTick_keeps | apply linkTraffic_keeps | apply cellsArrive_keeps
                           | apply levelWatch_keeps | apply wdtEnds_keeps
    | with_reducible first | apply keeps_done | apply keeps_accepted | apply keepsOut_next | apply keepsOut_getD
                           | apply keeps_ite | apply keepsOut_ite | apply keeps_ite_eff | apply keeps_ite_fst
    | split | simp only [keeps_mk] | dsimp only

theorem wdtKick_keeps {t : Target} {x : Nat} (hs : Keeps s0 s) : Keeps s0 (wdtKick w t x s) := by
  unfold wdtKick
  repeat' first
    | with_reducible first | assumption | apply setMech_keeps
    | split | dsimp only

theorem execWdtKickWrite_keeps (hs : Keeps s0 s) : KeepsOut s0 (execWdtKickWrite a s) := by
  unfold execWdtKickWrite
  repeat' first
    | intro _
    | with_reducible first | assumption | apply keeps_fold | apply keeps_fold_fst | apply keeps_fold_visit
                           | apply writeReg_keeps | apply wdtKick_keeps
    | with_reducible first | apply keeps_done | apply keeps_accepted | apply keepsOut_next
                           | apply keeps_ite | apply keepsOut_ite | apply keeps_ite_eff | apply keeps_ite_fst
    | split | simp only [keeps_mk] | dsimp only

theorem execHandshakeTimeout_keeps {die channel domA domB : Nat} {s : State} (hs : Keeps s0 s) : KeepsOut s0
    (execHandshakeTimeout die channel domA domB s) := by
  unfold execHandshakeTimeout
  repeat' first
    | intro _
    | with_reducible first | assumption | apply keeps_fold | apply keeps_fold_fst | apply keeps_fold_visit
                           | apply record_keeps | apply tickSrc_keeps | apply causedBy_keeps
                           | apply assertSource_keeps | apply wr_keeps
    | with_reducible first | apply keeps_done | apply keeps_accepted | apply keepsOut_next | apply keepsOut_getD
                           | apply keeps_ite | apply keepsOut_ite | apply keeps_ite_eff | apply keeps_ite_fst
    | split | simp only [keeps_mk] | dsimp only

theorem execLckRelease_keeps {die : Nat} {s : State} (hs : Keeps s0 s) : KeepsOut s0 (execLckRelease die s) := by
  unfold execLckRelease
  repeat' first
    | intro _
    | with_reducible first | assumption | apply keeps_fold | apply keeps_fold_fst | apply keeps_fold_visit
                           | apply endPulse_keeps
    | with_reducible first | apply keeps_done | apply keeps_accepted | apply keepsOut_next | apply keepsOut_getD
                           | apply keeps_ite | apply keepsOut_ite | apply keeps_ite_eff | apply keeps_ite_fst
    | split | simp only [keeps_mk] | dsimp only

theorem execDbgResetAssert_keeps (hs : Keeps s0 s) : KeepsOut s0 (execDbgResetAssert s) := by
  unfold execDbgResetAssert
  repeat' first
    | intro _
    | with_reducible first | assumption | apply keeps_fold | apply keeps_fold_fst | apply keeps_fold_visit
                           | apply assertSource_keeps
    | with_reducible first | apply keeps_done | apply keeps_accepted | apply keepsOut_next
                           | apply keeps_ite | apply keepsOut_ite | apply keeps_ite_eff | apply keeps_ite_fst
    | split | simp only [keeps_mk] | dsimp only

theorem execDbgResetRelease_keeps (hs : Keeps s0 s) : KeepsOut s0 (execDbgResetRelease s) := by
  unfold execDbgResetRelease
  repeat' first
    | intro _
    | with_reducible first | assumption | apply keeps_fold | apply keeps_fold_fst | apply keeps_fold_visit
                           | apply releaseSource_keeps
    | with_reducible first | apply keeps_done | apply keeps_accepted | apply keepsOut_next
                           | apply keeps_ite | apply keepsOut_ite | apply keeps_ite_eff | apply keeps_ite_fst
    | split | simp only [keeps_mk] | dsimp only

theorem effectSwrAssert_keeps (ht : Keeps s0 t) : Keeps s0 (effectSwrAssert x t).state := by
  unfold effectSwrAssert
  repeat' with_reducible
    first | assumption | apply Effect_done_keeps | apply assertSource_keeps

theorem execSwrAssert_keeps (hs : Keeps s0 s) : KeepsOut s0 (execSwrAssert c s) := by
  unfold execSwrAssert
  repeat' first
    | intro _
    | with_reducible first | assumption | apply keeps_fold | apply keeps_fold_fst | apply keeps_fold_visit
                           | apply command_keeps | apply effectSwrAssert_keeps
    | with_reducible first | apply keeps_done | apply keeps_accepted | apply keepsOut_next
                           | apply keeps_ite | apply keepsOut_ite | apply keeps_ite_eff | apply keeps_ite_fst
    | split | simp only [keeps_mk] | dsimp only

theorem dropSwr_keeps (hs : Keeps s0 s) : Keeps s0 (dropSwr s die mask) := by
  unfold dropSwr
  repeat' with_reducible
    first | assumption | apply putRst_keeps

theorem effectSwrRelease_keeps (ht : Keeps s0 t) : Keeps s0 (effectSwrRelease x t).state := by
  unfold effectSwrRelease
  repeat' with_reducible
    first | assumption | apply Effect_done_keeps | apply dropSwr_keeps

theorem execSwrRelease_keeps (hs : Keeps s0 s) : KeepsOut s0 (execSwrRelease c s) := by
  unfold execSwrRelease
  repeat' first
    | intro _
    | with_reducible first | assumption | apply keeps_fold | apply keeps_fold_fst | apply keeps_fold_visit
                           | apply command_keeps | apply effectSwrRelease_keeps
    | with_reducible first | apply keeps_done | apply keeps_accepted | apply keepsOut_next
                           | apply keeps_ite | apply keepsOut_ite | apply keeps_ite_eff | apply keeps_ite_fst
    | split | simp only [keeps_mk] | dsimp only

theorem effectSwrPulse_keeps (ht : Keeps s0 t) : Keeps s0 (effectSwrPulse x t).state := by
  unfold effectSwrPulse
  repeat' with_reducible
    first | assumption | apply Effect_done_keeps | apply assertSource_keeps

theorem execSwrPulse_keeps (hs : Keeps s0 s) : KeepsOut s0 (execSwrPulse c s) := by
  unfold execSwrPulse
  repeat' first
    | intro _
    | with_reducible first | assumption | apply keeps_fold | apply keeps_fold_fst | apply keeps_fold_visit
                           | apply command_keeps | apply effectSwrPulse_keeps
    | with_reducible first | apply keeps_done | apply keeps_accepted | apply keepsOut_next
                           | apply keeps_ite | apply keepsOut_ite | apply keeps_ite_eff | apply keeps_ite_fst
    | split | simp only [keeps_mk] | dsimp only

theorem execSwrPulseEnd_keeps {die : Nat} {s : State} (hs : Keeps s0 s) : KeepsOut s0 (execSwrPulseEnd die s) := by
  unfold execSwrPulseEnd
  repeat' first
    | intro _
    | with_reducible first | assumption | apply keeps_fold | apply keeps_fold_fst | apply keeps_fold_visit
                           | apply endPulse_keeps
    | with_reducible first | apply keeps_done | apply keeps_accepted | apply keepsOut_next | apply keepsOut_getD
                           | apply keeps_ite | apply keepsOut_ite | apply keeps_ite_eff | apply keeps_ite_fst
    | split | simp only [keeps_mk] | dsimp only

theorem effectForceRelease_keeps (ht : Keeps s0 t) : Keeps s0 (effectForceRelease x t).state := by
  unfold effectForceRelease
  repeat' with_reducible
    first | assumption | apply Effect_done_keeps | apply tryRelease_keeps | apply setRst_keeps

theorem execForceRelease_keeps (hs : Keeps s0 s) : KeepsOut s0 (execForceRelease c s) := by
  unfold execForceRelease
  repeat' first
    | intro _
    | with_reducible first | assumption | apply keeps_fold | apply keeps_fold_fst | apply keeps_fold_visit
                           | apply command_keeps | apply effectForceRelease_keeps
    | with_reducible first | apply keeps_done | apply keeps_accepted | apply keepsOut_next
                           | apply keeps_ite | apply keepsOut_ite | apply keeps_ite_eff | apply keeps_ite_fst
    | split | simp only [keeps_mk] | dsimp only

theorem clearCauses_keeps {t : Target} (hs : Keeps s0 s) : Keeps s0 (clearCauses t v s) := by
  unfold clearCauses
  repeat' first
    | intro _
    | with_reducible first | assumption | apply keeps_fold | apply keeps_fold_fst | apply keeps_fold_visit
                           | apply wr_keeps
    | with_reducible first | apply keeps_done | apply keeps_accepted | apply keepsOut_next
                           | apply keeps_ite | apply keepsOut_ite | apply keeps_ite_eff | apply keeps_ite_fst
    | split | simp only [keeps_mk] | dsimp only

theorem execResetCauseWrite_keeps (hs : Keeps s0 s) : KeepsOut s0 (execResetCauseWrite a s) := by
  unfold execResetCauseWrite
  repeat' first
    | intro _
    | with_reducible first | assumption | apply keeps_fold | apply keeps_fold_fst | apply keeps_fold_visit
                           | apply writeReg_keeps | apply clearCauses_keeps
    | with_reducible first | apply keeps_done | apply keeps_accepted | apply keepsOut_next
                           | apply keeps_ite | apply keepsOut_ite | apply keeps_ite_eff | apply keeps_ite_fst
    | split | simp only [keeps_mk] | dsimp only

theorem takeOptions_keeps {s : State} {die : Nat} {bs : List Byte} {status crc : Nat} (hs : Keeps s0 s) : Keeps s0
    (takeOptions s die bs status crc) := by
  unfold takeOptions
  repeat' first
    | intro _
    | with_reducible first | assumption | apply keeps_fold | apply keeps_fold_fst | apply keeps_fold_visit
                           | apply wr_keeps | apply wrAll_keeps | apply optCompare_keeps | apply hwEvent_keeps
                           | apply putRst_keeps
    | with_reducible first | apply keeps_done | apply keeps_accepted | apply keepsOut_next | apply keepsOut_getD
                           | apply keeps_ite | apply keepsOut_ite | apply keeps_ite_eff | apply keeps_ite_fst
    | split | simp only [keeps_mk] | dsimp only

theorem execOptionLoad_keeps (hs : Keeps s0 s) : KeepsOut s0 (execOptionLoad hub s) := by
  unfold execOptionLoad
  repeat' first
    | with_reducible first | assumption | apply keepsOut_next | apply takeOptions_keeps
    | split | dsimp only

theorem execOptionReceive_keeps {hub : Option Nat} (hs : Keeps s0 s) : KeepsOut s0 (execOptionReceive die hub s) := by
  unfold execOptionReceive
  repeat' first
    | with_reducible first | assumption | apply keepsOut_next | apply takeOptions_keeps
    | split | dsimp only

theorem effectPinFuse_keeps (ht : Keeps s0 t) : Keeps s0 (effectPinFuse x t).state := by
  unfold effectPinFuse
  repeat' with_reducible
    first | assumption | apply Effect_accepted_keeps | apply setRst_keeps

theorem execPinFuse_keeps (hs : Keeps s0 s) : KeepsOut s0 (execPinFuse c s) := by
  unfold execPinFuse
  repeat' first
    | intro _
    | with_reducible first | assumption | apply keeps_fold | apply keeps_fold_fst | apply keeps_fold_visit
                           | apply command_keeps | apply effectPinFuse_keeps
    | with_reducible first | apply keeps_done | apply keeps_accepted | apply keepsOut_next
                           | apply keeps_ite | apply keepsOut_ite | apply keeps_ite_eff | apply keeps_ite_fst
    | split | simp only [keeps_mk] | dsimp only

theorem execPinFuseDone_keeps (hs : Keeps s0 s) : KeepsOut s0 (execPinFuseDone hub s) := by
  unfold execPinFuseDone
  repeat' first
    | with_reducible first | assumption | apply keepsOut_next | apply wr_keeps | apply finish_keeps
                           | apply refreshAll_keeps
    | split | dsimp only

end Sys2Proof.Machine
end

