-- ==== Sys2Proof/Laws/KeepsMechanic.lean ====
section
/-!
SUPPORT. Sys2Proof/Laws/KeepsMechanic.lean: every operation of Mechanic.lean keeps the queue, the variant and the canonical form of
memory.
-/
namespace Sys2Proof.Machine

variable {s0 s t : State} {hub active trial left slot die cause word : Nat} {x : Ctx} {c : Cmd} {ok : Bool} {e : Nat ×
  List Byte} {w : Who} {a : Access}

theorem xbBegin_keeps (hs : Keeps s0 s) : Keeps s0 (xbBegin hub s) := by
  unfold xbBegin
  repeat' with_reducible
    first | assumption | apply setFlash_keeps | apply wr_keeps

theorem effectXbRead_keeps (ht : Keeps s0 t) : Keeps s0 (effectXbRead x t).state := by
  unfold effectXbRead
  repeat' with_reducible
    first | assumption | apply Effect_accepted_keeps | apply xbBegin_keeps

theorem execXbRead_keeps (hs : Keeps s0 s) : KeepsOut s0 (execXbRead c s) := by
  unfold execXbRead
  repeat' first
    | intro _
    | with_reducible first | assumption | apply keeps_fold | apply keeps_fold_fst | apply keeps_fold_visit
                           | apply command_keeps | apply effectXbRead_keeps
    | with_reducible first | apply keeps_done | apply keeps_accepted | apply keepsOut_next
                           | apply keeps_ite | apply keepsOut_ite | apply keeps_ite_eff | apply keeps_ite_fst
    | split | simp only [keeps_mk] | dsimp only

theorem effectXbProgram_keeps (ht : Keeps s0 t) : Keeps s0 (effectXbProgram x t).state := by
  unfold effectXbProgram
  repeat' with_reducible
    first | assumption | apply Effect_accepted_keeps | apply xbBegin_keeps

theorem execXbProgram_keeps (hs : Keeps s0 s) : KeepsOut s0 (execXbProgram c s) := by
  unfold execXbProgram
  repeat' first
    | intro _
    | with_reducible first | assumption | apply keeps_fold | apply keeps_fold_fst | apply keeps_fold_visit
                           | apply command_keeps | apply effectXbProgram_keeps
    | with_reducible first | apply keeps_done | apply keeps_accepted | apply keepsOut_next
                           | apply keeps_ite | apply keepsOut_ite | apply keeps_ite_eff | apply keeps_ite_fst
    | split | simp only [keeps_mk] | dsimp only

theorem effectXbErase_keeps (ht : Keeps s0 t) : Keeps s0 (effectXbErase x t).state := by
  unfold effectXbErase
  repeat' with_reducible
    first | assumption | apply Effect_accepted_keeps | apply xbBegin_keeps

theorem execXbErase_keeps (hs : Keeps s0 s) : KeepsOut s0 (execXbErase c s) := by
  unfold execXbErase
  repeat' first
    | intro _
    | with_reducible first | assumption | apply keeps_fold | apply keeps_fold_fst | apply keeps_fold_visit
                           | apply command_keeps | apply effectXbErase_keeps
    | with_reducible first | apply keeps_done | apply keeps_accepted | apply keepsOut_next
                           | apply keeps_ite | apply keepsOut_ite | apply keeps_ite_eff | apply keeps_ite_fst
    | split | simp only [keeps_mk] | dsimp only

theorem xbSpoil_keeps {s : State} {hub : Nat} {t : Ticket} (hs : Keeps s0 s) : Keeps s0 (xbSpoil s hub t) := by
  unfold xbSpoil
  repeat' first
    | intro _
    | with_reducible first | assumption | apply keeps_fold | apply keeps_fold_fst | apply keeps_fold_visit
                           | apply setFlash_keeps
    | with_reducible first | apply keeps_done | apply keeps_accepted | apply keepsOut_next | apply keepsOut_getD
                           | apply keeps_ite | apply keepsOut_ite | apply keeps_ite_eff | apply keeps_ite_fst
    | split | simp only [keeps_mk] | dsimp only

theorem execXbOperationDone_keeps {hub : Nat} {ok : Bool} {s : State} (hs : Keeps s0 s) : KeepsOut s0
    (execXbOperationDone hub ok s) := by
  unfold execXbOperationDone
  repeat' first
    | intro _
    | with_reducible first | assumption | apply keeps_fold | apply keeps_fold_fst | apply keeps_fold_visit
                           | apply wr_keeps | apply xbSpoil_keeps | apply record_keeps | apply incr_keeps
                           | apply tickPage_keeps | apply finish_keeps | apply updTouched_keeps
                           | apply setFlash_keeps
    | with_reducible first | apply keeps_done | apply keeps_accepted | apply keepsOut_next | apply keepsOut_getD
                           | apply keeps_ite | apply keepsOut_ite | apply keeps_ite_eff | apply keeps_ite_fst
    | split | simp only [keeps_mk] | dsimp only

theorem putSelector_keeps (hs : Keeps s0 s) : Keeps s0 (putSelector s hub active trial left) := by
  unfold putSelector
  repeat' with_reducible
    first | assumption | apply setFlash_keeps

theorem findLog_keeps (hs : Keeps s0 s) : Keeps s0 (findLog s hub) := by
  unfold findLog
  repeat' first
    | with_reducible first | assumption | apply wrAll_keeps
    | split | dsimp only

theorem execLogEntryProgram_keeps (hs : Keeps s0 s) : KeepsOut s0 (execLogEntryProgram hub s) := by
  unfold execLogEntryProgram
  repeat' first
    | with_reducible first | assumption | apply keepsOut_next | apply setFlash_keeps | apply wrAll_keeps
    | split | simp only [keeps_mk] | dsimp only

theorem measure_keeps (hs : Keeps s0 s) : Keeps s0 (measure hub s e) := by
  unfold measure
  repeat' first
    | intro _
    | with_reducible first | assumption | apply keeps_fold | apply keeps_fold_fst | apply keeps_fold_visit
                           | apply wr_keeps | apply putVault_keeps
    | with_reducible first | apply keeps_done | apply keeps_accepted | apply keepsOut_next
                           | apply keeps_ite | apply keepsOut_ite | apply keeps_ite_eff | apply keeps_ite_fst
    | split | simp only [keeps_mk] | dsimp only

theorem measureBoot_keeps (hs : Keeps s0 s) : Keeps s0 (measureBoot s hub slot) := by
  unfold measureBoot
  repeat' first
    | intro _
    | with_reducible first | assumption | apply keeps_fold | apply keeps_fold_fst | apply keeps_fold_visit
                           | apply measure_keeps
    | with_reducible first | apply keeps_done | apply keeps_accepted | apply keepsOut_next
                           | apply keeps_ite | apply keepsOut_ite | apply keeps_ite_eff | apply keeps_ite_fst
    | split | simp only [keeps_mk] | dsimp only

theorem haltCore_keeps (hs : Keeps s0 s) : Keeps s0 (haltCore s die cause) := by
  unfold haltCore
  repeat' with_reducible
    first | assumption | apply wr_keeps

theorem startCore_keeps {trial : Bool} (hs : Keeps s0 s) : Keeps s0 (startCore s die trial word) := by
  unfold startCore
  repeat' with_reducible
    first | assumption | apply pushLog_keeps | apply setMech_keeps | apply wr_keeps

theorem bootHub_keeps (hs : Keeps s0 s) : Keeps s0 (bootHub s hub) := by
  unfold bootHub
  repeat' first
    | with_reducible first | assumption | apply startCore_keeps | apply haltCore_keeps | apply putSelector_keeps
                           | apply findLog_keeps | apply measureBoot_keeps | apply setUpd_keeps
                           | apply putUpdState_keeps | apply wr_keeps
    | split | dsimp only

theorem bootAgent_keeps (hs : Keeps s0 s) : Keeps s0 (bootAgent s die) := by
  unfold bootAgent
  repeat' first
    | with_reducible first | assumption | apply haltCore_keeps | apply startCore_keeps | apply wr_keeps
    | split | dsimp only

theorem execMechanicBoot_keeps (hs : Keeps s0 s) : KeepsOut s0 (execMechanicBoot die s) := by
  unfold execMechanicBoot
  repeat' first
    | with_reducible first | assumption | apply keepsOut_next | apply bootHub_keeps | apply bootAgent_keeps
    | split | dsimp only

theorem restartCore_keeps (hs : Keeps s0 s) : Keeps s0 (restartCore s die slot) := by
  unfold restartCore
  repeat' with_reducible
    first | assumption | apply wr_keeps | apply refreshLease_keeps | apply setMech_keeps

theorem restartNext_keeps (hs : Keeps s0 s) : Keeps s0 (restartNext s hub) := by
  unfold restartNext
  repeat' first
    | with_reducible first | assumption | apply grantLease_keeps | apply restartCore_keeps
    | split | dsimp only

theorem restartStep_keeps (hs : Keeps s0 s) : Keeps s0 (restartStep die s hub) := by
  unfold restartStep
  repeat' first
    | with_reducible first | assumption | apply restartNext_keeps | apply setUpd_keeps
    | split | dsimp only

theorem renewLease_keeps {t : Target} {x : Nat} (hs : Keeps s0 s) : Keeps s0 (renewLease w t x s) := by
  unfold renewLease
  repeat' first
    | intro _
    | with_reducible first | assumption | apply keeps_fold | apply keeps_fold_fst | apply keeps_fold_visit
                           | apply setLease_keeps | apply sendLease_keeps | apply incr_keeps
    | with_reducible first | apply keeps_done | apply keeps_accepted | apply keepsOut_next
                           | apply keeps_ite | apply keepsOut_ite | apply keeps_ite_eff | apply keeps_ite_fst
    | split | simp only [keeps_mk] | dsimp only

theorem execMcRenewWrite_keeps (hs : Keeps s0 s) : KeepsOut s0 (execMcRenewWrite a s) := by
  unfold execMcRenewWrite
  repeat' first
    | intro _
    | with_reducible first | assumption | apply keeps_fold | apply keeps_fold_fst | apply keeps_fold_visit
                           | apply writeReg_keeps | apply renewLease_keeps
    | with_reducible first | apply keeps_done | apply keeps_accepted | apply keepsOut_next
                           | apply keeps_ite | apply keepsOut_ite | apply keeps_ite_eff | apply keeps_ite_fst
    | split | simp only [keeps_mk] | dsimp only

theorem refreshCand_keeps {t : Target} {x : Nat} (hs : Keeps s0 s) : Keeps s0 (refreshCand w t x s) := by
  unfold refreshCand
  repeat' first
    | intro _
    | with_reducible first | assumption | apply keeps_fold | apply keeps_fold_fst | apply keeps_fold_visit
                           | apply refreshLease_keeps | apply setMech_keeps | apply grantLease_keeps
                           | apply restartStep_keeps
    | with_reducible first | apply keeps_done | apply keeps_accepted | apply keepsOut_next
                           | apply keeps_ite | apply keepsOut_ite | apply keeps_ite_eff | apply keeps_ite_fst
    | split | simp only [keeps_mk] | dsimp only

theorem execMcCandWrite_keeps (hs : Keeps s0 s) : KeepsOut s0 (execMcCandWrite a s) := by
  unfold execMcCandWrite
  repeat' first
    | intro _
    | with_reducible first | assumption | apply keeps_fold | apply keeps_fold_fst | apply keeps_fold_visit
                           | apply writeReg_keeps | apply refreshCand_keeps
    | with_reducible first | apply keeps_done | apply keeps_accepted | apply keepsOut_next
                           | apply keeps_ite | apply keepsOut_ite | apply keeps_ite_eff | apply keeps_ite_fst
    | split | simp only [keeps_mk] | dsimp only

theorem execCandidacyLapse_keeps (hs : Keeps s0 s) : KeepsOut s0 (execCandidacyLapse die s) := by
  unfold execCandidacyLapse
  repeat' first
    | with_reducible first | assumption | apply keepsOut_next | apply refreshLease_keeps | apply setMech_keeps
    | split | dsimp only

theorem execLeadLeaseExpiry_keeps (hs : Keeps s0 s) : KeepsOut s0 (execLeadLeaseExpiry hub s) := by
  unfold execLeadLeaseExpiry
  repeat' first
    | with_reducible first | assumption | apply keepsOut_next | apply grantLease_keeps
    | split | dsimp only

theorem effectMcYield_keeps (ht : Keeps s0 t) : Keeps s0 (effectMcYield x t).state := by
  unfold effectMcYield
  repeat' first
    | with_reducible first | assumption | apply Effect_done_keeps | apply grantLease_keeps
    | split | dsimp only

theorem execMcYield_keeps (hs : Keeps s0 s) : KeepsOut s0 (execMcYield c s) := by
  unfold execMcYield
  repeat' first
    | intro _
    | with_reducible first | assumption | apply keeps_fold | apply keeps_fold_fst | apply keeps_fold_visit
                           | apply command_keeps | apply effectMcYield_keeps
    | with_reducible first | apply keeps_done | apply keeps_accepted | apply keepsOut_next
                           | apply keeps_ite | apply keepsOut_ite | apply keeps_ite_eff | apply keeps_ite_fst
    | split | simp only [keeps_mk] | dsimp only

theorem effectMcRestart_keeps (ht : Keeps s0 t) : Keeps s0 (effectMcRestart x t).state := by
  unfold effectMcRestart
  repeat' first
    | with_reducible first | assumption | apply Effect_done_keeps | apply restartCore_keeps
    | split | dsimp only

theorem execMcRestart_keeps (hs : Keeps s0 s) : KeepsOut s0 (execMcRestart c s) := by
  unfold execMcRestart
  repeat' first
    | intro _
    | with_reducible first | assumption | apply keeps_fold | apply keeps_fold_fst | apply keeps_fold_visit
                           | apply command_keeps | apply effectMcRestart_keeps
    | with_reducible first | apply keeps_done | apply keeps_accepted | apply keepsOut_next
                           | apply keeps_ite | apply keepsOut_ite | apply keeps_ite_eff | apply keeps_ite_fst
    | split | simp only [keeps_mk] | dsimp only

theorem effectMcAuthLoad_keeps (ht : Keeps s0 t) : Keeps s0 (effectMcAuthLoad x t).state := by
  unfold effectMcAuthLoad
  repeat' with_reducible
    first | assumption | apply Effect_done_keeps | apply setFlash_keeps

theorem execMcAuthLoad_keeps (hs : Keeps s0 s) : KeepsOut s0 (execMcAuthLoad c s) := by
  unfold execMcAuthLoad
  repeat' first
    | intro _
    | with_reducible first | assumption | apply keeps_fold | apply keeps_fold_fst | apply keeps_fold_visit
                           | apply command_keeps | apply effectMcAuthLoad_keeps
    | with_reducible first | apply keeps_done | apply keeps_accepted | apply keepsOut_next
                           | apply keeps_ite | apply keepsOut_ite | apply keeps_ite_eff | apply keeps_ite_fst
    | split | simp only [keeps_mk] | dsimp only

theorem effectDiePower_keeps (ht : Keeps s0 t) : Keeps s0 (effectDiePower x t).state := by
  unfold effectDiePower
  repeat' first
    | with_reducible first | assumption | apply setRst_keeps | apply Effect_accepted_keeps | apply assertSource_keeps
                           | apply loseSram_keeps
    | split | dsimp only

theorem execDiePower_keeps (hs : Keeps s0 s) : KeepsOut s0 (execDiePower c s) := by
  unfold execDiePower
  repeat' first
    | intro _
    | with_reducible first | assumption | apply keeps_fold | apply keeps_fold_fst | apply keeps_fold_visit
                           | apply command_keeps | apply effectDiePower_keeps
    | with_reducible first | apply keeps_done | apply keeps_accepted | apply keepsOut_next
                           | apply keeps_ite | apply keepsOut_ite | apply keeps_ite_eff | apply keeps_ite_fst
    | split | simp only [keeps_mk] | dsimp only

theorem execDiePowerDone_keeps (hs : Keeps s0 s) : KeepsOut s0 (execDiePowerDone die s) := by
  unfold execDiePowerDone
  repeat' first
    | with_reducible first | assumption | apply keepsOut_next | apply hwEvent_keeps | apply finish_keeps
    | split | dsimp only

theorem effectUpdVerify_keeps (ht : Keeps s0 t) : Keeps s0 (effectUpdVerify x t).state := by
  unfold effectUpdVerify
  repeat' with_reducible
    first | assumption | apply Effect_accepted_keeps | apply putUpdState_keeps

theorem execUpdVerify_keeps (hs : Keeps s0 s) : KeepsOut s0 (execUpdVerify c s) := by
  unfold execUpdVerify
  repeat' first
    | intro _
    | with_reducible first | assumption | apply keeps_fold | apply keeps_fold_fst | apply keeps_fold_visit
                           | apply command_keeps | apply effectUpdVerify_keeps
    | with_reducible first | apply keeps_done | apply keeps_accepted | apply keepsOut_next
                           | apply keeps_ite | apply keepsOut_ite | apply keeps_ite_eff | apply keeps_ite_fst
    | split | simp only [keeps_mk] | dsimp only

theorem effectUpdActivate_keeps (ht : Keeps s0 t) : Keeps s0 (effectUpdActivate x t).state := by
  unfold effectUpdActivate
  repeat' with_reducible
    first | assumption | apply putSelector_keeps | apply putUpdState_keeps | apply Effect_accepted_keeps
          | apply restartNext_keeps | apply setUpd_keeps

theorem execUpdActivate_keeps (hs : Keeps s0 s) : KeepsOut s0 (execUpdActivate c s) := by
  unfold execUpdActivate
  repeat' first
    | intro _
    | with_reducible first | assumption | apply keeps_fold | apply keeps_fold_fst | apply keeps_fold_visit
                           | apply command_keeps | apply effectUpdActivate_keeps
    | with_reducible first | apply keeps_done | apply keeps_accepted | apply keepsOut_next
                           | apply keeps_ite | apply keepsOut_ite | apply keeps_ite_eff | apply keeps_ite_fst
    | split | simp only [keeps_mk] | dsimp only

theorem effectUpdCommit_keeps (ht : Keeps s0 t) : Keeps s0 (effectUpdCommit x t).state := by
  unfold effectUpdCommit
  repeat' with_reducible
    first | assumption | apply Effect_accepted_keeps

theorem execUpdCommit_keeps (hs : Keeps s0 s) : KeepsOut s0 (execUpdCommit c s) := by
  unfold execUpdCommit
  repeat' first
    | intro _
    | with_reducible first | assumption | apply keeps_fold | apply keeps_fold_fst | apply keeps_fold_visit
                           | apply command_keeps | apply effectUpdCommit_keeps
    | with_reducible first | apply keeps_done | apply keeps_accepted | apply keepsOut_next
                           | apply keeps_ite | apply keepsOut_ite | apply keeps_ite_eff | apply keeps_ite_fst
    | split | simp only [keeps_mk] | dsimp only

theorem effectUpdAbort_keeps (ht : Keeps s0 t) : Keeps s0 (effectUpdAbort x t).state := by
  unfold effectUpdAbort
  repeat' with_reducible
    first | assumption | apply putSelector_keeps | apply Effect_accepted_keeps | apply restartNext_keeps
          | apply setUpd_keeps

theorem execUpdAbort_keeps (hs : Keeps s0 s) : KeepsOut s0 (execUpdAbort c s) := by
  unfold execUpdAbort
  repeat' first
    | intro _
    | with_reducible first | assumption | apply keeps_fold | apply keeps_fold_fst | apply keeps_fold_visit
                           | apply command_keeps | apply effectUpdAbort_keeps
    | with_reducible first | apply keeps_done | apply keeps_accepted | apply keepsOut_next
                           | apply keeps_ite | apply keepsOut_ite | apply keeps_ite_eff | apply keeps_ite_fst
    | split | simp only [keeps_mk] | dsimp only

theorem effectMcClearCounters_keeps (ht : Keeps s0 t) : Keeps s0 (effectMcClearCounters x t).state := by
  unfold effectMcClearCounters
  repeat' with_reducible
    first | assumption | apply Effect_done_keeps | apply clearRegs_keeps

theorem execMcClearCounters_keeps (hs : Keeps s0 s) : KeepsOut s0 (execMcClearCounters c s) := by
  unfold execMcClearCounters
  repeat' first
    | intro _
    | with_reducible first | assumption | apply keeps_fold | apply keeps_fold_fst | apply keeps_fold_visit
                           | apply command_keeps | apply effectMcClearCounters_keeps
    | with_reducible first | apply keeps_done | apply keeps_accepted | apply keepsOut_next
                           | apply keeps_ite | apply keepsOut_ite | apply keeps_ite_eff | apply keeps_ite_fst
    | split | simp only [keeps_mk] | dsimp only

end Sys2Proof.Machine
end

