-- ==== Sys2Proof/Laws/KeepsSensor.lean ====
section
/-!
SUPPORT. Sys2Proof/Laws/KeepsSensor.lean: every operation of Sensor.lean keeps the queue, the variant and the canonical form of
memory.
-/
namespace Sys2Proof.Machine

variable {s0 s t : State} {die n k hub line rail : Nat} {lo hi : Reg} {v current : Int} {samples : List (Nat × Int)}
  {r : RailSample} {rails : List RailSample} {w : Who} {x : Ctx} {c : Cmd}

theorem checkLimit_keeps (hs : Keeps s0 s) : Keeps s0 (checkLimit die n k lo hi v s) := by
  unfold checkLimit
  repeat' first
    | with_reducible first | assumption | apply wr_keeps | apply eventRec_keeps | apply tickPage_keeps
                           | apply pushLog_keeps | apply hwEvent_keeps
    | split | dsimp only

theorem takeSample_keeps (hs : Keeps s0 s) : Keeps s0 (takeSample die n v s) := by
  unfold takeSample
  repeat' with_reducible
    first | assumption | apply wrAll_keeps | apply checkLimit_keeps

theorem sweepOne_keeps (hs : Keeps s0 s) : Keeps s0 (sweepOne die samples s n) := by
  unfold sweepOne
  repeat' first
    | with_reducible first | assumption | apply takeSample_keeps | apply setMech_keeps | apply wr_keeps
    | split | dsimp only

theorem railTelemetry_keeps (hs : Keeps s0 s) : Keeps s0 (railTelemetry hub s r) := by
  unfold railTelemetry
  repeat' first
    | with_reducible first | assumption | apply wr_keeps | apply wrAll_keeps
    | split | dsimp only

theorem execSensorSweep_keeps {die : Nat} {samples : List (Nat × Int)} {rails : List RailSample} {s : State} (hs :
    Keeps s0 s) : KeepsOut s0 (execSensorSweep die samples rails s) := by
  unfold execSensorSweep
  repeat' first
    | intro _
    | with_reducible first | assumption | apply keeps_fold | apply keeps_fold_fst | apply keeps_fold_visit
                           | apply setMech_keeps | apply sweepOne_keeps | apply railTelemetry_keeps
    | with_reducible first | apply keeps_done | apply keeps_accepted | apply keepsOut_next | apply keepsOut_getD
                           | apply keeps_ite | apply keepsOut_ite | apply keeps_ite_eff | apply keeps_ite_fst
    | split | simp only [keeps_mk] | dsimp only

theorem execTripCurrentMeasure_keeps (hs : Keeps s0 s) : KeepsOut s0 (execTripCurrentMeasure hub line current s) := by
  unfold execTripCurrentMeasure
  repeat' first
    | with_reducible first | assumption | apply keepsOut_next | apply takeSample_keeps
    | split | dsimp only

theorem execAvsStep_keeps (hs : Keeps s0 s) : KeepsOut s0 (execAvsStep hub rail s) := by
  unfold execAvsStep
  repeat' first
    | with_reducible first | assumption | apply keepsOut_next | apply setRail_keeps | apply wr_keeps
                           | apply pushLog_keeps
    | split | dsimp only

theorem execPmbusTransferFail_keeps (hs : Keeps s0 s) : KeepsOut s0 (execPmbusTransferFail hub rail s) := by
  unfold execPmbusTransferFail
  repeat' first
    | with_reducible first | assumption | apply keepsOut_next | apply incr_keeps | apply wr_keeps
                           | apply pushLog_keeps | apply eventRec_keeps | apply tickPage_keeps
    | split | dsimp only

theorem execPmbAlert_keeps (hs : Keeps s0 s) : KeepsOut s0 (execPmbAlert hub s) := by
  unfold execPmbAlert
  repeat' first
    | with_reducible first | assumption | apply keepsOut_next | apply hwEvent_keeps
    | split | dsimp only

theorem railWrite_keeps {t : Target} {v : Nat} (hs : Keeps s0 s) : Keeps s0 (railWrite w t v s) := by
  unfold railWrite
  repeat' first
    | with_reducible first | assumption | apply setRail_keeps | apply writeT_keeps | apply wr_keeps
    | split | dsimp only

theorem effectRailSet_keeps (ht : Keeps s0 t) : Keeps s0 (effectRailSet x t).state := by
  unfold effectRailSet
  repeat' with_reducible
    first | assumption | apply Effect_done_keeps | apply wr_keeps

theorem execRailSet_keeps (hs : Keeps s0 s) : KeepsOut s0 (execRailSet c s) := by
  unfold execRailSet
  repeat' first
    | intro _
    | with_reducible first | assumption | apply keeps_fold | apply keeps_fold_fst | apply keeps_fold_visit
                           | apply command_keeps | apply effectRailSet_keeps
    | with_reducible first | apply keeps_done | apply keeps_accepted | apply keepsOut_next
                           | apply keeps_ite | apply keepsOut_ite | apply keeps_ite_eff | apply keeps_ite_fst
    | split | simp only [keeps_mk] | dsimp only

theorem effectRailClear_keeps (ht : Keeps s0 t) : Keeps s0 (effectRailClear x t).state := by
  unfold effectRailClear
  repeat' with_reducible
    first | assumption | apply Effect_done_keeps | apply wr_keeps

theorem execRailClear_keeps (hs : Keeps s0 s) : KeepsOut s0 (execRailClear c s) := by
  unfold execRailClear
  repeat' first
    | intro _
    | with_reducible first | assumption | apply keeps_fold | apply keeps_fold_fst | apply keeps_fold_visit
                           | apply command_keeps | apply effectRailClear_keeps
    | with_reducible first | apply keeps_done | apply keeps_accepted | apply keepsOut_next
                           | apply keeps_ite | apply keepsOut_ite | apply keeps_ite_eff | apply keeps_ite_fst
    | split | simp only [keeps_mk] | dsimp only

end Sys2Proof.Machine
end

