-- ==== Sys2Proof/Laws/KeepsCmdTable.lean ====
section
/-!
SUPPORT. Sys2Proof/Laws/KeepsCmdTable.lean: every operation of CmdTable.lean keeps the queue, the variant and the canonical form of
memory.
-/
namespace Sys2Proof.Machine

variable {s0 s : State} {op die cluster v : Nat} {c : Cmd} {b : Block} {view : Option Nat} {w : Who}

theorem cmdOfCapture_keeps (hs : Keeps s0 s) : ∀ o, (cmdOfCapture op c s) = some o → KeepsOut s0 o := by
  intro o h
  unfold cmdOfCapture at h
  repeat' split at h
  all_goals first
    | (cases h; done)
    | cases h; (with_reducible first | apply execCapEnable_keeps | apply execCapDisable_keeps
                                     | apply execCapTrigger_keeps | apply execCapReadout_keeps
                                     | apply execCapRelease_keeps | apply execCapClearCounters_keeps) <;> assumption

theorem cmdOfCaptureView_keeps (hs : Keeps s0 s) : ∀ o, (cmdOfCaptureView op c s) = some o → KeepsOut s0 o := by
  intro o h
  unfold cmdOfCaptureView at h
  repeat' split at h
  all_goals first
    | (cases h; done)
    | cases h; (with_reducible first | apply execCapTrigger_keeps | apply execCapReadout_keeps
                                     | apply execCapRelease_keeps | apply execCapClearCounters_keeps) <;> assumption

theorem cmdOfCoaster_keeps (hs : Keeps s0 s) : ∀ o, (cmdOfCoaster op c s) = some o → KeepsOut s0 o := by
  intro o h
  unfold cmdOfCoaster at h
  repeat' split at h
  all_goals first
    | (cases h; done)
    | cases h; (with_reducible first | apply execZoneLoad_keeps | apply execFrameLoad_keeps | apply execZoneOff_keeps
                                     | apply execZoneReset_keeps | apply execCoasterClearCounters_keeps) <;>
                                     assumption

theorem cmdOfCrank_keeps (hs : Keeps s0 s) : ∀ o, (cmdOfCrank op c s) = some o → KeepsOut s0 o := by
  intro o h
  unfold cmdOfCrank at h
  repeat' split at h
  all_goals first
    | (cases h; done)
    | cases h; (with_reducible first | apply execCrLoad_keeps | apply execCrStart_keeps | apply execCrStop_keeps
                                     | apply execCrRun_keeps | apply execCrStepMode_keeps | apply execCrStep_keeps
                                     | apply execCrFire_keeps | apply execOlcCommit_keeps | apply execForce_keeps
                                     | apply execUnforce_keeps | apply execCrUnload_keeps
                                     | apply execCrankClearCounters_keeps) <;> assumption

theorem cmdOfCrankView_keeps (hs : Keeps s0 s) : ∀ o, (cmdOfCrankView op c s) = some o → KeepsOut s0 o := by
  intro o h
  unfold cmdOfCrankView at h
  repeat' split at h
  all_goals first
    | (cases h; done)
    | cases h; (with_reducible first | apply execCrFire_keeps) <;> assumption

theorem cmdOfCrankTask_keeps (hs : Keeps s0 s) : ∀ o, (cmdOfCrankTask op c s) = some o → KeepsOut s0 o := by
  intro o h
  unfold cmdOfCrankTask at h
  repeat' split at h
  all_goals first
    | (cases h; done)
    | cases h; (with_reducible first | apply execTaskClearCounters_keeps) <;> assumption

theorem cmdOfCyclometer_keeps (hs : Keeps s0 s) : ∀ o, (cmdOfCyclometer op c s) = some o → KeepsOut s0 o := by
  intro o h
  unfold cmdOfCyclometer at h
  repeat' split at h
  all_goals first
    | (cases h; done)
    | cases h; (with_reducible first | apply execCyRun_keeps | apply execCyStop_keeps
                                     | apply execCyClearCounters_keeps) <;> assumption

theorem cmdOfDram_keeps (hs : Keeps s0 s) : ∀ o, (cmdOfDram op c s) = some o → KeepsOut s0 o := by
  intro o h
  unfold cmdOfDram at h
  repeat' split at h
  all_goals first
    | (cases h; done)
    | cases h; (with_reducible first | apply execDramClearCounters_keeps) <;> assumption

theorem cmdOfFilter_keeps (hs : Keeps s0 s) : ∀ o, (cmdOfFilter op c s) = some o → KeepsOut s0 o := by
  intro o h
  unfold cmdOfFilter at h
  repeat' split at h
  all_goals first
    | (cases h; done)
    | cases h; (with_reducible first | apply execProfileLoad_keeps | apply execFsAssign_keeps
                                     | apply execFilterClearCounters_keeps) <;> assumption

theorem cmdOfDetector_keeps (hs : Keeps s0 s) : ∀ o, (cmdOfDetector op c s) = some o → KeepsOut s0 o := by
  intro o h
  unfold cmdOfDetector at h
  repeat' split at h
  all_goals first
    | (cases h; done)
    | cases h; (with_reducible first | apply execDetEnable_keeps | apply execDetDisable_keeps
                                     | apply execDetTune_keeps | apply execDetDestRestart_keeps
                                     | apply execDetClearCounters_keeps) <;> assumption

theorem cmdOfFrameAuth_keeps (hs : Keeps s0 s) : ∀ o, (cmdOfFrameAuth op c s) = some o → KeepsOut s0 o := by
  intro o h
  unfold cmdOfFrameAuth at h
  repeat' split at h
  all_goals first
    | (cases h; done)
    | cases h; (with_reducible first | apply execFaClearCounters_keeps) <;> assumption

theorem cmdOfSvIngest_keeps (hs : Keeps s0 s) : ∀ o, (cmdOfSvIngest op c s) = some o → KeepsOut s0 o := by
  intro o h
  unfold cmdOfSvIngest at h
  repeat' split at h
  all_goals first
    | (cases h; done)
    | cases h; (with_reducible first | apply execStEnable_keeps | apply execStDisable_keeps | apply execStTune_keeps
                                     | apply execIngestClearCounters_keeps | apply execDestRestart_keeps) <;>
                                     assumption

theorem cmdOfLane_keeps (hs : Keeps s0 s) : ∀ o, (cmdOfLane op c s) = some o → KeepsOut s0 o := by
  intro o h
  unfold cmdOfLane at h
  repeat' split at h
  all_goals first
    | (cases h; done)
    | cases h; (with_reducible first | apply execNodeRead_keeps | apply execNodeWrite_keeps
                                     | apply execNodeSearch_keeps | apply execNodeFlush_keeps | apply execRehome_keeps
                                     | apply execLinkRestart_keeps | apply execLaneClearCounters_keeps) <;> assumption

theorem cmdOfPhyCopper_keeps (hs : Keeps s0 s) : ∀ o, (cmdOfPhyCopper op c s) = some o → KeepsOut s0 o := by
  intro o h
  unfold cmdOfPhyCopper at h
  repeat' split at h
  all_goals first
    | (cases h; done)
    | cases h; (with_reducible first | apply execTdrRun_keeps) <;> assumption

theorem cmdOfResetKs_keeps (hs : Keeps s0 s) : ∀ o, (cmdOfResetKs op c s) = some o → KeepsOut s0 o := by
  intro o h
  unfold cmdOfResetKs at h
  repeat' split at h
  all_goals first
    | (cases h; done)
    | cases h; (with_reducible first | apply execSwrAssert_keeps | apply execSwrRelease_keeps
                                     | apply execSwrPulse_keeps | apply execForceRelease_keeps
                                     | apply execLevelForce_keeps) <;> assumption

theorem cmdOfSpoke_keeps (hs : Keeps s0 s) : ∀ o, (cmdOfSpoke op c s) = some o → KeepsOut s0 o := by
  intro o h
  unfold cmdOfSpoke at h
  repeat' split at h
  all_goals first
    | (cases h; done)
    | cases h; (with_reducible first | apply execLinkRestore_keeps | apply execLinkClearCounters_keeps) <;> assumption

theorem cmdOfAxle_keeps (hs : Keeps s0 s) : ∀ o, (cmdOfAxle op c s) = some o → KeepsOut s0 o := by
  intro o h
  unfold cmdOfAxle at h
  repeat' split at h
  all_goals first
    | (cases h; done)
    | cases h; (with_reducible first | apply execLinkRestore_keeps | apply execLinkClearCounters_keeps) <;> assumption

theorem cmdOfXspiBoot_keeps (hs : Keeps s0 s) : ∀ o, (cmdOfXspiBoot op c s) = some o → KeepsOut s0 o := by
  intro o h
  unfold cmdOfXspiBoot at h
  repeat' split at h
  all_goals first
    | (cases h; done)
    | cases h; (with_reducible first | apply execXbRead_keeps | apply execXbProgram_keeps | apply execXbErase_keeps)
                                     <;> assumption

theorem cmdOfMechanic_keeps (hs : Keeps s0 s) : ∀ o, (cmdOfMechanic op c s) = some o → KeepsOut s0 o := by
  intro o h
  unfold cmdOfMechanic at h
  repeat' split at h
  all_goals first
    | (cases h; done)
    | cases h; (with_reducible first | apply execMcYield_keeps | apply execMcRestart_keeps
                                     | apply execMcAuthLoad_keeps | apply execDiePower_keeps
                                     | apply execUpdVerify_keeps | apply execUpdActivate_keeps
                                     | apply execUpdCommit_keeps | apply execUpdAbort_keeps
                                     | apply execMcClearCounters_keeps) <;> assumption

theorem cmdOfPeloton_keeps (hs : Keeps s0 s) : ∀ o, (cmdOfPeloton op c s) = some o → KeepsOut s0 o := by
  intro o h
  unfold cmdOfPeloton at h
  repeat' split at h
  all_goals first
    | (cases h; done)
    | cases h; (with_reducible first | apply execPelStart_keeps | apply execPost_keeps | apply execComplete_keeps
                                     | apply execPelotonClearCounters_keeps) <;> assumption

theorem cmdOfPelotonView_keeps (hs : Keeps s0 s) : ∀ o, (cmdOfPelotonView op c s) = some o → KeepsOut s0 o := by
  intro o h
  unfold cmdOfPelotonView at h
  repeat' split at h
  all_goals first
    | (cases h; done)
    | cases h; (with_reducible first | apply execPost_keeps | apply execComplete_keeps
                                     | apply execPelotonClearCounters_keeps) <;> assumption

theorem cmdOfPelotonFlow_keeps (hs : Keeps s0 s) : ∀ o, (cmdOfPelotonFlow op c s) = some o → KeepsOut s0 o := by
  intro o h
  unfold cmdOfPelotonFlow at h
  repeat' split at h
  all_goals first
    | (cases h; done)
    | cases h; (with_reducible first | apply execFlowEnable_keeps | apply execFlowDisable_keeps
                                     | apply execFlowSkip_keeps | apply execRingRestart_keeps
                                     | apply execFlowClearCounters_keeps) <;> assumption

theorem cmdOfFlowView_keeps (hs : Keeps s0 s) : ∀ o, (cmdOfFlowView op c s) = some o → KeepsOut s0 o := by
  intro o h
  unfold cmdOfFlowView at h
  repeat' split at h
  all_goals first
    | (cases h; done)
    | cases h; (with_reducible first | apply execRingRestart_keeps | apply execFlowClearCounters_keeps) <;> assumption

theorem cmdOfOption_keeps (hs : Keeps s0 s) : ∀ o, (cmdOfOption op c s) = some o → KeepsOut s0 o := by
  intro o h
  unfold cmdOfOption at h
  repeat' split at h
  all_goals first
    | (cases h; done)
    | cases h; (with_reducible first | apply execPinFuse_keeps) <;> assumption

theorem cmdOfXspiRetain_keeps (hs : Keeps s0 s) : ∀ o, (cmdOfXspiRetain op c s) = some o → KeepsOut s0 o := by
  intro o h
  unfold cmdOfXspiRetain at h
  repeat' split at h
  all_goals first
    | (cases h; done)
    | cases h; (with_reducible first | apply execRtClear_keeps) <;> assumption

theorem cmdOfSaddlebag_keeps (hs : Keeps s0 s) : ∀ o, (cmdOfSaddlebag op c s) = some o → KeepsOut s0 o := by
  intro o h
  unfold cmdOfSaddlebag at h
  repeat' split at h
  all_goals first
    | (cases h; done)
    | cases h; (with_reducible first | apply execSbPost_keeps | apply execSbFreeze_keeps | apply execSbUnfreeze_keeps
                                     | apply execSbArm_keeps | apply execSbDisarm_keeps | apply execSsEnable_keeps
                                     | apply execSsDisable_keeps | apply execSbTrigger_keeps
                                     | apply execSbClearCounters_keeps) <;> assumption

theorem cmdOfPmbus_keeps (hs : Keeps s0 s) : ∀ o, (cmdOfPmbus op c s) = some o → KeepsOut s0 o := by
  intro o h
  unfold cmdOfPmbus at h
  repeat' split at h
  all_goals first
    | (cases h; done)
    | cases h; (with_reducible first | apply execRailSet_keeps | apply execRailClear_keeps) <;> assumption

theorem cmdOfSwitchPort_keeps (hs : Keeps s0 s) : ∀ o, (cmdOfSwitchPort op c s) = some o → KeepsOut s0 o := by
  intro o h
  unfold cmdOfSwitchPort at h
  repeat' split at h
  all_goals first
    | (cases h; done)
    | cases h; (with_reducible first | apply execQbvCommit_keeps) <;> assumption

theorem cmdOfSwitch_keeps (hs : Keeps s0 s) : ∀ o, (cmdOfSwitch op c s) = some o → KeepsOut s0 o := by
  intro o h
  unfold cmdOfSwitch at h
  repeat' split at h
  all_goals first
    | (cases h; done)
    | cases h; (with_reducible first | apply execTblRead_keeps | apply execTblWrite_keeps | apply execMacSearch_keeps
                                     | apply execMacFlush_keeps | apply execSwitchClearCounters_keeps
                                     | apply execSessionStart_keeps | apply execSessionStop_keeps) <;> assumption

theorem cmdOfTandemLane_keeps (hs : Keeps s0 s) : ∀ o, (cmdOfTandemLane op c s) = some o → KeepsOut s0 o := by
  intro o h
  unfold cmdOfTandemLane at h
  repeat' split at h
  all_goals first
    | (cases h; done)
    | cases h; (with_reducible first | apply execTdStart_keeps | apply execTdStop_keeps | apply execHandover_keeps
                                     | apply execTdClearCounters_keeps) <;> assumption

theorem cmdOfTimeBase_keeps (hs : Keeps s0 s) : ∀ o, (cmdOfTimeBase op c s) = some o → KeepsOut s0 o := by
  intro o h
  unfold cmdOfTimeBase at h
  repeat' split at h
  all_goals first
    | (cases h; done)
    | cases h; (with_reducible first | apply execSetTime_keeps | apply execStep_keeps | apply execSelectRef_keeps
                                     | apply execHold_keeps | apply execTakeMaster_keeps | apply execResetServo_keeps)
                                     <;> assumption

theorem cmdOfTimeTrigger_keeps (hs : Keeps s0 s) : ∀ o, (cmdOfTimeTrigger op c s) = some o → KeepsOut s0 o := by
  intro o h
  unfold cmdOfTimeTrigger at h
  repeat' split at h
  all_goals first
    | (cases h; done)
    | cases h; (with_reducible first | apply execTrgArm_keeps | apply execTrgDisarm_keeps) <;> assumption

theorem cmdOfTimerView_keeps (hs : Keeps s0 s) : ∀ o, (cmdOfTimerView op c s) = some o → KeepsOut s0 o := by
  intro o h
  unfold cmdOfTimerView at h
  repeat' split at h
  all_goals first
    | (cases h; done)
    | cases h; (with_reducible first | apply execTrgArm_keeps | apply execTrgDisarm_keeps) <;> assumption

theorem cmdOfTripIo_keeps (hs : Keeps s0 s) : ∀ o, (cmdOfTripIo op c s) = some o → KeepsOut s0 o := by
  intro o h
  unfold cmdOfTripIo at h
  repeat' split at h
  all_goals first
    | (cases h; done)
    | cases h; (with_reducible first | apply execTripIoClearCounters_keeps) <;> assumption

theorem cmdOfKeyVault_keeps (hs : Keeps s0 s) : ∀ o, (cmdOfKeyVault op c s) = some o → KeepsOut s0 o := by
  intro o h
  unfold cmdOfKeyVault at h
  repeat' split at h
  all_goals first
    | (cases h; done)
    | cases h; (with_reducible first | apply execUnsealChal_keeps | apply execUnseal_keeps | apply execSeal_keeps
                                     | apply execDormant_keeps | apply execWake_keeps | apply execRootGen_keeps
                                     | apply execRootLoad_keeps | apply execVaultAuthLoad_keeps
                                     | apply execKeyDerive_keeps | apply execKeyUnwrap_keeps | apply execKeyGen_keeps
                                     | apply execKeyClear_keeps | apply execKeySet_keeps | apply execEncrypt_keeps
                                     | apply execDecrypt_keeps | apply execMacGen_keeps | apply execMacVer_keeps
                                     | apply execAttest_keeps | apply execVaultClearCounters_keeps) <;> assumption

theorem cmdOfKeyView_keeps (hs : Keeps s0 s) : ∀ o, (cmdOfKeyView op c s) = some o → KeepsOut s0 o := by
  intro o h
  unfold cmdOfKeyView at h
  repeat' split at h
  all_goals first
    | (cases h; done)
    | cases h; (with_reducible first | apply execUnsealChal_keeps | apply execUnseal_keeps | apply execSeal_keeps
                                     | apply execDormant_keeps | apply execWake_keeps | apply execRootGen_keeps
                                     | apply execRootLoad_keeps | apply execVaultAuthLoad_keeps
                                     | apply execKeyDerive_keeps | apply execKeyUnwrap_keeps | apply execKeyGen_keeps
                                     | apply execKeyClear_keeps | apply execKeySet_keeps | apply execEncrypt_keeps
                                     | apply execDecrypt_keeps | apply execMacGen_keeps | apply execMacVer_keeps
                                     | apply execAttest_keeps | apply execVaultClearCounters_keeps) <;> assumption

theorem cmdOfDerailleur_keeps (hs : Keeps s0 s) : ∀ o, (cmdOfDerailleur op c s) = some o → KeepsOut s0 o := by
  intro o h
  unfold cmdOfDerailleur at h
  repeat' split at h
  all_goals first
    | (cases h; done)
    | cases h; (with_reducible first | apply execShareApply_keeps | apply execShareClearCounters_keeps) <;> assumption

theorem cmdOfViCtrl_keeps (hs : Keeps s0 s) : ∀ o, (cmdOfViCtrl op c s) = some o → KeepsOut s0 o := by
  intro o h
  unfold cmdOfViCtrl at h
  repeat' split at h
  all_goals first
    | (cases h; done)
    | cases h; (with_reducible first | apply execViCreate_keeps | apply execViRun_keeps | apply execQuiesce_keeps
                                     | apply execKill_keeps | apply execViReset_keeps | apply execViDestroy_keeps
                                     | apply execMigrate_keeps | apply execViSave_keeps | apply execViRestore_keeps)
                                     <;> assumption

theorem cmdOfHartCluster_keeps (hs : Keeps s0 s) : ∀ o, (cmdOfHartCluster op c s) = some o → KeepsOut s0 o := by
  intro o h
  unfold cmdOfHartCluster at h
  repeat' split at h
  all_goals first
    | (cases h; done)
    | cases h; (with_reducible first | apply execHartStart_keeps | apply execHartStop_keeps) <;> assumption

theorem cmdOfDevXlate_keeps (hs : Keeps s0 s) : ∀ o, (cmdOfDevXlate op c s) = some o → KeepsOut s0 o := by
  intro o h
  unfold cmdOfDevXlate at h
  repeat' split at h
  all_goals first
    | (cases h; done)
    | cases h; (with_reducible first | apply execXlateInval_keeps | apply execRxEnable_keeps
                                     | apply execRxDisable_keeps | apply execRxRestart_keeps) <;> assumption

theorem cmdOfEgressView_keeps (hs : Keeps s0 s) : ∀ o, (cmdOfEgressView op c s) = some o → KeepsOut s0 o := by
  intro o h
  unfold cmdOfEgressView at h
  repeat' split at h
  all_goals first
    | (cases h; done)
    | cases h; (with_reducible first | apply execEgSend_keeps | apply execEgressClearCounters_keeps) <;> assumption

theorem cmdOfDirtyLog_keeps (hs : Keeps s0 s) : ∀ o, (cmdOfDirtyLog op c s) = some o → KeepsOut s0 o := by
  intro o h
  unfold cmdOfDirtyLog at h
  repeat' split at h
  all_goals first
    | (cases h; done)
    | cases h; (with_reducible first | apply execLogStart_keeps | apply execLogSwap_keeps | apply execLogStop_keeps)
                                     <;> assumption

theorem cmdOfBlock_keeps (hs : Keeps s0 s) : ∀ o, (cmdOfBlock b op c s) = some o → KeepsOut s0 o := by
  intro o h
  unfold cmdOfBlock at h
  repeat' split at h
  all_goals first
    | (cases h; done)

    | with_reducible exact cmdOfCapture_keeps hs _ h
    | with_reducible exact cmdOfCaptureView_keeps hs _ h
    | with_reducible exact cmdOfCoaster_keeps hs _ h
    | with_reducible exact cmdOfCrank_keeps hs _ h
    | with_reducible exact cmdOfCrankView_keeps hs _ h
    | with_reducible exact cmdOfCrankTask_keeps hs _ h
    | with_reducible exact cmdOfCyclometer_keeps hs _ h
    | with_reducible exact cmdOfDram_keeps hs _ h
    | with_reducible exact cmdOfFilter_keeps hs _ h
    | with_reducible exact cmdOfDetector_keeps hs _ h
    | with_reducible exact cmdOfFrameAuth_keeps hs _ h
    | with_reducible exact cmdOfSvIngest_keeps hs _ h
    | with_reducible exact cmdOfLane_keeps hs _ h
    | with_reducible exact cmdOfPhyCopper_keeps hs _ h
    | with_reducible exact cmdOfResetKs_keeps hs _ h
    | with_reducible exact cmdOfSpoke_keeps hs _ h
    | with_reducible exact cmdOfAxle_keeps hs _ h
    | with_reducible exact cmdOfXspiBoot_keeps hs _ h
    | with_reducible exact cmdOfMechanic_keeps hs _ h
    | with_reducible exact cmdOfPeloton_keeps hs _ h
    | with_reducible exact cmdOfPelotonView_keeps hs _ h
    | with_reducible exact cmdOfPelotonFlow_keeps hs _ h
    | with_reducible exact cmdOfFlowView_keeps hs _ h
    | with_reducible exact cmdOfOption_keeps hs _ h
    | with_reducible exact cmdOfXspiRetain_keeps hs _ h
    | with_reducible exact cmdOfSaddlebag_keeps hs _ h
    | with_reducible exact cmdOfPmbus_keeps hs _ h
    | with_reducible exact cmdOfSwitchPort_keeps hs _ h
    | with_reducible exact cmdOfSwitch_keeps hs _ h
    | with_reducible exact cmdOfTandemLane_keeps hs _ h
    | with_reducible exact cmdOfTimeBase_keeps hs _ h
    | with_reducible exact cmdOfTimeTrigger_keeps hs _ h
    | with_reducible exact cmdOfTimerView_keeps hs _ h
    | with_reducible exact cmdOfTripIo_keeps hs _ h
    | with_reducible exact cmdOfKeyVault_keeps hs _ h
    | with_reducible exact cmdOfKeyView_keeps hs _ h
    | with_reducible exact cmdOfDerailleur_keeps hs _ h
    | with_reducible exact cmdOfViCtrl_keeps hs _ h
    | with_reducible exact cmdOfHartCluster_keeps hs _ h
    | with_reducible exact cmdOfDevXlate_keeps hs _ h
    | with_reducible exact cmdOfEgressView_keeps hs _ h
    | with_reducible exact cmdOfDirtyLog_keeps hs _ h

theorem execUnknown_keeps (hs : Keeps s0 s) : KeepsOut s0 (execUnknown b op c s) := by
  unfold execUnknown
  repeat' first
    | intro _
    | with_reducible first | assumption | apply keeps_fold | apply keeps_fold_fst | apply keeps_fold_visit
                           | apply command_keeps | apply Effect_done_keeps
    | with_reducible first | apply keeps_done | apply keeps_accepted | apply keepsOut_next
                           | apply keeps_ite | apply keepsOut_ite | apply keeps_ite_eff | apply keeps_ite_fst
    | split | simp only [keeps_mk] | dsimp only

theorem execOp_keeps (hs : Keeps s0 s) : KeepsOut s0 (execOp b op c s) := by
  unfold execOp
  split
  · exact execNop_keeps hs
  · split
    · exact execEventTest_keeps hs
    · exact keepsOut_getD (cmdOfBlock_keeps hs) (execUnknown_keeps hs)

theorem execCmdWord_keeps (hs : Keeps s0 s) : KeepsOut s0 (execCmdWord b die cluster view w v s) := by
  unfold execCmdWord
  repeat' with_reducible
    first | assumption | apply keepsOut_next | apply execOp_keeps

end Sys2Proof.Machine
end

