-- ==== Sys2Proof/Laws/KeepsCycLevel.lean ====
section
/-!
SUPPORT. Sys2Proof/Laws/KeepsCycLevel.lean: every operation of CycLevel.lean keeps the queue, the variant and the canonical form of
memory.
-/
namespace Sys2Proof.Machine

variable {s0 s : State} {e : Nat × Nat}

theorem tickCounter_keeps (hs : Keeps s0 s) : Keeps s0 (tickCounter s e) := by
  unfold tickCounter
  repeat' first
    | with_reducible first | assumption
    | split | simp only [keeps_mk] | dsimp only

theorem execCounterLevelTick_keeps (hs : Keeps s0 s) : KeepsOut s0 (execCounterLevelTick s) := by
  unfold execCounterLevelTick
  repeat' first
    | intro _
    | with_reducible first | assumption | apply keeps_fold | apply keeps_fold_fst | apply keeps_fold_visit
                           | apply tickCounter_keeps
    | with_reducible first | apply keeps_done | apply keeps_accepted | apply keepsOut_next
                           | apply keeps_ite | apply keepsOut_ite | apply keeps_ite_eff | apply keeps_ite_fst
    | split | simp only [keeps_mk] | dsimp only

end Sys2Proof.Machine
end

