-- ==== Sys2Proof/Laws/KeepsSnapshot.lean ====
section
/-!
SUPPORT. Sys2Proof/Laws/KeepsSnapshot.lean: every operation of Snapshot.lean keeps the queue, the variant and the canonical form of
memory.
-/
namespace Sys2Proof.Machine

variable {s0 s : State} {hub e set : Nat}

theorem snapAccess_keeps (hs : Keeps s0 s) : Keeps s0 (snapAccess hub s e) := by
  unfold snapAccess
  repeat' first
    | with_reducible first | assumption | apply cyc_keeps
    | split | dsimp only

theorem execSnapshotTrigger_keeps {hub set : Nat} {s : State} (hs : Keeps s0 s) : KeepsOut s0 (execSnapshotTrigger
    hub set s) := by
  unfold execSnapshotTrigger
  repeat' first
    | intro _
    | with_reducible first | assumption | apply keeps_fold | apply keeps_fold_fst | apply keeps_fold_visit
                           | apply putSnap_keeps | apply tickPageBy_keeps | apply snapAccess_keeps
                           | apply enqueue_keeps | apply incr_keeps
    | with_reducible first | apply keeps_done | apply keeps_accepted | apply keepsOut_next | apply keepsOut_getD
                           | apply keeps_ite | apply keepsOut_ite | apply keeps_ite_eff | apply keeps_ite_fst
    | split | dsimp only

end Sys2Proof.Machine
end

