-- ==== Sys2Proof/Laws/KeepsPages.lean ====
section
/-!
SUPPORT. Sys2Proof/Laws/KeepsPages.lean: every operation of Pages.lean keeps the queue, the variant and the canonical form of
memory.
-/
namespace Sys2Proof.Machine

variable {s0 s a1 : State} {v e w : Nat} {a a0 : Access} {f : Hdr → Hdr} {t : Target}

theorem onHdr_keeps (hs : Keeps s0 s) : Keeps s0 (onHdr a f s) := by
  unfold onHdr
  repeat' with_reducible
    first | assumption | apply setHdr_keeps

theorem onBank_keeps {f : Bank → Bank} (hs : Keeps s0 s) : Keeps s0 (onBank a f s) := by
  unfold onBank
  repeat' with_reducible
    first | assumption | apply setBank_keeps

theorem eventClear_keeps (ha1 : Keeps s0 a1) : Keeps s0 (eventClear a0 a1) := by
  unfold eventClear
  repeat' with_reducible
    first | assumption | apply onHdr_keeps

theorem eventEnable_keeps (hs : Keeps s0 s) : Keeps s0 (eventEnable a s) := by
  unfold eventEnable
  repeat' first
    | with_reducible first | assumption | apply onHdr_keeps | apply raiseIrq_keeps
    | split | dsimp only

theorem lockPage_keeps (ha1 : Keeps s0 a1) : Keeps s0 (lockPage a0 a1) := by
  unfold lockPage
  repeat' with_reducible
    first | assumption | apply onHdr_keeps

theorem irqTargetWrite_keeps (hs : Keeps s0 s) : Keeps s0 (irqTargetWrite a s) := by
  unfold irqTargetWrite
  repeat' first
    | with_reducible first | assumption | apply onHdr_keeps
    | split | dsimp only

theorem headerWrite_keeps (hs : Keeps s0 s) : Keeps s0 (headerWrite a s) := by
  unfold headerWrite
  repeat' first
    | with_reducible first | assumption | apply lockPage_keeps | apply onBank_keeps | apply eventClear_keeps
                           | apply eventEnable_keeps | apply irqTargetWrite_keeps | apply onHdr_keeps
    | split | dsimp only

theorem leadWrite_keeps (hs : Keeps s0 s) : Keeps s0 (leadWrite a t v s) := by
  unfold leadWrite
  repeat' first
    | with_reducible first | assumption | apply writeT_keeps
    | split | dsimp only

theorem dbgMaskWrite_keeps (hs : Keeps s0 s) : Keeps s0 (dbgMaskWrite a t v s) := by
  unfold dbgMaskWrite
  repeat' first
    | with_reducible first | assumption | apply writeT_keeps
    | split | dsimp only

theorem regEffect_keeps {a : Access} {t : Target} {v : Nat} {s : State} (hs : Keeps s0 s) : Keeps s0 (regEffect a t
    v s) := by
  unfold regEffect
  repeat' first
    | intro _
    | with_reducible first | assumption | apply keeps_fold | apply keeps_fold_fst | apply keeps_fold_visit
                           | apply offsetWrite_keeps | apply refreshAddend_keeps | apply writeT_keeps
                           | apply refreshGm_keeps | apply trgWrite_keeps | apply qRsvWrite_keeps
                           | apply lpCfgWrite_keeps | apply sdCfgWrite_keeps | apply gwCfgWrite_keeps
                           | apply tlCfgWrite_keeps | apply tioDemand_keeps | apply swAlive_keeps
                           | apply tdPermit_keeps | apply wdtKick_keeps | apply clearCauses_keeps
                           | apply dbgMaskWrite_keeps | apply renewLease_keeps | apply refreshCand_keeps
                           | apply sbSeek_keeps | apply railWrite_keeps | apply leadWrite_keeps
    | with_reducible first | apply keeps_done | apply keeps_accepted | apply keepsOut_next | apply keepsOut_getD
                           | apply keeps_ite | apply keepsOut_ite | apply keeps_ite_eff | apply keeps_ite_fst
    | split | simp only [keeps_mk] | dsimp only

theorem measPut_keeps (hs : Keeps s0 s) : Keeps s0 (measPut a e w s) := by
  unfold measPut
  repeat' first
    | with_reducible first | assumption | apply wr_keeps | apply putVault_keeps
    | split | dsimp only

theorem measWrite_keeps (hs : Keeps s0 s) : KeepsOut s0 (measWrite a e w s) := by
  unfold measWrite
  repeat' first
    | intro _
    | with_reducible first | assumption | apply keeps_fold | apply keeps_fold_fst | apply keeps_fold_visit
                           | apply deny_keeps | apply writeGate_keeps | apply measPut_keeps
    | with_reducible first | apply keeps_done | apply keeps_accepted | apply keepsOut_next
                           | apply keeps_ite | apply keepsOut_ite | apply keeps_ite_eff | apply keeps_ite_fst
    | split | simp only [keeps_mk] | dsimp only

theorem mailboxWrite_keeps (hs : Keeps s0 s) : Keeps s0 (mailboxWrite a s) := by
  unfold mailboxWrite
  repeat' first
    | with_reducible first | assumption | apply wr_keeps
    | split | dsimp only

theorem writeAny_keeps (hs : Keeps s0 s) : KeepsOut s0 (writeAny a s) := by
  unfold writeAny
  repeat' first
    | intro _
    | with_reducible first | assumption | apply keeps_fold | apply keeps_fold_fst | apply keeps_fold_visit
                           | apply execCmdWord_keeps | apply writeGate_keeps | apply headerWrite_keeps
                           | apply execCounterSelectWrite_keeps | apply mailboxWrite_keeps | apply measWrite_keeps
                           | apply writeReg_keeps | apply regEffect_keeps
    | with_reducible first | apply keeps_done | apply keeps_accepted | apply keepsOut_next
                           | apply keeps_ite | apply keepsOut_ite | apply keeps_ite_eff | apply keeps_ite_fst
    | split | simp only [keeps_mk] | dsimp only

theorem readClears_keeps (hs : Keeps s0 s) : Keeps s0 (readClears a s) := by
  unfold readClears
  repeat' first
    | with_reducible first | assumption | apply onHdr_keeps | apply writeT_keeps
    | split | dsimp only

theorem readPlain_keeps (hs : Keeps s0 s) : KeepsOut s0 (readPlain a s) := by
  unfold readPlain
  repeat' first
    | intro _
    | with_reducible first | assumption | apply keeps_fold | apply keeps_fold_fst | apply keeps_fold_visit
                           | apply readGate_keeps | apply readWide_keeps | apply respond_keeps
                           | apply readClears_keeps
    | with_reducible first | apply keeps_done | apply keeps_accepted | apply keepsOut_next
                           | apply keeps_ite | apply keepsOut_ite | apply keeps_ite_eff | apply keeps_ite_fst
    | split | simp only [keeps_mk] | dsimp only

theorem readAny_keeps (hs : Keeps s0 s) : KeepsOut s0 (readAny a s) := by
  unfold readAny
  repeat' first
    | with_reducible first | assumption | apply keepsOut_next | apply execTakeStart_keeps | apply execSbNextRead_keeps
                           | apply execTimeSnapshotRead_keeps | apply execStampRead_keeps | apply execCvSlotRead_keeps
                           | apply readPlain_keeps
    | split | dsimp only

theorem execEventW1cWrite_keeps (hs : Keeps s0 s) : KeepsOut s0 (execEventW1cWrite a s) := by
  unfold execEventW1cWrite
  repeat' first
    | intro _
    | with_reducible first | assumption | apply keeps_fold | apply keeps_fold_fst | apply keeps_fold_visit
                           | apply writeGate_keeps | apply eventClear_keeps
    | with_reducible first | apply keeps_done | apply keeps_accepted | apply keepsOut_next
                           | apply keeps_ite | apply keepsOut_ite | apply keeps_ite_eff | apply keeps_ite_fst
    | split | simp only [keeps_mk] | dsimp only

theorem execEventEnWrite_keeps (hs : Keeps s0 s) : KeepsOut s0 (execEventEnWrite a s) := by
  unfold execEventEnWrite
  repeat' first
    | intro _
    | with_reducible first | assumption | apply keeps_fold | apply keeps_fold_fst | apply keeps_fold_visit
                           | apply writeGate_keeps | apply eventEnable_keeps
    | with_reducible first | apply keeps_done | apply keeps_accepted | apply keepsOut_next
                           | apply keeps_ite | apply keepsOut_ite | apply keeps_ite_eff | apply keeps_ite_fst
    | split | simp only [keeps_mk] | dsimp only

theorem execReadClearRead_keeps (hs : Keeps s0 s) : KeepsOut s0 (execReadClearRead a s) := by
  unfold execReadClearRead
  repeat' with_reducible
    first | assumption | apply keepsOut_next | apply readAny_keeps

theorem execPageLockWrite_keeps (hs : Keeps s0 s) : KeepsOut s0 (execPageLockWrite a s) := by
  unfold execPageLockWrite
  repeat' first
    | intro _
    | with_reducible first | assumption | apply keeps_fold | apply keeps_fold_fst | apply keeps_fold_visit
                           | apply writeGate_keeps | apply lockPage_keeps
    | with_reducible first | apply keeps_done | apply keeps_accepted | apply keepsOut_next
                           | apply keeps_ite | apply keepsOut_ite | apply keeps_ite_eff | apply keeps_ite_fst
    | split | simp only [keeps_mk] | dsimp only

theorem execLowWordRead_keeps (hs : Keeps s0 s) : KeepsOut s0 (execLowWordRead a s) := by
  unfold execLowWordRead
  repeat' with_reducible
    first | assumption | apply keepsOut_next | apply readAny_keeps

theorem execLowWordWrite_keeps (hs : Keeps s0 s) : KeepsOut s0 (execLowWordWrite a s) := by
  unfold execLowWordWrite
  repeat' with_reducible
    first | assumption | apply keepsOut_next | apply writeAny_keeps

theorem execHighWordWrite_keeps (hs : Keeps s0 s) : KeepsOut s0 (execHighWordWrite a s) := by
  unfold execHighWordWrite
  repeat' with_reducible
    first | assumption | apply keepsOut_next | apply writeAny_keeps

theorem execRegisterWrite_keeps (hs : Keeps s0 s) : KeepsOut s0 (execRegisterWrite a s) := by
  unfold execRegisterWrite
  repeat' with_reducible
    first | assumption | apply keepsOut_next | apply writeAny_keeps

end Sys2Proof.Machine
end

