-- ==== Sys2Proof/Laws/KeepsLoader.lean ====
section
/-!
SUPPORT. Sys2Proof/Laws/KeepsLoader.lean: every operation of Loader.lean keeps the queue, the variant and the canonical form of
memory.
-/
namespace Sys2Proof.Machine

variable {s0 s : State} {hub sel dom : Nat} {b : Block} {arg : Option Nat} {r : TableRec} {rs : List TableRec} {ok :
  Bool}

theorem loaderBank_keeps (hs : Keeps s0 s) : Keeps s0 (loaderBank s hub b sel arg) := by
  unfold loaderBank
  repeat' with_reducible
    first | assumption | apply setBank_keeps

theorem applyTableRec_keeps (hs : Keeps s0 s) : Keeps s0 (applyTableRec hub s r) := by
  unfold applyTableRec
  repeat' first
    | with_reducible first | assumption | apply loaderBank_keeps | apply outState_keeps | apply execCmdWord_keeps
                           | apply writeAny_keeps
    | split | dsimp only

theorem applyTable_keeps (hs : Keeps s0 s) : Keeps s0 (applyTable s hub rs) := by
  unfold applyTable
  repeat' first
    | intro _
    | with_reducible first | assumption | apply keeps_fold | apply keeps_fold_fst | apply keeps_fold_visit
                           | apply applyTableRec_keeps
    | with_reducible first | apply keeps_done | apply keeps_accepted | apply keepsOut_next
                           | apply keeps_ite | apply keepsOut_ite | apply keeps_ite_eff | apply keeps_ite_fst
    | split | simp only [keeps_mk] | dsimp only

theorem coImage_keeps {s : State} {hub ver : Nat} (hs : Keeps s0 s) : Keeps s0 (coImage s hub ver) := by
  unfold coImage
  repeat' first
    | intro _
    | with_reducible first | assumption | apply keeps_fold | apply keeps_fold_fst | apply keeps_fold_visit
                           | apply hwEvent_keeps | apply wr_keeps
    | with_reducible first | apply keeps_done | apply keeps_accepted | apply keepsOut_next | apply keepsOut_getD
                           | apply keeps_ite | apply keepsOut_ite | apply keeps_ite_eff | apply keeps_ite_fst
    | split | simp only [keeps_mk] | dsimp only

theorem endLoad_keeps {s : State} {hub dom : Nat} {ok : Bool} (hs : Keeps s0 s) : Keeps s0 (endLoad s hub dom ok) :=
    by
  unfold endLoad
  repeat' first
    | intro _
    | with_reducible first | assumption | apply keeps_fold | apply keeps_fold_fst | apply keeps_fold_visit
                           | apply wr_keeps | apply coImage_keeps | apply putRst_keeps | apply tryRelease_keeps
                           | apply hwEvent_keeps
    | with_reducible first | apply keeps_done | apply keeps_accepted | apply keepsOut_next | apply keepsOut_getD
                           | apply keeps_ite | apply keepsOut_ite | apply keeps_ite_eff | apply keeps_ite_fst
    | split | simp only [keeps_mk] | dsimp only

theorem laneMismatch_keeps (hs : Keeps s0 s) : Keeps s0 (laneMismatch s hub) := by
  unfold laneMismatch
  repeat' with_reducible
    first | assumption | apply setStatus_keeps | apply setLane_keeps

theorem laneCompare_keeps (hs : Keeps s0 s) : Keeps s0 (laneCompare s hub) := by
  unfold laneCompare
  repeat' first
    | with_reducible first | assumption | apply laneMismatch_keeps
    | split | dsimp only

theorem runLoad_keeps (hs : Keeps s0 s) : Keeps s0 (runLoad s hub dom) := by
  unfold runLoad
  repeat' first
    | with_reducible first | assumption | apply endLoad_keeps | apply applyTable_keeps | apply tandemCompare_keeps
                           | apply laneCompare_keeps
    | split | dsimp only

theorem execStartupLoad_keeps (hs : Keeps s0 s) : KeepsOut s0 (execStartupLoad hub s) := by
  unfold execStartupLoad
  repeat' first
    | with_reducible first | assumption | apply keepsOut_next | apply runLoad_keeps
    | split | dsimp only

theorem execCoasterTableLoad_keeps (hs : Keeps s0 s) : KeepsOut s0 (execCoasterTableLoad hub s) := by
  unfold execCoasterTableLoad
  repeat' first
    | with_reducible first | assumption | apply keepsOut_next | apply runLoad_keeps
    | split | dsimp only

end Sys2Proof.Machine
end

