-- ==== Sys2Proof/Laws/KeepsUpdate.lean ====
section
/-!
SUPPORT. Sys2Proof/Laws/KeepsUpdate.lean: every operation of Update.lean keeps the queue, the variant and the canonical form of
memory.
-/
namespace Sys2Proof.Machine

variable {s0 s : State} {hub slot dom sub st fail parts note die : Nat} {r : TableRec} {t : Ticket} {ok : Bool}

theorem applyHitless_keeps (hs : Keeps s0 s) : Keeps s0 (applyHitless hub s r) := by
  unfold applyHitless
  repeat' first
    | with_reducible first | assumption | apply putZone_keeps | apply applyTableRec_keeps
    | split | dsimp only

theorem applySlot_keeps {s : State} {hub slot dom : Nat} (hs : Keeps s0 s) : Keeps s0 (applySlot s hub slot dom) := by
  unfold applySlot
  repeat' first
    | intro _
    | with_reducible first | assumption | apply keeps_fold | apply keeps_fold_fst | apply keeps_fold_visit
                           | apply applyHitless_keeps | apply coImage_keeps
    | with_reducible first | apply keeps_done | apply keeps_accepted | apply keepsOut_next | apply keepsOut_getD
                           | apply keeps_ite | apply keepsOut_ite | apply keeps_ite_eff | apply keeps_ite_fst
    | split | simp only [keeps_mk] | dsimp only

theorem applyParts_keeps (hs : Keeps s0 s) : Keeps s0 (applyParts s hub slot sub) := by
  unfold applyParts
  repeat' first
    | with_reducible first | assumption | apply applySlot_keeps
    | split | dsimp only

theorem putUpdWord_keeps (hs : Keeps s0 s) : Keeps s0 (putUpdWord s hub st fail parts) := by
  unfold putUpdWord
  repeat' with_reducible
    first | assumption | apply wr_keeps

theorem endUpd_keeps (hs : Keeps s0 s) : Keeps s0 (endUpd s hub t ok note) := by
  unfold endUpd
  repeat' with_reducible
    first | assumption | apply hwEvent_keeps | apply finish_keeps | apply pushLog_keeps

theorem verifyEnds_keeps (hs : Keeps s0 s) : Keeps s0 (verifyEnds s hub t) := by
  unfold verifyEnds
  repeat' first
    | with_reducible first | assumption | apply putUpdWord_keeps | apply setUpd_keeps | apply endUpd_keeps
                           | apply wr_keeps
    | split | dsimp only

theorem activateEnds_keeps (hs : Keeps s0 s) : Keeps s0 (activateEnds s hub t) := by
  unfold activateEnds
  repeat' with_reducible
    first | assumption | apply endUpd_keeps | apply putUpdWord_keeps | apply applyParts_keeps

theorem settleFw_keeps (hs : Keeps s0 s) : Keeps s0 (settleFw s die) := by
  unfold settleFw
  repeat' with_reducible
    first | assumption | apply setMech_keeps

theorem commitEnds_keeps (hs : Keeps s0 s) : Keeps s0 (commitEnds s hub t) := by
  unfold commitEnds
  repeat' first
    | intro _
    | with_reducible first | assumption | apply keeps_fold | apply keeps_fold_fst | apply keeps_fold_visit
                           | apply putSelector_keeps | apply wr_keeps | apply endUpd_keeps | apply putUpdWord_keeps
                           | apply settleFw_keeps
    | with_reducible first | apply keeps_done | apply keeps_accepted | apply keepsOut_next
                           | apply keeps_ite | apply keepsOut_ite | apply keeps_ite_eff | apply keeps_ite_fst
    | split | simp only [keeps_mk] | dsimp only

theorem abortEnds_keeps (hs : Keeps s0 s) : Keeps s0 (abortEnds s hub t) := by
  unfold abortEnds
  repeat' with_reducible
    first | assumption | apply applyParts_keeps | apply endUpd_keeps | apply putUpdWord_keeps | apply setUpd_keeps

theorem execUpdOperationDone_keeps (hs : Keeps s0 s) : KeepsOut s0 (execUpdOperationDone hub s) := by
  unfold execUpdOperationDone
  repeat' first
    | with_reducible first | assumption | apply keepsOut_next | apply verifyEnds_keeps | apply commitEnds_keeps
                           | apply activateEnds_keeps | apply abortEnds_keeps
    | split | dsimp only

end Sys2Proof.Machine
end

