-- ==== Sys2Proof/Laws/KeepsMgmt.lean ====
section
/-!
SUPPORT. Sys2Proof/Laws/KeepsMgmt.lean: every operation of Mgmt.lean keeps the queue, the variant and the canonical form of
memory.
-/
namespace Sys2Proof.Machine

variable {s0 s a2 : State} {hub dst etype len code status a1 op first off sub : Nat} {bs payload input data request :
  List Byte} {up gig : Bool} {m : MgReq} {serve : State → MgEnd} {a : Access} {e : MgEnd}

theorem execMgmtLinkChange_keeps (hs : Keeps s0 s) : KeepsOut s0 (execMgmtLinkChange hub up gig s) := by
  unfold execMgmtLinkChange
  repeat' first
    | with_reducible first | assumption | apply keepsOut_next | apply hwEvent_keeps | apply wr_keeps
    | split | dsimp only

theorem mgTakes_keeps {s : State} {hub : Nat} {f : State → State} (hs : Keeps s0 s) (hf : ∀ u, Keeps s0 u → Keeps s0
    (f u)) : Keeps s0 (mgTakes s hub f) := by
  unfold mgTakes
  repeat' first
    | intro _
    | with_reducible first | assumption | apply hf | apply keeps_fold | apply keeps_fold_fst
                           | apply keeps_fold_visit | apply causedBy_keeps | apply incr_keeps | apply tickSrc_keeps
    | with_reducible first | apply keeps_done | apply keeps_accepted | apply keepsOut_next | apply keepsOut_getD
                           | apply keeps_ite | apply keepsOut_ite | apply keeps_ite_eff | apply keeps_ite_fst
    | split | simp only [keeps_mk] | dsimp only

theorem mgSend_keeps (hs : Keeps s0 s) : Keeps s0 (mgSend s hub dst etype len bs) := by
  unfold mgSend
  repeat' first
    | with_reducible first | assumption | apply incr_keeps | apply tickSrc_keeps
    | split | simp only [keeps_mk] | dsimp only

theorem mgAnswer_keeps (hs : Keeps s0 s) : Keeps s0 (mgAnswer s hub code m status payload) := by
  unfold mgAnswer
  repeat' first
    | with_reducible first | assumption | apply mgSend_keeps | apply useKey_keeps
    | split | dsimp only

theorem mgKeep_keeps (hs : Keeps s0 s) : Keeps s0 (mgKeep s hub m) := by
  unfold mgKeep
  repeat' with_reducible
    first | assumption | apply setMech_keeps

theorem mgServe_keeps {hub code : Nat} {m : MgReq} {serve : State → MgEnd} {s : State} (hserve : ∀ u, Keeps s0 u →
    Keeps s0 (serve u).state) (hs : Keeps s0 s) : KeepsOut s0 (mgServe hub code m serve s) := by
  unfold mgServe
  repeat' first
    | intro _
    | with_reducible first | assumption | apply hserve | apply keeps_fold | apply keeps_fold_fst
                           | apply keeps_fold_visit | apply mgTakes_keeps | apply mgAnswer_keeps | apply incr_keeps
                           | apply mgKeep_keeps | apply useKey_keeps
    | with_reducible first | apply keeps_done | apply keeps_accepted | apply keepsOut_next | apply keepsOut_getD
                           | apply keeps_ite | apply keepsOut_ite | apply keeps_ite_eff | apply keeps_ite_fst
    | split | simp only [keeps_mk] | dsimp only

theorem runVault_keeps (ha2 : Keeps s0 a2) : Keeps s0 (runVault hub a1 a2) := by
  induction a1 generalizing a2 with
  | zero =>
    unfold runVault
    repeat' with_reducible
      first | assumption | apply outState_keeps | apply execVaultCommandEnd_keeps
  | succ n ih =>
    unfold runVault
    repeat' with_reducible
      first | assumption | apply outState_keeps | apply execVaultCommandEnd_keeps | apply ih

theorem relayVault_keeps (hs : Keeps s0 s) : Keeps s0 (relayVault hub op input s).state := by
  unfold relayVault
  repeat' first
    | with_reducible first | assumption | apply putBuf_keeps | apply wrV_keeps | apply outState_keeps
                           | apply keyCommand_keeps | apply runVault_keeps
    | split | dsimp only

theorem execMgIdentify_keeps (hs : Keeps s0 s) : KeepsOut s0 (execMgIdentify hub m s) := by
  unfold execMgIdentify
  repeat' first
    | intro _
    | with_reducible first | assumption | apply keeps_fold | apply keeps_fold_fst | apply keeps_fold_visit
                           | apply mgServe_keeps
    | with_reducible first | apply keeps_done | apply keeps_accepted | apply keepsOut_next
                           | apply keeps_ite | apply keepsOut_ite | apply keeps_ite_eff | apply keeps_ite_fst
    | split | simp only [keeps_mk] | dsimp only

theorem execMgAttest_keeps (hs : Keeps s0 s) : KeepsOut s0 (execMgAttest hub m s) := by
  unfold execMgAttest
  repeat' first
    | intro _
    | with_reducible first | assumption | apply keeps_fold | apply keeps_fold_fst | apply keeps_fold_visit
                           | apply mgServe_keeps | apply relayVault_keeps
    | with_reducible first | apply keeps_done | apply keeps_accepted | apply keepsOut_next
                           | apply keeps_ite | apply keepsOut_ite | apply keeps_ite_eff | apply keeps_ite_fst
    | split | simp only [keeps_mk] | dsimp only

theorem execMgUnsealChal_keeps (hs : Keeps s0 s) : KeepsOut s0 (execMgUnsealChal hub m s) := by
  unfold execMgUnsealChal
  repeat' first
    | intro _
    | with_reducible first | assumption | apply keeps_fold | apply keeps_fold_fst | apply keeps_fold_visit
                           | apply mgServe_keeps | apply relayVault_keeps
    | with_reducible first | apply keeps_done | apply keeps_accepted | apply keepsOut_next
                           | apply keeps_ite | apply keepsOut_ite | apply keeps_ite_eff | apply keeps_ite_fst
    | split | simp only [keeps_mk] | dsimp only

theorem execMgUnseal_keeps (hs : Keeps s0 s) : KeepsOut s0 (execMgUnseal hub m s) := by
  unfold execMgUnseal
  repeat' first
    | intro _
    | with_reducible first | assumption | apply keeps_fold | apply keeps_fold_fst | apply keeps_fold_visit
                           | apply mgServe_keeps | apply relayVault_keeps
    | with_reducible first | apply keeps_done | apply keeps_accepted | apply keepsOut_next
                           | apply keeps_ite | apply keepsOut_ite | apply keeps_ite_eff | apply keeps_ite_fst
    | split | simp only [keeps_mk] | dsimp only

theorem execMgReadSensors_keeps (hs : Keeps s0 s) : KeepsOut s0 (execMgReadSensors hub m s) := by
  unfold execMgReadSensors
  repeat' first
    | intro _
    | with_reducible first | assumption | apply keeps_fold | apply keeps_fold_fst | apply keeps_fold_visit
                           | apply mgServe_keeps
    | with_reducible first | apply keeps_done | apply keeps_accepted | apply keepsOut_next
                           | apply keeps_ite | apply keepsOut_ite | apply keeps_ite_eff | apply keeps_ite_fst
    | split | simp only [keeps_mk] | dsimp only

theorem execMgReadLog_keeps (hs : Keeps s0 s) : KeepsOut s0 (execMgReadLog hub m first s) := by
  unfold execMgReadLog
  repeat' first
    | intro _
    | with_reducible first | assumption | apply keeps_fold | apply keeps_fold_fst | apply keeps_fold_visit
                           | apply mgServe_keeps
    | with_reducible first | apply keeps_done | apply keeps_accepted | apply keepsOut_next
                           | apply keeps_ite | apply keepsOut_ite | apply keeps_ite_eff | apply keeps_ite_fst
    | split | simp only [keeps_mk] | dsimp only

theorem execMgReadPage_keeps (hs : Keeps s0 s) : KeepsOut s0 (execMgReadPage hub m a s) := by
  unfold execMgReadPage
  repeat' first
    | intro _
    | with_reducible first | assumption | apply keeps_fold | apply keeps_fold_fst | apply keeps_fold_visit
                           | apply mgServe_keeps | apply outState_keeps | apply readAny_keeps
    | with_reducible first | apply keeps_done | apply keeps_accepted | apply keepsOut_next
                           | apply keeps_ite | apply keepsOut_ite | apply keeps_ite_eff | apply keeps_ite_fst
    | split | simp only [keeps_mk] | dsimp only

theorem mgLogged_keeps (he : Keeps s0 e.state) : Keeps s0 (mgLogged hub code e).state := by
  unfold mgLogged
  repeat' with_reducible
    first | assumption | apply pushLog_keeps

theorem execMgWritePage_keeps (hs : Keeps s0 s) : KeepsOut s0 (execMgWritePage hub m a s) := by
  unfold execMgWritePage
  repeat' first
    | intro _
    | with_reducible first | assumption | apply keeps_fold | apply keeps_fold_fst | apply keeps_fold_visit
                           | apply mgServe_keeps | apply outState_keeps | apply writeAny_keeps | apply mgLogged_keeps
    | with_reducible first | apply keeps_done | apply keeps_accepted | apply keepsOut_next
                           | apply keeps_ite | apply keepsOut_ite | apply keeps_ite_eff | apply keeps_ite_fst
    | split | simp only [keeps_mk] | dsimp only

theorem writeChunk_keeps (hs : Keeps s0 s) : Keeps s0 (writeChunk s hub off data) := by
  unfold writeChunk
  repeat' with_reducible
    first | assumption | apply updTouched_keeps | apply setFlash_keeps

theorem execMgUpdateWrite_keeps (hs : Keeps s0 s) : KeepsOut s0 (execMgUpdateWrite hub m off data s) := by
  unfold execMgUpdateWrite
  repeat' first
    | intro _
    | with_reducible first | assumption | apply keeps_fold | apply keeps_fold_fst | apply keeps_fold_visit
                           | apply mgServe_keeps | apply mgLogged_keeps | apply writeChunk_keeps
    | with_reducible first | apply keeps_done | apply keeps_accepted | apply keepsOut_next
                           | apply keeps_ite | apply keepsOut_ite | apply keeps_ite_eff | apply keeps_ite_fst
    | split | simp only [keeps_mk] | dsimp only

theorem execMgUpdCommand_keeps (hs : Keeps s0 s) : KeepsOut s0 (execMgUpdCommand hub m op sub s) := by
  unfold execMgUpdCommand
  repeat' first
    | intro _
    | with_reducible first | assumption | apply keeps_fold | apply keeps_fold_fst | apply keeps_fold_visit
                           | apply mgServe_keeps | apply outState_keeps | apply execOp_keeps | apply mgLogged_keeps
    | with_reducible first | apply keeps_done | apply keeps_accepted | apply keepsOut_next
                           | apply keeps_ite | apply keepsOut_ite | apply keeps_ite_eff | apply keeps_ite_fst
    | split | simp only [keeps_mk] | dsimp only

theorem execMgArpIcmp_keeps {hub : Nat} {request : List Byte} {s : State} (hs : Keeps s0 s) : KeepsOut s0
    (execMgArpIcmp hub request s) := by
  unfold execMgArpIcmp
  repeat' first
    | intro _
    | with_reducible first | assumption | apply keeps_fold | apply keeps_fold_fst | apply keeps_fold_visit
                           | apply mgTakes_keeps | apply mgSend_keeps
    | with_reducible first | apply keeps_done | apply keeps_accepted | apply keepsOut_next | apply keepsOut_getD
                           | apply keeps_ite | apply keepsOut_ite | apply keeps_ite_eff | apply keeps_ite_fst
    | split | simp only [keeps_mk] | dsimp only

end Sys2Proof.Machine
end

