-- ==== Sys2Proof/WellFormed.lean ====
section
/-!
DEFINITION. Sys2Proof/WellFormed.lean: which commands lie within the ranges that the specification gives their operands.
The meanings are total and take any term; a well-formed one is what an initiator or an agent of the package can send.
-/
namespace Sys2Proof

open Sys2Proof.Machine

/-- A hub die (R1). -/
def hubOk (hub : Nat) : Bool := decide (hub < 2)

/-- A die number (R1). -/
def dieOk (die : Nat) : Bool := decide (die < 8)

/-- A switch port, P0 to P15 (R122). -/
def portOk (port : Nat) : Bool := decide (port < 16)

/-- A VI (R73). -/
def viOk (vi : Nat) : Bool := decide (vi < 256)

/-- A trip line (R447). -/
def lineOk (line : Nat) : Bool := decide (line < 8)

/-- A bit of RK_LOCKS (R533). -/
def islandOk (island : Nat) : Bool := decide (island < 5)

/-- A hart (R57). -/
def hartOk (hart : Nat) : Bool := decide (hart < 96)

/-- An initiator identity of 7 bits (R57). -/
def iniOk (ini : Nat) : Bool := decide (ini < 128)

/-- An initiator: a VI number goes with a hart (R57, R74). -/
def Who.wf (w : Who) : Bool := iniOk w.ini && (match w.vi with | none => true | some v => viOk v && hartOk w.ini)

/-- A write of CMD: die, cluster, VI group, SUB and ARGUMENT lie in their fields (R48, R61, R73). -/
def Cmd.wf (c : Cmd) : Bool :=
  dieOk c.die && decide (c.cluster < 4) && (match c.view with | none => true | some v => viOk v) && decide (c.sub < 256) &&
    decide (c.argument < 65536) && c.who.wf

/-- A register access: a view names its VI group and no other page does; the offset lies in the page and on a word, and on
two words for 64 bits; the value has at most the access's bits (R48, R70, R73). -/
def Access.wf (a : Access) : Bool :=
  dieOk a.die && decide (a.cluster < 4) && (blockIsView a.blk == a.view.isSome) &&
    (match a.view with | none => true | some v => viOk v) && decide (a.off < 4096 ∧ a.off % 4 = 0) &&
    (!a.wide || a.off % 8 == 0) && decide (a.value < 2 ^ (if a.wide then 64 else 32)) && a.who.wf

/-- A frame: 48-bit addresses and 16-bit type and APPID (R125, R196). -/
def Frame.wf (f : Frame) : Bool := decide (f.dst < 2 ^ 48 ∧ f.src < 2 ^ 48 ∧ f.etype < 65536 ∧ f.appid < 65536)

/-- A well-formed command. -/
def Instr.wf : Instr → Bool
  | .nop _ c => c.wf
  | .eventTest _ c => c.wf
  | .eventW1cWrite a => a.wf
  | .eventEnWrite a => a.wf
  | .readClearRead a => a.wf
  | .pageLockWrite a => a.wf
  | .lowWordRead a => a.wf
  | .lowWordWrite a => a.wf
  | .highWordWrite a => a.wf
  | .registerWrite a => a.wf
  | .msiReceive => true
  | .flitHandshakeFail die _ _ _ _ => dieOk die
  | .linkRetrainDone die _ _ _ => dieOk die
  | .linkInitialTrain die _ _ => dieOk die
  | .linkRestore _ c => c.wf
  | .linkRestoreDone die _ _ _ => dieOk die
  | .linkClearCounters _ c => c.wf
  | .cadenceMeasurement die _ => dieOk die
  | .outOfGuarantee die => dieOk die
  | .handshakeTimeout die _ _ _ => dieOk die
  | .timeSyncExchange die hub _ => dieOk die && hubOk hub
  | .syncExchangeLoss die => dieOk die
  | .counterSetFromHub die => dieOk die
  | .offsetInDelivery a => a.wf
  | .slewEnd hub => hubOk hub
  | .stepTakesEffect => true
  | .ppsInEdge hub => hubOk hub
  | .irigBFrame hub _ _ => hubOk hub
  | .leapSecondApply hub => hubOk hub
  | .refTimeoutExpiry hub _ => hubOk hub
  | .setTime c => c.wf
  | .step c => c.wf
  | .selectRef c => c.wf
  | .hold c => c.wf
  | .takeMaster c => c.wf
  | .takeMasterDone hub => hubOk hub
  | .resetServo c => c.wf
  | .timeSnapshotRead a => a.wf
  | .stampRead a => a.wf
  | .ptpMessageRx hub port _ _ _ _ _ _ => hubOk hub && portOk port
  | .trgArm c => c.wf
  | .trgDisarm c => c.wf
  | .triggerFiring hub _ => hubOk hub
  | .triggerPulseEnd hub _ => hubOk hub
  | .triggerArmedWrite a => a.wf
  | .frameIngress hub port frame _ _ => hubOk hub && portOk port && frame.wf
  | .crossbarSlot hub => hubOk hub
  | .samplerRecord hub => hubOk hub
  | .macAgeOut hub _ => hubOk hub
  | .gateListAdvance hub port => hubOk hub && portOk port
  | .qbvConfigChange hub port => hubOk hub && portOk port
  | .portDown hub port => hubOk hub && portOk port
  | .portFlushDone hub port => hubOk hub && portOk port
  | .portLinkReturn hub port => hubOk hub && portOk port
  | .portHoldUpExpiry hub port => hubOk hub && portOk port
  | .p13SendCheck hub => hubOk hub
  | .tokenBucketRefill hub vi => hubOk hub && viOk vi
  | .tblRead c => c.wf
  | .tblWrite c => c.wf
  | .macSearch c => c.wf
  | .macFlush c => c.wf
  | .switchClearCounters c => c.wf
  | .sessionStart c => c.wf
  | .sessionStop c => c.wf
  | .qbvCommit c => c.wf
  | .qRsvWrite a => a.wf
  | .egSend c => c.wf
  | .egressClearCounters c => c.wf
  | .egBufferRead die => dieOk die
  | .entryForgetExpiry hub _ => hubOk hub
  | .nodeForgetExpiry hub _ => hubOk hub
  | .supervisionSend hub => hubOk hub
  | .hubLostRehome hub => hubOk hub
  | .rehome c => c.wf
  | .rehomeWarmStart hub => hubOk hub
  | .rehomeCut hub => hubOk hub
  | .linkSignalUp hub port _ => hubOk hub && portOk port
  | .linkSignalLoss hub gone => hubOk hub && portOk gone.port
  | .lpCfgWrite a => a.wf
  | .nodeRead c => c.wf
  | .nodeWrite c => c.wf
  | .nodeSearch c => c.wf
  | .nodeFlush c => c.wf
  | .linkRestart c => c.wf
  | .laneClearCounters c => c.wf
  | .tdrRun c => c.wf
  | .tdrDone hub _ _ => hubOk hub
  | .sfpInsertion hub port _ => hubOk hub && portOk port
  | .ddmPoll hub port _ _ => hubOk hub && portOk port
  | .sdCfgWrite a => a.wf
  | .svCopyIngest hub => hubOk hub
  | .streamStale hub _ => hubOk hub
  | .stEnable c => c.wf
  | .stDisable c => c.wf
  | .stTune c => c.wf
  | .ingestClearCounters c => c.wf
  | .destRestart c => c.wf
  | .filterBatchVisit hub _ => hubOk hub
  | .detectorPresentation hub => hubOk hub
  | .profileLoad c => c.wf
  | .fsAssign c => c.wf
  | .filterClearCounters c => c.wf
  | .detEnable c => c.wf
  | .detDisable c => c.wf
  | .detTune c => c.wf
  | .detDestRestart c => c.wf
  | .detClearCounters c => c.wf
  | .pelotonOffer => true
  | .pannierSpillWrite die => dieOk die
  | .pannierRefill die => dieOk die
  | .pannierWalk die => dieOk die
  | .pelotonTick die => dieOk die
  | .pelotonLocalTick die => dieOk die
  | .takeStart a => a.wf
  | .takeTimeout die ini => dieOk die && iniOk ini
  | .takeIrqEnd die ini => dieOk die && iniOk ini
  | .pelStart c => c.wf
  | .post c => c.wf
  | .complete c => c.wf
  | .pelotonClearCounters c => c.wf
  | .flowHoldExpiry die _ => dieOk die
  | .flowEnable c => c.wf
  | .flowDisable c => c.wf
  | .flowSkip c => c.wf
  | .ringRestart c => c.wf
  | .flowClearCounters c => c.wf
  | .hartStart c => c.wf
  | .hartStop c => c.wf
  | .xlateWalkDone die => dieOk die
  | .xlateInval c => c.wf
  | .xlateInvalDone die => dieOk die
  | .rxEnable c => c.wf
  | .rxDisable c => c.wf
  | .rxRestart c => c.wf
  | .rxFrame hub => hubOk hub
  | .viCreate c => c.wf
  | .viRun c => c.wf
  | .quiesce c => c.wf
  | .kill c => c.wf
  | .killWriteCut vi => viOk vi
  | .viPartQuiesced vi _ => viOk vi
  | .qtimeoutExpiry vi => viOk vi
  | .viReset c => c.wf
  | .viResetDone vi => viOk vi
  | .viDestroy c => c.wf
  | .migrate c => c.wf
  | .migrationCutAt vi => viOk vi
  | .migrationGraceEnd vi => viOk vi
  | .viSave c => c.wf
  | .viSaveDone die => dieOk die
  | .viRestore c => c.wf
  | .viRestoreDone die => dieOk die
  | .shareApply c => c.wf
  | .shareApplyDone die => dieOk die
  | .shareClearCounters c => c.wf
  | .logStart c => c.wf
  | .logSwap c => c.wf
  | .logStop c => c.wf
  | .dirtyLogDone die => dieOk die
  | .crankBoundary die => dieOk die
  | .crankLocalBoundary die => dieOk die
  | .crankInputChange die _ _ => dieOk die
  | .crankScanEnd die => dieOk die
  | .crankOverrun die _ => dieOk die
  | .crankWindowWrite die _ _ w => dieOk die && w.wf
  | .journalCommit die hub => dieOk die && hubOk hub
  | .retainWriteError die hub => dieOk die && hubOk hub
  | .powerFailWarning hub => hubOk hub
  | .powerFailRecovery => true
  | .crLoad c => c.wf
  | .crLoadDone die => dieOk die
  | .crStart c => c.wf
  | .crankRestartDone die => dieOk die
  | .crStop c => c.wf
  | .crRun c => c.wf
  | .crStepMode c => c.wf
  | .crStep c => c.wf
  | .crFire c => c.wf
  | .olcCommit c => c.wf
  | .force c => c.wf
  | .unforce c => c.wf
  | .crUnload c => c.wf
  | .crankClearCounters c => c.wf
  | .taskClearCounters c => c.wf
  | .rtClear c => c.wf
  | .rtClearDone hub => hubOk hub
  | .captureTapSample hub => hubOk hub
  | .rowLateComplete hub _ => hubOk hub
  | .captureTriggerArrival hub => hubOk hub
  | .gooseWatchFrame hub => hubOk hub
  | .captureClose hub _ => hubOk hub
  | .captureReduce hub => hubOk hub
  | .captureReadoutDone hub => hubOk hub
  | .capEnable c => c.wf
  | .capDisable c => c.wf
  | .capTrigger c => c.wf
  | .capReadout c => c.wf
  | .capRelease c => c.wf
  | .capClearCounters c => c.wf
  | .dieStateReport die => dieOk die
  | .levelConditionChange hub => hubOk hub
  | .levelViewReceive die hub => dieOk die && hubOk hub
  | .dlHoldExpiry hub => hubOk hub
  | .swAliveWrite a => a.wf
  | .swAliveTimeout hub => hubOk hub
  | .laneLossTimeout hub _ => hubOk hub
  | .timeAlarmTimeout hub => hubOk hub
  | .levelForce c => c.wf
  | .coasterTableLoad hub => hubOk hub
  | .bfTimerExpiry hub _ => hubOk hub
  | .gooseRepeat hub _ => hubOk hub
  | .zoneLoad c => c.wf
  | .frameLoad c => c.wf
  | .zoneOff c => c.wf
  | .zoneReset c => c.wf
  | .coasterClearCounters c => c.wf
  | .tioSwSet a => a.wf
  | .tioSwClr a => a.wf
  | .tripIoClearCounters c => c.wf
  | .binAccept hub _ _ _ => hubOk hub
  | .tripSenseChange hub line _ => hubOk hub && lineOk line
  | .tcsDelayExpiry hub line => hubOk hub && lineOk line
  | .senseWinExpiry hub line => hubOk hub && lineOk line
  | .driveFaultExpiry hub line _ => hubOk hub && lineOk line
  | .tandemBoundary hub => hubOk hub
  | .tandemSegmentRx hub f => hubOk hub && f.wf
  | .beaconRx hub => hubOk hub
  | .tandemInputExchange => true
  | .leaseGateClose hub => hubOk hub
  | .leaseTakeover hub => hubOk hub
  | .contendListenExpiry hub => hubOk hub
  | .partnerPathLoss hub => hubOk hub
  | .tdPermitWrite a => a.wf
  | .tdPermitLapse hub => hubOk hub
  | .handoverAckDeadline hub => hubOk hub
  | .handoverCut hub => hubOk hub
  | .tdStart c => c.wf
  | .tdStop c => c.wf
  | .handover c => c.wf
  | .tdClearCounters c => c.wf
  | .unsealChal c => c.wf
  | .vaultUnseal c => c.wf
  | .vaultSeal c => c.wf
  | .dormant c => c.wf
  | .wake c => c.wf
  | .rootGen c => c.wf
  | .rootLoad c => c.wf
  | .vaultAuthLoad c => c.wf
  | .keyDerive c => c.wf
  | .keyUnwrap c => c.wf
  | .keyGen c => c.wf
  | .keyClear c => c.wf
  | .keySet c => c.wf
  | .encrypt c => c.wf
  | .decrypt c => c.wf
  | .macGen c => c.wf
  | .macVer c => c.wf
  | .attest c => c.wf
  | .vaultClearCounters c => c.wf
  | .vaultCommandEnd hub => hubOk hub
  | .unsealChallengeExpiry hub => hubOk hub
  | .keyPromotion hub _ => hubOk hub
  | .trngHealthFail hub => hubOk hub
  | .tamperAlarm die _ => dieOk die
  | .cacheZeroiseDone hub => hubOk hub
  | .debugChallengeRead => true
  | .debugUnlockResponse _ => true
  | .faClearCounters c => c.wf
  | .porAssert => true
  | .porRelease => true
  | .fuseSenseDone => true
  | .borAssert die => dieOk die
  | .borRelease die => dieOk die
  | .pinResetAssert => true
  | .pinResetRelease => true
  | .lockWaitExpiry die island => dieOk die && islandOk island
  | .ckfRelease die => dieOk die
  | .wdtExpiry die => dieOk die
  | .wdtKickWrite a => a.wf
  | .lckRelease die => dieOk die
  | .dbgResetAssert => true
  | .dbgResetRelease => true
  | .swrAssert c => c.wf
  | .swrRelease c => c.wf
  | .swrPulse c => c.wf
  | .swrPulseEnd die => dieOk die
  | .forceRelease c => c.wf
  | .resetCauseWrite a => a.wf
  | .walkGapExpiry die => dieOk die
  | .islandLockStable die island => dieOk die && islandOk island
  | .islandLockLoss die island => dieOk die && islandOk island
  | .optionLoad hub => hubOk hub
  | .optionReceive die _ => dieOk die
  | .startupLoad hub => hubOk hub
  | .pinFuse c => c.wf
  | .pinFuseDone hub => hubOk hub
  | .xbRead c => c.wf
  | .xbProgram c => c.wf
  | .xbErase c => c.wf
  | .xbOperationDone hub _ => hubOk hub
  | .mechanicBoot die => dieOk die
  | .mcRenewWrite a => a.wf
  | .mcCandWrite a => a.wf
  | .candidacyLapse die => dieOk die
  | .leadLeaseExpiry hub => hubOk hub
  | .mcYield c => c.wf
  | .mcRestart c => c.wf
  | .mcAuthLoad c => c.wf
  | .diePower c => c.wf
  | .diePowerDone die => dieOk die
  | .updVerify c => c.wf
  | .updActivate c => c.wf
  | .updCommit c => c.wf
  | .updAbort c => c.wf
  | .updOperationDone hub => hubOk hub
  | .mcClearCounters c => c.wf
  | .sensorSweep die _ _ => dieOk die
  | .avsStep hub _ => hubOk hub
  | .pmbusTransferFail hub _ => hubOk hub
  | .pmbAlert hub => hubOk hub
  | .railSet c => c.wf
  | .railClear c => c.wf
  | .logEntryProgram hub => hubOk hub
  | .mgIdentify hub _ => hubOk hub
  | .mgAttest hub _ => hubOk hub
  | .mgUnsealChal hub _ => hubOk hub
  | .mgUnseal hub _ => hubOk hub
  | .mgReadSensors hub _ => hubOk hub
  | .mgReadLog hub _ _ => hubOk hub
  | .mgReadPage hub _ a => hubOk hub && a.wf
  | .mgWritePage hub _ a => hubOk hub && a.wf
  | .mgUpdateWrite hub _ _ _ => hubOk hub
  | .mgUpdCommand hub _ _ _ => hubOk hub
  | .saddlebagRecordEnqueue hub => hubOk hub
  | .saddlebagRingWrite hub => hubOk hub
  | .sbNextRead a => a.wf
  | .sbSeekWrite a => a.wf
  | .snapshotTrigger hub _ => hubOk hub
  | .snapshotPeriod hub _ => hubOk hub
  | .freezeTrigger hub => hubOk hub
  | .sbPost c => c.wf
  | .sbFreeze c => c.wf
  | .sbUnfreeze c => c.wf
  | .sbArm c => c.wf
  | .sbDisarm c => c.wf
  | .ssEnable c => c.wf
  | .ssDisable c => c.wf
  | .sbTrigger c => c.wf
  | .sbClearCounters c => c.wf
  | .counterSelectWrite a => a.wf
  | .cyclometerSweep hub => hubOk hub
  | .cyRun c => c.wf
  | .cyStop c => c.wf
  | .cyClearCounters c => c.wf
  | .cvSlotRead a => a.wf
  | .dramTrainingDone die _ _ _ _ _ _ _ => dieOk die
  | .dramEccError die _ _ _ => dieOk die
  | .dramScrubPass die => dieOk die
  | .dramRefreshChange die _ _ => dieOk die
  | .dramClearCounters c => c.wf
  | .negativeStepEnd => true
  | .refclkLoss die => dieOk die
  | .refclkReturn die => dieOk die
  | .counterLevelTick => true
  | .hartTimerInterrupt hart _ => hartOk hart
  | .hartStore vi _ _ => viOk vi
  | .mgmtLinkChange hub _ _ => hubOk hub
  | .sfpModuleRemoval hub port => hubOk hub && portOk port
  | .mgArpIcmp hub _ => hubOk hub
  | .tripCurrentMeasure hub line _ => hubOk hub && lineOk line
  | .announceReceiptTimeout hub => hubOk hub

end Sys2Proof
end

