-- ==== Sys2Proof/Tests/Slice0.lean ====
section
/-!
SUPPORT. Sys2Proof/Tests/Slice0.lean: the smoke test of WellFormed, a few tests read off the rules, and for each statement
of Certificates/Slice0 concrete states and operands that meet its hypotheses, clause by clause.
-/
namespace Sys2Proof.Tests

open Sys2Proof Sys2Proof.Machine

set_option Elab.async false

def up : State := { State.reset with
  now := 10 ^ 11
  rst := (List.range 8).map (fun d => (d, { ResetSt.por with holds := [0,0,0,0,0,0,0,0], released := 8191, optDone := true, fuseSensed := true, locks := 65535 }))
  ctrs := (List.range 8).map (fun d => (d, ⟨true, 1000, 0, 0⟩)) }
def cmdAt (die ini sub arg : Nat) : Cmd := ⟨die, 0, none, sub, arg, ⟨ini, none⟩⟩
def withSel (s : State) (loc : Nat) (b : Block) (n arg : Nat) : State :=
  setBank s loc b 0 { bank s loc b 0 with sel := n, cmdArg := arg }
def tbUp (st : TbState) : State := { up with tbs := [(0, { TimeBase.empty with state := st, master := true })] }
def viUp (st : Nat) : State := wr up 2 R.VI_STATE 0 st
def dramUp (s : State) (d : Nat) : State := wr (wr s d R.DR_STATE 0 1) d R.DR_SIZE 0 8
def crUp (st guard : Nat) : State := wr { up with cranks := [(2, { Crank.empty with
  state := st, prog := some ⟨1, 8, 0, 0, [], [⟨0, 0, 16, 0, 0, 0⟩]⟩ })] } 2 R.CR_GUARD 0 guard
def flow0 : Flow := { cfg := 0x60100, base := 0, next := 0, admitNo := 1, head := 0, faulted := false, gap := false, recordsOff := false }
def item0 : Item := ⟨0, 0, 0, 0, 0, false, false, false, 0, 0, 0, 0, 0, .ready, none, 0, 0, .none, false, false, none⟩
def sliceUp (items : Map Item) (flows : Map Flow) : State := setSlice up 2 { Slice.empty with run := true, items := items, flows := flows }
def rxUp : State := setXl up 2 { Xlate.empty with rx := [(0, ⟨0, 0, 0, 0, 0, 0, false, false⟩)] }
def leadUp : State := wr up 0 R.MC_LEASE 0 8
def streamSet : State := wr (wr (wr (wr (wr (wr (viUp 1) 0 R.ST_CFG 0 0x10000) 0 R.ST_RATE 0 4800) 0 R.ST_CHMASK 0 1) 0 R.ST_TIMING 0 1000) 0 R.ST_STALE 0 1000) 0 (R.DEST_CFG.nth 0) 0 0x80021
def streamOn0 : State := { streamSet with streams := [(0, stagedStream streamSet 0 0)] }
def capSet : State := writeBytes (wr (wr (wr (wr (wr (wr (wr (dramUp up 0) 0 R.CAP_BASE 0 (dramBase 0)) 0 R.CAP_SIZE 0 16) 0 R.REC_DESC 0 (dramBase 0 + 0x2000000)) 0 R.REC_RATE 0 4800) 0 R.REC_POST 0 1000) 0 R.REC_MAX 0 1000) 0 R.REC_AREA 0 0x10000) (dramBase 0 + 0x2000000) [1]
def capUp (st : Nat) : State := setCap capSet 0 { Capture.empty with recs := [(0, { stagedRec capSet 0 0 with state := st, slots := [2] })] }
def vtUp (st ks len : Nat) : State :=
  wrV (wr (wr up 0 R.VT_STATUS 0 st) 0 R.KS_STATE 0 ks) 0 .keyVault 96 R.VT_IN_LEN len

def tk (op inst : Nat) : Ticket := ⟨op, 0, 1, 0, 0, 0, inst, none, 0⟩
def runs (s : State) (loc : Nat) (b : Block) (k : Ticket) : State :=
  setHdr s loc b { hdr s loc b with running := [k] }
def frame0 : Frame := ⟨1, 2, none, 0x88BA, 0, none, 64, [], false, false, none, .other⟩
def in0 : FrameIn := { frame := frame0, hub := 0, port := 0, lane := 0, cts := 0, order := 0, own := false, pass := false }
def rec0 : Rec := ⟨0, 0, 0, false, 0, []⟩
def linked (s : State) : State := atEnds (linkEnds 2 0 false) enterUp s

def acc (die ini : Nat) (r : Reg) (value : Nat) : Access := ⟨die, r.blk, 0, none, r.off, r.wide, value, ⟨ini, none⟩⟩
def writeOk (s : State) (a : Access) : Bool :=
  decide (gate s (accLoc a) a.blk a.who a.off a.wide true = .pass) && (target s (accLoc a) a.blk a.who.ini a.off).any (fun t =>
    writable a.blk a.who t.reg && !(decide (t.reg.acc = .rwl) && (hdr s (accLoc a) a.blk).lock && !(isLoader a.who)))
/-- A precondition of completion holds where a granted command acts. -/
def pre (p : State → Ctx → Prop) (s : State) (c : Cmd) (b : Block) (op : Nat) : Prop := p (acting s c b op) (ctxOf s c b op)
abbrev takesAt (t : State) (a : KeyArgs) (op : Nat) : Prop :=
  sealedUse t a op = false ∧ blockedRoot t a op = false ∧ (vaultState t a.hub = 1 → slotsRoom t a op = true ∧ ownerRoom t a op = true)
abbrev takes (s : State) (c : Cmd) (op : Nat) : Prop :=
  Grants s c .keyVault op (checksKey false op) ∧ takesAt (acting s c .keyVault op)
    (keyArgs (acting s c .keyVault op) (cmdLoc c .keyVault) .keyVault c.who.ini c.sub c.argument) op
theorem takes_hyps {s : State} {c : Cmd} {op : Nat} (hv : c.view = none) (h : takes s c op) :
    Grants s c (viewOr c .keyView .keyVault) op (checksKey c.view.isSome op) ∧
    vaultTakes op (acting s c (viewOr c .keyView .keyVault) op) (ctxOf s c (viewOr c .keyView .keyVault) op) := by
  simp only [viewOr, hv, Option.isSome_none]
  exact h

/-! ## Each check of WellFormed refuses an ill-formed term -/

theorem test_wf_good : (Instr.setTime (cmdAt 0 0 0 0)).wf = true ∧ (Instr.eventEnWrite (acc 0 0 R.DL_HOLD 1)).wf = true := by decide
theorem test_wf_hub : (Instr.slewEnd 2).wf = false := by decide
theorem test_wf_die : (Instr.wdtExpiry 8).wf = false := by decide
theorem test_wf_port : (Instr.portDown 0 16).wf = false := by decide
theorem test_wf_vi : (Instr.viResetDone 256).wf = false := by decide
theorem test_wf_line : (Instr.tcsDelayExpiry 0 8).wf = false := by decide
theorem test_wf_island : (Instr.islandLockLoss 0 5).wf = false := by decide
theorem test_wf_hart : (Instr.hartTimerInterrupt 96 0).wf = false := by decide
theorem test_wf_initiator : (Instr.takeTimeout 2 128).wf = false := by decide
theorem test_wf_frame : (Instr.frameIngress 0 0 { frame0 with etype := 65536 } 0 0).wf = false := by decide
theorem test_wf_command :
    (Instr.setTime (cmdAt 8 0 0 0)).wf = false ∧ (Instr.setTime (cmdAt 0 0 256 0)).wf = false ∧
    (Instr.setTime (cmdAt 0 0 0 65536)).wf = false ∧ (Instr.setTime { cmdAt 0 0 0 0 with cluster := 4 }).wf = false ∧
    (Instr.setTime { cmdAt 0 0 0 0 with view := some 256 }).wf = false ∧ (Instr.setTime { cmdAt 0 0 0 0 with who := ⟨128, none⟩ }).wf = false ∧
    (Instr.setTime { cmdAt 0 0 0 0 with who := ⟨96, some 0⟩ }).wf = false := by decide
theorem test_wf_access :
    (Instr.eventEnWrite { acc 0 0 R.DL_HOLD 1 with off := 4096 }).wf = false ∧
    (Instr.eventEnWrite { acc 0 0 R.DL_HOLD 1 with off := 2 }).wf = false ∧
    (Instr.eventEnWrite { acc 0 0 R.DL_HOLD 1 with value := 2 ^ 32 }).wf = false ∧
    (Instr.eventEnWrite { acc 0 0 R.DL_HOLD 1 with view := some 0 }).wf = false ∧
    (Instr.eventEnWrite { acc 0 0 R.DL_HOLD 1 with off := 0x90C, wide := true }).wf = false ∧
    (Instr.eventEnWrite { acc 0 0 R.DL_HOLD 1 with die := 8 }).wf = false ∧
    (Instr.eventEnWrite { acc 0 0 R.DL_HOLD 1 with who := ⟨0, some 256⟩ }).wf = false := by decide

/-! ## Small tests; the expected results are read off the rule that each one names -/

/-- What a command answers. -/
def after (i : Instr) (s : State) : State := match exec i s with
  | .next t => t
  | _ => s

/-- The table gives its rows no bits. -/
theorem test_no_word_spells_a_command : decodeTableWord 32 1 = none := rfl
/-- R81: seconds 5 and 7 ns; the time 0 is given as 1. -/
theorem test_cts : ctsOf ⟨true, 5, 7, 0⟩ = 0x140000007 ∧ ctsOf ⟨true, 0, 0, 0⟩ = 1 ∧ ctsOf ⟨false, 5, 7, 0⟩ = 0 := by decide
/-- R62, R65: the first command of a page takes sequence number 1 and answers DONE. -/
theorem test_nop_result : (bank (after (.nop .timeBase (cmdAt 0 5 0 0)) up) 0 .timeBase 5).cmdResult = 1 * 65536 := by decide +kernel
/-- R64: STEP in UNSET is refused with ILLEGAL_STATE, code 3. -/
theorem test_step_refused : (bank (after (.step (cmdAt 0 5 0 0)) up) 0 .timeBase 5).cmdResult % 16 = 3 := by decide +kernel
/-- R67: EVENT_TEST sets its bit, a second one counts, and W1C of another bit leaves it. -/
theorem test_event_bit :
    (let s := after (.eventTest .timeBase (cmdAt 0 5 6 0)) (after (.eventTest .timeBase (cmdAt 0 5 6 0)) up)
     (hdr s 0 .timeBase).event = 64 ∧ (hdr s 0 .timeBase).setAgain = 6 * 65536 + 1) := by decide +kernel
/-- R93: SET_TIME takes SET_SEC and SET_NS on every die. -/
theorem test_set_time : ctr (after (.setTime (cmdAt 0 5 0 0)) (wr (wr up 0 R.SET_SEC 0 9) 0 R.SET_NS 0 8)) 7 = ⟨true, 9, 8, 0⟩ := by
  decide +kernel
/-- R50: an access to a die that the variant lacks ends in an access fault. -/
theorem test_absent_die : (after (.nop .timeBase (cmdAt 1 0 0 0)) { up with variant := .kz2 }).resp = .accessFault := by decide +kernel
/-- R274: a deadline of 0 is later than every other; the low 4 bits do not count. -/
theorem test_deadlines :
    earlier { item0 with deadline := 16 } { item0 with deadline := 0 } = true ∧
    earlier { item0 with deadline := 31, adm := 1 } { item0 with deadline := 16, adm := 2 } = true := by decide
/-- R232: half a coefficient of one rounds 3 · 0.5 up to 2. -/
theorem test_fir : (fir ⟨0, 0, 0, 0, 1, 0, 0, 0, 0, 0, [131072]⟩ [3]).1 = 2 := by decide
/-- The check value of the IEEE 802.3 CRC for the digits 1 to 9. -/
theorem test_crc32 : crc32 [0x31, 0x32, 0x33, 0x34, 0x35, 0x36, 0x37, 0x38, 0x39] = 0xCBF43926 := by decide +kernel
/-- A step takes the front command and leaves the rest. -/
theorem test_step_queue :
    (match step { up with pending := [.nop .timeBase (cmdAt 0 5 0 0), .stepTakesEffect] } with
      | .next t => decide (t.pending = [.stepTakesEffect])
      | _ => false) = true := by decide +kernel

/-! ## The hypotheses of every statement are met -/

/-- The hypotheses of `PageLinkAndTimeCommandsComplete` are met. -/
theorem witness_PageLinkAndTimeCommandsComplete :
    Grants up (cmdAt 0 0 0 0) .resetKs 0x00 checksNop ∧
    Grants up (cmdAt 0 0 0 0) .resetKs 0x01 checksEventTest ∧
    Grants up (cmdAt 0 96 0 0) (linkBlk false) 0x10 (checksLinkRestore false) ∧
    Grants up (cmdAt 0 96 0 0) (linkBlk false) 0x11 (checksLinkClearCounters false) ∧
    Grants up (cmdAt 0 96 0 0) .dram 0x10 checksDramClearCounters ∧
    Grants up (cmdAt 0 0 0 0) .timeBase 0x10 checksSetTime ∧
    Grants (tbUp .free) (cmdAt 0 0 0 0) .timeBase 0x11 checksStep ∧
    Grants (tbUp .free) (cmdAt 0 0 0 0) .timeBase 0x12 (tbChecks servoStates) ∧
    Grants (tbUp .locked) (cmdAt 0 0 0 0) .timeBase 0x13 (tbChecks [.acquire, .locked]) ∧
    Grants (tbUp .follow) (cmdAt 0 0 0 0) .timeBase 0x14 checksTakeMaster ∧
    Grants (tbUp .holdover) (cmdAt 0 0 0 0) .timeBase 0x15 (tbChecks servoStates) ∧
    Grants (wr (wr (wr up 0 R.TRG_CTRL 0 32) 0 R.TRG_START 0 (2000 * 2 ^ 30)) 0 R.TRG_WIDTH 0 1) (cmdAt 0 0 0 0) (trgBlk (cmdAt 0 0 0 0)) 0x10 checksTrgArm ∧
    Grants { up with trigs := [(0, { Trig.empty with armed := true })] } (cmdAt 0 0 0 0) (trgBlk (cmdAt 0 0 0 0)) 0x11 checksTrgDisarm := by
  decide +kernel

/-- The hypotheses of `SwitchAndLaneCommandsComplete` are met. -/
theorem witness_SwitchAndLaneCommandsComplete :
    Grants up (cmdAt 0 0 0 0) .switch 0x10 checksTblRead ∧
    Grants up (cmdAt 0 0 0 0) .switch 0x11 checksTblWrite ∧
    Grants up (cmdAt 0 0 0 0) .switch 0x12 checksMacSearch ∧
    Grants up (cmdAt 0 0 0 0) .switch 0x13 checksMacFlush ∧
    Grants up (cmdAt 0 0 0 0) .switch 0x14 checksSwitchClearCounters ∧
    Grants up (cmdAt 0 0 0 0) .switch 0x15 checksSessionStart ∧
    Grants (setSw up 0 { swOf up 0 with sessions := [(0, ⟨true, 0, 0, 0, false⟩)] }) (cmdAt 0 0 0 0) .switch 0x16 checksSessionStop ∧
    Grants (wr (wr up 0 R.QBV_LEN 0 1) 0 R.QBV_CYCLE 0 1000) (cmdAt 0 0 0 0) .switchPort 0x10 checksQbvCommit ∧
    Grants (withSel (wrB (setSw (viUp 2) 0 (tblPut (swOf up 0) 9 0 ⟨0x2000, 0, 0, 0⟩)) 0 R.EG_LEN 0 64) 0 .egressView 0 0) { cmdAt 0 0 0 0 with view := some 0 } .egressView 0x10 checksEgSend ∧
    Grants (viUp 2) { cmdAt 0 0 0 0 with view := some 0 } .egressView 0x11 checksEgressClearCounters ∧
    Grants (wr up 0 R.REHOME_AT 0 (1000 * 2 ^ 30 + 1000000)) (cmdAt 0 0 0 0) .lane 0x14 checksRehome ∧
    Grants up (cmdAt 0 0 0 0) .lane 0x10 checksNodeRead ∧
    Grants up (cmdAt 0 0 0 0) .lane 0x11 checksNodeWrite ∧
    Grants up (cmdAt 0 0 0 0) .lane 0x12 checksNodeSearch ∧
    Grants up (cmdAt 0 0 0 0) .lane 0x13 checksNodeFlush ∧
    Grants (wr up 0 R.LP_STATE 0 3) (cmdAt 0 0 0 0) .lane 0x15 checksLinkRestart ∧
    Grants up (cmdAt 0 0 0 0) .lane 0x16 checksLaneClearCounters ∧
    Grants up (cmdAt 0 0 0 0) .phyCopper 0x10 checksTdrRun := by
  decide +kernel

/-- The hypotheses of `StreamAndPelotonCommandsComplete` are met. -/
theorem witness_StreamAndPelotonCommandsComplete :
    Grants (wr streamSet 2 R.SHF_SLOTS 0 64) (cmdAt 0 0 0 0) .svIngest 0x10 checksStEnable ∧
    pre streamFits (wr streamSet 2 R.SHF_SLOTS 0 64) (cmdAt 0 0 0 0) .svIngest 0x10 ∧
    Grants streamOn0 (cmdAt 0 0 0 0) .svIngest 0x11 checksStDisable ∧
    Grants streamOn0 (cmdAt 0 0 0 0) .svIngest 0x12 checksStTune ∧
    Grants up (cmdAt 0 0 0 0) .svIngest 0x13 checksIngestClearCounters ∧
    Grants streamOn0 (cmdAt 0 0 0 0) .svIngest 0x14 checksDestRestart ∧
    Grants up (cmdAt 0 0 0 0) .filter 0x10 checksProfileLoad ∧
    Grants (withSel up 0 .filter 64 0) (cmdAt 0 0 0 0) .filter 0x11 checksFsAssign ∧
    Grants up (cmdAt 0 0 0 0) .filter 0x12 checksFilterClearCounters ∧
    Grants up (cmdAt 0 0 0 0) .detector 0x10 checksDetEnable ∧
    Grants { up with dets := [(0, stagedDet up 0 0)] } (cmdAt 0 0 0 0) .detector 0x11 checksDetDisable ∧
    Grants { up with dets := [(0, stagedDet up 0 0)] } (cmdAt 0 0 0 0) .detector 0x12 checksDetTune ∧
    Grants { up with dets := [(0, stagedDet up 0 0)] } (cmdAt 0 0 0 0) .detector 0x13 checksDetDestRestart ∧
    Grants up (cmdAt 0 0 0 0) .detector 0x14 checksDetClearCounters ∧
    Grants up (cmdAt 2 0 0 0) .peloton 0x10 checksPelStart ∧
    Grants (wrB (wr (wr (sliceUp [] [(0, flow0)]) 2 R.SHF_QUOTA 0 9) 2 R.VI_STATE 0 2) 2 (R.POST_D0_D3.nth 0) 0 (3 * 2 ^ 40)) (cmdAt 2 0 0 0) (viewOr (cmdAt 2 0 0 0) .pelotonView .peloton) 0x11 checksPost ∧
    pre postFits (wrB (wr (wr (sliceUp [] [(0, flow0)]) 2 R.SHF_QUOTA 0 9) 2 R.VI_STATE 0 2) 2 (R.POST_D0_D3.nth 0) 0 (3 * 2 ^ 40)) (cmdAt 2 0 0 0) (viewOr (cmdAt 2 0 0 0) .pelotonView .peloton) 0x11 ∧
    Grants (setSlice up 2 { Slice.empty with run := true, items := [(0, { item0 with state := .taken, slot := some 0 })], gens := [(0, 0)] }) (cmdAt 2 0 0 0) (viewOr (cmdAt 2 0 0 0) .pelotonView .peloton) 0x12 checksComplete ∧
    pre itemTaken (setSlice up 2 { Slice.empty with run := true, items := [(0, { item0 with state := .taken, slot := some 0 })], gens := [(0, 0)] }) (cmdAt 2 0 0 0) (viewOr (cmdAt 2 0 0 0) .pelotonView .peloton) 0x12 ∧
    Grants up (cmdAt 2 0 0 0) (viewOr (cmdAt 2 0 0 0) .pelotonView .peloton) 0x13 checksPelotonClearCounters ∧
    Grants (wr (viUp 1) 2 R.FLOW_CFG 0 0x60000) (cmdAt 2 0 0 0) .pelotonFlow 0x10 checksFlowEnable ∧
    Grants (sliceUp [] [(0, flow0)]) (cmdAt 2 0 0 0) .pelotonFlow 0x11 checksFlowDisable ∧
    Grants (sliceUp [(0, item0)] [(0, flow0)]) (cmdAt 2 0 0 0) .pelotonFlow 0x12 checksFlowSkip ∧
    Grants (sliceUp [] [(0, flow0)]) (cmdAt 2 0 0 0) (viewOr (cmdAt 2 0 0 0) .flowView .pelotonFlow) 0x13 checksRingRestart ∧
    Grants up (cmdAt 2 0 0 0) (viewOr (cmdAt 2 0 0 0) .flowView .pelotonFlow) 0x14 checksFlowClearCounters := by
  unfold pre streamFits postFits itemTaken
  decide +kernel

/-- The hypotheses of `ViCommandsComplete` are met. -/
theorem witness_ViCommandsComplete :
    Grants up (cmdAt 2 0 0 0) .hartCluster 0x10 checksHartStart ∧
    Grants (wr up 2 R.HC_STATE 0 1) (cmdAt 2 0 0 0) .hartCluster 0x11 checksHartStop ∧
    Grants up (cmdAt 2 0 0 0) .devXlate 0x10 checksXlateInval ∧
    Grants up (cmdAt 2 0 0 0) .devXlate 0x11 checksRxEnable ∧
    Grants rxUp (cmdAt 2 0 0 0) .devXlate 0x12 checksRxDisable ∧
    Grants rxUp (cmdAt 2 0 0 0) .devXlate 0x13 checksRxRestart ∧
    Grants up (cmdAt 2 0 0 0) .viCtrl 0x10 checksViCreate ∧
    Grants (viUp 1) (cmdAt 2 0 0 0) .viCtrl 0x11 checksViRun ∧
    Grants (viUp 1) (cmdAt 2 0 0 0) .viCtrl 0x12 checksQuiesce ∧
    Grants (viUp 2) (cmdAt 2 0 0 0) .viCtrl 0x13 checksKill ∧
    Grants (viUp 4) (cmdAt 2 0 0 0) .viCtrl 0x14 checksViReset ∧
    Grants (viUp 4) (cmdAt 2 0 0 0) .viCtrl 0x15 checksViDestroy ∧
    Grants (wr (viUp 2) 2 R.VI_CUT_AT 0 (1000 * 2 ^ 30 + 1000000)) (cmdAt 2 0 0 0) .viCtrl 0x16 checksMigrate ∧
    Grants { wr (dramUp (viUp 4) 2) 2 R.VI_STATE_BASE 0 (dramBase 2) with vis := [(0, { ViSt.empty with out := true })] } (cmdAt 2 0 0 0) .viCtrl 0x17 checksViSave ∧
    Grants (wr (dramUp (viUp 14) 2) 2 R.VI_STATE_BASE 0 (dramBase 2)) (cmdAt 2 0 0 0) .viCtrl 0x18 checksViRestore ∧
    Grants (viUp 1) (cmdAt 2 0 0 0) .derailleur 0x10 checksShareApply ∧
    Grants up (cmdAt 2 0 0 0) .derailleur 0x11 checksShareClearCounters ∧
    Grants (wr (wr (wr (dramUp (viUp 2) 2) 2 R.LOG_BASE0 0 (dramBase 2)) 2 R.LOG_BASE1 0 (dramBase 2)) 2 R.LOG_PAGES 0 1) (cmdAt 2 0 0 0) .dirtyLog 0x10 checksLogStart ∧
    Grants { viUp 2 with logs := [(0, ⟨true, 0, 0, 0, 0, 1⟩)] } (cmdAt 2 0 0 0) .dirtyLog 0x11 checksLogSwap ∧
    Grants { viUp 2 with logs := [(0, ⟨true, 0, 0, 0, 0, 1⟩)] } (cmdAt 2 0 0 0) .dirtyLog 0x12 checksLogStop := by
  decide +kernel

/-- The hypotheses of `CrankAndCaptureCommandsComplete` are met. -/
theorem witness_CrankAndCaptureCommandsComplete :
    Grants up (cmdAt 2 0 0 0) .crank 0x10 checksCrLoad ∧
    Grants (crUp 1 0) (cmdAt 2 0 2 0) .crank 0x11 checksCrStart ∧
    Grants (crUp 2 0) (cmdAt 2 0 0 0) .crank 0x12 checksCrStop ∧
    Grants (crUp 3 0) (cmdAt 2 0 0 0) .crank 0x13 checksCrRun ∧
    Grants (wr (dramUp (crUp 1 1) 2) 2 R.CR_IMAGE_BASE 0 (dramBase 2)) (cmdAt 2 0 0 0) .crank 0x14 checksCrStepMode ∧
    Grants (crUp 4 0) (cmdAt 2 0 0 0) .crank 0x15 checksCrStep ∧
    Grants (crUp 2 0) (cmdAt 2 0 0 8) (crBlk (cmdAt 2 0 0 8)) 0x16 checksCrFire ∧
    Grants (wr (crUp 1 4) 2 R.CR_OLC_COUNT 0 1) (cmdAt 2 0 0 0) .crank 0x17 checksOlcCommit ∧
    Grants (withSel (crUp 1 2) 2 .crank 64 0) (cmdAt 2 0 0 0) .crank 0x18 checksForce ∧
    Grants (crUp 1 0) (cmdAt 2 0 1 0) .crank 0x19 checksUnforce ∧
    Grants (crUp 1 0) (cmdAt 2 0 0 0) .crank 0x1A checksCrUnload ∧
    Grants up (cmdAt 2 0 0 0) .crank 0x1B checksCrankClearCounters ∧
    Grants up (cmdAt 2 0 0 0) .crankTask 0x10 checksTaskClearCounters ∧
    Grants (wr up 0 R.RT_CFG 0 1) (cmdAt 0 0 0 0) .xspiRetain 0x10 checksRtClear ∧
    Grants capSet (cmdAt 0 0 0 0) .capture 0x10 checksCapEnable ∧
    pre recordFits capSet (cmdAt 0 0 0 0) .capture 0x10 ∧
    Grants (capUp 1) (cmdAt 0 0 0 0) .capture 0x11 checksCapDisable ∧
    Grants (capUp 1) (cmdAt 0 0 0 0) (capBlk (cmdAt 0 0 0 0)) 0x12 checksCapTrigger ∧
    Grants (wr (capUp 1) 0 R.REC_RD_LEN 0 8192) (cmdAt 0 0 0 0) (capBlk (cmdAt 0 0 0 0)) 0x13 checksCapReadout ∧
    Grants (capUp 1) (cmdAt 0 0 0 0) (capBlk (cmdAt 0 0 0 0)) 0x14 checksCapRelease ∧
    Grants up (cmdAt 0 0 0 0) (capBlk (cmdAt 0 0 0 0)) 0x15 checksCapClearCounters := by
  unfold pre recordFits
  decide +kernel

/-- The hypotheses of `VaultCommandsComplete` are met. -/
theorem witness_VaultCommandsComplete :
    takes (vtUp 0 0 0) (cmdAt 0 96 0 1) 0x10 ∧
    takes (vtUp 0 0 192) (cmdAt 0 96 0 1) 0x11 ∧
    takes (vtUp 1 0 0) (cmdAt 0 96 0 1) 0x12 ∧
    takes (vtUp 1 0 0) (cmdAt 0 96 0 1) 0x13 ∧
    takes (vtUp 2 0 0) (cmdAt 0 96 0 1) 0x14 ∧
    takes (vtUp 1 0 0) (cmdAt 0 96 0 1) 0x15 ∧
    takes (vtUp 1 0 0) (cmdAt 0 96 0 1) 0x16 ∧
    takes (vtUp 1 0 0) (cmdAt 0 96 0 1) 0x17 ∧
    takes (wrV (vtUp 1 7 1) 0 .keyVault 96 R.VT_TARGET 1) (cmdAt 0 96 0 1) 0x20 ∧
    takes (wrV (vtUp 1 5 40) 0 .keyVault 96 R.VT_TARGET 1) (cmdAt 0 96 0 1) 0x21 ∧
    takes (vtUp 1 0 0) (cmdAt 0 96 0 1) 0x22 ∧
    takes (vtUp 1 0 0) (cmdAt 0 96 0 1) 0x23 ∧
    takes (vtUp 1 0 0) (cmdAt 0 96 0 1) 0x24 ∧
    takes (vtUp 1 1 13) (cmdAt 0 96 0 1) 0x28 ∧
    takes (vtUp 1 3 29) (cmdAt 0 96 0 1) 0x29 ∧
    takes (vtUp 1 9 16) (cmdAt 0 96 0 1) 0x2A ∧
    takes (vtUp 1 11 40) (cmdAt 0 96 0 1) 0x2B ∧
    takes (vtUp 1 0 64) (cmdAt 0 96 0 1) 0x30 ∧
    Grants up (cmdAt 0 0 0 0) .frameAuth 0x10 checksFaClearCounters ∧
    Grants up (cmdAt 0 0 0 0) .keyVault 0x31 checksVaultClearCounters := by
  refine ⟨?_, ?_, ?_, ?_, ?_, ?_, ?_, ?_, ?_, ?_, ?_, ?_, ?_, ?_, ?_, ?_, ?_, ?_, ?_, ?_⟩ <;> decide +kernel

/-- The hypotheses of `ResetAndMechanicCommandsComplete` are met. -/
theorem witness_ResetAndMechanicCommandsComplete :
    Grants up (cmdAt 0 0 0 0) .resetKs 0x10 (swrChecks false) ∧
    Grants up (cmdAt 0 0 0 0) .resetKs 0x11 (swrChecks true) ∧
    Grants up (cmdAt 0 0 0 0) .resetKs 0x12 (swrChecks true) ∧
    Grants up (cmdAt 0 127 0 0) .resetKs 0x13 checksForceRelease ∧
    Grants (wr up 0 (R.PM_FUSES.nth 0) 0 0) (cmdAt 0 127 0 0) .option 0x10 checksPinFuse ∧
    Grants (wr up 0 R.XB_LEN 0 1) (cmdAt 0 96 0 0) .xspiBoot 0x10 checksXbRead ∧
    Grants (wr up 0 R.XB_LEN 0 1) (cmdAt 0 96 0 0) .xspiBoot 0x11 checksXbProgram ∧
    Grants up (cmdAt 0 96 0 0) .xspiBoot 0x12 checksXbErase ∧
    Grants (setMech leadUp 0 { mechOf up 0 with candAt := some (10 ^ 11) }) (cmdAt 0 96 0 0) .mechanic 0x10 checksMcYield ∧
    Grants up (cmdAt 0 96 0 0) .mechanic 0x11 checksMcRestart ∧
    Grants up (cmdAt 0 127 0 0) .mechanic 0x12 checksMcAuthLoad ∧
    Grants leadUp (cmdAt 0 96 1 2) .mechanic 0x13 checksDiePower ∧
    Grants (wr leadUp 0 R.MC_UPD_STATE 0 0) (cmdAt 0 96 0 0) .mechanic 0x20 (updChecks [0, 2]) ∧
    Grants (wr leadUp 0 R.MC_UPD_STATE 0 2) (cmdAt 0 96 0 0) .mechanic 0x21 (updChecks [2]) ∧
    Grants (wr leadUp 0 R.MC_UPD_STATE 0 4) (cmdAt 0 96 0 0) .mechanic 0x22 (updChecks [4]) ∧
    Grants (wr leadUp 0 R.MC_UPD_STATE 0 4) (cmdAt 0 96 0 0) .mechanic 0x23 (updChecks [4]) ∧
    Grants up (cmdAt 0 96 0 0) .mechanic 0x30 checksMcClearCounters ∧
    Grants (wr (wr leadUp 0 R.PMB_CFG 0 1) 0 R.AVS_CFG 0 0) (cmdAt 0 96 0 8000) .pmbus 0x10 checksRailSet ∧
    Grants (wr leadUp 0 R.PMB_CFG 0 1) (cmdAt 0 96 0 0) .pmbus 0x11 railChecks := by
  decide +kernel

/-- The hypotheses of `RecorderCoasterAndTandemCommandsComplete` are met. -/
theorem witness_RecorderCoasterAndTandemCommandsComplete :
    Grants up (cmdAt 0 0 1 0) .saddlebag 0x10 checksSbPost ∧
    Grants up (cmdAt 0 0 0 0) .saddlebag 0x11 sbChecks ∧
    Grants (wr up 0 R.SB_STATE 0 3) (cmdAt 0 0 0 0) .saddlebag 0x12 sbChecks ∧
    Grants (wr up 0 R.SB_FRZ_CFG 0 1) (cmdAt 0 0 0 0) .saddlebag 0x13 checksSbArm ∧
    Grants (wr up 0 R.SB_STATE 0 1) (cmdAt 0 0 0 0) .saddlebag 0x14 sbChecks ∧
    Grants up (cmdAt 0 0 0 0) .saddlebag 0x16 sbChecks ∧
    Grants up (cmdAt 0 0 0 0) .saddlebag 0x17 sbChecks ∧
    Grants up (cmdAt 0 0 0 0) .saddlebag 0x18 sbChecks ∧
    Grants (wr (wr (wr (wr (dramUp up 0) 0 R.CY_CFG 0 1) 0 R.CY_PERIOD 0 1000) 0 R.CY_RING_SIZE 0 12) 0 R.CY_RING_BASE 0 (dramBase 0)) (cmdAt 0 96 0 0) .cyclometer 0x10 checksCyRun ∧
    Grants { up with cys := [(0, { CySt.empty with running := true })] } (cmdAt 0 96 0 0) .cyclometer 0x11 checksCyStop ∧
    Grants up (cmdAt 0 96 0 0) .cyclometer 0x12 checksCyClearCounters ∧
    Grants (wr up 0 (R.SS_ENTRY.nth 0) 0 (2 ^ 31 + 0)) (cmdAt 0 0 0 0) .saddlebag 0x15 checksSsEnable ∧
    Grants up (cmdAt 0 0 0 0) .resetKs 0x30 checksLevelForce ∧
    Grants up (cmdAt 0 0 0 0) .coaster 0x10 checksZoneLoad ∧
    Grants (withSel (wr up 0 R.CF_CFG 64 64) 0 .coaster 64 0) (cmdAt 0 0 0 0) .coaster 0x11 checksFrameLoad ∧
    Grants up (cmdAt 0 0 0 0) .coaster 0x12 checksZoneOff ∧
    Grants { up with coasters := [(0, { Coaster.empty with zones := [(0, { zoneOf up 0 0 with state := 4, regs := [1024, 0, 0, 0, 0, 0, 0, 0] })] })] } (cmdAt 0 0 0 0) .coaster 0x13 checksZoneReset ∧
    Grants up (cmdAt 0 0 0 0) .coaster 0x14 checksCoasterClearCounters ∧
    Grants up (cmdAt 0 0 0 0) .tripIo 0x10 checksTripIoClearCounters ∧
    Grants up (cmdAt 0 0 0 0) .tandemLane 0x10 checksTdStart ∧
    Grants (setTd up 0 { Tandem.empty with role := 1 }) (cmdAt 0 0 0 0) .tandemLane 0x11 checksTdStop ∧
    Grants (wr (setTd (tbUp .locked) 0 { Tandem.empty with role := 1, partner := some ⟨2, true, true, false, 0⟩ }) 0 R.TD_HAND_AT 0 (1000 * 2 ^ 30 + 100000000)) (cmdAt 0 0 0 0) .tandemLane 0x12 checksHandover ∧
    Grants up (cmdAt 0 0 0 0) .tandemLane 0x13 checksTdClearCounters := by
  decide +kernel
/-- The hypotheses of `LinkAndCadenceEventsComplete` are met. -/
theorem witness_LinkAndCadenceEventsComplete :
    endsIn (atEnds (linkEnds 2 0 false) enterUp up) (linkEnds 2 0 false) 2 = true ∧
    (let s := atEnds (linkEnds 2 0 false) beginRetrain up
     endsIn s (linkEnds 2 0 false) 1 = true ∧ restoreRuns s (linkEnds 2 0 false) = false ∧ linkRuns s (linkEnds 2 0 false) = true) ∧
    (linkRuns up (linkEnds 0 0 true) = true ∧ linkState up (linkEnds 0 0 true).1 = 0 ∧ (linkOf up (linkEnds 0 0 true)).declared = false) ∧
    restoreRuns (atEnds (linkEnds 0 0 true) (putRestore true) up) (linkEnds 0 0 true) = true ∧
    (domRun up 2 4 = true ∧ (∀ v ∈ [9, 8, 7, 6, 5, 4, 3, 2], v < 65536) ∧ [9, 8, 7, 6, 5, 4, 3, 2].length = 8) ∧
    (let s := setCad (wr (wr up 0 R.SN_STATE 0 1) 0 R.SN_VALUE 0 8750) 0 ⟨true, some 0, false⟩
     domRun s 0 4 = true ∧ belowLong s 0 = true ∧ vddCoreHigh s 0 = true) ∧
    (present up 3 = true ∧ endStands up 3 1 = true ∧ endStands up 3 12 = true) := by decide +kernel

/-- The hypotheses of `RecorderAndDramEventsComplete` are met. -/
theorem witness_RecorderAndDramEventsComplete :
    (let s := { up with recs := [⟨0, rec0⟩] }
     s.recs.find? (fun r => r.hub == 0) = some ⟨0, rec0⟩ ∧ domRun up 0 0 = true) ∧
    (let s := setSbag up 1 { Sbag.empty with queues := [[], [rec0], []] }
     nextPlane (sbagOf s 1) = some 1 ∧ sbQueue (sbagOf s 1) 1 = [rec0] ∧ domRun s 1 0 = true ∧ sbState s 1 ≠ 3) ∧
    (let s := setSbag up 0 { Sbag.empty with sets := List.replicate 8 { SnapSet.empty with trigger := 2, pending := some 5 } }
     isHub 0 = true ∧ domRun s 0 0 = true ∧ (snapOf (sbagOf s 0) 7).pending = some 5) ∧
    (let s := setSbag up 0 { Sbag.empty with sets := List.replicate 8 { SnapSet.empty with enabled := true, trigger := 2, due := 5 } }
     let k := snapOf (sbagOf s 0) 7
     domRun s 0 0 = true ∧ k.enabled = true ∧ k.trigger = 2 ∧ k.due ≤ s.now) ∧
    (let s := putSbState (setSbag up 0 { Sbag.empty with frzPending := some 1 }) 0 1 0
     (sbagOf s 0).frzPending = some 1 ∧ sbState s 0 = 1) ∧
    (let s := setCy up 0 { CySt.empty with running := true }
     (cyOf s 0).running = true ∧ domRun s 0 4 = true ∧ (ctr s 0).valid = true ∧ (cyOf s 0).next ≤ taiNs s 0) ∧
    mget 0 up.upAt 3 + 40 ≤ up.now ∧
    (domRun up 7 6 = true ∧ rd up 7 R.DR_STATE 0 % 4 = 0 ∧ fitting 0 1 2 = some 64 ∧ fitting 1 1 1 = none) ∧
    (dramRun (dramUp up 2) 2 = true ∧ inDram (dramUp up 2) 2 (dramBase 2) 1 = true) := by decide +kernel

/-- The hypotheses of `TimeEventsComplete` are met. -/
theorem witness_TimeEventsComplete :
    (isHub 2 = false ∧ present up 2 = true ∧ present up 1 = true ∧ domRun up 2 5 = true ∧ domRun up 1 5 = true ∧
      discHub up 2 = 0 ∧ pairDown up 2 1 = false ∧ pairDown up 0 1 = false) ∧
    (isHub 0 = true ∧ present up 0 = true) ∧
    masterHub (showPair (showRtt up 0 1 0) 0 1 true) = none ∧
    (let s0 := showPair (showRtt (tbUp .locked) 0 1 0) 0 1 true
     masterHub ((hubs s0).foldl (fun u h => noteSync (incrSat u h R.SYNC_MISS 0 (missed u h)) h u.now) s0) = some 0) ∧
    (lastSync up 2 + 3000 ≤ up.now ∧ lastSync up 1 + 3000 ≤ up.now) ∧
    (let s := setCtr up 2 ⟨false, 0, 0, 0⟩
     (ctr s 2).valid = false ∧ (ctr s (discTo s (discHub s 2))).valid = true ∧ domRun s (discHub s 2) 5 = true) ∧
    (let s := { up with tbs := [(0, { TimeBase.empty with slew := some 1, slewEnd := 5 })] }
     (tb s 0).slew.isSome = true ∧ (tb s 0).slewEnd ≤ s.now ∧ domRun s 0 5 = true) ∧
    (let s := { up with steps := [⟨65536, 0, 0, true, false⟩] }
     s.steps.find? (fun p => !p.running && decide (p.due ≤ s.now)) =
      some ⟨65536, 0, 0, true, false⟩) ∧
    (let s := { up with steps := [⟨-65536, 0, 0, true, true⟩] }
     s.steps.find? (fun p => p.running && decide (p.due ≤ s.now)) =
      some ⟨-65536, 0, 0, true, true⟩) ∧
    (let s := { up with tbs := [(0, { TimeBase.empty with irig := some ⟨900, true, false, 960, 0⟩, irigRun := 2,
                                                            valid := [true, false, false, true] })] }
     (tb (tickSrc s 0 297) 0).irig = some ⟨900, true, false, 960, 0⟩ ∧ irigValid (tb (tickSrc s 0 297) 0) = true ∧
     irigValid (tb (tickSrc up 0 297) 0) = false ∧ (tb s 0).valid[3]? = some true ∧ inputStale s 0 3 = true) ∧
    (∀ delete ∈ [true, false],
      let s := { up with tbs := [(0, { TimeBase.empty with leap := some (960, delete) })] }
      (tb s 0).leap = some (960, delete) ∧ domRun s 0 5 = true ∧ (ctr s 0).valid = true ∧
      960 + (if delete then (rd s 0 R.UTC_OFFSET 0 + 65535) % 65536 else (rd s 0 R.UTC_OFFSET 0 + 1) % 65536) ≤ (ctr s 0).sec) ∧
    (tb (tickSrc up 0 297) 0).irig = none ∧ roleState (agentRole (wr up 0 R.AGP_CFG 3 1) 0 3) 9 = 9 ∧ roleState (agentRole up 0 3) 6 ≠ 9 ∧
    bit (rd (wr up 0 R.AG_CTRL 0 1) 0 R.AG_CTRL 0) 0 = true ∧
    runningOp (runs up 1 .timeBase (tk 0x14 0)) 1 .timeBase 0x14 = some (tk 0x14 0) ∧
    (let s := { up with trigs := [(15, { Trig.empty with armed := true, pulse := some 5 })] }
     (trigOf s 0 15).armed = true ∧ (trigOf s 0 15).next ≤ taiNs s 0 ∧ (trigOf s 0 15).pulse = some 5 ∧ (ctr s 0).valid = true ∧ 5 ≤ taiNs s 0) := by decide +kernel
/-- The hypotheses of `SwitchEventsComplete` are met. -/
theorem witness_SwitchEventsComplete :
    (let s := wr up 0 R.PORT_STATE 11 2
     domRun s 0 7 = true ∧ portState s 0 11 = 2) ∧
    ((laneMode up 0 = 0 ∨ frame0.etype = 0x88F7) ∧ laneMode (wr up 0 R.LANE_CFG 0 1) 0 ≠ 0) ∧
    (let s := setSw up 0 { Switch.empty with fromAxle := [in0], samples := [[1]] }
     (swOf s 0).fromAxle = [in0] ∧ (swOf s 0).samples = [[1]]) ∧
    (frame0.etype ≠ 0x88F7 ∧ isLinkLocal frame0.dst = false ∧ isLinkLocal 0x0180C2000000 = true) ∧
    (let s := setSw up 0 { Switch.empty with sends := [⟨0, 0, 2, frame0, 0, false⟩] }
     (swOf s 0).sends = [⟨0, 0, 2, frame0, 0, false⟩]) ∧
    (let q : SendReq := ⟨2, 0, 0, 60, 0x1000, 0, none⟩
     let s := { up with sendReqs := [q] }
     s.sendReqs.find? (fun q => q.die == 2) = some q ∧ domRun s 2 10 = true ∧
     (pagesOf q.addr q.len).filter (fun p => !(serves s 2 q.vi p false)) ≠ []) ∧
    (let q : SendReq := ⟨2, 0, 0, 60, 0x1000, 0, none⟩
     let s := setXl { up with sendReqs := [q] } 2 { Xlate.empty with cache := [⟨0, 1, dramBase 2 / 4096, true, true⟩] }
     (pagesOf q.addr q.len).filter (fun p => !(serves s 2 q.vi p false)) = [] ∧
     (parseFrame (getGuest s (xlOf s 2) q.vi q.addr q.len)).etype ≠ 0x88F7 ∧
     isLinkLocal (parseFrame (getGuest s (xlOf s 2) q.vi q.addr q.len)).dst = false) ∧
    (let q : SendReq := ⟨2, 0, 0, 60, 0x1000, 0, none⟩
     let s := writeBytes (setXl { dramUp up 2 with sendReqs := [q] } 2 { Xlate.empty with cache := [⟨0, 1, dramBase 2 / 4096, true, true⟩] })
       (dramBase 2 / 4096 * 4096) [0x01, 0x80, 0xC2, 0, 0, 0]
     (pagesOf q.addr q.len).filter (fun p => !(serves s 2 q.vi p false)) = [] ∧
     isLinkLocal (parseFrame (getGuest s (xlOf s 2) q.vi q.addr q.len)).dst = true) ∧
    (let s := setSw (wr up 0 R.SW_CFG 0 0x10000) 0 { tblPut Switch.empty 0 65535 ⟨1, 0, 0x20000, 0⟩ with macSeen := [] }
     domRun s 0 7 = true ∧ fld (rd s 0 R.SW_CFG 0) 31 16 ≠ 0 ∧ bit (tblGet (swOf s 0) 0 65535).d2 17 = true ∧
     bit (tblGet (swOf s 0) 0 65535).d2 16 = false ∧
     mget 0 (swOf s 0).macSeen 65535 + fld (rd s 0 R.SW_CFG 0) 31 16 * 1000000000 ≤ s.now) ∧
    (let g : Gates := ⟨[(255, 1000)], 1000, 0, 0, 0, some ⟨5, 1000, 1, [(255, 1000)]⟩⟩
     let s := putGates up 0 3 g
     gatesOf s 0 3 = some g ∧ (ctr s 0).valid = true ∧ g.oper ≠ [] ∧ g.entryStart + entryLen g g.entry ≤ taiNs s 0 ∧
     g.pending = some ⟨5, 1000, 1, [(255, 1000)]⟩ ∧ 5 ≤ taiNs s 0) ∧
    portLinked up 0 15 = true ∧ portLinked up 0 3 = false ∧
    (let s := wr (wr up 0 R.LP_STATE 3 2) 0 R.PORT_STATE 3 5
     portLinked s 0 3 = true ∧ bit (rd s 0 R.PORT_STATE 3) 2 = true ∧ portState s 0 3 = 1 ∧ holdOver s 0 3 = true) := by decide +kernel

/-- The hypotheses of `LaneEventsComplete` are met. -/
theorem witness_LaneEventsComplete :
    (let n : Node := ⟨5, 1, 0, false, Win.empty, Win.empty, Win.empty, 0, 0, 0, 0, none, none, 0⟩
     let s := { setLane up 0 { Lane.empty with nodes := [(7, n)] } with now := 10 ^ 13 }
     (laneOf s 0).nodes.lookup 7 = some n ∧ domRun s 0 7 = true ∧ n.static_ = false ∧
     n.accepted + within 10 10000 (rd s 0 R.ENTRY_FORGET 0) * 1000000 ≤ s.now ∧ n.lastSeen + nodeForget s 0 ≤ s.now) ∧
    (let s := wr up 0 R.LANE_CFG 0 1
     laneMode s 0 ≠ 0 ∧ supDue s 0 = true) ∧
    (otherLost up 0 = true ∧ (laneOf up 0).state ≠ 2) ∧
    (let s := setLane up 0 { Lane.empty with plan := some ⟨[1], ctsOfNs 5, false⟩ }
     (laneOf s 0).plan = some ⟨[1], ctsOfNs 5, false⟩ ∧
     rehomeNs s 0 (ctsOfNs 5) ≤ taiNs s 0 + rd s 0 R.REHOME_WARM 0 * 1000) ∧
    (let s := setLane up 0 { Lane.empty with plan := some ⟨[1], ctsOfNs 5, true⟩ }
     (laneOf s 0).plan = some ⟨[1], ctsOfNs 5, true⟩ ∧ rehomeNs s 0 (ctsOfNs 5) ≤ taiNs s 0) ∧
    (portLink (putPortLink up 0 11 1) 0 11 = 1 ∧ rd (putPortLink up 0 11 1) 0 R.LP_LOS_FILTER 11 ≤ 65535 ∧
      (anOn (putPortLink up 0 11 1) 0 11 = false ∨ (some 1 : Option Nat).isSome = true) ∧ portLink (putPortLink up 0 11 2) 0 11 = 2) ∧
    (bit (rstOf up 0).locks 4 = true ∧ fld (rd up 0 R.TD_STATE 0) 13 12 ≠ 2 ∧
      fld (rd (putTandemLink up 0 2) 0 R.TD_STATE 0) 13 12 = 2) ∧
    runningAt (runs up 0 .phyCopper (tk 0x10 1)) 0 .phyCopper 0x10 1 = some (tk 0x10 1) ∧
    bit (rd (wr up 0 R.SD_STATUS 9 0) 0 R.SD_STATUS 9) 0 = false ∧ ddmDue up 0 9 = true := by decide +kernel
/-- The hypotheses of `SampleAndCaptureEventsComplete` are met. -/
theorem witness_SampleAndCaptureEventsComplete :
    (let s := setSw up 0 { Switch.empty with toP14 := [in0], watch := [in0] }
     (swOf s 0).toP14 = [in0] ∧ (swOf s 0).watch = [in0]) ∧
    (let s := { wr streamOn0 0 R.ST_STATE 0 2 with now := 2 * 10 ^ 11 }
     domRun s 0 8 = true ∧ rd s 0 R.ST_STATE 0 % 4 = 2 ∧
     (streamOf s 0 0).any (fun e => decide (e.heardAt + e.stale % 2 ^ 20 * 1000 ≤ s.now)) = true) ∧
    (let b : Batch := ⟨0, 3, []⟩
     let s := { up with batches := [b] }
     s.batches.find? (fun b => b.hub == 0 && b.stream == 3) = some b) ∧
    (let p : Present := ⟨0, 1, true, false, false, 5, 6, 7, 1, 2, 3⟩
     let s := { up with presents := [p] }
     s.presents.find? (fun p => p.hub == 0) = some p) ∧
    (let x : TapOut := ⟨0, 0, 0, 0, 0, 0, 0⟩
     let s := { up with taps := [x] }
     s.taps.find? (fun x => x.hub == 0) = some x) ∧
    (let s := setCtr (capUp 1) 0 ⟨true, 2000, 0, 0⟩
     domRun s 0 8 = true ∧ (recOf s 0 0).any (fun r => decide ((r.state = 1 ∨ r.state = 2) ∧
       rowNs r.f r.next + (if r.chans.isEmpty then 0 else lateWait s 0) < taiNs s 0)) = true) ∧
    (let c : CapIn := ⟨0, 1, 0, 0, true, 5⟩
     let s := { up with capIns := [c] }
     s.capIns.find? (fun c => c.dest == 0) = some c) ∧
    (let f : Firing := ⟨3, 1, 0, 5, 298 * 2 ^ 20⟩
     let s := { up with firings := [f] }
     s.capIns.find? (fun c => c.dest == 0) = none ∧ s.firings.find? (fun f => f.code == 3 && f.hub == 0) = some f) ∧
    (let k : OpenCap := ⟨⟨8, 255, 0, 5⟩, 0, 1, 0, 0, false⟩
     let r := { stagedRec capSet 0 0 with state := 2, slots := [1], cap := some k, next := 2 }
     let s := setCap capSet 0 { Capture.empty with recs := [(0, r)] }
     recOf s 0 0 = some r ∧ r.cap = some k ∧ domRun s 0 8 = true ∧ k.e < r.next ∧ rowNs r.f k.e + lateWait s 0 < taiNs s 0) ∧
    (let r := { stagedRec capSet 0 0 with state := 1, slots := [1], chans := [⟨0, 0, false, true, false, 0, [], 4800, 0, ⟨0, 0⟩, 0, [], 0, [], [], []⟩] }
     let s := setCap (wr capSet 0 R.CAP_HIGH 0 0) 0 { Capture.empty with
       recs := [(0, r)], waiting := List.replicate 1024 (0, (1 : Byte) :: List.replicate 255 0) }
     reduceDue s 0 = true ∧ reduceOne (capOf s 0) = some 0 ∧ recOf s 0 0 = some r) ∧
    (let q : CapRead := ⟨0, 0, 0, none, 64, true, 0, false⟩
     let s := setCap capSet 0 { capOf (capUp 1) 0 with reads := [q] }
     (capOf s 0).reads = [q] ∧ ((capOf s 0).recs.lookup 0).isSome = true ∧
     (q.vi.isSome && (copyWrites s 0 || (!q.stopped && decide (q.copied < q.len)))) = false) := by decide +kernel

/-- The hypotheses of `PelotonEventsComplete` are met. -/
theorem witness_PelotonEventsComplete :
    (let o : Offer := ⟨⟨0, 0, 0, 0⟩, 0, 0, 0, false, 0, 0, 0, 0, 0⟩
     { up with offers := [o] }.offers = [o]) ∧
    (domRun up 2 10 = true ∧ (sliceOf (sliceUp [] []) 2).run = true ∧ localTickAt (sliceUp [] []) 2 ≤ (sliceUp [] []).now) ∧
    (sliceOf (setSlice up 2 { Slice.empty with run := true, walkVis := [1] }) 2).walkVis ≠ [] ∧
    (let f : Firing := ⟨2, 2, 0, 5, 0⟩
     let s := { linked (sliceUp [] []) with firings := [f] }
     s.firings.find? (fun f => f.code == 2 && f.index == 2) = some f ∧ (sliceOf s 2).run = true ∧ domRun s 2 10 = true ∧ lineReach s 2 f.hub = true) ∧
    (let w : Waiter := ⟨0, false, 0, 2, false, 5, 3, false⟩
     let s := setSlice up 2 { Slice.empty with run := true, waiters := [w] }
     waiterOf s 2 0 = some w ∧ w.timeout ≠ 2 ^ 20 - 1 ∧ w.at_ + w.timeout * 1000 ≤ s.now) ∧
    (let s := wr (sliceUp [(0, { item0 with deadline := 2 ^ 30 })] [(0, flow0)]) 2 R.FLOW_HOLD 0 1
     blockingItem s 2 0 = some { item0 with deadline := 2 ^ 30 } ∧ rd s 2 R.FLOW_HOLD 0 ≠ 0 ∧ (2 ^ 30 : Nat) ≠ 0 ∧
     ctsNs (ctr s 2).sec (2 ^ 30) + rd s 2 R.FLOW_HOLD 0 * 1000 < taiNs s 2) := by decide +kernel

/-- The hypotheses of `ComputeAndViEventsComplete` are met. -/
theorem witness_ComputeAndViEventsComplete :
    (let s := { up with msis := [⟨0x0E00000000, 255, 0⟩] }
     s.msis = [⟨0x0E00000000, 255, 0⟩] ∧ fileAt s 0x0E00000000 = some 0xE00000 ∧ 255 ∉ mget [] s.files 0xE00000 ∧
     fileAt s 0x0D00000000 = none) ∧
    (let w : Walk := ⟨0, 5, true⟩
     let s := setXl (viUp 2) 2 { Xlate.empty with walks := [w] }
     (xlOf s 2).walks = [w] ∧ domRun s 2 10 = true ∧ walk s 0 5 = none) ∧
    (let w : Walk := ⟨0, dramBase 2 / 4096, true⟩
     let s := setXl (dramUp (viUp 2) 2) 2 { Xlate.empty with walks := [w] }
     (walk s 0 w.page).isSome = true ∧ viState s 0 ≠ 0) ∧
    (let s := setSw up 0 { Switch.empty with toP13 := [in0] }
     (swOf s 0).toP13 = [in0]) ∧ domRun up 0 7 = true ∧
    (domRun up (hartDie 95) 12 = true ∧ 0 ≤ timeCsr up (hartDie 95) ∧ timeCsr up (hartDie 95) < 2 ^ 63) ∧
    (viState (viUp 2) 0 ≠ 0 ∧ crossesBlock 0x1000 8 = false ∧ crossesBlock 0x103F 2 = true) ∧
    (let s := { setVi (viUp 3) 0 { ViSt.empty with killed := true } with now := 2 ^ 40 }
     viState s 0 = 3 ∧ (viOf s 0).killed = true ∧ (viOf s 0).since + 40000 ≤ s.now ∧ (∀ part < 5, partQuiet s 0 part = true) ∧
     (viOf s 0).timedOut = false ∧ (viOf s 0).since + rd s (viHome s 0) R.VI_CFG 0 % 2 ^ 20 * 1000 ≤ s.now) ∧
    (viState (viUp 5) 0 = 5 ∧ domRun (viUp 5) (viHome (viUp 5) 0) 10 = true) ∧
    (let s := wr (viUp 6) 2 R.VI_CUT_AT 0 (2 ^ 30)
     viState s 0 = 6 ∧ (viOf s 0).cutSeen = false ∧ cutPassed s 0 = true ∧ viInward s 0 = false ∧
     (ctr s (viHome s 0)).valid = true ∧
     graceNs s 0 ≤ taiNs s (viHome s 0)) ∧
    (let k := tk 0x17 0
     runningOp (runs up 2 .viCtrl k) 2 .viCtrl 0x17 = some k) ∧
    (let k := tk 0x18 0
     runningOp (runs up 2 .viCtrl k) 2 .viCtrl 0x18 = some k) ∧
    (let k := tk 0x10 0
     runningOp (runs up 2 .derailleur k) 2 .derailleur 0x10 = some k) ∧
    (∀ op ∈ [0x10, 0x11, 0x12], (hdr (runs up 2 .dirtyLog (tk op 0)) 2 .dirtyLog).running.find?
      (fun k => decide (0x10 ≤ k.op ∧ k.op ≤ 0x12)) = some (tk op 0)) := by decide +kernel

/-- The hypotheses of `CrankAndRetainEventsComplete` are met. -/
theorem witness_CrankAndRetainEventsComplete :
    (let f : Firing := ⟨1, 2, 0, 5, 0⟩
     let s := { linked up with firings := [f] }
     s.firings.find? (fun f => f.code == 1 && f.index == 2) = some f ∧ domRun s 2 11 = true ∧ lineReach s 2 f.hub = true) ∧
    (let s := { crUp 3 0 with now := 2 ^ 40 }
     let s1 := setCr s 2 { crOf s 2 with localCycle := true }
     makesBoundary (crOf s 2) = true ∧ (crOf s 2).lastFire + 2 * within 250000 100000000 (rd s 2 R.CR_CYCLE 0) ≤ timeCsr s 2 ∧
     (crOf s1 2).lastBoundary + within 250000 100000000 (rd s1 2 R.CR_CYCLE 0) ≤ timeCsr s1 2 ∧ (crOf s 2).active = true) ∧
    (let r : CrRelease := ⟨0, 5, 0, 1, false, false⟩
     let s := crUp 3 0
     let s := setCr s 2 { crOf s 2 with scans := [⟨r, 0, 0, none, false, false⟩] }
     (crOf s 2).scans.head? = some ⟨r, 0, 0, none, false, false⟩ ∧ ((crOf s 2).state == 4 && (none : Option CrImage).isSome) = false ∧
     ((crOf s 2).released ++ (crOf s 2).scans.map (fun x => x.rel)).find? (fun r => r.task == 0) = some r ∧ lateScan s 2 r = true) ∧
    (crOf (crUp 6 0) 2).state = 6 ∧
    (let s := setCr up 2 { Crank.empty with start := some (2, 0) }
     (crOf s 2).start = some (2, 0) ∧ (crOf s 2).ready = false) ∧
    (present up 2 = true ∧ isHub 2 = false ∧ domRun up 2 11 = true ∧ 0xFFFF8 % 8 = 0 ∧ 0xFFFF8 + 8 ≤ 0x100000 ∧ rtQuiet (crUp 3 0) 2 = false ∧
      rtQuiet (crUp 1 0) 2 = true ∧ (111 : Nat) < 112 ∧
      debugUnlocked { up with vaults := [(0, { Vault.empty with debugOpen := true })] } = true) ∧
    (let r : JrnlRec := ⟨1, [], false, false, 0, [0], false⟩
     let s := setCr (wr (wr (linked up) 0 R.RT_CFG 0 1) 0 (R.RT_REGION.nth 0) 0 0x40000) 2 { Crank.empty with queue := [r] }
     frontRec (crOf s 2) 0 = some r ∧ rtTakes s 0 2 = true ∧ lineReach s 2 0 = true) ∧
    (domRun up 0 4 = true ∧ (rtOf up 0).active = false) ∧
    (let s := setRt up 0 { Retain.empty with active := true }
     0 ∈ hubs s ∧ (rtOf s 0).active = true ∧ (rtOf s 0).at_ + 10000000 ≤ s.now) ∧
    runningOp (runs up 0 .xspiRetain (tk 0x10 0)) 0 .xspiRetain 0x10 = some (tk 0x10 0) := by decide +kernel
/-- The hypotheses of `TripEventsComplete` are met. -/
theorem witness_TripEventsComplete :
    (isHub 2 = false ∧ present up 2 = true ∧ isHub 1 = true ∧ present up 1 = true ∧ domRun up 1 0 = true) ∧
    (present (linked up) 2 = true ∧ domRun (linked up) 2 0 = true ∧ domRun (linked up) 0 0 = true ∧ present (linked up) 0 = true ∧
      spokeAlive (linked up) 2 0 = true) ∧
    (let s := { up with levels := [(0, { LevelSt.por with alive := some 0 })], now := 2 ^ 50 }
     (levelOf s 0).alive = some 0 ∧ 0 + within 1 10000 (rd s 0 R.SW_TIMEOUT 0) * 1000000 ≤ s.now ∧ masterLocked s = false ∧
     upAtOf s 2 + within 100 60000 (rd s 0 R.DL_TIME_ALARM 0) * 1000000 ≤ s.now) ∧
    (let s := { up with levels := [(0, { LevelSt.por with own := 4, quiet := some 0, boot := false })], now := 2 ^ 50 }
     (levelOf (evalLevel s 0) 0).quiet.any (fun q => decide (q + within 0 60000 (rd (evalLevel s 0) 0 R.DL_HOLD 0) * 1000000 ≤ s.now)) = true) ∧
    (laneMode (wr up 0 R.LANE_CFG 0 1) 0 ≠ 0 ∧ laneUp (wr up 0 R.LANE_CFG 0 1) 0 = false ∧
      upAtOf up 0 + within 0 10000 (rd (wr up 0 R.LANE_CFG 0 1) 0 R.DL_LANE_LOSS 0) * 1000000 ≤ up.now) ∧
    (let s := { up with rst := up.rst.map (fun e => (e.1, { e.2 with loading := 9 })), mechs := [(0, { Mech.empty with runs := true })] }
     isHub 0 = true ∧ (rstOf s 0).loading = 9 ∧ domRun s 0 9 = true ∧ bootEnded s 0 = true) ∧
    (let s := setCo up 0 ⟨[(63, { Zone.fresh [0, 0, 0, 0, 0, 0, 0, 0] with bf := some 0 })], [], []⟩
     (zoneOf s 0 63).bf = some 0 ∧ (zoneOf s 0 63).bfDone = false ∧ 0 + (zoneOf s 0 63).bfNs ≤ taiNs s 0) ∧
    (let f : CoFrame := ⟨[], 0x100, 0, 0, 1, 0, 0, [], 0, 0⟩
     let s := setCo up 0 ⟨[(0, { Zone.fresh [0, 0, 0, 0, 0, 0, 0, 0] with state := 1, regs := [0, 0, 0, 0, 0, 0x8100, 0, 0] })], [(1, f)], []⟩
     (coOf s 0).frames.lookup 1 = some f ∧ bit f.cfg 8 = true ∧ frameUsed s 0 1 = true ∧ f.next ≤ s.now) ∧
    (let s := up
     domRun s 0 9 = true ∧ (binOf s 0 15).level ≠ (true != bit (rd s 0 R.TB_CFG (8 + 15)) 16) ∧
     rd s 0 R.TB_CFG (8 + 15) % 65536 * 1000 ≤ 2 ^ 40) ∧
    (lineOf up 0 7).sense ≠ true ∧ domRun up 0 9 = true ∧
    (let l := { TripLine.empty with tcsFail := true, sense := true }
     let s := { putLine (wr up 0 R.TL_CFG 7 0x100) 0 7 l with now := 2 ^ 50 }
     bit (tlCfg s 0 7) 8 = true ∧ (lineOf s 0 7).tcsFail = true ∧ (lineOf s 0 7).sense = true ∧
     (lineOf s 0 7).senseAt + within 1 60000 (fld (tlCfg s 0 7) 31 16) * 1000000 ≤ s.now) ∧
    (let s := { wr up 0 R.TL_CFG 7 0x100 with now := 2 ^ 50 }
     let l := lineOf s 0 7
     bit (tlCfg s 0 7) 8 = true ∧ l.tcsFail = false ∧ l.drive ≠ some true ∧ l.sense = false ∧ (tcsUnblocked s 0 7).1 = true ∧
     max (max l.senseAt l.enabledAt) (max l.assertAt (tcsUnblocked s 0 7).2) + within 1 60000 (fld (tlCfg s 0 7) 31 16) * 1000000 ≤ s.now) ∧
    (let s := { putLine (wr up 0 R.TL_CFG 7 0x100) 0 7 { TripLine.empty with drive := some true } with now := 2 ^ 50 }
     let l := lineOf s 0 7
     bit (tlCfg s 0 7) 8 = true ∧ l.drive = some true ∧ l.seen = false ∧ l.noCurrent = false ∧ l.driveFault = false ∧
     l.assertAt + senseWin s 0 7 ≤ s.now ∧ l.changed + 10000 ≤ s.now) ∧
    (let l := lineOf (putLine up 0 7 { TripLine.empty with driveFault := true }) 0 7
     l.driveFault = true ∧ l.changed + 10000 ≤ up.now) := by decide +kernel

/-- The hypotheses of `TandemEventsComplete` are met. -/
theorem witness_TandemEventsComplete :
    (let s := setTd (putTandemLink up 0 2) 0 { Tandem.empty with role := 2 }
     domRun s 0 7 = true ∧ tdLinkUp s 0 = true ∧ (tdOf s 0).role ≠ 0 ∧
     (∀ bad ∈ [false, true],
       let f : Frame := { frame0 with fcsBad := bad, etype := 0x88B5, bytes := List.replicate 14 0 ++ [0, 0, 1, 1, 0, 0, 0, 0, 0, 0, 1, 0, 0, 0, 0, 0] }
       let p := f.bytes.drop 14
       (!f.fcsBad && !f.symbolErr && f.etype == 0x88B5 && rxFld p 0 2 == tdPair s 0 && rxFld p 2 1 % 2 != tdModule s 0 &&
         rxFld p 3 1 == 1 && decide (rxFld p 8 2 < rxFld p 10 2 ∧ rxFld p 12 4 = rxFld p 8 2 * 8192 ∧ (p.drop 16).length ≤ 8192)) = !bad)) ∧
    (let x : FrameIn := { in0 with frame := { frame0 with etype := 0x88B5 } }
     let s := setSw up 0 { Switch.empty with toP15 := [x] }
     (swOf s 0).toP15.find? (fun f => f.frame.etype == 0x88B5) = some x ∧ domRun s 0 7 = true) := by decide +kernel

/-- The hypotheses of `VaultEventsComplete` are met. -/
theorem witness_VaultEventsComplete :
    (let j : VaultJob := ⟨0, false, tk 0x22 0, false, none, 0⟩
     let s := putVault up 0 { Vault.empty with jobs := [j] }
     (vaultOf s 0).jobs = [j] ∧ domRun s 0 3 = true) ∧
    (let s := putVault up 0 { Vault.empty with challenge := some ⟨[], 0⟩, zeroising := true }
     (vaultOf s 0).challenge = some ⟨[], 0⟩ ∧ (0 : Nat) ≤ s.now ∧ (vaultOf s 0).zeroising = true) ∧
    (let s := wr (wr (vtUp 1 1 0) 0 R.KS_NEXT 0 0x8001) 0 R.KS_NOT_AFTER 0 (2 ^ 30)
     slotNext s 0 0 = some 1 ∧ domRun s 0 3 = true ∧ pipelineOpen s 0 = true ∧ slotLoaded s 0 0 = true ∧
     rd s 0 R.KS_NOT_AFTER 0 ≠ 0 ∧ (ctr s 0).valid = true ∧
     ctsNs (ctr s 0).sec (rd s 0 R.KS_NOT_AFTER 0) + faGrace s 0 < taiNs s 0) ∧
    sensorActs up 2 4 = true ∧
    (domRun up (debugHub up) 3 = true ∧ trngFail up (debugHub up) = false ∧ (vaultOf up (debugHub up)).debugFails < 8) := by
  decide +kernel

/-- The hypotheses of `ResetEventsComplete` are met. -/
theorem witness_ResetEventsComplete :
    (present up 7 = true ∧ domRun up 7 0 = true ∧ domRun up 7 4 = true ∧ (rstOf up 7).poweredOff = false) ∧
    (let s := { up with rst := up.rst.map (fun e => (e.1, { e.2 with locks := 0, released := 31, gapDone := true })) }
     hasIsland s 2 0 = true ∧ bit (rstOf s 2).locks 0 = false ∧ walkPos 2 (rstOf s 2) = islandDom 0 ∧ (rstOf s 2).gapDone = true ∧
     mayGap 2 (rstOf s 2) = true ∧ (rstOf s 2).gapAt + 2000000 ≤ s.now) ∧
    (let s := { up with rst := up.rst.map (fun e => (e.1, { e.2 with locks := 0, notReady := 8191 })) }
     hasIsland s 0 4 = true ∧ domUp (rstOf s 0) (islandDom 4) = true ∧ bit (rstOf s 0).notReady (islandDom 4) = true ∧
     bit (rstOf s 0).forced (islandDom 4) = false ∧ (rstOf s 0).lostAt[4]?.getD 0 + 2000000 ≤ s.now) ∧
    (let s := { wr up 2 (R.OPT_BYTES.nth 2) 0 100 with now := 2 ^ 50 }
     wdtNs s 2 ≠ 0 ∧ (mechOf s 2).kickAt + wdtNs s 2 ≤ s.now) ∧
    (∀ src ∈ [3, 5, 7],
      let s := { up with rst := up.rst.map (fun e => (e.1, { e.2 with pulses := [⟨src, 16, 0, 0⟩] })) }
      (rstOf s 0).pulses.find? (fun p => p.src == src && decide (p.at_ + 10000 ≤ s.now)) = some ⟨src, 16, 0, 0⟩ ∧
      (rstOf up 0).pulses.all (fun p => decide (p.src = src → up.now < p.at_ + 1000)) = true) ∧
    (present up 0 = true ∧ (rstOf up 0).refclk = true ∧
      (rstOf { up with rst := up.rst.map (fun e => (e.1, { e.2 with refclk := false })) } 0).refclk = false) ∧
    (let s := { up with rst := up.rst.map (fun e => (e.1, { e.2 with released := 15 })) }
     mayGap 0 (rstOf s 0) = true ∧ (rstOf s 0).gapDone = false ∧ gapPassed s 0 (rstOf s 0) = true) ∧
    (let s := { up with rst := up.rst.map (fun e => (e.1, { e.2 with optDone := decide (e.1 = 0) })) }
     domRun s 1 1 = true ∧ (rstOf s 1).optDone = false ∧ (rstOf s 2).optDone = false ∧ isHub 2 = false ∧
     (rstOf s 0).optDone = true ∧ domRun s 0 1 = true ∧ present s 0 = true ∧ isHub 1 = true ∧ (rstOf s 2).optAt + 5000000 ≤ s.now) ∧
    (let s := { up with rst := up.rst.map (fun e => (e.1, { e.2 with loading := 8 })), mechs := [(0, { Mech.empty with runs := true })] }
     (rstOf s 0).loading ≠ 0 ∧ domRun s 0 (rstOf s 0).loading = true ∧ bootEnded s 0 = true) ∧
    runningOp (runs up 0 .option (tk 0x10 0)) 0 .option 0x10 = some (tk 0x10 0) ∧
    (∀ op ∈ [0x10, 0x11, 0x12],
      let s := runs (setFlash up 0 { flashOf up 0 with begunAt := up.now }) 0 .xspiBoot (tk op 0)
      (hdr s 0 .xspiBoot).running = [tk op 0] ∧ xbLate s 0 (tk op 0) = false ∧
      (op ≠ 0x10 → xbLate { s with now := 2 ^ 40 } 0 (tk op 0) = true)) := by decide +kernel

/-- The hypotheses of `MechanicEventsComplete` are met. -/
theorem witness_MechanicEventsComplete :
    (domRun up 2 4 = true ∧ (mechOf up 2).runs = false ∧ fld (rd up 2 R.MC_BOOT 0) 7 4 = 0) ∧
    (let s := { up with mechs := [(2, { Mech.empty with candAt := some 0 })] }
     (mechOf s 2).candAt = some 0 ∧ 0 + 2000000 < s.now) ∧
    (let s := { up with leases := [(0, { Lease.empty with granted := true, lead := some 2 })] }
     isHub 0 = true ∧ grantDue s 0 = true) ∧
    (let k := { tk 0x13 0 with sub := 0, argument := 2 }
     runningOp (runs up 0 .mechanic k) 0 .mechanic 0x13 = some k ∧ bit k.sub 0 = false) ∧
    (∀ op ∈ [0x20, 0x21, 0x22, 0x23], runningUpd (runs up 0 .mechanic (tk op 0)) 0 = some (tk op 0) ∧ (updOf up 0).restarts = []) ∧
    (domRun up 0 4 = true ∧ bit (rd (wr up 0 R.PMB_CFG 0 1) 0 R.PMB_CFG 0) 0 = true ∧
      (mechOf up 2).sweptAt + within 1 1000 (rd up 2 R.SN_PERIOD 0) * 1000000 ≤ up.now) ∧
    (let s := { putLine up 0 7 { TripLine.empty with drive := some true } with now := 2 ^ 40 }
     lineAsserted s 0 7 = true ∧ (lineOf s 0 7).assertAt + 200000 ≤ s.now ∧ domRun s 0 4 = true) ∧
    (setBit (setBit (rd up 0 R.MG_STATE 0) 0 true) 1 true ≠ rd up 0 R.MG_STATE 0 ∧
      bit (rd (wr up 0 R.MG_CFG 0 1) 0 R.MG_CFG 0) 0 = true) ∧
    (let s := { wr (wr (wr (wr (wr (wr (wr up 0 R.PMB_CFG 0 1) 0 R.AVS_CFG 0 1) 0 R.RL_CFG 0 0x180000) 0 R.RL_VSET 0 8000) 0 R.CAD_FLOOR 0 100)
       0 R.CAD_MARGIN 0 10) 0 R.CAD_INDEX 0 50 with cads := [(0, ⟨true, none, false⟩)] }
     loopServes s 0 0 = true ∧ indexReports s 0 0 = true ∧ indexLow s 0 = true ∧ longAgo s (railOf s 0 0).raised 200000 = true) ∧
    (let s := { wr (wr (wr (wr (wr (wr (wr up 0 R.PMB_CFG 0 1) 0 R.AVS_CFG 0 1) 0 R.RL_CFG 0 0x180000) 0 R.RL_VSET 0 8000) 0 R.CAD_FLOOR 0 100)
       0 R.CAD_MARGIN 0 10) 0 R.CAD_INDEX 0 60000 with cads := [(0, ⟨true, none, false⟩)], rails := [(0, ⟨none, none, some 0⟩)] }
     loopServes s 0 0 = true ∧ indexReports s 0 0 = true ∧ indexLow s 0 = false ∧
     rd s 0 R.CAD_FLOOR 0 + rd s 0 R.CAD_MARGIN 0 + within 100 2000 (rd s 0 R.AVS_BAND 0 % 65536) ≤ rd s 0 R.CAD_INDEX 0 ∧
     (railOf s 0 0).highSince = some 0 ∧ 0 + within 10 10000 (fld (rd s 0 R.AVS_CFG 0) 31 16) * 1000000 ≤ s.now ∧
     longAgo s (railOf s 0 0).stepped (within 10 10000 (fld (rd s 0 R.AVS_CFG 0) 31 16) * 1000000) = true) ∧
    (let e : LogEntry := ⟨0, 0, 3, 0, 8, []⟩
     let s := { up with mgmtLogs := [(0, [e])], mechs := [(0, { Mech.empty with runs := true })] }
     isHub 0 = true ∧ domRun s 0 4 = true ∧ (mechOf s 0).runs = true ∧ (logOfHub s 0).dropWhile (fun e => decide (e.severity < optByte s 0 65)) = [e]) := by decide +kernel
/-- The hypotheses of `RegisterWritesComplete` are met. -/
theorem witness_RegisterWritesComplete :
    (∀ off ∈ [0x02C, 0x030, 0x00C, 0x07C], gate up 0 .timeBase ⟨0, none⟩ off false true = .pass) ∧
    gate up 0 .timeBase ⟨96, none⟩ 0xF00 true true = .pass ∧
    (∀ r ∈ [R.OFFSET_IN, R.TRG_PERIOD, R.Q_RSV, R.LP_CFG, R.SD_CFG, R.SW_ALIVE, R.TIO_SW_SET, R.TIO_SW_CLR, R.TD_PERMIT, R.WDT_KICK,
      R.RESET_CAUSE, R.SB_SEEK, R.SET_SEC], writeOk up (acc 0 0 r 1) = true) ∧
    (∀ r ∈ [R.MC_RENEW, R.MC_CAND], writeOk up (acc 0 96 r 1) = true) ∧
    (gate (viUp 2) (viewLoc 0) .crankView ⟨0, some 0⟩ 0xA00 true true = .pass) ∧
    writeOk up { acc 0 0 R.SET_SEC 1 with wide := false } = true ∧
    writeOk up { acc 0 0 R.SET_SEC 1 with wide := false, off := R.SET_SEC.off + 4 } = true ∧
    R.SET_SEC.wide = true ∧ R.SET_SEC.off % 8 = 0 := by decide +kernel

/-- The hypotheses of `EffectReadsComplete` and `ReadsClearAndLatch` are met. -/
theorem witness_EffectReadsComplete :
    (∀ e ∈ [(R.TIME_SEC, 0), (R.STAMP, 2), (R.TAKE, 2), (R.SB_NEXT, 0)], gate up e.2 e.1.blk ⟨0, none⟩ e.1.off e.1.wide false = .pass) ∧
    gate (viUp 2) (viewLoc 0) .counterView ⟨0, some 0⟩ 0x838 true false = .pass := by decide +kernel
theorem witness_ReadsClearAndLatch :
    (∀ off ∈ [0x034, 0x064, 0x020, 0x040, 0x048], gate up 0 .timeBase ⟨0, none⟩ off false false = .pass) ∧
    (∀ e ∈ [(R.CAD_LOW, 0, 96), (R.Q_PEAK, 0, 0), (R.FIL_SCAN_MAX, 0, 0), (R.FIL_PHASE_MAX, 0, 0), (R.FIL_BATCH_MAX, 0, 0),
      (R.PAN_PEAK, 2, 0), (R.CT_MAX_US, 2, 0), (R.CAP_STAGE_PEAK, 0, 0), (R.CO_EVAL_MAX, 0, 0), (R.TIO_BIN_CHG, 0, 0),
      (R.SN_MIN, 0, 96), (R.SN_MAX, 0, 96)],
      gate up (accLoc (acc e.2.1 e.2.2 e.1 0)) e.1.blk ⟨e.2.2, none⟩ e.1.off false false = .pass ∧
      (target up (accLoc (acc e.2.1 e.2.2 e.1 0)) e.1.blk e.2.2 e.1.off).any (fun g => decide (g.reg.acc = .rc ∧ g.reg.wide = false)) = true) := by
  decide +kernel

/-- A hub whose management port answers: its link is up, its core runs, and slot 0 holds the management key. -/
def mgS : State := { wr (wr (vtUp 1 27 0) 0 R.MG_CFG 0 1) 0 R.MG_STATE 0 1 with mechs := [(0, { Mech.empty with runs := true })] }
/-- The state in which the hub's core serves a request. -/
def mgIn : State :=
  let s0 := incr (tickSrc mgS 0 290) 0 R.MG_RX_FRAMES 0 1
  { s0 with cause := max s0.cause (stampOf mgS 0 290 0).cts }
/-- A request with the tag that the key of slot 0 gives it. -/
def mgM (code : Nat) : MgReq := ⟨1, 1, 1, true, [], mgTag mgIn 0 (mgKey mgIn 0) (mgMessage code 0 1 1 [])⟩

/-- The hypotheses of `ManagementPortCompletes` are met, for every code. -/
theorem witness_ManagementPortCompletes :
    (∀ code, mgUp mgS 0 = true ∧ (mechOf mgIn 0).runs = true ∧ (mgM code).wellFormed = true ∧
      vaultState mgIn 0 = 1 ∧ mgTagOk mgIn 0 code (mgM code) = true ∧ mgReplay mgIn 0 (mgM code) = false) ∧
    (let s := { mgIn with mechs := [(0, { Mech.empty with runs := true, sessions := [(1, 1)] })] }
     mgReplay s 0 (mgM 1) = true) ∧
    (let s := wr mgIn 0 (R.VT_STATUS) 0 0
     vaultState s 0 ≠ 1 ∧ mgTagOk s 0 16 (mgM 16) = false) ∧
    (arpReply mgIn 0 (List.replicate 12 0 ++ [8, 6] ++ List.replicate 6 0 ++ [0, 1] ++ List.replicate 20 0)).isSome = true ∧
    (let b : List Byte := List.replicate 12 0 ++ [8, 0, 0x45] ++ List.replicate 8 0 ++ [1] ++ List.replicate 10 0 ++ [8] ++ List.replicate 9 0
     arpReply mgIn 0 b = none ∧ (echoReply mgIn 0 b).isSome = true) := by
  have r : (mechOf mgIn 0).sessions = [] := by decide +kernel
  refine ⟨fun code => ⟨by decide +kernel, by decide +kernel, rfl, by decide +kernel, ?_, by simp only [mgReplay, r, List.find?_nil]⟩,
    by decide +kernel, by decide +kernel, by decide +kernel, by decide +kernel⟩
  have h : mgSlot mgIn 0 (mgKey mgIn 0) 5 = true := by decide +kernel
  simp only [mgTagOk, h, mgM, Bool.true_and, beq_self_eq_true]

/-- The hypotheses of the statements on the queue, on the idle step and on memory are met. -/
theorem witness_StepRunsFrontCommand : ({ up with pending := [.stepTakesEffect] } : State).pending = [.stepTakesEffect] := rfl
theorem witness_IdleStepIsATick : up.pending = [] ∧ 7 ∈ timeDies up ∧ (rstOf up 7).refclk = true ∧
    (∀ e ∈ allLinks up, linkState up e.1 ≠ 2) ∧ (∀ h ∈ hubs up, (swOf up h).stored = []) ∧
    (∀ d ∈ diesOf up, ∀ p ∈ (rstOf up d).pulses, p.src = 4 → up.now + 1 < p.at_ + 10000) := by decide +kernel
theorem witness_StepKeepsMemoryCanonical : Canonical State.reset ∧ step State.reset = .next (tick State.reset) := by
  exact ⟨by unfold Canonical; decide, rfl⟩
theorem witness_MemoryHoldsWhatIsWritten : 0 < [(1 : Byte)].length ∧ memHolds (dramUp up 0) (dramBase 0 + 0) = true ∧
    memHolds up 0 = false ∧ (7 < 8 ∨ 8 + [(1 : Byte)].length ≤ 7) ∧ 1 < 2 := by decide +kernel

/-- The hypotheses of the statements on refused, denied and held accesses are met. -/
theorem witness_RefusedCommandHasNoSideEffect :
    gate (tbUp .free) 0 .timeBase ⟨0, none⟩ 0x010 false true = .pass ∧
    ((tbChecks [.acquire, .locked] (tbUp .free) (ctxOf (tbUp .free) (cmdAt 0 0 0 0) .timeBase 0x13)).for ⟨0, none⟩).fails = some .illegalState ∧
    (hdr (tbUp .free) 0 .timeBase).refuseLog % 2 = 0 := by decide +kernel
theorem witness_DeniedAccessHasNoEffect :
    gate up 0 .timeBase ⟨0, some 0⟩ 0x034 false false = .denied 1 ∧ gate up 0 .timeBase ⟨0, some 0⟩ 0x030 false true = .denied 1 ∧
    gate up 0 .timeBase ⟨0, some 0⟩ 0x010 false true = .denied 1 := by decide +kernel
theorem witness_GuestReachesOnlyItsGroup :
    (∀ e ∈ [(0x02C, false), (0x030, true)], aligned ⟨0, some 0⟩ e.1 e.2 = true) ∧
    (present up (serveFor up 0 .timeBase 0) = true ∧ populated 0 .timeBase = true ∧ pageRunFor up 0 .timeBase 0 = true ∧
      blockIsView .timeBase = false) ∧
    (let s := viUp 2
     present s (serveFor s (viewLoc 0) .flowView 0) = true ∧ populated (viewLoc 0) .flowView = true ∧ pageRunFor s (viewLoc 0) .flowView 0 = true ∧
     blockIsView .flowView = true ∧ viState s 0 ∈ [2, 3, 4, 6]) ∧
    (viewLoc 1 ≠ viewLoc 0 ∧ viState (viUp 1) 0 ∉ [2, 3, 4, 6]) := by decide +kernel
theorem witness_HeldPageTakesNoAccess :
    (present State.reset (serveFor State.reset 0 .timeBase 0) = true ∧ pageRunFor State.reset 0 .timeBase 0 = false) ∧
    (let s := { State.reset with variant := .kz2 }
     present s (serveFor s 1 .timeBase 0) = false) ∧
    (∀ a ∈ [{ acc 0 95 R.TIME_NS 0 with off := 0x02D }, { acc 0 0 R.TIME_NS 0 with off := 0x02C, wide := true }],
      a.who.ini < 96 ∧ (a.off % 4 ≠ 0 ∨ (a.wide = true ∧ a.off % 8 ≠ 0))) := by decide +kernel
theorem witness_NopTakesTheNextSequenceNumber : gate up 0 .timeBase ⟨0, none⟩ 0x010 false true = .pass ∧
    gate (sliceUp [] [(0, flow0)]) 2 .pelotonFlow ⟨0, none⟩ 0x010 false true = .pass ∧
    (∀ n ∈ [0, 15, 28], flowNumber .pelotonFlow n = false) ∧ (∀ n ∈ [16, 27], flowNumber .pelotonFlow n = true) ∧
    flowNumber .timeBase 16 = false := by decide +kernel
theorem witness_EventBitsFollowHardwareAndW1c :
    gate up 0 .timeBase ⟨0, none⟩ 0x02C false true = .pass ∧ pageRun up 0 .timeBase = true ∧ bit (hdr up 0 .timeBase).event 31 = false ∧
    (let s := hwSet up 0 .timeBase 31
     bit (hdr s 0 .timeBase).event 31 = true) := by decide +kernel
theorem witness_EnablingAStandingBitRaises :
    (let s := hwSet (setHdr (wr (wr up 0 R.MSI_VALID 3 1) 0 R.MSI_DATA 3 5) 0 .timeBase
       { hdr up 0 .timeBase with irqTarget := 2 ^ 31 + 3 }) 0 .timeBase 5
     let h := hdr s 0 .timeBase
     gate s 0 .timeBase ⟨0, none⟩ 0x030 false true = .pass ∧ h.event &&& (32 &&& (h.eventEn ^^^ (2 ^ 32 - 1))) ≠ 0 ∧
     bit h.irqTarget 31 = true ∧ (routeMsi s (serveDie s 0 .timeBase) (h.irqTarget % 256) (msiPlane .timeBase)).toList ≠ []) ∧
    (hdr up 0 .timeBase).event &&& (0 &&& ((hdr up 0 .timeBase).eventEn ^^^ (2 ^ 32 - 1))) = 0 := by decide +kernel
theorem witness_LockedRegisterRefusesWrites :
    (let s := setHdr up 0 .resetKs { hdr up 0 .resetKs with lock := true }
     let a := acc 0 0 R.DL_ENABLE 1
     gate s (accLoc a) a.blk a.who a.off a.wide true = .pass ∧
     (target s (accLoc a) a.blk a.who.ini a.off).any (fun t => decide (t.reg.acc = .rwl) && writable a.blk a.who t.reg) = true ∧
     (hdr s (accLoc a) a.blk).lock = true ∧ 0x080 ≤ a.off ∧ a.off < 0xA00) := by decide +kernel

/-- The hypotheses of the statements on single rules are met. -/
theorem witness_CtsHoldsSecondsAndNanoseconds : (0 : Nat) < 1000000000 ∧ 999999999 < 1000000000 := by decide
theorem witness_SetTimeSetsEveryCounter :
    Grants up (cmdAt 0 0 0 0) .timeBase 0x10 checksSetTime ∧ present up (otherHub 0) = true ∧ domRun up (otherHub 0) 5 = true := by
  decide +kernel
theorem witness_TableEntriesAreWrittenAndRead :
    (∀ sub ∈ [1, 2, 5, 6, 8], Grants up (cmdAt 0 0 sub 0) .switch 0x10 checksTblRead ∧
      Grants (wrB up 0 (R.TBL_DATA0_3.nth 1) 0 (if sub = 6 then 64 else 0)) (cmdAt 0 0 sub 0) .switch 0x11 checksTblWrite) := by decide +kernel
theorem witness_DetectorOutputHasHysteresis : (5 : Nat) ≤ 9 := by decide
theorem witness_FirRoundsAndLimits :
    (let p : Profile := ⟨0, 0, 0, 0, 1, 0, 0, 0, 0, 0, [131072]⟩
     p.t ≠ 0 ∧ p.t = 1 ∧ -2147483648 ≤ ((131072 : Int) * ([7] : List Int).headD 0 + 131072) / 262144 ∧
     ((131072 : Int) * ([7] : List Int).headD 0 + 131072) / 262144 ≤ 2147483647) := by decide
theorem witness_DeadlineOrder :
    { item0 with deadline := 2 ^ 64 - 1 }.deadline < 2 ^ 64 ∧ (16 : Nat) / 16 < 32 / 16 ∧ (17 : Nat) / 16 = 16 / 16 ∧ 1 < 2 := by decide
theorem witness_LeaseEpochRises : (tdOf up 0).token.epoch + 1 < 2 ^ 64 := by decide +kernel
theorem witness_OnlyTheLeadRenews :
    isLead up 0 ⟨96, none⟩ = false ∧
    (let s := { leadUp with leases := [(0, { Lease.empty with lead := some 0 })] }
     isLead s 0 ⟨96, none⟩ = true ∧ deciderOf s 0 = some 0 ∧ (leaseOf s 0).lead = some (96 - 96)) := by decide +kernel
theorem witness_TripOutFollowsTheCoaster :
    (rstOf up 0).fuseSensed = true ∧
    (let s := setCo up 0 ⟨[(0, { Zone.fresh [0, 0, 0, 0, 0, 1, 0, 0] with state := 4 })], [], []⟩
     bit (coDemand s 0) 0 = true) ∧
    (let s := { up with levels := [(0, { LevelSt.por with level := 0, own := 0 })] }
     bit (coDemand s 0) 0 = false ∧ lineSafe s 0 0 = false) ∧
    (∀ code ∈ [5, 4, 3, 2], let s := wr up 0 (R.PM_FUSES.nth 0) 0 (code + 8)
     bit (coDemand s 0) 0 = false ∧ lineSafe s 0 0 = true ∧ pinCode s 0 0 = code ∧ 4 ≤ (levelOf s 0).level) ∧
    lineGated (wr up 0 R.TL_CFG 0 0x200) 0 0 = true := by decide +kernel
theorem witness_UnlockedDomainIsNotReleased :
    (let s : State := setBank ({ up with rst := up.rst.map (fun e => (e.1, { e.2 with locks := 0 })) } : State) 0 .resetKs 0
       { bank up 0 .resetKs 0 with cmdArg := 0x40 }
     gate s 0 .resetKs ⟨0, none⟩ 0x010 false true = .pass ∧ (hdr s 0 .resetKs).running = [] ∧
     6 ∈ maskDoms ((bank s 0 .resetKs 0).cmdArg % 8192 / 2 * 2) ∧ domStable 0 (rstOf s 0) 6 = false ∧
     ∀ op, (swrChecks true s (ctxOf s (cmdAt 0 0 0 0) .resetKs op)).auth = true) := by
  refine ⟨by decide +kernel, by decide +kernel, by decide +kernel, by decide +kernel, fun op => ?_⟩
  show (swrChecks true _ (ctxOf _ (cmdAt 0 0 0 0) .resetKs 0)).auth = true
  decide +kernel
theorem witness_SoftwareResetHoldsItsDomains :
    Grants up (cmdAt 0 0 0 0) .resetKs 0x10 (swrChecks false) ∧ present up 0 = true ∧ 8 ≤ (rstOf up 0).holds.length := by decide +kernel
theorem witness_SealedVaultAnswersTamper :
    ∀ st ∈ [0, 3], Grants (vtUp st 0 0) (cmdAt 0 96 0 1) .keyVault 0x22 (checksKey false 0x22) ∧
      (vaultState (acting (vtUp st 0 0) (cmdAt 0 96 0 1) .keyVault 0x22) 0 = 0 ∨
       vaultState (acting (vtUp st 0 0) (cmdAt 0 96 0 1) .keyVault 0x22) 0 = 3) := by decide +kernel
theorem witness_PlainWriteChangesOneRegister :
    writeOk up (acc 0 0 R.DL_HOLD 7) = true ∧ R.DL_HOLD.wide = false ∧ 0x080 ≤ R.DL_HOLD.off ∧ R.DL_HOLD.off < 0xA00 := by decide +kernel
theorem witness_ClearCountersClearsOnlyCounters :
    Grants up (cmdAt 0 96 0 0) .dram 0x10 checksDramClearCounters ∧
    Grants up (cmdAt 0 96 0 0) .cyclometer 0x12 checksCyClearCounters ∧
    Grants up (cmdAt 0 96 0 0) .mechanic 0x30 checksMcClearCounters ∧
    (∀ n ∈ [7, 0xFFFF],
      Grants up (cmdAt 0 0 0 n) .detector 0x14 checksDetClearCounters ∧
      Grants up (cmdAt 0 0 0 n) .coaster 0x14 checksCoasterClearCounters ∧
      Grants up (cmdAt 0 0 0 n) .svIngest 0x13 checksIngestClearCounters ∧
      Grants up (cmdAt 0 0 0 n) .lane 0x16 checksLaneClearCounters ∧
      Grants up (cmdAt 2 0 0 n) .crankTask 0x10 checksTaskClearCounters ∧ (cmdAt 0 0 0 n).argument % 65536 = n) := by decide +kernel

end Sys2Proof.Tests
end

section
/-!
PROOFS of the scope's statements: memory (R8, R50), plain register writes (R10, R60), and reads that clear or latch
(R10, R70).
-/
namespace Sys2Proof.Machine

variable {s : State} {a : Access} {g : Target} {loc ini off v : Nat} {b : Block}

/-! ### Memory -/

@[simp] theorem length_bytesLE : ∀ n v, (bytesLE n v).length = n
  | 0, _ => rfl
  | n + 1, v => by simp [bytesLE, length_bytesLE n]

/-- Byte `i` of a value holds its bits from `8 * i` upward (R8). -/
theorem getElem_bytesLE : ∀ (n v i : Nat) (h : i < (bytesLE n v).length),
    (bytesLE n v)[i] = BitVec.ofNat 8 (v / 2 ^ (8 * i))
  | n + 1, v, 0, _ => by simp [bytesLE]
  | n + 1, v, i + 1, h => by
    have hi : i < (bytesLE n (v / 256)).length := by simpa [bytesLE] using h
    have hdiv : v / 256 / 2 ^ (8 * i) = v / 2 ^ (8 * (i + 1)) := by
      rw [Nat.div_div_eq_div_mul, Nat.mul_succ, Nat.pow_add, Nat.mul_comm]
    calc (bytesLE (n + 1) v)[i + 1] = (bytesLE n (v / 256))[i] := rfl
      _ = BitVec.ofNat 8 (v / 256 / 2 ^ (8 * i)) := getElem_bytesLE n (v / 256) i hi
      _ = BitVec.ofNat 8 (v / 2 ^ (8 * (i + 1))) := by rw [hdiv]

/-- A byte of a written value reads back where memory holds it. -/
theorem readByte_writeBytes_bytesLE (s : State) (a n v i : Nat) (h : i < n) (k : memHolds s (a + i) = true) :
    readByte (writeBytes s a (bytesLE n v)) (a + i) = BitVec.ofNat 8 (v / 2 ^ (8 * i)) := by
  have hi : i < (bytesLE n v).length := by simpa using h
  rw [readByte_writeBytes_inside s a i _ hi k, getElem_bytesLE]

/-- Settles O33, from the laws of `writeBytes` inside, outside and off memory, and from the bytes of a value. -/
theorem memoryHoldsWhatIsWritten : Obligations.MemoryHoldsWhatIsWritten := fun s a bytes b =>
  ⟨fun i h k => readByte_writeBytes_inside s a i bytes h k, readByte_absent s a b bytes,
    readByte_writeBytes_outside s, readByte_writeBytes_bytesLE s a⟩

/-! ### What a target holds -/

/-- A banked register stands under number 0 of its window: SEL does not choose among its copies, the initiator does (R58). -/
theorem target_inst_of_banked (h : target s loc b ini off = some g) (hb : g.bank ≠ 127) : g.inst = 0 := by
  unfold target at h
  dsimp only at h
  split at h
  · next r hi _ =>
    obtain rfl := Option.some.inj h
    have hr : r.banked = true := by
      cases hr : r.banked with
      | true => rfl
      | false => simp [hr] at hb
    simp [standInst, hr]
  · split at h
    · split at h
      · obtain rfl := Option.some.inj h
        rfl
      · split at h
        · obtain ⟨c, -, rfl⟩ := Option.map_eq_some_iff.1 h
          exact absurd rfl hb
        · obtain rfl := Option.some.inj h
          exact absurd rfl hb
    · cases h

/-- An initiator's copy of a banked register reads as what was set, cut to its width. -/
theorem rdB_wrB_same (r : Reg) : rdB (wrB s loc r ini v) loc r ini = v % 2 ^ regBits r := by
  have hlt : v % 2 ^ regBits r < 2 ^ 64 :=
    Nat.lt_of_lt_of_le (Nat.mod_lt _ (Nat.two_pow_pos _)) (Nat.pow_le_pow_right (by decide) (by unfold regBits; split <;> decide))
  rw [rdB, wrB, mget_mput_same, BitVec.toNat_ofNat, Nat.mod_eq_of_lt hlt]

/-- A target holds the value that it was set to, cut to its register's width. -/
theorem readT_writeT_same : readT (writeT s g v) g = v % 2 ^ regBits g.reg := by
  by_cases hb : g.bank = 127
  · simp only [readT, writeT, hb, if_true, rd_wr_same]
  · simp only [readT, writeT, hb, if_false, rdB_wrB_same]

/-- Setting a target leaves every register that stands under another key. -/
theorem rd_writeT_key {loc' inst' : Nat} {r' : Reg} (hg : g.bank ≠ 127 → g.inst = 0)
    (h : regKey loc' inst' 127 (blockCode r'.blk) r'.off ≠ regKey g.loc g.inst g.bank (blockCode g.reg.blk) g.reg.off) :
    rd (writeT s g v) loc' r' inst' = rd s loc' r' inst' := by
  unfold writeT
  split
  · next hb => exact rd_wr_key (by rwa [hb] at h)
  · next hb =>
    rw [hg hb] at h
    exact congrArg BitVec.toNat (mget_mput_ne _ _ h s.regs)

theorem onlyRegs_writeT : OnlyRegs s (writeT s g v) := by
  unfold writeT
  split
  · exact onlyRegs_wr ..
  · exact onlyRegs_wrB ..

/-! ### Plain writes -/

/-- The registers to which a rule gives an effect of their own when they are written. -/
def effectRegs : List Reg :=
  [R.TRG_PERIOD, R.TRG_WIDTH, R.TRG_RATE, R.Q_RSV, R.LP_CFG, R.SD_CFG, R.GW_CFG, R.TL_CFG, R.TIO_SW_SET,
   R.TIO_SW_CLR, R.SW_ALIVE, R.TD_PERMIT, R.WDT_KICK, R.RESET_CAUSE, R.RK_DBG_MASK, R.MC_RENEW, R.MC_CAND, R.SB_SEEK,
   R.RL_CFG, R.RL_VMIN, R.AVS_CFG, R.OFFSET_IN, R.FREQ_TRIM, R.AG_CTRL]

/-- A register without an effect of its own takes the value, narrowed as its table says. -/
theorem regEffect_of_plain (h : g.reg ∉ effectRegs) : regEffect a g v s = writeT s g (taken s g v) := by
  simp only [effectRegs, List.mem_cons, List.not_mem_nil, or_false, not_or] at h
  simp only [regEffect, h, or_self, if_false]

/-- A write at an offset of a block's own registers is a write of the register that the offset names. -/
theorem exec_registerWrite_of_own (hlo : 0x080 ≤ a.off) (hhi : a.off < 0xA00) (hb : a.blk ≠ .keyVault) :
    exec (.registerWrite a) s = writeReg a (regEffect a) s := by
  have hcmd : a.off ≠ 0x010 := by omega
  have hhdr : ¬ a.off < 0x080 := by omega
  have harea : ¬ 0xF00 ≤ a.off := by omega
  have hmbx : ¬ (a.blk = .crankView ∧ 0xA00 ≤ a.off) := by omega
  show writeAny a s = _
  rw [writeAny, if_neg hcmd, if_neg hhdr, if_neg harea, if_neg hmbx, if_neg hb]

/-- A granted write of a register has the register's effect on the state that has counted the write (R60). -/
theorem writeReg_of_granted {eff : Target → Nat → State → State} (h : WriteGranted s a g) :
    writeReg a eff s = .next (applyWrite a g eff (written s a)) := by
  obtain ⟨hgate, htarget, hwritable, hlock⟩ := h
  simp [writeReg, htarget, hwritable, writeGate, hgate, hlock, written]

theorem onlyPages_written : OnlyPages s (written s a) := (onlyPages_countWrite _).trans (onlyPages_resp _)

/-- Settles O54: the write's stamps change the page alone (R60), and the register takes the value through `writeT`. -/
theorem plainWriteChangesOneRegister : Obligations.PlainWriteChangesOneRegister := by
  intro a s g hgrant hword hlo hhi hkv hplain
  have hrun : exec (.registerWrite a) s =
      .next (writeT (written s a) g (taken (written s a) g (a.value % 2 ^ 32 &&& g.reg.mask))) := by
    rw [exec_registerWrite_of_own hlo hhi hkv, writeReg_of_granted hgrant, applyWrite]
    simp only [hword, Bool.false_eq_true, if_false, regEffect_of_plain hplain]
  refine ⟨_, hrun, readT_writeT_same, fun loc r inst hkey => ?_, onlyPages_written.onlyRegs.trans onlyRegs_writeT⟩
  have ⟨_, htarget, _, _⟩ := hgrant
  rw [rd_writeT_key (target_inst_of_banked htarget) hkey, rd_congr onlyPages_written.regs]

/-! ### Reads of a Crank's view -/

/-- Every offset of the CRANK_VIEW of a VI that owns no Crank reads 0 (R392). -/
theorem readAt_crankView_unowned {view : Option Nat} (h : crOwner s (serveDie s loc .crankView) (loc / 8) = false) :
    readAt s loc .crankView ini view off = (0, false, false) := by
  simp [readAt, h]

/-- A read that its page takes answers the state after its effect, and the page counts it (R586). -/
theorem readGate_of_pass {held : Nat} {eff : State → State}
    (h : gate s (accLoc a) a.blk a.who a.off a.wide false = .pass) :
    readGate a held eff s = .next (cyc (eff s) (accLoc a) a.blk 0x01 0 1 none) := by
  simp [readGate, h]

/-- A granted read of DENY_INFO there answers 0, whatever DENY_INFO holds. -/
theorem readClearRead_denyInfo_unowned (hb : a.blk = .crankView) (hoff : a.off = 0x064)
    (hg : gate s (accLoc a) a.blk a.who a.off a.wide false = .pass)
    (ho : crOwner s (serveDie s (accLoc a) .crankView) (accLoc a / 8) = false) :
    After (.readClearRead a) s fun t => t.resp = .value 0 := by
  have hread : readAt s (accLoc a) a.blk a.who.ini a.view a.off = (0, false, false) := by
    rw [hb]
    exact readAt_crankView_unowned ho
  have hplain : exec (.readClearRead a) s = readPlain a s := by
    show readAny a s = _
    simp [readAny, hb]
  have hclear (u : State) : (readClears a u).resp = u.resp := by
    simp [readClears, hoff, onHdr]
  refine ⟨_, hplain.trans (readGate_of_pass hg), ?_⟩
  simp [hread, hclear, respond]

/-- Die 2 in RUN, VI 0 RUNNING, and no VI the owner of the die's Crank. -/
def crankUnowned : State :=
  wr { State.reset with rst := [(2, { ResetSt.por with holds := [], released := 8191 })] } 2 R.VI_STATE 0 2

/-- A hart of VI 0 reads DENY_INFO in the CRANK_VIEW of its page group. -/
def readsDenyInfo : Access := ⟨2, .crankView, 0, some 0, 0x064, false, 0, ⟨0, some 0⟩⟩

/-- The state after a hart of VI 1 was denied a read of that page. -/
def crankViewDenied : State := deny crankUnowned (accLoc readsDenyInfo) .crankView ⟨0, some 1⟩ 0x064 1 false

theorem denyInfo_crankViewDenied : (hdr crankViewDenied (accLoc readsDenyInfo) .crankView).denyInfo = 0x40000064 := by
  decide +kernel

theorem gate_crankViewDenied :
    gate crankViewDenied (accLoc readsDenyInfo) .crankView ⟨0, some 0⟩ 0x064 false false = .pass := by
  decide +kernel

theorem unowned_crankViewDenied :
    crOwner crankViewDenied (serveDie crankViewDenied (accLoc readsDenyInfo) .crankView) (accLoc readsDenyInfo / 8) = false := by
  decide +kernel

/-- Refutes O12: SET_AGAIN and DENY_INFO do not read their value in every page, since the CRANK_VIEW of a VI that owns
no Crank reads 0 at every offset (R392). A hart of VI 1 is denied there, and the read of DENY_INFO by VI 0 that follows
answers 0 and not the denial's word. -/
theorem not_readsClearAndLatch : ¬ Obligations.ReadsClearAndLatch := by
  rintro ⟨-, hdeny, -⟩
  obtain ⟨t, ht, hresp, -⟩ := hdeny readsDenyInfo crankViewDenied gate_crankViewDenied
  obtain ⟨u, hu, hzero⟩ := readClearRead_denyInfo_unowned (a := readsDenyInfo) rfl rfl gate_crankViewDenied
    unowned_crankViewDenied
  obtain rfl : t = u := Host.Outcome.next.inj (ht.symm.trans hu)
  have hword : (0x40000064 : Nat) % 2 ^ 32 = 0 := by
    rw [← denyInfo_crankViewDenied]
    exact Resp.value.inj (hresp.symm.trans hzero)
  exact absurd hword (by decide)

end Sys2Proof.Machine
end

section
/-!
PROOFS of the architecture's statements: what a guest reaches (R28, R54, R74), and what drives a TRIP_OUT (R36, R448).
-/
namespace Sys2Proof.Machine

variable {s : State} {loc off v hub n : Nat} {b : Block} {w : Who} {wide write : Bool}

/-! ### The gate of a guest (R54, R74) -/

/-- A page that runs, reached by an aligned access of an initiator other than debug, is judged by the guest's group and then
by the initiator's plane. -/
theorem gate_of_running (ha : aligned w off wide = true) (hp : present s (serveFor s loc b w.ini) = true)
    (hpop : populated loc b = true) (hrun : pageRunFor s loc b w.ini = true) (hini : w.ini ≠ 112) :
    gate s loc b w off wide write =
      if guestOk s loc b w = false then .denied 1 else if areaOk b w off write = false then .denied 0 else .pass := by
  simp [gate, ha, hp, hpop, hrun, hini]

/-- What a guest may reach (R74, R326). -/
theorem guestOk_iff (hv : w.vi = some v) :
    guestOk s loc b w = true ↔ blockIsView b = true ∧ loc = viewLoc v ∧ viState s v ∈ [2, 3, 4, 6] := by
  simp only [guestOk, hv, Bool.and_eq_true, beq_iff_eq, List.contains_iff_mem, and_assoc]

/-- Every view belongs to the control plane (R73). -/
theorem control_of_view (h : blockIsView b = true) : (blockPlane b).control = true := by
  cases b <;> revert h <;> decide

/-- A hart reaches every offset of a view: its registers by the control plane, its counter area in both planes (R54, R55). -/
theorem areaOk_view_of_hart (hb : blockIsView b = true) (hi : w.ini < 96) : areaOk b w off write = true := by
  have hc : classOf w.ini = .c := if_pos hi
  have hd : b ≠ .debug := by
    rintro rfl
    cases hb
  simp [areaOk, planeOk, hc, hb, hd, control_of_view hb]

/-- Settles O36: of the gate's conditions the guest's group alone is open (R74, R326), and a hart's plane owns every view. -/
theorem guestReachesOnlyItsGroup : Obligations.GuestReachesOnlyItsGroup := by
  intro s loc b w off wide write v hv hini ha hp hpop hrun
  rw [gate_of_running ha hp hpop hrun hini]
  refine ⟨fun hout => if_pos ?_, fun hb hloc hst hi => ?_⟩
  · rw [Bool.eq_false_iff, ne_eq, guestOk_iff hv]
    rintro ⟨hb, hloc, hst⟩
    rcases hout with hout | hout | hout
    · simp [hb] at hout
    · exact hout hloc
    · exact hout hst
  · simp [(guestOk_iff hv).2 ⟨hb, hloc, hst⟩, areaOk_view_of_hart hb hi]

/-! ### What drives a line (R36, R448) -/

/-- A Coaster demand asserts a line before anything else is asked. -/
theorem lineDrive_of_demand (hs : (rstOf s hub).fuseSensed = true) (hc : bit (coDemand s hub) n = true) :
    lineDrive s hub n = some true := by
  simp [lineDrive, hs, hc]

/-- A line that is not made safe follows its gated software demand. -/
theorem lineDrive_of_software (hs : (rstOf s hub).fuseSensed = true) (hc : bit (coDemand s hub) n = false)
    (hl : lineSafe s hub n = false) : lineDrive s hub n = some (swDemand s hub n) := by
  simp [lineDrive, hs, hc, hl]

/-- A line that is made safe follows the fused code of its ball (R528, R529). -/
theorem lineDrive_of_code (hs : (rstOf s hub).fuseSensed = true) (hc : bit (coDemand s hub) n = false)
    (hl : lineSafe s hub n = true) :
    (pinCode s hub n = 4 → lineDrive s hub n = some true) ∧ (pinCode s hub n = 3 → lineDrive s hub n = some false) ∧
    (pinCode s hub n = 5 → lineDrive s hub n = some ((lineOf s hub n).accepted && (lineOf s hub n).used)) ∧
    (pinCode s hub n < 3 → lineDrive s hub n = none) := by
  simp only [lineDrive, hs, hc, hl, Bool.not_true, Bool.false_eq_true, if_false, if_true]
  refine ⟨fun h => by simp [h], fun h => by simp [h], fun h => by simp [h], fun h => ?_⟩
  split
  · omega
  · omega
  · omega
  · rfl

/-- Level 4 makes every line safe (R36, R435). -/
theorem lineSafe_of_level (h : 4 ≤ (levelOf s hub).level) : lineSafe s hub n = true := by
  simp [lineSafe, kickActive, h]

/-- A closed gate stops a line's software demand (R472). -/
theorem swDemand_of_gated (h : lineGated s hub n = true) : swDemand s hub n = false := by
  simp [swDemand, h]

/-- Settles O50: what `lineDrive` asks in turn, the Coaster's demand, the fused code of a line made safe, the software
demand. -/
theorem tripOutFollowsTheCoaster : Obligations.TripOutFollowsTheCoaster := fun _ _ _ hs =>
  ⟨lineDrive_of_demand hs, lineDrive_of_software hs, lineDrive_of_code hs, lineSafe_of_level, swDemand_of_gated⟩

end Sys2Proof.Machine
end

section
/-!
PROOFS of the architecture's statements: what SWR_ASSERT holds (R35, R513, R535).
-/
namespace Sys2Proof.Machine

variable {s t : State} {die hub src mask now d : Nat} {r : ResetSt}

/-! ### What follows an assertion leaves the reset controllers -/

/-- A fold of steps that leave the reset controllers leaves them. -/
theorem foldl_rst {α : Type} {f : State → α → State} (hf : ∀ u a, (f u a).rst = u.rst) :
    ∀ (l : List α) (s : State), (l.foldl f s).rst = s.rst
  | [], _ => rfl
  | a :: l, s => (foldl_rst hf l (f s a)).trans (hf s a)

@[simp] theorem wrAll_rst (loc inst : Nat) (rs : List (Reg × Nat)) : (wrAll s loc inst rs).rst = s.rst :=
  foldl_rst (fun _ _ => wr_rst ..) rs s

@[simp] theorem hwEvent_rst (loc : Nat) (b : Block) (n : Nat) : (hwEvent s loc b n).rst = s.rst := onlyPages_hwEvent.rst

@[simp] theorem finish_rst (loc : Nat) (b : Block) (k : Ticket) (code : Code) (note : Nat) :
    (finish s loc b k code note).rst = s.rst := (onlyPages_finish k code note).rst

@[simp] theorem finishOp_rst (loc : Nat) (b : Block) (op : Nat) (code : Code) (note : Nat) :
    (finishOp s loc b op code note).rst = s.rst := by
  unfold finishOp
  split
  · exact finish_rst ..
  · rfl

@[simp] theorem putLine_rst (n : Nat) (l : TripLine) : (putLine s hub n l).rst = s.rst := rfl
@[simp] theorem pushEdge_rst (kind i : Nat) (on : Bool) (cts : Nat) : (pushEdge s hub kind i on cts).rst = s.rst := rfl
@[simp] theorem setSbag_rst (g : Sbag) : (setSbag s hub g).rst = s.rst := rfl
@[simp] theorem putSnap_rst (i : Nat) (k : SnapSet) : (putSnap s hub i k).rst = s.rst := rfl
@[simp] theorem setLane_rst (l : Lane) : (setLane s hub l).rst = s.rst := rfl
@[simp] theorem putStream_rst (i : Nat) (e : Stream) : (putStream s hub i e).rst = s.rst := rfl
@[simp] theorem setMech_rst (m : Mech) : (setMech s die m).rst = s.rst := rfl

/-! Triggers (R579) -/

@[simp] theorem snapFire_rst (h cause i : Nat) : (snapFire h cause s i).rst = s.rst := by
  simp only [snapFire, causedBy, apply_ite State.rst, hwEvent_rst, incr_rst, putSnap_rst, ite_self]

@[simp] theorem freezeFire_rst (h code cause : Nat) : (freezeFire s h code cause).rst = s.rst := by
  simp only [freezeFire, apply_ite State.rst, setSbag_rst, ite_self]

@[simp] theorem fireTrigger_rst (h code cause : Nat) : (fireTrigger s h code cause).rst = s.rst := by
  have sets (l : List Nat) : (l.foldl (snapFire h cause) s).rst = s.rst := foldl_rst (fun _ _ => snapFire_rst ..) l s
  simp only [fireTrigger, apply_ite State.rst, freezeFire_rst, sets, ite_self]

/-! What follows a link's change (R21, R36, R181, R525) -/

@[simp] theorem showLines_rst : (showLines s hub).rst = s.rst := by
  unfold showLines
  dsimp only
  split
  · exact foldl_rst (fun _ _ => wr_rst ..) ..
  · rfl

@[simp] theorem refreshLine_rst (n : Nat) : (refreshLine hub s n).rst = s.rst := by
  simp only [refreshLine, apply_ite State.rst, putLine_rst, pushEdge_rst, fireTrigger_rst, incr_rst, hwEvent_rst, wr_rst,
    drew_rst, ite_self]

@[simp] theorem refreshLines_rst : (refreshLines s hub).rst = s.rst :=
  showLines_rst.trans (foldl_rst (fun _ _ => refreshLine_rst ..) ..)

@[simp] theorem refreshAll_rst : (refreshAll s).rst = s.rst :=
  foldl_rst (fun _ _ => refreshLines_rst) ..

@[simp] theorem abortPlan_rst : (abortPlan s hub).rst = s.rst := by
  unfold abortPlan
  dsimp only
  split
  · rfl
  · simp

@[simp] theorem putLaneState_rst (st : Nat) : (putLaneState s hub st).rst = s.rst := by
  simp only [putLaneState, setLane_rst, apply_ite State.rst, hwEvent_rst, setStatus_rst, abortPlan_rst, ite_self]

@[simp] theorem laneJudge_rst : (laneJudge s).rst = s.rst := by
  unfold laneJudge
  split
  · rfl
  · exact foldl_rst (fun _ _ => by simp only [apply_ite State.rst, putLaneState_rst, setStatus_rst, ite_self]) ..

@[simp] theorem detRestart_rst (i : Nat) : (detRestart s hub i).rst = s.rst := by
  refine foldl_rst (fun _ _ => ?_) _ s
  rfl

@[simp] theorem yieldStream_rst (keeper other i : Nat) : (yieldStream keeper other s i).rst = s.rst := by
  unfold yieldStream
  split
  · split <;> simp
  · rfl

@[simp] theorem rejoinHubs_rst : (rejoinHubs s).rst = s.rst := by
  unfold rejoinHubs
  split
  · rfl
  · refine foldl_rst (fun u h => ?_) ..
    dsimp only
    split
    · exact foldl_rst (fun _ _ => yieldStream_rst ..) ..
    · rfl

@[simp] theorem optCompare_rst : (optCompare s).rst = s.rst := by
  unfold optCompare
  split
  · exact foldl_rst (fun _ _ => by simp only [apply_ite State.rst, hwEvent_rst, wr_rst, ite_self]) ..
  · rfl

@[simp] theorem linesJudge_rst : (linesJudge s).rst = s.rst := by
  simp [linesJudge]

@[simp] theorem showReset_rst : (showReset s die).rst = s.rst := by
  exact (foldl_rst (fun _ _ => wr_rst ..) ..).trans (wrAll_rst ..)

/-! ### What a source holds (R35, R513) -/

/-- The states' reset controllers read alike where the states hold the same ones. -/
theorem rstOf_congr (h : t.rst = s.rst) : rstOf t die = rstOf s die := by rw [rstOf, h, rstOf]

/-- Putting a controller sets it, but for the time from which its gap counts. -/
theorem rstOf_putRst : rstOf (putRst s die r) die = markGap s.now die (rstOf s die) r := by
  rw [putRst, rstOf_congr showReset_rst, rstOf, setRst, mget_mput_same]

@[simp] theorem heldMask_markGap (old : ResetSt) : heldMask (markGap now die old r) = heldMask r := by
  unfold markGap
  dsimp only
  split <;> rfl

/-- A reset of die reach holds no further domain. -/
@[simp] theorem heldMask_dieReach : heldMask (rstOf (dieReach s die) die) = heldMask (rstOf s die) := by
  unfold dieReach
  dsimp only
  split
  · simp [rstOf, setRst, heldMask]
  · rfl

/-- After a source asserts on a die, the domains held are those of the controller that `holdRst` gives. -/
theorem heldMask_assertSource (hp : present s die = true) :
    heldMask (rstOf (assertSource s die src mask) die) = heldMask (holdRst die (rstOf s die) src mask s.now) := by
  unfold assertSource
  rw [if_neg (by simp [hp])]
  dsimp only
  rw [rstOf_congr (linesJudge_rst.trans ((foldl_rst (fun _ _ => fireTrigger_rst ..) ..).trans
    ((hwEvent_rst ..).trans showReset_rst)))]
  split <;> simp [rstOf_putRst]

theorem testBit_foldl_or (l : List Nat) (m : Nat) :
    (l.foldl (fun m k => m ||| k) m).testBit d = (m.testBit d || l.any (fun k => k.testBit d)) := by
  induction l generalizing m with
  | nil => simp
  | cons k l ih => simp [ih, Bool.or_assoc]

/-- A domain is held where the mask of a pulse or of a source covers it (R35). -/
theorem bit_heldMask : bit (heldMask r) d = (r.pulses.any (fun p => bit p.mask d) || r.holds.any (fun k => bit k d)) := by
  simp [heldMask, bit, testBit_foldl_or, List.any_map, Function.comp_def]

/-- Widening one entry of a list of masks adds its bits to theirs. -/
theorem any_bit_set_or (l : List Nat) (h : src < l.length) :
    (l.set src ((l[src]?.getD 0) ||| mask)).any (fun k => bit k d) = (l.any (fun k => bit k d) || bit mask d) := by
  induction l generalizing src with
  | nil => cases h
  | cons k l ih =>
    cases src with
    | zero => simp [bit, Bool.or_assoc, Bool.or_comm]
    | succ n => simp [ih (Nat.lt_of_succ_lt_succ h), Bool.or_assoc]

/-- SWR adds the domains of its mask to those held, and releases none. -/
theorem bit_heldMask_holdRst_swr (h : 8 ≤ r.holds.length) :
    bit (heldMask (holdRst die r 7 mask now)) d = (bit (heldMask r) d || bit mask d) := by
  have hset : (holdRst die r 7 mask now).holds = r.holds.set 7 ((r.holds[7]?.getD 0) ||| mask) := rfl
  have hpulses : (holdRst die r 7 mask now).pulses = r.pulses := rfl
  rw [bit_heldMask, bit_heldMask, hset, hpulses, any_bit_set_or _ h, Bool.or_assoc]

/-- A domain that a source holds does not run (R512). -/
theorem domRun_of_held (hd : d ≠ 0) (h : bit (heldMask (rstOf s die)) d = true) : domRun s die d = false := by
  simp [domRun, hd, h]

theorem mem_maskDoms : d ∈ maskDoms mask ↔ d < 13 ∧ d ≠ 0 ∧ bit mask d = true := by
  simp [maskDoms]

/-- Settles O52: the grant changes the pages alone, the assertion widens the mask of SWR, and nothing that follows it
changes what is held. -/
theorem softwareResetHoldsItsDomains : Obligations.SoftwareResetHoldsItsDomains := by
  intro c s hg hp hlen die mask
  have hact : OnlyPages s (acting s c .resetKs 0x10) := onlyPages_acting c 0x10
  have hrst (u : Nat) : rstOf (acting s c .resetKs 0x10) u = rstOf s u := rstOf_congr hact.rst
  have hpres : present (acting s c .resetKs 0x10) die = true := by
    rw [present, hact.variant]
    exact hp
  refine ⟨_, command_granted hg, ?_⟩
  have hheld (d : Nat) :
      bit (heldMask (rstOf (settled s (answered (ctxOf s c .resetKs 0x10)
        (effectSwrAssert (ctxOf s c .resetKs 0x10) (acting s c .resetKs 0x10)))) die)) d =
      (bit (heldMask (rstOf s die)) d || bit mask d) := by
    rw [rstOf_congr (onlyPages_settled (onlyPages_answered ..)).rst]
    show bit (heldMask (rstOf (assertSource (acting s c .resetKs 0x10) die 7 mask) die)) d = _
    rw [heldMask_assertSource hpres, hrst, bit_heldMask_holdRst_swr hlen]
  refine ⟨fun d hd => ?_, fun d hd => ?_⟩
  · obtain ⟨-, hne, hbit⟩ := mem_maskDoms.1 hd
    exact domRun_of_held hne (by simp [hheld, hbit])
  · simp [hheld, hd]

end Sys2Proof.Machine
end

section
/-!
PROOFS of the architecture's statements: the events of links, Cadence, the Saddlebag, the Cyclometer and DRAM complete.
-/
namespace Sys2Proof.Machine

variable {s t u : State} {die loc idx : Nat} {r r' : Reg} {values vs : List Nat}

theorem OnlyPages.ite {c : Prop} [Decidable c] (h : OnlyPages s t) (k : OnlyPages t u) : OnlyPages s (if c then u else t) := by
  split
  · exact h.trans k
  · exact h

theorem OnlyRegs.mem (h : OnlyRegs s t) : t.mem = s.mem := by
  obtain ⟨_, _, _, _, _, _, _, _, _, _, _, rfl⟩ := onlyRegs_iff.1 h
  rfl

theorem OnlyRegs.ctrs (h : OnlyRegs s t) : t.ctrs = s.ctrs := by
  obtain ⟨_, _, _, _, _, _, _, _, _, _, _, rfl⟩ := onlyRegs_iff.1 h
  rfl

theorem OnlyRegs.rst (h : OnlyRegs s t) : t.rst = s.rst := by
  obtain ⟨_, _, _, _, _, _, _, _, _, _, _, rfl⟩ := onlyRegs_iff.1 h
  rfl

theorem cadOf_of_onlyPages (h : OnlyPages s t) : cadOf t die = cadOf s die := by
  obtain ⟨_, _, _, _, _, _, _, _, _, _, rfl⟩ := onlyPages_iff.1 h
  rfl

/-! ### Registers set one by one -/

/-- Setting copies of one register leaves every register of another block or offset. -/
theorem rd_foldl_wr_slot {loc' inst' : Nat} {f : Nat → Nat} (h : regSlot r' % 268435456 ≠ regSlot r % 268435456) :
    ∀ (l : List Nat) (s : State), rd (l.foldl (fun t i => wr t loc r i (f i)) s) loc' r' inst' = rd s loc' r' inst'
  | [], _ => rfl
  | _ :: l, _ => (rd_foldl_wr_slot h l _).trans (rd_wr_slot h)

/-- Setting copies of one register leaves the copies that are not named. -/
theorem rd_foldl_wr_not_mem {f : Nat → Nat} {i : Nat} : ∀ {l : List Nat} (s : State), i ∉ l →
    rd (l.foldl (fun t i => wr t loc r i (f i)) s) loc r i = rd s loc r i
  | [], _, _ => rfl
  | j :: _, _, h => by
    have hij : i ≠ j := fun e => h (e ▸ List.mem_cons_self)
    exact (rd_foldl_wr_not_mem _ fun m => h (List.mem_cons_of_mem j m)).trans (rd_wr_inst (by omega))

/-- A register among those that are set reads as what was set, cut to the register's width. -/
theorem rd_foldl_wr_mem {f : Nat → Nat} {i : Nat} : ∀ {l : List Nat} (s : State), i ∈ l →
    rd (l.foldl (fun t i => wr t loc r i (f i)) s) loc r i = f i % 2 ^ regBits r
  | [], _, h => absurd h List.not_mem_nil
  | j :: l, s, h => by
    by_cases hl : i ∈ l
    · exact rd_foldl_wr_mem (wr s loc r j (f j)) hl
    · obtain rfl : i = j := (List.mem_cons.1 h).resolve_right hl
      exact (rd_foldl_wr_not_mem _ hl).trans rd_wr_same

/-! ### The Cadence monitors (R39 to R41) -/

@[simp] theorem setCad_mem (c : CadSt) : (setCad s die c).mem = s.mem := rfl
@[simp] theorem setCad_ctrs (c : CadSt) : (setCad s die c).ctrs = s.ctrs := rfl
@[simp] theorem setCad_rst (c : CadSt) : (setCad s die c).rst = s.rst := rfl

theorem onlyPages_cadEvent (n mon : Nat) : OnlyPages s (cadEvent s die n idx mon) :=
  onlyPages_tickPage.trans (onlyPages_eventRec ..)

/-- The registers of CADENCE as a measurement shows them: the values of the monitors, the index and the lowest index. -/
def showCadence (s : State) (die : Nat) (vs : List Nat) (idx : Nat) : State :=
  let s1 := (List.range 8).foldl (fun t i => wr t die R.CAD_MON_INDEX i (vs[i]?.getD 0)) s
  wr (wr s1 die R.CAD_INDEX 0 idx) die R.CAD_LOW 0 (min (rd s1 die R.CAD_LOW 0) idx)

/-- The judgement that follows a measurement (R41). -/
def judgeCadence (s : State) (die idx : Nat) : CadSt :=
  let below := decide (idx < rd s die R.CAD_FLOOR 0)
  ⟨true, if below then some ((cadOf s die).since.getD s.now) else none, below && (cadOf s die).out⟩

/-- The time below the floor, which a measurement counts for the one before it (R40). -/
def countBelow (s : State) (die : Nat) : State :=
  if (cadOf s die).measured && decide (rd s die R.CAD_INDEX 0 < rd s die R.CAD_FLOOR 0) then
    incrSat s die R.CAD_BELOW_TIME 0 10
  else s

theorem onlyRegs_showCadence : OnlyRegs s (showCadence s die vs idx) :=
  ((onlyRegs_foldl _ (fun _ _ => onlyRegs_wr ..) _ s).trans (onlyRegs_wr ..)).trans (onlyRegs_wr ..)

theorem onlyRegs_countBelow : OnlyRegs s (countBelow s die) := by
  unfold countBelow
  split
  · exact onlyRegs_incrSat ..
  · exact .refl

theorem rd_countBelow_low : rd (countBelow s die) die R.CAD_LOW 0 = rd s die R.CAD_LOW 0 := by
  unfold countBelow
  split
  · exact rd_wr_slot (by decide)
  · rfl

theorem rd_showCadence_index (h : idx < 2 ^ 32) : rd (showCadence s die vs idx) die R.CAD_INDEX 0 = idx := by
  rw [showCadence, rd_wr_slot (by decide), rd_wr_same]
  exact Nat.mod_eq_of_lt h

theorem rd_showCadence_low (h : idx < 2 ^ 32) :
    rd (showCadence s die vs idx) die R.CAD_LOW 0 = min (rd s die R.CAD_LOW 0) idx := by
  rw [showCadence, rd_wr_same, rd_foldl_wr_slot (by decide)]
  exact Nat.mod_eq_of_lt (Nat.lt_of_le_of_lt (Nat.min_le_right ..) h)

theorem rd_showCadence_mon {i v : Nat} (hi : i < 8) (hv : vs[i]? = some v) (h : v < 2 ^ 32) :
    rd (showCadence s die vs idx) die R.CAD_MON_INDEX i = v := by
  rw [showCadence, rd_wr_slot (by decide), rd_wr_slot (by decide), rd_foldl_wr_mem s (List.mem_range.2 hi), hv]
  exact Nat.mod_eq_of_lt h

/-- Eight values of 16 bits are taken as they are. -/
theorem cut_values (hv : ∀ v ∈ values, v < 65536) (hlen : values.length = 8) :
    (List.range 8).map (fun i => values[i]?.getD 0 % 65536) = values := by
  refine List.ext_getElem (by simp [hlen]) fun i hi hi' => ?_
  simp [hi', Nat.mod_eq_of_lt (hv _ (List.getElem_mem hi'))]

theorem foldl_min_le : ∀ (l : List Nat) (m : Nat), l.foldl min m ≤ m
  | [], _ => Nat.le_refl _
  | a :: l, m => Nat.le_trans (foldl_min_le l (min m a)) (Nat.min_le_left m a)

/-- A measurement shows its values and judges them; the events of R41 change the pages alone. -/
theorem cadenceMeasurement_next (hrun : domRun s die 4 = true) (hv : ∀ v ∈ values, v < 65536) (hlen : values.length = 8) :
    let idx := values.foldl min 65535
    After (.cadenceMeasurement die values) s
      (OnlyPages (setCad (showCadence (countBelow s die) die values idx) die (judgeCadence s die idx))) := by
  refine ⟨_, if_pos hrun, ?_⟩
  rw [cut_values hv hlen]
  exact (OnlyPages.refl.ite (onlyPages_cadEvent ..)).ite (onlyPages_cadEvent ..)

/-- What a measurement of eight values leaves: the values, their lowest as the index, the lowest index so far, and the time
from which the index has been below the floor (R40, R41). -/
theorem cadenceMeasurement_shows (hrun : domRun s die 4 = true) (hv : ∀ v ∈ values, v < 65536) (hlen : values.length = 8) :
    let idx := values.foldl min 65535
    After (.cadenceMeasurement die values) s fun t =>
      rd t die R.CAD_INDEX 0 = idx ∧ rd t die R.CAD_LOW 0 = min (rd s die R.CAD_LOW 0) idx ∧
      (∀ i, ∀ v ∈ values[i]?, rd t die R.CAD_MON_INDEX i = v) ∧ (cadOf t die).measured = true ∧
      (cadOf t die).since = (if idx < rd s die R.CAD_FLOOR 0 then some ((cadOf s die).since.getD s.now) else none) ∧
      t.mem = s.mem ∧ t.ctrs = s.ctrs ∧ t.rst = s.rst := by
  intro idx
  obtain ⟨t, hgo, ht⟩ := cadenceMeasurement_next hrun hv hlen
  have hidx : idx < 2 ^ 32 := Nat.lt_of_le_of_lt (foldl_min_le values 65535) (by omega)
  have hshow : OnlyRegs s (showCadence (countBelow s die) die values idx) := onlyRegs_countBelow.trans onlyRegs_showCadence
  have hrd (r : Reg) (i : Nat) : rd t die r i = rd (showCadence (countBelow s die) die values idx) die r i := rd_congr ht.regs
  have hcad : cadOf t die = judgeCadence s die idx := (cadOf_of_onlyPages ht).trans (mget_mput_same ..)
  refine ⟨t, hgo, ?_, ?_, fun i v hi => ?_, ?_, ?_, ?_, ?_, ?_⟩
  · rw [hrd, rd_showCadence_index hidx]
  · rw [hrd, rd_showCadence_low hidx, rd_countBelow_low]
  · obtain ⟨hlt, rfl⟩ := List.getElem?_eq_some_iff.1 hi
    rw [hrd]
    exact rd_showCadence_mon (hlen ▸ hlt) hi (Nat.lt_trans (hv _ (List.getElem_mem hlt)) (by decide))
  · rw [hcad, judgeCadence]
  · simp [hcad, judgeCadence]
  · rw [ht.mem, setCad_mem, hshow.mem]
  · rw [ht.ctrs, setCad_ctrs, hshow.ctrs]
  · rw [ht.rst, setCad_rst, hshow.rst]

/-! ### The events of links and Cadence -/

/-- Settles O13: each row's answer where its condition holds, and what a measurement shows. -/
theorem linkAndCadenceEventsComplete : Obligations.LinkAndCadenceEventsComplete := by
  refine ⟨fun die inst axle s => ⟨?_, ?_, ?_, ?_, ?_⟩, fun _ _ _ => cadenceMeasurement_shows, ?_, ?_⟩
  · intro here there h
    show execFlitHandshakeFail die inst axle here there s = _
    rw [execFlitHandshakeFail, if_pos h]
    split <;> rfl
  · intro h hr hl
    show execLinkRetrainDone die inst axle true s = _
    rw [execLinkRetrainDone, if_pos (by simp [h, hr, hl]), if_pos rfl]
  · intro h hr
    show execLinkRetrainDone die inst axle false s = _
    rw [execLinkRetrainDone, if_pos (by simp [h, hr]), if_neg Bool.false_ne_true]
    exact (apply_ite Host.Outcome.next ..).symm
  · intro hl hst hd
    exact if_pos (by simp [hl, hst, hd])
  · intro up h
    exact if_pos h
  · intro die s hrun hlong hhigh
    exact if_pos (by simp [hrun, hlong, hhigh])
  · intro die channel domA domB s hp hA hB hsA hsB
    exact if_pos (by simp [hp, hA, hB, hsA, hsB])

/-! ### The events of the Saddlebag, the Cyclometer and DRAM -/

/-- Settles O14: each row's answer where its condition holds. -/
theorem recorderAndDramEventsComplete : Obligations.RecorderAndDramEventsComplete := by
  refine ⟨?_, ?_, ?_, ?_, ?_, ?_, ?_, ?_, ?_, ?_, fun _ _ => rfl, ?_⟩
  · intro hub s r hr hrun
    show execSaddlebagRecordEnqueue hub s = _
    simp [execSaddlebagRecordEnqueue, hr, hrun]
  · intro hub p s r rest hp hq hrun hst
    show execSaddlebagRingWrite hub s = _
    simp [execSaddlebagRingWrite, hp, hq, hrun, hst]
  · intro hub set cause s hhub hrun hset
    dsimp only
    intro hk
    show execSnapshotTrigger hub set s = _
    simp [execSnapshotTrigger, hk, hhub, hrun, hset]
  · intro hub set s
    dsimp only
    intro hrun hset hon htrig hdue
    exact if_pos (by simp [hrun, hset, hon, htrig, hdue])
  · intro hub cause s hpend hst
    show execFreezeTrigger hub s = _
    simp [execFreezeTrigger, hpend, hst]
  · intro hub s hon hrun hvalid hdue
    exact if_pos (by simp [hon, hrun, hvalid, hdue])
  · intro s hdue
    exact if_pos hdue
  · intro die state ranks x16 density cause size us s hrun hst
    refine ⟨fun g hg => ⟨?_, fun hstate => ?_⟩, fun hg => ?_⟩
    · show execDramTrainingDone die 1 ranks x16 density cause size us s = _
      simp [execDramTrainingDone, hrun, hst, hg]
    · show execDramTrainingDone die state ranks x16 density cause size us s = _
      simp [execDramTrainingDone, hrun, hst, hg, hstate]
    · show execDramTrainingDone die state ranks x16 density cause size us s = _
      simp [execDramTrainingDone, hrun, hst, hg]
  · intro die addr s hrun hin
    exact if_pos (by simp [hrun, hin])
  · intro die addr reader s hrun hin
    exact if_pos (by simp [hrun, hin])
  · intro die code device s hrun
    exact if_pos hrun

end Sys2Proof.Machine
end

section
/-!
PROOFS of the register pages' statements: memory stays canonical and every command answers (R48, R62, R66).
-/
namespace Sys2Proof.Machine

variable {s0 s : State}

/-- Every command answers a next state that keeps the queue behind it, the variant and the canonical form of memory. -/
theorem exec_keeps (hs : Keeps s0 s) (i : Instr) : KeepsOut s0 (exec i s) :=
  match i with
  | .nop .. => execNop_keeps hs
  | .eventTest .. => execEventTest_keeps hs
  | .eventW1cWrite .. => execEventW1cWrite_keeps hs
  | .eventEnWrite .. => execEventEnWrite_keeps hs
  | .readClearRead .. => execReadClearRead_keeps hs
  | .pageLockWrite .. => execPageLockWrite_keeps hs
  | .lowWordRead .. => execLowWordRead_keeps hs
  | .lowWordWrite .. => execLowWordWrite_keeps hs
  | .highWordWrite .. => execHighWordWrite_keeps hs
  | .registerWrite .. => execRegisterWrite_keeps hs
  | .msiReceive => execMsiReceive_keeps hs
  | .flitHandshakeFail .. => execFlitHandshakeFail_keeps hs
  | .linkRetrainDone .. => execLinkRetrainDone_keeps hs
  | .linkInitialTrain .. => execLinkInitialTrain_keeps hs
  | .linkRestore .. => execLinkRestore_keeps hs
  | .linkRestoreDone .. => execLinkRestoreDone_keeps hs
  | .linkClearCounters .. => execLinkClearCounters_keeps hs
  | .cadenceMeasurement .. => execCadenceMeasurement_keeps hs
  | .outOfGuarantee .. => execOutOfGuarantee_keeps hs
  | .handshakeTimeout .. => execHandshakeTimeout_keeps hs
  | .timeSyncExchange .. => execTimeSyncExchange_keeps hs
  | .syncExchangeLoss .. => execSyncExchangeLoss_keeps hs
  | .counterSetFromHub .. => execCounterSetFromHub_keeps hs
  | .offsetInDelivery .. => execOffsetInDelivery_keeps hs
  | .slewEnd .. => execSlewEnd_keeps hs
  | .stepTakesEffect => execStepTakesEffect_keeps hs
  | .ppsInEdge .. => execPpsInEdge_keeps hs
  | .irigBFrame .. => execIrigBFrame_keeps hs
  | .leapSecondApply .. => execLeapSecondApply_keeps hs
  | .refTimeoutExpiry .. => execRefTimeoutExpiry_keeps hs
  | .setTime .. => execSetTime_keeps hs
  | .step .. => execStep_keeps hs
  | .selectRef .. => execSelectRef_keeps hs
  | .hold .. => execHold_keeps hs
  | .takeMaster .. => execTakeMaster_keeps hs
  | .takeMasterDone .. => execTakeMasterDone_keeps hs
  | .resetServo .. => execResetServo_keeps hs
  | .timeSnapshotRead .. => execTimeSnapshotRead_keeps hs
  | .stampRead .. => execStampRead_keeps hs
  | .ptpMessageRx .. => execPtpMessageRx_keeps hs
  | .trgArm .. => execTrgArm_keeps hs
  | .trgDisarm .. => execTrgDisarm_keeps hs
  | .triggerFiring .. => execTriggerFiring_keeps hs
  | .triggerPulseEnd .. => execTriggerPulseEnd_keeps hs
  | .triggerArmedWrite .. => execTriggerArmedWrite_keeps hs
  | .frameIngress .. => execFrameIngress_keeps hs
  | .crossbarSlot .. => execCrossbarSlot_keeps hs
  | .samplerRecord .. => execSamplerRecord_keeps hs
  | .macAgeOut .. => execMacAgeOut_keeps hs
  | .gateListAdvance .. => execGateListAdvance_keeps hs
  | .qbvConfigChange .. => execQbvConfigChange_keeps hs
  | .portDown .. => execPortDown_keeps hs
  | .portFlushDone .. => execPortFlushDone_keeps hs
  | .portLinkReturn .. => execPortLinkReturn_keeps hs
  | .portHoldUpExpiry .. => execPortHoldUpExpiry_keeps hs
  | .p13SendCheck .. => execP13SendCheck_keeps hs
  | .tokenBucketRefill .. => execTokenBucketRefill_keeps hs
  | .tblRead .. => execTblRead_keeps hs
  | .tblWrite .. => execTblWrite_keeps hs
  | .macSearch .. => execMacSearch_keeps hs
  | .macFlush .. => execMacFlush_keeps hs
  | .switchClearCounters .. => execSwitchClearCounters_keeps hs
  | .sessionStart .. => execSessionStart_keeps hs
  | .sessionStop .. => execSessionStop_keeps hs
  | .qbvCommit .. => execQbvCommit_keeps hs
  | .qRsvWrite .. => execQRsvWrite_keeps hs
  | .egSend .. => execEgSend_keeps hs
  | .egressClearCounters .. => execEgressClearCounters_keeps hs
  | .egBufferRead .. => execEgBufferRead_keeps hs
  | .entryForgetExpiry .. => execEntryForgetExpiry_keeps hs
  | .nodeForgetExpiry .. => execNodeForgetExpiry_keeps hs
  | .supervisionSend .. => execSupervisionSend_keeps hs
  | .hubLostRehome .. => execHubLostRehome_keeps hs
  | .rehome .. => execRehome_keeps hs
  | .rehomeWarmStart .. => execRehomeWarmStart_keeps hs
  | .rehomeCut .. => execRehomeCut_keeps hs
  | .linkSignalUp .. => execLinkSignalUp_keeps hs
  | .linkSignalLoss .. => execLinkSignalLoss_keeps hs
  | .lpCfgWrite .. => execLpCfgWrite_keeps hs
  | .nodeRead .. => execNodeRead_keeps hs
  | .nodeWrite .. => execNodeWrite_keeps hs
  | .nodeSearch .. => execNodeSearch_keeps hs
  | .nodeFlush .. => execNodeFlush_keeps hs
  | .linkRestart .. => execLinkRestart_keeps hs
  | .laneClearCounters .. => execLaneClearCounters_keeps hs
  | .tdrRun .. => execTdrRun_keeps hs
  | .tdrDone .. => execTdrDone_keeps hs
  | .sfpInsertion .. => execSfpInsertion_keeps hs
  | .ddmPoll .. => execDdmPoll_keeps hs
  | .sdCfgWrite .. => execSdCfgWrite_keeps hs
  | .svCopyIngest .. => execSvCopyIngest_keeps hs
  | .streamStale .. => execStreamStale_keeps hs
  | .stEnable .. => execStEnable_keeps hs
  | .stDisable .. => execStDisable_keeps hs
  | .stTune .. => execStTune_keeps hs
  | .ingestClearCounters .. => execIngestClearCounters_keeps hs
  | .destRestart .. => execDestRestart_keeps hs
  | .filterBatchVisit .. => execFilterBatchVisit_keeps hs
  | .detectorPresentation .. => execDetectorPresentation_keeps hs
  | .profileLoad .. => execProfileLoad_keeps hs
  | .fsAssign .. => execFsAssign_keeps hs
  | .filterClearCounters .. => execFilterClearCounters_keeps hs
  | .detEnable .. => execDetEnable_keeps hs
  | .detDisable .. => execDetDisable_keeps hs
  | .detTune .. => execDetTune_keeps hs
  | .detDestRestart .. => execDetDestRestart_keeps hs
  | .detClearCounters .. => execDetClearCounters_keeps hs
  | .pelotonOffer => execPelotonOffer_keeps hs
  | .pannierSpillWrite .. => execPannierSpillWrite_keeps hs
  | .pannierRefill .. => execPannierRefill_keeps hs
  | .pannierWalk .. => execPannierWalk_keeps hs
  | .pelotonTick .. => execPelotonTick_keeps hs
  | .pelotonLocalTick .. => execPelotonLocalTick_keeps hs
  | .takeStart .. => execTakeStart_keeps hs
  | .takeTimeout .. => execTakeTimeout_keeps hs
  | .takeIrqEnd .. => execTakeIrqEnd_keeps hs
  | .pelStart .. => execPelStart_keeps hs
  | .post .. => execPost_keeps hs
  | .complete .. => execComplete_keeps hs
  | .pelotonClearCounters .. => execPelotonClearCounters_keeps hs
  | .flowHoldExpiry .. => execFlowHoldExpiry_keeps hs
  | .flowEnable .. => execFlowEnable_keeps hs
  | .flowDisable .. => execFlowDisable_keeps hs
  | .flowSkip .. => execFlowSkip_keeps hs
  | .ringRestart .. => execRingRestart_keeps hs
  | .flowClearCounters .. => execFlowClearCounters_keeps hs
  | .hartStart .. => execHartStart_keeps hs
  | .hartStop .. => execHartStop_keeps hs
  | .xlateWalkDone .. => execXlateWalkDone_keeps hs
  | .xlateInval .. => execXlateInval_keeps hs
  | .xlateInvalDone .. => execXlateInvalDone_keeps hs
  | .rxEnable .. => execRxEnable_keeps hs
  | .rxDisable .. => execRxDisable_keeps hs
  | .rxRestart .. => execRxRestart_keeps hs
  | .rxFrame .. => execRxFrame_keeps hs
  | .viCreate .. => execViCreate_keeps hs
  | .viRun .. => execViRun_keeps hs
  | .quiesce .. => execQuiesce_keeps hs
  | .kill .. => execKill_keeps hs
  | .killWriteCut .. => execKillWriteCut_keeps hs
  | .viPartQuiesced .. => execViPartQuiesced_keeps hs
  | .qtimeoutExpiry .. => execQtimeoutExpiry_keeps hs
  | .viReset .. => execViReset_keeps hs
  | .viResetDone .. => execViResetDone_keeps hs
  | .viDestroy .. => execViDestroy_keeps hs
  | .migrate .. => execMigrate_keeps hs
  | .migrationCutAt .. => execMigrationCutAt_keeps hs
  | .migrationGraceEnd .. => execMigrationGraceEnd_keeps hs
  | .viSave .. => execViSave_keeps hs
  | .viSaveDone .. => execViSaveDone_keeps hs
  | .viRestore .. => execViRestore_keeps hs
  | .viRestoreDone .. => execViRestoreDone_keeps hs
  | .shareApply .. => execShareApply_keeps hs
  | .shareApplyDone .. => execShareApplyDone_keeps hs
  | .shareClearCounters .. => execShareClearCounters_keeps hs
  | .logStart .. => execLogStart_keeps hs
  | .logSwap .. => execLogSwap_keeps hs
  | .logStop .. => execLogStop_keeps hs
  | .dirtyLogDone .. => execDirtyLogDone_keeps hs
  | .crankBoundary .. => execCrankBoundary_keeps hs
  | .crankLocalBoundary .. => execCrankLocalBoundary_keeps hs
  | .crankInputChange .. => execCrankInputChange_keeps hs
  | .crankScanEnd .. => execCrankScanEnd_keeps hs
  | .crankOverrun .. => execCrankOverrun_keeps hs
  | .crankWindowWrite .. => execCrankWindowWrite_keeps hs
  | .journalCommit .. => execJournalCommit_keeps hs
  | .retainWriteError .. => execRetainWriteError_keeps hs
  | .powerFailWarning .. => execPowerFailWarning_keeps hs
  | .powerFailRecovery => execPowerFailRecovery_keeps hs
  | .crLoad .. => execCrLoad_keeps hs
  | .crLoadDone .. => execCrLoadDone_keeps hs
  | .crStart .. => execCrStart_keeps hs
  | .crankRestartDone .. => execCrankRestartDone_keeps hs
  | .crStop .. => execCrStop_keeps hs
  | .crRun .. => execCrRun_keeps hs
  | .crStepMode .. => execCrStepMode_keeps hs
  | .crStep .. => execCrStep_keeps hs
  | .crFire .. => execCrFire_keeps hs
  | .olcCommit .. => execOlcCommit_keeps hs
  | .force .. => execForce_keeps hs
  | .unforce .. => execUnforce_keeps hs
  | .crUnload .. => execCrUnload_keeps hs
  | .crankClearCounters .. => execCrankClearCounters_keeps hs
  | .taskClearCounters .. => execTaskClearCounters_keeps hs
  | .rtClear .. => execRtClear_keeps hs
  | .rtClearDone .. => execRtClearDone_keeps hs
  | .captureTapSample .. => execCaptureTapSample_keeps hs
  | .rowLateComplete .. => execRowLateComplete_keeps hs
  | .captureTriggerArrival .. => execCaptureTriggerArrival_keeps hs
  | .gooseWatchFrame .. => execGooseWatchFrame_keeps hs
  | .captureClose .. => execCaptureClose_keeps hs
  | .captureReduce .. => execCaptureReduce_keeps hs
  | .captureReadoutDone .. => execCaptureReadoutDone_keeps hs
  | .capEnable .. => execCapEnable_keeps hs
  | .capDisable .. => execCapDisable_keeps hs
  | .capTrigger .. => execCapTrigger_keeps hs
  | .capReadout .. => execCapReadout_keeps hs
  | .capRelease .. => execCapRelease_keeps hs
  | .capClearCounters .. => execCapClearCounters_keeps hs
  | .dieStateReport .. => execDieStateReport_keeps hs
  | .levelConditionChange .. => execLevelConditionChange_keeps hs
  | .levelViewReceive .. => execLevelViewReceive_keeps hs
  | .dlHoldExpiry .. => execDlHoldExpiry_keeps hs
  | .swAliveWrite .. => execSwAliveWrite_keeps hs
  | .swAliveTimeout .. => execSwAliveTimeout_keeps hs
  | .laneLossTimeout .. => execLaneLossTimeout_keeps hs
  | .timeAlarmTimeout .. => execTimeAlarmTimeout_keeps hs
  | .levelForce .. => execLevelForce_keeps hs
  | .coasterTableLoad .. => execCoasterTableLoad_keeps hs
  | .bfTimerExpiry .. => execBfTimerExpiry_keeps hs
  | .gooseRepeat .. => execGooseRepeat_keeps hs
  | .zoneLoad .. => execZoneLoad_keeps hs
  | .frameLoad .. => execFrameLoad_keeps hs
  | .zoneOff .. => execZoneOff_keeps hs
  | .zoneReset .. => execZoneReset_keeps hs
  | .coasterClearCounters .. => execCoasterClearCounters_keeps hs
  | .tioSwSet .. => execTioSwSet_keeps hs
  | .tioSwClr .. => execTioSwClr_keeps hs
  | .tripIoClearCounters .. => execTripIoClearCounters_keeps hs
  | .binAccept .. => execBinAccept_keeps hs
  | .tripSenseChange .. => execTripSenseChange_keeps hs
  | .tcsDelayExpiry .. => execTcsDelayExpiry_keeps hs
  | .senseWinExpiry .. => execSenseWinExpiry_keeps hs
  | .driveFaultExpiry .. => execDriveFaultExpiry_keeps hs
  | .tandemBoundary .. => execTandemBoundary_keeps hs
  | .tandemSegmentRx .. => execTandemSegmentRx_keeps hs
  | .beaconRx .. => execBeaconRx_keeps hs
  | .tandemInputExchange => execTandemInputExchange_keeps hs
  | .leaseGateClose .. => execLeaseGateClose_keeps hs
  | .leaseTakeover .. => execLeaseTakeover_keeps hs
  | .contendListenExpiry .. => execContendListenExpiry_keeps hs
  | .partnerPathLoss .. => execPartnerPathLoss_keeps hs
  | .tdPermitWrite .. => execTdPermitWrite_keeps hs
  | .tdPermitLapse .. => execTdPermitLapse_keeps hs
  | .handoverAckDeadline .. => execHandoverAckDeadline_keeps hs
  | .handoverCut .. => execHandoverCut_keeps hs
  | .tdStart .. => execTdStart_keeps hs
  | .tdStop .. => execTdStop_keeps hs
  | .handover .. => execHandover_keeps hs
  | .tdClearCounters .. => execTdClearCounters_keeps hs
  | .unsealChal .. => execUnsealChal_keeps hs
  | .vaultUnseal .. => execUnseal_keeps hs
  | .vaultSeal .. => execSeal_keeps hs
  | .dormant .. => execDormant_keeps hs
  | .wake .. => execWake_keeps hs
  | .rootGen .. => execRootGen_keeps hs
  | .rootLoad .. => execRootLoad_keeps hs
  | .vaultAuthLoad .. => execVaultAuthLoad_keeps hs
  | .keyDerive .. => execKeyDerive_keeps hs
  | .keyUnwrap .. => execKeyUnwrap_keeps hs
  | .keyGen .. => execKeyGen_keeps hs
  | .keyClear .. => execKeyClear_keeps hs
  | .keySet .. => execKeySet_keeps hs
  | .encrypt .. => execEncrypt_keeps hs
  | .decrypt .. => execDecrypt_keeps hs
  | .macGen .. => execMacGen_keeps hs
  | .macVer .. => execMacVer_keeps hs
  | .attest .. => execAttest_keeps hs
  | .vaultClearCounters .. => execVaultClearCounters_keeps hs
  | .vaultCommandEnd .. => execVaultCommandEnd_keeps hs
  | .unsealChallengeExpiry .. => execUnsealChallengeExpiry_keeps hs
  | .keyPromotion .. => execKeyPromotion_keeps hs
  | .trngHealthFail .. => execTrngHealthFail_keeps hs
  | .tamperAlarm .. => execTamperAlarm_keeps hs
  | .cacheZeroiseDone .. => execCacheZeroiseDone_keeps hs
  | .debugChallengeRead => execDebugChallengeRead_keeps hs
  | .debugUnlockResponse .. => execDebugUnlockResponse_keeps hs
  | .faClearCounters .. => execFaClearCounters_keeps hs
  | .porAssert => execPorAssert_keeps hs
  | .porRelease => execPorRelease_keeps hs
  | .fuseSenseDone => execFuseSenseDone_keeps hs
  | .borAssert .. => execBorAssert_keeps hs
  | .borRelease .. => execBorRelease_keeps hs
  | .pinResetAssert => execPinResetAssert_keeps hs
  | .pinResetRelease => execPinResetRelease_keeps hs
  | .lockWaitExpiry .. => execLockWaitExpiry_keeps hs
  | .ckfRelease .. => execCkfRelease_keeps hs
  | .wdtExpiry .. => execWdtExpiry_keeps hs
  | .wdtKickWrite .. => execWdtKickWrite_keeps hs
  | .lckRelease .. => execLckRelease_keeps hs
  | .dbgResetAssert => execDbgResetAssert_keeps hs
  | .dbgResetRelease => execDbgResetRelease_keeps hs
  | .swrAssert .. => execSwrAssert_keeps hs
  | .swrRelease .. => execSwrRelease_keeps hs
  | .swrPulse .. => execSwrPulse_keeps hs
  | .swrPulseEnd .. => execSwrPulseEnd_keeps hs
  | .forceRelease .. => execForceRelease_keeps hs
  | .resetCauseWrite .. => execResetCauseWrite_keeps hs
  | .walkGapExpiry .. => execWalkGapExpiry_keeps hs
  | .islandLockStable .. => execIslandLockStable_keeps hs
  | .islandLockLoss .. => execIslandLockLoss_keeps hs
  | .optionLoad .. => execOptionLoad_keeps hs
  | .optionReceive .. => execOptionReceive_keeps hs
  | .startupLoad .. => execStartupLoad_keeps hs
  | .pinFuse .. => execPinFuse_keeps hs
  | .pinFuseDone .. => execPinFuseDone_keeps hs
  | .xbRead .. => execXbRead_keeps hs
  | .xbProgram .. => execXbProgram_keeps hs
  | .xbErase .. => execXbErase_keeps hs
  | .xbOperationDone .. => execXbOperationDone_keeps hs
  | .mechanicBoot .. => execMechanicBoot_keeps hs
  | .mcRenewWrite .. => execMcRenewWrite_keeps hs
  | .mcCandWrite .. => execMcCandWrite_keeps hs
  | .candidacyLapse .. => execCandidacyLapse_keeps hs
  | .leadLeaseExpiry .. => execLeadLeaseExpiry_keeps hs
  | .mcYield .. => execMcYield_keeps hs
  | .mcRestart .. => execMcRestart_keeps hs
  | .mcAuthLoad .. => execMcAuthLoad_keeps hs
  | .diePower .. => execDiePower_keeps hs
  | .diePowerDone .. => execDiePowerDone_keeps hs
  | .updVerify .. => execUpdVerify_keeps hs
  | .updActivate .. => execUpdActivate_keeps hs
  | .updCommit .. => execUpdCommit_keeps hs
  | .updAbort .. => execUpdAbort_keeps hs
  | .updOperationDone .. => execUpdOperationDone_keeps hs
  | .mcClearCounters .. => execMcClearCounters_keeps hs
  | .sensorSweep .. => execSensorSweep_keeps hs
  | .avsStep .. => execAvsStep_keeps hs
  | .pmbusTransferFail .. => execPmbusTransferFail_keeps hs
  | .pmbAlert .. => execPmbAlert_keeps hs
  | .railSet .. => execRailSet_keeps hs
  | .railClear .. => execRailClear_keeps hs
  | .logEntryProgram .. => execLogEntryProgram_keeps hs
  | .mgIdentify .. => execMgIdentify_keeps hs
  | .mgAttest .. => execMgAttest_keeps hs
  | .mgUnsealChal .. => execMgUnsealChal_keeps hs
  | .mgUnseal .. => execMgUnseal_keeps hs
  | .mgReadSensors .. => execMgReadSensors_keeps hs
  | .mgReadLog .. => execMgReadLog_keeps hs
  | .mgReadPage .. => execMgReadPage_keeps hs
  | .mgWritePage .. => execMgWritePage_keeps hs
  | .mgUpdateWrite .. => execMgUpdateWrite_keeps hs
  | .mgUpdCommand .. => execMgUpdCommand_keeps hs
  | .saddlebagRecordEnqueue .. => execSaddlebagRecordEnqueue_keeps hs
  | .saddlebagRingWrite .. => execSaddlebagRingWrite_keeps hs
  | .sbNextRead .. => execSbNextRead_keeps hs
  | .sbSeekWrite .. => execSbSeekWrite_keeps hs
  | .snapshotTrigger .. => execSnapshotTrigger_keeps hs
  | .snapshotPeriod .. => execSnapshotPeriod_keeps hs
  | .freezeTrigger .. => execFreezeTrigger_keeps hs
  | .sbPost .. => execSbPost_keeps hs
  | .sbFreeze .. => execSbFreeze_keeps hs
  | .sbUnfreeze .. => execSbUnfreeze_keeps hs
  | .sbArm .. => execSbArm_keeps hs
  | .sbDisarm .. => execSbDisarm_keeps hs
  | .ssEnable .. => execSsEnable_keeps hs
  | .ssDisable .. => execSsDisable_keeps hs
  | .sbTrigger .. => execSbTrigger_keeps hs
  | .sbClearCounters .. => execSbClearCounters_keeps hs
  | .counterSelectWrite .. => execCounterSelectWrite_keeps hs
  | .cyclometerSweep .. => execCyclometerSweep_keeps hs
  | .cyRun .. => execCyRun_keeps hs
  | .cyStop .. => execCyStop_keeps hs
  | .cyClearCounters .. => execCyClearCounters_keeps hs
  | .cvSlotRead .. => execCvSlotRead_keeps hs
  | .dramTrainingDone .. => execDramTrainingDone_keeps hs
  | .dramEccError .. => execDramEccError_keeps hs
  | .dramScrubPass die => execDramScrubPass_keeps (x := die) hs
  | .dramRefreshChange .. => execDramRefreshChange_keeps hs
  | .dramClearCounters .. => execDramClearCounters_keeps hs
  | .negativeStepEnd => execNegativeStepEnd_keeps hs
  | .refclkLoss .. => execRefclkLoss_keeps hs
  | .refclkReturn .. => execRefclkReturn_keeps hs
  | .counterLevelTick => execCounterLevelTick_keeps hs
  | .hartTimerInterrupt .. => execHartTimerInterrupt_keeps hs
  | .hartStore .. => execHartStore_keeps hs
  | .mgmtLinkChange .. => execMgmtLinkChange_keeps hs
  | .sfpModuleRemoval .. => execSfpModuleRemoval_keeps hs
  | .mgArpIcmp .. => execMgArpIcmp_keeps hs
  | .tripCurrentMeasure .. => execTripCurrentMeasure_keeps hs
  | .announceReceiptTimeout .. => execAnnounceReceiptTimeout_keeps hs

/-- Settles O30: at reset memory lists nothing. -/
theorem resetMemoryIsCanonical : Obligations.ResetMemoryIsCanonical :=
  ⟨List.Pairwise.nil, fun _ h => absurd h List.not_mem_nil⟩

/-- A step keeps the canonical form of memory: a tick does, and so does every command. -/
theorem step_keeps_canonical (h : Canonical s) {t : State} (e : step s = .next t) : Canonical t := by
  unfold step at e
  split at e
  · cases e
    exact (tick_keeps (.same s)).mem h
  · next c rest _ =>
    obtain ⟨u, hu, hk⟩ := exec_keeps (.same { s with pending := rest }) c
    cases hu.symm.trans e
    exact hk.mem h

/-- Settles O31, from the law of each command and of a tick. -/
theorem stepKeepsMemoryCanonical : Obligations.StepKeepsMemoryCanonical := fun _ _ h e =>
  step_keeps_canonical h e

/-- Settles O32, from the law of each command. -/
theorem everyCommandAnswers : Obligations.EveryCommandAnswers := fun i s =>
  have ⟨t, ht, hk⟩ := exec_keeps (.same s) i
  ⟨t, ht, hk.pending, hk.variant⟩

end Sys2Proof.Machine
end

section
/-!
PROOFS of the register pages' statements: what a write, a command's grant and answer, and an event leave of the headers,
the banked headers, the records and the interrupts (R60, R62, R66, R67, R76).
-/
namespace Sys2Proof.Machine

variable {s t u : State} {loc loc' n m ini : Nat} {b b' : Block} {w : Who} {c : Cmd} {op : Nat} {x : Ctx} {code : Code}
  {α : Type}

/-! ### Headers and banked headers -/

/-- Setting a header leaves of every page what the new header shares with the old one. -/
theorem hdr_setHdr_share (f : Hdr → α) {h : Hdr} (e : f h = f (hdr s loc b)) :
    f (hdr (setHdr s loc b h) loc' b') = f (hdr s loc' b') := by
  by_cases hk : pageKey loc' b' = pageKey loc b
  · simpa [hdr, setHdr, hk] using e
  · rw [hdr_setHdr_ne h hk]

/-- Setting a banked header leaves every other one. -/
theorem bank_setBank_ne (k : Bank) {i : Nat} (h : pageKey loc' b' * 128 + i ≠ pageKey loc b * 128 + ini) :
    bank (setBank s loc b ini k) loc' b' i = bank s loc' b' i :=
  mget_mput_ne _ _ h s.banks

/-- Headers read alike in states with the same headers. -/
theorem hdr_congr (h : t.hdrs = s.hdrs) : hdr t loc b = hdr s loc b := by rw [hdr, h, hdr]

/-- Banked headers read alike in states with the same ones. -/
theorem bank_congr (h : t.banks = s.banks) : bank t loc b ini = bank s loc b ini := by rw [bank, h, bank]

/-! ### A write that counts (R60) -/

@[simp] theorem countWrite_banks : (countWrite s loc b w).banks = s.banks := by
  unfold countWrite
  dsimp only
  split <;> rfl

@[simp] theorem countWrite_recs : (countWrite s loc b w).recs = s.recs := by
  unfold countWrite
  dsimp only
  split <;> rfl

@[simp] theorem countWrite_msis : (countWrite s loc b w).msis = s.msis := by
  unfold countWrite
  dsimp only
  split <;> rfl

/-- A write that counts leaves its stamps in its page's header, and nothing else. -/
theorem hdr_countWrite (s : State) (loc : Nat) (b : Block) (w : Who) : ∃ stamp order writer,
    hdr (countWrite s loc b w) loc b =
      { hdr s loc b with lastWriteStamp := stamp, writeOrder := order, lastWriter := writer } := by
  unfold countWrite
  dsimp only
  split
  · exact ⟨_, _, _, rfl⟩
  · exact ⟨_, _, _, hdr_setHdr_same _⟩

theorem hdr_countWrite_ne (h : pageKey loc' b' ≠ pageKey loc b) : hdr (countWrite s loc b w) loc' b' = hdr s loc' b' := by
  unfold countWrite
  dsimp only
  split
  · rfl
  · exact hdr_setHdr_ne _ h

/-! ### A granted command (R62) -/

@[simp] theorem acting_recs : (acting s c b op).recs = s.recs := countWrite_recs

@[simp] theorem acting_msis : (acting s c b op).msis = s.msis := countWrite_msis

/-- At the grant the page's header takes the stamps of the write, the next sequence number and the command's issuer. -/
theorem hdr_acting (s : State) (c : Cmd) (b : Block) (op : Nat) : ∃ stamp order writer,
    hdr (acting s c b op) (cmdLoc c b) b = { hdr s (cmdLoc c b) b with
      lastWriteStamp := stamp, writeOrder := order, lastWriter := writer
      seq := ((hdr s (cmdLoc c b) b).seq + 1) % 65536
      cmdLast := ((hdr s (cmdLoc c b) b).seq + 1) % 65536 * 65536 + c.who.ini } := by
  obtain ⟨stamp, order, writer, h⟩ := hdr_countWrite s (cmdLoc c b) b c.who
  exact ⟨stamp, order, writer, (hdr_setHdr_same _).trans (congrArg (fun h : Hdr =>
    { h with seq := (ctxOf s c b op).seq, cmdLast := (ctxOf s c b op).seq * 65536 + c.who.ini }) h)⟩

theorem hdr_acting_ne (h : pageKey loc' b' ≠ pageKey (cmdLoc c b) b) : hdr (acting s c b op) loc' b' = hdr s loc' b' :=
  (hdr_setHdr_ne _ h).trans (hdr_countWrite_ne h)

/-- At the grant the issuer's banked header takes the command's stamp. -/
theorem bank_acting : bank (acting s c b op) (cmdLoc c b) b c.who.ini =
    { bank s (cmdLoc c b) b c.who.ini with cmdStamp := (ctxOf s c b op).cts, cmdOrder := (ctxOf s c b op).order } :=
  (bank_setBank_same _).trans (congrArg (fun k : Bank =>
    { k with cmdStamp := (ctxOf s c b op).cts, cmdOrder := (ctxOf s c b op).order }) (bank_congr countWrite_banks))

theorem bank_acting_ne (h : pageKey loc' b' * 128 + ini ≠ pageKey (cmdLoc c b) b * 128 + c.who.ini) :
    bank (acting s c b op) loc' b' ini = bank s loc' b' ini :=
  (bank_setBank_ne _ h).trans (bank_congr countWrite_banks)

/-! ### The record of a refusal, and the answer (R66) -/

@[simp] theorem refuseRec_hdrs : (refuseRec s x code).hdrs = s.hdrs := by
  unfold refuseRec
  dsimp only
  split <;> rfl

@[simp] theorem refuseRec_banks : (refuseRec s x code).banks = s.banks := by
  unfold refuseRec
  dsimp only
  split <;> rfl

@[simp] theorem refuseRec_msis : (refuseRec s x code).msis = s.msis := by
  unfold refuseRec
  dsimp only
  split <;> rfl

/-- No record of a refusal is sent where REFUSE_LOG is 0 and the issuer is not the start-up loader. -/
theorem refuseRec_recs (hl : bit (hdr s x.loc x.blk).refuseLog 0 = false) (hi : x.who.ini ≠ 127) :
    (refuseRec s x code).recs = s.recs := by
  simp [refuseRec, hl, hi]

@[simp] theorem hdr_postResult (note : Nat) : hdr (postResult s x code note) loc b = hdr s loc b := rfl

@[simp] theorem hdr_settled : hdr (settled s t) loc b = hdr t loc b := rfl

@[simp] theorem hdr_refuseRec : hdr (refuseRec s x code) loc b = hdr s loc b := hdr_congr refuseRec_hdrs

@[simp] theorem bank_refuseRec : bank (refuseRec s x code) loc b ini = bank s loc b ini := bank_congr refuseRec_banks

/-! ### Interrupts and EVENT bits (R67, R76) -/

/-- An interrupt raise leaves its stamp in its page's header, and nothing else (R76). -/
theorem hdr_raiseMsi (s : State) (loc : Nat) (b : Block) : ∃ stamp order,
    hdr (raiseMsi s loc b) loc b = { hdr s loc b with irqStamp := stamp, irqOrder := order } :=
  ⟨_, _, hdr_setHdr_same _⟩

theorem hdr_raiseMsi_ne (h : pageKey loc' b' ≠ pageKey loc b) : hdr (raiseMsi s loc b) loc' b' = hdr s loc' b' :=
  hdr_setHdr_ne _ h

/-- An interrupt raise sends the MSI of the page's route. -/
theorem raiseMsi_msis : (raiseMsi s loc b).msis = s.msis ++
    (routeMsi s (serveDie s loc b) ((hdr s loc b).irqTarget % 256) (msiPlane b)).toList := rfl

/-- Hardware sets nothing in a page whose domain is held (R616). -/
theorem hwSet_of_held (h : pageRun s loc b = false) : hwSet s loc b n = s := by
  simp [hwSet, h]

/-- A hardware set that finds the bit at 1 is counted in SET_AGAIN. -/
theorem hwSet_of_standing (hr : pageRun s loc b = true) (hb : bit (hdr s loc b).event n = true) :
    hwSet s loc b n = cyc (cyc (setHdr s loc b { hdr s loc b with
      setAgain := n % 256 * 2 ^ 16 + satAdd 16 ((hdr s loc b).setAgain % 2 ^ 16) 1 }) loc b 0x05 0 1 none) loc b 0x04 0 1 none := by
  simp [hwSet, hr, hb, hdrSet, setRaises]

/-- A hardware set that finds the bit at 0 sets it, and raises an interrupt where the bit is enabled and EN is 1. -/
theorem hwSet_of_clear (hr : pageRun s loc b = true) (hb : bit (hdr s loc b).event n = false) :
    hwSet s loc b n =
      let t := cyc (setHdr s loc b { hdr s loc b with event := (hdr s loc b).event + 2 ^ n }) loc b 0x04 0 1 none
      if bit (hdr s loc b).eventEn n && bit (hdr s loc b).irqTarget 31 then raiseMsi t loc b else t := by
  simp [hwSet, hr, hb, hdrSet, setRaises]

/-- A part of a header that no event changes: all but EVENT, SET_AGAIN and the stamp of the last interrupt. -/
def EventFree (f : Hdr → α) : Prop :=
  ∀ h event again stamp order, f { h with event := event, setAgain := again, irqStamp := stamp, irqOrder := order } = f h

theorem EventFree.raiseMsi {f : Hdr → α} (hf : EventFree f) :
    f (hdr (raiseMsi s loc b) loc' b') = f (hdr s loc' b') :=
  hdr_setHdr_share (s := tickPageBy s (serveDie s loc b) loc b 0) f (hf ..)

theorem EventFree.hwSet {f : Hdr → α} (hf : EventFree f) : f (hdr (hwSet s loc b n) loc' b') = f (hdr s loc' b') := by
  cases hr : pageRun s loc b with
  | false => rw [hwSet_of_held hr]
  | true =>
    cases hb : bit (hdr s loc b).event n with
    | true =>
      rw [hwSet_of_standing hr hb, hdr_cyc, hdr_cyc]
      exact hdr_setHdr_share f (hf ..)
    | false =>
      rw [hwSet_of_clear hr hb]
      dsimp only
      split
      · rw [hf.raiseMsi, hdr_cyc]
        exact hdr_setHdr_share f (hf ..)
      · rw [hdr_cyc]
        exact hdr_setHdr_share f (hf ..)

theorem EventFree.routeFails {f : Hdr → α} (hf : EventFree f) :
    f (hdr (routeFails s loc) loc' b') = f (hdr s loc' b') := by
  unfold Machine.routeFails
  dsimp only
  split
  · rw [hf.hwSet, hf.hwSet]
  · rw [hf.hwSet]

/-- An event leaves of every header what no event changes. -/
theorem EventFree.hwEvent {f : Hdr → α} (hf : EventFree f) :
    f (hdr (hwEvent s loc b n) loc' b') = f (hdr s loc' b') := by
  unfold Machine.hwEvent
  dsimp only
  split
  · rw [hf.routeFails, hf.hwSet]
  · rw [hf.hwSet]

/-- An interrupt raised by a write leaves of every header what no event changes. -/
theorem EventFree.raiseIrq {f : Hdr → α} (hf : EventFree f) :
    f (hdr (raiseIrq s loc b) loc' b') = f (hdr s loc' b') := by
  unfold Machine.raiseIrq
  dsimp only
  split
  · split
    · rw [hf.routeFails, hf.raiseMsi]
    · rw [hf.raiseMsi]
  · rfl

theorem eventFree_seq : EventFree Hdr.seq := fun _ _ _ _ _ => rfl
theorem eventFree_eventEn : EventFree Hdr.eventEn := fun _ _ _ _ _ => rfl

/-- An event of one page leaves the header of every other. -/
theorem hdr_hwSet_ne (h : pageKey loc' b' ≠ pageKey loc b) : hdr (hwSet s loc b n) loc' b' = hdr s loc' b' := by
  cases hr : pageRun s loc b with
  | false => rw [hwSet_of_held hr]
  | true =>
    cases hb : bit (hdr s loc b).event n with
    | true => rw [hwSet_of_standing hr hb, hdr_cyc, hdr_cyc, hdr_setHdr_ne _ h]
    | false =>
      rw [hwSet_of_clear hr hb]
      dsimp only
      split
      · rw [hdr_raiseMsi_ne h, hdr_cyc, hdr_setHdr_ne _ h]
      · rw [hdr_cyc, hdr_setHdr_ne _ h]

/-- ROUTE_INVALID changes the MSI_ROUTE page alone (R76). -/
theorem hdr_routeFails_ne (h : pageKey loc' b' ≠ pageKey loc .msiRoute) :
    hdr (routeFails s loc) loc' b' = hdr s loc' b' := by
  unfold routeFails
  dsimp only
  split
  · rw [hdr_hwSet_ne h, hdr_hwSet_ne h]
  · rw [hdr_hwSet_ne h]

/-- Adding a bit's weight to a value that lacks the bit sets the bit and leaves every other. -/
theorem bit_add_two_pow {v k : Nat} (h : bit v n = false) : bit (v + 2 ^ n) k = (bit v k || decide (k = n)) := by
  unfold bit at *
  induction n generalizing v k with
  | zero =>
    have hv : v % 2 = 0 := by simpa [Nat.testBit_zero] using h
    cases k with
    | zero => simp [Nat.testBit_zero]; omega
    | succ k => simp [Nat.testBit_succ, show (v + 1) / 2 = v / 2 by omega]
  | succ n ih =>
    cases k with
    | zero => simp [Nat.testBit_zero, Nat.pow_succ]
    | succ k =>
      have hdiv : (v + 2 ^ (n + 1)) / 2 = v / 2 + 2 ^ n := by omega
      rw [Nat.testBit_succ] at h
      simpa [Nat.testBit_succ, hdiv] using ih h

/-- EVENT of a page after a hardware set that it takes: the bit joins it. -/
theorem bit_event_hwSet (hr : pageRun s loc b = true) (k : Nat) :
    bit (hdr (hwSet s loc b n) loc b).event k = (bit (hdr s loc b).event k || decide (k = n)) := by
  cases hb : bit (hdr s loc b).event n with
  | true =>
    rw [hwSet_of_standing hr hb, hdr_cyc, hdr_cyc, hdr_setHdr_same]
    by_cases hk : k = n
    · simp [hk, hb]
    · simp [hk]
  | false =>
    rw [hwSet_of_clear hr hb]
    dsimp only
    split
    · obtain ⟨stamp, order, h⟩ := hdr_raiseMsi (cyc (setHdr s loc b
        { hdr s loc b with event := (hdr s loc b).event + 2 ^ n }) loc b 0x04 0 1 none) loc b
      rw [h, hdr_cyc, hdr_setHdr_same]
      exact bit_add_two_pow hb
    · rw [hdr_cyc, hdr_setHdr_same]
      exact bit_add_two_pow hb

/-- A hardware set clears no EVENT bit of any page. -/
theorem hwSet_keeps_bit {k : Nat} (h : bit (hdr s loc' b').event k = true) :
    bit (hdr (hwSet s loc b n) loc' b').event k = true := by
  cases hr : pageRun s loc b with
  | false => rwa [hwSet_of_held hr]
  | true =>
    by_cases hk : pageKey loc' b' = pageKey loc b
    · have hhdr (v : State) : hdr v loc' b' = hdr v loc b := by rw [hdr, hk, hdr]
      rw [hhdr] at h ⊢
      rw [bit_event_hwSet hr, h, Bool.true_or]
    · rwa [hdr_hwSet_ne hk]

/-- An event sets its EVENT bit in a page that runs. -/
theorem bit_event_hwEvent (hr : pageRun s loc b = true) : bit (hdr (hwEvent s loc b n) loc b).event n = true := by
  have hset : bit (hdr (hwSet s loc b n) loc b).event n = true := by simp [bit_event_hwSet hr]
  unfold hwEvent
  dsimp only
  split
  · unfold routeFails
    dsimp only
    split
    · exact hwSet_keeps_bit (hwSet_keeps_bit hset)
    · exact hwSet_keeps_bit hset
  · exact hset

/-! ### What a page's hardware asks of the rest of the state -/

theorem routeMsi_of_onlyPages (h : OnlyPages s t) (die entry plane : Nat) :
    routeMsi t die entry plane = routeMsi s die entry plane := by
  simp only [routeMsi, rd_congr h.regs]

theorem serveDie_of_onlyPages (h : OnlyPages s t) : serveDie t loc b = serveDie s loc b := by
  obtain ⟨_, _, _, _, _, _, _, _, _, _, rfl⟩ := onlyPages_iff.1 h
  rfl

theorem pageRun_of_onlyPages (h : OnlyPages s t) : pageRun t loc b = pageRun s loc b := by
  obtain ⟨_, _, _, _, _, _, _, _, _, _, rfl⟩ := onlyPages_iff.1 h
  rfl

/-- A page that takes an access runs for its initiator (R616). -/
theorem pageRunFor_of_pass {off : Nat} {wide write : Bool} (h : gate s loc b w off wide write = .pass) :
    pageRunFor s loc b w.ini = true := by
  cases hr : pageRunFor s loc b w.ini with
  | true => rfl
  | false =>
    simp only [gate, hr, Bool.not_false, if_true] at h
    split at h
    · cases h
    · split at h <;> cases h

/-! ### The page runs where it takes an access (R73, R616) -/

/-- A view whose engines stand in both hubs is served by a hub whose domain runs, where one does. -/
theorem domRun_viewHub {d : Nat} (hd : d < 2) (h : domRun s d (blockDomain b) = true) :
    domRun s (viewHub s b) (blockDomain b) = true := by
  unfold viewHub
  split
  · next h0 =>
    obtain rfl | rfl : d = 0 ∨ d = 1 := by omega
    · exact h
    · simpa [h] using h0
  · next h1 =>
    simp only [Bool.or_eq_true, not_or, Bool.not_eq_true', Bool.not_eq_false] at h1
    exact h1.2

theorem lt_two_of_mem_hubs {d : Nat} (h : d ∈ hubs s) : d < 2 := by
  have hd : d ∈ [0, 1] := (List.mem_filter.1 h).1
  simp only [List.mem_cons, List.not_mem_nil, or_false] at hd
  omega

/-- What SEL chooses among in SAMPLE_VIEW, CAPTURE_VIEW and TIMER_VIEW stands in hubs (R120, R222, R428). -/
theorem viewInsts_hub {p : Nat × Nat} (hb : b = .sampleView ∨ b = .captureView ∨ b = .timerView)
    (h : p ∈ viewInsts s loc b ini) : p.1 < 2 := by
  rcases hb with rfl | rfl | rfl
  · obtain ⟨e, he, rfl⟩ := List.mem_map.1 h
    have hlt : e.1 < 2048 := by
      have := (List.mem_filter.1 he).2
      simp only [Bool.and_eq_true, decide_eq_true_eq] at this
      exact this.1.1
    show e.1 / 1024 < 2
    omega
  all_goals
    obtain ⟨hub, hhub, hp⟩ := List.mem_flatMap.1 h
    obtain ⟨i, -, rfl⟩ := List.mem_map.1 hp
    exact lt_two_of_mem_hubs hhub

/-- A page that runs for one of its initiators runs. -/
theorem pageRun_of_pageRunFor (h : pageRunFor s loc b ini = true) : pageRun s loc b = true := by
  by_cases hv : b = .sampleView ∨ b = .captureView ∨ b = .timerView
  · have hserve : serveFor s loc b ini = ((chosen s loc b ini).map (fun c => c.1)).getD (serveDie s loc b) := by
      rcases hv with rfl | rfl | rfl <;> rfl
    have hdie : serveDie s loc b = viewHub s b := by rcases hv with rfl | rfl | rfl <;> rfl
    have hview : blockIsView b = true := by rcases hv with rfl | rfl | rfl <;> rfl
    rw [pageRunFor, hserve] at h
    cases hc : chosen s loc b ini with
    | none => simpa [pageRun, hc] using h
    | some p =>
      rw [chosen, if_pos hview] at hc
      rw [pageRun, hdie]
      rw [chosen, if_pos hview, hc] at h
      exact domRun_viewHub (viewInsts_hub hv (List.mem_of_getElem? hc)) h
  · by_cases hk : b = .keyView
    · subst hk
      have hhub : kvHub s loc ini < 2 := by
        unfold kvHub
        split
        · exact Nat.mod_lt _ (by decide)
        · decide
      exact domRun_viewHub hhub h
    · have hserve : serveFor s loc b ini = serveDie s loc b := by
        unfold serveFor
        split <;> simp_all
      rwa [pageRunFor, hserve] at h

end Sys2Proof.Machine
end

section
/-!
PROOFS of the register pages' statements: commands that a check refuses, NOP and EVENT_TEST, EVENT bits and interrupts, and
what reset leaves (R64 to R69, R76, R79, R513).
-/
namespace Sys2Proof.Machine

variable {s t : State} {loc n ini : Nat} {b : Block} {a : Access} {c : Cmd} {op : Nat} {checks : State → Ctx → Checks}
  {eff : Ctx → State → Effect}

/-! ### Refusals (R64, R66) -/

/-- The checks stand in their order: each code is answered where its check is the first that fails. -/
theorem fails_iff (k : Checks) :
    (k.fails = some .badArg ↔ k.argOk = false) ∧
    (k.fails = some .denied ↔ k.argOk = true ∧ k.auth = false) ∧
    (k.fails = some .busy ↔ k.argOk = true ∧ k.auth = true ∧ k.idle = false) ∧
    (k.fails = some .illegalState ↔ k.argOk = true ∧ k.auth = true ∧ k.idle = true ∧ k.legal = false) ∧
    (k.fails = some .noResource ↔ k.argOk = true ∧ k.auth = true ∧ k.idle = true ∧ k.legal = true ∧ k.room = false) ∧
    (k.fails = none ↔ k = Checks.pass) := by
  obtain ⟨argOk, auth, idle, legal, room⟩ := k
  cases argOk with
  | false => simp [Checks.fails, Checks.pass]
  | true => cases auth with
    | false => simp [Checks.fails, Checks.pass]
    | true => cases idle with
      | false => simp [Checks.fails, Checks.pass]
      | true => cases legal with
        | false => simp [Checks.fails, Checks.pass]
        | true => cases room <;> simp [Checks.fails, Checks.pass]

/-- Settles O34: a refusal answers the state of the grant with the check's code, and that differs from the state before in
the page's header, the issuer's banked header and the record alone. -/
theorem refusedCommandHasNoSideEffect : Obligations.RefusedCommandHasNoSideEffect := by
  refine ⟨fails_iff, fun s c b op checks eff code => ?_⟩
  intro loc x hg hk
  have hpages : OnlyPages s (settled s (postResult (refuseRec (acting s c b op) x code) x code 0)) :=
    onlyPages_settled ((onlyPages_acting c op).trans ((onlyPages_refuseRec x code).trans (onlyPages_postResult ..)))
  have hbank : bank (refuseRec (acting s c b op) x code) loc b c.who.ini =
      { bank s loc b c.who.ini with cmdStamp := x.cts, cmdOrder := x.order } := bank_refuseRec.trans bank_acting
  obtain ⟨stamp, order, writer, hh⟩ := hdr_acting s c b op
  refine ⟨_, command_refused hg hk, hpages, ?_, ?_, ?_, ?_, ?_, ?_, ?_, ?_, ?_, ?_, ?_, ?_⟩
  · exact (bank_setBank_same _).trans (congrArg (fun k : Bank => { k with cmdResult := resultWord x.seq code 0 }) hbank)
  · simp [hh, loc]
  · simp [hh, loc, x, ctxOf]
  · simp [hh, loc]
  · simp [hh, loc]
  · simp [hh, loc]
  · simp [hh, loc]
  · simp [hh, loc]
  · exact refuseRec_msis.trans acting_msis
  · intro loc' b' hne
    simp [hdr_acting_ne hne]
  · intro loc' b' ini hne
    exact (bank_setBank_ne _ hne).trans (bank_refuseRec.trans (bank_acting_ne hne))
  · intro hlog hini
    have hbit : bit (hdr (acting s c b op) x.loc x.blk).refuseLog 0 = false := by
      have hsame : (hdr (acting s c b op) x.loc x.blk).refuseLog = (hdr s loc b).refuseLog := by
        rw [show hdr (acting s c b op) x.loc x.blk = _ from hh]
      simp [hsame, bit, Nat.testBit_zero, hlog]
    exact (refuseRec_recs hbit hini).trans acting_recs

/-! ### NOP and EVENT_TEST (R65, R66) -/

/-- A command without checks is granted wherever its page takes the write. -/
theorem grants_of_pass (hg : gate s (cmdLoc c b) b c.who 0x010 false true = .pass) (hk : ∀ t x, checks t x = .pass) :
    Grants s c b op checks := by
  refine ⟨hg, ?_⟩
  rw [hk]
  rfl

/-- DONE without a note leaves the command's sequence number alone in CMD_RESULT. -/
theorem cmdResult_done (s u : State) (c : Cmd) (b : Block) (op : Nat) :
    (bank (settled s (postResult u (ctxOf s c b op) .done 0)) (cmdLoc c b) b c.who.ini).cmdResult =
      ((hdr s (cmdLoc c b) b).seq + 1) % 65536 * 65536 := by
  refine (bank_postResult (ctxOf s c b op) .done 0).trans ?_
  simp [resultWord, Code.num, ctxOf]

theorem exec_nop_of_pass (hg : gate s (cmdLoc c b) b c.who 0x010 false true = .pass) :
    exec (.nop b c) s = .next (settled s (postResult (acting s c b 0x00) (ctxOf s c b 0x00) .done 0)) :=
  command_granted (checks := checksNop) (eff := effectNop) (grants_of_pass hg fun _ _ => rfl)

/-- A page after EVENT_TEST has set EVENT bit `n` as hardware does, but for the bits that show a flow's number (R66, R301). -/
def eventTested (t : State) (loc : Nat) (b : Block) (n : Nat) : State := if flowNumber b n then t else hwEvent t loc b n

theorem exec_eventTest_of_pass (hg : gate s (cmdLoc c b) b c.who 0x010 false true = .pass) :
    exec (.eventTest b c) s = .next (settled s (postResult
      (eventTested (acting s c b 0x01) (cmdLoc c b) b (c.sub % 256 % 32)) (ctxOf s c b 0x01) .done 0)) :=
  command_granted (checks := checksEventTest) (eff := effectEventTest) (grants_of_pass hg fun _ _ => rfl)

theorem onlyPages_eventTested : OnlyPages s (eventTested s loc b n) := by
  unfold eventTested
  split
  · exact .refl
  · exact onlyPages_hwEvent

theorem seq_eventTested : (hdr (eventTested s loc b n) loc b).seq = (hdr s loc b).seq := by
  unfold eventTested
  split
  · rfl
  · exact eventFree_seq.hwEvent

theorem bit_event_eventTested (hr : pageRun s loc b = true) (hf : flowNumber b n = false) :
    bit (hdr (eventTested s loc b n) loc b).event n = true := by
  rw [eventTested, hf]
  exact bit_event_hwEvent hr

theorem eventTested_of_flowNumber (hf : flowNumber b n = true) : eventTested s loc b n = s := if_pos hf

/-- Settles O38: what the grant leaves is the answer of NOP; EVENT_TEST adds a hardware set, which leaves the sequence number
and sets the bit of a page that runs. -/
theorem nopTakesTheNextSequenceNumber : Obligations.NopTakesTheNextSequenceNumber := by
  intro b c s hg n
  constructor
  · obtain ⟨stamp, order, writer, hh⟩ := hdr_acting s c b 0x00
    refine ⟨_, exec_nop_of_pass hg, ?_, ?_, ?_, ?_, ?_, cmdResult_done s _ c b 0x00, acting_recs (op := 0x00),
      acting_msis (op := 0x00)⟩
    · exact onlyPages_settled ((onlyPages_acting c 0x00).trans (onlyPages_postResult ..))
    all_goals rw [hdr_settled, hdr_postResult, hh]
  · obtain ⟨stamp, order, writer, hh⟩ := hdr_acting s c b 0x01
    have hact : OnlyPages s (acting s c b 0x01) := onlyPages_acting c 0x01
    have hrun : pageRun (acting s c b 0x01) (cmdLoc c b) b = true :=
      (pageRun_of_onlyPages hact).trans (pageRun_of_pageRunFor (pageRunFor_of_pass hg))
    refine ⟨_, exec_eventTest_of_pass hg, ?_, ?_, cmdResult_done s _ c b 0x01, fun hf => ?_, fun hf => ?_⟩
    · exact onlyPages_settled (hact.trans (onlyPages_eventTested.trans (onlyPages_postResult ..)))
    · rw [hdr_settled, hdr_postResult, seq_eventTested, hh]
    · rw [hdr_settled, hdr_postResult]
      exact bit_event_eventTested hrun hf
    · rw [hdr_settled, hdr_postResult, eventTested_of_flowNumber hf, hh]

/-! ### EVENT (R67) -/

/-- A write that its page takes, of no locked register, has its effect on the state that has counted it (R60). -/
theorem writeGate_of_pass {f : State → State} (h : gate s (accLoc a) a.blk a.who a.off a.wide true = .pass) :
    writeGate a false f s = .next (f (written s a)) := by
  simp [writeGate, h, written]

theorem exec_eventW1cWrite_of_pass (h : gate s (accLoc a) a.blk a.who 0x02C a.wide true = .pass) :
    exec (.eventW1cWrite a) s = .next (eventClear a (written s { a with off := 0x02C })) :=
  writeGate_of_pass (a := { a with off := 0x02C }) h

theorem exec_eventEnWrite_of_pass (h : gate s (accLoc a) a.blk a.who 0x030 a.wide true = .pass) :
    exec (.eventEnWrite a) s = .next (eventEnable a (written s { a with off := 0x030 })) :=
  writeGate_of_pass (a := { a with off := 0x030 }) h

/-- The header of the page of a counted write: its stamps, and nothing else. -/
theorem hdr_written (s : State) (a : Access) : ∃ stamp order writer, hdr (written s a) (accLoc a) a.blk =
    { hdr s (accLoc a) a.blk with lastWriteStamp := stamp, writeOrder := order, lastWriter := writer } :=
  hdr_countWrite s (accLoc a) a.blk a.who

@[simp] theorem written_msis : (written s a).msis = s.msis := countWrite_msis

@[simp] theorem hdr_onHdr (f : Hdr → Hdr) : hdr (onHdr a f s) (accLoc a) a.blk = f (hdr s (accLoc a) a.blk) :=
  hdr_setHdr_same _

theorem onlyPages_onHdr (f : Hdr → Hdr) : OnlyPages s (onHdr a f s) := onlyPages_setHdr _

/-- The bits of EVENT that no write clears (R301, R304). -/
theorem bit_flowMask : bit (if b = .pelotonFlow ∨ b = .flowView then 0xFFF * 2 ^ 16 else 0) n = flowNumber b n := by
  have hmask : bit (0xFFF * 2 ^ 16) n = decide (16 ≤ n ∧ n ≤ 27) := by
    rw [bit, Nat.testBit_mul_two_pow, show 0xFFF = 2 ^ 12 - 1 from rfl, Nat.testBit_two_pow_sub_one, ← Bool.decide_and]
    exact decide_eq_decide.2 (by omega)
  split
  · next h =>
    have hb : (decide (b = .pelotonFlow) || decide (b = .flowView)) = true := by simpa using h
    rw [hmask, flowNumber, hb, Bool.true_and]
  · next h =>
    have hb : (decide (b = .pelotonFlow) || decide (b = .flowView)) = false := by simpa using h
    rw [flowNumber, hb, Bool.false_and]
    exact Nat.zero_testBit n

/-- A bit of EVENT after a write of ones in `v` that leaves the ones of `keep`. -/
theorem bit_cleared (event v keep n : Nat) :
    bit (event ^^^ (event &&& (v % 2 ^ 32 &&& (keep ^^^ (2 ^ 32 - 1))))) n =
      (bit event n && (!(bit (v % 2 ^ 32) n) || bit keep n)) := by
  simp only [bit, Nat.testBit_xor, Nat.testBit_and, Nat.testBit_two_pow_sub_one, Nat.testBit_mod_two_pow]
  by_cases hn : n < 32
  · simp only [hn, decide_true, Bool.true_and, Bool.xor_true]
    cases event.testBit n <;> cases v.testBit n <;> cases keep.testBit n <;> rfl
  · simp [hn]

theorem onlyPages_eventClear : OnlyPages s (eventClear a s) := onlyPages_setHdr _

/-- A hardware set in a page that runs: SET_AGAIN counts one that finds the bit at 1; one that finds it at 0 sets it and, where
the bit is enabled and EN is 1, sends the MSI of the page's route (R67). -/
theorem hwSet_header_and_msis (hr : pageRun s loc b = true) (hn : n < 32) :
    let h := hdr s loc b
    let t := hwSet s loc b n
    (bit h.event n = true → hdr t loc b = { h with setAgain := n * 2 ^ 16 + min (2 ^ 16 - 1) (h.setAgain % 2 ^ 16 + 1) } ∧
      t.msis = s.msis) ∧
    (bit h.event n = false → (hdr t loc b).event = h.event + 2 ^ n ∧ (hdr t loc b).setAgain = h.setAgain ∧
      t.msis = s.msis ++ (if bit h.eventEn n && bit h.irqTarget 31 then
        (routeMsi s (serveDie s loc b) (h.irqTarget % 256) (msiPlane b)).toList else [])) := by
  refine ⟨fun hb => ?_, fun hb => ?_⟩
  · rw [hwSet_of_standing hr hb, hdr_cyc, hdr_cyc, hdr_setHdr_same, Nat.mod_eq_of_lt (by omega : n < 256), satAdd, Nat.min_comm]
    exact ⟨rfl, rfl⟩
  · rw [hwSet_of_clear hr hb]
    dsimp only
    split
    · next he =>
      generalize hu : cyc (setHdr s loc b { hdr s loc b with event := (hdr s loc b).event + 2 ^ n }) loc b 0x04 0 1 none = u
      have hpages : OnlyPages s u := hu ▸ (onlyPages_setHdr _).trans (onlyPages_cyc ..)
      have hhdr : hdr u loc b = { hdr s loc b with event := (hdr s loc b).event + 2 ^ n } := by
        rw [← hu, hdr_cyc, hdr_setHdr_same]
      obtain ⟨stamp, order, h⟩ := hdr_raiseMsi u loc b
      have hmsis : u.msis = s.msis := by rw [← hu]; rfl
      rw [h, hhdr, raiseMsi_msis, hhdr, hmsis, routeMsi_of_onlyPages hpages, serveDie_of_onlyPages hpages]
      exact ⟨rfl, rfl, rfl⟩
    · rw [hdr_cyc, hdr_setHdr_same, List.append_nil]
      exact ⟨rfl, rfl, rfl⟩

/-- Settles O39: a W1C write changes EVENT bit by bit, and a hardware set is what `hwSet` says for a bit at 1 and at 0. -/
theorem eventBitsFollowHardwareAndW1c : Obligations.EventBitsFollowHardwareAndW1c := by
  refine ⟨fun a s hg => ?_, fun s loc b n hr hn => hwSet_header_and_msis hr hn⟩
  obtain ⟨stamp, order, writer, hh⟩ := hdr_written s { a with off := 0x02C }
  have hhdr (f : Hdr → Hdr) : hdr (onHdr a f (written s { a with off := 0x02C })) (accLoc a) a.blk = f _ :=
    (hdr_onHdr f).trans (congrArg f hh)
  refine ⟨_, exec_eventW1cWrite_of_pass hg, onlyPages_written.trans onlyPages_eventClear, written_msis,
    fun n => ?_, ?_⟩
  · rw [eventClear, hhdr, ← bit_flowMask]
    exact bit_cleared ..
  · rw [eventClear, hhdr]
    rfl

/-! ### EVENT_EN (R69) -/

theorem routeMsi_isNone_plane (die entry p q : Nat) : (routeMsi s die entry p).isNone = (routeMsi s die entry q).isNone := by
  unfold routeMsi
  split <;> rfl

/-- A valid route's interrupt is its MSI, where EN is 1. -/
theorem raiseIrq_of_valid (he : bit (hdr s loc b).irqTarget 31 = true)
    (hv : (routeMsi s (serveDie s loc b) ((hdr s loc b).irqTarget % 256) (msiPlane b)).toList ≠ []) :
    raiseIrq s loc b = raiseMsi s loc b := by
  have hvalid : routeInvalid s loc b = false := by
    rw [routeInvalid, routeMsi_isNone_plane _ _ 1 (msiPlane b)]
    cases hm : routeMsi s (serveDie s loc b) ((hdr s loc b).irqTarget % 256) (msiPlane b) with
    | none => simp [hm] at hv
    | some _ => rfl
  simp [raiseIrq, he, hvalid]

theorem onlyPages_raiseIrq : OnlyPages s (raiseIrq s loc b) := by
  unfold raiseIrq
  dsimp only
  split
  · split
    · exact onlyPages_raiseMsi.trans onlyPages_routeFails
    · exact onlyPages_raiseMsi
  · exact .refl

/-- No other page than MSI_ROUTE stands under the number of an MSI_ROUTE page. -/
theorem pageKey_ne_msiRoute {loc' : Nat} (h : b ≠ .msiRoute) : pageKey loc b ≠ pageKey loc' .msiRoute := by
  have hlt : blockCode b < 65536 := by cases b <;> decide
  have hne : blockCode b ≠ blockCode .msiRoute := by
    revert h
    cases b <;> decide
  have hroute : blockCode .msiRoute < 65536 := by decide
  unfold pageKey
  omega

/-- An interrupt raised by a write leaves EVENT of its page, unless that is an MSI_ROUTE page. -/
theorem event_raiseIrq (h : b ≠ .msiRoute) : (hdr (raiseIrq s loc b) loc b).event = (hdr s loc b).event := by
  obtain ⟨stamp, order, hh⟩ := hdr_raiseMsi s loc b
  unfold raiseIrq
  dsimp only
  split
  · split
    · rw [hdr_routeFails_ne (pageKey_ne_msiRoute h), hh]
    · rw [hh]
  · rfl

/-- Settles O40: the write sets EVENT_EN, and then raises the page's interrupt where it enables a standing bit. -/
theorem enablingAStandingBitRaises : Obligations.EnablingAStandingBitRaises := by
  intro a s hg h v fresh sent
  obtain ⟨stamp, order, writer, hh⟩ := hdr_written s { a with off := 0x030 }
  let u := onHdr a (fun h => { h with eventEn := v }) (written s { a with off := 0x030 })
  have hpages : OnlyPages s u := onlyPages_written.trans (onlyPages_onHdr _)
  have hu : hdr u (accLoc a) a.blk =
      { h with lastWriteStamp := stamp, writeOrder := order, lastWriter := writer, eventEn := v } :=
    (hdr_onHdr _).trans (congrArg (fun h : Hdr => { h with eventEn := v }) hh)
  have hmsis : u.msis = s.msis := written_msis
  have hgo : exec (.eventEnWrite a) s = .next (if fresh = 0 then u else raiseIrq u (accLoc a) a.blk) := by
    have hold : hdr (written s { a with off := 0x030 }) (accLoc a) a.blk = _ := hh
    rw [exec_eventEnWrite_of_pass hg, eventEnable, hold]
    rfl
  have hsent : (routeMsi u (serveDie u (accLoc a) a.blk) ((hdr u (accLoc a) a.blk).irqTarget % 256)
      (msiPlane a.blk)).toList = sent := by
    rw [routeMsi_of_onlyPages hpages, serveDie_of_onlyPages hpages, hu]
  refine ⟨_, hgo, ?_, ?_, fun hb => ?_, fun hf he hv => ?_, fun hf => ?_⟩
  · split
    · exact hpages
    · exact hpages.trans onlyPages_raiseIrq
  · split
    · rw [hu]
    · rw [eventFree_eventEn.raiseIrq, hu]
  · split
    · rw [hu]
    · rw [event_raiseIrq hb, hu]
  · rw [if_neg hf, raiseIrq_of_valid (by rw [hu]; exact he) (by rwa [hsent]), raiseMsi_msis, hsent, hmsis]
  · rw [if_pos hf, hmsis]

/-! ### PAGE_LOCK (R72) -/

/-- Settles O41: the lock is judged after the page's gate, and a denial changes the pages alone. -/
theorem lockedRegisterRefusesWrites : Obligations.LockedRegisterRefusesWrites := by
  intro a s t hg ht hacc hw hlock hini hlo hhi hkv
  refine ⟨?_, fun loc r inst => rd_congr (onlyPages_deny ..).regs⟩
  show exec (.registerWrite a) s = _
  rw [exec_registerWrite_of_own hlo hhi hkv]
  simp [writeReg, writeGate, ht, hw, hg, hacc, hlock, isLoader, hini]

/-! ### Reset (R60, R79, R513) -/

/-- At reset POR holds every domain of every die. -/
theorem domRun_reset (die dom : Nat) : domRun State.reset die dom = false := by
  have hheld : bit (heldMask (rstOf State.reset die)) 0 = true := by
    show bit (heldMask ResetSt.por) 0 = true
    decide
  have hreleased : bit (rstOf State.reset die).released dom = false := Nat.zero_testBit dom
  simp [domRun, hheld, hreleased]

/-- Settles O29: at reset every map of the state is empty, so each of its entries reads as an unlisted one. -/
theorem resetHoldsEveryDomain : Obligations.ResetHoldsEveryDomain := by
  refine ⟨domRun_reset, fun _ => ⟨rfl, rfl⟩, fun _ _ _ => BitVec.toNat_ofNat .., fun _ _ => rfl, fun _ _ _ => rfl,
    fun a => ?_, rfl, rfl, rfl, rfl⟩
  show (if memHolds State.reset a then unwritten else 0) = unwritten
  exact ite_self _

end Sys2Proof.Machine
end

section
/-!
PROOFS of the register pages' statements: granted commands and register writes complete, pages that take no access, and the
frames of the commands that change only pages and registers (R10, R50, R60, R62, R66, R71, R310, R616).
-/
namespace Sys2Proof.Machine

variable {s t u : State} {loc inst die hub n ini off : Nat} {b : Block} {w : Who} {a : Access} {c : Cmd} {op : Nat}
  {checks : State → Ctx → Checks} {eff : Ctx → State → Effect} {x : Ctx} {wide write : Bool}

/-! ### Commands of pages, links, DRAM and time complete (R62, R66) -/

/-- A row that is a write of CMD completes with the code that its effect always ends with. -/
theorem completes_of_code {i : Cmd → Instr} {blk : Cmd → Block} {code : Code}
    (he : ∀ c s, exec (i c) s = command s c (blk c) op checks eff) (hc : ∀ x t, (eff x t).code = code) :
    Completes i blk op checks eff [code] :=
  fun c s => completesAt_of (he c s) fun x t _ => List.mem_singleton.2 (hc x t)

/-- Settles O2: each of these rows is a write of CMD whose effect ends with one code. -/
theorem pageLinkAndTimeCommandsComplete : Obligations.PageLinkAndTimeCommandsComplete := by
  refine ⟨fun b => ?_, fun b => ?_, fun axle => ?_, fun axle => ?_, ?_, ?_, ?_, ?_, ?_, ?_, ?_, ?_, ?_⟩
  all_goals exact completes_of_code (fun _ _ => rfl) fun _ _ => rfl

/-! ### Register writes complete (R60, R71) -/

/-- A row that writes one register completes with the register's effect. -/
theorem writeCompletes_of {row : Access → Instr} {place : Access → Access} {eff : Access → Target → Nat → State → State}
    (he : ∀ a s, exec (row a) s = writeReg (place a) (eff a) s) : WriteCompletes row place eff :=
  fun a s _ hg => (he a s).trans (writeReg_of_granted hg)

/-- A write of a register of a block's own map. -/
theorem writeAny_of_register (hlo : 0x080 ≤ a.off) (hhi : a.off < 0xF00) (hcrank : a.blk = .crankView → a.off < 0xA00)
    (hmeas : a.blk = .keyVault → measOf a.off = none) : writeAny a s = writeReg a (regEffect a) s := by
  have hcmd : a.off ≠ 0x010 := by omega
  have hhdr : ¬ a.off < 0x080 := by omega
  have harea : ¬ 0xF00 ≤ a.off := by omega
  have hmbx : ¬ (a.blk = .crankView ∧ 0xA00 ≤ a.off) := fun h => by have := hcrank h.1; omega
  rw [writeAny, if_neg hcmd, if_neg hhdr, if_neg harea, if_neg hmbx]
  split
  · next hk => rw [hmeas hk]
  · rfl

/-- Below 0x800 no offset is one of the Crank's mailbox or of a measurement register. -/
theorem writeAny_of_low (hlo : 0x080 ≤ a.off) (hhi : a.off < 0x800) : writeAny a s = writeReg a (regEffect a) s :=
  writeAny_of_register hlo (by omega) (fun _ => by omega) fun _ => if_neg (by omega)

theorem exec_lowWordWrite (h : a.off % 8 = 0) : exec (.lowWordWrite a) s = writeAny { a with wide := false } s := by
  have hoff : a.off / 8 * 8 = a.off := by omega
  show writeAny { a with off := a.off / 8 * 8, wide := false } s = _
  rw [hoff]

theorem exec_highWordWrite (h : a.off % 8 = 4) : exec (.highWordWrite a) s = writeAny { a with wide := false } s := by
  have hoff : a.off / 8 * 8 + 4 = a.off := by omega
  show writeAny { a with off := a.off / 8 * 8 + 4, wide := false } s = _
  rw [hoff]

/-- A granted write of a low word only loads the issuer's latch (R71). -/
theorem applyWrite_of_low {g : Target} {f : Target → Nat → State → State} (hw : g.reg.wide = true) (ha : a.wide = false)
    (hh : g.high = false) :
    applyWrite a g f s = setLatch s (accLoc a) a.blk a.who.ini (some ⟨g.reg.off, a.value % 2 ^ 32, true⟩) := by
  simp [applyWrite, hw, ha, hh]

/-- A granted write of a high word puts the whole value in force (R71). -/
theorem applyWrite_of_high {g : Target} {f : Target → Nat → State → State} (hw : g.reg.wide = true) (ha : a.wide = false)
    (hh : g.high = true) :
    applyWrite a g f s = f g (highWrite s (accLoc a) a.blk a.who.ini g a.value &&& g.reg.mask)
      (spendLatch s (accLoc a) a.blk a.who.ini g) := by
  simp [applyWrite, hw, ha, hh]

/-- A write of the header, at any offset but CMD (R60, R61). -/
theorem exec_registerWrite_of_header (h : gate s (accLoc a) a.blk a.who a.off a.wide true = .pass) (hlo : a.off < 0x080)
    (hcmd : a.off ≠ 0x010) : exec (.registerWrite a) s = .next (headerWrite a (written s a)) := by
  show writeAny a s = _
  rw [writeAny, if_neg hcmd, if_pos hlo]
  exact writeGate_of_pass h

/-- A write of the counter area (R586). -/
theorem exec_registerWrite_of_area (h : gate s (accLoc a) a.blk a.who a.off a.wide true = .pass) (hlo : 0xF00 ≤ a.off) :
    exec (.registerWrite a) s = .next (areaWrite a (written s a)) := by
  show writeAny a s = _
  rw [writeAny, if_neg (by omega), if_neg (by omega), if_pos hlo]
  exact writeGate_of_pass h

/-- A write of the Crank's mailbox through CRANK_VIEW (R392). -/
theorem exec_registerWrite_of_mailbox (h : gate s (accLoc a) a.blk a.who a.off a.wide true = .pass) (hb : a.blk = .crankView)
    (hlo : 0xA00 ≤ a.off) (hhi : a.off < 0xF00) : exec (.registerWrite a) s = .next (mailboxWrite a (written s a)) := by
  show writeAny a s = _
  rw [writeAny, if_neg (by omega), if_neg (by omega), if_neg (by omega), if_pos ⟨hb, hlo⟩]
  exact writeGate_of_pass h

/-- A granted write of the low word of a 64-bit register. -/
theorem exec_lowWordWrite_of_granted {g : Target} (hw : g.reg.wide = true) (hlo : 0x080 ≤ a.off) (hhi : a.off < 0x800)
    (hal : a.off % 8 = 0) (hg : WriteGranted s { a with wide := false } g) (hh : g.high = false) :
    exec (.lowWordWrite a) s = .next (setLatch (written s { a with wide := false }) (accLoc a) a.blk a.who.ini
      (some ⟨g.reg.off, a.value % 2 ^ 32, true⟩)) :=
  calc exec (.lowWordWrite a) s
      _ = writeAny { a with wide := false } s := exec_lowWordWrite hal
      _ = writeReg { a with wide := false } (regEffect _) s := writeAny_of_low hlo hhi
      _ = _ := writeReg_of_granted hg
      _ = _ := congrArg _ (applyWrite_of_low hw rfl hh)

/-- A granted write of the high word of a 64-bit register. -/
theorem exec_highWordWrite_of_granted {g : Target} (hw : g.reg.wide = true) (hlo : 0x080 ≤ a.off) (hhi : a.off < 0x800)
    (hal : a.off % 8 = 4) (hg : WriteGranted s { a with wide := false } g) (hh : g.high = true) :
    let s1 := written s { a with wide := false }
    exec (.highWordWrite a) s = .next (regEffect { a with wide := false } g
      (highWrite s1 (accLoc a) a.blk a.who.ini g a.value &&& g.reg.mask) (spendLatch s1 (accLoc a) a.blk a.who.ini g)) :=
  calc exec (.highWordWrite a) s
      _ = writeAny { a with wide := false } s := exec_highWordWrite hal
      _ = writeReg { a with wide := false } (regEffect _) s := writeAny_of_low hlo hhi
      _ = _ := writeReg_of_granted hg
      _ = _ := congrArg _ (applyWrite_of_high hw rfl hh)

/-- Settles O10: each row is a write through the page's gate, and which effect it has follows from the offset. -/
theorem registerWritesComplete : Obligations.RegisterWritesComplete := by
  refine ⟨fun _ _ => exec_eventW1cWrite_of_pass, fun _ _ => exec_eventEnWrite_of_pass,
    fun a _ h => writeGate_of_pass (a := { a with off := 0x00C }) h, ?_, ?_, ?_, ?_, ?_, ?_, ?_, ?_, ?_, ?_, ?_, ?_, ?_, ?_,
    fun _ _ => exec_registerWrite_of_header, fun _ _ h hlo => ⟨exec_registerWrite_of_area h hlo, writeGate_of_pass h⟩,
    fun _ _ => exec_registerWrite_of_mailbox,
    fun _ _ _ hg hlo hhi hcrank hmeas => (writeAny_of_register hlo hhi hcrank hmeas).trans (writeReg_of_granted hg),
    fun _ _ _ => exec_lowWordWrite_of_granted, fun _ _ _ => exec_highWordWrite_of_granted⟩
  all_goals exact writeCompletes_of fun _ _ => rfl

/-! ### Pages that take no access (R50, R310, R616) -/

/-- A page whose domain is held takes no access, at any aligned offset. -/
theorem gate_of_held (hp : present s (serveFor s loc b w.ini) = true) (hr : pageRunFor s loc b w.ini = false)
    (ha : aligned w off wide = true) : gate s loc b w off wide write = .held := by
  simp [gate, hp, hr, ha]

theorem gate_of_absent (hp : present s (serveFor s loc b w.ini) = false) : gate s loc b w off wide write = .fault := by
  simp [gate, hp]

theorem gate_of_misaligned (ha : aligned w off wide = false) : gate s loc b w off wide write = .fault := by
  simp [gate, ha]

/-- A word access at a multiple of 4 is aligned. -/
theorem aligned_word (h : off % 4 = 0) : aligned w off false = true := by
  simp [aligned, h]

theorem aligned_eq_false (hi : w.ini < 96) (h : off % 4 ≠ 0 ∨ (wide = true ∧ off % 8 ≠ 0)) : aligned w off wide = false := by
  cases wide with
  | true =>
    have h8 : off % 8 ≠ 0 := by
      rcases h with h | h
      · omega
      · exact h.2
    simp [aligned, isHart, hi, h8]
  | false =>
    have h4 : off % 4 ≠ 0 := by simpa using h
    simp [aligned, isHart, hi, h4]

theorem writeGate_of_held {lock : Bool} {f : State → State} (h : gate s (accLoc a) a.blk a.who a.off a.wide true = .held) :
    writeGate a lock f s = .next { s with resp := .value 0 } := by
  simp [writeGate, h]

theorem writeGate_of_fault {lock : Bool} {f : State → State} (h : gate s (accLoc a) a.blk a.who a.off a.wide true = .fault) :
    writeGate a lock f s = .next { s with resp := .accessFault } := by
  simp [writeGate, h]

theorem readGate_of_fault {held : Nat} {f : State → State} (h : gate s (accLoc a) a.blk a.who a.off a.wide false = .fault) :
    readGate a held f s = .next { s with resp := .accessFault } := by
  simp [readGate, h]

theorem command_of_held (h : gate s (cmdLoc c b) b c.who 0x010 false true = .held) :
    command s c b op checks eff = .next { s with resp := .value 0 } := by
  simp [command, h]

theorem command_of_fault (h : gate s (cmdLoc c b) b c.who 0x010 false true = .fault) :
    command s c b op checks eff = .next { s with resp := .accessFault } := by
  simp [command, h]

theorem writeReg_of_fault {f : Target → Nat → State → State} (h : gate s (accLoc a) a.blk a.who a.off a.wide true = .fault) :
    writeReg a f s = .next { s with resp := .accessFault } := by
  unfold writeReg
  split
  · exact writeGate_of_fault h
  · split <;> exact writeGate_of_fault h

theorem measWrite_of_fault {e k : Nat} (h : gate s (accLoc a) a.blk a.who a.off a.wide true = .fault) :
    measWrite a e k s = .next { s with resp := .accessFault } := by
  unfold measWrite
  split
  · rw [h]
    exact writeGate_of_fault h
  · exact writeGate_of_fault h

/-- A hart's write that is not aligned raises an access fault at every offset: none of them is CMD's. -/
theorem writeAny_of_misaligned (ha : aligned a.who a.off a.wide = false) :
    writeAny a s = .next { s with resp := .accessFault } := by
  have hg : gate s (accLoc a) a.blk a.who a.off a.wide true = .fault := gate_of_misaligned ha
  have hcmd : a.off ≠ 0x010 := by
    intro e
    cases hw : a.wide <;> simp [aligned, e, hw] at ha
  rw [writeAny, if_neg hcmd]
  split
  · exact writeGate_of_fault hg
  · split
    · exact writeGate_of_fault hg
    · split
      · exact writeGate_of_fault hg
      · split
        · split
          · exact measWrite_of_fault hg
          · exact writeReg_of_fault hg
        · exact writeReg_of_fault hg

/-- A hart's read that is not aligned raises an access fault at every offset. -/
theorem readAny_of_misaligned (ha : aligned a.who a.off a.wide = false) :
    readAny a s = .next { s with resp := .accessFault } := by
  have hfault (a' : Access) (hw : a'.who = a.who) (ho : a'.off = a.off) (hd : a'.wide = a.wide) :
      gate s (accLoc a') a'.blk a'.who a'.off a'.wide false = .fault := gate_of_misaligned (by rw [hw, ho, hd]; exact ha)
  unfold readAny
  split
  · next h =>
    unfold execTakeStart
    exact readGate_of_fault (hfault _ rfl h.2.symm rfl)
  · split
    · next h =>
      unfold execSbNextRead
      exact readGate_of_fault (hfault (accAt R.SB_NEXT a) rfl h.2.symm rfl)
    · split
      · next h =>
        unfold execTimeSnapshotRead
        exact readGate_of_fault (hfault (accAt R.TIME_SEC a) rfl h.2.symm rfl)
      · split
        · next h =>
          unfold execStampRead
          exact readGate_of_fault (hfault (accAt R.STAMP a) rfl h.2.symm rfl)
        · rw [if_neg (by simp [ha])]
          exact readGate_of_fault (hfault a rfl rfl rfl)

/-- Settles O37: the gate answers for the page before the access is seen. -/
theorem heldPageTakesNoAccess : Obligations.HeldPageTakesNoAccess := by
  refine ⟨fun a s hw hp hr => ?_, fun b c s hp hr => ?_, fun b c s hp => ?_, fun a s hi hoff => ?_⟩
  · have hheld (off : Nat) (h : off % 4 = 0) (f : State → State) :
        writeGate { a with off := off } false f s = .next { s with resp := .value 0 } :=
      writeGate_of_held (gate_of_held hp hr (by rw [hw]; exact aligned_word h))
    exact ⟨hheld _ (by decide) _, hheld _ (by decide) _, hheld _ (by decide) _⟩
  · have hg : gate s (cmdLoc c b) b c.who 0x010 false true = .held := gate_of_held hp hr (aligned_word (by decide))
    exact ⟨command_of_held hg, command_of_held hg⟩
  · have hg : gate s (cmdLoc c b) b c.who 0x010 false true = .fault := gate_of_absent hp
    exact ⟨command_of_fault hg, command_of_fault hg⟩
  · have ha := aligned_eq_false hi hoff
    exact ⟨writeAny_of_misaligned ha, readAny_of_misaligned ha⟩

/-! ### Frames (R62, R64) -/

/-- A row that is a write of CMD changes the pages alone where its effect does. -/
theorem after_command_onlyPages {i : Instr} (he : exec i s = command s c b op checks eff)
    (h : ∀ x u, OnlyPages u (eff x u).state) : After i s fun t => OnlyPages s t ∧ t.cause = s.cause := by
  rcases command_frame s c b op checks eff with ⟨t, ht, hp⟩ | ⟨u, t, hu, ht, hp⟩
  · exact ⟨t, he.trans ht, hp, command_cause _ _ _ _ _ _ ht⟩
  · exact ⟨t, he.trans ht, hu.trans ((h _ u).trans hp), command_cause _ _ _ _ _ _ ht⟩

/-- A row that is a write of CMD changes pages and registers alone where its effect does. -/
theorem after_command_onlyRegs {i : Instr} (he : exec i s = command s c b op checks eff)
    (h : ∀ x u, OnlyRegs u (eff x u).state) : After i s fun t => OnlyRegs s t ∧ t.cause = s.cause := by
  rcases command_frame s c b op checks eff with ⟨t, ht, hp⟩ | ⟨u, t, hu, ht, hp⟩
  · exact ⟨t, he.trans ht, hp.onlyRegs, command_cause _ _ _ _ _ _ ht⟩
  · exact ⟨t, he.trans ht, hu.onlyRegs.trans ((h _ u).trans hp.onlyRegs), command_cause _ _ _ _ _ _ ht⟩

theorem onlyRegs_ite {p : Prop} [Decidable p] (h : OnlyRegs s t) (k : OnlyRegs s u) : OnlyRegs s (if p then t else u) := by
  split <;> assumption

theorem onlyRegs_loadTblData (e : TblEntry) : OnlyRegs s (loadTblData s hub ini e) :=
  (onlyRegs_wrB ..).trans ((onlyRegs_wrB ..).trans ((onlyRegs_wrB ..).trans (onlyRegs_wrB ..)))

theorem onlyRegs_loadNode (ws : List Nat) : OnlyRegs s (loadNode s hub ini ws) :=
  onlyRegs_foldl _ (fun _ _ => onlyRegs_wrB ..) _ s

/-- What acts at both ends of a link changes registers alone where it does at one. -/
theorem onlyRegs_atEnds {e : LinkEnd × LinkEnd} {f : LinkEnd → State → State} (h : ∀ d u, OnlyRegs u (f d u)) :
    OnlyRegs s (atEnds e f s) := by
  have hend (d : LinkEnd) (u : State) : OnlyRegs u (if domRun u d.die 7 then f d u else u) := onlyRegs_ite (h d u) .refl
  exact (hend e.1 s).trans (hend e.2 _)

theorem onlyRegs_clearLink (axle : Bool) : OnlyRegs s (clearLink axle die inst s) :=
  onlyRegs_ite (onlyRegs_atEnds fun _ _ => onlyRegs_clearRegs _) (onlyRegs_clearRegs _)

theorem onlyRegs_enterVi (v st : Nat) : OnlyRegs s (enterVi s v st) :=
  (onlyRegs_wr ..).trans ((onlyRegs_wr ..).trans onlyPages_hwEvent.onlyRegs)

/-- Counters of one number, or of all for 0xFFFF (CLEAR_COUNTERS). -/
theorem onlyRegs_clear_one_or_all {p : Prop} [Decidable p] (lo m k : Nat) (rs : List Reg) :
    OnlyRegs s (if p then clearInsts s loc lo m rs else clearRegs s loc k rs) :=
  onlyRegs_ite (onlyRegs_clearInsts ..) (onlyRegs_clearRegs _)

theorem onlyRegs_effectMacSearch : OnlyRegs t (effectMacSearch x t).state := by
  unfold effectMacSearch
  dsimp only
  split
  · exact (onlyRegs_wrB ..).trans (onlyRegs_loadTblData _)
  · exact .refl

theorem onlyRegs_effectNodeSearch : OnlyRegs t (effectNodeSearch x t).state := by
  unfold effectNodeSearch
  dsimp only
  split
  · exact onlyRegs_loadNode _
  · exact .refl

theorem onlyRegs_effectPelotonClearCounters : OnlyRegs t (effectPelotonClearCounters x t).state := by
  unfold effectPelotonClearCounters Effect.done
  dsimp only
  split
  · exact onlyRegs_clearRegs _
  · exact onlyRegs_ite ((onlyRegs_clearInsts ..).trans (onlyRegs_clearRegs _)) (onlyRegs_clearRegs _)

theorem onlyRegs_effectFlowClearCounters : OnlyRegs t (effectFlowClearCounters x t).state := by
  unfold effectFlowClearCounters Effect.done
  dsimp only
  split
  · exact onlyRegs_ite (onlyRegs_clearRegs _) .refl
  · exact onlyRegs_clear_one_or_all ..

theorem onlyRegs_effectCapClearCounters : OnlyRegs t (effectCapClearCounters x t).state :=
  onlyRegs_ite (onlyRegs_clearRegs _) (onlyRegs_ite
    ((onlyRegs_clearInsts ..).trans ((onlyRegs_clearInsts ..).trans (onlyRegs_clearRegs _))) (onlyRegs_clearRegs _))

theorem onlyRegs_effectFaClearCounters : OnlyRegs t (effectFaClearCounters x t).state :=
  onlyRegs_ite ((onlyRegs_clearRegs _).trans ((onlyRegs_clearInsts ..).trans (onlyRegs_clearInsts ..)))
    (onlyRegs_ite (onlyRegs_clearRegs _) (onlyRegs_clearRegs _))

theorem onlyRegs_effectLinkClearCounters (axle : Bool) : OnlyRegs t (effectLinkClearCounters axle x t).state :=
  onlyRegs_ite (onlyRegs_foldl _ (fun _ _ => onlyRegs_clearLink axle) _ t) (onlyRegs_clearLink axle)

theorem pagesFrame_nil {p : State → State → State} : PagesFrame p [] := fun _ h => absurd h List.not_mem_nil

theorem regsFrame_nil {p : State → State → State} : RegsFrame p [] := fun _ h => absurd h List.not_mem_nil

/-- A list of rows that are writes of CMD changes the pages alone where the effect of each does. -/
theorem pagesFrame_cons {i : Cmd → Instr} {is : List (Cmd → Instr)} {blk : Cmd → Block} {eff : Cmd → Ctx → State → Effect}
    (he : ∀ c s, exec (i c) s = command s c (blk c) op checks (eff c)) (h : ∀ c x u, OnlyPages u (eff c x u).state)
    (k : PagesFrame (fun s _ => s) is) : PagesFrame (fun s _ => s) (i :: is) :=
  List.forall_mem_cons.2 ⟨fun c s => after_command_onlyPages (he c s) (h c), k⟩

/-- A list of rows that are writes of CMD changes pages and registers alone where the effect of each does. -/
theorem regsFrame_cons {i : Cmd → Instr} {is : List (Cmd → Instr)} {blk : Cmd → Block} {eff : Cmd → Ctx → State → Effect}
    (he : ∀ c s, exec (i c) s = command s c (blk c) op checks (eff c)) (h : ∀ c x u, OnlyRegs u (eff c x u).state)
    (k : RegsFrame (fun s _ => s) is) : RegsFrame (fun s _ => s) (i :: is) :=
  List.forall_mem_cons.2 ⟨fun c s => after_command_onlyRegs (he c s) (h c), k⟩

theorem pagesFrame_pageCommands :
    PagesFrame (fun s _ => s) [.takeMaster, .viSave, .viRestore, .logStop, .rtClear, .updCommit] := by
  refine pagesFrame_cons (fun _ _ => rfl) ?_ <| pagesFrame_cons (fun _ _ => rfl) ?_ <| pagesFrame_cons (fun _ _ => rfl) ?_ <|
    pagesFrame_cons (fun _ _ => rfl) ?_ <| pagesFrame_cons (fun _ _ => rfl) ?_ <| pagesFrame_cons (fun _ _ => rfl) ?_ pagesFrame_nil
  all_goals exact fun _ _ _ => .refl

/-- The commands that clear counters, and those that load an entry or a single register. -/
theorem regsFrame_registerCommands :
    RegsFrame (fun s _ => s) [.dramClearCounters, .resetServo, .tblRead, .macSearch, .egressClearCounters, .nodeRead,
      .nodeSearch, .laneClearCounters, .ingestClearCounters, .filterClearCounters, .detClearCounters,
      .pelotonClearCounters, .flowClearCounters, .viReset, .shareClearCounters, .logSwap,
      .crankClearCounters, .taskClearCounters, .capClearCounters, .coasterClearCounters, .tripIoClearCounters,
      .tdClearCounters, .faClearCounters, .vaultClearCounters, .updVerify, .mcClearCounters, .railSet, .railClear,
      .sbClearCounters, .cyClearCounters] :=
  regsFrame_cons (i := .dramClearCounters) (fun _ _ => rfl) (fun _ _ _ => onlyRegs_clearRegs _) <|
  regsFrame_cons (i := .resetServo) (fun _ _ => rfl) (fun _ _ u => onlyRegs_foldl _ (fun _ _ => onlyRegs_wr ..) _ u) <|
  regsFrame_cons (i := .tblRead) (fun _ _ => rfl) (fun _ _ _ => onlyRegs_loadTblData _) <|
  regsFrame_cons (i := .macSearch) (fun _ _ => rfl) (fun _ _ _ => onlyRegs_effectMacSearch) <|
  regsFrame_cons (i := .egressClearCounters) (fun _ _ => rfl) (fun _ _ _ => onlyRegs_clearRegs _) <|
  regsFrame_cons (i := .nodeRead) (fun _ _ => rfl) (fun _ _ _ => onlyRegs_loadNode _) <|
  regsFrame_cons (i := .nodeSearch) (fun _ _ => rfl) (fun _ _ _ => onlyRegs_effectNodeSearch) <|
  regsFrame_cons (i := .laneClearCounters) (fun _ _ => rfl) (fun _ _ _ => onlyRegs_clear_one_or_all ..) <|
  regsFrame_cons (i := .ingestClearCounters) (fun _ _ => rfl) (fun _ _ _ => onlyRegs_clear_one_or_all ..) <|
  regsFrame_cons (i := .filterClearCounters) (fun _ _ => rfl) (fun _ _ _ => onlyRegs_clear_one_or_all ..) <|
  regsFrame_cons (i := .detClearCounters) (fun _ _ => rfl) (fun _ _ _ => onlyRegs_clear_one_or_all ..) <|
  regsFrame_cons (i := .pelotonClearCounters) (fun _ _ => rfl) (fun _ _ _ => onlyRegs_effectPelotonClearCounters) <|
  regsFrame_cons (i := .flowClearCounters) (fun _ _ => rfl) (fun _ _ _ => onlyRegs_effectFlowClearCounters) <|
  regsFrame_cons (i := .viReset) (fun _ _ => rfl) (fun _ _ _ => onlyRegs_enterVi ..) <|
  regsFrame_cons (i := .shareClearCounters) (fun _ _ => rfl) (fun _ _ _ => onlyRegs_clear_one_or_all ..) <|
  regsFrame_cons (i := .logSwap) (fun _ _ => rfl) (fun _ _ _ => onlyRegs_wr ..) <|
  regsFrame_cons (i := .crankClearCounters) (fun _ _ => rfl) (fun _ _ _ => (onlyRegs_clearRegs _).trans (onlyRegs_clearInsts ..)) <|
  regsFrame_cons (i := .taskClearCounters) (fun _ _ => rfl) (fun _ _ _ => onlyRegs_clear_one_or_all ..) <|
  regsFrame_cons (i := .capClearCounters) (fun _ _ => rfl) (fun _ _ _ => onlyRegs_effectCapClearCounters) <|
  regsFrame_cons (i := .coasterClearCounters) (fun _ _ => rfl) (fun _ _ _ => onlyRegs_clear_one_or_all ..) <|
  regsFrame_cons (i := .tripIoClearCounters) (fun _ _ => rfl) (fun _ _ _ => onlyRegs_ite
    ((onlyRegs_clearInsts ..).trans (onlyRegs_clearRegs _)) (onlyRegs_clearRegs _)) <|
  regsFrame_cons (i := .tdClearCounters) (fun _ _ => rfl) (fun _ _ u => onlyRegs_foldl _ (fun _ _ => onlyRegs_clearRegs _) _ u) <|
  regsFrame_cons (i := .faClearCounters) (fun _ _ => rfl) (fun _ _ _ => onlyRegs_effectFaClearCounters) <|
  regsFrame_cons (i := .vaultClearCounters) (fun _ _ => rfl) (fun _ _ _ => onlyRegs_ite .refl (onlyRegs_clearRegs _)) <|
  regsFrame_cons (i := .updVerify) (fun _ _ => rfl) (fun _ _ _ => onlyRegs_wr ..) <|
  regsFrame_cons (i := .mcClearCounters) (fun _ _ => rfl) (fun _ _ _ => onlyRegs_clearRegs _) <|
  regsFrame_cons (i := .railSet) (fun _ _ => rfl) (fun _ _ _ => onlyRegs_wr ..) <|
  regsFrame_cons (i := .railClear) (fun _ _ => rfl) (fun _ _ _ => onlyRegs_wr ..) <|
  regsFrame_cons (i := .sbClearCounters) (fun _ _ => rfl) (fun _ _ _ => (onlyRegs_clearRegs _).trans (onlyRegs_clearInsts ..)) <|
  regsFrame_cons (i := .cyClearCounters) (fun _ _ => rfl) (fun _ _ _ => onlyRegs_clearRegs _) regsFrame_nil

/-- Settles O56: what each effect changes, and what every page does for its command. -/
theorem pageCommandFrames : Obligations.PageCommandFrames :=
  ⟨pagesFrame_pageCommands,
    fun _ => pagesFrame_cons (fun _ _ => rfl) (fun _ _ _ => .refl) pagesFrame_nil,
    fun _ => pagesFrame_cons (fun _ _ => rfl) (fun _ _ _ => onlyPages_eventTested) pagesFrame_nil,
    regsFrame_registerCommands,
    fun axle => regsFrame_cons (fun _ _ => rfl) (fun _ _ _ => onlyRegs_effectLinkClearCounters axle) regsFrame_nil⟩

end Sys2Proof.Machine
end

section
/-!
PROOFS of the time statements: what the operations on a hub's time base leave of the rest of the state, and of each hub's role
(R82, R84, R92, R97).
-/
namespace Sys2Proof.Machine

variable {s t u : State} {loc inst hub hub' die dom : Nat} {r : Reg}

/-- All of a state but what `OnlyRegs` leaves open and the time bases stands as it was. -/
def OnlyTbs (s t : State) : Prop := ∃ b, OnlyRegs { s with tbs := b } t

/-- The state of a hub's time base, and whether the hub is package time master (R84, R92). -/
def timeRole (s : State) (hub : Nat) : TbState × Bool := ((tb s hub).state, (tb s hub).master)

theorem tb_congr (h : t.tbs = s.tbs) : tb t hub = tb s hub := by rw [tb, h, tb]

theorem ctr_congr (h : t.ctrs = s.ctrs) : ctr t die = ctr s die := by rw [ctr, h, ctr]

theorem timeRole_congr (h : t.tbs = s.tbs) : timeRole t hub = timeRole s hub := by rw [timeRole, tb_congr h, timeRole]

theorem present_congr (h : t.variant = s.variant) : present t die = present s die := by rw [present, h, present]

theorem domRun_congr (hv : t.variant = s.variant) (hr : t.rst = s.rst) : domRun t die dom = domRun s die dom := by
  rw [domRun, present_congr hv, rstOf_congr hr, domRun]

theorem OnlyRegs.tbs (h : OnlyRegs s t) : t.tbs = s.tbs := by
  obtain ⟨_, _, _, _, _, _, _, _, _, _, _, rfl⟩ := onlyRegs_iff.1 h
  rfl

/-! ### What changes time bases alone -/

theorem OnlyTbs.refl : OnlyTbs s s := ⟨s.tbs, rfl⟩

theorem OnlyRegs.onlyTbs (h : OnlyRegs s t) : OnlyTbs s t := ⟨s.tbs, h⟩

theorem OnlyTbs.trans (h : OnlyTbs s t) (k : OnlyTbs t u) : OnlyTbs s u := by
  obtain ⟨_, h⟩ := h
  obtain ⟨b, k⟩ := k
  obtain ⟨_, _, _, _, _, _, _, _, _, _, _, rfl⟩ := onlyRegs_iff.1 h
  obtain ⟨_, _, _, _, _, _, _, _, _, _, _, rfl⟩ := onlyRegs_iff.1 k
  exact ⟨b, rfl⟩

theorem OnlyTbs.ctrs (h : OnlyTbs s t) : t.ctrs = s.ctrs := h.choose_spec.ctrs

/-- A fold of steps that change time bases alone changes them alone. -/
theorem onlyTbs_foldl {α : Type} {f : State → α → State} (hf : ∀ u a, OnlyTbs u (f u a)) :
    ∀ (l : List α) (s : State), OnlyTbs s (l.foldl f s)
  | [], _ => .refl
  | a :: l, s => (hf s a).trans (onlyTbs_foldl hf l (f s a))

/-- A fold of steps that keep a part of the state keeps it. -/
theorem foldl_keeps {α β : Type} (p : State → β) {f : State → α → State} (hf : ∀ u a, p (f u a) = p u) :
    ∀ (l : List α) (s : State), p (l.foldl f s) = p s
  | [], _ => rfl
  | a :: l, s => (foldl_keeps p hf l (f s a)).trans (hf s a)

/-! ### Setting a time base (R95) -/

/-- Setting a time base changes, beside it, its page alone. -/
theorem onlyPages_putTb (b : TimeBase) : OnlyPages { s with tbs := mput hub b s.tbs } (putTb s hub b) := by
  unfold putTb
  dsimp only
  split
  · exact onlyPages_setHdr _
  · exact (onlyPages_setHdr _).trans onlyPages_hwEvent

theorem onlyTbs_putTb (b : TimeBase) : OnlyTbs s (putTb s hub b) := ⟨_, (onlyPages_putTb b).onlyRegs⟩

@[simp] theorem rd_putTb (b : TimeBase) : rd (putTb s hub b) loc r inst = rd s loc r inst := rd_congr (onlyPages_putTb b).regs

@[simp] theorem tb_putTb_same (b : TimeBase) : tb (putTb s hub b) hub = b :=
  (tb_congr (onlyPages_putTb b).onlyRegs.tbs).trans (mget_mput_same ..)

theorem tb_putTb_ne (b : TimeBase) (h : hub' ≠ hub) : tb (putTb s hub b) hub' = tb s hub' :=
  (tb_congr (onlyPages_putTb b).onlyRegs.tbs).trans (mget_mput_ne _ _ h _)

@[simp] theorem timeRole_putTb_same (b : TimeBase) : timeRole (putTb s hub b) hub = (b.state, b.master) := by
  rw [timeRole, tb_putTb_same]

theorem timeRole_putTb_ne (b : TimeBase) (h : hub' ≠ hub) : timeRole (putTb s hub b) hub' = timeRole s hub' := by
  rw [timeRole, tb_putTb_ne b h, timeRole]

/-! ### Rates, ADDEND and inputs (R82, R96, R97) -/

/-- Noting a rate changes the noted rates of the hub, or nothing. -/
theorem noteRate_cases (s : State) (hub : Nat) :
    noteRate s hub = s ∨ ∃ l, noteRate s hub = { s with tbs := mput hub { tb s hub with rates := l } s.tbs } := by
  unfold noteRate
  dsimp only
  split
  · split
    · split
      · exact .inl rfl
      · exact .inr ⟨_, rfl⟩
    · exact .inr ⟨_, rfl⟩
  · exact .inl rfl

theorem onlyTbs_noteRate : OnlyTbs s (noteRate s hub) := by
  obtain h | ⟨l, h⟩ := noteRate_cases s hub
  · rw [h]
    exact .refl
  · rw [h]
    exact ⟨_, .refl⟩

@[simp] theorem timeRole_noteRate : timeRole (noteRate s hub) hub' = timeRole s hub' := by
  obtain h | ⟨l, h⟩ := noteRate_cases s hub
  · rw [h]
  · rw [h]
    by_cases e : hub' = hub
    · simp [timeRole, tb, e]
    · simp [timeRole, tb, mget_mput_ne _ _ e]

theorem onlyTbs_noteRates : OnlyTbs s (noteRates s) := onlyTbs_foldl (fun _ _ => onlyTbs_noteRate) ..

@[simp] theorem timeRole_noteRates : timeRole (noteRates s) hub = timeRole s hub :=
  foldl_keeps (timeRole · hub) (fun _ _ => timeRole_noteRate) ..

/-- ADDEND as it is loaded, before the rates are noted. -/
theorem onlyRegs_loadAddend : OnlyRegs s
    (if addendClamped s hub then hwEvent (wr s hub R.ADDEND 0 (addendOf s hub)) hub .timeBase 3
     else wr s hub R.ADDEND 0 (addendOf s hub)) := by
  split
  · exact (onlyRegs_wr ..).trans onlyPages_hwEvent.onlyRegs
  · exact onlyRegs_wr ..

theorem onlyTbs_refreshAddend : OnlyTbs s (refreshAddend s hub) := onlyRegs_loadAddend.onlyTbs.trans onlyTbs_noteRates

@[simp] theorem timeRole_refreshAddend : timeRole (refreshAddend s hub) hub' = timeRole s hub' :=
  timeRole_noteRates.trans (timeRole_congr onlyRegs_loadAddend.tbs)

theorem onlyRegs_refreshInputs : OnlyRegs s (refreshInputs s hub) := onlyRegs_foldl _ (fun _ _ => onlyRegs_wr ..) _ s

@[simp] theorem timeRole_refreshInputs : timeRole (refreshInputs s hub) hub' = timeRole s hub' :=
  timeRole_congr onlyRegs_refreshInputs.tbs

/-! ### Entering a state, and mastership (R84, R92) -/

theorem onlyTbs_enterTb {st : TbState} (h : st ≠ .locked) : OnlyTbs s (enterTb s hub st) := by
  unfold enterTb
  dsimp only
  rw [if_neg h]
  exact ((onlyTbs_putTb _).trans onlyTbs_refreshAddend).trans onlyRegs_refreshInputs.onlyTbs

/-- A hub that enters a state is in it, and as much master as it was. -/
theorem timeRole_enterTb_same (st : TbState) : timeRole (enterTb s hub st) hub = (st, (timeRole s hub).2) := by
  unfold enterTb
  simp only [timeRole_refreshInputs, timeRole_refreshAddend, timeRole_putTb_same]
  cases st <;> rfl

/-- The other hub keeps its role. -/
theorem timeRole_enterTb_ne (st : TbState) (h : hub' ≠ hub) : timeRole (enterTb s hub st) hub' = timeRole s hub' := by
  unfold enterTb
  simp only [timeRole_refreshInputs, timeRole_refreshAddend, timeRole_putTb_ne _ h]
  split <;> rfl

theorem otherHub_ne : otherHub hub ≠ hub := by
  unfold otherHub
  omega

theorem onlyTbs_makeMaster : OnlyTbs s (makeMaster s hub) := by
  unfold makeMaster
  dsimp only
  split
  · exact ((onlyTbs_putTb _).trans (onlyTbs_putTb _)).trans onlyTbs_noteRates
  · exact (onlyTbs_putTb _).trans onlyTbs_noteRates

/-- The hub that is made master is master, in the state in which it was. -/
theorem timeRole_makeMaster_same : timeRole (makeMaster s hub) hub = ((timeRole s hub).1, true) := by
  unfold makeMaster
  dsimp only
  rw [timeRole_noteRates]
  split
  · rw [timeRole_putTb_ne _ otherHub_ne.symm, timeRole_putTb_same, timeRole]
  · rw [timeRole_putTb_same, timeRole]

/-- The other hub, where there is one, is not. -/
theorem timeRole_makeMaster_other (h : present s (otherHub hub) = true) :
    timeRole (makeMaster s hub) (otherHub hub) = ((timeRole s (otherHub hub)).1, false) := by
  unfold makeMaster
  dsimp only
  rw [timeRole_noteRates, if_pos h, timeRole_putTb_same, tb_putTb_ne _ otherHub_ne, timeRole]

end Sys2Proof.Machine
end

section
/-!
PROOFS of the time statements: what SET_TIME sets, and what a tick does not (R79, R84, R86, R93, R619).
-/
namespace Sys2Proof.Machine

variable {s t : State} {h die d : Nat}

/-! ### Setting every counter (R87, R619) -/

theorem onlyPages_showValid : OnlyPages s (showValid s die) := by
  unfold showValid
  split
  · exact .refl
  · exact onlyPages_setHdr _

/-- One counter of those that are set. -/
def setShown (c : Ctr) (s : State) (die : Nat) : State := showValid (setCtr s die c) die

theorem ctr_setShown (c : Ctr) : ctr (setShown c s die) d = if d = die then c else ctr s d := by
  rw [setShown, ctr_congr onlyPages_showValid.ctrs, ctr, setCtr]
  split
  · next e => rw [e, mget_mput_same]
  · next e => exact mget_mput_ne _ _ e _

theorem ctr_foldl_setShown (c : Ctr) : ∀ (l : List Nat) (s : State),
    ctr (l.foldl (setShown c) s) d = if d ∈ l then c else ctr s d
  | [], _ => rfl
  | die :: l, s => by
    rw [List.foldl_cons, ctr_foldl_setShown c l, ctr_setShown]
    by_cases hl : d ∈ l
    · simp [hl]
    · simp [hl]

/-- Setting every counter sets those of the dies whose TIME domain runs, and no other. -/
theorem ctr_setAllCtrs (n : Nat) : ctr (setAllCtrs s n) d = if d ∈ timeDies s then ctrAt true n else ctr s d :=
  ctr_foldl_setShown _ (timeDies s) s

@[simp] theorem setAllCtrs_variant (n : Nat) : (setAllCtrs s n).variant = s.variant :=
  foldl_keeps State.variant (fun u d => (onlyPages_showValid (s := setCtr u d (ctrAt true n))).variant) ..

/-- A reading in full seconds and nanoseconds stands in the counter as it is (R79). -/
theorem ctrAt_full {sec ns : Nat} (h : ns < 1000000000) :
    ctrAt true ((sec * 1000000000 + ns) * 2 ^ 48) = ⟨true, sec, ns, 0⟩ := by
  rw [ctrAt, Nat.mul_div_cancel _ (Nat.two_pow_pos 48), Nat.mul_mod_left]
  congr 1 <;> omega

/-! ### SET_TIME (R93, R619) -/

/-- The hub that SET_TIME makes master: hub A where its TIME domain runs, and the issuing hub otherwise. -/
def setMaster (s : State) (h : Nat) : Nat := if domRun s 0 5 then 0 else h

/-- The state after SET_TIME has set the counters and the master. -/
def mastered (s : State) (h : Nat) : State :=
  enterTb (makeMaster (setAllCtrs s ((rd s h R.SET_SEC 0 * 1000000000 + rd s h R.SET_NS 0) * 2 ^ 48)) (setMaster s h))
    (setMaster s h) .free

theorem onlyTbs_mastered : OnlyTbs (setAllCtrs s ((rd s h R.SET_SEC 0 * 1000000000 + rd s h R.SET_NS 0) * 2 ^ 48))
    (mastered s h) :=
  onlyTbs_makeMaster.trans (onlyTbs_enterTb (by decide))

/-- What follows the setting of the master: the other hub, where its TIME domain runs, enters FOLLOW. -/
theorem setTime_eq : setTime h s =
    if present s (otherHub (setMaster s h)) && domRun s (otherHub (setMaster s h)) 5 then
      enterTb (mastered s h) (otherHub (setMaster s h)) .follow
    else mastered s h := rfl

/-- SET_TIME sets the counter of every die whose TIME domain runs, and no other. -/
theorem ctr_setTime (hns : rd s h R.SET_NS 0 < 1000000000) :
    ctr (setTime h s) d = if d ∈ timeDies s then ⟨true, rd s h R.SET_SEC 0, rd s h R.SET_NS 0, 0⟩ else ctr s d := by
  have hcount : ctr (mastered s h) d = _ := (ctr_congr onlyTbs_mastered.ctrs).trans (ctr_setAllCtrs _)
  rw [ctrAt_full hns] at hcount
  rw [setTime_eq]
  split
  · rw [ctr_congr (onlyTbs_enterTb (by decide)).ctrs, hcount]
  · exact hcount

/-- The master enters FREE. -/
theorem timeRole_setTime_master : timeRole (setTime h s) (setMaster s h) = (.free, true) := by
  have hrole : timeRole (mastered s h) (setMaster s h) = (.free, true) := by
    rw [mastered, timeRole_enterTb_same, timeRole_makeMaster_same]
  rw [setTime_eq]
  split
  · rw [timeRole_enterTb_ne _ otherHub_ne.symm, hrole]
  · exact hrole

/-- The other hub enters FOLLOW where its TIME domain runs, and is not master. -/
theorem timeRole_setTime_other (hp : present s (otherHub (setMaster s h)) = true)
    (hrun : domRun s (otherHub (setMaster s h)) 5 = true) :
    timeRole (setTime h s) (otherHub (setMaster s h)) = (.follow, false) := by
  have hthere : present (setAllCtrs s ((rd s h R.SET_SEC 0 * 1000000000 + rd s h R.SET_NS 0) * 2 ^ 48))
      (otherHub (setMaster s h)) = true := (present_congr (setAllCtrs_variant _)).trans hp
  rw [setTime_eq, if_pos (by simp [hp, hrun]), timeRole_enterTb_same, mastered, timeRole_enterTb_ne _ otherHub_ne,
    timeRole_makeMaster_other hthere]

theorem timeDies_of_onlyPages (h : OnlyPages s t) : timeDies t = timeDies s := by
  obtain ⟨_, _, _, _, _, _, _, _, _, _, rfl⟩ := onlyPages_iff.1 h
  rfl

theorem setMaster_of_onlyPages (k : OnlyPages s t) : setMaster t h = setMaster s h := by
  rw [setMaster, domRun_congr k.variant k.rst, setMaster]

/-- A granted SET_TIME has SET_NS below a second (R93). -/
theorem set_ns_of_grants {c : Cmd} (hg : Grants s c .timeBase 0x10 checksSetTime) :
    rd s (ctxOf s c .timeBase 0x10).die R.SET_NS 0 < 1000000000 := by
  obtain ⟨-, hnone⟩ := hg
  have ⟨_, _, _, _, _, hpass⟩ := fails_iff ((checksSetTime s (ctxOf s c .timeBase 0x10)).for c.who)
  have harg : decide (rd s (ctxOf s c .timeBase 0x10).die R.SET_NS 0 ≤ 999999999) = true :=
    congrArg Checks.argOk (hpass.1 hnone)
  exact Nat.lt_succ_of_le (of_decide_eq_true harg)

/-- Settles O43: the grant and the answer change the pages alone, and between them SET_TIME sets the counters and the hubs'
roles. -/
theorem setTimeSetsEveryCounter : Obligations.SetTimeSetsEveryCounter := by
  intro c s hg h m
  let x := ctxOf s c .timeBase 0x10
  let u := acting s c .timeBase 0x10
  have hact : OnlyPages s u := onlyPages_acting c 0x10
  have hans : OnlyPages (setTime h u) (settled s (answered x (effectSetTime x u))) :=
    onlyPages_settled (onlyPages_answered ..)
  have hrd (r : Reg) : rd u h r 0 = rd s h r 0 := rd_congr hact.regs
  have hm : setMaster u h = m := setMaster_of_onlyPages hact
  have hctr (d : Nat) : ctr (settled s (answered x (effectSetTime x u))) d =
      if d ∈ timeDies s then ⟨true, rd s h R.SET_SEC 0, rd s h R.SET_NS 0, 0⟩ else ctr s d := by
    rw [ctr_congr hans.ctrs, ctr_setTime (by rw [hrd]; exact set_ns_of_grants hg), timeDies_of_onlyPages hact, hrd, hrd,
      ctr_congr hact.ctrs]
  have hrole (k : Nat) : timeRole (settled s (answered x (effectSetTime x u))) k = timeRole (setTime h u) k :=
    timeRole_congr hans.onlyRegs.tbs
  have hmaster : timeRole (setTime h u) m = (.free, true) := hm ▸ timeRole_setTime_master
  refine ⟨_, command_granted hg, fun d hd => (hctr d).trans (if_pos hd), fun d hd => (hctr d).trans (if_neg hd),
    congrArg Prod.fst ((hrole m).trans hmaster), congrArg Prod.snd ((hrole m).trans hmaster), fun hp hrun => ?_,
    bank_answered x _⟩
  have hother : timeRole (setTime h u) (otherHub m) = (.follow, false) := by
    rw [← hm]
    exact timeRole_setTime_other (by rw [hm, present_congr hact.variant, hp])
      (by rw [hm, domRun_congr hact.variant hact.rst, hrun])
  exact ⟨congrArg Prod.fst ((hrole _).trans hother), congrArg Prod.snd ((hrole _).trans hother)⟩

/-! ### A tick (R79, R84, R91) -/

/-- Hub A is master with its counter at 0, and die 2, which is held to it, leads it by 1 µs. The TIME domains of both run. -/
def leading : State := { State.reset with
  rst := [(0, { ResetSt.por with holds := [], released := 2 ^ 5 }), (2, { ResetSt.por with holds := [], released := 2 ^ 5 })]
  ctrs := [(0, ⟨true, 0, 0, 0⟩), (2, ⟨true, 0, 1000, 0⟩)]
  tbs := [(0, { TimeBase.empty with state := .free, master := true })] }

theorem two_mem_timeDies_leading : 2 ∈ timeDies leading := by decide +kernel

theorem rateFor_leading : rateFor leading 2 = 2 ^ 48 := by decide +kernel

/-- The counter of die 2 waits for the master's. -/
theorem ctr_tick_leading : ctr (tick leading) 2 = ctr leading 2 := by decide +kernel

/-- Refutes O28: a tick does not advance every running counter by its rate. One that is held to the master's and leads it by more
than its bound, as it can after a change of master, waits until it is within the bound again (R84, R86, R91). In `leading`
the counter of die 2 reads 1,000 ns before the tick and after it, where its rate is 1 ns. -/
theorem not_idleStepIsATick : ¬ Obligations.IdleStepIsATick := by
  intro h
  obtain ⟨t, hstep, -, hctr, -⟩ := h leading rfl
  obtain rfl : tick leading = t := Host.Outcome.next.inj hstep
  have hns := congrArg Ctr.ns (hctr 2 two_mem_timeDies_leading rfl)
  rw [ctr_tick_leading, rateFor_leading] at hns
  exact absurd hns (by decide)

end Sys2Proof.Machine
end

section
/-!
PROOFS of the time statements: the reads with an effect of their own complete, and so do the events of the counters, of the time
inputs, of the handover and of the triggers (R85 to R94, R98 to R100, R113, R116, R282, R576, R591, R619).
-/
namespace Sys2Proof.Machine

variable {s : State} {die hub rtt : Nat}

/-! ### Reads (R94, R113, R282, R576, R591) -/

/-- A row that reads one register completes with the read's effect. -/
theorem readCompletes_of {row : Access → Instr} {place : Access → Access} {eff : Access → State → State}
    (he : ∀ a s, exec (row a) s = readGate (place a) 0 (eff (place a)) s) : ReadCompletes row place eff :=
  fun a s hg => (he a s).trans (readGate_of_pass hg)

/-- Settles O11: each row is a read through the page's gate. -/
theorem effectReadsComplete : Obligations.EffectReadsComplete := by
  refine ⟨readCompletes_of fun _ _ => rfl, readCompletes_of fun _ _ => rfl, readCompletes_of fun _ _ => rfl,
    readCompletes_of fun _ _ => rfl, fun a s hg => ?_⟩
  show execCvSlotRead a s = _
  rw [execCvSlotRead]
  exact readGate_of_pass hg

/-! ### Time-sync exchanges (R84 to R86) -/

/-- A time-sync pair runs: both dies are there, their TIME domains run, and its link is not declared down (R84, R85). -/
def pairRuns (s : State) (die hub : Nat) : Prop :=
  present s die = true ∧ present s hub = true ∧ domRun s die 5 = true ∧ domRun s hub 5 = true ∧ pairDown s die hub = false

/-- An exchange of a pair that runs shows its round trip and goes over the Axle or a Spoke. -/
theorem execTimeSyncExchange_of_pairRuns (h : pairRuns s die hub) : execTimeSyncExchange die hub rtt s =
    let s1 := showPair (showRtt s die hub rtt) die hub true
    let s2 := noteSync s1 die s1.now
    .next (if isHub die then axleExchange s1
      else if discHub s1 die = hub then
        if (ctr s2 (discTo s2 hub)).valid then discipline s2 die hub
        else setStatus s2 die .timeCounter (setBit (hdr s2 die .timeCounter).status 2 false)
      else s1) := by
  obtain ⟨hp, hph, hrun, hrunh, hpair⟩ := h
  rw [execTimeSyncExchange, if_neg (by simp [hp, hph, hrun, hrunh, hpair])]
  simp only [bne_iff_ne, ne_eq, ite_not, apply_ite Host.Outcome.next]

/-! ### The time agent (R100) -/

/-- The offset that a PTP message brings reaches the servo only through a port that is SLAVE. -/
theorem offset_taken_iff {ps : Nat} {o : Option Int} :
    (if decide (ps = 9) then o else none) = none ↔ o = none ∨ ps ≠ 9 := by
  by_cases h : ps = 9 <;> simp [h]

/-! ### Leap seconds (R99) -/

/-- UTC_OFFSET changes by one within its 16 bits. -/
theorem leapOffset_lt (v : Nat) (delete : Bool) : leapOffset v delete < 65536 := by
  unfold leapOffset
  split <;> exact Nat.mod_lt _ (by decide)

/-- At the announced midnight UTC_OFFSET takes the new offset, the announcement is spent, and no counter moves. -/
theorem leapSecondApply_of_due {dayEnd : Nat} {delete : Bool} (hleap : (tb s hub).leap = some (dayEnd, delete))
    (hrun : domRun s hub 5 = true) (hvalid : (ctr s hub).valid = true)
    (hdue : dayEnd + leapOffset (rd s hub R.UTC_OFFSET 0) delete ≤ (ctr s hub).sec) :
    After (.leapSecondApply hub) s fun t =>
      rd t hub R.UTC_OFFSET 0 = leapOffset (rd s hub R.UTC_OFFSET 0) delete ∧ (tb t hub).leap = none ∧ t.ctrs = s.ctrs := by
  have hgo : exec (.leapSecondApply hub) s = .next (putTb (wr s hub R.UTC_OFFSET 0 (leapOffset (rd s hub R.UTC_OFFSET 0) delete))
      hub { tb s hub with leap := none }) := by
    show execLeapSecondApply hub s = _
    simp [execLeapSecondApply, hleap, hrun, hvalid, hdue]
  refine ⟨_, hgo, ?_, ?_, (onlyTbs_putTb _).ctrs.trans (wr_ctrs ..)⟩
  · rw [rd_putTb, rd_wr_same]
    exact Nat.mod_eq_of_lt (Nat.lt_of_lt_of_le (leapOffset_lt ..) (by decide))
  · rw [tb_putTb_same]

/-- Settles O15: each row's answer where its condition holds, and what a leap second leaves. -/
theorem timeEventsComplete : Obligations.TimeEventsComplete := by
  refine ⟨⟨?_, ?_, ?_, ?_, ?_, ?_, ?_, ?_⟩, ?_, ?_, ?_, ?_, fun _ _ _ _ => leapSecondApply_of_due, ?_, ?_, ?_, ?_, ?_, ?_⟩
  · intro die hub rtt s hdie hp hph hrun hrunh hpair
    refine (execTimeSyncExchange_of_pairRuns ⟨hp, hph, hrun, hrunh, hpair⟩).trans ?_
    simp only [hdie, Bool.false_eq_true, if_false]
    rfl
  · intro die hub rtt s hdie hp hph hrun hrunh hpair
    have hgo := execTimeSyncExchange_of_pairRuns (rtt := rtt) ⟨hp, hph, hrun, hrunh, hpair⟩
    simp only [hdie, if_true] at hgo
    refine ⟨fun hm => hgo.trans ?_, fun m hm => hgo.trans ?_⟩
    · simp only [axleExchange, hm]
    · simp only [axleExchange, hm]
  · intro die s hdie hrun hdue
    show execSyncExchangeLoss die s = _
    rw [execSyncExchangeLoss, if_neg (by simp [hrun, hdue]), if_neg (by simp [hdie])]
    exact (apply_ite Host.Outcome.next ..).symm
  · intro hub s hhub hrun hdue
    show execSyncExchangeLoss hub s = _
    rw [execSyncExchangeLoss, if_neg (by simp [hrun, hdue]), if_pos hhub]
    simp only [apply_ite Host.Outcome.next]
  · intro die s hdie hrun hval hm hrunh
    exact if_pos (by simp [hdie, hrun, hval, hm, hrunh])
  · intro hub s hslew hend hrun
    exact if_pos (by simp [hslew, hend, hrun])
  · intro s p hp
    show execStepTakesEffect s = _
    simp only [execStepTakesEffect, hp]
    exact (apply_ite Host.Outcome.next ..).symm
  · intro s p hp
    show execNegativeStepEnd s = _
    simp only [execNegativeStepEnd, hp]
  · intro hub f s hrun hf hv
    show execPpsInEdge hub s = _
    simp [execPpsInEdge, hrun, hf, hv]
  · intro hub s hrun hv
    show execPpsInEdge hub s = _
    rw [execPpsInEdge, if_neg (by simp [hrun])]
    dsimp only
    split
    · next f hf => rw [if_neg (by simpa [hf] using hv)]
    · rfl
  · intro hub markError s hrun
    exact if_neg (by simp [hrun])
  · intro hub f markError s hrun
    exact if_neg (by simp [hrun])
  · intro hub input s hrun hv hst
    exact if_pos (by simp [hrun, hv, hst])
  · intro hub port portState delay parent clockClass version s hrun hon
    have hgo (o : Option Int) : execPtpMessageRx hub port portState delay parent clockClass version o s = _ :=
      if_pos (by simp [hrun, hon])
    refine ⟨fun o ho => (hgo o).trans ?_, fun x hx => (hgo (some x)).trans ?_⟩
    · dsimp only
      rw [offset_taken_iff.2 ho]
    · dsimp only
      rw [if_pos (decide_eq_true hx)]
  · intro hub s hrun
    exact if_pos hrun
  · intro hub k s hk
    show execTakeMasterDone hub s = _
    simp only [execTakeMasterDone, hk]
    exact (apply_ite Host.Outcome.next ..).symm
  · intro hub n s hrun hn harmed hvalid hdue
    exact if_pos (by simp [hrun, hn, harmed, hvalid, hdue])
  · intro hub n e s hp hrun hdue
    show execTriggerPulseEnd hub n s = _
    simp [execTriggerPulseEnd, hp, hrun, hdue]

end Sys2Proof.Machine
end

section
/-!
PROOFS of the switch's statements: the entries of a table under TBL_WRITE and TBL_READ, the commands of the switch and of the
lanes complete, and so do the events of frames, tables, gates and ports (R123 to R128, R134, R139, R141, R153, R156, R158,
R160, R162, R165, R166, R183, R186, R191).
-/
namespace Sys2Proof.Machine

variable {s t u : State} {loc loc' hub other ini ini' table table' idx idx' : Nat} {r r' : Reg} {w : Switch} {e : TblEntry}
  {c : Cmd} {x : Ctx}

/-! ### Switches and their tables (R166) -/

@[simp] theorem swOf_setSw_same : swOf (setSw s hub w) hub = w := by simp [swOf, setSw]

/-- Setting a hub's switch leaves the other hub's. -/
theorem swOf_setSw_ne (h : other ≠ hub) : swOf (setSw s hub w) other = swOf s other := by simp [swOf, setSw, mget_mput_ne _ _ h]

theorem swOf_congr (h : t.switches = s.switches) : swOf t hub = swOf s hub := by rw [swOf, h, swOf]

theorem OnlyPages.switches (h : OnlyPages s t) : t.switches = s.switches := by
  obtain ⟨_, _, _, _, _, _, _, _, _, _, rfl⟩ := onlyPages_iff.1 h
  rfl

/-- A switch set between changes of pages: beside pages, the switches alone change. -/
theorem OnlyPages.setSw_between (h : OnlyPages s u) (k : OnlyPages (setSw u hub w) t) :
    OnlyPages { s with switches := t.switches } t := by
  obtain ⟨_, _, _, _, _, _, _, _, _, _, rfl⟩ := onlyPages_iff.1 h
  obtain ⟨_, _, _, _, _, _, _, _, _, _, rfl⟩ := onlyPages_iff.1 k
  rfl

@[simp] theorem tblGet_tblPut_same : tblGet (tblPut w table idx e) table idx = e := by simp [tblGet, tblPut]

/-- Setting an entry leaves every entry under another key. -/
theorem tblGet_tblPut_ne (h : table' * 65536 + idx' ≠ table * 65536 + idx) :
    tblGet (tblPut w table idx e) table' idx' = tblGet w table' idx' := mget_mput_ne _ _ h _

/-- The tables whose entries stand at their index as they were written: VLAN, group, WRED, admin gates and Ethertypes. -/
abbrev plainTables : List Nat := [1, 2, 5, 6, 8]

theorem writeTbl_of_plain (h : table ∈ plainTables) :
    writeTbl s hub table idx e = setSw s hub (tblPut (swOf s hub) table idx (tblMask table e)) := by
  simp only [List.mem_cons, List.not_mem_nil, or_false] at h
  rcases h with rfl | rfl | rfl | rfl | rfl <;> rfl

theorem tblShown_of_plain (h : table ∈ plainTables) : tblShown s hub table idx = tblGet (swOf s hub) table idx := by
  simp only [List.mem_cons, List.not_mem_nil, or_false] at h
  rcases h with rfl | rfl | rfl | rfl | rfl <;> rfl

/-! ### TBL_DATA (R163) -/

/-- Setting an initiator's copy of a register leaves every register of another block or offset. -/
theorem rdB_wrB_slot {v : Nat} (h : regSlot r' % 268435456 ≠ regSlot r % 268435456) :
    rdB (wrB s loc r ini v) loc' r' ini' = rdB s loc' r' ini' :=
  congrArg BitVec.toNat (mget_mput_ne _ _ (fun e => h (by rw [← regKey_mod loc' 0 ini' r', e, regKey_mod])) s.regs)

theorem tblData_congr (h : t.regs = s.regs) : tblData t hub ini = tblData s hub ini := by
  simp only [tblData, rdB, h]

theorem regBits_tblData (k : Nat) : regBits (R.TBL_DATA0_3.nth k) = 32 := rfl

/-- TBL_DATA holds the entry that was loaded, whose parts are words. -/
theorem tblData_loadTblData (h : e.d0 < 2 ^ 32 ∧ e.d1 < 2 ^ 32 ∧ e.d2 < 2 ^ 32 ∧ e.d3 < 2 ^ 32) :
    tblData (loadTblData s hub ini e) hub ini = e := by
  obtain ⟨h0, h1, h2, h3⟩ := h
  simp (disch := decide) only [tblData, loadTblData, rdB_wrB_same, rdB_wrB_slot, regBits_tblData, Nat.mod_eq_of_lt h0,
    Nat.mod_eq_of_lt h1, Nat.mod_eq_of_lt h2, Nat.mod_eq_of_lt h3]

/-! ### TBL_WRITE and TBL_READ (R165) -/

/-- SUB names such a table in its 8 bits. -/
theorem ctxOf_sub_of_plain {b : Block} {op : Nat} (h : c.sub ∈ plainTables) : (ctxOf s c b op).sub = c.sub := by
  refine Nat.mod_eq_of_lt ?_
  simp only [List.mem_cons, List.not_mem_nil, or_false] at h
  omega

/-- What a granted TBL_WRITE answers is, but for pages, the state in which it acts with the entry set. -/
theorem onlyPages_tblWrite (h : c.sub ∈ plainTables) :
    let x := ctxOf s c .switch 0x11
    let u := acting s c .switch 0x11
    OnlyPages (setSw u x.loc (tblPut (swOf s x.loc) c.sub x.cmdArg (tblMask c.sub (tblData s x.loc c.who.ini))))
      (settled s (answered x (effectTblWrite x u))) := by
  intro x u
  have hact : OnlyPages s u := onlyPages_acting c 0x11
  have heff : (effectTblWrite x u).state =
      setSw u x.loc (tblPut (swOf s x.loc) c.sub x.cmdArg (tblMask c.sub (tblData s x.loc c.who.ini))) := by
    show writeTbl u x.loc x.sub x.cmdArg (tblData u x.loc c.who.ini) = _
    rw [ctxOf_sub_of_plain h, writeTbl_of_plain h, tblData_congr hact.regs, swOf_congr hact.switches]
  rw [← heff]
  exact onlyPages_settled (onlyPages_answered ..)

/-- What a granted TBL_READ answers is, but for pages, the state in which it acts with the entry in TBL_DATA. -/
theorem onlyPages_tblRead (h : c.sub ∈ plainTables) :
    let x := ctxOf s c .switch 0x10
    let u := acting s c .switch 0x10
    OnlyPages (loadTblData u x.loc c.who.ini (tblGet (swOf s x.loc) c.sub x.cmdArg))
      (settled s (answered x (effectTblRead x u))) := by
  intro x u
  have hact : OnlyPages s u := onlyPages_acting c 0x10
  have heff : (effectTblRead x u).state = loadTblData u x.loc c.who.ini (tblGet (swOf s x.loc) c.sub x.cmdArg) := by
    show loadTblData u x.loc c.who.ini (tblShown u x.loc x.sub x.cmdArg) = _
    rw [ctxOf_sub_of_plain h, tblShown_of_plain h, swOf_congr hact.switches]
  rw [← heff]
  exact onlyPages_settled (onlyPages_answered ..)

/-- Settles O44: the grant and the answer change the pages alone, and between them TBL_WRITE sets one entry and TBL_READ the
issuer's TBL_DATA. -/
theorem tableEntriesAreWrittenAndRead : Obligations.TableEntriesAreWrittenAndRead := by
  intro c s hsub hub idx
  refine ⟨fun hg => ?_, fun hg hword => ?_⟩
  · have hact : OnlyPages s (acting s c .switch 0x11) := onlyPages_acting c 0x11
    have hans : OnlyPages (setSw (acting s c .switch 0x11) hub (tblPut (swOf s hub) c.sub idx
        (tblMask c.sub (tblData s hub c.who.ini)))) _ := onlyPages_tblWrite hsub
    refine ⟨_, command_granted hg, ?_, fun table i hne => ?_, fun other hne => ?_, hact.setSw_between hans⟩
    · rw [swOf_congr hans.switches, swOf_setSw_same, tblGet_tblPut_same]
    · rw [swOf_congr hans.switches, swOf_setSw_same, tblGet_tblPut_ne hne]
    · rw [swOf_congr hans.switches, swOf_setSw_ne hne, swOf_congr hact.switches]
  · have hact : OnlyPages s (acting s c .switch 0x10) := onlyPages_acting c 0x10
    have hans : OnlyPages (loadTblData (acting s c .switch 0x10) hub c.who.ini (tblGet (swOf s hub) c.sub idx)) _ :=
      onlyPages_tblRead hsub
    refine ⟨_, command_granted hg, ?_, hact.onlyRegs.trans ((onlyRegs_loadTblData _).trans hans.onlyRegs)⟩
    rw [tblData_congr hans.regs, tblData_loadTblData (hword _ rfl)]

/-! ### The commands of the switch and of the lanes complete (R141, R156, R165, R183, R186, R191) -/

theorem effectMacSearch_code : (effectMacSearch x t).code = .done := by
  unfold effectMacSearch
  dsimp only
  split <;> rfl

theorem effectNodeWrite_code : (effectNodeWrite x t).code = .done := by
  unfold effectNodeWrite
  dsimp only
  split
  · split <;> rfl
  · rfl

theorem effectNodeSearch_code : (effectNodeSearch x t).code = .done := by
  unfold effectNodeSearch
  dsimp only
  split <;> rfl

/-- Settles O3: each of these rows is a write of CMD whose effect ends with one code, whether or not a search finds its entry
and an entry its place. -/
theorem switchAndLaneCommandsComplete : Obligations.SwitchAndLaneCommandsComplete := by
  refine ⟨?_, ?_, completes_of_code (fun _ _ => rfl) fun _ _ => effectMacSearch_code, ?_, ?_, ?_, ?_, ?_, ?_, ?_, ?_, ?_,
    completes_of_code (fun _ _ => rfl) fun _ _ => effectNodeWrite_code,
    completes_of_code (fun _ _ => rfl) fun _ _ => effectNodeSearch_code, ?_, ?_, ?_, ?_⟩
  all_goals exact completes_of_code (fun _ _ => rfl) fun _ _ => rfl

/-! ### The events of the switch complete -/

/-- Settles O16: each row's answer where its condition holds. -/
theorem switchEventsComplete : Obligations.SwitchEventsComplete := by
  refine ⟨?_, ?_, ?_, ?_, ?_, ?_, ?_, ?_, ?_, ?_, ?_, ?_⟩
  · intro hub port mask cls frame s hrun hport hup
    show execFrameIngress hub port frame mask cls s = _
    simp [execFrameIngress, hrun, hport, hup]
  · intro hub mask cls frame f rest s hrun hq
    show execFrameIngress hub 12 frame mask cls s = _
    simp [execFrameIngress, hrun, hq]
  · intro hub mask cls frame s hrun hplain
    show execFrameIngress hub 15 frame mask cls s = _
    simp [execFrameIngress, hrun, hplain, or_assoc]
  · intro hub mask cls frame s hrun hmode hetype hdst
    show execFrameIngress hub 15 frame mask cls s = _
    simp [execFrameIngress, hrun, hmode, hetype, hdst]
  · intro hub s hrun
    exact if_pos hrun
  · intro hub bs rest s hq
    show execSamplerRecord hub s = _
    simp only [execSamplerRecord, hq, apply_ite Host.Outcome.next]
  · intro hub x rest s hq hrun
    show execP13SendCheck hub s = _
    simp [execP13SendCheck, hq, hrun]
  · intro die q s hq hrun
    have hheld : ¬ (!domRun s die 10) = true := by simp [hrun]
    refine ⟨fun hmiss => ?_, fun hmiss => ?_⟩
    · show execEgBufferRead die s = _
      simp only [execEgBufferRead, hq]
      rw [if_neg hheld, if_pos (by simpa using hmiss)]
    · show execEgBufferRead die s = _
      simp only [execEgBufferRead, hq]
      rw [if_neg hheld, if_neg (by simp [hmiss])]
      generalize (decide (_ = 0x88F7) || isLinkLocal _) = plain
      generalize egressSeq _ _ _ _ = o
      cases o with
      | none => rfl
      | some r => cases plain <;> rfl
  · intro hub idx s
    dsimp only
    intro hrun hage hidx hvalid hdyn hdue
    exact if_pos (by simp [hrun, hage, hidx, hvalid, hdyn, hdue])
  · intro hub port g s hg hrun hvalid hne hdue
    show execGateListAdvance hub port s = _
    simp [execGateListAdvance, hg, hrun, hvalid, hne, hdue]
  · intro hub port g p s hg hp hrun hvalid hdue
    show execQbvConfigChange hub port s = _
    simp [execQbvConfigChange, hg, hp, hrun, hvalid, hdue]
  · intro hub port s hrun hport
    refine ⟨fun hl => ?_, fun hl => ?_, fun hf => ?_, fun hst hl hover => ?_⟩
    · exact congrArg _ (if_pos (by simp [hrun, hport, hl]))
    · exact congrArg _ (if_pos (by simp [hrun, hport, hl]))
    · exact congrArg _ (if_pos (by simp [hrun, hport, hf]))
    · exact congrArg _ (if_pos (by simp [hrun, hport, hst, hl, hover]))

end Sys2Proof.Machine
end

section
/-!
PROOFS of the lanes' statements: the events of the node table, of redundancy and rehoming, and of the ports' links and modules
complete (R176, R179, R182 to R184, R186, R187, R193, R456).
-/
namespace Sys2Proof.Machine

/-- Settles O17: each row's answer where its condition holds. The Tandem lane's rows, at port 12, first pass the guard of the
ports below 12 (`if_neg`); the loss of a port in UP splits at the flap limit. -/
theorem laneEventsComplete : Obligations.LaneEventsComplete := by
  refine ⟨?_, ?_, ?_, ?_, ?_, ?_, ?_, ?_, ?_, ?_, ?_, ?_⟩
  · intro hub idx n s hn hrun hdue
    show execEntryForgetExpiry hub idx s = _
    simp [execEntryForgetExpiry, hn, hrun, hdue]
  · intro hub idx n s hn hrun hdyn hdue
    show execNodeForgetExpiry hub idx s = _
    simp [execNodeForgetExpiry, hn, hrun, hdyn, hdue]
  · intro hub s hrun hmode hdue
    refine (if_pos (by simp [hrun, hmode, hdue])).trans ?_
    exact (apply_ite Host.Outcome.next ..).symm
  · intro hub s hrun hlost hstate
    exact if_pos (by simp [hrun, hlost, hstate])
  · intro hub p s hp hrun hcold hdue
    show execRehomeWarmStart hub s = _
    simp only [execRehomeWarmStart, hp]
    exact if_pos (by simp [hrun, hcold, hdue])
  · intro hub p s hp hrun hwarm hdue
    show execRehomeCut hub s = _
    simp only [execRehomeCut, hp]
    exact if_pos (by simp [hrun, hwarm, hdue])
  · intro hub port seen s hrun hport hsearch hheld han
    exact if_pos (by simp [hrun, hport, hsearch, hheld, han])
  · intro hub seen s hrun hlock hdown
    refine (if_neg (by simp)).trans ?_
    exact if_pos (by simp [hrun, hlock, hdown])
  · intro hub port lost remote s hrun hport hup hgone
    refine (if_pos (by simp [hrun, hport, hup, hgone])).trans (congrArg Host.Outcome.next ?_)
    by_cases hflap : max 1 (fld (rd s hub R.LP_CFG port) 11 8) ≤ (flapsNow s hub port ++ [s.now]).length
    · simp only [hflap, decide_true, if_true]
    · simp only [hflap, decide_false, Bool.false_eq_true, if_false]
  · intro hub lost remote s hrun hup
    refine (if_neg (by simp)).trans ?_
    exact if_pos (by simp [hrun, hup])
  · intro hub inst pairs k s hrun hk
    show execTdrDone hub inst pairs s = _
    simp only [execTdrDone, hrun, hk]
    rfl
  · intro hub port pins id diag flags s hrun hport
    refine ⟨if_pos (by simp [hrun, hport]), fun hin hdue => ?_, if_pos (by simp [hrun, hport])⟩
    exact if_pos (by simp [hrun, hport, hin, hdue])

end Sys2Proof.Machine
end

section
/-!
PROOFS of the statements of ingest, filter, detectors and the Peloton: their commands complete (R215, R216, R235, R255, R259,
R268, R287, R296, R303).
-/
namespace Sys2Proof.Machine

variable {s t : State} {x : Ctx} {die kind flow vi len release deadline payload cause : Nat} {inline gap post : Bool} {w : Flow}

/-- A row that is a write of CMD completes under `pre` with the code that its effect then ends with. -/
theorem completesWhen_of_code {pre : State → Ctx → Prop} {i : Cmd → Instr} {blk : Cmd → Block} {op : Nat}
    {checks : State → Ctx → Checks} {eff : Ctx → State → Effect} {code : Code}
    (he : ∀ c s, exec (i c) s = command s c (blk c) op checks eff) (hc : ∀ x t, pre t x → (eff x t).code = code) :
    CompletesWhen pre i blk op checks eff [code] :=
  fun c s => completesAt_of (he c s) fun x t h => List.mem_singleton.2 (hc x t h)

/-! ### Ingest, filters and detectors (R215, R216, R235, R259) -/

/-- A stream that fits its hub is enabled (R216). -/
theorem effectStEnable_code (h : streamFits t x) : (effectStEnable x t).code = .done := by
  unfold effectStEnable
  by_cases hhome : (stagedStream t x.loc x.inst).home = x.loc
  · obtain ⟨hslots, hshare⟩ := h hhome
    simp [hhome, hslots, hshare, Effect.done]
  · simp [hhome, Effect.done]

theorem effectStTune_code : (effectStTune x t).code = .done := by
  unfold effectStTune
  split <;> rfl

theorem effectDestRestart_code : (effectDestRestart x t).code = .done := by
  unfold effectDestRestart
  split <;> rfl

theorem effectDetTune_code : (effectDetTune x t).code = .done := by
  unfold effectDetTune
  dsimp only
  split <;> rfl

theorem effectDetDestRestart_code : (effectDetDestRestart x t).code = .done := by
  unfold effectDetDestRestart
  split
  · rfl
  · split <;> rfl

/-! ### The Peloton (R268, R287, R291, R303) -/

/-- A chain of checks that finds nothing has passed its first one. -/
theorem eq_none_of_ite_some {α : Type} {p : Prop} [Decidable p] {a : α} {o : Option α} (h : (if p then some a else o) = none) :
    o = none := by
  by_cases hp : p
  · rw [if_pos hp] at h
    cases h
  · rwa [if_neg hp] at h

/-- Admission fails in a flow that is not enabled, so an item that it takes has its flow (R268). -/
theorem flowOf_of_admitFails_eq_none (h : admitFails s die kind flow vi inline post len release deadline = none) :
    ∃ w, flowOf s die flow = some w := by
  cases hf : flowOf s die flow with
  | some w => exact ⟨w, rfl⟩
  | none =>
    simp only [admitFails, hf] at h
    cases eq_none_of_ite_some (eq_none_of_ite_some h)

/-- An item of an enabled flow is admitted under the flow's next number (R272). -/
theorem admitItem_of_flow (h : flowOf s die flow = some w) : ∃ delayed spilled,
    (admitItem s die kind flow vi inline gap len release deadline payload cause).2 = .admitted delayed spilled w.admitNo := by
  unfold admitItem
  rw [h]
  dsimp only
  split
  · exact ⟨_, _, rfl⟩
  · exact ⟨_, _, rfl⟩

/-- A POST of an item that the slice admits ends with DONE (R268). -/
theorem effectPost_code (h : postFits t x) : (effectPost x t).code = .done := by
  obtain ⟨w, hw⟩ := flowOf_of_admitFails_eq_none h
  unfold effectPost
  dsimp only
  rw [show admitFails .. = none from h]
  dsimp only
  split
  · rfl
  · next hr =>
    obtain ⟨_, _, ha⟩ := admitItem_of_flow hw
    rw [ha] at hr
    cases hr

/-- A COMPLETE whose handle names a taken item ends with DONE (R287). -/
theorem effectComplete_code (h : itemTaken t x) : (effectComplete x t).code = .done := by
  obtain ⟨i, hi⟩ := Option.isSome_iff_exists.1 h
  unfold effectComplete
  dsimp only
  rw [hi]

theorem effectFlowSkip_code : (effectFlowSkip x t).code = .done := by
  unfold effectFlowSkip
  split <;> rfl

theorem effectRingRestart_code : (effectRingRestart x t).code = .done := by
  unfold effectRingRestart
  split <;> rfl

/-- Settles O4: each of these rows is a write of CMD whose effect ends with DONE, for ST_ENABLE, POST and COMPLETE under the
condition that the row names. -/
theorem streamAndPelotonCommandsComplete : Obligations.StreamAndPelotonCommandsComplete := by
  refine ⟨completesWhen_of_code (fun _ _ => rfl) fun _ _ => effectStEnable_code, ?_,
    completes_of_code (fun _ _ => rfl) fun _ _ => effectStTune_code, ?_,
    completes_of_code (fun _ _ => rfl) fun _ _ => effectDestRestart_code, ?_, ?_, ?_, ?_, ?_,
    completes_of_code (fun _ _ => rfl) fun _ _ => effectDetTune_code,
    completes_of_code (fun _ _ => rfl) fun _ _ => effectDetDestRestart_code, ?_, ?_,
    completesWhen_of_code (fun _ _ => rfl) fun _ _ => effectPost_code,
    completesWhen_of_code (fun _ _ => rfl) fun _ _ => effectComplete_code, ?_, ?_, ?_,
    completes_of_code (fun _ _ => rfl) fun _ _ => effectFlowSkip_code,
    completes_of_code (fun _ _ => rfl) fun _ _ => effectRingRestart_code, ?_⟩
  all_goals exact completes_of_code (fun _ _ => rfl) fun _ _ => rfl

end Sys2Proof.Machine
end

section
/-!
PROOFS of the statements of the sample path and of capture: their events complete (R114, R195, R214, R225, R250, R400, R401,
R407, R409, R411, R415, R418).
-/
namespace Sys2Proof.Machine

/-- Settles O18: each row's answer where what it takes (a copy, a batch, a presentation, a sample, an edge, a firing, a frame)
stands first in its queue, or where its record and instant are due. -/
theorem sampleAndCaptureEventsComplete : Obligations.SampleAndCaptureEventsComplete := by
  refine ⟨?_, ?_, ?_, ?_, ?_, ?_, ?_, ?_, ?_, ?_, ?_, ?_⟩
  · intro hub f rest s hq
    show execSvCopyIngest hub s = _
    simp only [execSvCopyIngest, hq]
  · intro hub i e s he hrun hfresh hdue
    show execStreamStale hub i s = _
    simp only [execStreamStale, he]
    exact if_pos (by simp only [hrun, hfresh, hdue, decide_true, beq_self_eq_true, Bool.and_self])
  · intro hub stream b s hb
    show execFilterBatchVisit hub stream s = _
    simp only [execFilterBatchVisit, hb]
  · intro hub p s hp
    show execDetectorPresentation hub s = _
    simp only [execDetectorPresentation, hp]
  · intro hub x s hx
    show execCaptureTapSample hub s = _
    simp only [execCaptureTapSample, hx]
  · intro hub record r s hr hrun hstate hlate
    show execRowLateComplete hub record s = _
    simp only [execRowLateComplete, hr]
    exact if_pos (by simpa [hrun, hstate] using hlate)
  · intro hub c s hc
    show execCaptureTriggerArrival hub s = _
    simp only [execCaptureTriggerArrival, hc]
  · intro hub f s hc hf
    show execCaptureTriggerArrival hub s = _
    simp only [execCaptureTriggerArrival, hc, hf]
  · intro hub f rest s hq
    show execGooseWatchFrame hub s = _
    simp only [execGooseWatchFrame, hq]
  · intro hub record r k s hr hk hrun hend hlate
    show execCaptureClose hub record s = _
    simp only [execCaptureClose, hr, hk]
    exact if_pos (by simp [hrun, hend, hlate])
  · intro hub i r s hdue hi hr
    show execCaptureReduce hub s = _
    simp only [execCaptureReduce, hdue, hi, hr, if_true] <;> rfl
  · intro hub q rest r s hq hrun hr hdone
    show execCaptureReadoutDone hub s = _
    simp only [execCaptureReadoutDone, hq, hrun, hr, hdone, Bool.false_eq_true, if_false]

end Sys2Proof.Machine
end

section
/-!
PROOFS of the filter chain's statements: the outputs of a detector (R246), the FIR (R232), and what the CLEAR_COUNTERS commands
clear and what they leave (R191, R216, R259, R390, R446, R566, R594, R613).
-/
namespace Sys2Proof.Machine

variable {s t u v : State} {loc lo n inst loc' inst' : Nat} {r r' : Reg} {rs : List Reg} {c : Cmd} {b : Block} {op m : Nat}
  {checks : State → Ctx → Checks} {eff : Ctx → State → Effect} {i : Instr} {p : Reg → Prop} {y : Int}

/-! ### Detectors (R246) -/

/-- Settles O45: PICKUP comes first, and with DROP at or below it no measure meets both thresholds. -/
theorem detectorOutputHasHysteresis : Obligations.DetectorOutputHasHysteresis := by
  intro pickup drop measure was hle
  unfold threshold
  refine ⟨fun hup => if_pos hup, fun hdown => ?_, fun hlow hhigh => ?_⟩
  · rw [if_neg (by omega), if_pos hdown]
  · rw [if_neg (by omega), if_neg (by omega)]

/-! ### The FIR (R232) -/

theorem sat32_eq : sat32 y = max (-2147483648) (min 2147483647 y) := by
  unfold sat32 clampInt
  split
  · omega
  · split <;> omega

theorem sat32_ne_iff : sat32 y ≠ y ↔ y < -2147483648 ∨ 2147483647 < y := by
  rw [sat32_eq]
  omega

theorem sat32_of_fits (hlo : -2147483648 ≤ y) (hhi : y ≤ 2147483647) : sat32 y = y := by
  rw [sat32_eq]
  omega

/-- The FIR's sum before rounding: each coefficient with the output as many places back. -/
def firSum (f : Profile) (outs : List Int) : Int :=
  ((List.range f.t).map (fun i => f.coef[i]?.getD 0 * outs[i]?.getD 0)).sum

theorem fir_of_no_coefficient {f : Profile} {outs : List Int} (h : f.t = 0) : fir f outs = (outs.headD 0, false) := if_pos h

theorem fir_of_coefficients {f : Profile} {outs : List Int} (h : f.t ≠ 0) :
    fir f outs = (sat32 ((firSum f outs + 131072) / 262144),
      decide (sat32 ((firSum f outs + 131072) / 262144) ≠ (firSum f outs + 131072) / 262144)) := by
  unfold fir firSum
  rw [if_neg h, List.sum_eq_foldl]
  rfl

theorem firSum_of_one {f : Profile} {outs : List Int} {h : Int} (ht : f.t = 1) (hc : f.coef = [h]) :
    firSum f outs = h * outs.headD 0 := by
  cases outs <;> simp [firSum, ht, hc]

/-- Settles O46: the sum as `firSum`, its rounding by the shift, and what `sat32` does within its limits and outside. -/
theorem firRoundsAndLimits : Obligations.FirRoundsAndLimits := by
  intro f outs
  refine ⟨fun ht => by rw [fir_of_no_coefficient ht], fun ht => ?_, fun ht h hc hlo hhi => ?_⟩
  · rw [fir_of_coefficients ht]
    exact ⟨sat32_eq, decide_eq_true_iff.trans sat32_ne_iff⟩
  · rw [fir_of_coefficients (by omega), firSum_of_one ht hc]
    exact sat32_of_fits hlo hhi

/-! ### What clearing does to the registers -/

/-- The registers that are cleared read 0, and so does whatever stands under the key of one of them; every other
register reads as before. -/
theorem rd_clearRegs : ∀ (rs : List Reg) (s : State), rd (clearRegs s loc inst rs) loc' r' inst' =
    if ∃ r ∈ rs, regKey loc' inst' 127 (blockCode r'.blk) r'.off = regKey loc inst 127 (blockCode r.blk) r.off then 0
    else rd s loc' r' inst'
  | [], s => by simp [clearRegs]
  | r :: rs, s => by
    show rd (clearRegs (wr s loc r inst 0) loc inst rs) loc' r' inst' = _
    rw [rd_clearRegs rs]
    by_cases hr : regKey loc' inst' 127 (blockCode r'.blk) r'.off = regKey loc inst 127 (blockCode r.blk) r.off
    · have hzero : rd (wr s loc r inst 0) loc' r' inst' = 0 := by simp [rd, wr, hr]
      simp [hr, hzero]
    · simp [hr, rd_wr_key hr]

theorem mget_mkeep {β : Type} (d : β) (f : Nat → Bool) (k : Nat) :
    ∀ m : Map β, mget d (mkeep f m) k = if f k then mget d m k else d
  | [] => by simp [mkeep, mget]
  | (k', v) :: m => by
    have ih := mget_mkeep d f k m
    unfold mkeep at ih ⊢
    by_cases hk : k = k'
    · subst hk
      cases hf : f k <;> simp_all [mget]
    · cases hf : f k' <;> simp_all [mget]

/-- `clearInsts` takes what stands under a key out of the map: place, SEL, block code and offset are a cleared counter's,
whatever the bank. -/
def KeyCleared (loc lo n : Nat) (rs : List Reg) (key : Nat) : Prop :=
  (∃ r ∈ rs, key % 268435456 = regSlot r) ∧ key / 268435456 / 128 / 8192 = loc ∧
    lo ≤ key / 268435456 / 128 % 8192 ∧ key / 268435456 / 128 % 8192 < lo + n

/-- A cleared register reads its reset value, every other one as before. -/
theorem rd_clearInsts_of_cleared (h : KeyCleared loc lo n rs (regKey loc' inst' 127 (blockCode r'.blk) r'.off)) :
    rd (clearInsts s loc lo n rs) loc' r' inst' = (BitVec.ofNat 64 (resetVal r' loc' inst')).toNat := by
  obtain ⟨⟨r, hr, hslot⟩, hloc, hlo, hhi⟩ := h
  unfold rd clearInsts
  rw [mget_mkeep, if_neg]
  have hany : rs.any (fun r => regKey loc' inst' 127 (blockCode r'.blk) r'.off % 268435456 == blockCode r.blk * 4096 + r.off) =
      true := List.any_eq_true.2 ⟨r, hr, beq_iff_eq.2 hslot⟩
  simp [hany, hloc, hlo, hhi]

theorem rd_clearInsts_of_not_cleared (h : ¬ KeyCleared loc lo n rs (regKey loc' inst' 127 (blockCode r'.blk) r'.off)) :
    rd (clearInsts s loc lo n rs) loc' r' inst' = rd s loc' r' inst' := by
  unfold rd clearInsts
  rw [mget_mkeep, if_pos]
  rw [Bool.not_eq_true', Bool.eq_false_iff]
  intro hkey
  simp only [Bool.and_eq_true, List.any_eq_true, beq_iff_eq, decide_eq_true_eq] at hkey
  obtain ⟨⟨⟨hslot, hloc⟩, hlo⟩, hhi⟩ := hkey
  exact h ⟨hslot, hloc, hlo, hhi⟩

/-! ### The registers of the map -/

/-- The block code and the offset stand below the bank's number in the register's key. -/
abbrev InMap (r : Reg) : Prop := regSlot r < 268435456

/-- So do those of every register of the model, each element of an array among them (R53, R60). -/
theorem inMap_nth_of_mem_blockRegs (hr : r ∈ blockRegs b) {k : Nat} (hk : k < r.cnt) : InMap (r.nth k) := by
  have hend : ∀ r ∈ blockRegs b, regSlot r + r.cnt * r.stride < 268435456 := by
    cases b <;> decide
  calc regSlot (r.nth k) = regSlot r + k * r.stride := (Nat.add_assoc ..).symm
    _ ≤ regSlot r + r.cnt * r.stride := Nat.add_le_add_left (Nat.mul_le_mul_right _ (Nat.le_of_lt hk)) _
    _ < 268435456 := hend r hr

/-- The key of a register of the map says its place and SEL, its bank (127) and where in its page it stands. -/
theorem regKey_of_inMap (h : InMap r) : regKey loc inst 127 (blockCode r.blk) r.off % 268435456 = regSlot r ∧
    regKey loc inst 127 (blockCode r.blk) r.off / 268435456 / 128 = loc * 8192 + inst := by
  unfold InMap regSlot at h
  unfold regKey regSlot
  omega

/-- A counter of the map, which resets to 0 at every place and SEL. -/
def ResetsToZero (r : Reg) : Prop := InMap r ∧ ∀ loc inst, resetVal r loc inst = 0

theorem resetsToZero_of_plain (h : ∀ r ∈ rs, regSlot r < 268435456 ∧ r.rst = 0 ∧ r.fused = false ∧ r.blk ≠ .keyVault ∧
    r.blk ≠ .qos ∧ r.off ≠ 0x108) : ∀ r ∈ rs, ResetsToZero r := fun r hr => by
  obtain ⟨hmap, hrst, hfused, hkey, hqos, hcfg⟩ := h r hr
  exact ⟨hmap, fun loc inst => by simp [resetVal, hrst, hfused, hkey, hqos, hcfg]⟩

theorem keyCleared_of_counter {k : Nat} (hr : r ∈ rs) (hmap : InMap r) (hk : k < n) (hn : lo + n ≤ 8192) :
    KeyCleared loc lo n rs (regKey loc (lo + k) 127 (blockCode r.blk) r.off) := by
  obtain ⟨hslot, hplace⟩ := regKey_of_inMap (loc := loc) (inst := lo + k) hmap
  refine ⟨⟨r, hr, hslot⟩, ?_⟩
  rw [hplace]
  omega

/-- Of the registers of the map, only the counters that are named stand under a cleared key. -/
theorem counter_of_keyCleared (hmap : InMap r') (h : KeyCleared loc lo n rs (regKey loc' inst' 127 (blockCode r'.blk) r'.off)) :
    ∃ r ∈ rs, ∃ k < n, regKey loc' inst' 127 (blockCode r'.blk) r'.off = regKey loc (lo + k) 127 (blockCode r.blk) r.off := by
  obtain ⟨⟨r, hr, hslot⟩, hloc, hlo, hhi⟩ := h
  obtain ⟨hslot', hplace⟩ := regKey_of_inMap (loc := loc') (inst := inst') hmap
  rw [hplace] at hloc hlo hhi
  rw [hslot'] at hslot
  have hinst : loc * 8192 + (lo + ((loc' * 8192 + inst') % 8192 - lo)) = loc' * 8192 + inst' := by omega
  refine ⟨r, hr, _, (by omega : (loc' * 8192 + inst') % 8192 - lo < n), ?_⟩
  unfold regKey
  rw [hinst, Nat.add_assoc, Nat.add_assoc]
  exact congrArg (_ + ·) hslot

/-! ### Cleared counters -/

/-- `Cleared`, with the frame stated of the registers that `p` names. -/
def ClearedAmong (p : Reg → Prop) (s t : State) (loc lo n : Nat) (rs : List Reg) : Prop :=
  OnlyRegs s t ∧ (∀ r ∈ rs, ∀ k < n, rd t loc r (lo + k) = 0) ∧
  ∀ loc' r' inst', p r' → (∀ r ∈ rs, ∀ k < n,
      regKey loc' inst' 127 (blockCode r'.blk) r'.off ≠ regKey loc (lo + k) 127 (blockCode r.blk) r.off) →
    rd t loc' r' inst' = rd s loc' r' inst'

theorem cleared_iff : Cleared s t loc lo n rs ↔ ClearedAmong (fun _ => True) s t loc lo n rs := by
  simp [Cleared, ClearedAmong]

theorem clearedAmong_clearRegs : ClearedAmong p s (clearRegs s loc inst rs) loc inst 1 rs := by
  refine ⟨onlyRegs_clearRegs rs, fun r hr k hk => ?_, fun loc' r' inst' _ hne => ?_⟩
  · obtain rfl : k = 0 := by omega
    rw [rd_clearRegs, if_pos ⟨r, hr, rfl⟩]
  · rw [rd_clearRegs, if_neg]
    rintro ⟨r, hr, hkey⟩
    exact hne r hr 0 Nat.one_pos hkey

theorem clearedAmong_clearInsts (hrs : ∀ r ∈ rs, ResetsToZero r) (hn : lo + n ≤ 8192) :
    ClearedAmong InMap s (clearInsts s loc lo n rs) loc lo n rs := by
  refine ⟨onlyRegs_clearInsts lo n rs, fun r hr k hk => ?_, fun loc' r' inst' hmap hne => ?_⟩
  · obtain ⟨hmap, hzero⟩ := hrs r hr
    rw [rd_clearInsts_of_cleared (keyCleared_of_counter hr hmap hk hn), hzero]
    rfl
  · refine rd_clearInsts_of_not_cleared fun hkey => ?_
    obtain ⟨r, hr, k, hk, he⟩ := counter_of_keyCleared hmap hkey
    exact hne r hr k hk he

/-- What the grant and the answer do to the pages changes no counter. -/
theorem ClearedAmong.between (hsu : OnlyPages s u) (h : ClearedAmong p u v loc lo n rs) (hvt : OnlyPages v t) :
    ClearedAmong p s t loc lo n rs := by
  obtain ⟨hregs, hzero, hframe⟩ := h
  refine ⟨hsu.onlyRegs.trans (hregs.trans hvt.onlyRegs), fun r hr k hk => ?_, fun loc' r' inst' hp hne => ?_⟩
  · rw [rd_congr hvt.regs, hzero r hr k hk]
  · rw [rd_congr hvt.regs, hframe loc' r' inst' hp hne, rd_congr hsu.regs]

/-- A granted command whose effect clears counters answers a state in which they are cleared. -/
theorem after_clearing (he : exec i s = command s c b op checks eff) (hg : Grants s c b op checks)
    (h : ClearedAmong p (acting s c b op) (eff (ctxOf s c b op) (acting s c b op)).state loc lo n rs) :
    After i s fun t => ClearedAmong p s t loc lo n rs :=
  ⟨_, he.trans (command_granted hg),
    h.between (onlyPages_acting c op) (onlyPages_settled (onlyPages_answered ..))⟩

/-- The effect of a CLEAR_COUNTERS that names one SEL in ARGUMENT, or all `m` of them by 0xFFFF. -/
def clearOneOrAll (m : Nat) (rs : List Reg) (x : Ctx) (t : State) : Effect :=
  .done (if x.argument = 0xFFFF then clearInsts t x.loc 0 m rs else clearRegs t x.loc x.argument rs)

/-- Granted, the row clears the counters `rs` of the SEL in ARGUMENT, or of all `m` by 0xFFFF: no other register (by
0xFFFF: none of the map), no engine and no memory changes. -/
def ClearsInMap (i : Cmd → Instr) (b : Block) (op : Nat) (checks : State → Ctx → Checks) (m : Nat) (rs : List Reg) : Prop :=
  ∀ c s, Grants s c b op checks → After (i c) s fun t =>
    if c.argument % 65536 = 0xFFFF then ClearedAmong InMap s t (cmdLoc c b) 0 m rs
    else Cleared s t (cmdLoc c b) (c.argument % 65536) 1 rs

theorem clearsInMap {i : Cmd → Instr} (he : ∀ c s, exec (i c) s = command s c b op checks (clearOneOrAll m rs))
    (hrs : ∀ r ∈ rs, ResetsToZero r) (hm : m ≤ 8192) : ClearsInMap i b op checks m rs := by
  intro c s hg
  by_cases hall : c.argument % 65536 = 0xFFFF
  · have heff : (clearOneOrAll m rs (ctxOf s c b op) (acting s c b op)).state =
        clearInsts (acting s c b op) (cmdLoc c b) 0 m rs := if_pos hall
    obtain ⟨t, ht, h⟩ := after_clearing (he c s) hg (heff ▸ clearedAmong_clearInsts hrs (by omega))
    exact ⟨t, ht, (if_pos hall).mpr h⟩
  · have heff : (clearOneOrAll m rs (ctxOf s c b op) (acting s c b op)).state =
        clearRegs (acting s c b op) (cmdLoc c b) (c.argument % 65536) rs := if_neg hall
    obtain ⟨t, ht, h⟩ := after_clearing (he c s) hg (heff ▸ clearedAmong_clearRegs)
    exact ⟨t, ht, (if_neg hall).mpr (cleared_iff.2 h)⟩

/-- What stands of O55: the counters named read 0, a command that names one SEL changes no other register whatever, and one
that names them all no other register of the map. -/
theorem clearCountersClear_inMap :
    (∀ c s, Grants s c .dram 0x10 checksDramClearCounters → After (.dramClearCounters c) s fun t =>
      Cleared s t (cmdLoc c .dram) 0 1 [R.DR_CE, R.DR_UE]) ∧
    (∀ c s, Grants s c .cyclometer 0x12 checksCyClearCounters → After (.cyClearCounters c) s fun t =>
      Cleared s t (cmdLoc c .cyclometer) 0 1 [R.CY_SWEEPS, R.CY_SKIPPED, R.CY_MAP_DENY]) ∧
    (∀ c s, Grants s c .mechanic 0x30 checksMcClearCounters → After (.mcClearCounters c) s fun t =>
      Cleared s t (cmdLoc c .mechanic) 0 1 [R.MC_RENEW_DENIED, R.MC_LOG_LOST]) ∧
    ClearsInMap .detClearCounters .detector 0x14 checksDetClearCounters 1024 [R.DET_PICKUPS] ∧
    ClearsInMap .coasterClearCounters .coaster 0x14 checksCoasterClearCounters 64 [R.ZN_TRIPS] ∧
    ClearsInMap .ingestClearCounters .svIngest 0x13 checksIngestClearCounters 1024 ingestCounters ∧
    ClearsInMap .laneClearCounters .lane 0x16 checksLaneClearCounters 12 laneCounters ∧
    ClearsInMap .taskClearCounters .crankTask 0x10 checksTaskClearCounters 16 taskCounters := by
  simp only [cleared_iff]
  refine ⟨fun c s hg => ?_, fun c s hg => ?_, fun c s hg => ?_, ?_, ?_, ?_, ?_, ?_⟩
  · exact after_clearing (eff := effectDramClearCounters) rfl hg clearedAmong_clearRegs
  · exact after_clearing (eff := effectCyClearCounters) rfl hg clearedAmong_clearRegs
  · exact after_clearing (eff := effectMcClearCounters) rfl hg clearedAmong_clearRegs
  all_goals exact clearsInMap (fun _ _ => rfl) (resetsToZero_of_plain (by decide)) (by decide)

/-! ### A key outside the map -/

/-- A value of `Reg` that is no register of the map: its offset runs past the number of a bank into the next bank's keys, so at
SEL 0 it stands where bank 0 of ZN_TRIPS of zone 1 would. -/
def beyondZoneTrips : Reg := { R.ZN_TRIPS with off := R.ZN_TRIPS.off + 268435456 }

/-- Hub A in RUN, with a 1 under that key. -/
def zonesUp : State :=
  wr { State.reset with rst := [(0, { ResetSt.por with holds := [], released := 8191 })] } 0 beyondZoneTrips 0 1

/-- Initiator 0 clears ZN_TRIPS of every zone of hub A. -/
def clearsEveryZone : Cmd := ⟨0, 0, none, 0, 0xFFFF, ⟨0, none⟩⟩

theorem grants_clearsEveryZone : Grants zonesUp clearsEveryZone .coaster 0x14 checksCoasterClearCounters := by
  decide +kernel

theorem regKey_beyondZoneTrips_ne : regKey 0 0 127 (blockCode beyondZoneTrips.blk) beyondZoneTrips.off ≠
    regKey loc inst 127 (blockCode R.ZN_TRIPS.blk) R.ZN_TRIPS.off := by
  show (127 * 268435456 + 0x44 * 4096 + 268435768 : Nat) ≠ ((loc * 8192 + inst) * 128 + 127) * 268435456 + 0x44 * 4096 + 0x138
  omega

theorem keyCleared_beyondZoneTrips : KeyCleared 0 0 64 [R.ZN_TRIPS]
    (regKey 0 0 127 (blockCode beyondZoneTrips.blk) beyondZoneTrips.off) :=
  ⟨⟨_, List.mem_singleton_self _, by decide⟩, by decide⟩

theorem rd_of_granted (he : exec i s = command s c b op checks eff) (hg : Grants s c b op checks) (ht : exec i s = .next t) :
    rd t loc r inst = rd (eff (ctxOf s c b op) (acting s c b op)).state loc r inst := by
  obtain rfl := Host.Outcome.next.inj ((he.trans (command_granted hg)).symm.trans ht)
  exact rd_congr (onlyPages_settled (onlyPages_answered ..)).regs

/-- Refutes O55: `Cleared` speaks of every value of `Reg`, and a command that names every SEL takes the counters' keys out of the map
in every bank. `beyondZoneTrips` stands under such a key, which is none of the keys of ZN_TRIPS that `Cleared` lets change: it
reads 1 before the command and 0 after it. The registers of the map keep their values (`clearCountersClear_inMap`). -/
theorem not_clearCountersClearsOnlyCounters : ¬ Obligations.ClearCountersClearsOnlyCounters := by
  rintro ⟨-, -, -, -, hzones, -⟩
  obtain ⟨t, ht, hcleared⟩ := hzones clearsEveryZone zonesUp grants_clearsEveryZone
  obtain ⟨-, -, hframe⟩ : Cleared zonesUp t 0 0 64 [R.ZN_TRIPS] := hcleared
  have hkept : rd t 0 beyondZoneTrips 0 = rd zonesUp 0 beyondZoneTrips 0 := hframe 0 beyondZoneTrips 0 fun r hr k _ => by
    obtain rfl := List.mem_singleton.1 hr
    exact regKey_beyondZoneTrips_ne
  have hlost : rd t 0 beyondZoneTrips 0 = 0 :=
    (rd_of_granted (eff := effectCoasterClearCounters) rfl grants_clearsEveryZone ht).trans
      (rd_clearInsts_of_cleared keyCleared_beyondZoneTrips)
  have hset : rd zonesUp 0 beyondZoneTrips 0 = 1 := rd_wr_same
  omega

end Sys2Proof.Machine
end

section
/-!
PROOFS of the Peloton's statements: the order of deadlines (R274), and the events of the Peloton complete (R268, R272, R273, R277,
R279, R283, R285, R291, R294).
-/
namespace Sys2Proof.Machine

variable {a b : Item}

/-! ### The order of deadlines (R274) -/

/-- What R274 compares: the deadline without its low 4 bits, and for no deadline a value above every 64-bit one. -/
def deadlineKey (i : Item) : Nat := if i.deadline = 0 then 2 ^ 64 else i.deadline / 16

theorem deadlineKey_of_zero (h : a.deadline = 0) : deadlineKey a = 2 ^ 64 := if_pos h

theorem deadlineKey_of_ne_zero (h : a.deadline ≠ 0) : deadlineKey a = a.deadline / 16 := if_neg h

/-- The order is the lexicographic one on the compared deadline and the admission. -/
theorem earlier_iff : earlier a b = true ↔ deadlineKey a < deadlineKey b ∨ deadlineKey a = deadlineKey b ∧ a.adm < b.adm := by
  simp [earlier, deadlineKey]

theorem earlier_asymm (h : earlier a b = true) : earlier b a = false := by
  rw [← Bool.not_eq_true, earlier_iff]
  rw [earlier_iff] at h
  omega

theorem earlier_of_key_lt (h : deadlineKey a < deadlineKey b) : earlier a b = true ∧ earlier b a = false :=
  have hab := earlier_iff.2 (.inl h)
  ⟨hab, earlier_asymm hab⟩

theorem earlier_of_key_eq (h : deadlineKey a = deadlineKey b) (hadm : a.adm < b.adm) : earlier a b = true ∧ earlier b a = false :=
  have hab := earlier_iff.2 (.inr ⟨h, hadm⟩)
  ⟨hab, earlier_asymm hab⟩

/-- Settles O47: each clause compares the two keys, and a 64-bit deadline's key lies below that of no deadline. -/
theorem deadlineOrder : Obligations.DeadlineOrder := by
  intro a b ha _
  refine ⟨fun hna hzb => ?_, fun hna hnb hlt => ?_, fun hna hnb heq hadm => ?_, fun hza hzb hadm => ?_⟩
  · refine earlier_of_key_lt ?_
    rw [deadlineKey_of_ne_zero hna, deadlineKey_of_zero hzb]
    exact Nat.lt_of_le_of_lt (Nat.div_le_self ..) ha
  · refine earlier_of_key_lt ?_
    rwa [deadlineKey_of_ne_zero hna, deadlineKey_of_ne_zero hnb]
  · refine earlier_of_key_eq ?_ hadm
    rwa [deadlineKey_of_ne_zero hna, deadlineKey_of_ne_zero hnb]
  · refine earlier_of_key_eq ?_ hadm
    rw [deadlineKey_of_zero hza, deadlineKey_of_zero hzb]

/-! ### The events of the Peloton complete -/

/-- Settles O19: each row's answer where what it takes (an offer, a firing, a waiting take, a blocking item) stands there and its
time has come. -/
theorem pelotonEventsComplete : Obligations.PelotonEventsComplete := by
  refine ⟨?_, ?_, ?_, ?_, ?_, ?_, ?_, ?_⟩
  · intro o rest s ho
    show execPelotonOffer s = _
    simp only [execPelotonOffer, ho]
  · intro die s hrun
    exact congrArg Host.Outcome.next (if_pos hrun)
  · intro die s hrun hon
    exact if_neg (by simp [hrun, hon])
  · intro die s hrun hwalk
    exact if_neg (by simp [hrun, hwalk])
  · intro die f s hf hrun hon hreach
    show execPelotonTick die s = _
    simp only [execPelotonTick, hf]
    exact if_pos (by simp [hrun, hon, hreach])
  · intro die s0 hdue s hrun hon
    refine (if_neg (by simp [hdue])).trans ?_
    exact if_pos (Bool.and_eq_true_iff.2 ⟨hrun, hon⟩)
  · intro die ini w s hw hrun
    refine ⟨fun hlimit hdue => ?_, ?_⟩
    · show execTakeTimeout die ini s = _
      simp only [execTakeTimeout, hw]
      exact if_pos (by simpa [hrun, hdue] using hlimit)
    · show execTakeIrqEnd die ini s = _
      simp only [execTakeIrqEnd, hw]
      exact if_pos hrun
  · intro die flow i s hi hrun hhold hdeadline hpast
    show execFlowHoldExpiry die flow s = _
    simp only [execFlowHoldExpiry, hi]
    exact if_pos (by simp [hrun, hhold, hdeadline, hpast])

end Sys2Proof.Machine
end

section
/-!
PROOFS of the statements of the compute dies and of virtual instances: their commands and their events complete (R309, R317,
R318, R321, R323, R324, R327, R329, R331, R332, R334, R335, R337, R339 to R342, R345).
-/
namespace Sys2Proof.Machine

variable {s t : State} {x : Ctx} {die : Nat} {m : Msi} {rest : List Msi} {k : Ticket}

/-! ### The commands of the compute dies -/

/-- RX_RESTART ends with DONE whether or not its entry has stopped on a fault (R323). -/
theorem effectRxRestart_code : (effectRxRestart x t).code = .done := by
  unfold effectRxRestart
  dsimp only
  split
  · rfl
  · split <;> rfl

/-- Settles O5: each of these rows is a write of CMD whose effect ends with one code. -/
theorem viCommandsComplete : Obligations.ViCommandsComplete := by
  refine ⟨?_, ?_, ?_, ?_, ?_, completes_of_code (fun _ _ => rfl) fun _ _ => effectRxRestart_code, ?_, ?_, ?_, ?_, ?_, ?_, ?_,
    ?_, ?_, ?_, ?_, ?_, ?_, ?_⟩
  all_goals exact completes_of_code (fun _ _ => rfl) fun _ _ => rfl

/-! ### Interrupts, and the commands of the dirty log (R309, R339, R340) -/

/-- An MSI for an identity that its file has and does not hold becomes pending there (R309). -/
theorem msiReceive_pends {f : Nat} (hq : s.msis = m :: rest) (hf : fileAt s m.addr = some f) (hlo : 1 ≤ m.data)
    (hhi : m.data ≤ 255) (hnew : m.data ∉ mget [] s.files f) :
    Goes .msiReceive s { s with msis := rest, files := mput f (mget [] s.files f ++ [m.data]) s.files } := by
  show execMsiReceive s = _
  simp only [execMsiReceive, hq, hf]
  exact if_pos ⟨hlo, hhi, by simpa using hnew⟩

/-- An MSI without a file, with an identity that no file has (R309, assumption 41), or pending already only leaves the queue. -/
theorem msiReceive_discards (hq : s.msis = m :: rest)
    (h : ∀ f, fileAt s m.addr = some f → ¬ (1 ≤ m.data ∧ m.data ≤ 255 ∧ m.data ∉ mget [] s.files f)) :
    Goes .msiReceive s { s with msis := rest } := by
  show execMsiReceive s = _
  simp only [execMsiReceive, hq]
  cases hf : fileAt s m.addr with
  | none => rfl
  | some f => exact if_neg (by simpa using h f hf)

/-- The command of the dirty log that runs ends with DONE on the state that its opcode leaves (R339, R340). -/
theorem dirtyLogDone_of_running (hrun : domRun s die 10 = true)
    (hk : (hdr s die .dirtyLog).running.find? (fun k => decide (0x10 ≤ k.op ∧ k.op ≤ 0x12)) = some k) :
    let l := logOf s k.inst
    (k.op = 0x10 → Goes (.dirtyLogDone die) s
      (finish (setLog s k.inst { l with on := decide (l.pages ≠ 0) }) die .dirtyLog k .done 0)) ∧
    (k.op = 0x11 → Goes (.dirtyLogDone die) s (finish
      (hwEvent (wr (incr (putSwapping (setLog s k.inst { l with active := 1 - l.active }) die k.inst false)
        die R.LOG_SWAPS k.inst 1) die R.LOG_SWAP_CTS k.inst (ctsNow s die)) die .dirtyLog 1) die .dirtyLog k .done 0)) ∧
    (k.op = 0x12 → Goes (.dirtyLogDone die) s (finish (setLog s k.inst DirtyLog.off) die .dirtyLog k .done 0)) := by
  refine ⟨fun hop => ?_, fun hop => ?_, fun hop => ?_⟩
  all_goals
    show execDirtyLogDone die s = _
    simp only [execDirtyLogDone, hrun, hk, hop, Bool.not_true, Bool.false_eq_true, if_false]

/-! ### The events of the compute dies and of virtual instances complete -/

/-- Settles O20: each row's answer where what it takes (an MSI, a walk, a frame, a running command) stands first and the state of
the die or of the VI lets it. -/
theorem computeAndViEventsComplete : Obligations.ComputeAndViEventsComplete := by
  refine ⟨?_, ?_, ?_, ?_, ?_, ?_, ?_, ?_, ?_, ?_, ?_⟩
  · intro m rest s hq
    refine ⟨fun f => msiReceive_pends hq, fun h => msiReceive_discards hq ?_⟩
    rintro f hf ⟨hlo, hhi, hnew⟩
    obtain h | h | h | ⟨f', hf', hmem⟩ := h
    · simp [h] at hf
    · omega
    · omega
    · obtain rfl := Option.some.inj (hf.symm.trans hf')
      exact hnew hmem
  · intro hub vi s hrun
    exact congrArg Host.Outcome.next (if_pos hrun)
  · intro die w rest s hq hrun
    refine ⟨fun hl => ?_, fun l hl => ?_⟩
    · show execXlateWalkDone die s = _
      simp [execXlateWalkDone, hq, hrun, hl]
    · show execXlateWalkDone die s = _
      simp only [execXlateWalkDone, hq, hrun, hl, Bool.not_true, Bool.false_eq_true, if_false]
      exact (apply_ite Host.Outcome.next ..).symm
  · intro die s hrun
    exact congrArg Host.Outcome.next (if_pos hrun)
  · intro hub f rest s hq
    show execRxFrame hub s = _
    simp only [execRxFrame, hq]
  · intro hart compare s hhart hrun
    have hguard : (decide (hart < 96) && domRun s (hartDie hart) 12) = true := by simp [hhart, hrun]
    refine ⟨fun hlate => (if_pos hguard).trans ?_, fun hdue => (if_pos hguard).trans ?_⟩
    · rw [if_pos hlate]
    · rw [if_neg (by omega)]
  · intro vi gpa bytes s hvi
    refine ⟨fun hin => (if_neg hvi).trans (if_neg (by simp [hin])), fun hcross => (if_neg hvi).trans (if_pos hcross)⟩
  · intro vi s hst
    refine ⟨fun hkill hdue => ?_, fun part hpart hquiet => ?_, fun hfirst hdue => ?_⟩
    · exact if_pos (by simp [hst, hkill, hdue])
    · exact if_pos (by simp [hst, hpart, hquiet])
    · exact if_pos (by simpa [hst, hfirst] using hdue)
  · intro vi s hst hrun
    exact if_pos (by simp [hst, hrun])
  · intro vi s hst
    refine ⟨fun hfirst hcut => ?_, fun hout hvalid hdue => ?_⟩
    · exact if_pos (by simp [hst, hfirst, hcut])
    · exact if_pos (by simp [hst, hout, hvalid, hdue])
  · intro die k s hrun
    refine ⟨fun hk => ?_, fun hk => ?_, fun hk => ?_, fun hk => dirtyLogDone_of_running hrun hk⟩
    · show execViSaveDone die s = _
      simp only [execViSaveDone, hk, hrun, if_true]
    · show execViRestoreDone die s = _
      simp only [execViRestoreDone, hk, hrun, if_true]
    · show execShareApplyDone die s = _
      simp only [execShareApplyDone, hk, hrun, if_true]

end Sys2Proof.Machine
end

section
/-!
PROOFS of the statements of the Crank, the retain memory and the capture engine: their commands complete (R359, R373, R375 to R377,
R382, R384, R385, R390, R410, R418, R427), and so do the events of the Crank's scans, of its window, of the journal and of power
failure (R348, R359, R361, R363, R371, R376 to R378, R380, R391).
-/
namespace Sys2Proof.Machine

variable {s t : State} {x : Ctx} {die off hub : Nat} {bytes : List Byte} {w : Who}

/-! ### The commands of the Crank and of capture -/

/-- CR_STEP_MODE ends with DONE whether the mode changes at once or waits for a boundary (R375). -/
theorem effectCrStepMode_code : (effectCrStepMode x t).code = .done := by
  unfold effectCrStepMode
  dsimp only
  split <;> rfl

/-- A record that fits its owner's share is enabled (R333, R427). -/
theorem effectCapEnable_code (h : recordFits t x) : (effectCapEnable x t).code = .done := by
  unfold effectCapEnable
  dsimp only
  rw [if_pos (show ownerShare .. = true from h)]
  rfl

/-- CAP_RELEASE ends with DONE whether or not its record was HELD (R427). -/
theorem effectCapRelease_code : (effectCapRelease x t).code = .done := by
  unfold effectCapRelease
  dsimp only
  split
  · rfl
  · split <;> rfl

/-- Settles O6: each of these rows is a write of CMD whose effect ends with one code, for CAP_ENABLE where the record fits its
owner's share. -/
theorem crankAndCaptureCommandsComplete : Obligations.CrankAndCaptureCommandsComplete := by
  refine ⟨?_, ?_, ?_, ?_, completes_of_code (fun _ _ => rfl) fun _ _ => effectCrStepMode_code, ?_, ?_, ?_, ?_, ?_, ?_, ?_, ?_, ?_,
    completesWhen_of_code (fun _ _ => rfl) fun _ _ => effectCapEnable_code, ?_, ?_, ?_,
    completes_of_code (fun _ _ => rfl) fun _ _ => effectCapRelease_code, ?_⟩
  all_goals exact completes_of_code (fun _ _ => rfl) fun _ _ => rfl

/-! ### What the Crank's registers leave of the state -/

theorem OnlyRegs.keys (h : OnlyRegs s t) : t.keys = s.keys := by
  obtain ⟨_, _, _, _, _, _, _, _, _, _, _, rfl⟩ := onlyRegs_iff.1 h
  rfl

/-- The registers that follow the engine are all that `showCrank` sets. -/
theorem onlyRegs_showCrank : OnlyRegs s (showCrank s die) :=
  onlyRegs_ite ((onlyRegs_wrAll _).trans (onlyRegs_foldl _ (fun _ _ => onlyRegs_wr ..) _ _)) .refl

theorem showCrank_resp : (showCrank s die).resp = s.resp := by
  unfold showCrank
  dsimp only
  split
  · exact List.foldlRecOn (motive := fun (u : State) => u.resp = s.resp) _ _ rfl fun _ h _ _ => (wr_resp ..).trans h
  · rfl

/-! ### A write of the window (R348) -/

/-- A write that meets the engine: 4 or 8 bytes at an aligned offset of the window of a compute die whose Crank runs, by an
initiator other than a guest, debug only once it is unlocked. -/
structure ReachesWindow (s : State) (die off : Nat) (bytes : List Byte) (w : Who) : Prop where
  present : present s die = true
  compute : isHub die = false
  noGuest : w.vi = none
  length : bytes.length = 4 ∨ bytes.length = 8
  aligned : off % bytes.length = 0
  fits : off + bytes.length ≤ 0x100000
  runs : domRun s die 11 = true
  initiator : w.ini < 112 ∨ (w.ini = 112 ∧ debugUnlocked s = true)

/-- No guard stops such a write: a quiet engine's image takes it, and any other counts it as ignored. -/
theorem exec_crankWindowWrite_of_reaches (h : ReachesWindow s die off bytes w) : exec (.crankWindowWrite die off bytes w) s =
    if rtQuiet s die then
      let s1 := writeBytes { s with resp := .value 0 } (crWindow die + off) bytes
      let words := (List.range (bytes.length / 4)).map (fun i => off + 4 * i)
      let c1 := words.foldl (fun q o => if 16 * q.p.cells ≤ o ∧ (o - 16 * q.p.cells) / 4 < q.p.vars then
        markRetain q ((o - 16 * q.p.cells) / 4) else q) (crOf s die)
      crankOut die (setCr s1 die { c1 with reload := c1.reload || touchesProgram (windowCells s die) off bytes.length })
    else .next (hwEvent (incr { s with resp := .value 0 } die R.WIN_IGNORED 0 1) die .crank 7) := by
  obtain ⟨hpresent, hdie, hvi, hlen, halign, hfit, hrun, hini⟩ := h
  have hwidth : (bytes.length == 4 || bytes.length == 8) = true := by simpa using hlen
  have hreach : ¬ 112 < w.ini := by omega
  have hdebug : (w.ini == 112 && !(debugUnlocked s)) = false := by
    obtain h | ⟨-, h⟩ := hini
    · simp [Nat.ne_of_lt h]
    · simp [h]
  refine (if_neg ?_).trans (if_neg ?_)
  · simp [hpresent, hdie, hvi, hwidth, halign, hfit, hreach]
  · simp [hrun, hdebug]

theorem crankWindowWrite_ignored (h : ReachesWindow s die off bytes w) (hq : rtQuiet s die = false) :
    Goes (.crankWindowWrite die off bytes w) s (hwEvent (incr { s with resp := .value 0 } die R.WIN_IGNORED 0 1) die .crank 7) := by
  refine (exec_crankWindowWrite_of_reaches h).trans (if_neg ?_)
  simp [hq]

theorem crankWindowWrite_stored (h : ReachesWindow s die off bytes w) (hq : rtQuiet s die = true) :
    After (.crankWindowWrite die off bytes w) s fun t =>
      t.mem = (writeBytes s (crWindow die + off) bytes).mem ∧ t.resp = .value 0 ∧ t.ctrs = s.ctrs ∧ t.keys = s.keys :=
  ⟨_, (exec_crankWindowWrite_of_reaches h).trans (if_pos hq), onlyRegs_showCrank.mem, showCrank_resp, onlyRegs_showCrank.ctrs,
    onlyRegs_showCrank.keys⟩

/-! ### The events of the Crank and of the retain memory complete -/

/-- Settles O21: each row's answer where what it takes (a firing, a scan, a release, a record, a ticket) stands there and the domain
that acts runs. -/
theorem crankAndRetainEventsComplete : Obligations.CrankAndRetainEventsComplete := by
  refine ⟨?_, ?_, ?_, ?_, ?_, ?_, ?_, ?_, ?_, ?_, ?_, ?_⟩
  · intro die f s hf s1 hrun hreach
    show execCrankBoundary die s = _
    simp only [execCrankBoundary, hf]
    exact if_pos (Bool.and_eq_true_iff.2 ⟨hrun, hreach⟩)
  · intro die s c cycle hrun hmakes hdue
    exact if_pos (Bool.and_eq_true_iff.2 ⟨Bool.and_eq_true_iff.2 ⟨hrun, hmakes⟩, decide_eq_true hdue⟩)
  · intro die entry cts s hrun hactive
    exact if_pos (Bool.and_eq_true_iff.2 ⟨hrun, hactive⟩)
  · intro die x s hx hrun hstep
    show execCrankScanEnd die s = _
    simp only [execCrankScanEnd, hx]
    exact if_pos (by simp [hrun, hstep])
  · intro die task r s c hr hrun hlate
    show execCrankOverrun die task s = _
    dsimp only [c] at hr
    simp only [execCrankOverrun, hr]
    exact if_pos (Bool.and_eq_true_iff.2 ⟨hrun, hlate⟩)
  · intro die s hrun hloading
    refine (if_pos (by simp [hrun, hloading])).trans ?_
    exact (apply_ite (crankOut die) ..).symm
  · intro die n kind s hstart hrun hready
    show execCrankRestartDone die s = _
    simp only [execCrankRestartDone, hstart]
    exact if_pos (by simp [hrun, hready])
  · intro die off bytes w s hpresent hdie hvi hlen halign hfit hrun hini
    have h : ReachesWindow s die off bytes w := ⟨hpresent, hdie, hvi, hlen, halign, hfit, hrun, hini⟩
    exact ⟨crankWindowWrite_ignored h, crankWindowWrite_stored h⟩
  · intro die hub r s hr
    refine ⟨fun htakes hreach => ?_, ?_⟩
    · show execJournalCommit die hub s = _
      simp only [execJournalCommit, hr]
      exact if_pos (Bool.and_eq_true_iff.2 ⟨htakes, hreach⟩)
    · show execRetainWriteError die hub s = _
      simp only [execRetainWriteError, hr]
      rfl
  · intro hub s hhub hrun hactive
    exact if_pos (by simp [hhub, hrun, hactive])
  · intro hub s hmem hactive hdue
    exact if_pos (List.any_eq_true.2 ⟨hub, hmem, by simp [hactive, hdue]⟩)
  · intro hub k s hk hrun
    show execRtClearDone hub s = _
    simp only [execRtClearDone, hk]
    exact if_pos hrun

end Sys2Proof.Machine
end
section
/-!
PROOFS of the statements of steps and of the commands of the key vault, of reset and the Mechanic, and of the recorder, the
Coaster and the Tandem lane: a step runs the front command, and each of these commands completes (R433, R446, R452, R475, R478,
R503, R504, R510, R521, R530, R535, R537, R559, R560, R566, R568, R580, R581, R585, R594).
-/
namespace Sys2Proof.Machine

variable {s t : State} {x : Ctx} {op : Nat} {i : Cmd → Instr}

/-- Settles O1: what `step` does where the queue is not empty. -/
theorem stepRunsFrontCommand : Obligations.StepRunsFrontCommand := by
  intro c rest s h
  simp only [step, h]

/-! ### The commands of the key vault (R503, R504) -/

/-- A vault command that the engine takes waits for it (R503). -/
theorem keyGrant_code (h : vaultTakes op t x) : (keyGrant x op t).code = .accepted := by
  obtain ⟨hsealed, hblocked, hroom⟩ := h
  unfold keyGrant
  simp only [hsealed, hblocked, Bool.false_eq_true, if_false]
  by_cases hopen : vaultState t (keyArgs t x.loc x.blk x.who.ini x.sub x.argument).hub = 1
  · obtain ⟨hslots, howner⟩ := hroom hopen
    simp only [hslots, howner, Bool.not_true, Bool.and_false, Bool.false_eq_true, if_false]
    rfl
  · simp only [hopen, decide_false, Bool.false_and, Bool.false_eq_true, if_false]
    rfl

/-- A row that is a vault command is accepted where the engine takes it. -/
theorem vaultAccepts_of (he : ∀ c s, exec (i c) s = keyCommand c op s) : VaultAccepts i op :=
  fun c s => completesAt_of (he c s) fun _ _ h => List.mem_singleton.2 (keyGrant_code h)

/-- Settles O7: each of these rows is a vault command, but for the two that clear counters. -/
theorem vaultCommandsComplete : Obligations.VaultCommandsComplete := by
  refine ⟨?_, ?_, ?_, ?_, ?_, ?_, ?_, ?_, ?_, ?_, ?_, ?_, ?_, ?_, ?_, ?_, ?_, ?_,
    completes_of_code (fun _ _ => rfl) fun _ _ => rfl,
    fun c s => completesAt_of rfl fun _ _ _ => List.mem_singleton_self _⟩
  all_goals exact vaultAccepts_of fun _ _ => rfl

/-! ### The commands of reset, of the Mechanic and of PMBus -/

/-- Settles O8: each of these rows is a write of CMD whose effect ends with one code. -/
theorem resetAndMechanicCommandsComplete : Obligations.ResetAndMechanicCommandsComplete := by
  refine ⟨?_, ?_, ?_, ?_, ?_, ?_, ?_, ?_, ?_, ?_, ?_, ?_, ?_, ?_, ?_, ?_, ?_, ?_, ?_⟩
  all_goals exact completes_of_code (fun _ _ => rfl) fun _ _ => rfl

/-! ### The commands of the recorder, the Cyclometer, the Coaster and the Tandem lane -/

/-- Settles O9: each of these rows is a write of CMD whose effect ends with one code. -/
theorem recorderCoasterAndTandemCommandsComplete : Obligations.RecorderCoasterAndTandemCommandsComplete := by
  refine ⟨?_, ?_, ?_, ?_, ?_, ?_, ?_, ?_, ?_, ?_, ?_, ?_, ?_, ?_, ?_, ?_, ?_, ?_, ?_, ?_, ?_, ?_, ?_⟩
  all_goals exact completes_of_code (fun _ _ => rfl) fun _ _ => rfl

end Sys2Proof.Machine
end
section
/-!
PROOFS of the Tandem lane's statements: a module that takes the lease sets a rising epoch (R462, R470), and what its change of
role brings (its gate, its lines, its zones and their frames) leaves the role machines as they are.
-/
namespace Sys2Proof.Machine

variable {s t : State} {hub loc inst n m : Nat} {b : Block} {f : State → State} {fin : FrameIn} {mk : Nat → List Byte}

/-! ### Pages, registers and stamps leave the role machines -/

theorem OnlyRegs.tandems (h : OnlyRegs s t) : t.tandems = s.tandems := by
  obtain ⟨_, _, _, _, _, _, _, _, _, _, _, rfl⟩ := onlyRegs_iff.1 h
  rfl

theorem foldl_tandems {α : Type} {f : State → α → State} (hf : ∀ u a, (f u a).tandems = u.tandems) (l : List α) (s : State) :
    (l.foldl f s).tandems = s.tandems := foldl_keeps State.tandems hf l s

@[simp] theorem wr_tandems (r : Reg) (v : Nat) : (wr s loc r inst v).tandems = s.tandems := (onlyRegs_wr r v).tandems
@[simp] theorem incr_tandems (r : Reg) (k : Nat) : (incr s loc r inst k).tandems = s.tandems := (onlyRegs_incr r k).tandems
@[simp] theorem cyc_tandems (code w : Nat) (vi : Option Nat) : (cyc s loc b code inst w vi).tandems = s.tandems :=
  (onlyPages_cyc code w vi).onlyRegs.tandems
@[simp] theorem drew_tandems : (drew s).tandems = s.tandems := rfl
@[simp] theorem tickSrcBy_tandems (k : Nat) : (tickSrcBy s loc n k).tandems = s.tandems := rfl
@[simp] theorem hwEvent_tandems : (hwEvent s loc b n).tandems = s.tandems := onlyPages_hwEvent.onlyRegs.tandems
@[simp] theorem wrAll_tandems (rs : List (Reg × Nat)) : (wrAll s loc inst rs).tandems = s.tandems := (onlyRegs_wrAll rs).tandems
@[simp] theorem setSw_tandems (w : Switch) : (setSw s hub w).tandems = s.tandems := rfl
@[simp] theorem setLane_tandems (l : Lane) : (setLane s hub l).tandems = s.tandems := rfl
@[simp] theorem setCo_tandems (c : Coaster) : (setCo s hub c).tandems = s.tandems := rfl
@[simp] theorem putLine_tandems (l : TripLine) : (putLine s hub n l).tandems = s.tandems := rfl
@[simp] theorem pushEdge_tandems (kind i : Nat) (on : Bool) (cts : Nat) : (pushEdge s hub kind i on cts).tandems = s.tandems := rfl

/-- What acts on a hand-off keeps the role machines where what it does keeps them. -/
theorem causedBy_tandems (c : Nat) (h : ∀ u, (f u).tandems = u.tandems) : (causedBy c f s).tandems = s.tandems := h _

/-! ### Triggers, lines and zones (R36, R439, R579) -/

@[simp] theorem snapFire_tandems (h cause i : Nat) : (snapFire h cause s i).tandems = s.tandems := by
  unfold snapFire
  dsimp only
  split
  · split
    · exact causedBy_tandems _ fun _ => by simp
    · rfl
  · rfl

@[simp] theorem freezeFire_tandems (h code cause : Nat) : (freezeFire s h code cause).tandems = s.tandems := by
  unfold freezeFire
  dsimp only
  split <;> rfl

@[simp] theorem fireTrigger_tandems (h code cause : Nat) : (fireTrigger s h code cause).tandems = s.tandems := by
  have hsets (l : List Nat) : (l.foldl (snapFire h cause) s).tandems = s.tandems := foldl_tandems (fun _ _ => snapFire_tandems ..) ..
  simp only [fireTrigger, apply_ite State.tandems, freezeFire_tandems, hsets, ite_self]

@[simp] theorem showLines_tandems : (showLines s hub).tandems = s.tandems := by
  unfold showLines
  dsimp only
  split
  · exact foldl_tandems (fun _ _ => wr_tandems ..) ..
  · rfl

@[simp] theorem refreshLine_tandems : (refreshLine hub s n).tandems = s.tandems := by
  simp only [refreshLine, apply_ite State.tandems, putLine_tandems, pushEdge_tandems, fireTrigger_tandems, incr_tandems,
    hwEvent_tandems, wr_tandems, drew_tandems, ite_self]

@[simp] theorem refreshLines_tandems : (refreshLines s hub).tandems = s.tandems :=
  showLines_tandems.trans (foldl_tandems (fun _ _ => refreshLine_tandems) ..)

@[simp] theorem showZones_tandems : (showZones s hub).tandems = s.tandems := foldl_tandems (fun _ _ => wr_tandems ..) ..

/-! ### A frame enters the switch (R126, R132, R145, R157 to R159) -/

@[simp] theorem refreshFree_tandems : (refreshFree s hub).tandems = s.tandems := by
  simp only [refreshFree, apply_ite State.tandems, hwEvent_tandems, wr_tandems, ite_self]

@[simp] theorem storeFrame_tandems (w : Stored) : (storeFrame s hub w).tandems = s.tandems := refreshFree_tandems

@[simp] theorem dropCopy_tandems (j : Nat) (r : Reg) : (dropCopy s hub j r).tandems = s.tandems := rfl
@[simp] theorem dropQueue_tandems (j c : Nat) (r : Reg) : (dropQueue s hub j c r).tandems = s.tandems := rfl

@[simp] theorem showDepth_tandems : (showDepth hub s n).tandems = s.tandems := by
  simp [showDepth]

@[simp] theorem pushCopy_tandems (k : Copy) : (pushCopy s hub k).tandems = s.tandems :=
  (cyc_tandems ..).trans (showDepth_tandems.trans (setSw_tandems _))

@[simp] theorem wred_tandems (j c colour : Nat) : (wred s hub j c colour).1.tandems = s.tandems := by
  simp only [wred, apply_ite Prod.fst, apply_ite State.tandems, drew_tandems, wr_tandems, setSw_tandems, ite_self]

@[simp] theorem badBytes_tandems (i len bad : Nat) : (badBytes s hub i len bad).1.tandems = s.tandems := by
  unfold badBytes
  split <;> rfl

@[simp] theorem admitCopy_tandems (i j c colour fid len bad : Nat) :
    (admitCopy s hub i j c colour fid len bad).state.tandems = s.tandems := by
  simp only [admitCopy, apply_ite CopyOut.state, apply_ite State.tandems, dropCopy_tandems, dropQueue_tandems, hwEvent_tandems,
    wred_tandems, badBytes_tandems, pushCopy_tandems, incr_tandems, ite_self]

@[simp] theorem mirrorCopy_tandems (i fid colour : Nat) (form : Frame) (stomp : Bool) :
    (mirrorCopy s hub n i fid colour form stomp).1.tandems = s.tandems := by
  simp only [mirrorCopy, apply_ite Prod.fst, apply_ite State.tandems, wred_tandems, pushCopy_tandems, incr_tandems, ite_self]

@[simp] theorem mirrorIn_tandems (i fid colour : Nat) (form : Frame) :
    (mirrorIn s hub i fid colour form).1.tandems = s.tandems :=
  List.foldlRecOn (motive := fun (acc : State × Nat) => acc.1.tandems = s.tandems) _ _ rfl fun _ h _ _ =>
    (mirrorCopy_tandems ..).trans h

@[simp] theorem keepRefs_tandems (fid refs : Nat) : (keepRefs s hub fid refs).tandems = s.tandems := by
  simp only [keepRefs, apply_ite State.tandems, refreshFree_tandems, setSw_tandems, ite_self]

@[simp] theorem stompRec_tandems (stomps : List Nat) (reason : Nat) : (stompRec s hub fin stomps reason).tandems = s.tandems := by
  unfold stompRec
  split
  · rfl
  · exact (onlyPages_eventRec ..).onlyRegs.tandems

@[simp] theorem samplerGap_tandems : (samplerGap s hub n).1.tandems = s.tandems := by
  unfold samplerGap
  dsimp only
  split <;> rfl

@[simp] theorem putSession_tandems (k : Session) : (putSession s hub n k).tandems = s.tandems := rfl

@[simp] theorem pushSample_tandems (port : Nat) (bs : List Byte) : (pushSample s hub port fin bs).tandems = s.tandems := by
  simp only [pushSample, apply_ite State.tandems, wred_tandems, dropQueue_tandems, pushCopy_tandems, storeFrame_tandems, ite_self]

@[simp] theorem sampleTake_tandems : (sampleTake s hub n).1.tandems = s.tandems := by
  simp only [sampleTake, apply_ite Prod.fst, apply_ite State.tandems, samplerGap_tandems, ite_self]

@[simp] theorem sampleOne_tandems (port : Nat) (egress dropped : Bool) :
    (sampleOne hub port egress dropped fin mk s n).tandems = s.tandems := by
  simp only [sampleOne, apply_ite State.tandems, incr_tandems, pushSample_tandems, putSession_tandems, sampleTake_tandems, ite_self]

@[simp] theorem samplers_tandems (port : Nat) (egress dropped : Bool) :
    (samplers s hub port egress dropped fin mk).tandems = s.tandems := foldl_tandems (fun _ _ => sampleOne_tandems ..) ..

@[simp] theorem enterCopies_tandems (form : Frame) (ports : List Nat) (cls colour bad : Nat) :
    (enterCopies s hub fin form ports cls colour bad).tandems = s.tandems := by
  have hcopies (fid : Nat) (l : List Nat) (u : State) : (l.foldl (fun (acc : State × List (Nat × CopyOut)) j =>
      let o := admitCopy acc.1 hub fin.port j cls colour fid fin.frame.len bad
      (o.state, acc.2 ++ [(j, o)])) (u, [])).1.tandems = u.tandems :=
    List.foldlRecOn (motive := fun (acc : State × List (Nat × CopyOut)) => acc.1.tandems = u.tandems) _ _ rfl fun _ h _ _ =>
      (admitCopy_tandems ..).trans h
  simp only [enterCopies, samplers_tandems, stompRec_tandems, keepRefs_tandems, apply_ite Prod.fst, apply_ite State.tandems,
    mirrorIn_tandems, hcopies, storeFrame_tandems, ite_self]

@[simp] theorem countRx_tandems : (countRx s hub fin).tandems = s.tandems := by
  simp only [countRx, cyc_tandems, apply_ite State.tandems, incr_tandems, ite_self]

@[simp] theorem injectP15_tandems (g : Frame) (ports : List Nat) (cls : Nat) : (injectP15 s hub g ports cls).tandems = s.tandems := by
  simp [injectP15, tickSrc]

/-! ### The Coaster's frames (R441) and the gate (R473) -/

@[simp] theorem tagFrame_tandems (slot : Nat) (g : Frame) : (tagFrame s hub slot g).1.tandems = s.tandems := by
  simp [tagFrame, useKey, apply_ite Prod.fst, apply_ite State.tandems]

@[simp] theorem emitFrame_tandems (g : CoFrame) : (emitFrame s hub g).tandems = s.tandems := by
  have htag (c : Bool) (slot : Nat) (u : State) (h : Frame) :
      (if c then tagFrame u hub slot h else (u, some h)).1.tandems = u.tandems := by
    split
    · exact tagFrame_tandems ..
    · rfl
  unfold emitFrame
  dsimp only
  split
  · split
    · exact htag ..
    · exact (injectP15_tandems ..).trans (htag ..)
  · rfl

@[simp] theorem putFrame_tandems (e : Nat) (g : CoFrame) : (putFrame s hub e g).tandems = s.tandems := rfl

@[simp] theorem changeFrame_tandems (data : Bool) (cts e : Nat) : (changeFrame hub data cts s e).tandems = s.tandems := by
  unfold changeFrame
  split
  · rfl
  · simp [apply_ite State.tandems]

@[simp] theorem zoneFrames_tandems (z : Zone) (fs : List Nat) (data : Bool) (cts : Nat) :
    (zoneFrames s hub z fs data cts).tandems = s.tandems := by
  unfold zoneFrames
  split
  · rfl
  · exact foldl_tandems (fun _ _ => changeFrame_tandems ..) ..

@[simp] theorem gateChanged_tandems (opened : Bool) : (gateChanged s hub opened).tandems = s.tandems := by
  unfold gateChanged
  dsimp only
  split
  · split
    · refine (foldl_tandems (fun _ _ => ?_) ..).trans (by simp)
      exact (causedBy_tandems _ fun _ => zoneFrames_tandems ..).trans (tickSrcBy_tandems _)
    · simp
  · rfl

/-! ### The role machine (R462, R468, R470) -/

/-- Role machines read alike in states with the same ones. -/
theorem tdOf_congr (h : t.tandems = s.tandems) : tdOf t hub = tdOf s hub := by rw [tdOf, h, tdOf]

@[simp] theorem tdOf_setTd_same (d : Tandem) : tdOf (setTd s hub d) hub = d := mget_mput_same ..

@[simp] theorem showTd_tandems : (showTd s hub).tandems = s.tandems := by
  unfold showTd
  split
  · exact wrAll_tandems _
  · rfl

/-- A changed role machine is as it was put, whatever its gate brings to the outputs (R473). -/
@[simp] theorem tdOf_putTd_same (d : Tandem) : tdOf (putTd s hub d) hub = d := by
  have hshown : tdOf (showTd (setTd s hub d) hub) hub = d := (tdOf_congr showTd_tandems).trans (tdOf_setTd_same d)
  unfold putTd
  dsimp only
  split
  · exact hshown
  · exact (tdOf_congr (gateChanged_tandems _)).trans hshown

/-- A change of role leaves the token. -/
@[simp] theorem token_enterRole (role : Nat) (gate : Bool) : (tdOf (enterRole role gate s hub) hub).token = (tdOf s hub).token := by
  unfold enterRole
  dsimp only
  split
  · rw [tdOf_putTd_same]
  · have hpages (u : State) (cts : Nat) (p : Prop) [Decidable p] :
        (if p then hwEvent (fireTrigger (hwEvent u hub .tandemLane 0) hub 9 cts) hub .tandemLane 5
          else fireTrigger (hwEvent u hub .tandemLane 0) hub 9 cts).tandems = u.tandems := by
      simp [apply_ite State.tandems]
    rw [tdOf_congr (hpages ..), tdOf_putTd_same]

/-- The token with which a module takes the lease (R462): the next epoch, or the seconds of its counter where those are higher. -/
def takenToken (s : State) (hub : Nat) : Token :=
  ⟨max ((tdOf s hub).token.epoch + 1) ((ctr s hub).sec % 2 ^ 32 * 2 ^ 32) % 2 ^ 64, tdModule s hub, taiNs s hub + leaseNs s hub,
    true, s.now⟩

@[simp] theorem tdRecord_tandems : (tdRecord s hub n).tandems = s.tandems :=
  (onlyPages_tickPage.trans (onlyPages_eventRec ..)).onlyRegs.tandems

/-- The change of role, the register and the record that follow leave the token as it was taken. -/
theorem token_takeLease : (tdOf (takeLease s hub) hub).token = takenToken s hub := by
  unfold takeLease
  dsimp only
  rw [tdOf_congr tdRecord_tandems, tdOf_congr (wr_tandems ..), token_enterRole, tdOf_setTd_same, takenToken]

/-- Settles O48: the taken token's epoch is the higher of two numbers of 64 bits, one of them past the epoch known. -/
theorem leaseEpochRises : Obligations.LeaseEpochRises := by
  intro s hub old sec hold k
  have hk : k = takenToken s hub := token_takeLease
  have hsec : sec < 2 ^ 64 := by omega
  have hepoch : k.epoch = max (old + 1) sec := by
    rw [hk]
    exact Nat.mod_eq_of_lt (by omega)
  refine ⟨hepoch, by omega, ?_, ?_, ?_⟩
  all_goals
    rw [hk]
    rfl

/-! ### The events of the Tandem lane -/

/-- Settles O23: each row's answer, for a frame where the lane takes it and for a beacon where one stands first at P15. -/
theorem tandemEventsComplete : Obligations.TandemEventsComplete := by
  refine ⟨fun _ _ => rfl, ?_, fun _ _ => rfl, fun _ _ => rfl, fun _ _ => rfl, fun _ _ => rfl, fun _ _ => rfl, fun _ _ => rfl,
    fun _ _ => rfl, ?_, ?_⟩
  · intro s
    show execTandemInputExchange s = _
    rw [execTandemInputExchange]
    exact (apply_ite Host.Outcome.next ..).symm
  · intro hub f s hrun hup hrole st s1 p good
    have hgo : exec (.tandemSegmentRx hub f) s = .next (causedBy st.cts (fun u =>
        if good then
          let c := checkSegment u hub st.cts f
          if c.2 then joinSegment c.1 hub (rxFld p 4 4) (rxFld p 8 2) (rxFld p 10 2) (p.drop 16) else rxBad c.1 hub
        else rxBad u hub) s1) := if_pos (by simp [hrun, hup, hrole])
    refine ⟨fun hbad => hgo.trans ?_, fun hgood => hgo.trans ?_⟩
    · simp only [hbad, Bool.false_eq_true, if_false]
    · simp only [hgood, if_true]
  · intro hub x s hx hrun
    show execBeaconRx hub s = _
    simp only [execBeaconRx, hx, hrun, if_true]
    exact (apply_ite Host.Outcome.next ..).symm

end Sys2Proof.Machine
end
section
/-!
PROOFS of the statement of the degraded level's, the Coaster's and the trip lines' events (R430 to R433, R436, R440, R441, R449,
R450).
-/
namespace Sys2Proof.Machine

/-- Settles O22: each row's answer where its condition holds. -/
theorem tripEventsComplete : Obligations.TripEventsComplete := by
  refine ⟨?_, ?_, ?_, ?_, ?_, ?_, ?_, ?_, ?_⟩
  · intro die s hdie hp
    exact if_pos (by simp [hdie, hp])
  · intro die hub s hp hrun hrunh hhub hph hne halive
    exact (if_pos (by simp [hp, hrun, hrunh, hhub, hph, hne])).trans (if_pos halive)
  · intro hub s hhub hp hrun
    refine ⟨congrArg _ (if_pos (by simp [hhub, hp, hrun])), ?_, ?_, ?_, ?_⟩
    · dsimp only
      intro q hq hdue
      show execDlHoldExpiry hub s = _
      simp only [execDlHoldExpiry, hhub, hp, hrun, hq, hdue, Bool.and_self, if_true]
    · intro q hq hdue
      show execSwAliveTimeout hub s = _
      simp only [execSwAliveTimeout, hhub, hp, hrun, hq, hdue, decide_true, Bool.and_self, if_true]
    · intro lane hlane hmode hdown hdue
      exact if_pos (by simp [hhub, hp, hrun, hlane, hmode, hdown, hdue])
    · intro hmaster hdue
      exact if_pos (by simp [hhub, hp, hrun, hmaster, hdue])
  · intro hub s hhub hload hrun hboot
    exact congrArg _ (if_pos (by simp [hhub, hload, hrun, hboot]))
  · intro hub zone start s hbf hrun hdone hdue
    show execBfTimerExpiry hub zone s = _
    simp only [execBfTimerExpiry, hbf]
    rw [if_pos (by simp [hrun, hdone, hdue])]
    simp only [Bool.and_eq_true, Bool.or_eq_true, decide_eq_true_eq]
    exact (apply_ite Host.Outcome.next ..).symm
  · intro hub frame f s hf hrun hon hused hdue
    show execGooseRepeat hub frame s = _
    simp only [execGooseRepeat, hf]
    exact if_pos (by simp [hrun, hon, hused, hdue])
  · intro hub bin age raw s hrun hbin
    dsimp only
    intro hlevel hdue
    exact if_pos (by simp [hrun, hbin, hdue, hlevel])
  · intro hub line level s hrun hline hsense
    exact if_pos (by simp [hrun, hline, hsense])
  · intro hub line s hrun hline
    dsimp only
    refine ⟨?_, ?_, ?_, ?_, ?_⟩
    · intro hon hfail hsense hdue
      refine (if_pos (by simp [hrun, hline, hon])).trans ((if_pos hfail).trans (if_pos ?_))
      exact Bool.and_eq_true_iff.2 ⟨hsense, decide_eq_true hdue⟩
    · intro hon hfail hdrive hsense hfree hdue
      refine (if_pos (by simp [hrun, hline, hon])).trans ((if_neg (by simp [hfail])).trans (if_pos ?_))
      exact Bool.and_eq_true_iff.2 ⟨by simp [hdrive, hsense, hfree], decide_eq_true hdue⟩
    · intro hon hdrive hseen hnone hdue
      exact if_pos (by simp [hrun, hline, hon, hdrive, hseen, hnone, hdue])
    · intro hsettled hdrive hfault
      exact (if_pos (by simp [hrun, hline, hsettled])).trans (if_pos (by simp [hdrive, hfault]))
    · intro bad hsettled hfault hgone
      refine (if_pos (by simp [hrun, hline, hsettled])).trans ((if_neg (by simp [hfault])).trans (if_pos ?_))
      simpa [hfault] using hgone

end Sys2Proof.Machine
end
section
/-!
PROOFS of the key vault's statements: a sealed vault answers TAMPER (R505), and the vault's events complete (R481, R490, R493,
R496 to R499, R503).
-/
namespace Sys2Proof.Machine

variable {s t : State} {c : Cmd} {op : Nat} {i : Cmd → Instr}

/-! ### A vault that answers TAMPER (R505) -/

theorem OnlyRegs.roots (h : OnlyRegs s t) : t.roots = s.roots := by
  obtain ⟨_, _, _, _, _, _, _, _, _, _, _, rfl⟩ := onlyRegs_iff.1 h
  rfl

theorem OnlyRegs.vaults (h : OnlyRegs s t) : t.vaults = s.vaults := by
  obtain ⟨_, _, _, _, _, _, _, _, _, _, _, rfl⟩ := onlyRegs_iff.1 h
  rfl

/-- In SEALED and ALARM the grant of a key's use is counted and answered with TAMPER. -/
theorem keyGrant_of_sealedUse {x : Ctx} (h : sealedUse t (keyArgs t x.loc x.blk x.who.ini x.sub x.argument) op = true) :
    keyGrant x op t = ⟨incr t (keyArgs t x.loc x.blk x.who.ini x.sub x.argument).hub R.VT_TAMPER_REFUSE 0 1, .tamper, 0⟩ :=
  if_pos h

/-- A granted use of a key in SEALED or ALARM leaves TAMPER in CMD_RESULT and a count in VT_TAMPER_REFUSE. -/
theorem vaultCommand_answers_tamper (he : ∀ c s, exec (i c) s = keyCommand c op s) (hu : keyUse op = true) :
    let b := viewOr c .keyView .keyVault
    let x := ctxOf s c b op
    let hub := (keyArgs (acting s c b op) x.loc b c.who.ini x.sub x.argument).hub
    Grants s c b op (checksKey c.view.isSome op) → vaultState (acting s c b op) hub = 0 ∨ vaultState (acting s c b op) hub = 3 →
    After (i c) s fun t => (bank t (cmdLoc c b) b c.who.ini).cmdResult = resultWord x.seq .tamper 0 ∧
      OnlyRegs s t ∧ t.keys = s.keys ∧ t.roots = s.roots ∧ t.vaults = s.vaults ∧
      rd t hub R.VT_TAMPER_REFUSE 0 = (rd s hub R.VT_TAMPER_REFUSE 0 + 1) % 2 ^ regBits R.VT_TAMPER_REFUSE := by
  intro b x hub hg hst
  have hact : OnlyPages s (acting s c b op) := onlyPages_acting c op
  have heff : keyGrant x op (acting s c b op) = ⟨incr (acting s c b op) hub R.VT_TAMPER_REFUSE 0 1, .tamper, 0⟩ := by
    refine keyGrant_of_sealedUse ?_
    simp only [sealedUse, hu, Bool.true_and, Bool.or_eq_true, beq_iff_eq]
    exact hst
  have hans : OnlyPages (incr (acting s c b op) hub R.VT_TAMPER_REFUSE 0 1)
      (settled s (answered x ⟨incr (acting s c b op) hub R.VT_TAMPER_REFUSE 0 1, .tamper, 0⟩)) :=
    onlyPages_settled (onlyPages_answered ..)
  have hregs := hact.onlyRegs.trans ((onlyRegs_incr (inst := 0) (loc := hub) R.VT_TAMPER_REFUSE 1).trans hans.onlyRegs)
  refine ⟨_, (he c s).trans (command_granted hg), ?_⟩
  dsimp only
  rw [show keyGrant (ctxOf s c (viewOr c .keyView .keyVault) op) op _ = _ from heff]
  refine ⟨bank_answered x _, hregs, hregs.keys, hregs.roots, hregs.vaults, ?_⟩
  rw [rd_congr hans.regs, incr, rd_wr_same, rd_congr hact.regs]

/-- Settles O53: each of these rows is a vault command whose opcode uses a key. -/
theorem sealedVaultAnswersTamper : Obligations.SealedVaultAnswersTamper := by
  intro i op hrow c s
  have hkey : (∀ c s, exec (i c) s = keyCommand c op s) ∧ keyUse op = true := by
    simp only [List.mem_cons, List.not_mem_nil, or_false, Prod.mk.injEq] at hrow
    rcases hrow with ⟨rfl, rfl⟩ | ⟨rfl, rfl⟩ | ⟨rfl, rfl⟩ | ⟨rfl, rfl⟩ | ⟨rfl, rfl⟩ | ⟨rfl, rfl⟩ | ⟨rfl, rfl⟩ | ⟨rfl, rfl⟩ |
      ⟨rfl, rfl⟩ | ⟨rfl, rfl⟩ | ⟨rfl, rfl⟩ | ⟨rfl, rfl⟩
    all_goals exact ⟨fun _ _ => rfl, rfl⟩
  exact vaultCommand_answers_tamper hkey.1 hkey.2

/-! ### The events of the key vault -/

/-- Settles O24: each row's answer where its condition holds. -/
theorem vaultEventsComplete : Obligations.VaultEventsComplete := by
  refine ⟨?_, ?_, ?_, ?_, ?_, ?_, ?_, ?_⟩
  · intro hub j rest s hj hrun
    show execVaultCommandEnd hub s = _
    simp only [execVaultCommandEnd, hj]
    exact if_neg (by simp [hrun])
  · intro hub c s hc hdue
    show execUnsealChallengeExpiry hub s = _
    simp only [execUnsealChallengeExpiry, hc]
    exact congrArg _ (if_pos hdue)
  · intro hub slot n s hn hrun hopen hloaded hafter hvalid hdue
    show execKeyPromotion hub slot s = _
    simp only [execKeyPromotion, hn]
    exact if_pos (by simp [hrun, hopen, hloaded, hafter, hvalid, hdue])
  · intro hub s hrun
    exact if_pos hrun
  · intro die sensor s hacts
    exact if_pos hacts
  · intro hub s hz
    exact if_pos hz
  · intro s hrun htrng
    exact if_pos (by simp [hrun, htrng])
  · intro response s hrun hfails
    refine (if_pos (by simp [hrun, hfails])).trans ?_
    simp only [apply_ite (putVault s (debugHub s)), apply_ite Host.Outcome.next]


end Sys2Proof.Machine
end
section
/-!
PROOFS of the statements of reset and start-up: software releases no domain without lock (R520), and the events of reset,
release and start-up complete (R513, R514, R516, R518, R519, R521, R522, R524, R525, R529, R530, R537).
-/
namespace Sys2Proof.Machine

variable {s t : State} {c : Cmd} {op : Nat}

/-! ### Software does not release a domain without lock (R520) -/

/-- SWR_RELEASE and SWR_PULSE of a domain whose island is not lock-stable fail the check of state alone. -/
theorem swrChecks_fails {d : Nat}
    (hauth : (swrChecks true s (ctxOf s c .resetKs op)).auth = true ∨ c.who.ini = 127)
    (hidle : (hdr s (cmdLoc c .resetKs) .resetKs).running = [])
    (hd : d ∈ maskDoms ((bank s (cmdLoc c .resetKs) .resetKs c.who.ini).cmdArg % 8192 / 2 * 2))
    (hlock : domStable (locDie (cmdLoc c .resetKs)) (rstOf s (locDie (cmdLoc c .resetKs))) d = false) :
    ((swrChecks true s (ctxOf s c .resetKs op)).for c.who).fails = some .illegalState := by
  have ⟨_, _, _, hillegal, _⟩ := fails_iff ((swrChecks true s (ctxOf s c .resetKs op)).for c.who)
  refine hillegal.2 ⟨rfl, ?_, ?_, ?_⟩
  · simpa [Checks.for, isLoader] using hauth
  · exact List.isEmpty_iff.2 hidle
  · exact List.all_eq_false.2 ⟨d, hd, ne_true_of_eq_false hlock⟩

/-- Settles O51: the check of lock refuses both commands, and a refusal changes pages alone. -/
theorem unlockedDomainIsNotReleased : Obligations.UnlockedDomainIsNotReleased := by
  intro c s d hg hauth hidle hd hlock
  have hrefused (op : Nat) (eff : Ctx → State → Effect) : ∃ t, command s c .resetKs op (swrChecks true) eff = .next t ∧
      OnlyPages s t ∧ t.rst = s.rst ∧ (bank t (cmdLoc c .resetKs) .resetKs c.who.ini).cmdResult =
        resultWord (((hdr s (cmdLoc c .resetKs) .resetKs).seq + 1) % 65536) .illegalState 0 := by
    obtain ⟨t, ht, hpages, hbank, -⟩ := refusedCommandHasNoSideEffect.2 s c .resetKs op (swrChecks true) eff .illegalState hg
      (swrChecks_fails (hauth op) hidle hd hlock)
    exact ⟨t, ht, hpages, hpages.rst, congrArg Bank.cmdResult hbank⟩
  exact ⟨hrefused 0x11 effectSwrRelease, hrefused 0x12 effectSwrPulse⟩

variable {u : State}

/-! ### What POR leaves (R514) -/

/-- The controller of a die while POR stands: what the pins and the rails hold, and the islands' locks, stay. -/
def porRst (r : ResetSt) : ResetSt := { ResetSt.por with
  holds := [8191, r.holds[1]?.getD 0, r.holds[2]?.getD 0, 0, 0, 0, 0, 0], lostAt := r.lostAt, locks := r.locks, refclk := r.refclk
  poweredOff := r.poweredOff }

/-- No domain of any die runs. -/
def Dark (s : State) : Prop := ∀ die dom, domRun s die dom = false

/-- All of a state but its registers, its lines with the free levels drawn for them, and the edges on their way to capture stands
as it was. -/
def OnlyLines (s t : State) : Prop := t = { s with regs := t.regs, lines := t.lines, free := t.free, capIns := t.capIns }

theorem onlyLines_iff : OnlyLines s t ↔ ∃ g l f c, t = { s with regs := g, lines := l, free := f, capIns := c } :=
  ⟨fun e => ⟨_, _, _, _, e⟩, fun ⟨_, _, _, _, e⟩ => by subst e; rfl⟩

theorem OnlyLines.refl : OnlyLines s s := rfl

theorem OnlyLines.trans (h : OnlyLines s t) (k : OnlyLines t u) : OnlyLines s u := by
  obtain ⟨_, _, _, _, rfl⟩ := onlyLines_iff.1 h
  obtain ⟨_, _, _, _, rfl⟩ := onlyLines_iff.1 k
  rfl

theorem OnlyLines.dark (h : OnlyLines s t) (hs : Dark s) : Dark t := by
  obtain ⟨_, _, _, _, rfl⟩ := onlyLines_iff.1 h
  exact hs

/-- A fold of steps that change lines alone where no domain runs. -/
theorem onlyLines_foldl {α : Type} {f : State → α → State} (hf : ∀ u a, Dark u → OnlyLines u (f u a)) :
    ∀ (l : List α) (s : State), Dark s → OnlyLines s (l.foldl f s)
  | [], _, _ => .refl
  | a :: l, s, hs => (hf s a hs).trans (onlyLines_foldl hf l (f s a) ((hf s a hs).dark hs))

theorem onlyLines_wr (loc : Nat) (r : Reg) (inst v : Nat) : OnlyLines s (wr s loc r inst v) := rfl

theorem onlyLines_putLine (hub n : Nat) (l : TripLine) : OnlyLines s (putLine s hub n l) := rfl

theorem onlyLines_pushEdge (hub kind i : Nat) (on : Bool) (cts : Nat) : OnlyLines s (pushEdge s hub kind i on cts) := rfl

/-- A line's change may be pushed to capture besides. -/
theorem OnlyLines.pushedUnless {P : Prop} [Decidable P] {hub kind i cts : Nat} {on : Bool} (h : OnlyLines s t) :
    OnlyLines s (if P then t else pushEdge t hub kind i on cts) := by
  split
  · exact h
  · exact h.trans (onlyLines_pushEdge ..)

theorem onlyLines_showReset (die : Nat) (hs : Dark s) : OnlyLines s (showReset s die) :=
  have hshown : OnlyLines s (wrAll s die 0 _) := onlyLines_foldl (fun _ _ _ => onlyLines_wr ..) _ s hs
  hshown.trans (onlyLines_foldl (fun _ _ _ => onlyLines_wr ..) _ _ (hshown.dark hs))

theorem fireTrigger_of_dark (hs : Dark s) (h code cause : Nat) : fireTrigger s h code cause = s :=
  if_neg (by simp [hs h 0])

theorem showLines_of_dark (hs : Dark s) (hub : Nat) : showLines s hub = s := if_neg (by simp [hs hub 9])

/-- A line that changes where no domain runs fires no trigger and shows in no register. -/
theorem onlyLines_refreshLine (hub n : Nat) (hs : Dark s) : OnlyLines s (refreshLine hub s n) := by
  have hdrawn (d : Option Bool) (l : TripLine) : OnlyLines s (putLine (if d = none then drew s else s) hub n l) := by
    split <;> rfl
  unfold refreshLine
  dsimp only
  simp only [hs hub 9, Bool.not_false, if_true, fireTrigger_of_dark ((hdrawn _ _).dark hs), ite_self]
  by_cases hdrive : lineDrive s hub n = (lineOf s hub n).drive
  · rw [if_pos hdrive]
    exact onlyLines_putLine ..
  · rw [if_neg hdrive]
    exact (hdrawn ..).pushedUnless

theorem onlyLines_refreshAll (hs : Dark s) : OnlyLines s (refreshAll s) :=
  onlyLines_foldl (fun u hub hu => by
    have hlines : OnlyLines u ((List.range 8).foldl (refreshLine hub) u) :=
      onlyLines_foldl (fun _ n hv => onlyLines_refreshLine hub n hv) _ u hu
    rw [refreshLines, showLines_of_dark (hlines.dark hu)]
    exact hlines) _ s hs

/-- Setting the controllers of dies, one after the other, changes the map of the controllers alone. -/
theorem foldl_setRst (f : Nat → ResetSt) (l : List Nat) (s : State) :
    l.foldl (fun t d => setRst t d (f d)) s = { s with rst := l.foldl (fun m d => mput d (f d) m) s.rst } := by
  induction l generalizing s with
  | nil => rfl
  | cons a l ih => exact ih _

theorem mget_foldl_mput (f : Nat → ResetSt) (l : List Nat) (m : Map ResetSt) (d : Nat) :
    mget ResetSt.por (l.foldl (fun m d => mput d (f d) m) m) d = if d ∈ l then f d else mget ResetSt.por m d := by
  induction l generalizing m with
  | nil => simp
  | cons a l ih =>
    rw [List.foldl_cons, ih]
    by_cases ha : d = a
    · simp [ha]
    · simp [ha, mget_mput_ne _ _ ha]

/-- Where every controller is that of a die under POR, no domain runs. -/
theorem dark_of_por (h : ∀ d, rstOf s d = ResetSt.por ∨ ∃ r, rstOf s d = porRst r) : Dark s := by
  have hheld {r : ResetSt} (hr : r.holds.head? = some 8191) : bit (heldMask r) 0 = true := by
    obtain ⟨l, hl⟩ := List.head?_eq_some_iff.1 hr
    rw [bit_heldMask, hl]
    simp [bit]
  intro die dom
  have hpor : (rstOf s die).released = 0 ∧ bit (heldMask (rstOf s die)) 0 = true := by
    rcases h die with hr | ⟨r, hr⟩
    all_goals
      rw [hr]
      exact ⟨rfl, hheld rfl⟩
  obtain ⟨hreleased, hzero⟩ := hpor
  have hbit : bit (rstOf s die).released dom = false := hreleased ▸ Nat.zero_testBit dom
  simp [domRun, hzero, hbit]

/-- POR resets the dies' controllers in a state `u` that keeps only what no reset clears, and shows them. -/
theorem exec_porAssert (s : State) : ∃ u : State, u.rst = [] ∧ u.pending = s.pending ∧ u.variant = s.variant ∧ u.roots = s.roots ∧
    u.flashes = s.flashes ∧ u.keys = [] ∧ u.ctrs = [] ∧ u.hdrs = [] ∧ u.banks = [] ∧
    u.mem = s.mem.filter (fun c => decide (dramBase 0 ≤ c.1)) ∧ ∃ l : List Nat, exec .porAssert s =
      .next (refreshAll (l.foldl showReset ((diesOf s).foldl (fun t d => setRst t d (porRst (rstOf s d))) u))) := by
  refine ⟨_, ?_, ?_, ?_, ?_, ?_, ?_, ?_, ?_, ?_, ?_, _, rfl⟩
  all_goals rfl

/-- Nothing runs under POR, so the lines and registers that show the controllers are all that still change. -/
theorem porAssert_resets (s : State) : After .porAssert s fun t =>
    t.pending = s.pending ∧ t.variant = s.variant ∧ t.roots = s.roots ∧ t.flashes = s.flashes ∧ t.keys = [] ∧ t.ctrs = [] ∧
    t.hdrs = [] ∧ t.banks = [] ∧ t.mem = s.mem.filter (fun c => decide (dramBase 0 ≤ c.1)) ∧
    ∀ d ∈ diesOf s, (rstOf t d).holds = [8191, (rstOf s d).holds[1]?.getD 0, (rstOf s d).holds[2]?.getD 0, 0, 0, 0, 0, 0] ∧
      ∀ dom, domRun t d dom = false := by
  obtain ⟨u, hrst, hpending, hvariant, hroots, hflashes, hkeys, hctrs, hhdrs, hbanks, hmem, l, he⟩ := exec_porAssert s
  refine ⟨_, he, ?_⟩
  rw [foldl_setRst (fun d => porRst (rstOf s d)), hrst]
  have hpor (d : Nat) : mget ResetSt.por ((diesOf s).foldl (fun m d => mput d (porRst (rstOf s d)) m) []) d =
      if d ∈ diesOf s then porRst (rstOf s d) else ResetSt.por := mget_foldl_mput ..
  have hdark : Dark { u with rst := (diesOf s).foldl (fun m d => mput d (porRst (rstOf s d)) m) [] } := by
    refine dark_of_por fun d => ?_
    rw [rstOf, hpor]
    split
    · exact .inr ⟨_, rfl⟩
    · exact .inl rfl
  have hshown := onlyLines_foldl (fun _ die hv => onlyLines_showReset die hv) l _ hdark
  have hlines := hshown.trans (onlyLines_refreshAll (hshown.dark hdark))
  have hdone := hlines.dark hdark
  obtain ⟨_, _, _, _, ht⟩ := onlyLines_iff.1 hlines
  rw [ht] at hdone ⊢
  refine ⟨hpending, hvariant, hroots, hflashes, hkeys, hctrs, hhdrs, hbanks, hmem, fun d hd => ⟨?_, hdone d⟩⟩
  rw [rstOf, hpor, if_pos hd]
  rfl

/-! ### The other events of reset, release and start-up -/

/-- A source that covers a die asserts where AON runs, and otherwise holds in its controller alone. -/
theorem coverSource_of_present {die : Nat} (hp : present s die = true) (src mask : Nat) :
    coverSource s die src mask = if domRun s die 0 then assertSource s die src mask
      else setRst s die (holdRst die (rstOf s die) src mask s.now) := by
  simp [coverSource, hp]

/-- A pulse of a source ends once its time has passed, and none ends before. -/
theorem endPulse_of_find {die src time : Nat} {p : Pulse}
    (h : (rstOf s die).pulses.find? (fun p => p.src == src && decide (p.at_ + time ≤ s.now)) = some p) :
    endPulse s die src time = putRst s die { rstOf s die with pulses := (rstOf s die).pulses.erase p } := by
  simp only [endPulse, h]

theorem endPulse_of_early {die src time : Nat} (h : ∀ p ∈ (rstOf s die).pulses, p.src = src → s.now < p.at_ + time) :
    endPulse s die src time = s := by
  have hnone : (rstOf s die).pulses.find? (fun p => p.src == src && decide (p.at_ + time ≤ s.now)) = none := by
    simpa using h
  simp only [endPulse, hnone]

/-- Settles O25: each row's answer where its condition holds. -/
theorem resetEventsComplete : Obligations.ResetEventsComplete := by
  refine ⟨porAssert_resets, ?_, ?_, ?_, ?_, fun _ => rfl, fun _ => ⟨rfl, rfl, rfl, rfl⟩, ?_, ?_, ?_, ?_, ?_, ?_, ?_⟩
  · intro die s hp
    have hkept : present (loseSram s die) die = true := hp
    show execBorAssert die s = _
    rw [execBorAssert, if_pos hp, coverSource_of_present hkept]
  · exact fun _ => rfl
  · intro die island s hisland hlock
    dsimp only
    intro hwait
    have hdue : ((walkPos die (rstOf s die) == islandDom island && (rstOf s die).gapDone && mayGap die (rstOf s die) &&
          decide ((rstOf s die).gapAt + 2000000 ≤ s.now)) ||
        (domUp (rstOf s die) (islandDom island) && bit (rstOf s die).notReady (islandDom island) &&
          !(bit (rstOf s die).forced (islandDom island)) &&
          decide (((rstOf s die).lostAt[island]?.getD 0) + 2000000 ≤ s.now))) = true := by
      simpa [and_assoc] using hwait
    show execLockWaitExpiry die island s = _
    simp only [execLockWaitExpiry, hisland, hlock, hdue, Bool.not_false, Bool.and_self, if_true]
  · intro die s hrun hon hdue
    exact if_pos (by simp [hrun, hon, hdue])
  · intro die s
    refine ⟨fun hoff => congrArg _ (if_neg (by simp [hoff])), ?_, ?_, ?_⟩
    · intro src time hsrc ends
      have hends {t : State} (h : endPulse s die src time = t) : ends t := by
        rcases hsrc with ⟨rfl, rfl⟩ | ⟨rfl, rfl⟩ | ⟨rfl, rfl⟩
        · exact ⟨fun _ => congrArg _ h, by simp, by simp⟩
        · exact ⟨by simp, fun _ => congrArg _ h, by simp⟩
        · exact ⟨by simp, by simp, fun _ => congrArg _ h⟩
      exact ⟨fun p hp => hends (endPulse_of_find hp), fun h => hends (endPulse_of_early h)⟩
    · intro hp hmay hdone hgap
      exact if_pos (by simp [hp, hmay, hdone, hgap])
    · intro hp r
      exact ⟨fun hclk => congrArg _ (if_pos (by simp [hp, r, hclk])), fun hclk => congrArg _ (if_pos (by simp [hp, r, hclk]))⟩
  · intro die island s hisland
    exact ⟨if_pos hisland, if_pos hisland⟩
  · intro hub s hhub hrun hopt
    exact if_pos (by simp [hhub, hrun, hopt])
  · intro die s hhub hrun hopt
    have hgo : (!(isHub die) && domRun s die 1 && !(rstOf s die).optDone) = true := by simp [hhub, hrun, hopt]
    refine ⟨fun hlate => (if_pos hgo).trans (congrArg _ (if_pos hlate)), fun h hh hp hhrun hhopt hserves => ?_⟩
    exact (if_pos hgo).trans (if_pos (by simpa [hh, hp, hhrun, hhopt, or_assoc] using hserves))
  · intro hub s hhub hload hrun hboot
    exact congrArg _ (if_pos (by simp [hhub, hload, hrun, hboot]))
  · intro hub k s hk
    show execPinFuseDone hub s = _
    simp only [execPinFuseDone, hk]
  · intro hub k rest s hk
    refine ⟨fun hop hlate => ?_, fun hop hlate => ?_, fun hop ok => ?_, fun ok hop hfails => ?_⟩
    · show execXbOperationDone hub true s = _
      simp [execXbOperationDone, hk, hop, hlate, b2n]
    · show execXbOperationDone hub true s = _
      simp [execXbOperationDone, hk, hop, hlate, b2n]
    · show execXbOperationDone hub ok s = _
      simp [execXbOperationDone, hk, hop, b2n]
    · have hbad : ((ok && !(xbLate s hub k)) || k.op == 0x10) = false := by
        rcases hfails with h | h
        all_goals simp [hop, h]
      show execXbOperationDone hub ok s = _
      simp [execXbOperationDone, hk, hbad, b2n]

end Sys2Proof.Machine
end
section
/-!
PROOFS of the statements of the Mechanic's events (R540, R543, R545, R547, R550 to R552, R556, R558 to R560, R562) and of the
management port's requests (R539, R564).
-/
namespace Sys2Proof.Machine

variable {s t : State} {hub code : Nat} {m : MgReq} {serve : State → MgEnd} {r : Resp}

/-- Settles O26: each row's answer where its condition holds. -/
theorem mechanicEventsComplete : Obligations.MechanicEventsComplete := by
  refine ⟨?_, ?_, ?_, ?_, ?_, ?_, ?_, ?_, ?_, ?_, ?_, ?_⟩
  · intro die s hrun hruns hboot
    exact if_pos (by simp [hrun, hruns, hboot])
  · intro die at_ s hcand hlate
    show execCandidacyLapse die s = _
    simp only [execCandidacyLapse, hcand]
    exact congrArg _ (if_pos hlate)
  · intro hub s hhub hdue
    exact congrArg _ (if_pos (by simp [hhub, hdue]))
  · intro die k s hk hreleased
    show execDiePowerDone die s = _
    simp only [execDiePowerDone, hk]
    refine if_neg ?_
    rcases hreleased with h | h
    all_goals simp [h]
  · intro hub k s hk
    refine ⟨fun hop => ?_, fun hop => ?_, fun hdone hop => ?_, fun hdone hop => ?_⟩
    all_goals
      show execUpdOperationDone hub s = _
      simp only [execUpdOperationDone, hk, hop]
    · rfl
    · rfl
    · simp only [hdone]
      rfl
    · simp only [hdone]
      rfl
  · intro die samples rails s hrun hdue
    exact if_pos (by simp [hrun, hdue])
  · intro hub rail s hhub hrail hrun hon
    exact if_pos (by simp [hhub, hrail, hrun, hon])
  · intro hub s hhub
    exact congrArg _ (if_pos hhub)
  · intro hub line current s hhub hrun hline hon hdue
    exact if_pos (by simp [hhub, hrun, hline, hon, hdue])
  · intro hub up gig s hhub hrun hon
    dsimp only
    intro hne
    refine if_pos ?_
    have hport : (bit (rd s hub R.MG_CFG 0) 0 || !up) = true := by simpa using hon
    simp [hhub, hrun, hport, hne]
  · intro hub rail s hhub hrail hserves
    dsimp only
    intro hreports
    have hgo : (isHub hub && decide (rail < 16) && loopServes s hub rail &&
        indexReports s hub (fld (rd s hub R.RL_CFG rail) 18 16)) = true := by simp [hhub, hrail, hserves, hreports]
    refine ⟨fun hlow hago => ?_, fun hlow hhigh q hq hdwell hago => ?_⟩
    · show execAvsStep hub rail s = _
      rw [execAvsStep]
      dsimp only
      rw [if_pos hgo, if_pos hlow, if_pos hago, apply_ite Host.Outcome.next]
    · show execAvsStep hub rail s = _
      rw [execAvsStep]
      dsimp only
      rw [if_pos hgo, if_neg (by simp [hlow])]
      simp only [hhigh, if_true] at hq hago ⊢
      obtain rfl := Option.some.inj hq
      simp only [decide_eq_true hdwell, hago, Bool.and_self, if_true, apply_ite Host.Outcome.next]
  · intro hub e rest s hhub hrun hruns hlog
    refine (if_pos (by simp [hhub, hrun, hruns])).trans ?_
    simp only [hlog]

/-! ### The requests of the management port (R563, R564) -/

/-- What the core makes of a request that it has received: it acts in `t`, and afterwards the answer of the access that it made
is gone. -/
def mgServed (hub code : Nat) (m : MgReq) (serve : State → MgEnd) (r : Resp) (t : State) : State :=
  if !m.wellFormed then mgAnswer t hub code m 0xF []
  else if 0x10 ≤ code && vaultState t hub != 1 then mgAnswer t hub code m 5 []
  else if 0x10 ≤ code && !(mgTagOk t hub code m) then incr t hub R.MG_AUTH_FAIL 0 1
  else if mgReplay t hub m then incr t hub R.MG_REPLAY 0 1
  else
    let e := serve (mgKeep (if 0x10 ≤ code then useKey t hub (mgKey t hub) else t) hub m)
    { mgAnswer e.state hub code m e.status e.payload with resp := r }

/-- What a hub's core makes of a frame that the port receives while it runs stands between the frame's count and the cause's
return. -/
theorem mgReceived_of_runs (act : State → State) (hup : mgUp s hub = true) :
    let s0 := incr (tickSrc s hub 290) hub R.MG_RX_FRAMES 0 1
    let s1 := { s0 with cause := max s0.cause (stampOf s hub 290 0).cts }
    (mechOf s1 hub).runs = true →
    (if !(mgUp s hub) then .next s else .next (mgTakes s hub (fun t => if !(mechOf t hub).runs then t else act t)) : Out) =
      .next { act s1 with cause := s0.cause } := by
  intro s0 s1 hruns
  have hacts : ¬ (!(mechOf s1 hub).runs) = true := by simp [hruns]
  refine (if_neg (by simp [hup])).trans ?_
  show Host.Outcome.next { (ite _ _ _ : State) with cause := s0.cause } = _
  rw [if_neg hacts]

/-- What the core makes of a frame that may ask for the port's address or for an echo. -/
def mgEchoed (hub : Nat) (request : List Byte) (t : State) : State :=
  match arpReply t hub request with
  | some b => mgSend t hub (netField request 6 6) 0x0806 (b.length + 4) b
  | none => match echoReply t hub request with
    | some b => mgSend t hub (netField request 6 6) 0x0800 (b.length + 4) b
    | none => t

/-- A request that the port receives while its core runs is served. -/
theorem mgServe_of_runs (hup : mgUp s hub = true) :
    let s0 := incr (tickSrc s hub 290) hub R.MG_RX_FRAMES 0 1
    let s1 := { s0 with cause := max s0.cause (stampOf s hub 290 0).cts }
    (mechOf s1 hub).runs = true →
    mgServe hub code m serve s = .next { mgServed hub code m serve s.resp s1 with cause := s0.cause } :=
  mgReceived_of_runs (mgServed hub code m serve s.resp) hup

theorem mgServed_of_malformed (h : m.wellFormed = false) : mgServed hub code m serve r t = mgAnswer t hub code m 0xF [] := by
  simp [mgServed, h]

theorem mgServed_of_sealed (h : m.wellFormed = true) (hc : 0x10 ≤ code) (hv : vaultState t hub ≠ 1) :
    mgServed hub code m serve r t = mgAnswer t hub code m 5 [] := by
  simp [mgServed, h, hc, hv]

theorem mgServed_of_wrong_tag (h : m.wellFormed = true) (hc : 0x10 ≤ code) (hv : vaultState t hub = 1)
    (ht : mgTagOk t hub code m = false) : mgServed hub code m serve r t = incr t hub R.MG_AUTH_FAIL 0 1 := by
  simp [mgServed, h, hc, hv, ht]

/-- A request that passes its checks is dropped where it repeats a sequence, and served otherwise. -/
theorem mgServed_of_passed (h : m.wellFormed = true) (hc : 0x10 ≤ code → vaultState t hub = 1 ∧ mgTagOk t hub code m = true) :
    mgServed hub code m serve r t = if mgReplay t hub m then incr t hub R.MG_REPLAY 0 1 else
      let e := serve (mgKeep (if 0x10 ≤ code then useKey t hub (mgKey t hub) else t) hub m)
      { mgAnswer e.state hub code m e.status e.payload with resp := r } := by
  have hopen : ¬ (decide (0x10 ≤ code) && vaultState t hub != 1) = true := by simpa using fun hcode => (hc hcode).1
  have htag : ¬ (decide (0x10 ≤ code) && !mgTagOk t hub code m) = true := by simpa using fun hcode => (hc hcode).2
  rw [mgServed, if_neg (by simp [h]), if_neg hopen, if_neg htag]

/-- Settles O27: each row is a request served by `mgServe` with what R564 says for its code, and the answers of ARP and ICMP are
sent where their requests name the port's address. -/
theorem managementPortCompletes : Obligations.ManagementPortCompletes := by
  unfold Obligations.ManagementPortCompletes
  intro answers
  have hserve {hub code : Nat} {m : MgReq} {i : Instr} {serve : State → MgEnd}
      (he : ∀ s, exec i s = mgServe hub code m serve s) : answers hub code m i serve := by
    intro s hup s0 s1 hruns ends
    have hgo {t : State} (ht : mgServed hub code m serve s.resp s1 = t) : ends t :=
      ht ▸ (he s).trans (mgServe_of_runs hup hruns)
    refine ⟨fun h => hgo (mgServed_of_malformed h), fun h hc hv => hgo (mgServed_of_sealed h hc hv),
      fun h hc hv ht => hgo (mgServed_of_wrong_tag h hc hv ht), fun h hc => ⟨fun hold => ?_, fun hnew => ?_⟩⟩
    · exact hgo ((mgServed_of_passed h hc).trans (if_pos hold))
    · exact hgo ((mgServed_of_passed h hc).trans (if_neg (by simp [hnew])))
  clear_value answers
  refine ⟨fun _ _ => hserve fun _ => rfl, fun _ _ => hserve fun _ => rfl, fun _ _ => hserve fun _ => rfl,
    fun _ _ => hserve fun _ => rfl, fun _ _ => hserve fun _ => rfl, fun _ _ _ => hserve fun _ => rfl,
    fun _ _ _ => hserve fun _ => rfl, fun _ _ _ => hserve fun _ => rfl, fun _ _ _ _ => hserve fun _ => rfl,
    fun _ _ _ _ => hserve fun _ => rfl, ?_⟩
  · intro hub request s hup s0 s1 hruns ends
    have hgo {t : State} (ht : mgEchoed hub request s1 = t) : ends t := ht ▸ mgReceived_of_runs (mgEchoed hub request) hup hruns
    refine ⟨fun b harp => hgo ?_, fun b harp hecho => hgo ?_⟩
    · simp only [mgEchoed, harp]
    · simp only [mgEchoed, harp, hecho]

end Sys2Proof.Machine
end
